-- ==== Sys2Proof/Word.lean ====
section
/-! DEFINITION. The word types of Hjellor (spec/00_scope.md R13, R14; spec/01 R18, R21; spec/07 R180). -/
namespace Sys2Proof
set_option Elab.async false

/-- A 64-bit register word (R178). -/
abbrev Word := BitVec 64
/-- A byte (R13). -/
abbrev Byte := BitVec 8
/-- A register field of an instruction word (R289). -/
abbrev Reg := BitVec 5
/-- A physical hart of this device: die, cluster, core and slot, as HARTID bits [10:0] (R180). -/
abbrev HartId := BitVec 11
/-- A compute die, CD0 to CD7 (R1). -/
abbrev DieId := BitVec 3
/-- A 42-bit local address (R21). -/
abbrev LocalAddr := BitVec 42
/-- A 52-bit physical address (R21). -/
abbrev PhysAddr := BitVec 52

end Sys2Proof
end

