-- ==== Sys2Proof/Config.lean ====
section
/-! DEFINITION. What the spec leaves open, as constants without a body: nothing is known of their values. Each is a free value
of notes/assumptions/. -/
namespace Sys2Proof.Config
set_option Elab.async false

/-- Nanoseconds by which meridian time moves on in the n-th step of the device (spec/00 R7; timing is left out). -/
opaque elapsed : Nat → Nat
/-- The decryption, under a key, of the stored byte at an address whose line that key has not written; the stamp names the
stored line, and the last number counts the scrubs of its stack (spec/02 R58, R65). -/
opaque hbmByte : (key addr stamp scrub : Nat) → Byte
/-- The n-th free word, used where an instruction's result is undefined or not stated. -/
opaque freeWord : Nat → Word
/-- The n-th free choice between two allowed outcomes. -/
opaque freeBool : Nat → Bool
/-- The width at which `vsave` packs a register whose tag is reserved (spec/09 R256, spec/10 R262). -/
opaque reservedWidth : BitVec 4 → BitVec 6
/-- The value that an owner on another device returns for a word of a line, in the n-th step (spec/05 R126, R127). -/
opaque remoteWord : (owner line word tick : Nat) → BitVec 32
/-- What a byte of another device's memory holds in the n-th step, where this device wrote or read `held` there last: that device and others
write it too (spec/04 R106, spec/01 R21). -/
opaque remoteByte : (addr tick : Nat) → (held : Byte) → Byte
/-- The size in bytes of an SPDM response whose length the spec does not state, and its n-th byte (spec/21 R471). -/
opaque spdmByte : (request index : Nat) → Byte
/-- The number of bytes of the n-th SPDM response. -/
opaque spdmLength : Nat → BitVec 16
/-- The digest of the firmware public key that is fused in the trust die (spec/21 R465). -/
opaque firmwareKeyDigest : BitVec 384
/-- The bytes of DEVNUM and of the command's code that a signed mailbox request is preceded by (spec/21 R468, which does not give their form). -/
opaque signedHead : (dev : BitVec 10) → (code : BitVec 8) → List Byte
/-- The bytes of the eight owner keys and minima that measurement 7 digests (spec/21 R471, which does not give their form). -/
opaque keysBytes : List (Option (List Byte × BitVec 64)) → List Byte
/-- The unique device secret, fused at manufacture (spec/21 R465). -/
opaque deviceSecret : BitVec 256
/-- The derivation of the device identity key from the device secret (spec/21 R465, which does not give it). -/
opaque deriveIdentity : (secret : BitVec 256) → BitVec 384
/-- The derivation of the alias key from the identity key and measurements 1 and 2 (spec/21 R465, which does not give it). -/
opaque deriveAlias : (identity rom firmware : BitVec 384) → BitVec 384
/-- The bytes of the certificate chain in the non-volatile store: Ohmec root, intermediate, device identity, alias (spec/21 R465). -/
opaque certificates : (identity alternate : BitVec 384) → List Byte

/-- The measurement that block `n` reports after a cold boot of the images that the module was built with (spec/21 R462, R471). -/
opaque measured : Nat → BitVec 384
/-- The fused minimum security version of the trust-die firmware (spec/21 R462). -/
opaque minVersion : BitVec 64
/-- The VA of a code object's first byte, which the spec does not say how the device learns (spec/07 R191). -/
opaque objectBase : (handle : BitVec 64) → BitVec 64

end Sys2Proof.Config
end

