-- ==== Sys2Proof/Syntax.lean ====
section
/-! DEFINITION. The instruction syntax of Hjellor: one constructor per row of spec/opcode_table.json. The rows with an encoding
are Briofy instructions (spec/11 R287, R291) and carry the operand fields of their words. The rows without one are the steps
that the device's other agents and the outside world take (spec/95_what_each_step_holds.md); what the message, command or unit
of such a step names stands in `State.msg` when the step is taken. -/
namespace Sys2Proof
set_option Elab.async false

inductive Instr where
  /-- `ADD`, R310. -/
  | add (d : BitVec 5) (a : BitVec 5) (b : BitVec 5)
  /-- `SUB`, R310. -/
  | sub (d : BitVec 5) (a : BitVec 5) (b : BitVec 5)
  /-- `AND`, R310. -/
  | and (d : BitVec 5) (a : BitVec 5) (b : BitVec 5)
  /-- `OR`, R310. -/
  | or (d : BitVec 5) (a : BitVec 5) (b : BitVec 5)
  /-- `XOR`, R310. -/
  | xor (d : BitVec 5) (a : BitVec 5) (b : BitVec 5)
  /-- `ANDN`, R310. -/
  | andn (d : BitVec 5) (a : BitVec 5) (b : BitVec 5)
  /-- `SLL`, R310. -/
  | sll (d : BitVec 5) (a : BitVec 5) (b : BitVec 5)
  /-- `SRL`, R310. -/
  | srl (d : BitVec 5) (a : BitVec 5) (b : BitVec 5)
  /-- `SRA`, R310. -/
  | sra (d : BitVec 5) (a : BitVec 5) (b : BitVec 5)
  /-- `ROL`, R310. -/
  | rol (d : BitVec 5) (a : BitVec 5) (b : BitVec 5)
  /-- `SLT`, R310. -/
  | slt (d : BitVec 5) (a : BitVec 5) (b : BitVec 5)
  /-- `SLTU`, R310. -/
  | sltu (d : BitVec 5) (a : BitVec 5) (b : BitVec 5)
  /-- `MIN`, R310. -/
  | min (d : BitVec 5) (a : BitVec 5) (b : BitVec 5)
  /-- `MAX`, R310. -/
  | max (d : BitVec 5) (a : BitVec 5) (b : BitVec 5)
  /-- `MINU`, R310. -/
  | minu (d : BitVec 5) (a : BitVec 5) (b : BitVec 5)
  /-- `MAXU`, R310. -/
  | maxu (d : BitVec 5) (a : BitVec 5) (b : BitVec 5)
  /-- `CLZ`, R311. -/
  | clz (d : BitVec 5) (a : BitVec 5)
  /-- `CTZ`, R311. -/
  | ctz (d : BitVec 5) (a : BitVec 5)
  /-- `POPC`, R311. -/
  | popc (d : BitVec 5) (a : BitVec 5)
  /-- `ADDI`, R312. -/
  | addi (d : BitVec 5) (a : BitVec 5) (i : BitVec 16)
  /-- `ANDI`, R312. -/
  | andi (d : BitVec 5) (a : BitVec 5) (i : BitVec 16)
  /-- `ORI`, R312. -/
  | ori (d : BitVec 5) (a : BitVec 5) (i : BitVec 16)
  /-- `XORI`, R312. -/
  | xori (d : BitVec 5) (a : BitVec 5) (i : BitVec 16)
  /-- `SLLI`, R313. -/
  | slli (d : BitVec 5) (a : BitVec 5) (n : BitVec 6)
  /-- `SRLI`, R313. -/
  | srli (d : BitVec 5) (a : BitVec 5) (n : BitVec 6)
  /-- `SRAI`, R313. -/
  | srai (d : BitVec 5) (a : BitVec 5) (n : BitVec 6)
  /-- `SLTI`, R312. -/
  | slti (d : BitVec 5) (a : BitVec 5) (i : BitVec 16)
  /-- `SLTIU`, R312. -/
  | sltiu (d : BitVec 5) (a : BitVec 5) (i : BitVec 16)
  /-- `LIH`, R314. -/
  | lih (d : BitVec 5) (i : BitVec 21)
  /-- `PCREL`, R314. -/
  | pcrel (d : BitVec 5) (i : BitVec 21)
  /-- `LD_B`, R317. -/
  | ldB (d : BitVec 5) (a : BitVec 5) (o : BitVec 13)
  /-- `LD_BU`, R317. -/
  | ldBu (d : BitVec 5) (a : BitVec 5) (o : BitVec 13)
  /-- `LD_H`, R317. -/
  | ldH (d : BitVec 5) (a : BitVec 5) (o : BitVec 13)
  /-- `LD_HU`, R317. -/
  | ldHu (d : BitVec 5) (a : BitVec 5) (o : BitVec 13)
  /-- `LD_W`, R317. -/
  | ldW (d : BitVec 5) (a : BitVec 5) (o : BitVec 13)
  /-- `LD_WU`, R317. -/
  | ldWu (d : BitVec 5) (a : BitVec 5) (o : BitVec 13)
  /-- `LD_D`, R317. -/
  | ldD (d : BitVec 5) (a : BitVec 5) (o : BitVec 13)
  /-- `ST_B`, R317. -/
  | stB (d : BitVec 5) (a : BitVec 5) (o : BitVec 13)
  /-- `ST_H`, R317. -/
  | stH (d : BitVec 5) (a : BitVec 5) (o : BitVec 13)
  /-- `ST_W`, R317. -/
  | stW (d : BitVec 5) (a : BitVec 5) (o : BitVec 13)
  /-- `ST_D`, R317. -/
  | stD (d : BitVec 5) (a : BitVec 5) (o : BitVec 13)
  /-- `LDA_W`, R323. -/
  | ldaW (d : BitVec 5) (a : BitVec 5) (s : BitVec 2) (o : BitVec 11)
  /-- `LDA_D`, R323. -/
  | ldaD (d : BitVec 5) (a : BitVec 5) (s : BitVec 2) (o : BitVec 11)
  /-- `STL_W`, R323. -/
  | stlW (d : BitVec 5) (a : BitVec 5) (s : BitVec 2) (o : BitVec 11)
  /-- `STL_D`, R323. -/
  | stlD (d : BitVec 5) (a : BitVec 5) (s : BitVec 2) (o : BitVec 11)
  /-- `FLD_H`, R358. -/
  | fldH (d : BitVec 5) (a : BitVec 5) (o : BitVec 13)
  /-- `FLD_W`, R358. -/
  | fldW (d : BitVec 5) (a : BitVec 5) (o : BitVec 13)
  /-- `FLD_D`, R358. -/
  | fldD (d : BitVec 5) (a : BitVec 5) (o : BitVec 13)
  /-- `FST_H`, R358. -/
  | fstH (d : BitVec 5) (a : BitVec 5) (o : BitVec 13)
  /-- `FST_W`, R358. -/
  | fstW (d : BitVec 5) (a : BitVec 5) (o : BitVec 13)
  /-- `FST_D`, R358. -/
  | fstD (d : BitVec 5) (a : BitVec 5) (o : BitVec 13)
  /-- `BEQ`, R324. -/
  | beq (a : BitVec 5) (b : BitVec 5) (o : BitVec 16)
  /-- `BNE`, R324. -/
  | bne (a : BitVec 5) (b : BitVec 5) (o : BitVec 16)
  /-- `BLT`, R324. -/
  | blt (a : BitVec 5) (b : BitVec 5) (o : BitVec 16)
  /-- `BGE`, R324. -/
  | bge (a : BitVec 5) (b : BitVec 5) (o : BitVec 16)
  /-- `BLTU`, R324. -/
  | bltu (a : BitVec 5) (b : BitVec 5) (o : BitVec 16)
  /-- `BGEU`, R324. -/
  | bgeu (a : BitVec 5) (b : BitVec 5) (o : BitVec 16)
  /-- `BP_ANY`, R325. -/
  | bpAny (a : BitVec 5) (o : BitVec 16)
  /-- `BP_NONE`, R325. -/
  | bpNone (a : BitVec 5) (o : BitVec 16)
  /-- `BP_ALL`, R325. -/
  | bpAll (a : BitVec 5) (o : BitVec 16)
  /-- `BP_FIRST`, R325. -/
  | bpFirst (a : BitVec 5) (o : BitVec 16)
  /-- `JAL`, R326. -/
  | jal (d : BitVec 5) (o : BitVec 21)
  /-- `JALR`, R326. -/
  | jalr (d : BitVec 5) (a : BitVec 5) (i : BitVec 16)
  /-- `MUL`, R315. -/
  | mul (d : BitVec 5) (a : BitVec 5) (b : BitVec 5)
  /-- `MULH`, R315. -/
  | mulh (d : BitVec 5) (a : BitVec 5) (b : BitVec 5)
  /-- `MULHU`, R315. -/
  | mulhu (d : BitVec 5) (a : BitVec 5) (b : BitVec 5)
  /-- `MULHSU`, R315. -/
  | mulhsu (d : BitVec 5) (a : BitVec 5) (b : BitVec 5)
  /-- `DIV`, R315. -/
  | div (d : BitVec 5) (a : BitVec 5) (b : BitVec 5)
  /-- `DIVU`, R315. -/
  | divu (d : BitVec 5) (a : BitVec 5) (b : BitVec 5)
  /-- `REM`, R315. -/
  | rem (d : BitVec 5) (a : BitVec 5) (b : BitVec 5)
  /-- `REMU`, R315. -/
  | remu (d : BitVec 5) (a : BitVec 5) (b : BitVec 5)
  /-- `FADD`, R354. -/
  | fadd (d : BitVec 5) (a : BitVec 5) (b : BitVec 5) (p : BitVec 1) (r : BitVec 3)
  /-- `FSUB`, R354. -/
  | fsub (d : BitVec 5) (a : BitVec 5) (b : BitVec 5) (p : BitVec 1) (r : BitVec 3)
  /-- `FMUL`, R354. -/
  | fmul (d : BitVec 5) (a : BitVec 5) (b : BitVec 5) (p : BitVec 1) (r : BitVec 3)
  /-- `FDIV`, R354. -/
  | fdiv (d : BitVec 5) (a : BitVec 5) (b : BitVec 5) (p : BitVec 1) (r : BitVec 3)
  /-- `FSQRT`, R354. -/
  | fsqrt (d : BitVec 5) (a : BitVec 5) (p : BitVec 1) (r : BitVec 3)
  /-- `FMIN`, R354. -/
  | fmin (d : BitVec 5) (a : BitVec 5) (b : BitVec 5) (p : BitVec 1)
  /-- `FMAX`, R354. -/
  | fmax (d : BitVec 5) (a : BitVec 5) (b : BitVec 5) (p : BitVec 1)
  /-- `FSGN_C`, R354. -/
  | fsgnC (d : BitVec 5) (a : BitVec 5) (b : BitVec 5) (p : BitVec 1)
  /-- `FSGN_N`, R354. -/
  | fsgnN (d : BitVec 5) (a : BitVec 5) (b : BitVec 5) (p : BitVec 1)
  /-- `FSGN_X`, R354. -/
  | fsgnX (d : BitVec 5) (a : BitVec 5) (b : BitVec 5) (p : BitVec 1)
  /-- `FEQ`, R354. -/
  | feq (d : BitVec 5) (a : BitVec 5) (b : BitVec 5) (p : BitVec 1)
  /-- `FLT`, R354. -/
  | flt (d : BitVec 5) (a : BitVec 5) (b : BitVec 5) (p : BitVec 1)
  /-- `FLE`, R354. -/
  | fle (d : BitVec 5) (a : BitVec 5) (b : BitVec 5) (p : BitVec 1)
  /-- `FCLASS`, R355. -/
  | fclass (d : BitVec 5) (a : BitVec 5) (p : BitVec 1)
  /-- `FCVT_F_X`, R354. -/
  | fcvtFX (d : BitVec 5) (a : BitVec 5) (p : BitVec 1) (r : BitVec 3)
  /-- `FCVT_F_XU`, R354. -/
  | fcvtFXu (d : BitVec 5) (a : BitVec 5) (p : BitVec 1) (r : BitVec 3)
  /-- `FCVT_X_F`, R354. -/
  | fcvtXF (d : BitVec 5) (a : BitVec 5) (p : BitVec 1) (r : BitVec 3)
  /-- `FCVT_XU_F`, R354. -/
  | fcvtXuF (d : BitVec 5) (a : BitVec 5) (p : BitVec 1) (r : BitVec 3)
  /-- `FCVT_F_F`, R353. -/
  | fcvtFF (d : BitVec 5) (a : BitVec 5) (w : BitVec 1) (p : BitVec 1) (r : BitVec 3)
  /-- `FMV_X_F`, R354. -/
  | fmvXF (d : BitVec 5) (a : BitVec 5) (p : BitVec 1)
  /-- `FMV_F_X`, R354. -/
  | fmvFX (d : BitVec 5) (a : BitVec 5) (p : BitVec 1)
  /-- `FMA`, R357. -/
  | fma (d : BitVec 5) (a : BitVec 5) (b : BitVec 5) (p : BitVec 1) (r : BitVec 3) (c : BitVec 5)
  /-- `FMS`, R357. -/
  | fms (d : BitVec 5) (a : BitVec 5) (b : BitVec 5) (p : BitVec 1) (r : BitVec 3) (c : BitVec 5)
  /-- `FNMA`, R357. -/
  | fnma (d : BitVec 5) (a : BitVec 5) (b : BitVec 5) (p : BitVec 1) (r : BitVec 3) (c : BitVec 5)
  /-- `FNMS`, R357. -/
  | fnms (d : BitVec 5) (a : BitVec 5) (b : BitVec 5) (p : BitVec 1) (r : BitVec 3) (c : BitVec 5)
  /-- `AADD`, R332. -/
  | aadd (d : BitVec 5) (a : BitVec 5) (b : BitVec 5) (s : BitVec 2) (w : BitVec 1)
  /-- `AAND`, R332. -/
  | aand (d : BitVec 5) (a : BitVec 5) (b : BitVec 5) (s : BitVec 2) (w : BitVec 1)
  /-- `AOR`, R332. -/
  | aor (d : BitVec 5) (a : BitVec 5) (b : BitVec 5) (s : BitVec 2) (w : BitVec 1)
  /-- `AXOR`, R332. -/
  | axor (d : BitVec 5) (a : BitVec 5) (b : BitVec 5) (s : BitVec 2) (w : BitVec 1)
  /-- `AMIN`, R332. -/
  | amin (d : BitVec 5) (a : BitVec 5) (b : BitVec 5) (s : BitVec 2) (w : BitVec 1)
  /-- `AMAX`, R332. -/
  | amax (d : BitVec 5) (a : BitVec 5) (b : BitVec 5) (s : BitVec 2) (w : BitVec 1)
  /-- `AMINU`, R332. -/
  | aminu (d : BitVec 5) (a : BitVec 5) (b : BitVec 5) (s : BitVec 2) (w : BitVec 1)
  /-- `AMAXU`, R332. -/
  | amaxu (d : BitVec 5) (a : BitVec 5) (b : BitVec 5) (s : BitVec 2) (w : BitVec 1)
  /-- `ASWP`, R332. -/
  | aswp (d : BitVec 5) (a : BitVec 5) (b : BitVec 5) (s : BitVec 2) (w : BitVec 1)
  /-- `ACAS`, R332. -/
  | acas (d : BitVec 5) (a : BitVec 5) (b : BitVec 5) (s : BitVec 2) (w : BitVec 1)
  /-- `AFADD`, R333. -/
  | afadd (d : BitVec 5) (a : BitVec 5) (b : BitVec 5) (s : BitVec 2) (w : BitVec 1)
  /-- `ACQ`, R123. -/
  | acq (s : BitVec 2) (g : BitVec 4)
  /-- `REL`, R120. -/
  | rel (s : BitVec 2) (g : BitVec 4)
  /-- `FENCE`, R131. -/
  | fence (s : BitVec 2) (g : BitVec 4)
  /-- `OWN`, R130. -/
  | own (a : BitVec 5) (s : BitVec 2) (g : BitVec 4)
  /-- `DISOWN`, R130. -/
  | disown (a : BitVec 5) (s : BitVec 2) (g : BitVec 4)
  /-- `QLOCK`, R338. -/
  | qlock (d : BitVec 5) (a : BitVec 5) (s : BitVec 2) (g : BitVec 4)
  /-- `QUNLOCK`, R338. -/
  | qunlock (a : BitVec 5) (s : BitVec 2) (g : BitVec 4)
  /-- `WAIT`, R199. -/
  | wait (d : BitVec 5) (a : BitVec 5)
  /-- `WAKE`, R339. -/
  | wake (a : BitVec 5)
  /-- `CRR`, R328. -/
  | crr (d : BitVec 5) (n : BitVec 16)
  /-- `CRW`, R328. -/
  | crw (d : BitVec 5) (a : BitVec 5) (n : BitVec 16)
  /-- `CRS`, R328. -/
  | crs (d : BitVec 5) (a : BitVec 5) (n : BitVec 16)
  /-- `CRC`, R328. -/
  | crc (d : BitVec 5) (a : BitVec 5) (n : BitVec 16)
  /-- `VCFG`, R372. -/
  | vcfg (d : BitVec 5) (a : BitVec 5)
  /-- `VSETL`, R374. -/
  | vsetl (d : BitVec 5) (a : BitVec 5)
  /-- `VSETROWS`, R374. -/
  | vsetrows (d : BitVec 5) (a : BitVec 5)
  /-- `VTAG`, R375. -/
  | vtag (d : BitVec 5) (a : BitVec 5)
  /-- `VSAVE`, R376. -/
  | vsave (d : BitVec 5) (a : BitVec 5)
  /-- `VREST`, R377. -/
  | vrest (d : BitVec 5) (a : BitVec 5)
  /-- `VLD`, R382. -/
  | vld (d : BitVec 5) (a : BitVec 5) (n : BitVec 1) (o : BitVec 1)
  /-- `VST`, R382. -/
  | vst (d : BitVec 5) (a : BitVec 5) (n : BitVec 1) (o : BitVec 1)
  /-- `VLDX`, R387. -/
  | vldx (d : BitVec 5) (a : BitVec 5) (b : BitVec 5) (n : BitVec 1) (o : BitVec 1)
  /-- `VSTX`, R387. -/
  | vstx (d : BitVec 5) (a : BitVec 5) (b : BitVec 5) (n : BitVec 1) (o : BitVec 1)
  /-- `VLD_T`, R386. -/
  | vldT (d : BitVec 5) (a : BitVec 5) (n : BitVec 1) (o : BitVec 1)
  /-- `VST_N`, R388. -/
  | vstN (d : BitVec 5) (a : BitVec 5) (b : BitVec 5) (n : BitVec 1) (o : BitVec 1)
  /-- `VPUSH`, R389. -/
  | vpush (a : BitVec 5) (b : BitVec 5)
  /-- `VPUSH_T`, R390. -/
  | vpushT (d : BitVec 5) (a : BitVec 5) (b : BitVec 5)
  /-- `VADD`, R392. -/
  | vadd (d : BitVec 5) (a : BitVec 5) (b : BitVec 5) (s : BitVec 1) (x : BitVec 1)
  /-- `VSUB`, R392. -/
  | vsub (d : BitVec 5) (a : BitVec 5) (b : BitVec 5) (s : BitVec 1) (x : BitVec 1)
  /-- `VMUL`, R392. -/
  | vmul (d : BitVec 5) (a : BitVec 5) (b : BitVec 5) (s : BitVec 1) (x : BitVec 1)
  /-- `VFMA`, R392. -/
  | vfma (d : BitVec 5) (a : BitVec 5) (b : BitVec 5) (s : BitVec 1) (x : BitVec 1)
  /-- `VFMS`, R392. -/
  | vfms (d : BitVec 5) (a : BitVec 5) (b : BitVec 5) (s : BitVec 1) (x : BitVec 1)
  /-- `VDIV`, R392. -/
  | vdiv (d : BitVec 5) (a : BitVec 5) (b : BitVec 5) (s : BitVec 1) (x : BitVec 1)
  /-- `VSQRT`, R392. -/
  | vsqrt (d : BitVec 5) (a : BitVec 5) (s : BitVec 1)
  /-- `VMIN`, R392. -/
  | vmin (d : BitVec 5) (a : BitVec 5) (b : BitVec 5) (s : BitVec 1) (x : BitVec 1)
  /-- `VMAX`, R392. -/
  | vmax (d : BitVec 5) (a : BitVec 5) (b : BitVec 5) (s : BitVec 1) (x : BitVec 1)
  /-- `VABS`, R392. -/
  | vabs (d : BitVec 5) (a : BitVec 5) (s : BitVec 1)
  /-- `VNEG`, R392. -/
  | vneg (d : BitVec 5) (a : BitVec 5) (s : BitVec 1)
  /-- `VAND`, R392. -/
  | vand (d : BitVec 5) (a : BitVec 5) (b : BitVec 5) (s : BitVec 1) (x : BitVec 1)
  /-- `VOR`, R392. -/
  | vor (d : BitVec 5) (a : BitVec 5) (b : BitVec 5) (s : BitVec 1) (x : BitVec 1)
  /-- `VXOR`, R392. -/
  | vxor (d : BitVec 5) (a : BitVec 5) (b : BitVec 5) (s : BitVec 1) (x : BitVec 1)
  /-- `VSHL`, R392. -/
  | vshl (d : BitVec 5) (a : BitVec 5) (b : BitVec 5) (s : BitVec 1) (x : BitVec 1)
  /-- `VSHR`, R392. -/
  | vshr (d : BitVec 5) (a : BitVec 5) (b : BitVec 5) (s : BitVec 1) (x : BitVec 1)
  /-- `VMULH`, R392. -/
  | vmulh (d : BitVec 5) (a : BitVec 5) (b : BitVec 5) (s : BitVec 1) (x : BitVec 1)
  /-- `VSEL`, R392. -/
  | vsel (d : BitVec 5) (a : BitVec 5) (b : BitVec 5) (s : BitVec 1) (x : BitVec 1)
  /-- `VCMP_EQ`, R394. -/
  | vcmpEq (d : BitVec 5) (a : BitVec 5) (b : BitVec 5) (x : BitVec 1)
  /-- `VCMP_NE`, R394. -/
  | vcmpNe (d : BitVec 5) (a : BitVec 5) (b : BitVec 5) (x : BitVec 1)
  /-- `VCMP_LT`, R394. -/
  | vcmpLt (d : BitVec 5) (a : BitVec 5) (b : BitVec 5) (x : BitVec 1)
  /-- `VCMP_LE`, R394. -/
  | vcmpLe (d : BitVec 5) (a : BitVec 5) (b : BitVec 5) (x : BitVec 1)
  /-- `VCMP_GT`, R394. -/
  | vcmpGt (d : BitVec 5) (a : BitVec 5) (b : BitVec 5) (x : BitVec 1)
  /-- `VCMP_GE`, R394. -/
  | vcmpGe (d : BitVec 5) (a : BitVec 5) (b : BitVec 5) (x : BitVec 1)
  /-- `VCMP_UN`, R394. -/
  | vcmpUn (d : BitVec 5) (a : BitVec 5) (b : BitVec 5) (x : BitVec 1)
  /-- `VRCP`, R395. -/
  | vrcp (d : BitVec 5) (a : BitVec 5)
  /-- `VRSQRT`, R395. -/
  | vrsqrt (d : BitVec 5) (a : BitVec 5)
  /-- `VEXP2`, R395. -/
  | vexp2 (d : BitVec 5) (a : BitVec 5)
  /-- `VLOG2`, R395. -/
  | vlog2 (d : BitVec 5) (a : BitVec 5)
  /-- `VTANH`, R395. -/
  | vtanh (d : BitVec 5) (a : BitVec 5)
  /-- `VSLUP`, R401. -/
  | vslup (d : BitVec 5) (a : BitVec 5) (b : BitVec 5) (l : BitVec 3)
  /-- `VSLDN`, R401. -/
  | vsldn (d : BitVec 5) (a : BitVec 5) (b : BitVec 5) (l : BitVec 3)
  /-- `VPERM`, R401. -/
  | vperm (d : BitVec 5) (a : BitVec 5) (b : BitVec 5)
  /-- `VCOMP`, R402. -/
  | vcomp (d : BitVec 5) (a : BitVec 5)
  /-- `VBCAST`, R401. -/
  | vbcast (d : BitVec 5) (b : BitVec 5)
  /-- `VEXT`, R403. -/
  | vext (d : BitVec 5) (a : BitVec 5) (b : BitVec 5)
  /-- `VINS`, R403. -/
  | vins (d : BitVec 5) (a : BitVec 5) (b : BitVec 5)
  /-- `VCVT`, R400. -/
  | vcvt (d : BitVec 5) (a : BitVec 5) (s : BitVec 1)
  /-- `VRED_SUM`, R405. -/
  | vredSum (d : BitVec 5) (a : BitVec 5)
  /-- `VRED_MIN`, R405. -/
  | vredMin (d : BitVec 5) (a : BitVec 5)
  /-- `VRED_MAX`, R405. -/
  | vredMax (d : BitVec 5) (a : BitVec 5)
  /-- `VRED_AND`, R405. -/
  | vredAnd (d : BitVec 5) (a : BitVec 5)
  /-- `VRED_OR`, R405. -/
  | vredOr (d : BitVec 5) (a : BitVec 5)
  /-- `VSCAN_SUM`, R405. -/
  | vscanSum (d : BitVec 5) (a : BitVec 5)
  /-- `VSCAN_MIN`, R405. -/
  | vscanMin (d : BitVec 5) (a : BitVec 5)
  /-- `VSCAN_MAX`, R405. -/
  | vscanMax (d : BitVec 5) (a : BitVec 5)
  /-- `VDOT`, R405. -/
  | vdot (d : BitVec 5) (a : BitVec 5) (b : BitVec 5)
  /-- `VBSL`, R407. -/
  | vbsl (d : BitVec 5) (a : BitVec 5) (b : BitVec 5)
  /-- `VBSR`, R407. -/
  | vbsr (d : BitVec 5) (a : BitVec 5) (b : BitVec 5)
  /-- `VBFUN`, R407. -/
  | vbfun (d : BitVec 5) (a : BitVec 5) (b : BitVec 5)
  /-- `VBPOPC`, R407. -/
  | vbpopc (d : BitVec 5) (a : BitVec 5)
  /-- `PAND`, R408. -/
  | pand (d : BitVec 5) (a : BitVec 5) (b : BitVec 5)
  /-- `POR`, R408. -/
  | por (d : BitVec 5) (a : BitVec 5) (b : BitVec 5)
  /-- `PXOR`, R408. -/
  | pxor (d : BitVec 5) (a : BitVec 5) (b : BitVec 5)
  /-- `PANDN`, R408. -/
  | pandn (d : BitVec 5) (a : BitVec 5) (b : BitVec 5)
  /-- `PNOT`, R408. -/
  | pnot (d : BitVec 5) (a : BitVec 5)
  /-- `PSET`, R408. -/
  | pset (d : BitVec 5) (a : BitVec 5)
  /-- `PFIRST`, R408. -/
  | pfirst (d : BitVec 5) (a : BitVec 5)
  /-- `PCNT`, R409. -/
  | pcnt (d : BitVec 5) (a : BitVec 5)
  /-- `PMV`, R408. -/
  | pmv (d : BitVec 5) (a : BitVec 5)
  /-- `TLD`, R417. -/
  | tld (d : BitVec 5) (a : BitVec 5)
  /-- `TST`, R417. -/
  | tst (d : BitVec 5) (a : BitVec 5)
  /-- `MOP`, R418. -/
  | mop (d : BitVec 5) (a : BitVec 5) (b : BitVec 5)
  /-- `MOPS`, R419. -/
  | mops (d : BitVec 5) (a : BitVec 5) (b : BitVec 5)
  /-- `MOP_M`, R420. -/
  | mopM (d : BitVec 5) (a : BitVec 5) (b : BitVec 5)
  /-- `MCLR`, R421. -/
  | mclr (d : BitVec 5)
  /-- `ACCX`, R422. -/
  | accx (d : BitVec 5) (a : BitVec 5) (b : BitVec 5)
  /-- `ACCI`, R422. -/
  | acci (d : BitVec 5) (a : BitVec 5) (b : BitVec 5)
  /-- `MWAIT`, R423. -/
  | mwait
  /-- `EPUSH`, R342. -/
  | epush (d : BitVec 5) (a : BitVec 5)
  /-- `EPOP`, R346. -/
  | epop (d : BitVec 5) (a : BitVec 5)
  /-- `EPEEK`, R346. -/
  | epeek (d : BitVec 5) (a : BitVec 5)
  /-- `PCLAIM`, R426. -/
  | pclaim (d : BitVec 5) (a : BitVec 5)
  /-- `PREL`, R426. -/
  | prel (d : BitVec 5) (a : BitVec 5)
  /-- `PGIVE`, R427. -/
  | pgive (d : BitVec 5) (a : BitVec 5) (b : BitVec 5)
  /-- `PSTAT`, R429. -/
  | pstat (d : BitVec 5) (a : BitVec 5)
  /-- `PMARK`, R428. -/
  | pmark (d : BitVec 5) (a : BitVec 5) (b : BitVec 5)
  /-- `ORBDEF`, R431. -/
  | orbdef (d : BitVec 5) (a : BitVec 5)
  /-- `ORBIN`, R432. -/
  | orbin (d : BitVec 5) (a : BitVec 5) (b : BitVec 5)
  /-- `ORBGO`, R433. -/
  | orbgo (d : BitVec 5) (a : BitVec 5)
  /-- `ORBOUT`, R434. -/
  | orbout (d : BitVec 5) (a : BitVec 5) (b : BitVec 5)
  /-- `ORBSTAT`, R435. -/
  | orbstat (d : BitVec 5) (a : BitVec 5)
  /-- `QNUM`, R360. -/
  | qnum (d : BitVec 5) (a : BitVec 5)
  /-- `QDEN`, R360. -/
  | qden (d : BitVec 5) (a : BitVec 5)
  /-- `QMK`, R361. -/
  | qmk (d : BitVec 5) (a : BitVec 5) (b : BitVec 5) (r : BitVec 3)
  /-- `QMED`, R362. -/
  | qmed (d : BitVec 5) (a : BitVec 5) (b : BitVec 5) (r : BitVec 3)
  /-- `QCF`, R363. -/
  | qcf (d : BitVec 5) (a : BitVec 5) (b : BitVec 5)
  /-- `QFLOOR`, R364. -/
  | qfloor (d : BitVec 5) (a : BitVec 5)
  /-- `ECALL`, R347. -/
  | ecall
  /-- `EBREAK`, R347. -/
  | ebreak
  /-- `SRET`, R238. -/
  | sret
  /-- `URET`, R252. -/
  | uret
  /-- `HALT`, R192. -/
  | halt
  /-- `TLBINV`, R46. -/
  | tlbinv (a : BitVec 5) (b : BitVec 5)
  /-- `ICINV`, R348. -/
  | icinv
  /-- `KLAUNCH`, R350. -/
  | klaunch (d : BitVec 5) (a : BitVec 5) (b : BitVec 5)
  /-- `WATCH_ARM`, R136. -/
  | watchArm
  /-- `WATCH_DISARM`, R136. -/
  | watchDisarm
  /-- `VL_WRITE`, R330. -/
  | vlWrite
  /-- `REGISTER_WRITE`, R16. -/
  | registerWrite
  /-- `TABLE_WALK`, R28. -/
  | tableWalk
  /-- `PRETRANSLATE_WINDOW`, R39. -/
  | pretranslateWindow
  /-- `WINDOW_ENTER_PIPELINE`, R39. -/
  | windowEnterPipeline
  /-- `TLB_INVALIDATE_MSG`, R46. -/
  | tlbInvalidateMsg
  /-- `TLB_INVALIDATE_ACK`, R46. -/
  | tlbInvalidateAck
  /-- `HBM_ISSUE`, R52. -/
  | hbmIssue
  /-- `HBM_DATA_RETURN`, R61. -/
  | hbmDataReturn
  /-- `HBM_READ_RETRY`, R62. -/
  | hbmReadRetry
  /-- `ROW_CLOSE_TIMEOUT`, R52. -/
  | rowCloseTimeout
  /-- `REQUEST_AGE_EXPIRY`, R52. -/
  | requestAgeExpiry
  /-- `HCRATE_CEIL_WRITE`, R54. -/
  | hcrateCeilWrite
  /-- `RATE_LIMIT_CHANGE`, R8. -/
  | rateLimitChange
  /-- `RATE_SWITCH`, R56. -/
  | rateSwitch
  /-- `RATE_SWITCH_COMPLETE`, R57. -/
  | rateSwitchComplete
  /-- `REFRESH_DUE`, R59. -/
  | refreshDue
  /-- `OWED_REFRESH_PAID`, R59. -/
  | owedRefreshPaid
  /-- `TEMPERATURE_REPORT`, R59. -/
  | temperatureReport
  /-- `ACTIVATION_ALERT`, R60. -/
  | activationAlert
  /-- `BANK_BLOCK_END`, R60. -/
  | bankBlockEnd
  /-- `PATROL_SCRUB_READ`, R63. -/
  | patrolScrubRead
  /-- `KEY_SLOT_LOAD`, R65. -/
  | keySlotLoad
  /-- `VECTOR_HEADER`, R99. -/
  | vectorHeader
  /-- `SEGMENT_COMPLETION_BEAT`, R99. -/
  | segmentCompletionBeat
  /-- `LINE_REQUEST`, R97. -/
  | lineRequest
  /-- `SLICE_REQUEST`, R72. -/
  | sliceRequest
  /-- `SLICE_PIN_RELEASE`, R76. -/
  | slicePinRelease
  /-- `CACHE_FILL_RETURN`, R124. -/
  | cacheFillReturn
  /-- `WRITE_BACK`, R69. -/
  | writeBack
  /-- `REGISTRATION`, R74. -/
  | registration
  /-- `REGISTRATION_ACK`, R121. -/
  | registrationAck
  /-- `REVOCATION`, R127. -/
  | revocation
  /-- `REVOCATION_WITH_WRITE_BACK`, R75. -/
  | revocationWithWriteBack
  /-- `FORWARDED_READ`, R126. -/
  | forwardedRead
  /-- `FORWARD_UNANSWERED`, R126. -/
  | forwardUnanswered
  /-- `FAR_ATOMIC_AT_HOME`, R135. -/
  | farAtomicAtHome
  /-- `SY_ACCESS_AT_HOME`, R134. -/
  | syAccessAtHome
  /-- `WATCH_HIT`, R137. -/
  | watchHit
  /-- `WATCH_HIT_ARRIVAL`, R137. -/
  | watchHitArrival
  /-- `QLOCK_TICKET_DRAW`, R139. -/
  | qlockTicketDraw
  /-- `QUNLOCK_INCREMENT`, R139. -/
  | qunlockIncrement
  /-- `GRANT`, R139. -/
  | grant
  /-- `POLL_READ`, R139. -/
  | pollRead
  /-- `COPY_START`, R223. -/
  | copyStart
  /-- `COPY_COMPLETE`, R345. -/
  | copyComplete
  /-- `PLATE_REATTACH`, R87. -/
  | plateReattach
  /-- `VPUSH_DELIVERY`, R389. -/
  | vpushDelivery
  /-- `WAKE_ARRIVAL`, R339. -/
  | wakeArrival
  /-- `WAIT_TIMEOUT`, R198. -/
  | waitTimeout
  /-- `PUSH_TIMEOUT`, R249. -/
  | pushTimeout
  /-- `PORT_DOWN`, R108. -/
  | portDown
  /-- `REMOTE_TIMEOUT`, R108. -/
  | remoteTimeout
  /-- `UALINK_REQUEST_INGRESS`, R64. -/
  | ualinkRequestIngress
  /-- `UALINK_FLIT_RETRY`, R475. -/
  | ualinkFlitRetry
  /-- `UCIE_FLIT_RETRY`, R103. -/
  | ucieFlitRetry
  /-- `UCIE_LANE_REPAIR`, R476. -/
  | ucieLaneRepair
  /-- `DOMAIN_CONFIG`, R109. -/
  | domainConfig
  /-- `HOST_READ`, R114. -/
  | hostRead
  /-- `HOST_WRITE`, R114. -/
  | hostWrite
  /-- `HAPCTL_WRITE`, R113. -/
  | hapctlWrite
  /-- `MERIDIAN_SYNC_SEND`, R115. -/
  | meridianSyncSend
  /-- `MERIDIAN_SYNC`, R115. -/
  | meridianSync
  /-- `DELAY_EXCHANGE`, R115. -/
  | delayExchange
  /-- `MERIDIAN_HOLD`, R116. -/
  | meridianHold
  /-- `QUEUE_TAIL_WATCH_HIT`, R217. -/
  | queueTailWatchHit
  /-- `QUEUE_BACKSTOP_SCAN`, R217. -/
  | queueBackstopScan
  /-- `DEPENDENCE_WATCH_HIT`, R217. -/
  | dependenceWatchHit
  /-- `PLACEMENT_CHOICE`, R218. -/
  | placementChoice
  /-- `RECORD_COMMIT`, R219. -/
  | recordCommit
  /-- `LAUNCH_COMPLETE`, R193. -/
  | launchComplete
  /-- `QUIESCE`, R227. -/
  | quiesce
  /-- `END_QUIESCE`, R227. -/
  | endQuiesce
  /-- `END_LAUNCH`, R220. -/
  | endLaunch
  /-- `CREATE_CONTEXT`, R214. -/
  | createContext
  /-- `REMOVE_CONTEXT`, R214. -/
  | removeContext
  /-- `SWITCH_ARM`, R228. -/
  | switchArm
  /-- `SWITCH_ARM_PARK`, R228. -/
  | switchArmPark
  /-- `NOTICE`, R253. -/
  | notice
  /-- `CUT_BEGIN`, R225. -/
  | cutBegin
  /-- `MARKER`, R224. -/
  | marker
  /-- `CUT_COMPLETE`, R226. -/
  | cutComplete
  /-- `CONTEXT_SAVED`, R229. -/
  | contextSaved
  /-- `CONTEXT_RESUMED`, R229. -/
  | contextResumed
  /-- `RESIZE`, R254. -/
  | resize
  /-- `TRAP_ENTRY`, R237. -/
  | trapEntry
  /-- `USER_INTERRUPT_DELIVERY`, R251. -/
  | userInterruptDelivery
  /-- `EVENT_ACCEPT`, R260. -/
  | eventAccept
  /-- `EQHEAD_WRITE`, R259. -/
  | eqheadWrite
  /-- `ORBIT_ROUND`, R206. -/
  | orbitRound
  /-- `ORBIT_ROUND_EDGE`, R207. -/
  | orbitRoundEdge
  /-- `ORBIT_MARKER`, R207. -/
  | orbitMarker
  /-- `ORBIT_LAP_END`, R210. -/
  | orbitLapEnd
  /-- `ORBIT_COMPLETE`, R210. -/
  | orbitComplete
  /-- `COLD_BOOT`, R462. -/
  | coldBoot
  /-- `RECOVERY_FIRMWARE_IMAGE`, R463. -/
  | recoveryFirmwareImage
  /-- `WARM_RESET_COMPUTE_DIE`, R464. -/
  | warmResetComputeDie
  /-- `WARM_RESET_IO_DIE`, R477. -/
  | warmResetIoDie
  /-- `TRUST_DIE_WARM_RESET`, R477. -/
  | trustDieWarmReset
  /-- `DIE_LOST`, R478. -/
  | dieLost
  /-- `DIE_LOST_ACK`, R478. -/
  | dieLostAck
  /-- `VERIFY_OBJECT`, R473. -/
  | verifyObject
  /-- `RETIRE_OBJECT`, R474. -/
  | retireObject
  /-- `LOAD_CONTEXT_KEY`, R469. -/
  | loadContextKey
  /-- `CLEAR_CONTEXT_KEY`, R469. -/
  | clearContextKey
  /-- `OWNER_KEY_INSTALL`, R466. -/
  | ownerKeyInstall
  /-- `OWNER_KEY_CLEAR`, R466. -/
  | ownerKeyClear
  /-- `GET_MEASUREMENTS`, R468. -/
  | getMeasurements
  /-- `SPARE_STATUS`, R468. -/
  | spareStatus
  /-- `MBCMD_WHILE_BUSY`, R467. -/
  | mbcmdWhileBusy
  /-- `SPDM_GET_VERSION`, R471. -/
  | spdmGetVersion
  /-- `SPDM_GET_CAPABILITIES`, R471. -/
  | spdmGetCapabilities
  /-- `SPDM_NEGOTIATE_ALGORITHMS`, R471. -/
  | spdmNegotiateAlgorithms
  /-- `SPDM_GET_DIGESTS`, R471. -/
  | spdmGetDigests
  /-- `SPDM_GET_CERTIFICATE`, R471. -/
  | spdmGetCertificate
  /-- `SPDM_CHALLENGE`, R471. -/
  | spdmChallenge
  /-- `SPDM_GET_MEASUREMENTS`, R471. -/
  | spdmGetMeasurements
  /-- `SPDM_KEY_EXCHANGE`, R471. -/
  | spdmKeyExchange
  /-- `SPDM_FINISH`, R471. -/
  | spdmFinish
  /-- `SPDM_HEARTBEAT`, R471. -/
  | spdmHeartbeat
  /-- `SPDM_KEY_UPDATE`, R471. -/
  | spdmKeyUpdate
  /-- `SPDM_END_SESSION`, R471. -/
  | spdmEndSession
  /-- `SPDM_CHUNK_SEND`, R471. -/
  | spdmChunkSend
  /-- `SPDM_CHUNK_GET`, R471. -/
  | spdmChunkGet
  /-- `SPDM_UNSUPPORTED_REQUEST`, R471. -/
  | spdmUnsupportedRequest
  /-- `WINDOW_ACCESS_ARRIVAL`, R25. -/
  | windowAccessArrival
  /-- `RLC_ACQUIRE_INVALIDATION`, R123. -/
  | rlcAcquireInvalidation
  /-- `ACQUIRE_ACKNOWLEDGEMENT`, R124. -/
  | acquireAcknowledgement
  /-- `KLAUNCH_POLL`, R350. -/
  | klaunchPoll
  /-- `VECTOR_SLICE_END`, R221. -/
  | vectorSliceEnd
  /-- `MATRIX_OPERATION_END`, R222. -/
  | matrixOperationEnd
  /-- `TIME_MASTER_NAMED`, R115. -/
  | timeMasterNamed
  /-- `MAILBOX_UNKNOWN_COMMAND`, R468. -/
  | mailboxUnknownCommand
  deriving DecidableEq, Repr

end Sys2Proof
end

