-- ==== Sys2Proof/Machine/State.lean ====
section
/-! DEFINITION. The state of one Hjellor device as plain data, its reasons to stop, and the device after reset. Each structure
names the rules of spec/ that give its fields. -/
namespace Sys2Proof.Machine
set_option Elab.async false

/-- The reasons for which a step ends in a fault. -/
inductive Fault where
  /-- Raised by no step of this model: every step answers a next state. Safe: nothing stops here. -/
  | illFormed
  deriving DecidableEq, Repr

/-- The reasons for which an instruction has no meaning. -/
inductive Refusal where
  /-- Raised by an arm of exec whose instruction is not modelled. Safe: nothing is claimed of it. -/
  | notModelled (mnemonic : String)
  deriving DecidableEq, Repr

/-! ### Sparse maps -/

/-- A sparse map from numbers, as pairs in rising order of the number. -/
abbrev SMap (α : Type) := List (Nat × α)

/-- The value at a number, or the default. -/
def SMap.get {α : Type} (dflt : α) : SMap α → Nat → α
  | [], _ => dflt
  | (k, v) :: m, n => if k = n then v else SMap.get dflt m n

/-- Set the value at a number. -/
def SMap.set {α : Type} (n : Nat) (v : α) : SMap α → SMap α
  | [] => [(n, v)]
  | (k, w) :: m => if k = n then (n, v) :: m else if n < k then (n, v) :: (k, w) :: m else (k, w) :: SMap.set n v m

/-! ### Harts (spec/07 R178) -/

/-- A plate slot of a hart (spec/03 R84): empty, reserved by a hand-over in progress, or holding a plate of its die. -/
inductive Slot where
  | empty
  | pending
  | attached (plate : Nat)
  deriving DecidableEq, Repr

/-- The scalar registers (R178). -/
structure ScalarRegs where
  /-- x0 to x31; x0 reads zero through `Hart.xr`. -/
  x : Vector Word 32
  f : Vector Word 32
  deriving DecidableEq, Repr

/-- The vector configuration and mailbox registers (spec/15 R369, spec/11 R297, spec/10 R263, R268). -/
structure VecRegs where
  vl : BitVec 14
  /-- The last VCFG request, bits [4:0]. -/
  request : BitVec 5
  /-- VTYPE.ILL. -/
  ill : Bool
  /-- VTYPE.RESIZED. -/
  resized : Bool
  /-- B, the register length in bits (VREGB). -/
  b : Nat
  vrows : BitVec 4
  vstr : BitVec 32
  vpitch : BitVec 40
  vmsel : BitVec 5
  /-- VSTART: row [31:16], element [15:0]. -/
  vstart : BitVec 32
  mbx : BitVec 32
  full : BitVec 32
  /-- VFLAGS.OVF and VFLAGS.INV. -/
  ovf : Bool
  inv : Bool
  vtaglo : Word
  vtaghi : Word
  deriving DecidableEq, Repr

/-- The other user control registers (spec/10 R272, spec/03 R83, spec/05 R132, R136, spec/09 R245, R249, spec/17 R412). -/
structure UserRegs where
  /-- FMODE.DRM. -/
  drm : BitVec 3
  /-- FMODE.RAT. -/
  rat : Bool
  /-- FFLAGS: NV DZ OF UF NX from bit 4 down. -/
  fflags : BitVec 5
  pwb : Word
  aqrm : BitVec 16
  watchVa : Word
  watchEn : Bool
  mstart : BitVec 10
  pushlim : BitVec 32
  tshape : Vector (BitVec 20) 8
  deriving DecidableEq, Repr

/-- The user-interrupt registers and the registers an orbit task keeps aside (spec/09 R250, R251). -/
structure UserIrq where
  cause : BitVec 4
  inh : Bool
  ore : Bool
  nte : Bool
  cde : Bool
  xepc : Word
  xid : BitVec 32
  xres : Word
  xnot : Word
  keep4 : Word
  keep5 : Word
  keep6 : Word
  deriving DecidableEq, Repr

/-- The trap registers (spec/09 R234, R235). -/
structure TrapRegs where
  qk : BitVec 2
  skip : Bool
  prior : Bool
  frz : Bool
  trpc : Word
  trnext : Word
  trcode : BitVec 8
  trarg : Word
  trentry : Word
  trspare : Word
  deriving DecidableEq, Repr

/-- The other supervisor registers (spec/01 R26, R41; spec/07 R195, R196; spec/08 R228). -/
structure SupRegs where
  sptb : Word
  sfpa : Word
  sfpn : BitVec 7
  sctb : Word
  srtb : Word
  snotice : BitVec 32
  deriving DecidableEq, Repr

/-- The grant of a hart (spec/07 R181). -/
structure Grant where
  voff : BitVec 9
  vsz : BitVec 10
  tbase : BitVec 5
  tcnt : BitVec 4
  abase : BitVec 4
  acnt : BitVec 3
  pln : BitVec 5
  vw : BitVec 4
  mw : BitVec 4
  orb : Bool
  deriving DecidableEq, Repr

/-! ### Cached leaves and translation windows (spec/01 R35, R39) -/

/-- The attributes of a leaf: PTE bits [13:1] (R27). -/
abbrev Attr := BitVec 13

/-- A cached leaf (R35, R36). -/
structure TlbEntry where
  /-- VA bits [63:12] of the page's first byte. -/
  vpn : BitVec 52
  level : Nat
  /-- PTE bits [55:16]. -/
  ppn : BitVec 40
  attr : Attr
  ctx : BitVec 16
  deriving DecidableEq, Repr

/-- An element of a memory instruction: row, element, address, bytes accessed, and for a sub-byte element its first bit and its
width; `w` is the width in bits. -/
structure VElem where
  k : Nat
  i : Nat
  va : Word
  n : Nat
  bit : Nat
  w : Nat
  deriving DecidableEq, Repr

/-- A page of a window: the addresses it spans, its leaf or its fault, and the first element that touches it. -/
structure Span where
  lo : Nat
  size : Nat
  leaf : Option TlbEntry
  reason : BitVec 4
  level : Nat
  first : VElem
  deriving DecidableEq, Repr

/-- An instruction in the vector or the matrix queue, with the scalar operands, the configuration and the PWB value it entered
with (spec/07 R178, spec/03 R83, spec/11 R298). -/
structure QEntry where
  instr : Instr
  pc : Word
  xd : Word
  xa : Word
  xb : Word
  fa : Word
  fb : Word
  vec : VecRegs
  tshape : Vector (BitVec 20) 8
  pwb : Word
  /-- Slots given away since it entered, with the plates they resolve to (spec/03 R87). -/
  drain : List (Nat × Nat)
  /-- Meridian time at which a `vpush` began to wait (spec/09 R249). -/
  since : Option Nat
  /-- The step at which it entered, and whether it has raised the trap now served. -/
  seq : Nat
  faulted : Bool
  /-- The pages of the translation window in progress, already translated (spec/01 R39, R46). -/
  spans : List Span
  /-- Slices of the instruction that lane groups have been given (spec/08 R221). -/
  slices : Nat
  deriving DecidableEq, Repr

/-- What a copy's completion record carries for the pop (spec/13 R345, spec/05 R144). -/
structure CopyRecord where
  word : Word
  /-- Whether the destination is memory (kinds 0 and 3), and the device of kind 3. -/
  mem : Bool
  dev : Option Nat
  /-- The range of R144, before any wrap to 64 bits. -/
  lo : Int
  hi : Int
  region : BitVec 4
  scope : BitVec 2
  /-- The line of the progress word and its region. -/
  line : Nat
  lineRid : BitVec 4
  deriving DecidableEq, Repr

/-- An orbit completion record with the ephemeris range its pop acquires (spec/07 R210). -/
structure OrbitRecord where
  word : Word
  region : BitVec 4
  /-- The lines of the ephemeris. -/
  lines : List Nat
  deriving DecidableEq, Repr

/-- A pending user interrupt (spec/09 R251). -/
inductive UserItem where
  | copyDone (id : BitVec 32) (handler : Word)
  | orbitTask (orbit station : Nat) (handler x4 x5 x6 : Word)
  deriving DecidableEq, Repr

/-- What an instruction that is not repeated keeps while it waits. -/
inductive Kept where
  /-- A `qlock` that has drawn its ticket (spec/05 R139, R140): parked or polling, and whether it has been granted. -/
  | qlock (pa : Nat) (ticket : BitVec 32) (polling granted : Bool)
  /-- A `klaunch` after its reservation (spec/13 R350): record index, the physical addresses of the control block and the slot, the
  template's bytes, the stage (0 waits for the slot, 1 for TAIL, 2 done), and whether it is parked. -/
  | klaunch (k : Word) (ctrl slot : Nat) (image : List Byte) (stage : Nat) (parked : Bool)
  /-- A `tlbinv` that has sent its messages (spec/01 R46). -/
  | tlbinv
  /-- An `lda` or a far atomic whose access has been performed and whose acquire over these regions has not (spec/12 R323), with the register,
  the value and the flags that it writes as it retires (spec/14 R366). -/
  | acquire (regions : BitVec 16) (d : Reg) (value : Word) (flags : BitVec 5)
  deriving DecidableEq, Repr

/-- The kept instruction with the place at which it issues again: pc, privilege, and whether inside a user handler. -/
structure Held where
  pc : Word
  sup : Bool
  inh : Bool
  kept : Kept
  deriving DecidableEq, Repr

/-- Acknowledgements that a hart awaits: registrations (R121), acquires (R124) and translation invalidations (R46). -/
structure Acks where
  reg : Nat
  acq : Nat
  tlb : Nat
  deriving DecidableEq, Repr

/-- What a hart is doing between instructions. -/
inductive Phase where
  /-- Not placed. -/
  | idle
  /-- Issuing instructions. -/
  | running
  /-- Asleep in `wait` with its timeout and its destination (spec/07 R199). -/
  | waiting (timeout : Word) (d : Reg)
  /-- Stopped by a trap that could not enter, with the die that raised its event (spec/09 R241, R260). -/
  | stopped (src : Nat)
  deriving DecidableEq, Repr

/-- A hart (spec/07 R178). -/
structure Hart where
  pc : Word
  regs : ScalarRegs
  /-- Supervisor mode (spec/09 R232). -/
  sup : Bool
  vec : VecRegs
  user : UserRegs
  irq : UserIrq
  trap : TrapRegs
  sregs : SupRegs
  grant : Grant
  /-- Resident slot of the context, and its generation (CTXID, R184). -/
  ctx : BitVec 3
  gen : BitVec 13
  slots : Vector Slot 16
  e1 : List CopyRecord
  e2 : List OrbitRecord
  /-- Copy commands outstanding (spec/13 R341). -/
  outstanding : Nat
  vq : List QEntry
  mq : List QEntry
  /-- The queues are frozen by a trap (spec/09 R237). -/
  frozen : Bool
  /-- Event latch (R198). -/
  latch : BitVec 7
  pendingUser : List UserItem
  noticePending : Bool
  resizePending : Bool
  phase : Phase
  held : List Held
  acks : Acks
  /-- Remote stores that timed out, the last first: the store's VA, its physical address and bytes, sent again by the `sret` that returns to it
  (spec/09 R236, R238). -/
  resend : List (Word × Nat × List Byte)
  /-- The launch in the running table and the logical hart number. -/
  launch : Option Nat
  logical : Nat
  /-- Vector arbiter counter c(h) (spec/08 R221). -/
  arb : Int
  /-- Meridian time at which a supervisor's `vpush` began to wait (spec/09 R249, R240). -/
  pushSince : Option Nat
  /-- The translation window in progress of a supervisor's vector or matrix instruction (spec/01 R39, spec/09 R240). -/
  window : List Span
  /-- A trap has just been taken, and its entry has not been fetched yet (spec/09 R241). -/
  entering : Bool
  /-- Where the trap taken in user mode stands in program order, if it was found after its instruction had been issued: the instruction's
  VA, and the step at which it was issued (spec/09 R238). -/
  trapFrom : Option (Word × Nat)
  /-- The moment of the armed switch's notice has passed for this hart (spec/09 R253). -/
  noticed : Bool
  deriving DecidableEq, Repr

/-! ### Caches and translation (spec/01 R35, spec/03 R67, R71) -/

/-- A walk-cache entry (R35): the pointer read at a table's index. -/
structure WalkEntry where
  ctx : BitVec 16
  level : Nat
  table : Nat
  index : BitVec 9
  next : BitVec 40
  deriving DecidableEq, Repr

/-- A line of L1D or the cluster cache (R67). -/
structure CacheLine where
  /-- PA bits [51:6]. -/
  line : Nat
  rid : BitVec 4
  wv : BitVec 16
  wd : BitVec 16
  wo : BitVec 16
  who : BitVec 64
  data : List Byte
  psn : Bool
  deriving DecidableEq, Repr

/-- A line of an instruction cache (R71). -/
structure ILine where
  line : Nat
  data : List Byte
  deriving DecidableEq, Repr

/-- What the two harts of a core share (spec/07 R179), lines and entries from the most to the least recently used. -/
structure CoreState where
  l1d : List CacheLine
  l1i : List ILine
  itlb : List TlbEntry
  dtlb : List TlbEntry
  /-- Matrix arbiter counter (spec/08 R222). -/
  marb : Int
  deriving DecidableEq, Repr

/-! ### Copies (spec/13 R341 to R345, spec/08 R223) -/

/-- One side of a copy command. -/
structure CopySide where
  kind : BitVec 2
  base : Word
  region : BitVec 4
  counts : List (BitVec 32)
  strides : List Word
  deriving DecidableEq, Repr

/-- A copy command accepted by a cluster's copy unit. -/
structure CopyCmd where
  hart : Nat
  ctx : BitVec 3
  blockPa : Nat
  blockRid : BitVec 4
  id : BitVec 32
  size : BitVec 8
  irq : Bool
  ordered : Bool
  scope : BitVec 2
  handler : Word
  /-- The device that a kind-3 side names. -/
  dev : Option Nat
  src : CopySide
  dst : CopySide
  /-- PWB and privilege of the pushing hart at acceptance. -/
  pwb : Word
  sup : Bool
  /-- Elements read; once the command stops, those below the first one that is not performed. -/
  progress : Nat
  active : Bool
  /-- The block failed a check of R343, R344: completes with this status. -/
  failed : Option (BitVec 8)
  /-- Slots given away since acceptance, with the plate they resolve to (spec/03 R87). -/
  drained : List (Nat × Nat)
  /-- Plates this copy is filling. -/
  filling : List Nat
  /-- Elements read and not written yet, with their bytes (spec/05 R142), and those read in the turn in progress (spec/08 R223). -/
  buffer : List (Nat × List Byte)
  served : Nat
  /-- Lines it has pinned in slices (spec/03 R76): slice and line. -/
  pins : List (Nat × Nat)
  deriving DecidableEq, Repr

/-- What a cluster holds besides its cores (spec/00 R4). -/
structure ClusterState where
  cc : List CacheLine
  pre : List TlbEntry
  copies : List CopyCmd
  /-- The weight-0 hart last served by the vector arbiter, and the weight-0 core by the matrix engine (spec/08 R221, R222). Before any has been
  served index 0 counts as the last (DESIGN CHOICE, unsafe: log entry 159). -/
  lastV : Nat
  lastM : Nat
  /-- Vector segments outstanding: tag, and the active positions not yet counted (spec/04 R99). -/
  segments : List (Nat × Nat)
  /-- The hart whose `mop.m` holds the matrix engine while it waits for memory (spec/08 R222). -/
  engine : Option Nat
  deriving DecidableEq, Repr

/-! ### Messages -/

/-- What the message, command or unit of a step without an encoding names; a step reads the fields its rule gives it. -/
structure Msg where
  hart : HartId := 0#11
  die : DieId := 0#3
  slice : BitVec 4 := 0#4
  chan : BitVec 5 := 0#5
  bank : BitVec 5 := 0#5
  slot : BitVec 3 := 0#3
  queue : BitVec 6 := 0#6
  /-- A port, link, plane, plate, cluster, tag, key slot, orbit, launch or session, as the step's rule says. -/
  unit : BitVec 32 := 0#32
  station : BitVec 4 := 0#4
  kind : BitVec 8 := 0#8
  scope : BitVec 2 := 0#2
  region : BitVec 4 := 0#4
  size : BitVec 2 := 0#2
  dev : BitVec 10 := 0#10
  addr : Word := 0#64
  value : Word := 0#64
  value2 : Word := 0#64
  mask : Word := 0#64
  flag : Bool := false
  flag2 : Bool := false
  flag3 : Bool := false
  words : List Word := []
  bytes : List Byte := []
  digest : BitVec 384 := 0#384
  deriving DecidableEq, Repr

/-! ### Slices (spec/03 R73, R74; spec/05 R137, R139) -/

/-- A line of a shared-cache slice; the data of a home line is the memory's, the data of an RLC line is held here. -/
structure SliceLine where
  /-- PA bits [51:6]. -/
  line : Nat
  rlc : Bool
  wv : BitVec 16
  wd : BitVec 16
  psn : Bool
  pin : Nat
  fill : Bool
  /-- An acquire has met its fill in flight: the fill installs nothing (spec/05 R124). -/
  stale : Bool
  data : List Byte
  deriving DecidableEq, Repr

/-- A registration: the words of a line that a hart owns at a point (R74). -/
structure RegEntry where
  line : Nat
  dev : BitVec 10
  /-- The owner's number (`ownerKey`): a hart of this device by its physical number, others above 2,047. -/
  hart : Nat
  mask : BitVec 16
  /-- The key slot of the request that registered (spec/02 R64). -/
  slot : Nat
  deriving DecidableEq, Repr

/-- A parked queue-lock or klaunch waiter (spec/05 R139). -/
structure Park where
  pa : Nat
  ticket : Word
  hart : Nat
  launch : Bool
  deriving DecidableEq, Repr

/-- A ticket drawn and not yet passed: its lock word with its key slot, its hart, and whether that hart is gone (spec/21 R478). -/
structure Ticket where
  pa : Nat
  slot : Nat
  ticket : BitVec 32
  hart : Nat
  lost : Bool
  deriving DecidableEq, Repr

/-- A shared-cache slice. -/
structure SliceState where
  lines : List SliceLine
  regs : List RegEntry
  /-- Watched 8-byte words with their harts. -/
  watches : List (Nat × Nat)
  parks : List Park
  tickets : List Ticket
  /-- Requests whose allocation or pin waits for a pin or a fill of their set to end (R76, R77). -/
  waiting : List Msg
  deriving DecidableEq, Repr

/-! ### Main memory (spec/02) -/

/-- A bank of a channel (R52, R59, R60). -/
structure Bank where
  openRow : Option Nat
  owed : Nat
  blocked : Bool
  /-- Alerts latched while the bank is blocked or the channel is stalled. -/
  alerts : Nat
  deriving DecidableEq, Repr

/-- A request queued at a channel controller (R52, R53). -/
structure HbmReq where
  la : Nat
  write : Bool
  /-- The key slot it names. -/
  slot : Nat
  aged : Bool
  /-- It has come while a load of its key slot waits for earlier ones: it is issued under the new key (R65). -/
  late : Bool
  deriving DecidableEq, Repr

/-- A channel controller (R55, R62). -/
structure Channel where
  cur : BitVec 2
  busy : Bool
  /-- The rate of the switch in progress. -/
  goal : BitVec 2
  limit : BitVec 2
  ceil : BitVec 2
  last : BitVec 20
  trans : BitVec 20
  corr : BitVec 20
  poisValid : Bool
  poisLine : BitVec 36
  alerts : BitVec 32
  queue : List HbmReq
  inFlight : List HbmReq
  /-- Reads whose first decode failed. -/
  retry : List HbmReq
  banks : SMap Bank
  /-- Lanes spared in the channel, and its corrected and its transient reads that count towards a spare: lane and time (spec/21
  R476). -/
  spared : List Nat
  corrLog : List (Nat × Nat)
  transLog : List (Nat × Nat)
  deriving DecidableEq, Repr

/-- Which key wrote a line last, and the two stamps that name its other contents (R58, R65). -/
structure LineKey where
  key : Nat
  own : Nat
  seen : Nat
  deriving DecidableEq, Repr

/-- What HBM holds of a line whose home slice holds newer words, or holds the line whole while HBM's copy has been poisoned (spec/03 R73,
spec/02 R63): the bytes listed, their key, and poison. -/
structure Under where
  cells : List Host.Cell
  key : LineKey
  psn : Bool
  deriving DecidableEq, Repr

/-! ### Plates (spec/03 R80 to R87) -/

/-- Where a plate's hand-over ends. -/
inductive HandTo where
  | pool
  /-- A slot of a hart; `give` for a `pgive`, whose arrival sets the event latch (spec/07 R198). -/
  | slot (hart slot : Nat) (give : Bool)
  /-- A station of an orbit: the executor hart and its slot 14 or 15, and the orbit. -/
  | station (hart slot orbit : Nat)
  deriving DecidableEq, Repr

/-- A plate record (R80), with its hand-over in progress (R87). -/
structure Plate where
  /-- 0 EMPTY, 1 FILLING, 2 READY, 3 DRAINING. -/
  state : BitVec 2
  held : BitVec 2
  /-- 0 unassigned, 1 context pool, 2 hart slot, 3 orbit station. -/
  attach : BitVec 2
  ctx : BitVec 3
  /-- For a hart slot: hart × 16 + slot; for a station: cluster × 16 + station. -/
  target : Nat
  /-- The end of the hand-over that waits or drains. -/
  hand : Option HandTo
  deriving DecidableEq, Repr

/-! ### Fabrics and the domain (spec/04) -/

/-- A UALink port (R108). -/
structure Port where
  retry : BitVec 24
  mode : BitVec 4
  inuse : Bool
  /-- Retries of its link that have failed in a row. -/
  streak : Nat
  /-- It has gone down and has not been brought back. -/
  failed : Bool
  deriving DecidableEq, Repr

/-- A host aperture (R113). -/
structure Aperture where
  base : Word
  size : Word
  tgt : Word
  err : Bool
  sync : Bool
  key : BitVec 4
  deriving DecidableEq, Repr

/-- A decoder of host-managed device memory (R112): a range of host physical addresses, and the aperture whose bytes it shows. -/
structure Hdm where
  base : Word
  size : Word
  aperture : BitVec 5
  deriving DecidableEq, Repr

/-- A die-to-die link (R103, spec/21 R476). -/
structure Link where
  retry : Nat
  /-- Lanes repaired in each direction: toward the die named first in spec/00 R2's table, and away from it. -/
  inward : Nat
  outward : Nat
  half : Bool
  deriving DecidableEq, Repr

/-- An answered remote request kept for duplicate suppression (R108). -/
structure Saved where
  src : BitVec 10
  rtag : BitVec 16
  answer : BitVec 512
  poisoned : Bool
  refused : Bool
  /-- Meridian time at which it was performed. -/
  time : Nat
  deriving DecidableEq, Repr

/-- A request to another device that is outstanding, or held by an I/O die (R108, spec/08 R226): the address, the plane, its tag, the hart
it serves and the context. A held one is a copy's write of an element, with its bytes; `window` for one that addresses a plate. -/
structure Remote where
  pa : Nat
  plane : Nat
  tag : Nat
  hart : Nat
  ctx : BitVec 3
  held : Bool
  window : Bool
  bytes : List Byte
  deriving DecidableEq, Repr

/-- The control messages that travel to another device as vendor-defined ones (R106, spec/21 R478). -/
inductive FabricMsg where
  | registration (scope : BitVec 2)
  | registrationAck
  | revocation (writeBack : Bool)
  | lockDraw
  | lockGrant (ticket : BitVec 32)
  | lockPoll (ticket : BitVec 32)
  | lockIncrement
  | wake
  | dieLost (die : Nat)
  | dieLostAck (die : Nat)
  deriving DecidableEq, Repr

/-- What this device has put on a plane for other devices (R106, R107, R115, spec/08 R224): a request for a line, with the domain context
tag and its own, a marker of a context's cut with its CTXID and domain context tag, a meridian time message, or another control message with the sender, the device it goes to, the
line, the hart there or here and the words. -/
inductive Packet where
  | request (plane : Nat) (line : Nat) (ctx : BitVec 16) (tag : Nat)
  | message (plane src dev : Nat) (what : FabricMsg) (line hart : Nat) (mask : BitVec 16)
  | marker (plane dev : Nat) (ctx tag : BitVec 16) (epoch : BitVec 8)
  | sync (plane : Nat) (time : Word)
  deriving DecidableEq, Repr

/-- The meridian clock and its block (R115, R116). -/
structure Clock where
  offset : BitVec 32
  hold : Bool
  master : Bool
  lock : Bool
  masterDev : Option (BitVec 10)
  /-- Measured round trip on each plane, and the best SYNC of this interval. -/
  rtt : SMap (BitVec 32)
  /-- SYNC messages sent, and the meridian time at which one was last accepted. -/
  sent : Nat
  lastSync : Nat
  deriving DecidableEq, Repr

/-! ### Dispatch (spec/08) and contexts (spec/07 R184) -/

/-- A queue as its agent knows it (spec/08 R215 to R217). -/
structure QueueState where
  /-- The malformed entry, as bytes, for which an event of kind 6 has been posted. -/
  badPosted : Option (List Byte)
  /-- Overrun seen: nothing is taken until TAIL is written. -/
  overrun : Bool
  /-- The head passed R188 and its dependence is met: its record VA and its priority. -/
  ready : Option (Word × BitVec 2)
  deriving DecidableEq, Repr

/-- A resident slot's dispatch block and context (R212, R214). -/
structure Ctx where
  qtab : Word
  /-- DCQTAB as the last queue scan took it, and whether it has been written since (R214). -/
  table : Word
  fresh : Bool
  ptb : Word
  save : Word
  /-- DCSAVE as it stood when the cut in progress began (R214). -/
  saveNow : Word
  arg : Word
  supt : Word
  dgrant : Word
  cmderr : Bool
  busy : Bool
  /-- 0 empty, 1 running, 2 parked, 3 quiesced. -/
  state : BitVec 2
  gen : BitVec 13
  keyLoaded : Bool
  /-- Dies on which the context has run: their pools are set up. -/
  ranOn : BitVec 8
  queues : SMap QueueState
  /-- The epoch of its last cut (R224). -/
  epoch : BitVec 8
  /-- Its plates as the last resume has moved them: old and new numbers (R226). -/
  moves : List (Nat × Nat)
  deriving DecidableEq, Repr

/-- A running launch (spec/08 R219, spec/07 R193). -/
structure Launch where
  slot : BitVec 3
  record : Word
  /-- The code object's handle (spec/21 R474). -/
  handle : Word
  compVa : Word
  dext : Nat
  cext : Nat
  /-- Physical harts by logical number, and the logical numbers of those that have retired. -/
  harts : List Nat
  done : List Nat
  /-- Vector share wanted and its minimum, in KiB (spec/07 R190). -/
  want : Nat
  least : Nat
  deriving DecidableEq, Repr

/-- A hart as the save area keeps it: logical position and state. -/
structure SavedHart where
  launch : Nat
  pos : Nat
  phys : Nat
  hart : Hart
  /-- Vector share, tiles and accumulators as bytes from their first, with poison marks as bit offsets. -/
  vregs : List (Nat × Byte)
  tiles : List (Nat × Byte)
  accs : List (Nat × Byte)
  vmarks : List Nat
  tmarks : List Nat
  amarks : List Nat
  deriving DecidableEq, Repr

/-- A plate as the save area keeps it. -/
structure SavedPlate where
  die : Nat
  plate : Nat
  record : Plate
  bytes : List (Nat × Byte)
  marks : List Nat
  deriving DecidableEq, Repr

/-- The saved image of a parked context (R229). -/
structure SavedCtx where
  harts : List SavedHart
  plates : List SavedPlate
  parks : List Park
  copies : List (Nat × CopyCmd)
  held : List Remote
  /-- The save area that holds it: address and size in bytes, and its stamp; size 0 for an image that no area holds. -/
  base : Nat
  size : Nat
  stamp : Nat
  deriving DecidableEq, Repr

/-- A cut of a context in progress (R224 to R226). -/
structure Cut where
  slot : Nat
  epoch : BitVec 8
  quiesce : Bool
  /-- The units that have begun it: compute dies 0 to 7, I/O dies 8 and 9. -/
  begun : List Nat
  /-- Markers held: source device and plane. -/
  markers : List (Nat × Nat)
  complete : Bool
  deriving DecidableEq, Repr

/-- The switch block (R228). -/
structure Switch where
  t : Word
  phase : BitVec 2
  refused : Bool
  dur : BitVec 32
  park : Bool
  target : BitVec 3
  /-- T as it stood at the arming. -/
  latched : Word
  /-- T has come: the cuts of the switch have begun. -/
  begun : Bool
  deriving DecidableEq, Repr

/-! ### Events to the host (spec/09 R257 to R260) -/

/-- An event record. -/
structure EvRec where
  count : BitVec 16
  die : BitVec 3
  srcio : Bool
  kind : BitVec 8
  seq : BitVec 32
  detail : Word
  time : Word
  ctxid : BitVec 16
  fofs : BitVec 8
  hart : BitVec 27
  deriving DecidableEq, Repr

/-- An I/O die's event queue. -/
structure EvQueue where
  head : Word
  tail : Word
  irq : Bool
  entries : SMap EvRec
  /-- MSI-X messages sent. -/
  msi : Nat
  deriving DecidableEq, Repr

/-- A source's hold and spill page: compute dies 0 to 7, I/O dies 8 and 9. -/
structure EvSource where
  hold : List EvRec
  /-- The spill page, at most 2,048 records, and events that wait at their sources for room in it. -/
  spill : List EvRec
  waiting : List EvRec
  seq : BitVec 32
  deriving DecidableEq, Repr

/-! ### Orbits (spec/07 R202 to R211, spec/17 R430 to R435) -/

/-- An ephemeris entry (R205). -/
structure EphEntry where
  pro : BitVec 12
  retro : BitVec 12
  task : BitVec 16
  fired : Bool
  arg : Word
  /-- Physical address of the entry. -/
  pa : Nat
  deriving DecidableEq, Repr

/-- A tile at a station: its ID and the plate that holds it. -/
structure OTile where
  id : BitVec 12
  plate : Option Nat
  deriving DecidableEq, Repr

/-- A station of an orbit. -/
structure Station where
  hart : Nat
  pro : OTile
  retro : OTile
  round : Nat
  /-- A task of this round is delivered or pending. -/
  task : Bool
  /-- The round's pair has been looked up. -/
  looked : Bool
  ended : Bool
  /-- Markers received for the next round from the next and the previous station. -/
  markNext : Nat
  markPrev : Nat
  /-- Tiles waiting in the plate switch. -/
  inPro : List OTile
  inRetro : List OTile
  deriving DecidableEq, Repr

/-- An orbit of a die: 0 FREE, 1 DEFINED, 2 RUNNING, 3 COMPLETE. -/
structure Orbit where
  state : BitVec 2
  launch : Option Nat
  owner : Nat
  ctx : BitVec 3
  ephVa : Word
  ephRegion : BitVec 4
  taskVa : Word
  taskCount : Nat
  entries : Nat
  lapLimit : Nat
  /-- The task table's handlers, read by `orbgo`. -/
  handlers : List Word
  stations : List Station
  eph : List EphEntry
  fcount : Nat
  dcount : Nat
  laps : Nat
  complete : Bool
  deriving DecidableEq, Repr

/-! ### The trust die (spec/21) -/

/-- A registry entry (R472). -/
structure RegObj where
  live : Bool
  slot : BitVec 3
  gen : BitVec 16
  textPa : Nat
  size : Nat
  /-- Offset of the text in the object, and the VA of the object's first byte, which the spec does not say how to learn. -/
  textOfs : Nat
  base : Word
  digest : BitVec 384
  /-- The owner key slot of its signature. -/
  owner : BitVec 3
  deriving DecidableEq, Repr

/-- An SPDM session (R471). -/
structure Session where
  id : BitVec 32
  mutualAuth : Bool
  established : Bool
  updates : Nat
  deriving DecidableEq, Repr

/-- A firmware image in the non-volatile store that has come over SPDM (R463): its digest and security version, and the firmware public key and
signature that it carries. -/
structure Firmware where
  digest : BitVec 384
  version : Word
  key : List Byte
  sig : List Byte
  deriving DecidableEq, Repr

/-- The trust die's own state. -/
structure Trust where
  recovery : Bool
  booted : Bool
  request : SMap Byte
  response : SMap Byte
  cmd : Word
  rlen : BitVec 16
  tag : BitVec 16
  result : BitVec 8
  err : Bool
  done : Bool
  busy : Bool
  objects : SMap RegObj
  /-- Public point (97 bytes) and minimum security version of each owner slot. -/
  ownerKeys : SMap (List Byte × Word)
  measurements : SMap (BitVec 384)
  sessions : List Session
  version : Bool
  caps : Bool
  algos : Bool
  chunk : Option (BitVec 8 × BitVec 16)
  /-- The images in the non-volatile store that have replaced those the module was built with, by measurement 2 to 6, and whether one is not yet
  running (R463). -/
  firmware : SMap Firmware
  staged : Bool
  /-- Measurements of images that failed their verification at the last cold boot (R463). -/
  bad : List Nat
  deriving DecidableEq, Repr

/-! ### The device -/

/-- A watch of a queue agent on a TAIL word or on the dependence word of a head (spec/08 R217). -/
structure AgentWatch where
  pa : Nat
  slot : BitVec 3
  queue : BitVec 6
  dep : Bool
  deriving DecidableEq, Repr

/-- The device's main memory, caches and slices. -/
structure MemState where
  /-- Bytes by physical address, in canonical form (`Mem.wf`): HBM of every device, and the on-chip windows of this one. -/
  mem : List Host.Cell
  lineKeys : SMap LineKey
  /-- Save areas as the last switch wrote them (spec/08 R229): first line, number of lines, and what their lines hold until they are
  written. -/
  areas : List (Nat × Nat × LineKey)
  /-- Poisoned HBM lines, PA bits [51:6]. -/
  poisoned : List Nat
  /-- HBM's own copies of the lines, PA bits [51:6], that differ from what is read at home. -/
  under : SMap Under
  /-- Poison marks of on-chip elements: bit addresses (8 × PA + bit). -/
  marks : List Nat
  cores : SMap CoreState
  clusters : SMap ClusterState
  slices : SMap SliceState
  agentWatches : List AgentWatch
  /-- Walk caches and sequencer TLBs of the two I/O dies. -/
  walkCache : SMap (List WalkEntry)
  seqTlb : SMap (List TlbEntry)
  channels : SMap Channel
  /-- The key in each slot as the trust die delivered it last, and channels that hold another. -/
  slotKeys : SMap Nat
  chanKeys : SMap Nat
  nextKey : Nat
  hot : SMap Bool
  /-- How often a die's stack has been scrubbed since the device came up (R58, spec/21 R464). -/
  scrubs : SMap Nat
  /-- Errors of a die's on-chip arrays: corrected ones, and uncorrectable ones that went away on a repeated access (spec/03 R79). -/
  arrayCorr : SMap Nat
  arrayTrans : SMap Nat
  plates : SMap Plate
  deriving DecidableEq, Repr

/-- The answer to a request of another agent: the bytes returned, their poison, and a refusal (for the host: Unsupported Request). -/
structure Answer where
  bytes : List Byte
  poisoned : Bool
  refused : Bool
  deriving DecidableEq, Repr

/-- A context resident on another device: the device, its domain context tag, its resident slot there, and that slot's DCQTAB and
DCPTB (spec/04 R111, spec/13 R350). -/
structure RemoteCtx where
  dev : Nat
  tag : BitVec 16
  slot : BitVec 3
  qtab : Word
  ptb : Word
  deriving DecidableEq, Repr

/-- The fabrics, the host bridge and the clock. -/
structure FabricState where
  devValid : Bool
  dev : BitVec 10
  members : SMap Word
  ports : SMap Port
  /-- Planes that are down at another device's end: device and plane (R107). -/
  peerDown : List (Nat × Nat)
  /-- This device serves its host group, in the CXL mode of the host link, with its decoders (R11, R112). -/
  hostDev : Bool
  cxl : Bool
  hdm : SMap Hdm
  links : SMap Link
  apertures : SMap Aperture
  clock : Clock
  saved : List Saved
  remotes : List Remote
  /-- What has been put on the planes, the last first. -/
  sent : List Packet
  /-- Contexts that remote devices hold, by domain context tag (R21). -/
  remoteCtxs : List RemoteCtx
  /-- What the last request of another agent was answered with. -/
  answer : Answer
  /-- Dies of this device held in reset, I/O dies as 8 and 9, with the acknowledgements of their die-lost message still awaited (spec/21 R478). -/
  lostDies : List (Nat × Nat)
  deriving DecidableEq, Repr

/-- The dispatch sequencer and the switch. -/
structure DispatchState where
  ctxs : SMap Ctx
  launches : SMap Launch
  rr : SMap Nat
  switch : Switch
  cuts : List Cut
  saved : SMap SavedCtx
  evq : SMap EvQueue
  evs : SMap EvSource
  orbits : SMap Orbit
  deriving DecidableEq, Repr

/-- The state of one device. -/
structure State where
  /-- The executing hart: its physical number and its state. -/
  cur : Nat
  hart : Hart
  /-- The other harts. -/
  others : SMap Hart
  m : MemState
  fab : FabricState
  disp : DispatchState
  trust : Trust
  /-- Meridian time. -/
  time : Nat
  /-- The model's own: steps of other agents that happen next with what they name, what the step being taken names, the harts to
  run next, the count of steps, the count of free values taken. -/
  inbox : List (Instr × Msg)
  msg : Msg
  turns : List Nat
  tick : Nat
  free : Nat
  deriving DecidableEq, Repr

/-! ### Reset -/

def ScalarRegs.reset : ScalarRegs := { x := Vector.replicate 32 0#64, f := Vector.replicate 32 0#64 }
def VecRegs.reset : VecRegs :=
  { vl := 0#14, request := 0#5, ill := true, resized := false, b := 0, vrows := 1#4, vstr := 0#32, vpitch := 0#40, vmsel := 0#5,
    vstart := 0#32, mbx := 0#32, full := 0#32, ovf := false, inv := false, vtaglo := 0#64, vtaghi := 0#64 }
def UserRegs.reset : UserRegs :=
  { drm := 0#3, rat := false, fflags := 0#5, pwb := 0#64, aqrm := 0#16, watchVa := 0#64, watchEn := false, mstart := 0#10,
    pushlim := 0x100000#32, tshape := Vector.replicate 8 0#20 }
def UserIrq.reset : UserIrq :=
  { cause := 0#4, inh := false, ore := false, nte := false, cde := false, xepc := 0#64, xid := 0#32, xres := 0#64, xnot := 0#64,
    keep4 := 0#64, keep5 := 0#64, keep6 := 0#64 }
def TrapRegs.reset : TrapRegs :=
  { qk := 0#2, skip := false, prior := false, frz := false, trpc := 0#64, trnext := 0#64, trcode := 0#8, trarg := 0#64,
    trentry := 0#64, trspare := 0#64 }
def SupRegs.reset : SupRegs := { sptb := 0#64, sfpa := 0#64, sfpn := 0#7, sctb := 0#64, srtb := 0#64, snotice := 0#32 }
def Grant.reset : Grant :=
  { voff := 0#9, vsz := 0#10, tbase := 0#5, tcnt := 0#4, abase := 0#4, acnt := 0#3, pln := 0#5, vw := 0#4, mw := 0#4, orb := false }

/-- A hart that no launch has placed (spec/07 R191 gives the values a launch starts with). -/
def Hart.reset : Hart :=
  { pc := 0#64, regs := .reset, sup := false, vec := .reset, user := .reset, irq := .reset, trap := .reset, sregs := .reset,
    grant := .reset, ctx := 0#3, gen := 0#13, slots := Vector.replicate 16 .empty, e1 := [], e2 := [], outstanding := 0, vq := [],
    mq := [], frozen := false, latch := 0#7, pendingUser := [], noticePending := false, resizePending := false, phase := .idle,
    held := [], acks := { reg := 0, acq := 0, tlb := 0 }, resend := [], launch := none, logical := 0, arb := 0, pushSince := none, window := [], entering := false, trapFrom := none,
    noticed := false }

def CoreState.reset : CoreState := { l1d := [], l1i := [], itlb := [], dtlb := [], marb := 0 }
/-- The arbiters begin as if index 0 had been served last (DESIGN CHOICE, unsafe: log entry 159). -/
def ClusterState.reset : ClusterState := { cc := [], pre := [], copies := [], lastV := 0, lastM := 0, segments := [], engine := none }
def SliceState.reset : SliceState := { lines := [], regs := [], watches := [], parks := [], tickets := [], waiting := [] }
def Bank.reset : Bank := { openRow := none, owed := 0, blocked := false, alerts := 0 }
def Channel.reset : Channel :=
  { cur := 0#2, busy := false, goal := 0#2, limit := 0#2, ceil := 0#2, last := 0#20, trans := 0#20, corr := 0#20, poisValid := false,
    poisLine := 0#36, alerts := 0#32, queue := [], inFlight := [], retry := [], banks := [], spared := [], corrLog := [], transLog := [] }
def LineKey.reset : LineKey := { key := 0, own := 0, seen := 0 }
def Plate.reset : Plate := { state := 0#2, held := 0#2, attach := 0#2, ctx := 0#3, target := 0, hand := none }
def Port.reset : Port := { retry := 0#24, mode := 0#4, inuse := false, streak := 0, failed := false }
def Aperture.reset : Aperture := { base := 0#64, size := 0#64, tgt := 0#64, err := false, sync := false, key := 0#4 }
def Hdm.reset : Hdm := { base := 0#64, size := 0#64, aperture := 0#5 }
def Link.reset : Link := { retry := 0, inward := 0, outward := 0, half := false }
def QueueState.reset : QueueState := { badPosted := none, overrun := false, ready := none }
def Ctx.reset : Ctx :=
  { qtab := 0#64, table := 0#64, fresh := false, ptb := 0#64, save := 0#64, saveNow := 0#64, arg := 0#64, supt := 0#64, dgrant := 0#64, cmderr := false, busy := false,
    state := 0#2, gen := 0#13, keyLoaded := false, ranOn := 0#8, queues := [], epoch := 0#8, moves := [] }
def EvQueue.reset : EvQueue := { head := 0#64, tail := 0#64, irq := false, entries := [], msi := 0 }
def EvSource.reset : EvSource := { hold := [], spill := [], waiting := [], seq := 0#32 }
def Orbit.reset : Orbit :=
  { state := 0#2, launch := none, owner := 0, ctx := 0#3, ephVa := 0#64, ephRegion := 0#4, taskVa := 0#64, taskCount := 0, entries := 0,
    lapLimit := 0, handlers := [],
    stations := [], eph := [], fcount := 0, dcount := 0, laps := 0, complete := false }
def RegObj.reset : RegObj :=
  { live := false, slot := 0#3, gen := 0#16, textPa := 0, size := 0, textOfs := 0, base := 0#64, digest := 0#384, owner := 0#3 }
def SavedCtx.reset : SavedCtx := { harts := [], plates := [], parks := [], copies := [], held := [], base := 0, size := 0, stamp := 0 }
def Trust.reset : Trust :=
  { recovery := false, booted := true, request := [], response := [], cmd := 0#64, rlen := 0#16, tag := 0#16, result := 0#8,
    err := false, done := false, busy := false, objects := [], ownerKeys := [], measurements := [], sessions := [],
    version := false, caps := false, algos := false, chunk := none, firmware := [], staged := false, bad := [] }

/-- The device after the reset of spec/21 R462: the dies are out of reset and no context has been created. Meridian time starts at 0,
which the spec does not give (DESIGN CHOICE, unsafe: log entry 120), and the key slots hold keys of their own (log entry 130). -/
def State.reset : State :=
  { cur := 0, hart := .reset, others := [],
    m := { mem := [], lineKeys := [], areas := [], poisoned := [], under := [], marks := [], cores := [], clusters := [], slices := [], agentWatches := [], walkCache := [],
           seqTlb := [], channels := [], slotKeys := (List.range 9).map (fun i => (i, i)), chanKeys := [], nextKey := 9, hot := [], scrubs := [], arrayCorr := [], arrayTrans := [], plates := [] },
    fab := { devValid := false, dev := 0#10, members := [], ports := [], peerDown := [], hostDev := false, cxl := false, hdm := [], links := [], apertures := [],
             clock := { offset := 0#32, hold := false, master := false, lock := false, masterDev := none, rtt := [], sent := 0, lastSync := 0 },
             saved := [], remotes := [], sent := [], remoteCtxs := [], answer := { bytes := [], poisoned := false, refused := false }, lostDies := [] },
    disp := { ctxs := [], launches := [], rr := [],
              switch := { t := 0#64, phase := 0#2, refused := false, dur := 0#32, park := false, target := 0#3, latched := 0#64, begun := false },
              cuts := [], saved := [], evq := [], evs := [], orbits := [] },
    trust := .reset, time := 0, inbox := [], msg := {}, turns := [], tick := 0, free := 0 }

end Sys2Proof.Machine
end

