-- ==== Sys2Proof/Machine/Mem.lean ====
section
/-! DEFINITION. Byte memory in one canonical form, and the address arithmetic of the local map (spec/01 R21 to R23, spec/02 R49,
R50, spec/03 R72, R74). -/
namespace Sys2Proof.Machine
set_option Elab.async false

/-! ### Addresses -/

/-- LA of a physical address (R21). -/
def laOf (pa : Nat) : Nat := pa % 2 ^ 42
/-- DEV of a physical address (R21). -/
def devOf (pa : Nat) : Nat := pa / 2 ^ 42
/-- Bits [lo + w - 1 : lo] of an address. -/
def bitsOf (a lo w : Nat) : Nat := (a >>> lo) % 2 ^ w

/-- The kinds of local address (R22, R23). -/
inductive LaKind where
  | hbm
  | plate (die plate ofs : Nat)
  | vreg (cluster ofs : Nat)
  | tile (cluster ofs : Nat)
  | acc (cluster ofs : Nat)
  | control
  | mailbox
  | reserved
  deriving DecidableEq, Repr

/-- The local physical map (R22, R23). A cluster is numbered die × 16 + cluster. -/
def laKind (la : Nat) : LaKind :=
  if la < 0x8000000000 then .hbm
  else if la < 0x20000000000 then .reserved
  else if la < 0x20800000000 then
    let o := la - 0x20000000000
    if o % 2 ^ 32 < 0x2000000 then .plate (o / 2 ^ 32) (bitsOf o 18 7) (o % 2 ^ 18) else .reserved
  else if la < 0x21000000000 then .reserved
  else if la < 0x21080000000 then
    let o := la - 0x21000000000
    let c := bitsOf o 28 3 * 16 + bitsOf o 24 4
    let w := o % 2 ^ 24
    if w < 0x80000 then .vreg c w
    else if w < 0x100000 then .tile c (w - 0x80000)
    else if w < 0x180000 then .acc c (w - 0x100000)
    else .reserved
  else if la < 0x30000000000 then .reserved
  else if la < 0x3F000000000 then .control
  else if la < 0x3F000010000 then .mailbox
  else .reserved

/-- Whether an LA is HBM (R22). -/
def isHbm (la : Nat) : Bool := decide (la < 0x8000000000)

/-- Channel C of an HBM address (R49). -/
def channelOf (la : Nat) : Nat := bitsOf la 8 5 ^^^ bitsOf la 20 5
/-- The bank of an HBM address within its channel: pseudo-channel, bank group and bank (R49). -/
def bankOf (la : Nat) : Nat :=
  (bitsOf la 13 1 ^^^ bitsOf la 25 1) * 16 + (bitsOf la 14 2 ^^^ bitsOf la 26 2) * 4 + (bitsOf la 16 2 ^^^ bitsOf la 28 2)
/-- Row of an HBM address (R49). -/
def rowOf (la : Nat) : Nat := bitsOf la 20 16
/-- Compute die of an HBM address (R22, R49). -/
def dieOf (la : Nat) : Nat := bitsOf la 36 3
/-- Home slice of an HBM address (R50). -/
def sliceOf (la : Nat) : Nat := channelOf la % 16
/-- Set of a line within its slice (R72). -/
def sliceSet (la : Nat) : Nat := (bitsOf la 14 10 ^^^ bitsOf la 24 10) * 4 + bitsOf la 6 2
/-- Set of a line in a registration table (R74). -/
def regSet (la : Nat) : Nat := bitsOf la 6 11 ^^^ bitsOf la 17 11 ^^^ bitsOf la 28 11 ^^^ bitsOf la 39 3

/-- LA of byte `ofs` of a plate (R22). -/
def plateLa (die plate ofs : Nat) : Nat := 0x20000000000 + die * 2 ^ 32 + plate * 2 ^ 18 + ofs
/-- LA of offset `ofs` of a cluster window (R23). -/
def clusterLa (cluster ofs : Nat) : Nat := 0x21000000000 + (cluster / 16) * 2 ^ 28 + (cluster % 16) * 2 ^ 24 + ofs

/-! ### Bytes -/

/-- The number that bytes give, the lowest address least significant (R13). -/
def leNat : List Byte → Nat
  | [] => 0
  | b :: bs => b.toNat + 256 * leNat bs

/-- The low `n` bytes of a number, lowest address first (R13). -/
def toBytes : Nat → Nat → List Byte
  | 0, _ => []
  | n + 1, v => BitVec.ofNat 8 v :: toBytes n (v / 256)

/-- Replace the bytes of a list from position `i`. -/
def putBytes (l : List Byte) : Nat → List Byte → List Byte
  | _, [] => l
  | i, b :: bs => putBytes (l.set i b) (i + 1) bs

/-! ### Memory -/

/-- What an address that is not listed reads as: storage of the on-chip windows reads 0, and HBM has no value of the model's
choosing (`none`: the reader supplies the free value of R58). -/
def Mem.unlisted (a : Nat) : Option Byte := if isHbm (laOf a) then none else some 0#8

/-- The byte at an address. -/
def Mem.read : List Host.Cell → Nat → Option Byte
  | [], a => Mem.unlisted a
  | (k, v) :: m, a => if a < k then Mem.unlisted a else if a = k then some v else Mem.read m a

/-- Put a cell in front unless it says what an unlisted address says. -/
def Mem.cons (a : Nat) (v : Byte) (m : List Host.Cell) : List Host.Cell :=
  if Mem.unlisted a = some v then m else (a, v) :: m

/-- Write one byte. -/
def Mem.write (a : Nat) (v : Byte) : List Host.Cell → List Host.Cell
  | [] => Mem.cons a v []
  | (k, w) :: m => if a < k then Mem.cons a v ((k, w) :: m) else if a = k then Mem.cons a v m else (k, w) :: Mem.write a v m

/-- Write bytes at rising addresses. -/
def Mem.writes (a : Nat) : List Byte → List Host.Cell → List Host.Cell
  | [], m => m
  | b :: bs, m => Mem.writes (a + 1) bs (Mem.write a b m)

/-- Forget the bytes from `a` to `a + n - 1`, which read as unlisted. -/
def Mem.drop (a n : Nat) (m : List Host.Cell) : List Host.Cell := m.filter fun c => !(decide (a ≤ c.1) && decide (c.1 < a + n))

/-- The canonical form: addresses strictly rising, and no cell equal to what an unlisted address reads as. -/
def Mem.wf : List Host.Cell → Bool
  | [] => true
  | (k, v) :: m =>
    decide (Mem.unlisted k ≠ some v) && (match m with | [] => true | (k', _) :: _ => decide (k < k')) && Mem.wf m

/-! ### Sorted lists of numbers (poisoned lines, poison marks) -/

def natInsert (n : Nat) : List Nat → List Nat
  | [] => [n]
  | k :: l => if n < k then n :: k :: l else if n = k then k :: l else k :: natInsert n l

/-- Remove the numbers from `lo` to `lo + n - 1`. -/
def natDrop (lo n : Nat) (l : List Nat) : List Nat := l.filter fun k => !(decide (lo ≤ k) && decide (k < lo + n))

/-- Whether a number from `lo` to `lo + n - 1` is listed. -/
def natAny (lo n : Nat) (l : List Nat) : Bool := l.any fun k => decide (lo ≤ k) && decide (k < lo + n)

/-! ### Masks -/

/-- Bit `i` of a 16-bit word mask. -/
def bitAt (m : BitVec 16) (i : Nat) : Bool := m.getLsbD i
/-- The mask with bit `i` alone. -/
def bitMask (i : Nat) : BitVec 16 := 1#16 <<< i
/-- The word indices 0 to 15. -/
def words16 : List Nat := [0, 1, 2, 3, 4, 5, 6, 7, 8, 9, 10, 11, 12, 13, 14, 15]
/-- The words that `n` bytes from byte `o` of a line touch. -/
def wordMask (o n : Nat) : BitVec 16 :=
  words16.foldl (fun m i => if 4 * i + 4 ≤ o ∨ o + n ≤ 4 * i then m else m ||| bitMask i) 0#16

end Sys2Proof.Machine
end

