-- ==== Sys2Proof/Machine/Regs.lean ====
section
/-! DEFINITION. Reading and writing the state's parts: registers, harts, cores, clusters, slices and the rest, and the result
type of a meaning (spec/07 R178 to R180). -/
namespace Sys2Proof.Machine
set_option Elab.async false

/-! ### Results -/

/-- Why an instruction does not complete: a trap with its cause and TRARG (spec/09 R233) and the place it stands at (R236), a
wait, in which nothing has happened yet, or a stop of the model. -/
inductive Stop where
  | trap (code : BitVec 8) (arg : Word)
  | stall
  deriving DecidableEq, Repr

/-- A computation over the state that can stop. -/
abbrev M := EStateM Stop State

/-- Raise a trap. -/
def raise {α : Type} (code : BitVec 8) (arg : Word) : M α := throw (.trap code arg)
/-- Wait: the instruction is met again at the next step. -/
def stall {α : Type} : M α := throw .stall

/-! The trap causes (spec/09 R233). -/
def tcIllegal : BitVec 8 := 0x01#8
def tcPrivileged : BitVec 8 := 0x02#8
def tcMisaligned : BitVec 8 := 0x03#8
def tcFetchFault : BitVec 8 := 0x04#8
def tcPageFault : BitVec 8 := 0x05#8
def tcAccessFault : BitVec 8 := 0x06#8
def tcPoison : BitVec 8 := 0x07#8
def tcVconfig : BitVec 8 := 0x08#8
def tcGrant : BitVec 8 := 0x09#8
def tcDetached : BitVec 8 := 0x0A#8
def tcBound : BitVec 8 := 0x0B#8
def tcPushTimeout : BitVec 8 := 0x0C#8
def tcEnginePort : BitVec 8 := 0x0D#8
def tcRationalOp : BitVec 8 := 0x0E#8
def tcEcall : BitVec 8 := 0x0F#8
def tcEbreak : BitVec 8 := 0x10#8

/-! ### The executing hart -/

/-- Change the executing hart. -/
def State.updHart (s : State) (g : Hart → Hart) : State := { s with hart := g s.hart }

/-- Read x[r]; x0 reads zero (R178). -/
def State.xr (s : State) (r : Reg) : Word := if r = 0#5 then 0#64 else s.hart.regs.x[r.toNat]'r.isLt
/-- Read f[r]. -/
def State.fr (s : State) (r : Reg) : Word := s.hart.regs.f[r.toNat]'r.isLt

def Hart.setX (h : Hart) (r : Reg) (v : Word) : Hart :=
  if r = 0#5 then h else { h with regs := { h.regs with x := h.regs.x.set r.toNat v r.isLt } }
def Hart.setF (h : Hart) (r : Reg) (v : Word) : Hart :=
  { h with regs := { h.regs with f := h.regs.f.set r.toNat v r.isLt } }

/-- Write x[r]; a write of x0 is discarded (R178). -/
def State.setX (s : State) (r : Reg) (v : Word) : State := s.updHart (·.setX r v)
/-- Write f[r]. -/
def State.setF (s : State) (r : Reg) (v : Word) : State := s.updHart (·.setF r v)

def State.setPc (s : State) (v : Word) : State := s.updHart fun h => { h with pc := v }
/-- Move to the next instruction. -/
def State.advance (s : State) : State := s.setPc (s.hart.pc + 4#64)

def State.updVec (s : State) (g : VecRegs → VecRegs) : State := s.updHart fun h => { h with vec := g h.vec }
def State.updUser (s : State) (g : UserRegs → UserRegs) : State := s.updHart fun h => { h with user := g h.user }
def State.updIrq (s : State) (g : UserIrq → UserIrq) : State := s.updHart fun h => { h with irq := g h.irq }
def State.updTrap (s : State) (g : TrapRegs → TrapRegs) : State := s.updHart fun h => { h with trap := g h.trap }
def State.updSup (s : State) (g : SupRegs → SupRegs) : State := s.updHart fun h => { h with sregs := g h.sregs }

/-- OR bits into FFLAGS (spec/10 R272). -/
def State.orFflags (s : State) (b : BitVec 5) : State := s.updUser fun u => { u with fflags := u.fflags ||| b }

/-! ### Harts by physical number: die × 256 + cluster × 16 + core × 2 + slot (R180) -/

def coreOf (h : Nat) : Nat := h / 2
def clusterOf (h : Nat) : Nat := h / 16
def dieOfHart (h : Nat) : Nat := h / 256

/-- The hart of a physical number. -/
def State.getHart (s : State) (n : Nat) : Hart := if n = s.cur then s.hart else s.others.get .reset n
/-- Replace the hart of a physical number. -/
def State.setHart (s : State) (n : Nat) (h : Hart) : State :=
  if n = s.cur then { s with hart := h } else { s with others := s.others.set n h }
def State.updHartN (s : State) (n : Nat) (g : Hart → Hart) : State := s.setHart n (g (s.getHart n))

/-- Make another hart the executing one. -/
def State.switchTo (s : State) (n : Nat) : State :=
  if n = s.cur then s
  else { s with cur := n, hart := s.others.get .reset n, others := s.others.set s.cur s.hart }

/-- Act as another hart, then go back. -/
def State.onHart (s : State) (h : Nat) (g : State → State) : State :=
  let me := s.cur
  (g (s.switchTo h)).switchTo me

/-- The CTXID of a hart (spec/07 R184). -/
def Hart.ctxid (h : Hart) : BitVec 16 := h.gen ++ h.ctx
/-- The HBM key slot of a context (spec/02 R64). -/
def keySlot (ctx : BitVec 3) : Nat := ctx.toNat + 1

/-- Every physical hart that the state lists, the executing one first. -/
def State.hartIds (s : State) : List Nat := s.cur :: (s.others.map (·.1)).filter (· ≠ s.cur)

/-! ### Parts of the memory system -/

def State.updMem (s : State) (g : MemState → MemState) : State := { s with m := g s.m }
def State.updFab (s : State) (g : FabricState → FabricState) : State := { s with fab := g s.fab }
def State.updDisp (s : State) (g : DispatchState → DispatchState) : State := { s with disp := g s.disp }
def State.updTrust (s : State) (g : Trust → Trust) : State := { s with trust := g s.trust }

def State.core (s : State) (c : Nat) : CoreState := s.m.cores.get .reset c
def State.setCore (s : State) (c : Nat) (v : CoreState) : State := s.updMem fun m => { m with cores := m.cores.set c v }
def State.cluster (s : State) (c : Nat) : ClusterState := s.m.clusters.get .reset c
def State.setCluster (s : State) (c : Nat) (v : ClusterState) : State :=
  s.updMem fun m => { m with clusters := m.clusters.set c v }
def State.slice (s : State) (k : Nat) : SliceState := s.m.slices.get .reset k
def State.setSlice (s : State) (k : Nat) (v : SliceState) : State := s.updMem fun m => { m with slices := m.slices.set k v }
def State.channel (s : State) (k : Nat) : Channel := s.m.channels.get .reset k
def State.setChannel (s : State) (k : Nat) (v : Channel) : State :=
  s.updMem fun m => { m with channels := m.channels.set k v }
/-- Plate `p` of a die, numbered die × 128 + p. -/
def State.plate (s : State) (p : Nat) : Plate := s.m.plates.get .reset p
def State.setPlate (s : State) (p : Nat) (v : Plate) : State := s.updMem fun m => { m with plates := m.plates.set p v }
def State.ctx (s : State) (n : Nat) : Ctx := s.disp.ctxs.get .reset n
def State.setCtx (s : State) (n : Nat) (v : Ctx) : State := s.updDisp fun d => { d with ctxs := d.ctxs.set n v }

/-- A die of this device is held in reset: compute dies 0 to 7, I/O dies 8 and 9 (spec/21 R464). -/
def State.dieHeld (s : State) (i : Nat) : Bool := s.fab.lostDies.any fun d => decide (d.1 = i)
/-- A context runs on a die: the device has its number (spec/04 R109), the die is not held in reset (spec/21 R464), and it has not begun a cut
of the context (spec/08 R225). -/
def State.ctxRuns (s : State) (n die : Nat) : Bool :=
  s.fab.devValid && (s.ctx n).state == 1#2 && !s.dieHeld die && !(s.disp.cuts.any fun c => decide (c.slot = n) && c.begun.contains die)
/-- The context of a hart runs where the hart is. -/
def State.hartRuns (s : State) (h : Nat) : Bool := s.ctxRuns (s.getHart h).ctx.toNat (dieOfHart h)
/-- A cut of a context is in progress on the device. -/
def State.cutting (s : State) (n : Nat) : Bool := s.disp.cuts.any fun c => decide (c.slot = n)

/-! ### Free values -/

/-- Take the next free word. -/
def takeFree : M Word := do
  let s ← get
  set { s with free := s.free + 1 }
  return Config.freeWord s.free

/-- Take the next free choice. -/
def takeChoice : M Bool := do
  let s ← get
  set { s with free := s.free + 1 }
  return Config.freeBool s.free

/-- One of several numbers, a free choice where the spec does not say which. -/
def State.pickOne (s : State) (l : List Nat) : State × Option Nat :=
  ({ s with free := s.free + 1 }, l[(Config.freeWord s.free).toNat % l.length]?)

/-! ### Lists -/

/-- Move the first element that satisfies `p` to the front, changed by `g`; none where there is none. -/
def touchFirst {α : Type} (p : α → Bool) (g : α → α) (l : List α) : Option (α × List α) :=
  match l.find? p with
  | some a => some (g a, g a :: l.eraseP p)
  | none => none

/-- Keep at most `n` elements that satisfy `p`, the first ones; the elements dropped are the last. -/
def keepFirst {α : Type} (p : α → Bool) : Nat → List α → List α
  | _, [] => []
  | n, a :: l => if p a then (match n with | 0 => keepFirst p 0 l | n + 1 => a :: keepFirst p n l) else a :: keepFirst p n l

end Sys2Proof.Machine
end

