-- ==== Sys2Proof/Machine/Flags.lean ====
section
/-! DEFINITION. Flag computations: the comparisons of the integer, floating and vector instructions and the sticky flags of
FFLAGS and VFLAGS (spec/10 R268, R272; spec/12 R310, R324). -/
namespace Sys2Proof.Machine
set_option Elab.async false

/-- A truth value as an integer result. -/
def boolWord (b : Bool) : Word := if b then 1#64 else 0#64

/-- Signed and unsigned order (R310, R324). -/
def ltS (a b : Word) : Bool := a.slt b
def ltU (a b : Word) : Bool := a.ult b

/-! FFLAGS bits (R272). -/
def ffNX : BitVec 5 := 0b00001#5
def ffUF : BitVec 5 := 0b00010#5
def ffOF : BitVec 5 := 0b00100#5
def ffDZ : BitVec 5 := 0b01000#5
def ffNV : BitVec 5 := 0b10000#5

/-- The exceptions that one operation meets. -/
structure Exc where
  nv : Bool := false
  dz : Bool := false
  of : Bool := false
  uf : Bool := false
  nx : Bool := false
  deriving DecidableEq, Repr

def Exc.none : Exc := {}
def Exc.or (a b : Exc) : Exc :=
  { nv := a.nv || b.nv, dz := a.dz || b.dz, of := a.of || b.of, uf := a.uf || b.uf, nx := a.nx || b.nx }
/-- The exceptions as FFLAGS bits. -/
def Exc.bits (e : Exc) : BitVec 5 :=
  BitVec.ofBool e.nv ++ BitVec.ofBool e.dz ++ BitVec.ofBool e.of ++ BitVec.ofBool e.uf ++ BitVec.ofBool e.nx

/-- OR an operation's exceptions into FFLAGS (R272). -/
def State.raiseFlags (s : State) (e : Exc) : State := s.orFflags e.bits

/-- OR the sticky flags of vector conversion into VFLAGS (R268). -/
def State.orVflags (s : State) (ovf inv : Bool) : State :=
  s.updVec fun v => { v with ovf := v.ovf || ovf, inv := v.inv || inv }

end Sys2Proof.Machine
end

