-- ==== Sys2Proof/Machine/Float.lean ====
section
/-! DEFINITION. Binary floating point by exact arithmetic and one rounding (spec/10 R262, R265 to R267, R270, R271): the formats,
their values, and the operations on values. -/
namespace Sys2Proof.Machine
set_option Elab.async false

/-- Number of bits of a natural number, 0 for 0. -/
def bitLen (n : Nat) : Nat := if n = 0 then 0 else Nat.log2 n + 1

/-- Rounding modes (spec/11 R292). -/
inductive Rnd where
  | rn | rz | rd | ru | rm
  deriving DecidableEq, Repr

/-- A binary format: fraction bits, exponent bits and bias. f8 has no infinity and one NaN (R265). -/
structure Fmt where
  frac : Nat
  exp : Nat
  bias : Nat
  f8 : Bool := false
  deriving DecidableEq, Repr

def fmt16 : Fmt := { frac := 10, exp := 5, bias := 15 }
def fmtBf : Fmt := { frac := 7, exp := 8, bias := 127 }
def fmt8 : Fmt := { frac := 3, exp := 4, bias := 8, f8 := true }
def fmt32 : Fmt := { frac := 23, exp := 8, bias := 127 }
def fmt64 : Fmt := { frac := 52, exp := 11, bias := 1023 }

/-- The width of a format. -/
def Fmt.width (f : Fmt) : Nat := 1 + f.exp + f.frac
/-- The codes without a sign that lie above every finite code. -/
def Fmt.limit (f : Fmt) : Nat := if f.f8 then 128 else (2 ^ f.exp - 1) * 2 ^ f.frac
def Fmt.sign (f : Fmt) : Nat := 2 ^ (f.exp + f.frac)
/-- The canonical quiet NaN (R267). -/
def Fmt.nan (f : Fmt) : Nat := if f.f8 then 0x80 else (2 ^ f.exp - 1) * 2 ^ f.frac + 2 ^ (f.frac - 1)
def Fmt.inf (f : Fmt) (neg : Bool) : Nat := if f.f8 then (if neg then 0xFF else 0x7F) else f.limit + (if neg then f.sign else 0)

/-- A value: a NaN, signalling or not, an infinity, or ±m × 2^e. -/
inductive FVal where
  | nan (sig : Bool)
  | inf (neg : Bool)
  | fin (neg : Bool) (m : Nat) (e : Int)
  deriving DecidableEq, Repr

/-- The value of a code. -/
def Fmt.decode (f : Fmt) (c : Nat) : FVal :=
  let neg := c.testBit (f.exp + f.frac)
  let e := (c / 2 ^ f.frac) % 2 ^ f.exp
  let m := c % 2 ^ f.frac
  if f.f8 then
    if c % 256 = 0x80 then .nan false
    else if e = 0 then .fin neg m (-10)
    else .fin neg (8 + m) ((e : Int) - 11)
  else if e = 2 ^ f.exp - 1 then
    if m = 0 then .inf neg else .nan (m < 2 ^ (f.frac - 1))
  else if e = 0 then .fin neg m (1 - (f.bias : Int) - f.frac)
  else .fin neg (2 ^ f.frac + m) ((e : Int) - f.bias - f.frac)

/-- Whether a remainder `r` below 2^k rounds away from zero, the quotient being odd or not. -/
def roundsUp (mode : Rnd) (neg odd : Bool) (r half : Nat) : Bool :=
  match mode with
  | .rn | .rm => half < r || (r = half && odd)
  | .rz => false
  | .rd => neg && r ≠ 0
  | .ru => !neg && r ≠ 0

/-- m × 2^−k rounded to an integer, and whether it is inexact. -/
def roundShift (mode : Rnd) (neg : Bool) (m k : Nat) : Nat × Bool :=
  if k = 0 then (m, false)
  else if bitLen m < k then (if roundsUp mode neg false (if m = 0 then 0 else 1) 2 then 1 else 0, m ≠ 0)
  else
    let q := m / 2 ^ k
    let r := m % 2 ^ k
    (if roundsUp mode neg (q % 2 = 1) r (2 ^ (k - 1)) then q + 1 else q, r ≠ 0)

/-- m × 2^e rounded to a multiple of 2^q: the multiple, and whether it is inexact. -/
def roundAt (mode : Rnd) (neg : Bool) (m : Nat) (e q : Int) : Nat × Bool :=
  if q ≤ e then (m * 2 ^ (e - q).toNat, false) else roundShift mode neg m (q - e).toNat

/-- The result of an overflow (R267, R271). -/
def Fmt.overflow (f : Fmt) (mode : Rnd) (neg : Bool) : Nat :=
  let toInf := match mode with
    | .rn | .rm => true
    | .rz => false
    | .rd => neg
    | .ru => !neg
  if toInf then f.inf neg else f.limit - 1 + (if neg then f.sign else 0)

/-- Round ±m × 2^e once: the code and the exceptions, tininess detected after rounding (R271). -/
def Fmt.round (f : Fmt) (mode : Rnd) (neg : Bool) (m : Nat) (e : Int) : Nat × Exc :=
  let sg := if neg then f.sign else 0
  if m = 0 then (if f.f8 then 0 else sg, {})
  else
    let top := e + bitLen m - 1
    let emin := 1 - (f.bias : Int)
    let ex := max top emin
    let (q, nx) := roundAt mode neg m e (ex - f.frac)
    let code := (ex + f.bias - 1).toNat * 2 ^ f.frac + q
    if f.limit ≤ code then (f.overflow mode neg, { of := true, nx := true })
    else
      let (q', _) := roundAt mode neg m e (top - f.frac)
      let tiny := top < emin && !(top + 1 = emin && q' = 2 ^ (f.frac + 1))
      (if f.f8 && code = 0 then 0 else code + sg, { nx, uf := tiny && nx })

/-- A value as a code of a format. -/
def Fmt.encode (f : Fmt) (mode : Rnd) : FVal → Nat × Exc
  | .nan sig => (f.nan, { nv := sig })
  | .inf neg => if f.f8 then (f.inf neg, { of := true }) else (f.inf neg, {})
  | .fin neg m e => f.round mode neg m e

/-! ### Exact operations on values -/

def FVal.isNan : FVal → Bool
  | .nan _ => true | _ => false
def FVal.isSnan : FVal → Bool
  | .nan s => s | _ => false
def FVal.isInf : FVal → Bool
  | .inf _ => true | _ => false
def FVal.isZero : FVal → Bool
  | .fin _ 0 _ => true | _ => false
def FVal.neg? : FVal → Bool
  | .nan _ => false | .inf n => n | .fin n _ _ => n
def FVal.negate : FVal → FVal
  | .nan s => .nan s | .inf n => .inf !n | .fin n m e => .fin (!n) m e

/-- The signed integer at a common exponent. -/
def scaled (neg : Bool) (m : Nat) (e e0 : Int) : Int :=
  let v : Int := (m : Int) * 2 ^ (e - e0).toNat
  if neg then -v else v

/-- An exact sum of two finite values; a zero sum of opposite signs is −0 only toward −∞. -/
def finAdd (mode : Rnd) (n1 : Bool) (m1 : Nat) (e1 : Int) (n2 : Bool) (m2 : Nat) (e2 : Int) : FVal :=
  let e0 := min e1 e2
  let v := scaled n1 m1 e1 e0 + scaled n2 m2 e2 e0
  if v = 0 then .fin (if n1 = n2 then n1 else mode = .rd) 0 0 else .fin (v < 0) v.natAbs e0

/-- The invalid operation: the canonical NaN with NV. -/
def invalidResult : FVal × Exc := (.nan false, { nv := true })
/-- A NaN operand's result. -/
def nanResult (sig : Bool) : FVal × Exc := (.nan false, { nv := sig })

/-- Exact operations: a value that is still to be rounded, and the exceptions met so far. -/
def FVal.add (mode : Rnd) (a b : FVal) : FVal × Exc :=
  match a, b with
  | .nan s, y => nanResult (s || y.isSnan)
  | x, .nan s => nanResult (s || x.isSnan)
  | .inf n, .inf k => if n = k then (.inf n, {}) else invalidResult
  | .inf n, _ => (.inf n, {})
  | _, .inf n => (.inf n, {})
  | .fin n1 m1 e1, .fin n2 m2 e2 => (finAdd mode n1 m1 e1 n2 m2 e2, {})

def FVal.mul (a b : FVal) : FVal × Exc :=
  match a, b with
  | .nan s, y => nanResult (s || y.isSnan)
  | x, .nan s => nanResult (s || x.isSnan)
  | .inf n, y => if y.isZero then invalidResult else (.inf (n != y.neg?), {})
  | x, .inf n => if x.isZero then invalidResult else (.inf (n != x.neg?), {})
  | .fin n1 m1 e1, .fin n2 m2 e2 => (.fin (n1 != n2) (m1 * m2) (e1 + e2), {})

/-- a × b + c exactly; 0 × ∞ is invalid even with a quiet NaN addend (spec/14 R357). -/
def FVal.fma (mode : Rnd) (a b c : FVal) : FVal × Exc :=
  let (p, x) := a.mul b
  if p.isNan then (.nan false, { nv := x.nv || c.isSnan })
  else
    let (r, y) := p.add mode c
    (r, x.or y)

/-- The quotient with a sticky bit below `k` bits of precision. -/
def FVal.div (k : Nat) (a b : FVal) : FVal × Exc :=
  match a, b with
  | .nan s, y => nanResult (s || y.isSnan)
  | x, .nan s => nanResult (s || x.isSnan)
  | .inf _, .inf _ => invalidResult
  | .inf n, y => (.inf (n != y.neg?), {})
  | x, .inf n => (.fin (n != x.neg?) 0 0, {})
  | .fin n1 m1 e1, .fin n2 m2 e2 =>
    if m2 = 0 then if m1 = 0 then invalidResult else (.inf (n1 != n2), { dz := true })
    else if m1 = 0 then (.fin (n1 != n2) 0 0, {})
    else
      let sh := k + bitLen m2
      let q := m1 * 2 ^ sh / m2
      let r := m1 * 2 ^ sh % m2
      (.fin (n1 != n2) (2 * q + (if r = 0 then 0 else 1)) (e1 - e2 - sh - 1), {})

/-- Bits of the integer square root, from bit i − 1 down. -/
def isqrtFrom (n r : Nat) : Nat → Nat
  | 0 => r
  | i + 1 => if (r + 2 ^ i) * (r + 2 ^ i) ≤ n then isqrtFrom n (r + 2 ^ i) i else isqrtFrom n r i
/-- The integer square root. -/
def isqrt (n : Nat) : Nat := isqrtFrom n 0 (bitLen n / 2 + 1)

/-- The square root with a sticky bit below `k` bits of precision. -/
def FVal.sqrt (k : Nat) (a : FVal) : FVal × Exc :=
  match a with
  | .nan s => nanResult s
  | .inf n => if n then invalidResult else (.inf false, {})
  | .fin n m e =>
    if m = 0 then (.fin n 0 0, {})
    else if n then invalidResult
    else
      let odd := e % 2 ≠ 0
      let m1 := (if odd then 2 * m else m) * 2 ^ (2 * k)
      let e1 := (if odd then e - 1 else e) - 2 * k
      let r := isqrt m1
      (.fin false (2 * r + (if r * r = m1 then 0 else 1)) (e1 / 2 - 1), {})

/-- The order of two values that are not NaN: whether a < b and whether a = b. −0 = +0. -/
def FVal.cmp (a b : FVal) : Bool × Bool :=
  match a, b with
  | .inf n, .inf k => (n && !k, n == k)
  | .inf n, _ => (n, false)
  | _, .inf n => (!n, false)
  | .fin n1 m1 e1, .fin n2 m2 e2 =>
    let e0 := min e1 e2
    let x := scaled n1 m1 e1 e0
    let y := scaled n2 m2 e2 e0
    (x < y, x = y)
  | _, _ => (false, false)

/-- a is below b for `min` and `max`: −0 is below +0 (R267). -/
def FVal.below (a b : FVal) : Bool :=
  let (lt, eq) := a.cmp b
  lt || (eq && a.neg? && !b.neg?)

/-- A value rounded to an integer; none for a NaN or an infinity. -/
def FVal.toInt (mode : Rnd) : FVal → Option (Int × Bool)
  | .fin n m e =>
    let (q, nx) := roundAt mode n m e 0
    some (if n then -(q : Int) else q, nx)
  | _ => none

/-- An integer as a value. -/
def FVal.ofInt (v : Int) : FVal := .fin (v < 0) v.natAbs 0

/-! ### Operations on codes of one format -/

def Fmt.add (f : Fmt) (mode : Rnd) (a b : Nat) : Nat × Exc :=
  let (v, x) := (f.decode a).add mode (f.decode b)
  let (c, y) := f.encode mode v
  (c, x.or y)
def Fmt.sub (f : Fmt) (mode : Rnd) (a b : Nat) : Nat × Exc :=
  let (v, x) := (f.decode a).add mode (f.decode b).negate
  let (c, y) := f.encode mode v
  (c, x.or y)
def Fmt.mul (f : Fmt) (mode : Rnd) (a b : Nat) : Nat × Exc :=
  let (v, x) := (f.decode a).mul (f.decode b)
  let (c, y) := f.encode mode v
  (c, x.or y)
def Fmt.div (f : Fmt) (mode : Rnd) (a b : Nat) : Nat × Exc :=
  let (v, x) := (f.decode a).div (f.frac + 3) (f.decode b)
  let (c, y) := f.encode mode v
  (c, x.or y)
def Fmt.sqrt (f : Fmt) (mode : Rnd) (a : Nat) : Nat × Exc :=
  let (v, x) := (f.decode a).sqrt (f.frac + 3)
  let (c, y) := f.encode mode v
  (c, x.or y)
def Fmt.fma (f : Fmt) (mode : Rnd) (a b c : FVal) : Nat × Exc :=
  let (v, x) := a.fma mode b c
  let (r, y) := f.encode mode v
  (r, x.or y)

/-- `min` and `max` (R267, spec/14 R354). -/
def Fmt.minmax (f : Fmt) (isMax : Bool) (a b : Nat) : Nat × Exc :=
  let x := f.decode a
  let y := f.decode b
  let nv : Exc := { nv := x.isSnan || y.isSnan }
  if x.isNan && y.isNan then (f.nan, nv)
  else if x.isNan then (b, nv)
  else if y.isNan then (a, nv)
  else (if (if isMax then x.below y else y.below x) then b else a, nv)

/-- A value converted to a format (R270). -/
def Fmt.ofVal (f : Fmt) (mode : Rnd) (v : FVal) : Nat × Exc := f.encode mode v

/-- A float as an integer in lo .. hi (R270, R271): rounded, saturated, NaN to 0; NV for a NaN, an infinity or out of range. -/
def FVal.toRange (mode : Rnd) (lo hi : Int) (v : FVal) : Int × Exc :=
  match v with
  | .nan _ => (0, { nv := true })
  | .inf n => (if n then lo else hi, { nv := true })
  | .fin .. =>
    match v.toInt mode with
    | none => (0, { nv := true })
    | some (q, nx) => if q < lo then (lo, { nv := true }) else if hi < q then (hi, { nv := true }) else (q, { nx })

end Sys2Proof.Machine
end

