-- ==== Sys2Proof/WellFormed.lean ====
section
/-! DEFINITION. Which terms of Instr stand for an instruction or a step: the operand codes that the spec accepts (spec/11 R289,
R291 to R293). A word whose fields are not well formed is no instruction and raises ILLEGAL. -/
namespace Sys2Proof
set_option Elab.async false

/-- Rounding codes 5 and 6 are reserved (R292). -/
def roundingOk (r : BitVec 3) : Bool := !(r == 5#3 || r == 6#3)

/-- RM (code 4) is refused in a `.s` form (R293). -/
def roundingOkFor (p : BitVec 1) (r : BitVec 3) : Bool := roundingOk r && !(p == 0#1 && r == 4#3)

/-- Tile codes 0 to 7 (R289). -/
def tileOk (t : Reg) : Bool := decide (t.toNat < 8)
/-- Accumulator codes 0 to 3 (R289). -/
def accOk (t : Reg) : Bool := decide (t.toNat < 4)
/-- Port codes 0 to 7 decode; 3 to 7 raise ENGINE_PORT when the instruction is checked (R289, R239). -/
def portOk (t : Reg) : Bool := decide (t.toNat < 8)
/-- Fill codes 0 to 4 (R291). -/
def fillOk (l : BitVec 3) : Bool := decide (l.toNat < 5)

/-- Well-formedness of an instruction or step. -/
def WellFormed (i : Instr) : Bool :=
  match i with
  | .add _ _ _ => true
  | .sub _ _ _ => true
  | .and _ _ _ => true
  | .or _ _ _ => true
  | .xor _ _ _ => true
  | .andn _ _ _ => true
  | .sll _ _ _ => true
  | .srl _ _ _ => true
  | .sra _ _ _ => true
  | .rol _ _ _ => true
  | .slt _ _ _ => true
  | .sltu _ _ _ => true
  | .min _ _ _ => true
  | .max _ _ _ => true
  | .minu _ _ _ => true
  | .maxu _ _ _ => true
  | .clz _ _ => true
  | .ctz _ _ => true
  | .popc _ _ => true
  | .addi _ _ _ => true
  | .andi _ _ _ => true
  | .ori _ _ _ => true
  | .xori _ _ _ => true
  | .slli _ _ _ => true
  | .srli _ _ _ => true
  | .srai _ _ _ => true
  | .slti _ _ _ => true
  | .sltiu _ _ _ => true
  | .lih _ _ => true
  | .pcrel _ _ => true
  | .ldB _ _ _ => true
  | .ldBu _ _ _ => true
  | .ldH _ _ _ => true
  | .ldHu _ _ _ => true
  | .ldW _ _ _ => true
  | .ldWu _ _ _ => true
  | .ldD _ _ _ => true
  | .stB _ _ _ => true
  | .stH _ _ _ => true
  | .stW _ _ _ => true
  | .stD _ _ _ => true
  | .ldaW _ _ _ _ => true
  | .ldaD _ _ _ _ => true
  | .stlW _ _ _ _ => true
  | .stlD _ _ _ _ => true
  | .fldH _ _ _ => true
  | .fldW _ _ _ => true
  | .fldD _ _ _ => true
  | .fstH _ _ _ => true
  | .fstW _ _ _ => true
  | .fstD _ _ _ => true
  | .beq _ _ _ => true
  | .bne _ _ _ => true
  | .blt _ _ _ => true
  | .bge _ _ _ => true
  | .bltu _ _ _ => true
  | .bgeu _ _ _ => true
  | .bpAny _ _ => true
  | .bpNone _ _ => true
  | .bpAll _ _ => true
  | .bpFirst _ _ => true
  | .jal _ _ => true
  | .jalr _ _ _ => true
  | .mul _ _ _ => true
  | .mulh _ _ _ => true
  | .mulhu _ _ _ => true
  | .mulhsu _ _ _ => true
  | .div _ _ _ => true
  | .divu _ _ _ => true
  | .rem _ _ _ => true
  | .remu _ _ _ => true
  | .fadd _ _ _ p r => roundingOkFor p r
  | .fsub _ _ _ p r => roundingOkFor p r
  | .fmul _ _ _ p r => roundingOkFor p r
  | .fdiv _ _ _ p r => roundingOkFor p r
  | .fsqrt _ _ p r => roundingOkFor p r
  | .fmin _ _ _ _ => true
  | .fmax _ _ _ _ => true
  | .fsgnC _ _ _ _ => true
  | .fsgnN _ _ _ _ => true
  | .fsgnX _ _ _ _ => true
  | .feq _ _ _ _ => true
  | .flt _ _ _ _ => true
  | .fle _ _ _ _ => true
  | .fclass _ _ _ => true
  | .fcvtFX _ _ p r => roundingOkFor p r
  | .fcvtFXu _ _ p r => roundingOkFor p r
  | .fcvtXF _ _ p r => roundingOkFor p r
  | .fcvtXuF _ _ p r => roundingOkFor p r
  | .fcvtFF _ _ _ p r => roundingOkFor p r
  | .fmvXF _ _ _ => true
  | .fmvFX _ _ _ => true
  | .fma _ _ _ p r _ => roundingOkFor p r
  | .fms _ _ _ p r _ => roundingOkFor p r
  | .fnma _ _ _ p r _ => roundingOkFor p r
  | .fnms _ _ _ p r _ => roundingOkFor p r
  | .aadd _ _ _ _ _ => true
  | .aand _ _ _ _ _ => true
  | .aor _ _ _ _ _ => true
  | .axor _ _ _ _ _ => true
  | .amin _ _ _ _ _ => true
  | .amax _ _ _ _ _ => true
  | .aminu _ _ _ _ _ => true
  | .amaxu _ _ _ _ _ => true
  | .aswp _ _ _ _ _ => true
  | .acas _ _ _ _ _ => true
  | .afadd _ _ _ _ _ => true
  | .acq _ _ => true
  | .rel _ _ => true
  | .fence _ _ => true
  | .own _ _ _ => true
  | .disown _ _ _ => true
  | .qlock _ _ _ _ => true
  | .qunlock _ _ _ => true
  | .wait _ _ => true
  | .wake _ => true
  | .crr _ _ => true
  | .crw _ _ _ => true
  | .crs _ _ _ => true
  | .crc _ _ _ => true
  | .vcfg _ _ => true
  | .vsetl _ _ => true
  | .vsetrows _ _ => true
  | .vtag _ _ => true
  | .vsave _ _ => true
  | .vrest _ _ => true
  | .vld _ _ _ _ => true
  | .vst _ _ _ _ => true
  | .vldx _ _ _ _ _ => true
  | .vstx _ _ _ _ _ => true
  | .vldT _ _ _ _ => true
  | .vstN _ _ _ _ _ => true
  | .vpush _ _ => true
  | .vpushT _ _ _ => true
  | .vadd _ _ _ _ _ => true
  | .vsub _ _ _ _ _ => true
  | .vmul _ _ _ _ _ => true
  | .vfma _ _ _ _ _ => true
  | .vfms _ _ _ _ _ => true
  | .vdiv _ _ _ _ _ => true
  | .vsqrt _ _ _ => true
  | .vmin _ _ _ _ _ => true
  | .vmax _ _ _ _ _ => true
  | .vabs _ _ _ => true
  | .vneg _ _ _ => true
  | .vand _ _ _ _ _ => true
  | .vor _ _ _ _ _ => true
  | .vxor _ _ _ _ _ => true
  | .vshl _ _ _ _ _ => true
  | .vshr _ _ _ _ _ => true
  | .vmulh _ _ _ _ _ => true
  | .vsel _ _ _ _ _ => true
  | .vcmpEq _ _ _ _ => true
  | .vcmpNe _ _ _ _ => true
  | .vcmpLt _ _ _ _ => true
  | .vcmpLe _ _ _ _ => true
  | .vcmpGt _ _ _ _ => true
  | .vcmpGe _ _ _ _ => true
  | .vcmpUn _ _ _ _ => true
  | .vrcp _ _ => true
  | .vrsqrt _ _ => true
  | .vexp2 _ _ => true
  | .vlog2 _ _ => true
  | .vtanh _ _ => true
  | .vslup _ _ _ l => fillOk l
  | .vsldn _ _ _ l => fillOk l
  | .vperm _ _ _ => true
  | .vcomp _ _ => true
  | .vbcast _ _ => true
  | .vext _ _ _ => true
  | .vins _ _ _ => true
  | .vcvt _ _ _ => true
  | .vredSum _ _ => true
  | .vredMin _ _ => true
  | .vredMax _ _ => true
  | .vredAnd _ _ => true
  | .vredOr _ _ => true
  | .vscanSum _ _ => true
  | .vscanMin _ _ => true
  | .vscanMax _ _ => true
  | .vdot _ _ _ => true
  | .vbsl _ _ _ => true
  | .vbsr _ _ _ => true
  | .vbfun _ _ _ => true
  | .vbpopc _ _ => true
  | .pand _ _ _ => true
  | .por _ _ _ => true
  | .pxor _ _ _ => true
  | .pandn _ _ _ => true
  | .pnot _ _ => true
  | .pset _ _ => true
  | .pfirst _ _ => true
  | .pcnt _ _ => true
  | .pmv _ _ => true
  | .tld d _ => tileOk d
  | .tst d _ => tileOk d
  | .mop d a b => accOk d && tileOk a && tileOk b
  | .mops d _ b => accOk d && tileOk b
  | .mopM d a _ => accOk d && tileOk a
  | .mclr d => accOk d
  | .accx _ a _ => accOk a
  | .acci d _ _ => accOk d
  | .mwait => true
  | .epush d _ => portOk d
  | .epop _ a => portOk a
  | .epeek _ a => portOk a
  | .pclaim _ _ => true
  | .prel _ _ => true
  | .pgive _ _ _ => true
  | .pstat _ _ => true
  | .pmark _ _ _ => true
  | .orbdef _ _ => true
  | .orbin _ _ _ => true
  | .orbgo _ _ => true
  | .orbout _ _ _ => true
  | .orbstat _ _ => true
  | .qnum _ _ => true
  | .qden _ _ => true
  | .qmk _ _ _ r => roundingOk r
  | .qmed _ _ _ r => roundingOk r
  | .qcf _ _ _ => true
  | .qfloor _ _ => true
  | .ecall => true
  | .ebreak => true
  | .sret => true
  | .uret => true
  | .halt => true
  | .tlbinv _ _ => true
  | .icinv => true
  | .klaunch _ _ _ => true
  | .watchArm => true
  | .watchDisarm => true
  | .vlWrite => true
  | .registerWrite => true
  | .tableWalk => true
  | .pretranslateWindow => true
  | .windowEnterPipeline => true
  | .tlbInvalidateMsg => true
  | .tlbInvalidateAck => true
  | .hbmIssue => true
  | .hbmDataReturn => true
  | .hbmReadRetry => true
  | .rowCloseTimeout => true
  | .requestAgeExpiry => true
  | .hcrateCeilWrite => true
  | .rateLimitChange => true
  | .rateSwitch => true
  | .rateSwitchComplete => true
  | .refreshDue => true
  | .owedRefreshPaid => true
  | .temperatureReport => true
  | .activationAlert => true
  | .bankBlockEnd => true
  | .patrolScrubRead => true
  | .keySlotLoad => true
  | .vectorHeader => true
  | .segmentCompletionBeat => true
  | .lineRequest => true
  | .sliceRequest => true
  | .slicePinRelease => true
  | .cacheFillReturn => true
  | .writeBack => true
  | .registration => true
  | .registrationAck => true
  | .revocation => true
  | .revocationWithWriteBack => true
  | .forwardedRead => true
  | .forwardUnanswered => true
  | .farAtomicAtHome => true
  | .syAccessAtHome => true
  | .watchHit => true
  | .watchHitArrival => true
  | .qlockTicketDraw => true
  | .qunlockIncrement => true
  | .grant => true
  | .pollRead => true
  | .copyStart => true
  | .copyComplete => true
  | .plateReattach => true
  | .vpushDelivery => true
  | .wakeArrival => true
  | .waitTimeout => true
  | .pushTimeout => true
  | .portDown => true
  | .remoteTimeout => true
  | .ualinkRequestIngress => true
  | .ualinkFlitRetry => true
  | .ucieFlitRetry => true
  | .ucieLaneRepair => true
  | .domainConfig => true
  | .hostRead => true
  | .hostWrite => true
  | .hapctlWrite => true
  | .meridianSyncSend => true
  | .meridianSync => true
  | .delayExchange => true
  | .meridianHold => true
  | .queueTailWatchHit => true
  | .queueBackstopScan => true
  | .dependenceWatchHit => true
  | .placementChoice => true
  | .recordCommit => true
  | .launchComplete => true
  | .quiesce => true
  | .endQuiesce => true
  | .endLaunch => true
  | .createContext => true
  | .removeContext => true
  | .switchArm => true
  | .switchArmPark => true
  | .notice => true
  | .cutBegin => true
  | .marker => true
  | .cutComplete => true
  | .contextSaved => true
  | .contextResumed => true
  | .resize => true
  | .trapEntry => true
  | .userInterruptDelivery => true
  | .eventAccept => true
  | .eqheadWrite => true
  | .orbitRound => true
  | .orbitRoundEdge => true
  | .orbitMarker => true
  | .orbitLapEnd => true
  | .orbitComplete => true
  | .coldBoot => true
  | .recoveryFirmwareImage => true
  | .warmResetComputeDie => true
  | .warmResetIoDie => true
  | .trustDieWarmReset => true
  | .dieLost => true
  | .dieLostAck => true
  | .verifyObject => true
  | .retireObject => true
  | .loadContextKey => true
  | .clearContextKey => true
  | .ownerKeyInstall => true
  | .ownerKeyClear => true
  | .getMeasurements => true
  | .spareStatus => true
  | .mbcmdWhileBusy => true
  | .spdmGetVersion => true
  | .spdmGetCapabilities => true
  | .spdmNegotiateAlgorithms => true
  | .spdmGetDigests => true
  | .spdmGetCertificate => true
  | .spdmChallenge => true
  | .spdmGetMeasurements => true
  | .spdmKeyExchange => true
  | .spdmFinish => true
  | .spdmHeartbeat => true
  | .spdmKeyUpdate => true
  | .spdmEndSession => true
  | .spdmChunkSend => true
  | .spdmChunkGet => true
  | .spdmUnsupportedRequest => true
  | .windowAccessArrival => true
  | .rlcAcquireInvalidation => true
  | .acquireAcknowledgement => true
  | .klaunchPoll => true
  | .vectorSliceEnd => true
  | .matrixOperationEnd => true
  | .timeMasterNamed => true
  | .mailboxUnknownCommand => true

end Sys2Proof
end

