-- ==== Sys2Proof/Decode.lean ====
section
/-! DEFINITION. Decoding of a 32-bit instruction word (spec/11 R286 to R293), total on every word: a word that is not an
instruction of R291 decodes to none, and the hart raises ILLEGAL for it (R293). The encoder of the same formats stands after it. -/
namespace Sys2Proof
set_option Elab.async false

/-- Bits [lo+w-1 : lo] of an instruction word. -/
def fieldOf (x : BitVec 32) (lo w : Nat) : BitVec w := x.extractLsb' lo w

/-- Formats R and X, R287: the fields from the most significant bit down. -/
def fmtR (op : BitVec 6) (d : BitVec 5) (a : BitVec 5) (b : BitVec 5) (fn : BitVec 11) : BitVec 32 :=
  op ++ d ++ a ++ b ++ fn

/-- Formats I and B, R287: the fields from the most significant bit down. -/
def fmtI (op : BitVec 6) (d : BitVec 5) (a : BitVec 5) (imm : BitVec 16) : BitVec 32 :=
  op ++ d ++ a ++ imm

/-- Format I of the shift major 0x06 (R313), R287: the fields from the most significant bit down. -/
def fmtShift (op : BitVec 6) (d : BitVec 5) (a : BitVec 5) (z : BitVec 8) (sel : BitVec 2) (n : BitVec 6) : BitVec 32 :=
  op ++ d ++ a ++ z ++ sel ++ n

/-- Formats U and J, R287: the fields from the most significant bit down. -/
def fmtU (op : BitVec 6) (d : BitVec 5) (imm : BitVec 21) : BitVec 32 :=
  op ++ d ++ imm

/-- Format M, R287: the fields from the most significant bit down. -/
def fmtM (op : BitVec 6) (d : BitVec 5) (a : BitVec 5) (sel : BitVec 3) (o : BitVec 13) : BitVec 32 :=
  op ++ d ++ a ++ sel ++ o

/-- Format M, scoped, R287: the fields from the most significant bit down. -/
def fmtScoped (op : BitVec 6) (d : BitVec 5) (a : BitVec 5) (sel : BitVec 3) (s : BitVec 2) (o : BitVec 11) : BitVec 32 :=
  op ++ d ++ a ++ sel ++ s ++ o

/-- Format R of majors 0x1C and 0x32, R287: the fields from the most significant bit down. -/
def fmtFloat (op : BitVec 6) (d : BitVec 5) (a : BitVec 5) (b : BitVec 5) (sel : BitVec 5) (p : BitVec 1) (r : BitVec 3) (z : BitVec 2) : BitVec 32 :=
  op ++ d ++ a ++ b ++ sel ++ p ++ r ++ z

/-- Format R of major 0x1D, R287: the fields from the most significant bit down. -/
def fmtFused (op : BitVec 6) (d : BitVec 5) (a : BitVec 5) (b : BitVec 5) (sel : BitVec 2) (p : BitVec 1) (r : BitVec 3) (c : BitVec 5) : BitVec 32 :=
  op ++ d ++ a ++ b ++ sel ++ p ++ r ++ c

/-- Format R of major 0x1E, R287: the fields from the most significant bit down. -/
def fmtAtomic (op : BitVec 6) (d : BitVec 5) (a : BitVec 5) (b : BitVec 5) (sel : BitVec 4) (s : BitVec 2) (w : BitVec 1) (z : BitVec 4) : BitVec 32 :=
  op ++ d ++ a ++ b ++ sel ++ s ++ w ++ z

/-- Format R of major 0x1F, R287: the fields from the most significant bit down. -/
def fmtSync (op : BitVec 6) (d : BitVec 5) (a : BitVec 5) (b : BitVec 5) (sel : BitVec 5) (s : BitVec 2) (g : BitVec 4) : BitVec 32 :=
  op ++ d ++ a ++ b ++ sel ++ s ++ g

/-- Format V, R287: the fields from the most significant bit down. -/
def fmtV (op : BitVec 6) (d : BitVec 5) (a : BitVec 5) (b : BitVec 5) (sel : BitVec 8) (l : BitVec 3) : BitVec 32 :=
  op ++ d ++ a ++ b ++ sel ++ l

/-- Major 0x01 (R291). -/
def decodeMajor01 (x : BitVec 32) : Option Instr :=
  match (fieldOf x 0 11).toNat with
  | 0 => some (.add (fieldOf x 21 5) (fieldOf x 16 5) (fieldOf x 11 5))
  | 1 => some (.sub (fieldOf x 21 5) (fieldOf x 16 5) (fieldOf x 11 5))
  | 2 => some (.and (fieldOf x 21 5) (fieldOf x 16 5) (fieldOf x 11 5))
  | 3 => some (.or (fieldOf x 21 5) (fieldOf x 16 5) (fieldOf x 11 5))
  | 4 => some (.xor (fieldOf x 21 5) (fieldOf x 16 5) (fieldOf x 11 5))
  | 5 => some (.andn (fieldOf x 21 5) (fieldOf x 16 5) (fieldOf x 11 5))
  | 6 => some (.sll (fieldOf x 21 5) (fieldOf x 16 5) (fieldOf x 11 5))
  | 7 => some (.srl (fieldOf x 21 5) (fieldOf x 16 5) (fieldOf x 11 5))
  | 8 => some (.sra (fieldOf x 21 5) (fieldOf x 16 5) (fieldOf x 11 5))
  | 9 => some (.rol (fieldOf x 21 5) (fieldOf x 16 5) (fieldOf x 11 5))
  | 10 => some (.slt (fieldOf x 21 5) (fieldOf x 16 5) (fieldOf x 11 5))
  | 11 => some (.sltu (fieldOf x 21 5) (fieldOf x 16 5) (fieldOf x 11 5))
  | 12 => some (.min (fieldOf x 21 5) (fieldOf x 16 5) (fieldOf x 11 5))
  | 13 => some (.max (fieldOf x 21 5) (fieldOf x 16 5) (fieldOf x 11 5))
  | 14 => some (.minu (fieldOf x 21 5) (fieldOf x 16 5) (fieldOf x 11 5))
  | 15 => some (.maxu (fieldOf x 21 5) (fieldOf x 16 5) (fieldOf x 11 5))
  | 16 => if fieldOf x 11 5 == 0#5 then some (.clz (fieldOf x 21 5) (fieldOf x 16 5)) else none
  | 17 => if fieldOf x 11 5 == 0#5 then some (.ctz (fieldOf x 21 5) (fieldOf x 16 5)) else none
  | 18 => if fieldOf x 11 5 == 0#5 then some (.popc (fieldOf x 21 5) (fieldOf x 16 5)) else none
  | _ => none

/-- Major 0x02 (R291). -/
def decodeMajor02 (x : BitVec 32) : Option Instr :=
  some (.addi (fieldOf x 21 5) (fieldOf x 16 5) (fieldOf x 0 16))

/-- Major 0x03 (R291). -/
def decodeMajor03 (x : BitVec 32) : Option Instr :=
  some (.andi (fieldOf x 21 5) (fieldOf x 16 5) (fieldOf x 0 16))

/-- Major 0x04 (R291). -/
def decodeMajor04 (x : BitVec 32) : Option Instr :=
  some (.ori (fieldOf x 21 5) (fieldOf x 16 5) (fieldOf x 0 16))

/-- Major 0x05 (R291). -/
def decodeMajor05 (x : BitVec 32) : Option Instr :=
  some (.xori (fieldOf x 21 5) (fieldOf x 16 5) (fieldOf x 0 16))

/-- Major 0x06 (R291). -/
def decodeMajor06 (x : BitVec 32) : Option Instr :=
  match (fieldOf x 6 2).toNat with
  | 0 => if fieldOf x 8 8 == 0#8 then some (.slli (fieldOf x 21 5) (fieldOf x 16 5) (fieldOf x 0 6)) else none
  | 1 => if fieldOf x 8 8 == 0#8 then some (.srli (fieldOf x 21 5) (fieldOf x 16 5) (fieldOf x 0 6)) else none
  | 2 => if fieldOf x 8 8 == 0#8 then some (.srai (fieldOf x 21 5) (fieldOf x 16 5) (fieldOf x 0 6)) else none
  | _ => none

/-- Major 0x07 (R291). -/
def decodeMajor07 (x : BitVec 32) : Option Instr :=
  some (.slti (fieldOf x 21 5) (fieldOf x 16 5) (fieldOf x 0 16))

/-- Major 0x08 (R291). -/
def decodeMajor08 (x : BitVec 32) : Option Instr :=
  some (.sltiu (fieldOf x 21 5) (fieldOf x 16 5) (fieldOf x 0 16))

/-- Major 0x09 (R291). -/
def decodeMajor09 (x : BitVec 32) : Option Instr :=
  some (.lih (fieldOf x 21 5) (fieldOf x 0 21))

/-- Major 0x0A (R291). -/
def decodeMajor0A (x : BitVec 32) : Option Instr :=
  some (.pcrel (fieldOf x 21 5) (fieldOf x 0 21))

/-- Major 0x0B (R291). -/
def decodeMajor0B (x : BitVec 32) : Option Instr :=
  match (fieldOf x 13 3).toNat with
  | 0 => some (.ldB (fieldOf x 21 5) (fieldOf x 16 5) (fieldOf x 0 13))
  | 1 => some (.ldBu (fieldOf x 21 5) (fieldOf x 16 5) (fieldOf x 0 13))
  | 2 => some (.ldH (fieldOf x 21 5) (fieldOf x 16 5) (fieldOf x 0 13))
  | 3 => some (.ldHu (fieldOf x 21 5) (fieldOf x 16 5) (fieldOf x 0 13))
  | 4 => some (.ldW (fieldOf x 21 5) (fieldOf x 16 5) (fieldOf x 0 13))
  | 5 => some (.ldWu (fieldOf x 21 5) (fieldOf x 16 5) (fieldOf x 0 13))
  | 6 => some (.ldD (fieldOf x 21 5) (fieldOf x 16 5) (fieldOf x 0 13))
  | _ => none

/-- Major 0x0C (R291). -/
def decodeMajor0C (x : BitVec 32) : Option Instr :=
  match (fieldOf x 13 3).toNat with
  | 0 => some (.stB (fieldOf x 21 5) (fieldOf x 16 5) (fieldOf x 0 13))
  | 2 => some (.stH (fieldOf x 21 5) (fieldOf x 16 5) (fieldOf x 0 13))
  | 4 => some (.stW (fieldOf x 21 5) (fieldOf x 16 5) (fieldOf x 0 13))
  | 6 => some (.stD (fieldOf x 21 5) (fieldOf x 16 5) (fieldOf x 0 13))
  | _ => none

/-- Major 0x0D (R291). -/
def decodeMajor0D (x : BitVec 32) : Option Instr :=
  match (fieldOf x 13 3).toNat with
  | 4 => some (.ldaW (fieldOf x 21 5) (fieldOf x 16 5) (fieldOf x 11 2) (fieldOf x 0 11))
  | 6 => some (.ldaD (fieldOf x 21 5) (fieldOf x 16 5) (fieldOf x 11 2) (fieldOf x 0 11))
  | _ => none

/-- Major 0x0E (R291). -/
def decodeMajor0E (x : BitVec 32) : Option Instr :=
  match (fieldOf x 13 3).toNat with
  | 4 => some (.stlW (fieldOf x 21 5) (fieldOf x 16 5) (fieldOf x 11 2) (fieldOf x 0 11))
  | 6 => some (.stlD (fieldOf x 21 5) (fieldOf x 16 5) (fieldOf x 11 2) (fieldOf x 0 11))
  | _ => none

/-- Major 0x0F (R291). -/
def decodeMajor0F (x : BitVec 32) : Option Instr :=
  match (fieldOf x 13 3).toNat with
  | 2 => some (.fldH (fieldOf x 21 5) (fieldOf x 16 5) (fieldOf x 0 13))
  | 4 => some (.fldW (fieldOf x 21 5) (fieldOf x 16 5) (fieldOf x 0 13))
  | 6 => some (.fldD (fieldOf x 21 5) (fieldOf x 16 5) (fieldOf x 0 13))
  | _ => none

/-- Major 0x10 (R291). -/
def decodeMajor10 (x : BitVec 32) : Option Instr :=
  match (fieldOf x 13 3).toNat with
  | 2 => some (.fstH (fieldOf x 21 5) (fieldOf x 16 5) (fieldOf x 0 13))
  | 4 => some (.fstW (fieldOf x 21 5) (fieldOf x 16 5) (fieldOf x 0 13))
  | 6 => some (.fstD (fieldOf x 21 5) (fieldOf x 16 5) (fieldOf x 0 13))
  | _ => none

/-- Major 0x11 (R291). -/
def decodeMajor11 (x : BitVec 32) : Option Instr :=
  some (.beq (fieldOf x 21 5) (fieldOf x 16 5) (fieldOf x 0 16))

/-- Major 0x12 (R291). -/
def decodeMajor12 (x : BitVec 32) : Option Instr :=
  some (.bne (fieldOf x 21 5) (fieldOf x 16 5) (fieldOf x 0 16))

/-- Major 0x13 (R291). -/
def decodeMajor13 (x : BitVec 32) : Option Instr :=
  some (.blt (fieldOf x 21 5) (fieldOf x 16 5) (fieldOf x 0 16))

/-- Major 0x14 (R291). -/
def decodeMajor14 (x : BitVec 32) : Option Instr :=
  some (.bge (fieldOf x 21 5) (fieldOf x 16 5) (fieldOf x 0 16))

/-- Major 0x15 (R291). -/
def decodeMajor15 (x : BitVec 32) : Option Instr :=
  some (.bltu (fieldOf x 21 5) (fieldOf x 16 5) (fieldOf x 0 16))

/-- Major 0x16 (R291). -/
def decodeMajor16 (x : BitVec 32) : Option Instr :=
  some (.bgeu (fieldOf x 21 5) (fieldOf x 16 5) (fieldOf x 0 16))

/-- Major 0x17 (R291). -/
def decodeMajor17 (x : BitVec 32) : Option Instr :=
  if fieldOf x 16 5 == 0#5 then some (.bpAny (fieldOf x 21 5) (fieldOf x 0 16)) else
  if fieldOf x 16 5 == 1#5 then some (.bpNone (fieldOf x 21 5) (fieldOf x 0 16)) else
  if fieldOf x 16 5 == 2#5 then some (.bpAll (fieldOf x 21 5) (fieldOf x 0 16)) else
  if fieldOf x 16 5 == 3#5 then some (.bpFirst (fieldOf x 21 5) (fieldOf x 0 16)) else
  none

/-- Major 0x18 (R291). -/
def decodeMajor18 (x : BitVec 32) : Option Instr :=
  some (.jal (fieldOf x 21 5) (fieldOf x 0 21))

/-- Major 0x19 (R291). -/
def decodeMajor19 (x : BitVec 32) : Option Instr :=
  some (.jalr (fieldOf x 21 5) (fieldOf x 16 5) (fieldOf x 0 16))

/-- Major 0x1B (R291). -/
def decodeMajor1B (x : BitVec 32) : Option Instr :=
  match (fieldOf x 0 11).toNat with
  | 0 => some (.mul (fieldOf x 21 5) (fieldOf x 16 5) (fieldOf x 11 5))
  | 1 => some (.mulh (fieldOf x 21 5) (fieldOf x 16 5) (fieldOf x 11 5))
  | 2 => some (.mulhu (fieldOf x 21 5) (fieldOf x 16 5) (fieldOf x 11 5))
  | 3 => some (.mulhsu (fieldOf x 21 5) (fieldOf x 16 5) (fieldOf x 11 5))
  | 4 => some (.div (fieldOf x 21 5) (fieldOf x 16 5) (fieldOf x 11 5))
  | 5 => some (.divu (fieldOf x 21 5) (fieldOf x 16 5) (fieldOf x 11 5))
  | 6 => some (.rem (fieldOf x 21 5) (fieldOf x 16 5) (fieldOf x 11 5))
  | 7 => some (.remu (fieldOf x 21 5) (fieldOf x 16 5) (fieldOf x 11 5))
  | _ => none

/-- Major 0x1C (R291). -/
def decodeMajor1C (x : BitVec 32) : Option Instr :=
  match (fieldOf x 6 5).toNat with
  | 0 => if fieldOf x 0 2 == 0#2 then some (.fadd (fieldOf x 21 5) (fieldOf x 16 5) (fieldOf x 11 5) (fieldOf x 5 1) (fieldOf x 2 3)) else none
  | 1 => if fieldOf x 0 2 == 0#2 then some (.fsub (fieldOf x 21 5) (fieldOf x 16 5) (fieldOf x 11 5) (fieldOf x 5 1) (fieldOf x 2 3)) else none
  | 2 => if fieldOf x 0 2 == 0#2 then some (.fmul (fieldOf x 21 5) (fieldOf x 16 5) (fieldOf x 11 5) (fieldOf x 5 1) (fieldOf x 2 3)) else none
  | 3 => if fieldOf x 0 2 == 0#2 then some (.fdiv (fieldOf x 21 5) (fieldOf x 16 5) (fieldOf x 11 5) (fieldOf x 5 1) (fieldOf x 2 3)) else none
  | 4 => if fieldOf x 11 5 == 0#5 && fieldOf x 0 2 == 0#2 then some (.fsqrt (fieldOf x 21 5) (fieldOf x 16 5) (fieldOf x 5 1) (fieldOf x 2 3)) else none
  | 5 => if fieldOf x 2 3 == 0#3 && fieldOf x 0 2 == 0#2 then some (.fmin (fieldOf x 21 5) (fieldOf x 16 5) (fieldOf x 11 5) (fieldOf x 5 1)) else none
  | 6 => if fieldOf x 2 3 == 0#3 && fieldOf x 0 2 == 0#2 then some (.fmax (fieldOf x 21 5) (fieldOf x 16 5) (fieldOf x 11 5) (fieldOf x 5 1)) else none
  | 7 => if fieldOf x 2 3 == 0#3 && fieldOf x 0 2 == 0#2 then some (.fsgnC (fieldOf x 21 5) (fieldOf x 16 5) (fieldOf x 11 5) (fieldOf x 5 1)) else none
  | 8 => if fieldOf x 2 3 == 0#3 && fieldOf x 0 2 == 0#2 then some (.fsgnN (fieldOf x 21 5) (fieldOf x 16 5) (fieldOf x 11 5) (fieldOf x 5 1)) else none
  | 9 => if fieldOf x 2 3 == 0#3 && fieldOf x 0 2 == 0#2 then some (.fsgnX (fieldOf x 21 5) (fieldOf x 16 5) (fieldOf x 11 5) (fieldOf x 5 1)) else none
  | 10 => if fieldOf x 2 3 == 0#3 && fieldOf x 0 2 == 0#2 then some (.feq (fieldOf x 21 5) (fieldOf x 16 5) (fieldOf x 11 5) (fieldOf x 5 1)) else none
  | 11 => if fieldOf x 2 3 == 0#3 && fieldOf x 0 2 == 0#2 then some (.flt (fieldOf x 21 5) (fieldOf x 16 5) (fieldOf x 11 5) (fieldOf x 5 1)) else none
  | 12 => if fieldOf x 2 3 == 0#3 && fieldOf x 0 2 == 0#2 then some (.fle (fieldOf x 21 5) (fieldOf x 16 5) (fieldOf x 11 5) (fieldOf x 5 1)) else none
  | 13 => if fieldOf x 11 5 == 0#5 && fieldOf x 2 3 == 0#3 && fieldOf x 0 2 == 0#2 then some (.fclass (fieldOf x 21 5) (fieldOf x 16 5) (fieldOf x 5 1)) else none
  | 14 => if fieldOf x 11 5 == 0#5 && fieldOf x 0 2 == 0#2 then some (.fcvtFX (fieldOf x 21 5) (fieldOf x 16 5) (fieldOf x 5 1) (fieldOf x 2 3)) else none
  | 15 => if fieldOf x 11 5 == 0#5 && fieldOf x 0 2 == 0#2 then some (.fcvtFXu (fieldOf x 21 5) (fieldOf x 16 5) (fieldOf x 5 1) (fieldOf x 2 3)) else none
  | 16 => if fieldOf x 11 5 == 0#5 && fieldOf x 0 2 == 0#2 then some (.fcvtXF (fieldOf x 21 5) (fieldOf x 16 5) (fieldOf x 5 1) (fieldOf x 2 3)) else none
  | 17 => if fieldOf x 11 5 == 0#5 && fieldOf x 0 2 == 0#2 then some (.fcvtXuF (fieldOf x 21 5) (fieldOf x 16 5) (fieldOf x 5 1) (fieldOf x 2 3)) else none
  | 18 => if fieldOf x 12 4 == 0#4 && fieldOf x 0 2 == 0#2 then some (.fcvtFF (fieldOf x 21 5) (fieldOf x 16 5) (fieldOf x 11 1) (fieldOf x 5 1) (fieldOf x 2 3)) else none
  | 19 => if fieldOf x 11 5 == 0#5 && fieldOf x 2 3 == 0#3 && fieldOf x 0 2 == 0#2 then some (.fmvXF (fieldOf x 21 5) (fieldOf x 16 5) (fieldOf x 5 1)) else none
  | 20 => if fieldOf x 11 5 == 0#5 && fieldOf x 2 3 == 0#3 && fieldOf x 0 2 == 0#2 then some (.fmvFX (fieldOf x 21 5) (fieldOf x 16 5) (fieldOf x 5 1)) else none
  | _ => none

/-- Major 0x1D (R291). -/
def decodeMajor1D (x : BitVec 32) : Option Instr :=
  match (fieldOf x 9 2).toNat with
  | 0 => some (.fma (fieldOf x 21 5) (fieldOf x 16 5) (fieldOf x 11 5) (fieldOf x 8 1) (fieldOf x 5 3) (fieldOf x 0 5))
  | 1 => some (.fms (fieldOf x 21 5) (fieldOf x 16 5) (fieldOf x 11 5) (fieldOf x 8 1) (fieldOf x 5 3) (fieldOf x 0 5))
  | 2 => some (.fnma (fieldOf x 21 5) (fieldOf x 16 5) (fieldOf x 11 5) (fieldOf x 8 1) (fieldOf x 5 3) (fieldOf x 0 5))
  | 3 => some (.fnms (fieldOf x 21 5) (fieldOf x 16 5) (fieldOf x 11 5) (fieldOf x 8 1) (fieldOf x 5 3) (fieldOf x 0 5))
  | _ => none

/-- Major 0x1E (R291). -/
def decodeMajor1E (x : BitVec 32) : Option Instr :=
  match (fieldOf x 7 4).toNat with
  | 0 => if fieldOf x 0 4 == 0#4 then some (.aadd (fieldOf x 21 5) (fieldOf x 16 5) (fieldOf x 11 5) (fieldOf x 5 2) (fieldOf x 4 1)) else none
  | 1 => if fieldOf x 0 4 == 0#4 then some (.aand (fieldOf x 21 5) (fieldOf x 16 5) (fieldOf x 11 5) (fieldOf x 5 2) (fieldOf x 4 1)) else none
  | 2 => if fieldOf x 0 4 == 0#4 then some (.aor (fieldOf x 21 5) (fieldOf x 16 5) (fieldOf x 11 5) (fieldOf x 5 2) (fieldOf x 4 1)) else none
  | 3 => if fieldOf x 0 4 == 0#4 then some (.axor (fieldOf x 21 5) (fieldOf x 16 5) (fieldOf x 11 5) (fieldOf x 5 2) (fieldOf x 4 1)) else none
  | 4 => if fieldOf x 0 4 == 0#4 then some (.amin (fieldOf x 21 5) (fieldOf x 16 5) (fieldOf x 11 5) (fieldOf x 5 2) (fieldOf x 4 1)) else none
  | 5 => if fieldOf x 0 4 == 0#4 then some (.amax (fieldOf x 21 5) (fieldOf x 16 5) (fieldOf x 11 5) (fieldOf x 5 2) (fieldOf x 4 1)) else none
  | 6 => if fieldOf x 0 4 == 0#4 then some (.aminu (fieldOf x 21 5) (fieldOf x 16 5) (fieldOf x 11 5) (fieldOf x 5 2) (fieldOf x 4 1)) else none
  | 7 => if fieldOf x 0 4 == 0#4 then some (.amaxu (fieldOf x 21 5) (fieldOf x 16 5) (fieldOf x 11 5) (fieldOf x 5 2) (fieldOf x 4 1)) else none
  | 8 => if fieldOf x 0 4 == 0#4 then some (.aswp (fieldOf x 21 5) (fieldOf x 16 5) (fieldOf x 11 5) (fieldOf x 5 2) (fieldOf x 4 1)) else none
  | 9 => if fieldOf x 0 4 == 0#4 then some (.acas (fieldOf x 21 5) (fieldOf x 16 5) (fieldOf x 11 5) (fieldOf x 5 2) (fieldOf x 4 1)) else none
  | 10 => if fieldOf x 0 4 == 0#4 then some (.afadd (fieldOf x 21 5) (fieldOf x 16 5) (fieldOf x 11 5) (fieldOf x 5 2) (fieldOf x 4 1)) else none
  | _ => none

/-- Major 0x1F (R291). -/
def decodeMajor1F (x : BitVec 32) : Option Instr :=
  match (fieldOf x 6 5).toNat with
  | 0 => if fieldOf x 21 5 == 0#5 && fieldOf x 16 5 == 0#5 && fieldOf x 11 5 == 0#5 then some (.acq (fieldOf x 4 2) (fieldOf x 0 4)) else none
  | 1 => if fieldOf x 21 5 == 0#5 && fieldOf x 16 5 == 0#5 && fieldOf x 11 5 == 0#5 then some (.rel (fieldOf x 4 2) (fieldOf x 0 4)) else none
  | 2 => if fieldOf x 21 5 == 0#5 && fieldOf x 16 5 == 0#5 && fieldOf x 11 5 == 0#5 then some (.fence (fieldOf x 4 2) (fieldOf x 0 4)) else none
  | 3 => if fieldOf x 21 5 == 0#5 && fieldOf x 11 5 == 0#5 then some (.own (fieldOf x 16 5) (fieldOf x 4 2) (fieldOf x 0 4)) else none
  | 4 => if fieldOf x 21 5 == 0#5 && fieldOf x 11 5 == 0#5 then some (.disown (fieldOf x 16 5) (fieldOf x 4 2) (fieldOf x 0 4)) else none
  | 5 => if fieldOf x 11 5 == 0#5 then some (.qlock (fieldOf x 21 5) (fieldOf x 16 5) (fieldOf x 4 2) (fieldOf x 0 4)) else none
  | 6 => if fieldOf x 21 5 == 0#5 && fieldOf x 11 5 == 0#5 then some (.qunlock (fieldOf x 16 5) (fieldOf x 4 2) (fieldOf x 0 4)) else none
  | 7 => if fieldOf x 11 5 == 0#5 && fieldOf x 4 2 == 0#2 && fieldOf x 0 4 == 0#4 then some (.wait (fieldOf x 21 5) (fieldOf x 16 5)) else none
  | 8 => if fieldOf x 21 5 == 0#5 && fieldOf x 11 5 == 0#5 && fieldOf x 4 2 == 0#2 && fieldOf x 0 4 == 0#4 then some (.wake (fieldOf x 16 5)) else none
  | _ => none

/-- Major 0x20 (R291). -/
def decodeMajor20 (x : BitVec 32) : Option Instr :=
  if fieldOf x 16 5 == 0#5 then some (.crr (fieldOf x 21 5) (fieldOf x 0 16)) else none

/-- Major 0x21 (R291). -/
def decodeMajor21 (x : BitVec 32) : Option Instr :=
  some (.crw (fieldOf x 21 5) (fieldOf x 16 5) (fieldOf x 0 16))

/-- Major 0x22 (R291). -/
def decodeMajor22 (x : BitVec 32) : Option Instr :=
  some (.crs (fieldOf x 21 5) (fieldOf x 16 5) (fieldOf x 0 16))

/-- Major 0x23 (R291). -/
def decodeMajor23 (x : BitVec 32) : Option Instr :=
  some (.crc (fieldOf x 21 5) (fieldOf x 16 5) (fieldOf x 0 16))

/-- Major 0x24 (R291). -/
def decodeMajor24 (x : BitVec 32) : Option Instr :=
  match (fieldOf x 0 11).toNat with
  | 0 => if fieldOf x 11 5 == 0#5 then some (.vcfg (fieldOf x 21 5) (fieldOf x 16 5)) else none
  | 1 => if fieldOf x 11 5 == 0#5 then some (.vsetl (fieldOf x 21 5) (fieldOf x 16 5)) else none
  | 2 => if fieldOf x 11 5 == 0#5 then some (.vsetrows (fieldOf x 21 5) (fieldOf x 16 5)) else none
  | 3 => if fieldOf x 11 5 == 0#5 then some (.vtag (fieldOf x 21 5) (fieldOf x 16 5)) else none
  | 4 => if fieldOf x 11 5 == 0#5 then some (.vsave (fieldOf x 21 5) (fieldOf x 16 5)) else none
  | 5 => if fieldOf x 11 5 == 0#5 then some (.vrest (fieldOf x 21 5) (fieldOf x 16 5)) else none
  | _ => none

/-- Major 0x25 (R291). -/
def decodeMajor25 (x : BitVec 32) : Option Instr :=
  match (fieldOf x 3 8).toNat with
  | 0 => if fieldOf x 11 5 == 0#5 && fieldOf x 2 1 == 0#1 then some (.vld (fieldOf x 21 5) (fieldOf x 16 5) (fieldOf x 1 1) (fieldOf x 0 1)) else none
  | 1 => if fieldOf x 11 5 == 0#5 && fieldOf x 2 1 == 0#1 then some (.vst (fieldOf x 21 5) (fieldOf x 16 5) (fieldOf x 1 1) (fieldOf x 0 1)) else none
  | 2 => if fieldOf x 2 1 == 0#1 then some (.vldx (fieldOf x 21 5) (fieldOf x 16 5) (fieldOf x 11 5) (fieldOf x 1 1) (fieldOf x 0 1)) else none
  | 3 => if fieldOf x 2 1 == 0#1 then some (.vstx (fieldOf x 21 5) (fieldOf x 16 5) (fieldOf x 11 5) (fieldOf x 1 1) (fieldOf x 0 1)) else none
  | 4 => if fieldOf x 11 5 == 0#5 && fieldOf x 2 1 == 0#1 then some (.vldT (fieldOf x 21 5) (fieldOf x 16 5) (fieldOf x 1 1) (fieldOf x 0 1)) else none
  | 5 => if fieldOf x 2 1 == 0#1 then some (.vstN (fieldOf x 21 5) (fieldOf x 16 5) (fieldOf x 11 5) (fieldOf x 1 1) (fieldOf x 0 1)) else none
  | 6 => if fieldOf x 21 5 == 0#5 && fieldOf x 0 3 == 0#3 then some (.vpush (fieldOf x 16 5) (fieldOf x 11 5)) else none
  | 7 => if fieldOf x 0 3 == 0#3 then some (.vpushT (fieldOf x 21 5) (fieldOf x 16 5) (fieldOf x 11 5)) else none
  | _ => none

/-- Major 0x26 (R291). -/
def decodeMajor26 (x : BitVec 32) : Option Instr :=
  match (fieldOf x 3 8).toNat with
  | 0 => if fieldOf x 2 1 == 0#1 then some (.vadd (fieldOf x 21 5) (fieldOf x 16 5) (fieldOf x 11 5) (fieldOf x 1 1) (fieldOf x 0 1)) else none
  | 1 => if fieldOf x 2 1 == 0#1 then some (.vsub (fieldOf x 21 5) (fieldOf x 16 5) (fieldOf x 11 5) (fieldOf x 1 1) (fieldOf x 0 1)) else none
  | 2 => if fieldOf x 2 1 == 0#1 then some (.vmul (fieldOf x 21 5) (fieldOf x 16 5) (fieldOf x 11 5) (fieldOf x 1 1) (fieldOf x 0 1)) else none
  | 3 => if fieldOf x 2 1 == 0#1 then some (.vfma (fieldOf x 21 5) (fieldOf x 16 5) (fieldOf x 11 5) (fieldOf x 1 1) (fieldOf x 0 1)) else none
  | 4 => if fieldOf x 2 1 == 0#1 then some (.vfms (fieldOf x 21 5) (fieldOf x 16 5) (fieldOf x 11 5) (fieldOf x 1 1) (fieldOf x 0 1)) else none
  | 5 => if fieldOf x 2 1 == 0#1 then some (.vdiv (fieldOf x 21 5) (fieldOf x 16 5) (fieldOf x 11 5) (fieldOf x 1 1) (fieldOf x 0 1)) else none
  | 6 => if fieldOf x 11 5 == 0#5 && fieldOf x 0 1 == 0#1 && fieldOf x 2 1 == 0#1 then some (.vsqrt (fieldOf x 21 5) (fieldOf x 16 5) (fieldOf x 1 1)) else none
  | 7 => if fieldOf x 2 1 == 0#1 then some (.vmin (fieldOf x 21 5) (fieldOf x 16 5) (fieldOf x 11 5) (fieldOf x 1 1) (fieldOf x 0 1)) else none
  | 8 => if fieldOf x 2 1 == 0#1 then some (.vmax (fieldOf x 21 5) (fieldOf x 16 5) (fieldOf x 11 5) (fieldOf x 1 1) (fieldOf x 0 1)) else none
  | 9 => if fieldOf x 11 5 == 0#5 && fieldOf x 0 1 == 0#1 && fieldOf x 2 1 == 0#1 then some (.vabs (fieldOf x 21 5) (fieldOf x 16 5) (fieldOf x 1 1)) else none
  | 10 => if fieldOf x 11 5 == 0#5 && fieldOf x 0 1 == 0#1 && fieldOf x 2 1 == 0#1 then some (.vneg (fieldOf x 21 5) (fieldOf x 16 5) (fieldOf x 1 1)) else none
  | 11 => if fieldOf x 2 1 == 0#1 then some (.vand (fieldOf x 21 5) (fieldOf x 16 5) (fieldOf x 11 5) (fieldOf x 1 1) (fieldOf x 0 1)) else none
  | 12 => if fieldOf x 2 1 == 0#1 then some (.vor (fieldOf x 21 5) (fieldOf x 16 5) (fieldOf x 11 5) (fieldOf x 1 1) (fieldOf x 0 1)) else none
  | 13 => if fieldOf x 2 1 == 0#1 then some (.vxor (fieldOf x 21 5) (fieldOf x 16 5) (fieldOf x 11 5) (fieldOf x 1 1) (fieldOf x 0 1)) else none
  | 14 => if fieldOf x 2 1 == 0#1 then some (.vshl (fieldOf x 21 5) (fieldOf x 16 5) (fieldOf x 11 5) (fieldOf x 1 1) (fieldOf x 0 1)) else none
  | 15 => if fieldOf x 2 1 == 0#1 then some (.vshr (fieldOf x 21 5) (fieldOf x 16 5) (fieldOf x 11 5) (fieldOf x 1 1) (fieldOf x 0 1)) else none
  | 16 => if fieldOf x 2 1 == 0#1 then some (.vmulh (fieldOf x 21 5) (fieldOf x 16 5) (fieldOf x 11 5) (fieldOf x 1 1) (fieldOf x 0 1)) else none
  | 17 => if fieldOf x 2 1 == 0#1 then some (.vsel (fieldOf x 21 5) (fieldOf x 16 5) (fieldOf x 11 5) (fieldOf x 1 1) (fieldOf x 0 1)) else none
  | _ => none

/-- Major 0x27 (R291). -/
def decodeMajor27 (x : BitVec 32) : Option Instr :=
  match (fieldOf x 3 8).toNat with
  | 0 => if fieldOf x 1 2 == 0#2 then some (.vcmpEq (fieldOf x 21 5) (fieldOf x 16 5) (fieldOf x 11 5) (fieldOf x 0 1)) else none
  | 1 => if fieldOf x 1 2 == 0#2 then some (.vcmpNe (fieldOf x 21 5) (fieldOf x 16 5) (fieldOf x 11 5) (fieldOf x 0 1)) else none
  | 2 => if fieldOf x 1 2 == 0#2 then some (.vcmpLt (fieldOf x 21 5) (fieldOf x 16 5) (fieldOf x 11 5) (fieldOf x 0 1)) else none
  | 3 => if fieldOf x 1 2 == 0#2 then some (.vcmpLe (fieldOf x 21 5) (fieldOf x 16 5) (fieldOf x 11 5) (fieldOf x 0 1)) else none
  | 4 => if fieldOf x 1 2 == 0#2 then some (.vcmpGt (fieldOf x 21 5) (fieldOf x 16 5) (fieldOf x 11 5) (fieldOf x 0 1)) else none
  | 5 => if fieldOf x 1 2 == 0#2 then some (.vcmpGe (fieldOf x 21 5) (fieldOf x 16 5) (fieldOf x 11 5) (fieldOf x 0 1)) else none
  | 6 => if fieldOf x 1 2 == 0#2 then some (.vcmpUn (fieldOf x 21 5) (fieldOf x 16 5) (fieldOf x 11 5) (fieldOf x 0 1)) else none
  | _ => none

/-- Major 0x28 (R291). -/
def decodeMajor28 (x : BitVec 32) : Option Instr :=
  match (fieldOf x 3 8).toNat with
  | 0 => if fieldOf x 11 5 == 0#5 && fieldOf x 0 3 == 0#3 then some (.vrcp (fieldOf x 21 5) (fieldOf x 16 5)) else none
  | 1 => if fieldOf x 11 5 == 0#5 && fieldOf x 0 3 == 0#3 then some (.vrsqrt (fieldOf x 21 5) (fieldOf x 16 5)) else none
  | 2 => if fieldOf x 11 5 == 0#5 && fieldOf x 0 3 == 0#3 then some (.vexp2 (fieldOf x 21 5) (fieldOf x 16 5)) else none
  | 3 => if fieldOf x 11 5 == 0#5 && fieldOf x 0 3 == 0#3 then some (.vlog2 (fieldOf x 21 5) (fieldOf x 16 5)) else none
  | 4 => if fieldOf x 11 5 == 0#5 && fieldOf x 0 3 == 0#3 then some (.vtanh (fieldOf x 21 5) (fieldOf x 16 5)) else none
  | _ => none

/-- Major 0x29 (R291). -/
def decodeMajor29 (x : BitVec 32) : Option Instr :=
  match (fieldOf x 3 8).toNat with
  | 0 => some (.vslup (fieldOf x 21 5) (fieldOf x 16 5) (fieldOf x 11 5) (fieldOf x 0 3))
  | 1 => some (.vsldn (fieldOf x 21 5) (fieldOf x 16 5) (fieldOf x 11 5) (fieldOf x 0 3))
  | 2 => if fieldOf x 0 3 == 0#3 then some (.vperm (fieldOf x 21 5) (fieldOf x 16 5) (fieldOf x 11 5)) else none
  | 3 => if fieldOf x 11 5 == 0#5 && fieldOf x 0 3 == 0#3 then some (.vcomp (fieldOf x 21 5) (fieldOf x 16 5)) else none
  | 4 => if fieldOf x 16 5 == 0#5 && fieldOf x 0 3 == 0#3 then some (.vbcast (fieldOf x 21 5) (fieldOf x 11 5)) else none
  | 5 => if fieldOf x 0 3 == 0#3 then some (.vext (fieldOf x 21 5) (fieldOf x 16 5) (fieldOf x 11 5)) else none
  | 6 => if fieldOf x 0 3 == 0#3 then some (.vins (fieldOf x 21 5) (fieldOf x 16 5) (fieldOf x 11 5)) else none
  | 7 => if fieldOf x 11 5 == 0#5 && fieldOf x 0 1 == 0#1 && fieldOf x 2 1 == 0#1 then some (.vcvt (fieldOf x 21 5) (fieldOf x 16 5) (fieldOf x 1 1)) else none
  | _ => none

/-- Major 0x2A (R291). -/
def decodeMajor2A (x : BitVec 32) : Option Instr :=
  match (fieldOf x 3 8).toNat with
  | 0 => if fieldOf x 11 5 == 0#5 && fieldOf x 0 3 == 0#3 then some (.vredSum (fieldOf x 21 5) (fieldOf x 16 5)) else none
  | 1 => if fieldOf x 11 5 == 0#5 && fieldOf x 0 3 == 0#3 then some (.vredMin (fieldOf x 21 5) (fieldOf x 16 5)) else none
  | 2 => if fieldOf x 11 5 == 0#5 && fieldOf x 0 3 == 0#3 then some (.vredMax (fieldOf x 21 5) (fieldOf x 16 5)) else none
  | 3 => if fieldOf x 11 5 == 0#5 && fieldOf x 0 3 == 0#3 then some (.vredAnd (fieldOf x 21 5) (fieldOf x 16 5)) else none
  | 4 => if fieldOf x 11 5 == 0#5 && fieldOf x 0 3 == 0#3 then some (.vredOr (fieldOf x 21 5) (fieldOf x 16 5)) else none
  | 5 => if fieldOf x 11 5 == 0#5 && fieldOf x 0 3 == 0#3 then some (.vscanSum (fieldOf x 21 5) (fieldOf x 16 5)) else none
  | 6 => if fieldOf x 11 5 == 0#5 && fieldOf x 0 3 == 0#3 then some (.vscanMin (fieldOf x 21 5) (fieldOf x 16 5)) else none
  | 7 => if fieldOf x 11 5 == 0#5 && fieldOf x 0 3 == 0#3 then some (.vscanMax (fieldOf x 21 5) (fieldOf x 16 5)) else none
  | 8 => if fieldOf x 0 3 == 0#3 then some (.vdot (fieldOf x 21 5) (fieldOf x 16 5) (fieldOf x 11 5)) else none
  | _ => none

/-- Major 0x2B (R291). -/
def decodeMajor2B (x : BitVec 32) : Option Instr :=
  match (fieldOf x 3 8).toNat with
  | 0 => if fieldOf x 0 3 == 0#3 then some (.vbsl (fieldOf x 21 5) (fieldOf x 16 5) (fieldOf x 11 5)) else none
  | 1 => if fieldOf x 0 3 == 0#3 then some (.vbsr (fieldOf x 21 5) (fieldOf x 16 5) (fieldOf x 11 5)) else none
  | 2 => if fieldOf x 0 3 == 0#3 then some (.vbfun (fieldOf x 21 5) (fieldOf x 16 5) (fieldOf x 11 5)) else none
  | 3 => if fieldOf x 11 5 == 0#5 && fieldOf x 0 3 == 0#3 then some (.vbpopc (fieldOf x 21 5) (fieldOf x 16 5)) else none
  | _ => none

/-- Major 0x2C (R291). -/
def decodeMajor2C (x : BitVec 32) : Option Instr :=
  match (fieldOf x 3 8).toNat with
  | 0 => if fieldOf x 0 3 == 0#3 then some (.pand (fieldOf x 21 5) (fieldOf x 16 5) (fieldOf x 11 5)) else none
  | 1 => if fieldOf x 0 3 == 0#3 then some (.por (fieldOf x 21 5) (fieldOf x 16 5) (fieldOf x 11 5)) else none
  | 2 => if fieldOf x 0 3 == 0#3 then some (.pxor (fieldOf x 21 5) (fieldOf x 16 5) (fieldOf x 11 5)) else none
  | 3 => if fieldOf x 0 3 == 0#3 then some (.pandn (fieldOf x 21 5) (fieldOf x 16 5) (fieldOf x 11 5)) else none
  | 4 => if fieldOf x 11 5 == 0#5 && fieldOf x 0 3 == 0#3 then some (.pnot (fieldOf x 21 5) (fieldOf x 16 5)) else none
  | 5 => if fieldOf x 11 5 == 0#5 && fieldOf x 0 3 == 0#3 then some (.pset (fieldOf x 21 5) (fieldOf x 16 5)) else none
  | 6 => if fieldOf x 11 5 == 0#5 && fieldOf x 0 3 == 0#3 then some (.pfirst (fieldOf x 21 5) (fieldOf x 16 5)) else none
  | 7 => if fieldOf x 11 5 == 0#5 && fieldOf x 0 3 == 0#3 then some (.pcnt (fieldOf x 21 5) (fieldOf x 16 5)) else none
  | 8 => if fieldOf x 11 5 == 0#5 && fieldOf x 0 3 == 0#3 then some (.pmv (fieldOf x 21 5) (fieldOf x 16 5)) else none
  | _ => none

/-- Major 0x2E (R291). -/
def decodeMajor2E (x : BitVec 32) : Option Instr :=
  match (fieldOf x 0 11).toNat with
  | 0 => if fieldOf x 11 5 == 0#5 then some (.tld (fieldOf x 21 5) (fieldOf x 16 5)) else none
  | 1 => if fieldOf x 11 5 == 0#5 then some (.tst (fieldOf x 21 5) (fieldOf x 16 5)) else none
  | 2 => some (.mop (fieldOf x 21 5) (fieldOf x 16 5) (fieldOf x 11 5))
  | 3 => some (.mops (fieldOf x 21 5) (fieldOf x 16 5) (fieldOf x 11 5))
  | 4 => some (.mopM (fieldOf x 21 5) (fieldOf x 16 5) (fieldOf x 11 5))
  | 5 => if fieldOf x 16 5 == 0#5 && fieldOf x 11 5 == 0#5 then some (.mclr (fieldOf x 21 5)) else none
  | 6 => some (.accx (fieldOf x 21 5) (fieldOf x 16 5) (fieldOf x 11 5))
  | 7 => some (.acci (fieldOf x 21 5) (fieldOf x 16 5) (fieldOf x 11 5))
  | 8 => if fieldOf x 21 5 == 0#5 && fieldOf x 16 5 == 0#5 && fieldOf x 11 5 == 0#5 then some (.mwait) else none
  | _ => none

/-- Major 0x2F (R291). -/
def decodeMajor2F (x : BitVec 32) : Option Instr :=
  match (fieldOf x 0 11).toNat with
  | 0 => if fieldOf x 11 5 == 0#5 then some (.epush (fieldOf x 21 5) (fieldOf x 16 5)) else none
  | 1 => if fieldOf x 11 5 == 0#5 then some (.epop (fieldOf x 21 5) (fieldOf x 16 5)) else none
  | 2 => if fieldOf x 11 5 == 0#5 then some (.epeek (fieldOf x 21 5) (fieldOf x 16 5)) else none
  | _ => none

/-- Major 0x30 (R291). -/
def decodeMajor30 (x : BitVec 32) : Option Instr :=
  match (fieldOf x 0 11).toNat with
  | 0 => if fieldOf x 11 5 == 0#5 then some (.pclaim (fieldOf x 21 5) (fieldOf x 16 5)) else none
  | 1 => if fieldOf x 11 5 == 0#5 then some (.prel (fieldOf x 21 5) (fieldOf x 16 5)) else none
  | 2 => some (.pgive (fieldOf x 21 5) (fieldOf x 16 5) (fieldOf x 11 5))
  | 3 => if fieldOf x 11 5 == 0#5 then some (.pstat (fieldOf x 21 5) (fieldOf x 16 5)) else none
  | 4 => some (.pmark (fieldOf x 21 5) (fieldOf x 16 5) (fieldOf x 11 5))
  | _ => none

/-- Major 0x31 (R291). -/
def decodeMajor31 (x : BitVec 32) : Option Instr :=
  match (fieldOf x 0 11).toNat with
  | 0 => if fieldOf x 11 5 == 0#5 then some (.orbdef (fieldOf x 21 5) (fieldOf x 16 5)) else none
  | 1 => some (.orbin (fieldOf x 21 5) (fieldOf x 16 5) (fieldOf x 11 5))
  | 2 => if fieldOf x 11 5 == 0#5 then some (.orbgo (fieldOf x 21 5) (fieldOf x 16 5)) else none
  | 3 => some (.orbout (fieldOf x 21 5) (fieldOf x 16 5) (fieldOf x 11 5))
  | 4 => if fieldOf x 11 5 == 0#5 then some (.orbstat (fieldOf x 21 5) (fieldOf x 16 5)) else none
  | _ => none

/-- Major 0x32 (R291). -/
def decodeMajor32 (x : BitVec 32) : Option Instr :=
  match (fieldOf x 6 5).toNat with
  | 0 => if fieldOf x 11 5 == 0#5 && fieldOf x 5 1 == 0#1 && fieldOf x 2 3 == 0#3 && fieldOf x 0 2 == 0#2 then some (.qnum (fieldOf x 21 5) (fieldOf x 16 5)) else none
  | 1 => if fieldOf x 11 5 == 0#5 && fieldOf x 5 1 == 0#1 && fieldOf x 2 3 == 0#3 && fieldOf x 0 2 == 0#2 then some (.qden (fieldOf x 21 5) (fieldOf x 16 5)) else none
  | 2 => if fieldOf x 5 1 == 0#1 && fieldOf x 0 2 == 0#2 then some (.qmk (fieldOf x 21 5) (fieldOf x 16 5) (fieldOf x 11 5) (fieldOf x 2 3)) else none
  | 3 => if fieldOf x 5 1 == 0#1 && fieldOf x 0 2 == 0#2 then some (.qmed (fieldOf x 21 5) (fieldOf x 16 5) (fieldOf x 11 5) (fieldOf x 2 3)) else none
  | 4 => if fieldOf x 5 1 == 0#1 && fieldOf x 2 3 == 0#3 && fieldOf x 0 2 == 0#2 then some (.qcf (fieldOf x 21 5) (fieldOf x 16 5) (fieldOf x 11 5)) else none
  | 5 => if fieldOf x 11 5 == 0#5 && fieldOf x 5 1 == 0#1 && fieldOf x 2 3 == 0#3 && fieldOf x 0 2 == 0#2 then some (.qfloor (fieldOf x 21 5) (fieldOf x 16 5)) else none
  | _ => none

/-- Major 0x33 (R291). -/
def decodeMajor33 (x : BitVec 32) : Option Instr :=
  match (fieldOf x 0 11).toNat with
  | 0 => if fieldOf x 21 5 == 0#5 && fieldOf x 16 5 == 0#5 && fieldOf x 11 5 == 0#5 then some (.ecall) else none
  | 1 => if fieldOf x 21 5 == 0#5 && fieldOf x 16 5 == 0#5 && fieldOf x 11 5 == 0#5 then some (.ebreak) else none
  | 2 => if fieldOf x 21 5 == 0#5 && fieldOf x 16 5 == 0#5 && fieldOf x 11 5 == 0#5 then some (.sret) else none
  | 3 => if fieldOf x 21 5 == 0#5 && fieldOf x 16 5 == 0#5 && fieldOf x 11 5 == 0#5 then some (.uret) else none
  | 4 => if fieldOf x 21 5 == 0#5 && fieldOf x 16 5 == 0#5 && fieldOf x 11 5 == 0#5 then some (.halt) else none
  | 5 => if fieldOf x 21 5 == 0#5 then some (.tlbinv (fieldOf x 16 5) (fieldOf x 11 5)) else none
  | 6 => if fieldOf x 21 5 == 0#5 && fieldOf x 16 5 == 0#5 && fieldOf x 11 5 == 0#5 then some (.icinv) else none
  | 7 => some (.klaunch (fieldOf x 21 5) (fieldOf x 16 5) (fieldOf x 11 5))
  | _ => none

/-- The fields of a word by its major opcode, before the operand codes are checked (R291). -/
def decodeFields (x : BitVec 32) : Option Instr :=
  match (fieldOf x 26 6).toNat with
  | 0x01 => decodeMajor01 x
  | 0x02 => decodeMajor02 x
  | 0x03 => decodeMajor03 x
  | 0x04 => decodeMajor04 x
  | 0x05 => decodeMajor05 x
  | 0x06 => decodeMajor06 x
  | 0x07 => decodeMajor07 x
  | 0x08 => decodeMajor08 x
  | 0x09 => decodeMajor09 x
  | 0x0A => decodeMajor0A x
  | 0x0B => decodeMajor0B x
  | 0x0C => decodeMajor0C x
  | 0x0D => decodeMajor0D x
  | 0x0E => decodeMajor0E x
  | 0x0F => decodeMajor0F x
  | 0x10 => decodeMajor10 x
  | 0x11 => decodeMajor11 x
  | 0x12 => decodeMajor12 x
  | 0x13 => decodeMajor13 x
  | 0x14 => decodeMajor14 x
  | 0x15 => decodeMajor15 x
  | 0x16 => decodeMajor16 x
  | 0x17 => decodeMajor17 x
  | 0x18 => decodeMajor18 x
  | 0x19 => decodeMajor19 x
  | 0x1B => decodeMajor1B x
  | 0x1C => decodeMajor1C x
  | 0x1D => decodeMajor1D x
  | 0x1E => decodeMajor1E x
  | 0x1F => decodeMajor1F x
  | 0x20 => decodeMajor20 x
  | 0x21 => decodeMajor21 x
  | 0x22 => decodeMajor22 x
  | 0x23 => decodeMajor23 x
  | 0x24 => decodeMajor24 x
  | 0x25 => decodeMajor25 x
  | 0x26 => decodeMajor26 x
  | 0x27 => decodeMajor27 x
  | 0x28 => decodeMajor28 x
  | 0x29 => decodeMajor29 x
  | 0x2A => decodeMajor2A x
  | 0x2B => decodeMajor2B x
  | 0x2C => decodeMajor2C x
  | 0x2E => decodeMajor2E x
  | 0x2F => decodeMajor2F x
  | 0x30 => decodeMajor30 x
  | 0x31 => decodeMajor31 x
  | 0x32 => decodeMajor32 x
  | 0x33 => decodeMajor33 x
  | _ => none

/-- The decoder (R293): the instruction a word stands for, or none where the word is not an instruction. -/
def decode (x : BitVec 32) : Option Instr :=
  match decodeFields x with
  | some i => if WellFormed i then some i else none
  | none => none

/-- Why a word is no instruction (R293): its major opcode is not assigned, its selector or its fixed bits stand for no
instruction of the major, or an operand code is reserved. -/
inductive Reject where
  | major (op : BitVec 6)
  | form (op : BitVec 6)
  | operand (i : Instr)
  deriving DecidableEq, Repr

/-- The major opcodes that R291 assigns. -/
def majorAssigned (op : BitVec 6) : Bool := decide (0x01 ≤ op.toNat ∧ op.toNat ≤ 0x33 ∧ op ≠ 0x1A#6 ∧ op ≠ 0x2D#6)

/-- The decoder with the name of what is wrong with a word that is refused. -/
def decodeNamed (x : BitVec 32) : Except Reject Instr :=
  match decodeFields x with
  | some i => if WellFormed i then .ok i else .error (.operand i)
  | none => .error (if majorAssigned (fieldOf x 26 6) then .form (fieldOf x 26 6) else .major (fieldOf x 26 6))

theorem decodeNamed_decode (x : BitVec 32) : (decodeNamed x).toOption = decode x := by
  unfold decodeNamed decode
  split <;> (try split) <;> rfl

/-- Whether a row of the opcode table has an encoding: the steps of the other agents have none. -/
def isEncoded (i : Instr) : Bool :=
  match i with
  | .add _ _ _ => true
  | .sub _ _ _ => true
  | .and _ _ _ => true
  | .or _ _ _ => true
  | .xor _ _ _ => true
  | .andn _ _ _ => true
  | .sll _ _ _ => true
  | .srl _ _ _ => true
  | .sra _ _ _ => true
  | .rol _ _ _ => true
  | .slt _ _ _ => true
  | .sltu _ _ _ => true
  | .min _ _ _ => true
  | .max _ _ _ => true
  | .minu _ _ _ => true
  | .maxu _ _ _ => true
  | .clz _ _ => true
  | .ctz _ _ => true
  | .popc _ _ => true
  | .addi _ _ _ => true
  | .andi _ _ _ => true
  | .ori _ _ _ => true
  | .xori _ _ _ => true
  | .slli _ _ _ => true
  | .srli _ _ _ => true
  | .srai _ _ _ => true
  | .slti _ _ _ => true
  | .sltiu _ _ _ => true
  | .lih _ _ => true
  | .pcrel _ _ => true
  | .ldB _ _ _ => true
  | .ldBu _ _ _ => true
  | .ldH _ _ _ => true
  | .ldHu _ _ _ => true
  | .ldW _ _ _ => true
  | .ldWu _ _ _ => true
  | .ldD _ _ _ => true
  | .stB _ _ _ => true
  | .stH _ _ _ => true
  | .stW _ _ _ => true
  | .stD _ _ _ => true
  | .ldaW _ _ _ _ => true
  | .ldaD _ _ _ _ => true
  | .stlW _ _ _ _ => true
  | .stlD _ _ _ _ => true
  | .fldH _ _ _ => true
  | .fldW _ _ _ => true
  | .fldD _ _ _ => true
  | .fstH _ _ _ => true
  | .fstW _ _ _ => true
  | .fstD _ _ _ => true
  | .beq _ _ _ => true
  | .bne _ _ _ => true
  | .blt _ _ _ => true
  | .bge _ _ _ => true
  | .bltu _ _ _ => true
  | .bgeu _ _ _ => true
  | .bpAny _ _ => true
  | .bpNone _ _ => true
  | .bpAll _ _ => true
  | .bpFirst _ _ => true
  | .jal _ _ => true
  | .jalr _ _ _ => true
  | .mul _ _ _ => true
  | .mulh _ _ _ => true
  | .mulhu _ _ _ => true
  | .mulhsu _ _ _ => true
  | .div _ _ _ => true
  | .divu _ _ _ => true
  | .rem _ _ _ => true
  | .remu _ _ _ => true
  | .fadd _ _ _ _ _ => true
  | .fsub _ _ _ _ _ => true
  | .fmul _ _ _ _ _ => true
  | .fdiv _ _ _ _ _ => true
  | .fsqrt _ _ _ _ => true
  | .fmin _ _ _ _ => true
  | .fmax _ _ _ _ => true
  | .fsgnC _ _ _ _ => true
  | .fsgnN _ _ _ _ => true
  | .fsgnX _ _ _ _ => true
  | .feq _ _ _ _ => true
  | .flt _ _ _ _ => true
  | .fle _ _ _ _ => true
  | .fclass _ _ _ => true
  | .fcvtFX _ _ _ _ => true
  | .fcvtFXu _ _ _ _ => true
  | .fcvtXF _ _ _ _ => true
  | .fcvtXuF _ _ _ _ => true
  | .fcvtFF _ _ _ _ _ => true
  | .fmvXF _ _ _ => true
  | .fmvFX _ _ _ => true
  | .fma _ _ _ _ _ _ => true
  | .fms _ _ _ _ _ _ => true
  | .fnma _ _ _ _ _ _ => true
  | .fnms _ _ _ _ _ _ => true
  | .aadd _ _ _ _ _ => true
  | .aand _ _ _ _ _ => true
  | .aor _ _ _ _ _ => true
  | .axor _ _ _ _ _ => true
  | .amin _ _ _ _ _ => true
  | .amax _ _ _ _ _ => true
  | .aminu _ _ _ _ _ => true
  | .amaxu _ _ _ _ _ => true
  | .aswp _ _ _ _ _ => true
  | .acas _ _ _ _ _ => true
  | .afadd _ _ _ _ _ => true
  | .acq _ _ => true
  | .rel _ _ => true
  | .fence _ _ => true
  | .own _ _ _ => true
  | .disown _ _ _ => true
  | .qlock _ _ _ _ => true
  | .qunlock _ _ _ => true
  | .wait _ _ => true
  | .wake _ => true
  | .crr _ _ => true
  | .crw _ _ _ => true
  | .crs _ _ _ => true
  | .crc _ _ _ => true
  | .vcfg _ _ => true
  | .vsetl _ _ => true
  | .vsetrows _ _ => true
  | .vtag _ _ => true
  | .vsave _ _ => true
  | .vrest _ _ => true
  | .vld _ _ _ _ => true
  | .vst _ _ _ _ => true
  | .vldx _ _ _ _ _ => true
  | .vstx _ _ _ _ _ => true
  | .vldT _ _ _ _ => true
  | .vstN _ _ _ _ _ => true
  | .vpush _ _ => true
  | .vpushT _ _ _ => true
  | .vadd _ _ _ _ _ => true
  | .vsub _ _ _ _ _ => true
  | .vmul _ _ _ _ _ => true
  | .vfma _ _ _ _ _ => true
  | .vfms _ _ _ _ _ => true
  | .vdiv _ _ _ _ _ => true
  | .vsqrt _ _ _ => true
  | .vmin _ _ _ _ _ => true
  | .vmax _ _ _ _ _ => true
  | .vabs _ _ _ => true
  | .vneg _ _ _ => true
  | .vand _ _ _ _ _ => true
  | .vor _ _ _ _ _ => true
  | .vxor _ _ _ _ _ => true
  | .vshl _ _ _ _ _ => true
  | .vshr _ _ _ _ _ => true
  | .vmulh _ _ _ _ _ => true
  | .vsel _ _ _ _ _ => true
  | .vcmpEq _ _ _ _ => true
  | .vcmpNe _ _ _ _ => true
  | .vcmpLt _ _ _ _ => true
  | .vcmpLe _ _ _ _ => true
  | .vcmpGt _ _ _ _ => true
  | .vcmpGe _ _ _ _ => true
  | .vcmpUn _ _ _ _ => true
  | .vrcp _ _ => true
  | .vrsqrt _ _ => true
  | .vexp2 _ _ => true
  | .vlog2 _ _ => true
  | .vtanh _ _ => true
  | .vslup _ _ _ _ => true
  | .vsldn _ _ _ _ => true
  | .vperm _ _ _ => true
  | .vcomp _ _ => true
  | .vbcast _ _ => true
  | .vext _ _ _ => true
  | .vins _ _ _ => true
  | .vcvt _ _ _ => true
  | .vredSum _ _ => true
  | .vredMin _ _ => true
  | .vredMax _ _ => true
  | .vredAnd _ _ => true
  | .vredOr _ _ => true
  | .vscanSum _ _ => true
  | .vscanMin _ _ => true
  | .vscanMax _ _ => true
  | .vdot _ _ _ => true
  | .vbsl _ _ _ => true
  | .vbsr _ _ _ => true
  | .vbfun _ _ _ => true
  | .vbpopc _ _ => true
  | .pand _ _ _ => true
  | .por _ _ _ => true
  | .pxor _ _ _ => true
  | .pandn _ _ _ => true
  | .pnot _ _ => true
  | .pset _ _ => true
  | .pfirst _ _ => true
  | .pcnt _ _ => true
  | .pmv _ _ => true
  | .tld _ _ => true
  | .tst _ _ => true
  | .mop _ _ _ => true
  | .mops _ _ _ => true
  | .mopM _ _ _ => true
  | .mclr _ => true
  | .accx _ _ _ => true
  | .acci _ _ _ => true
  | .mwait => true
  | .epush _ _ => true
  | .epop _ _ => true
  | .epeek _ _ => true
  | .pclaim _ _ => true
  | .prel _ _ => true
  | .pgive _ _ _ => true
  | .pstat _ _ => true
  | .pmark _ _ _ => true
  | .orbdef _ _ => true
  | .orbin _ _ _ => true
  | .orbgo _ _ => true
  | .orbout _ _ _ => true
  | .orbstat _ _ => true
  | .qnum _ _ => true
  | .qden _ _ => true
  | .qmk _ _ _ _ => true
  | .qmed _ _ _ _ => true
  | .qcf _ _ _ => true
  | .qfloor _ _ => true
  | .ecall => true
  | .ebreak => true
  | .sret => true
  | .uret => true
  | .halt => true
  | .tlbinv _ _ => true
  | .icinv => true
  | .klaunch _ _ _ => true
  | .watchArm => false
  | .watchDisarm => false
  | .vlWrite => false
  | .registerWrite => false
  | .tableWalk => false
  | .pretranslateWindow => false
  | .windowEnterPipeline => false
  | .tlbInvalidateMsg => false
  | .tlbInvalidateAck => false
  | .hbmIssue => false
  | .hbmDataReturn => false
  | .hbmReadRetry => false
  | .rowCloseTimeout => false
  | .requestAgeExpiry => false
  | .hcrateCeilWrite => false
  | .rateLimitChange => false
  | .rateSwitch => false
  | .rateSwitchComplete => false
  | .refreshDue => false
  | .owedRefreshPaid => false
  | .temperatureReport => false
  | .activationAlert => false
  | .bankBlockEnd => false
  | .patrolScrubRead => false
  | .keySlotLoad => false
  | .vectorHeader => false
  | .segmentCompletionBeat => false
  | .lineRequest => false
  | .sliceRequest => false
  | .slicePinRelease => false
  | .cacheFillReturn => false
  | .writeBack => false
  | .registration => false
  | .registrationAck => false
  | .revocation => false
  | .revocationWithWriteBack => false
  | .forwardedRead => false
  | .forwardUnanswered => false
  | .farAtomicAtHome => false
  | .syAccessAtHome => false
  | .watchHit => false
  | .watchHitArrival => false
  | .qlockTicketDraw => false
  | .qunlockIncrement => false
  | .grant => false
  | .pollRead => false
  | .copyStart => false
  | .copyComplete => false
  | .plateReattach => false
  | .vpushDelivery => false
  | .wakeArrival => false
  | .waitTimeout => false
  | .pushTimeout => false
  | .portDown => false
  | .remoteTimeout => false
  | .ualinkRequestIngress => false
  | .ualinkFlitRetry => false
  | .ucieFlitRetry => false
  | .ucieLaneRepair => false
  | .domainConfig => false
  | .hostRead => false
  | .hostWrite => false
  | .hapctlWrite => false
  | .meridianSyncSend => false
  | .meridianSync => false
  | .delayExchange => false
  | .meridianHold => false
  | .queueTailWatchHit => false
  | .queueBackstopScan => false
  | .dependenceWatchHit => false
  | .placementChoice => false
  | .recordCommit => false
  | .launchComplete => false
  | .quiesce => false
  | .endQuiesce => false
  | .endLaunch => false
  | .createContext => false
  | .removeContext => false
  | .switchArm => false
  | .switchArmPark => false
  | .notice => false
  | .cutBegin => false
  | .marker => false
  | .cutComplete => false
  | .contextSaved => false
  | .contextResumed => false
  | .resize => false
  | .trapEntry => false
  | .userInterruptDelivery => false
  | .eventAccept => false
  | .eqheadWrite => false
  | .orbitRound => false
  | .orbitRoundEdge => false
  | .orbitMarker => false
  | .orbitLapEnd => false
  | .orbitComplete => false
  | .coldBoot => false
  | .recoveryFirmwareImage => false
  | .warmResetComputeDie => false
  | .warmResetIoDie => false
  | .trustDieWarmReset => false
  | .dieLost => false
  | .dieLostAck => false
  | .verifyObject => false
  | .retireObject => false
  | .loadContextKey => false
  | .clearContextKey => false
  | .ownerKeyInstall => false
  | .ownerKeyClear => false
  | .getMeasurements => false
  | .spareStatus => false
  | .mbcmdWhileBusy => false
  | .spdmGetVersion => false
  | .spdmGetCapabilities => false
  | .spdmNegotiateAlgorithms => false
  | .spdmGetDigests => false
  | .spdmGetCertificate => false
  | .spdmChallenge => false
  | .spdmGetMeasurements => false
  | .spdmKeyExchange => false
  | .spdmFinish => false
  | .spdmHeartbeat => false
  | .spdmKeyUpdate => false
  | .spdmEndSession => false
  | .spdmChunkSend => false
  | .spdmChunkGet => false
  | .spdmUnsupportedRequest => false
  | .windowAccessArrival => false
  | .rlcAcquireInvalidation => false
  | .acquireAcknowledgement => false
  | .klaunchPoll => false
  | .vectorSliceEnd => false
  | .matrixOperationEnd => false
  | .timeMasterNamed => false
  | .mailboxUnknownCommand => false

/-- The word of an instruction, from the formats of R287 and the selectors of R291. A step without an encoding has the word 0,
which is no instruction. -/
def encode (i : Instr) : BitVec 32 :=
  match i with
  | .add d a b => fmtR 0x01#6 d a b 0#11
  | .sub d a b => fmtR 0x01#6 d a b 1#11
  | .and d a b => fmtR 0x01#6 d a b 2#11
  | .or d a b => fmtR 0x01#6 d a b 3#11
  | .xor d a b => fmtR 0x01#6 d a b 4#11
  | .andn d a b => fmtR 0x01#6 d a b 5#11
  | .sll d a b => fmtR 0x01#6 d a b 6#11
  | .srl d a b => fmtR 0x01#6 d a b 7#11
  | .sra d a b => fmtR 0x01#6 d a b 8#11
  | .rol d a b => fmtR 0x01#6 d a b 9#11
  | .slt d a b => fmtR 0x01#6 d a b 10#11
  | .sltu d a b => fmtR 0x01#6 d a b 11#11
  | .min d a b => fmtR 0x01#6 d a b 12#11
  | .max d a b => fmtR 0x01#6 d a b 13#11
  | .minu d a b => fmtR 0x01#6 d a b 14#11
  | .maxu d a b => fmtR 0x01#6 d a b 15#11
  | .clz d a => fmtR 0x01#6 d a 0#5 16#11
  | .ctz d a => fmtR 0x01#6 d a 0#5 17#11
  | .popc d a => fmtR 0x01#6 d a 0#5 18#11
  | .addi d a i => fmtI 0x02#6 d a i
  | .andi d a i => fmtI 0x03#6 d a i
  | .ori d a i => fmtI 0x04#6 d a i
  | .xori d a i => fmtI 0x05#6 d a i
  | .slli d a n => fmtShift 0x06#6 d a 0#8 0#2 n
  | .srli d a n => fmtShift 0x06#6 d a 0#8 1#2 n
  | .srai d a n => fmtShift 0x06#6 d a 0#8 2#2 n
  | .slti d a i => fmtI 0x07#6 d a i
  | .sltiu d a i => fmtI 0x08#6 d a i
  | .lih d i => fmtU 0x09#6 d i
  | .pcrel d i => fmtU 0x0A#6 d i
  | .ldB d a o => fmtM 0x0B#6 d a 0#3 o
  | .ldBu d a o => fmtM 0x0B#6 d a 1#3 o
  | .ldH d a o => fmtM 0x0B#6 d a 2#3 o
  | .ldHu d a o => fmtM 0x0B#6 d a 3#3 o
  | .ldW d a o => fmtM 0x0B#6 d a 4#3 o
  | .ldWu d a o => fmtM 0x0B#6 d a 5#3 o
  | .ldD d a o => fmtM 0x0B#6 d a 6#3 o
  | .stB d a o => fmtM 0x0C#6 d a 0#3 o
  | .stH d a o => fmtM 0x0C#6 d a 2#3 o
  | .stW d a o => fmtM 0x0C#6 d a 4#3 o
  | .stD d a o => fmtM 0x0C#6 d a 6#3 o
  | .ldaW d a s o => fmtScoped 0x0D#6 d a 4#3 s o
  | .ldaD d a s o => fmtScoped 0x0D#6 d a 6#3 s o
  | .stlW d a s o => fmtScoped 0x0E#6 d a 4#3 s o
  | .stlD d a s o => fmtScoped 0x0E#6 d a 6#3 s o
  | .fldH d a o => fmtM 0x0F#6 d a 2#3 o
  | .fldW d a o => fmtM 0x0F#6 d a 4#3 o
  | .fldD d a o => fmtM 0x0F#6 d a 6#3 o
  | .fstH d a o => fmtM 0x10#6 d a 2#3 o
  | .fstW d a o => fmtM 0x10#6 d a 4#3 o
  | .fstD d a o => fmtM 0x10#6 d a 6#3 o
  | .beq a b o => fmtI 0x11#6 a b o
  | .bne a b o => fmtI 0x12#6 a b o
  | .blt a b o => fmtI 0x13#6 a b o
  | .bge a b o => fmtI 0x14#6 a b o
  | .bltu a b o => fmtI 0x15#6 a b o
  | .bgeu a b o => fmtI 0x16#6 a b o
  | .bpAny a o => fmtI 0x17#6 a 0#5 o
  | .bpNone a o => fmtI 0x17#6 a 1#5 o
  | .bpAll a o => fmtI 0x17#6 a 2#5 o
  | .bpFirst a o => fmtI 0x17#6 a 3#5 o
  | .jal d o => fmtU 0x18#6 d o
  | .jalr d a i => fmtI 0x19#6 d a i
  | .mul d a b => fmtR 0x1B#6 d a b 0#11
  | .mulh d a b => fmtR 0x1B#6 d a b 1#11
  | .mulhu d a b => fmtR 0x1B#6 d a b 2#11
  | .mulhsu d a b => fmtR 0x1B#6 d a b 3#11
  | .div d a b => fmtR 0x1B#6 d a b 4#11
  | .divu d a b => fmtR 0x1B#6 d a b 5#11
  | .rem d a b => fmtR 0x1B#6 d a b 6#11
  | .remu d a b => fmtR 0x1B#6 d a b 7#11
  | .fadd d a b p r => fmtFloat 0x1C#6 d a b 0#5 p r 0#2
  | .fsub d a b p r => fmtFloat 0x1C#6 d a b 1#5 p r 0#2
  | .fmul d a b p r => fmtFloat 0x1C#6 d a b 2#5 p r 0#2
  | .fdiv d a b p r => fmtFloat 0x1C#6 d a b 3#5 p r 0#2
  | .fsqrt d a p r => fmtFloat 0x1C#6 d a 0#5 4#5 p r 0#2
  | .fmin d a b p => fmtFloat 0x1C#6 d a b 5#5 p 0#3 0#2
  | .fmax d a b p => fmtFloat 0x1C#6 d a b 6#5 p 0#3 0#2
  | .fsgnC d a b p => fmtFloat 0x1C#6 d a b 7#5 p 0#3 0#2
  | .fsgnN d a b p => fmtFloat 0x1C#6 d a b 8#5 p 0#3 0#2
  | .fsgnX d a b p => fmtFloat 0x1C#6 d a b 9#5 p 0#3 0#2
  | .feq d a b p => fmtFloat 0x1C#6 d a b 10#5 p 0#3 0#2
  | .flt d a b p => fmtFloat 0x1C#6 d a b 11#5 p 0#3 0#2
  | .fle d a b p => fmtFloat 0x1C#6 d a b 12#5 p 0#3 0#2
  | .fclass d a p => fmtFloat 0x1C#6 d a 0#5 13#5 p 0#3 0#2
  | .fcvtFX d a p r => fmtFloat 0x1C#6 d a 0#5 14#5 p r 0#2
  | .fcvtFXu d a p r => fmtFloat 0x1C#6 d a 0#5 15#5 p r 0#2
  | .fcvtXF d a p r => fmtFloat 0x1C#6 d a 0#5 16#5 p r 0#2
  | .fcvtXuF d a p r => fmtFloat 0x1C#6 d a 0#5 17#5 p r 0#2
  | .fcvtFF d a w p r => fmtFloat 0x1C#6 d a (0#4 ++ w) 18#5 p r 0#2
  | .fmvXF d a p => fmtFloat 0x1C#6 d a 0#5 19#5 p 0#3 0#2
  | .fmvFX d a p => fmtFloat 0x1C#6 d a 0#5 20#5 p 0#3 0#2
  | .fma d a b p r c => fmtFused 0x1D#6 d a b 0#2 p r c
  | .fms d a b p r c => fmtFused 0x1D#6 d a b 1#2 p r c
  | .fnma d a b p r c => fmtFused 0x1D#6 d a b 2#2 p r c
  | .fnms d a b p r c => fmtFused 0x1D#6 d a b 3#2 p r c
  | .aadd d a b s w => fmtAtomic 0x1E#6 d a b 0#4 s w 0#4
  | .aand d a b s w => fmtAtomic 0x1E#6 d a b 1#4 s w 0#4
  | .aor d a b s w => fmtAtomic 0x1E#6 d a b 2#4 s w 0#4
  | .axor d a b s w => fmtAtomic 0x1E#6 d a b 3#4 s w 0#4
  | .amin d a b s w => fmtAtomic 0x1E#6 d a b 4#4 s w 0#4
  | .amax d a b s w => fmtAtomic 0x1E#6 d a b 5#4 s w 0#4
  | .aminu d a b s w => fmtAtomic 0x1E#6 d a b 6#4 s w 0#4
  | .amaxu d a b s w => fmtAtomic 0x1E#6 d a b 7#4 s w 0#4
  | .aswp d a b s w => fmtAtomic 0x1E#6 d a b 8#4 s w 0#4
  | .acas d a b s w => fmtAtomic 0x1E#6 d a b 9#4 s w 0#4
  | .afadd d a b s w => fmtAtomic 0x1E#6 d a b 10#4 s w 0#4
  | .acq s g => fmtSync 0x1F#6 0#5 0#5 0#5 0#5 s g
  | .rel s g => fmtSync 0x1F#6 0#5 0#5 0#5 1#5 s g
  | .fence s g => fmtSync 0x1F#6 0#5 0#5 0#5 2#5 s g
  | .own a s g => fmtSync 0x1F#6 0#5 a 0#5 3#5 s g
  | .disown a s g => fmtSync 0x1F#6 0#5 a 0#5 4#5 s g
  | .qlock d a s g => fmtSync 0x1F#6 d a 0#5 5#5 s g
  | .qunlock a s g => fmtSync 0x1F#6 0#5 a 0#5 6#5 s g
  | .wait d a => fmtSync 0x1F#6 d a 0#5 7#5 0#2 0#4
  | .wake a => fmtSync 0x1F#6 0#5 a 0#5 8#5 0#2 0#4
  | .crr d n => fmtI 0x20#6 d 0#5 n
  | .crw d a n => fmtI 0x21#6 d a n
  | .crs d a n => fmtI 0x22#6 d a n
  | .crc d a n => fmtI 0x23#6 d a n
  | .vcfg d a => fmtR 0x24#6 d a 0#5 0#11
  | .vsetl d a => fmtR 0x24#6 d a 0#5 1#11
  | .vsetrows d a => fmtR 0x24#6 d a 0#5 2#11
  | .vtag d a => fmtR 0x24#6 d a 0#5 3#11
  | .vsave d a => fmtR 0x24#6 d a 0#5 4#11
  | .vrest d a => fmtR 0x24#6 d a 0#5 5#11
  | .vld d a n o => fmtV 0x25#6 d a 0#5 0#8 (0#1 ++ n ++ o)
  | .vst d a n o => fmtV 0x25#6 d a 0#5 1#8 (0#1 ++ n ++ o)
  | .vldx d a b n o => fmtV 0x25#6 d a b 2#8 (0#1 ++ n ++ o)
  | .vstx d a b n o => fmtV 0x25#6 d a b 3#8 (0#1 ++ n ++ o)
  | .vldT d a n o => fmtV 0x25#6 d a 0#5 4#8 (0#1 ++ n ++ o)
  | .vstN d a b n o => fmtV 0x25#6 d a b 5#8 (0#1 ++ n ++ o)
  | .vpush a b => fmtV 0x25#6 0#5 a b 6#8 0#3
  | .vpushT d a b => fmtV 0x25#6 d a b 7#8 0#3
  | .vadd d a b s x => fmtV 0x26#6 d a b 0#8 (0#1 ++ s ++ x)
  | .vsub d a b s x => fmtV 0x26#6 d a b 1#8 (0#1 ++ s ++ x)
  | .vmul d a b s x => fmtV 0x26#6 d a b 2#8 (0#1 ++ s ++ x)
  | .vfma d a b s x => fmtV 0x26#6 d a b 3#8 (0#1 ++ s ++ x)
  | .vfms d a b s x => fmtV 0x26#6 d a b 4#8 (0#1 ++ s ++ x)
  | .vdiv d a b s x => fmtV 0x26#6 d a b 5#8 (0#1 ++ s ++ x)
  | .vsqrt d a s => fmtV 0x26#6 d a 0#5 6#8 (0#1 ++ s ++ 0#1)
  | .vmin d a b s x => fmtV 0x26#6 d a b 7#8 (0#1 ++ s ++ x)
  | .vmax d a b s x => fmtV 0x26#6 d a b 8#8 (0#1 ++ s ++ x)
  | .vabs d a s => fmtV 0x26#6 d a 0#5 9#8 (0#1 ++ s ++ 0#1)
  | .vneg d a s => fmtV 0x26#6 d a 0#5 10#8 (0#1 ++ s ++ 0#1)
  | .vand d a b s x => fmtV 0x26#6 d a b 11#8 (0#1 ++ s ++ x)
  | .vor d a b s x => fmtV 0x26#6 d a b 12#8 (0#1 ++ s ++ x)
  | .vxor d a b s x => fmtV 0x26#6 d a b 13#8 (0#1 ++ s ++ x)
  | .vshl d a b s x => fmtV 0x26#6 d a b 14#8 (0#1 ++ s ++ x)
  | .vshr d a b s x => fmtV 0x26#6 d a b 15#8 (0#1 ++ s ++ x)
  | .vmulh d a b s x => fmtV 0x26#6 d a b 16#8 (0#1 ++ s ++ x)
  | .vsel d a b s x => fmtV 0x26#6 d a b 17#8 (0#1 ++ s ++ x)
  | .vcmpEq d a b x => fmtV 0x27#6 d a b 0#8 (0#2 ++ x)
  | .vcmpNe d a b x => fmtV 0x27#6 d a b 1#8 (0#2 ++ x)
  | .vcmpLt d a b x => fmtV 0x27#6 d a b 2#8 (0#2 ++ x)
  | .vcmpLe d a b x => fmtV 0x27#6 d a b 3#8 (0#2 ++ x)
  | .vcmpGt d a b x => fmtV 0x27#6 d a b 4#8 (0#2 ++ x)
  | .vcmpGe d a b x => fmtV 0x27#6 d a b 5#8 (0#2 ++ x)
  | .vcmpUn d a b x => fmtV 0x27#6 d a b 6#8 (0#2 ++ x)
  | .vrcp d a => fmtV 0x28#6 d a 0#5 0#8 0#3
  | .vrsqrt d a => fmtV 0x28#6 d a 0#5 1#8 0#3
  | .vexp2 d a => fmtV 0x28#6 d a 0#5 2#8 0#3
  | .vlog2 d a => fmtV 0x28#6 d a 0#5 3#8 0#3
  | .vtanh d a => fmtV 0x28#6 d a 0#5 4#8 0#3
  | .vslup d a b l => fmtV 0x29#6 d a b 0#8 l
  | .vsldn d a b l => fmtV 0x29#6 d a b 1#8 l
  | .vperm d a b => fmtV 0x29#6 d a b 2#8 0#3
  | .vcomp d a => fmtV 0x29#6 d a 0#5 3#8 0#3
  | .vbcast d b => fmtV 0x29#6 d 0#5 b 4#8 0#3
  | .vext d a b => fmtV 0x29#6 d a b 5#8 0#3
  | .vins d a b => fmtV 0x29#6 d a b 6#8 0#3
  | .vcvt d a s => fmtV 0x29#6 d a 0#5 7#8 (0#1 ++ s ++ 0#1)
  | .vredSum d a => fmtV 0x2A#6 d a 0#5 0#8 0#3
  | .vredMin d a => fmtV 0x2A#6 d a 0#5 1#8 0#3
  | .vredMax d a => fmtV 0x2A#6 d a 0#5 2#8 0#3
  | .vredAnd d a => fmtV 0x2A#6 d a 0#5 3#8 0#3
  | .vredOr d a => fmtV 0x2A#6 d a 0#5 4#8 0#3
  | .vscanSum d a => fmtV 0x2A#6 d a 0#5 5#8 0#3
  | .vscanMin d a => fmtV 0x2A#6 d a 0#5 6#8 0#3
  | .vscanMax d a => fmtV 0x2A#6 d a 0#5 7#8 0#3
  | .vdot d a b => fmtV 0x2A#6 d a b 8#8 0#3
  | .vbsl d a b => fmtV 0x2B#6 d a b 0#8 0#3
  | .vbsr d a b => fmtV 0x2B#6 d a b 1#8 0#3
  | .vbfun d a b => fmtV 0x2B#6 d a b 2#8 0#3
  | .vbpopc d a => fmtV 0x2B#6 d a 0#5 3#8 0#3
  | .pand d a b => fmtV 0x2C#6 d a b 0#8 0#3
  | .por d a b => fmtV 0x2C#6 d a b 1#8 0#3
  | .pxor d a b => fmtV 0x2C#6 d a b 2#8 0#3
  | .pandn d a b => fmtV 0x2C#6 d a b 3#8 0#3
  | .pnot d a => fmtV 0x2C#6 d a 0#5 4#8 0#3
  | .pset d a => fmtV 0x2C#6 d a 0#5 5#8 0#3
  | .pfirst d a => fmtV 0x2C#6 d a 0#5 6#8 0#3
  | .pcnt d a => fmtV 0x2C#6 d a 0#5 7#8 0#3
  | .pmv d a => fmtV 0x2C#6 d a 0#5 8#8 0#3
  | .tld d a => fmtR 0x2E#6 d a 0#5 0#11
  | .tst d a => fmtR 0x2E#6 d a 0#5 1#11
  | .mop d a b => fmtR 0x2E#6 d a b 2#11
  | .mops d a b => fmtR 0x2E#6 d a b 3#11
  | .mopM d a b => fmtR 0x2E#6 d a b 4#11
  | .mclr d => fmtR 0x2E#6 d 0#5 0#5 5#11
  | .accx d a b => fmtR 0x2E#6 d a b 6#11
  | .acci d a b => fmtR 0x2E#6 d a b 7#11
  | .mwait => fmtR 0x2E#6 0#5 0#5 0#5 8#11
  | .epush d a => fmtR 0x2F#6 d a 0#5 0#11
  | .epop d a => fmtR 0x2F#6 d a 0#5 1#11
  | .epeek d a => fmtR 0x2F#6 d a 0#5 2#11
  | .pclaim d a => fmtR 0x30#6 d a 0#5 0#11
  | .prel d a => fmtR 0x30#6 d a 0#5 1#11
  | .pgive d a b => fmtR 0x30#6 d a b 2#11
  | .pstat d a => fmtR 0x30#6 d a 0#5 3#11
  | .pmark d a b => fmtR 0x30#6 d a b 4#11
  | .orbdef d a => fmtR 0x31#6 d a 0#5 0#11
  | .orbin d a b => fmtR 0x31#6 d a b 1#11
  | .orbgo d a => fmtR 0x31#6 d a 0#5 2#11
  | .orbout d a b => fmtR 0x31#6 d a b 3#11
  | .orbstat d a => fmtR 0x31#6 d a 0#5 4#11
  | .qnum d a => fmtFloat 0x32#6 d a 0#5 0#5 0#1 0#3 0#2
  | .qden d a => fmtFloat 0x32#6 d a 0#5 1#5 0#1 0#3 0#2
  | .qmk d a b r => fmtFloat 0x32#6 d a b 2#5 0#1 r 0#2
  | .qmed d a b r => fmtFloat 0x32#6 d a b 3#5 0#1 r 0#2
  | .qcf d a b => fmtFloat 0x32#6 d a b 4#5 0#1 0#3 0#2
  | .qfloor d a => fmtFloat 0x32#6 d a 0#5 5#5 0#1 0#3 0#2
  | .ecall => fmtR 0x33#6 0#5 0#5 0#5 0#11
  | .ebreak => fmtR 0x33#6 0#5 0#5 0#5 1#11
  | .sret => fmtR 0x33#6 0#5 0#5 0#5 2#11
  | .uret => fmtR 0x33#6 0#5 0#5 0#5 3#11
  | .halt => fmtR 0x33#6 0#5 0#5 0#5 4#11
  | .tlbinv a b => fmtR 0x33#6 0#5 a b 5#11
  | .icinv => fmtR 0x33#6 0#5 0#5 0#5 6#11
  | .klaunch d a b => fmtR 0x33#6 d a b 7#11
  | .watchArm => 0#32
  | .watchDisarm => 0#32
  | .vlWrite => 0#32
  | .registerWrite => 0#32
  | .tableWalk => 0#32
  | .pretranslateWindow => 0#32
  | .windowEnterPipeline => 0#32
  | .tlbInvalidateMsg => 0#32
  | .tlbInvalidateAck => 0#32
  | .hbmIssue => 0#32
  | .hbmDataReturn => 0#32
  | .hbmReadRetry => 0#32
  | .rowCloseTimeout => 0#32
  | .requestAgeExpiry => 0#32
  | .hcrateCeilWrite => 0#32
  | .rateLimitChange => 0#32
  | .rateSwitch => 0#32
  | .rateSwitchComplete => 0#32
  | .refreshDue => 0#32
  | .owedRefreshPaid => 0#32
  | .temperatureReport => 0#32
  | .activationAlert => 0#32
  | .bankBlockEnd => 0#32
  | .patrolScrubRead => 0#32
  | .keySlotLoad => 0#32
  | .vectorHeader => 0#32
  | .segmentCompletionBeat => 0#32
  | .lineRequest => 0#32
  | .sliceRequest => 0#32
  | .slicePinRelease => 0#32
  | .cacheFillReturn => 0#32
  | .writeBack => 0#32
  | .registration => 0#32
  | .registrationAck => 0#32
  | .revocation => 0#32
  | .revocationWithWriteBack => 0#32
  | .forwardedRead => 0#32
  | .forwardUnanswered => 0#32
  | .farAtomicAtHome => 0#32
  | .syAccessAtHome => 0#32
  | .watchHit => 0#32
  | .watchHitArrival => 0#32
  | .qlockTicketDraw => 0#32
  | .qunlockIncrement => 0#32
  | .grant => 0#32
  | .pollRead => 0#32
  | .copyStart => 0#32
  | .copyComplete => 0#32
  | .plateReattach => 0#32
  | .vpushDelivery => 0#32
  | .wakeArrival => 0#32
  | .waitTimeout => 0#32
  | .pushTimeout => 0#32
  | .portDown => 0#32
  | .remoteTimeout => 0#32
  | .ualinkRequestIngress => 0#32
  | .ualinkFlitRetry => 0#32
  | .ucieFlitRetry => 0#32
  | .ucieLaneRepair => 0#32
  | .domainConfig => 0#32
  | .hostRead => 0#32
  | .hostWrite => 0#32
  | .hapctlWrite => 0#32
  | .meridianSyncSend => 0#32
  | .meridianSync => 0#32
  | .delayExchange => 0#32
  | .meridianHold => 0#32
  | .queueTailWatchHit => 0#32
  | .queueBackstopScan => 0#32
  | .dependenceWatchHit => 0#32
  | .placementChoice => 0#32
  | .recordCommit => 0#32
  | .launchComplete => 0#32
  | .quiesce => 0#32
  | .endQuiesce => 0#32
  | .endLaunch => 0#32
  | .createContext => 0#32
  | .removeContext => 0#32
  | .switchArm => 0#32
  | .switchArmPark => 0#32
  | .notice => 0#32
  | .cutBegin => 0#32
  | .marker => 0#32
  | .cutComplete => 0#32
  | .contextSaved => 0#32
  | .contextResumed => 0#32
  | .resize => 0#32
  | .trapEntry => 0#32
  | .userInterruptDelivery => 0#32
  | .eventAccept => 0#32
  | .eqheadWrite => 0#32
  | .orbitRound => 0#32
  | .orbitRoundEdge => 0#32
  | .orbitMarker => 0#32
  | .orbitLapEnd => 0#32
  | .orbitComplete => 0#32
  | .coldBoot => 0#32
  | .recoveryFirmwareImage => 0#32
  | .warmResetComputeDie => 0#32
  | .warmResetIoDie => 0#32
  | .trustDieWarmReset => 0#32
  | .dieLost => 0#32
  | .dieLostAck => 0#32
  | .verifyObject => 0#32
  | .retireObject => 0#32
  | .loadContextKey => 0#32
  | .clearContextKey => 0#32
  | .ownerKeyInstall => 0#32
  | .ownerKeyClear => 0#32
  | .getMeasurements => 0#32
  | .spareStatus => 0#32
  | .mbcmdWhileBusy => 0#32
  | .spdmGetVersion => 0#32
  | .spdmGetCapabilities => 0#32
  | .spdmNegotiateAlgorithms => 0#32
  | .spdmGetDigests => 0#32
  | .spdmGetCertificate => 0#32
  | .spdmChallenge => 0#32
  | .spdmGetMeasurements => 0#32
  | .spdmKeyExchange => 0#32
  | .spdmFinish => 0#32
  | .spdmHeartbeat => 0#32
  | .spdmKeyUpdate => 0#32
  | .spdmEndSession => 0#32
  | .spdmChunkSend => 0#32
  | .spdmChunkGet => 0#32
  | .spdmUnsupportedRequest => 0#32
  | .windowAccessArrival => 0#32
  | .rlcAcquireInvalidation => 0#32
  | .acquireAcknowledgement => 0#32
  | .klaunchPoll => 0#32
  | .vectorSliceEnd => 0#32
  | .matrixOperationEnd => 0#32
  | .timeMasterNamed => 0#32
  | .mailboxUnknownCommand => 0#32

/-- The instruction the decoder reads from a table row's bits (bit 0 the least significant of the word, R286): an instruction
is one 32-bit word, so bits above 31 must be 0. -/
def decodeTableWord (nbits w : Nat) : Option Instr :=
  if nbits ≤ 32 ∧ w < 2 ^ 32 then decode (BitVec.ofNat 32 w) else none

/-! ### Words written out from the formats of R287 and the codes of R291, major, fields and selector from bit 31 down, and what they
decode to -/

theorem decode_words_01a :
    decode 0b000001_00101_01010_10011_00000000000#32 = some (.add 5#5 10#5 19#5) ∧
    decode 0b000001_00101_01010_10011_00000000001#32 = some (.sub 5#5 10#5 19#5) ∧
    decode 0b000001_00101_01010_10011_00000000010#32 = some (.and 5#5 10#5 19#5) ∧
    decode 0b000001_00101_01010_10011_00000000011#32 = some (.or 5#5 10#5 19#5) ∧
    decode 0b000001_00101_01010_10011_00000000100#32 = some (.xor 5#5 10#5 19#5) ∧
    decode 0b000001_00101_01010_10011_00000000101#32 = some (.andn 5#5 10#5 19#5) ∧
    decode 0b000001_00101_01010_10011_00000000110#32 = some (.sll 5#5 10#5 19#5) ∧
    decode 0b000001_00101_01010_10011_00000000111#32 = some (.srl 5#5 10#5 19#5) ∧
    decode 0b000001_00101_01010_10011_00000001000#32 = some (.sra 5#5 10#5 19#5) ∧
    decode 0b000001_00101_01010_10011_00000001001#32 = some (.rol 5#5 10#5 19#5) ∧
    decode 0b000001_00101_01010_10011_00000001010#32 = some (.slt 5#5 10#5 19#5) ∧
    decode 0b000001_00101_01010_10011_00000001011#32 = some (.sltu 5#5 10#5 19#5) := by decide

theorem decode_words_01b :
    decode 0b000001_00101_01010_10011_00000001100#32 = some (.min 5#5 10#5 19#5) ∧
    decode 0b000001_00101_01010_10011_00000001101#32 = some (.max 5#5 10#5 19#5) ∧
    decode 0b000001_00101_01010_10011_00000001110#32 = some (.minu 5#5 10#5 19#5) ∧
    decode 0b000001_00101_01010_10011_00000001111#32 = some (.maxu 5#5 10#5 19#5) ∧
    decode 0b000001_00101_01010_0000000000010000#32 = some (.clz 5#5 10#5) ∧
    decode 0b000001_00101_01010_0000000000010001#32 = some (.ctz 5#5 10#5) ∧
    decode 0b000001_00101_01010_0000000000010010#32 = some (.popc 5#5 10#5) := by decide

theorem decode_words_02 :
    decode 0b000010_00101_01010_1101101001011010#32 = some (.addi 5#5 10#5 55898#16) := by decide

theorem decode_words_03 :
    decode 0b000011_00101_01010_1101101001011010#32 = some (.andi 5#5 10#5 55898#16) := by decide

theorem decode_words_04 :
    decode 0b000100_00101_01010_1101101001011010#32 = some (.ori 5#5 10#5 55898#16) := by decide

theorem decode_words_05 :
    decode 0b000101_00101_01010_1101101001011010#32 = some (.xori 5#5 10#5 55898#16) := by decide

theorem decode_words_06 :
    decode 0b000110_00101_01010_0000000000_010011#32 = some (.slli 5#5 10#5 19#6) ∧
    decode 0b000110_00101_01010_0000000001_010011#32 = some (.srli 5#5 10#5 19#6) ∧
    decode 0b000110_00101_01010_0000000010_010011#32 = some (.srai 5#5 10#5 19#6) := by decide

theorem decode_words_07 :
    decode 0b000111_00101_01010_1101101001011010#32 = some (.slti 5#5 10#5 55898#16) := by decide

theorem decode_words_08 :
    decode 0b001000_00101_01010_1101101001011010#32 = some (.sltiu 5#5 10#5 55898#16) := by decide

theorem decode_words_09 :
    decode 0b001001_00101_110100101101001011010#32 = some (.lih 5#5 1727066#21) := by decide

theorem decode_words_0A :
    decode 0b001010_00101_110100101101001011010#32 = some (.pcrel 5#5 1727066#21) := by decide

theorem decode_words_0B :
    decode 0b001011_00101_01010_000_1101001011010#32 = some (.ldB 5#5 10#5 6746#13) ∧
    decode 0b001011_00101_01010_001_1101001011010#32 = some (.ldBu 5#5 10#5 6746#13) ∧
    decode 0b001011_00101_01010_010_1101001011010#32 = some (.ldH 5#5 10#5 6746#13) ∧
    decode 0b001011_00101_01010_011_1101001011010#32 = some (.ldHu 5#5 10#5 6746#13) ∧
    decode 0b001011_00101_01010_100_1101001011010#32 = some (.ldW 5#5 10#5 6746#13) ∧
    decode 0b001011_00101_01010_101_1101001011010#32 = some (.ldWu 5#5 10#5 6746#13) ∧
    decode 0b001011_00101_01010_110_1101001011010#32 = some (.ldD 5#5 10#5 6746#13) := by decide

theorem decode_words_0C :
    decode 0b001100_00101_01010_000_1101001011010#32 = some (.stB 5#5 10#5 6746#13) ∧
    decode 0b001100_00101_01010_010_1101001011010#32 = some (.stH 5#5 10#5 6746#13) ∧
    decode 0b001100_00101_01010_100_1101001011010#32 = some (.stW 5#5 10#5 6746#13) ∧
    decode 0b001100_00101_01010_110_1101001011010#32 = some (.stD 5#5 10#5 6746#13) := by decide

theorem decode_words_0D :
    decode 0b001101_00101_01010_100_11_11001011010#32 = some (.ldaW 5#5 10#5 3#2 1626#11) ∧
    decode 0b001101_00101_01010_110_11_11001011010#32 = some (.ldaD 5#5 10#5 3#2 1626#11) := by decide

theorem decode_words_0E :
    decode 0b001110_00101_01010_100_11_11001011010#32 = some (.stlW 5#5 10#5 3#2 1626#11) ∧
    decode 0b001110_00101_01010_110_11_11001011010#32 = some (.stlD 5#5 10#5 3#2 1626#11) := by decide

theorem decode_words_0F :
    decode 0b001111_00101_01010_010_1101001011010#32 = some (.fldH 5#5 10#5 6746#13) ∧
    decode 0b001111_00101_01010_100_1101001011010#32 = some (.fldW 5#5 10#5 6746#13) ∧
    decode 0b001111_00101_01010_110_1101001011010#32 = some (.fldD 5#5 10#5 6746#13) := by decide

theorem decode_words_10 :
    decode 0b010000_00101_01010_010_1101001011010#32 = some (.fstH 5#5 10#5 6746#13) ∧
    decode 0b010000_00101_01010_100_1101001011010#32 = some (.fstW 5#5 10#5 6746#13) ∧
    decode 0b010000_00101_01010_110_1101001011010#32 = some (.fstD 5#5 10#5 6746#13) := by decide

theorem decode_words_11 :
    decode 0b010001_00101_01010_1101101001011010#32 = some (.beq 5#5 10#5 55898#16) := by decide

theorem decode_words_12 :
    decode 0b010010_00101_01010_1101101001011010#32 = some (.bne 5#5 10#5 55898#16) := by decide

theorem decode_words_13 :
    decode 0b010011_00101_01010_1101101001011010#32 = some (.blt 5#5 10#5 55898#16) := by decide

theorem decode_words_14 :
    decode 0b010100_00101_01010_1101101001011010#32 = some (.bge 5#5 10#5 55898#16) := by decide

theorem decode_words_15 :
    decode 0b010101_00101_01010_1101101001011010#32 = some (.bltu 5#5 10#5 55898#16) := by decide

theorem decode_words_16 :
    decode 0b010110_00101_01010_1101101001011010#32 = some (.bgeu 5#5 10#5 55898#16) := by decide

theorem decode_words_17 :
    decode 0b010111_00101_00000_1101101001011010#32 = some (.bpAny 5#5 55898#16) ∧
    decode 0b010111_00101_00001_1101101001011010#32 = some (.bpNone 5#5 55898#16) ∧
    decode 0b010111_00101_00010_1101101001011010#32 = some (.bpAll 5#5 55898#16) ∧
    decode 0b010111_00101_00011_1101101001011010#32 = some (.bpFirst 5#5 55898#16) := by decide

theorem decode_words_18 :
    decode 0b011000_00101_110100101101001011010#32 = some (.jal 5#5 1727066#21) := by decide

theorem decode_words_19 :
    decode 0b011001_00101_01010_1101101001011010#32 = some (.jalr 5#5 10#5 55898#16) := by decide

theorem decode_words_1B :
    decode 0b011011_00101_01010_10011_00000000000#32 = some (.mul 5#5 10#5 19#5) ∧
    decode 0b011011_00101_01010_10011_00000000001#32 = some (.mulh 5#5 10#5 19#5) ∧
    decode 0b011011_00101_01010_10011_00000000010#32 = some (.mulhu 5#5 10#5 19#5) ∧
    decode 0b011011_00101_01010_10011_00000000011#32 = some (.mulhsu 5#5 10#5 19#5) ∧
    decode 0b011011_00101_01010_10011_00000000100#32 = some (.div 5#5 10#5 19#5) ∧
    decode 0b011011_00101_01010_10011_00000000101#32 = some (.divu 5#5 10#5 19#5) ∧
    decode 0b011011_00101_01010_10011_00000000110#32 = some (.rem 5#5 10#5 19#5) ∧
    decode 0b011011_00101_01010_10011_00000000111#32 = some (.remu 5#5 10#5 19#5) := by decide

theorem decode_words_1Ca :
    decode 0b011100_00101_01010_10011_00000_1_001_00#32 = some (.fadd 5#5 10#5 19#5 1#1 1#3) ∧
    decode 0b011100_00101_01010_10011_00001_1_001_00#32 = some (.fsub 5#5 10#5 19#5 1#1 1#3) ∧
    decode 0b011100_00101_01010_10011_00010_1_001_00#32 = some (.fmul 5#5 10#5 19#5 1#1 1#3) ∧
    decode 0b011100_00101_01010_10011_00011_1_001_00#32 = some (.fdiv 5#5 10#5 19#5 1#1 1#3) ∧
    decode 0b011100_00101_01010_0000000100_1_001_00#32 = some (.fsqrt 5#5 10#5 1#1 1#3) ∧
    decode 0b011100_00101_01010_10011_00101_1_00000#32 = some (.fmin 5#5 10#5 19#5 1#1) ∧
    decode 0b011100_00101_01010_10011_00110_1_00000#32 = some (.fmax 5#5 10#5 19#5 1#1) ∧
    decode 0b011100_00101_01010_10011_00111_1_00000#32 = some (.fsgnC 5#5 10#5 19#5 1#1) ∧
    decode 0b011100_00101_01010_10011_01000_1_00000#32 = some (.fsgnN 5#5 10#5 19#5 1#1) ∧
    decode 0b011100_00101_01010_10011_01001_1_00000#32 = some (.fsgnX 5#5 10#5 19#5 1#1) ∧
    decode 0b011100_00101_01010_10011_01010_1_00000#32 = some (.feq 5#5 10#5 19#5 1#1) ∧
    decode 0b011100_00101_01010_10011_01011_1_00000#32 = some (.flt 5#5 10#5 19#5 1#1) := by decide

theorem decode_words_1Cb :
    decode 0b011100_00101_01010_10011_01100_1_00000#32 = some (.fle 5#5 10#5 19#5 1#1) ∧
    decode 0b011100_00101_01010_0000001101_1_00000#32 = some (.fclass 5#5 10#5 1#1) ∧
    decode 0b011100_00101_01010_0000001110_1_001_00#32 = some (.fcvtFX 5#5 10#5 1#1 1#3) ∧
    decode 0b011100_00101_01010_0000001111_1_001_00#32 = some (.fcvtFXu 5#5 10#5 1#1 1#3) ∧
    decode 0b011100_00101_01010_0000010000_1_001_00#32 = some (.fcvtXF 5#5 10#5 1#1 1#3) ∧
    decode 0b011100_00101_01010_0000010001_1_001_00#32 = some (.fcvtXuF 5#5 10#5 1#1 1#3) ∧
    decode 0b011100_00101_01010_0000_1_10010_1_001_00#32 = some (.fcvtFF 5#5 10#5 1#1 1#1 1#3) ∧
    decode 0b011100_00101_01010_0000010011_1_00000#32 = some (.fmvXF 5#5 10#5 1#1) ∧
    decode 0b011100_00101_01010_0000010100_1_00000#32 = some (.fmvFX 5#5 10#5 1#1) := by decide

theorem decode_words_1D :
    decode 0b011101_00101_01010_10011_00_1_001_01011#32 = some (.fma 5#5 10#5 19#5 1#1 1#3 11#5) ∧
    decode 0b011101_00101_01010_10011_01_1_001_01011#32 = some (.fms 5#5 10#5 19#5 1#1 1#3 11#5) ∧
    decode 0b011101_00101_01010_10011_10_1_001_01011#32 = some (.fnma 5#5 10#5 19#5 1#1 1#3 11#5) ∧
    decode 0b011101_00101_01010_10011_11_1_001_01011#32 = some (.fnms 5#5 10#5 19#5 1#1 1#3 11#5) := by decide

theorem decode_words_1E :
    decode 0b011110_00101_01010_10011_0000_01_1_0000#32 = some (.aadd 5#5 10#5 19#5 1#2 1#1) ∧
    decode 0b011110_00101_01010_10011_0001_01_1_0000#32 = some (.aand 5#5 10#5 19#5 1#2 1#1) ∧
    decode 0b011110_00101_01010_10011_0010_01_1_0000#32 = some (.aor 5#5 10#5 19#5 1#2 1#1) ∧
    decode 0b011110_00101_01010_10011_0011_01_1_0000#32 = some (.axor 5#5 10#5 19#5 1#2 1#1) ∧
    decode 0b011110_00101_01010_10011_0100_01_1_0000#32 = some (.amin 5#5 10#5 19#5 1#2 1#1) ∧
    decode 0b011110_00101_01010_10011_0101_01_1_0000#32 = some (.amax 5#5 10#5 19#5 1#2 1#1) ∧
    decode 0b011110_00101_01010_10011_0110_01_1_0000#32 = some (.aminu 5#5 10#5 19#5 1#2 1#1) ∧
    decode 0b011110_00101_01010_10011_0111_01_1_0000#32 = some (.amaxu 5#5 10#5 19#5 1#2 1#1) ∧
    decode 0b011110_00101_01010_10011_1000_01_1_0000#32 = some (.aswp 5#5 10#5 19#5 1#2 1#1) ∧
    decode 0b011110_00101_01010_10011_1001_01_1_0000#32 = some (.acas 5#5 10#5 19#5 1#2 1#1) ∧
    decode 0b011110_00101_01010_10011_1010_01_1_0000#32 = some (.afadd 5#5 10#5 19#5 1#2 1#1) := by decide

theorem decode_words_1F :
    decode 0b011111_00000000000000000000_01_1010#32 = some (.acq 1#2 10#4) ∧
    decode 0b011111_00000000000000000001_01_1010#32 = some (.rel 1#2 10#4) ∧
    decode 0b011111_00000000000000000010_01_1010#32 = some (.fence 1#2 10#4) ∧
    decode 0b011111_00000_00101_0000000011_10_0011#32 = some (.own 5#5 2#2 3#4) ∧
    decode 0b011111_00000_00101_0000000100_10_0011#32 = some (.disown 5#5 2#2 3#4) ∧
    decode 0b011111_00101_01010_0000000101_11_0001#32 = some (.qlock 5#5 10#5 3#2 1#4) ∧
    decode 0b011111_00000_00101_0000000110_10_0011#32 = some (.qunlock 5#5 2#2 3#4) ∧
    decode 0b011111_00101_01010_0000000111000000#32 = some (.wait 5#5 10#5) ∧
    decode 0b011111_00000_00101_0000001000000000#32 = some (.wake 5#5) := by decide

theorem decode_words_20 :
    decode 0b100000_00101_00000_1101101001011010#32 = some (.crr 5#5 55898#16) := by decide

theorem decode_words_21 :
    decode 0b100001_00101_01010_1101101001011010#32 = some (.crw 5#5 10#5 55898#16) := by decide

theorem decode_words_22 :
    decode 0b100010_00101_01010_1101101001011010#32 = some (.crs 5#5 10#5 55898#16) := by decide

theorem decode_words_23 :
    decode 0b100011_00101_01010_1101101001011010#32 = some (.crc 5#5 10#5 55898#16) := by decide

theorem decode_words_24 :
    decode 0b100100_00101_01010_0000000000000000#32 = some (.vcfg 5#5 10#5) ∧
    decode 0b100100_00101_01010_0000000000000001#32 = some (.vsetl 5#5 10#5) ∧
    decode 0b100100_00101_01010_0000000000000010#32 = some (.vsetrows 5#5 10#5) ∧
    decode 0b100100_00101_01010_0000000000000011#32 = some (.vtag 5#5 10#5) ∧
    decode 0b100100_00101_01010_0000000000000100#32 = some (.vsave 5#5 10#5) ∧
    decode 0b100100_00101_01010_0000000000000101#32 = some (.vrest 5#5 10#5) := by decide

theorem decode_words_25 :
    decode 0b100101_00101_01010_00000000000000_1_1#32 = some (.vld 5#5 10#5 1#1 1#1) ∧
    decode 0b100101_00101_01010_00000000000010_1_1#32 = some (.vst 5#5 10#5 1#1 1#1) ∧
    decode 0b100101_00101_01010_10011_000000100_1_1#32 = some (.vldx 5#5 10#5 19#5 1#1 1#1) ∧
    decode 0b100101_00101_01010_10011_000000110_1_1#32 = some (.vstx 5#5 10#5 19#5 1#1 1#1) ∧
    decode 0b100101_00101_01010_00000000001000_1_1#32 = some (.vldT 5#5 10#5 1#1 1#1) ∧
    decode 0b100101_00101_01010_10011_000001010_1_1#32 = some (.vstN 5#5 10#5 19#5 1#1 1#1) ∧
    decode 0b100101_00000_00101_01010_00000110000#32 = some (.vpush 5#5 10#5) ∧
    decode 0b100101_00101_01010_10011_00000111000#32 = some (.vpushT 5#5 10#5 19#5) := by decide

theorem decode_words_26a :
    decode 0b100110_00101_01010_10011_000000000_1_1#32 = some (.vadd 5#5 10#5 19#5 1#1 1#1) ∧
    decode 0b100110_00101_01010_10011_000000010_1_1#32 = some (.vsub 5#5 10#5 19#5 1#1 1#1) ∧
    decode 0b100110_00101_01010_10011_000000100_1_1#32 = some (.vmul 5#5 10#5 19#5 1#1 1#1) ∧
    decode 0b100110_00101_01010_10011_000000110_1_1#32 = some (.vfma 5#5 10#5 19#5 1#1 1#1) ∧
    decode 0b100110_00101_01010_10011_000001000_1_1#32 = some (.vfms 5#5 10#5 19#5 1#1 1#1) ∧
    decode 0b100110_00101_01010_10011_000001010_1_1#32 = some (.vdiv 5#5 10#5 19#5 1#1 1#1) ∧
    decode 0b100110_00101_01010_00000000001100_1_0#32 = some (.vsqrt 5#5 10#5 1#1) ∧
    decode 0b100110_00101_01010_10011_000001110_1_1#32 = some (.vmin 5#5 10#5 19#5 1#1 1#1) ∧
    decode 0b100110_00101_01010_10011_000010000_1_1#32 = some (.vmax 5#5 10#5 19#5 1#1 1#1) ∧
    decode 0b100110_00101_01010_00000000010010_1_0#32 = some (.vabs 5#5 10#5 1#1) ∧
    decode 0b100110_00101_01010_00000000010100_1_0#32 = some (.vneg 5#5 10#5 1#1) ∧
    decode 0b100110_00101_01010_10011_000010110_1_1#32 = some (.vand 5#5 10#5 19#5 1#1 1#1) := by decide

theorem decode_words_26b :
    decode 0b100110_00101_01010_10011_000011000_1_1#32 = some (.vor 5#5 10#5 19#5 1#1 1#1) ∧
    decode 0b100110_00101_01010_10011_000011010_1_1#32 = some (.vxor 5#5 10#5 19#5 1#1 1#1) ∧
    decode 0b100110_00101_01010_10011_000011100_1_1#32 = some (.vshl 5#5 10#5 19#5 1#1 1#1) ∧
    decode 0b100110_00101_01010_10011_000011110_1_1#32 = some (.vshr 5#5 10#5 19#5 1#1 1#1) ∧
    decode 0b100110_00101_01010_10011_000100000_1_1#32 = some (.vmulh 5#5 10#5 19#5 1#1 1#1) ∧
    decode 0b100110_00101_01010_10011_000100010_1_1#32 = some (.vsel 5#5 10#5 19#5 1#1 1#1) := by decide

theorem decode_words_27 :
    decode 0b100111_00101_01010_10011_0000000000_1#32 = some (.vcmpEq 5#5 10#5 19#5 1#1) ∧
    decode 0b100111_00101_01010_10011_0000000100_1#32 = some (.vcmpNe 5#5 10#5 19#5 1#1) ∧
    decode 0b100111_00101_01010_10011_0000001000_1#32 = some (.vcmpLt 5#5 10#5 19#5 1#1) ∧
    decode 0b100111_00101_01010_10011_0000001100_1#32 = some (.vcmpLe 5#5 10#5 19#5 1#1) ∧
    decode 0b100111_00101_01010_10011_0000010000_1#32 = some (.vcmpGt 5#5 10#5 19#5 1#1) ∧
    decode 0b100111_00101_01010_10011_0000010100_1#32 = some (.vcmpGe 5#5 10#5 19#5 1#1) ∧
    decode 0b100111_00101_01010_10011_0000011000_1#32 = some (.vcmpUn 5#5 10#5 19#5 1#1) := by decide

theorem decode_words_28 :
    decode 0b101000_00101_01010_0000000000000000#32 = some (.vrcp 5#5 10#5) ∧
    decode 0b101000_00101_01010_0000000000001000#32 = some (.vrsqrt 5#5 10#5) ∧
    decode 0b101000_00101_01010_0000000000010000#32 = some (.vexp2 5#5 10#5) ∧
    decode 0b101000_00101_01010_0000000000011000#32 = some (.vlog2 5#5 10#5) ∧
    decode 0b101000_00101_01010_0000000000100000#32 = some (.vtanh 5#5 10#5) := by decide

theorem decode_words_29 :
    decode 0b101001_00101_01010_10011_00000000_011#32 = some (.vslup 5#5 10#5 19#5 3#3) ∧
    decode 0b101001_00101_01010_10011_00000001_011#32 = some (.vsldn 5#5 10#5 19#5 3#3) ∧
    decode 0b101001_00101_01010_10011_00000010000#32 = some (.vperm 5#5 10#5 19#5) ∧
    decode 0b101001_00101_01010_0000000000011000#32 = some (.vcomp 5#5 10#5) ∧
    decode 0b101001_00101_00000_01010_00000100000#32 = some (.vbcast 5#5 10#5) ∧
    decode 0b101001_00101_01010_10011_00000101000#32 = some (.vext 5#5 10#5 19#5) ∧
    decode 0b101001_00101_01010_10011_00000110000#32 = some (.vins 5#5 10#5 19#5) ∧
    decode 0b101001_00101_01010_00000000001110_1_0#32 = some (.vcvt 5#5 10#5 1#1) := by decide

theorem decode_words_2A :
    decode 0b101010_00101_01010_0000000000000000#32 = some (.vredSum 5#5 10#5) ∧
    decode 0b101010_00101_01010_0000000000001000#32 = some (.vredMin 5#5 10#5) ∧
    decode 0b101010_00101_01010_0000000000010000#32 = some (.vredMax 5#5 10#5) ∧
    decode 0b101010_00101_01010_0000000000011000#32 = some (.vredAnd 5#5 10#5) ∧
    decode 0b101010_00101_01010_0000000000100000#32 = some (.vredOr 5#5 10#5) ∧
    decode 0b101010_00101_01010_0000000000101000#32 = some (.vscanSum 5#5 10#5) ∧
    decode 0b101010_00101_01010_0000000000110000#32 = some (.vscanMin 5#5 10#5) ∧
    decode 0b101010_00101_01010_0000000000111000#32 = some (.vscanMax 5#5 10#5) ∧
    decode 0b101010_00101_01010_10011_00001000000#32 = some (.vdot 5#5 10#5 19#5) := by decide

theorem decode_words_2B :
    decode 0b101011_00101_01010_10011_00000000000#32 = some (.vbsl 5#5 10#5 19#5) ∧
    decode 0b101011_00101_01010_10011_00000001000#32 = some (.vbsr 5#5 10#5 19#5) ∧
    decode 0b101011_00101_01010_10011_00000010000#32 = some (.vbfun 5#5 10#5 19#5) ∧
    decode 0b101011_00101_01010_0000000000011000#32 = some (.vbpopc 5#5 10#5) := by decide

theorem decode_words_2C :
    decode 0b101100_00101_01010_10011_00000000000#32 = some (.pand 5#5 10#5 19#5) ∧
    decode 0b101100_00101_01010_10011_00000001000#32 = some (.por 5#5 10#5 19#5) ∧
    decode 0b101100_00101_01010_10011_00000010000#32 = some (.pxor 5#5 10#5 19#5) ∧
    decode 0b101100_00101_01010_10011_00000011000#32 = some (.pandn 5#5 10#5 19#5) ∧
    decode 0b101100_00101_01010_0000000000100000#32 = some (.pnot 5#5 10#5) ∧
    decode 0b101100_00101_01010_0000000000101000#32 = some (.pset 5#5 10#5) ∧
    decode 0b101100_00101_01010_0000000000110000#32 = some (.pfirst 5#5 10#5) ∧
    decode 0b101100_00101_01010_0000000000111000#32 = some (.pcnt 5#5 10#5) ∧
    decode 0b101100_00101_01010_0000000001000000#32 = some (.pmv 5#5 10#5) := by decide

theorem decode_words_2E :
    decode 0b101110_00101_01001_0000000000000000#32 = some (.tld 5#5 9#5) ∧
    decode 0b101110_00101_01001_0000000000000001#32 = some (.tst 5#5 9#5) ∧
    decode 0b101110_00010_00101_00110_00000000010#32 = some (.mop 2#5 5#5 6#5) ∧
    decode 0b101110_00010_00101_00110_00000000011#32 = some (.mops 2#5 5#5 6#5) ∧
    decode 0b101110_00010_00101_00110_00000000100#32 = some (.mopM 2#5 5#5 6#5) ∧
    decode 0b101110_00010_000000000000000000101#32 = some (.mclr 2#5) ∧
    decode 0b101110_00111_00011_01001_00000000110#32 = some (.accx 7#5 3#5 9#5) ∧
    decode 0b101110_00011_00111_01001_00000000111#32 = some (.acci 3#5 7#5 9#5) ∧
    decode 0b101110_00000000000000000000001000#32 = some .mwait := by decide

theorem decode_words_2F :
    decode 0b101111_00001_01001_0000000000000000#32 = some (.epush 1#5 9#5) ∧
    decode 0b101111_01001_00001_0000000000000001#32 = some (.epop 9#5 1#5) ∧
    decode 0b101111_01001_00001_0000000000000010#32 = some (.epeek 9#5 1#5) := by decide

theorem decode_words_30 :
    decode 0b110000_00101_01010_0000000000000000#32 = some (.pclaim 5#5 10#5) ∧
    decode 0b110000_00101_01010_0000000000000001#32 = some (.prel 5#5 10#5) ∧
    decode 0b110000_00101_01010_10011_00000000010#32 = some (.pgive 5#5 10#5 19#5) ∧
    decode 0b110000_00101_01010_0000000000000011#32 = some (.pstat 5#5 10#5) ∧
    decode 0b110000_00101_01010_10011_00000000100#32 = some (.pmark 5#5 10#5 19#5) := by decide

theorem decode_words_31 :
    decode 0b110001_00101_01010_0000000000000000#32 = some (.orbdef 5#5 10#5) ∧
    decode 0b110001_00101_01010_10011_00000000001#32 = some (.orbin 5#5 10#5 19#5) ∧
    decode 0b110001_00101_01010_0000000000000010#32 = some (.orbgo 5#5 10#5) ∧
    decode 0b110001_00101_01010_10011_00000000011#32 = some (.orbout 5#5 10#5 19#5) ∧
    decode 0b110001_00101_01010_0000000000000100#32 = some (.orbstat 5#5 10#5) := by decide

theorem decode_words_32 :
    decode 0b110010_00101_01010_0000000000000000#32 = some (.qnum 5#5 10#5) ∧
    decode 0b110010_00101_01010_0000000001000000#32 = some (.qden 5#5 10#5) ∧
    decode 0b110010_00101_01010_10011_000100_001_00#32 = some (.qmk 5#5 10#5 19#5 1#3) ∧
    decode 0b110010_00101_01010_10011_000110_001_00#32 = some (.qmed 5#5 10#5 19#5 1#3) ∧
    decode 0b110010_00101_01010_10011_00100000000#32 = some (.qcf 5#5 10#5 19#5) ∧
    decode 0b110010_00101_01010_0000000101000000#32 = some (.qfloor 5#5 10#5) := by decide

theorem decode_words_33 :
    decode 0b110011_00000000000000000000000000#32 = some .ecall ∧
    decode 0b110011_00000000000000000000000001#32 = some .ebreak ∧
    decode 0b110011_00000000000000000000000010#32 = some .sret ∧
    decode 0b110011_00000000000000000000000011#32 = some .uret ∧
    decode 0b110011_00000000000000000000000100#32 = some .halt ∧
    decode 0b110011_00000_00101_01010_00000000101#32 = some (.tlbinv 5#5 10#5) ∧
    decode 0b110011_00000000000000000000000110#32 = some .icinv ∧
    decode 0b110011_00101_01010_10011_00000000111#32 = some (.klaunch 5#5 10#5 19#5) := by decide

end Sys2Proof
end

