-- ==== Sys2Proof/Machine/Home.lean ====
section
/-! DEFINITION. Storage below the caches: bytes at home under a key (spec/02 R58, R62, R65), slices and their victims (spec/03
R72 to R77), watches (spec/05 R137). -/
namespace Sys2Proof.Machine
set_option Elab.async false

/-! ### Keys and bytes at home -/

/-- The domain context tag of a slot (DCGRANT.DTAG, spec/08 R212). -/
def Ctx.dtag (c : Ctx) : BitVec 16 := c.dgrant.extractLsb' 32 16

/-- The key that another device keeps for the context of a tag. -/
def remoteKey (dev : Nat) (tag : BitVec 16) : Nat := 2 ^ 40 + dev * 2 ^ 16 + tag.toNat

/-- The key that a request of key slot `slot` names at an address (spec/02 R64). A request to another device carries the tag of the
slot's context, in whose place that device uses its own slot. -/
def State.keyAt (s : State) (slot pa : Nat) : Nat :=
  let g := s.m.slotKeys.get 0 slot
  if devOf pa = s.fab.dev.toNat then
    s.m.chanKeys.get g ((dieOf (laOf pa) * 32 + channelOf (laOf pa)) * 16 + slot)
  else if slot = 0 then g else remoteKey (devOf pa) (s.ctx (slot - 1)).dtag

/-- Which key wrote a line last, and what its other contents are: as kept for the line, or as a save area that covers it gives them. -/
def State.lineKey (s : State) (ln : Nat) : LineKey :=
  match s.m.lineKeys.find? fun x => decide (x.1 = ln) with
  | some x => x.2
  | none => ((s.m.areas.find? fun a => decide (a.1 ≤ ln) && decide (ln < a.1 + a.2.1)).map (·.2.2)).getD .reset

/-- A byte of HBM as this device wrote it last, or as a scrub left it, read under a key slot (R58, R65). -/
def State.hbmByte (s : State) (slot pa : Nat) : Byte :=
  let r := s.lineKey (pa / 64)
  let k := s.keyAt slot pa
  let n := s.m.scrubs.get 0 (pa / 2 ^ 36)
  if r.key = k then (Mem.read s.m.mem pa).getD (Config.hbmByte k pa r.own n) else Config.hbmByte k pa r.seen n

/-- A byte at home, read under a key slot. Window storage has no key. What another device's memory holds is a free value: that device and
others write it too (unsafe where the write is this device's own and the latest: log entry 148). -/
def State.homeByte (s : State) (slot pa : Nat) : Byte :=
  if isHbm (laOf pa) then
    if devOf pa = s.fab.dev.toNat then s.hbmByte slot pa else Config.remoteByte pa s.tick (s.hbmByte slot pa)
  else (Mem.read s.m.mem pa).getD 0#8

/-- Consecutive bytes at home. -/
def State.homeBytes (s : State) (slot pa : Nat) : Nat → List Byte
  | 0 => []
  | n + 1 => s.homeByte slot pa :: State.homeBytes s slot (pa + 1) n

/-- A 64-bit little-endian word at home. -/
def State.homeRead64 (s : State) (slot pa : Nat) : Word := BitVec.ofNat 64 (leNat (s.homeBytes slot pa 8))
/-- A little-endian number of `n` bytes at home. -/
def State.homeReadNat (s : State) (slot pa n : Nat) : Nat := leNat (s.homeBytes slot pa n)

def State.isPoisoned (s : State) (ln : Nat) : Bool := s.m.poisoned.contains ln

/-- A write to a range is refused at the home slice while it is protected (spec/21 R473). -/
def State.isProtected (s : State) (pa n : Nat) : Bool :=
  s.trust.objects.any fun o => o.2.live && decide (pa < o.2.textPa + o.2.size) && decide (o.2.textPa < pa + n)

/-! ### Home lines over HBM (spec/03 R73) -/

/-- The home slice of an address, die × 16 + slice; slices of other devices are numbered from 1,024 up. -/
def State.homeKey (s : State) (pa : Nat) : Nat :=
  let k := dieOf (laOf pa) * 16 + sliceOf (laOf pa)
  if devOf pa = s.fab.dev.toNat then k else 1024 + devOf pa * 128 + k

def sliceFind (ln : Nat) (rlc : Bool) (l : List SliceLine) : Option SliceLine :=
  l.find? fun x => decide (x.line = ln) && decide (x.rlc = rlc)

/-- The bytes of a line that memory lists. -/
def lineCells (ln : Nat) (m : List Host.Cell) : List Host.Cell := m.filter fun c => decide (c.1 / 64 = ln)

/-- Before a home line is written, what HBM holds of it is kept: the words stay in the slice until the line is evicted (R73). -/
def State.keepUnder (s : State) (ln : Nat) : State :=
  if (s.m.under.any fun u => decide (u.1 = ln)) || (sliceFind ln false (s.slice (s.homeKey (ln * 64))).lines).isNone then s
  else s.updMem fun m => { m with under := m.under.set ln { cells := lineCells ln m.mem, key := s.lineKey ln, psn := m.poisoned.contains ln } }

/-- What HBM holds of a line is what is read at home. -/
def State.dropUnder (s : State) (ln : Nat) : State := s.updMem fun m => { m with under := m.under.filter fun u => decide (u.1 ≠ ln) }

/-- Write bytes of one line at home under a key slot. A line last written under another key takes the new key (R65). A write of
all 64 bytes clears poison (R62). Writing window storage clears its elements' marks (spec/09 R246). -/
def State.homeStore (s : State) (slot pa : Nat) (bs : List Byte) : State :=
  if isHbm (laOf pa) then
    let ln := pa / 64
    let s := s.keepUnder ln
    let r := s.lineKey ln
    let k := s.keyAt slot pa
    let r' : LineKey := if r.key = k then { r with seen := r.seen + 1 } else { key := k, own := r.seen, seen := r.seen + 1 }
    let base := if r.key = k then s.m.mem else Mem.drop (ln * 64) 64 s.m.mem
    s.updMem fun m => { m with mem := Mem.writes pa bs base, lineKeys := m.lineKeys.set ln r',
                               poisoned := if bs.length = 64 then m.poisoned.erase ln else m.poisoned }
  else
    s.updMem fun m => { m with mem := Mem.writes pa bs m.mem, marks := natDrop (8 * pa) (8 * bs.length) m.marks }

def State.addPoison (s : State) (ln : Nat) : State := s.updMem fun m => { m with poisoned := natInsert ln m.poisoned }

/-- An access to a die of this device that is held in reset waits at its edge (spec/21 R477). -/
def State.edgeClosed (s : State) (pa : Nat) : Bool :=
  decide (devOf pa = s.fab.dev.toNat) && isHbm (laOf pa) && s.dieHeld (dieOf (laOf pa))

/-! ### Requests to other devices (spec/04 R105 to R108) -/

/-- The planes that are up, in ascending order (R107). -/
def State.planesUp (s : State) : List Nat := (s.fab.ports.filter fun p => p.2.inuse).map (·.1)

/-- The plane of a line among those that are up: LA[41:6] mod 65,521 mod their number. -/
def planeOf (up : List Nat) (line : Nat) : Nat := up.getD (line % 65521 % up.length) 0

/-- The planes that are up at both ends, this device's and another's (R107). -/
def State.planesTo (s : State) (dev : Nat) : List Nat := s.planesUp.filter fun p => !s.fab.peerDown.contains (dev, p)

/-- The plane over which a request for an address goes. -/
def State.planeFor (s : State) (pa : Nat) : Nat := planeOf (s.planesTo (devOf pa)) (laOf pa / 64)

/-- An address is memory of another device. -/
def State.isRemote (s : State) (pa : Nat) : Bool := decide (devOf pa ≠ s.fab.dev.toNat) && isHbm (laOf pa)

/-- A request to another device waits: no plane is up, or its answer is not there yet, a free choice. -/
def State.linkWaits (s : State) (pa : Nat) : Bool := s.isRemote pa && ((s.planesTo (devOf pa)).isEmpty || Config.freeBool (2 ^ 64 + s.tick))

/-- The packet of a request under a key slot: it carries the domain context tag of the slot's context (spec/02 R64). -/
def State.requestPacket (s : State) (slot pa : Nat) : Packet := .request (s.planeFor pa) (pa / 64) (s.ctx (slot - 1)).dtag s.tick

/-- A hart's request has left on its plane and is outstanding. -/
def State.noteRequest (s : State) (h pa : Nat) : State :=
  if !s.isRemote pa || (s.planesTo (devOf pa)).isEmpty || s.fab.remotes.any (fun r => decide (r.hart = h) && decide (r.pa / 64 = pa / 64) && !r.held) then s
  else
    let c := (s.getHart h).ctx
    s.updFab fun f =>
      { f with remotes := f.remotes ++ [{ pa, plane := s.planeFor pa, tag := s.tick, hart := h, ctx := c, held := false, window := false, bytes := [] }]
               sent := s.requestPacket (c.toNat + 1) pa :: f.sent }

/-- The executing hart waits for an access: a request to another device has left by then. -/
def stallAt {α : Type} (pa : Nat) : M α := do
  modify fun s => s.noteRequest s.cur pa
  stall

/-- A request for a line of another device is answered: it has gone out, and is outstanding no longer. -/
def State.answerRemote (s : State) (slot ln : Nat) : State :=
  if !s.isRemote (ln * 64) then s
  else
    let out := fun (r : Remote) => decide (r.pa / 64 = ln) && !r.held
    s.updFab fun f =>
      { f with remotes := f.remotes.filter fun r => !out r
               sent := if f.remotes.any out || f.sent.contains (s.requestPacket slot (ln * 64)) then f.sent
                 else s.requestPacket slot (ln * 64) :: f.sent }

/-- A control message about a line goes to another device, on the line's plane (R106, R107). -/
def State.tell (s : State) (dev ln hart : Nat) (what : FabricMsg) (m : BitVec 16) : State :=
  if dev = s.fab.dev.toNat then s
  else s.updFab fun f => { f with sent := .message (planeOf (s.planesTo dev) (laOf (ln * 64) / 64)) f.dev.toNat dev what ln hart m :: f.sent }
/-- One that concerns no line goes on every plane that is up (R107). -/
def State.tellAll (s : State) (dev : Nat) (what : FabricMsg) : State :=
  s.updFab fun f => { f with sent := (s.planesTo dev).reverse.map (fun p => .message p f.dev.toNat dev what 0 0 0#16) ++ f.sent }

/-- Add steps of other agents to those that happen next. -/
def State.after (s : State) (l : List (Instr × Msg)) : State := { s with inbox := s.inbox ++ l }

/-- Requests outstanding on a plane that is not up at both ends go again over the plane that the rule now names, with their tags; while none is
up they wait (R108). -/
def State.resendRemotes (s : State) : State :=
  let lost := fun (r : Remote) => !r.held && !(s.planesTo (devOf r.pa)).contains r.plane
  let again := s.fab.remotes.filter fun r => lost r && !(s.planesTo (devOf r.pa)).isEmpty
  s.updFab fun f =>
    { f with remotes := f.remotes.map fun r =>
               if lost r then { r with plane := if (s.planesTo (devOf r.pa)).isEmpty then 16 else s.planeFor r.pa } else r
             sent := (again.map fun r => .request (s.planeFor r.pa) (r.pa / 64) (s.ctx r.ctx.toNat).dtag r.tag).reverse ++ f.sent }

/-! ### Slices -/

/-- The RLC slice through which a die reaches a line of another die of the package (spec/03 R72). -/
def State.rlcKey (s : State) (die pa : Nat) : Option Nat :=
  if devOf pa = s.fab.dev.toNat ∧ dieOf (laOf pa) ≠ die then some (die * 16 + sliceOf (laOf pa)) else none

/-- The number under which a registration names hart `h` of a device: harts of this device by their physical number. -/
def State.ownerKey (s : State) (dev : BitVec 10) (h : Nat) : Nat := if dev = s.fab.dev then h else (dev.toNat + 1) * 2048 + h
/-- The device of an owner's number (R74). -/
def State.ownerDev (s : State) (h : Nat) : BitVec 10 := if h < 2048 then s.fab.dev else BitVec.ofNat 10 (h / 2048 - 1)
/-- The hart that an owner's number names, as its device numbers it. -/
def ownerHart (h : Nat) : Nat := h % 2048
/-- The key slot under which an owner's words are written back: its context's, as it registered (spec/02 R64). -/
def State.ownerSlot (s : State) (slot key ln h : Nat) : Nat :=
  ((s.slice key).regs.find? fun e => decide (e.line = ln) && decide (e.hart = h)).elim
    (if h < 2048 ∧ (s.getHart h).phase ≠ .idle then keySlot (s.getHart h).ctx else slot) (·.slot)

/-- Clear words of the entries of a line, except those of one owner. -/
def dropRegs (ln : Nat) (keep : Option Nat) (m : BitVec 16) (l : List RegEntry) : List RegEntry :=
  (l.map fun e => if e.line = ln ∧ some e.hart ≠ keep then { e with mask := e.mask &&& ~~~m } else e).filter fun e => e.mask ≠ 0#16

/-- The words of a line that a hart has registered at a slice. -/
def SliceState.regMask (t : SliceState) (ln hart : Nat) : BitVec 16 :=
  (t.regs.find? fun e => decide (e.line = ln) && decide (e.hart = hart)).elim 0#16 (·.mask)

/-- The hart that has registered a word of a line at a slice. -/
def SliceState.ownerOf (t : SliceState) (ln i : Nat) : Option Nat :=
  (t.regs.find? fun e => decide (e.line = ln) && bitAt e.mask i).map (·.hart)

/-- The harts with registrations of some words of a line at a slice. -/
def SliceState.ownersOf (t : SliceState) (ln : Nat) (m : BitVec 16) : List (Nat × BitVec 16) :=
  (t.regs.filter fun e => decide (e.line = ln) && decide (e.mask &&& m ≠ 0#16)).map fun e => (e.hart, e.mask &&& m)

/-! ### Watches -/

/-- An update of `n` bytes at `pa` touches a watched 8-byte word. -/
def watchHit (pa n w : Nat) : Bool := decide (w < pa + n) && decide (pa < w + 8)

/-- A watch hit reaches a hart: its latch is set and WATCH.EN cleared (spec/05 R137). -/
def Hart.watchArrival (h : Hart) : Hart := { h with latch := h.latch ||| 0b0000100#7, user := { h.user with watchEn := false } }

/-- Watches of the queue agents whose word an update touches: the agents examine the queue next (spec/08 R217). -/
def State.fireAgents (s : State) (pa n : Nat) : State :=
  let hit := s.m.agentWatches.filter fun w => watchHit pa n w.pa
  { s with inbox := s.inbox ++ hit.map fun w =>
      (if w.dep then .dependenceWatchHit else .queueTailWatchHit, { slot := w.slot, queue := w.queue }) }

/-- Watches whose word an update of `n` bytes at `pa` touches fire: the entry goes, and the hart's latch and WATCH.EN follow
(spec/05 R137). -/
def State.fireWatches (s : State) (pa n : Nat) : State :=
  let s := s.fireAgents pa n
  let k := s.homeKey pa
  let t := s.slice k
  let hit := t.watches.filter fun w => watchHit pa n w.1
  if hit.isEmpty then s
  else
    let s := s.setSlice k { t with watches := t.watches.filter fun w => !watchHit pa n w.1 }
    hit.foldl (fun s w => if w.2 < 2048 then s.updHartN w.2 (·.watchArrival)
      else s.tell (s.ownerDev w.2).toNat (pa / 64) (ownerHart w.2) .wake 0#16) s

end Sys2Proof.Machine
end

