-- ==== Sys2Proof/Machine/Cache.lean ====
section
/-! DEFINITION. Caches, registration and ownership: fills, evictions, releases, acquires, revocations, far atomics and engine
accesses (spec/03 R66 to R77, spec/05 R118 to R148). -/
namespace Sys2Proof.Machine
set_option Elab.async false

/-! ### Lines -/

def CacheLine.empty (ln : Nat) (rid : BitVec 4) : CacheLine :=
  { line := ln, rid, wv := 0#16, wd := 0#16, wo := 0#16, who := 0#64, data := List.replicate 64 0#8, psn := false }

/-- Word `i` of a line's bytes. -/
def wordOf (data : List Byte) (i : Nat) : List Byte := (data.drop (4 * i)).take 4
/-- Replace word `i`. -/
def putWord (data : List Byte) (i : Nat) (w : List Byte) : List Byte := putBytes data (4 * i) w
/-- Take the words of `m` from `src`, the rest from `dst`. -/
def mergeWords (m : BitVec 16) (src dst : List Byte) : List Byte :=
  words16.foldl (fun d i => if bitAt m i then putWord d i (wordOf src i) else d) dst

/-- WHO of word `i` (R67). -/
def CacheLine.whoOf (l : CacheLine) (i : Nat) : BitVec 4 := l.who.extractLsb' (4 * i) 4
def setWho (who : BitVec 64) (m : BitVec 16) (v : BitVec 4) : BitVec 64 :=
  words16.foldl (fun w i => if bitAt m i then (w &&& ~~~(0xF#64 <<< (4 * i))) ||| (v.zeroExtend 64 <<< (4 * i)) else w) who
/-- The words of a line whose WHO satisfies `p`. -/
def CacheLine.whoMask (l : CacheLine) (p : Nat → Bool) : BitVec 16 :=
  words16.foldl (fun m i => if p (l.whoOf i).toNat then m ||| bitMask i else m) 0#16

/-- Words leave a line; one that keeps none holds no poison. -/
def CacheLine.clear (l : CacheLine) (m : BitVec 16) : CacheLine :=
  { l with wv := l.wv &&& ~~~m, wd := l.wd &&& ~~~m, wo := l.wo &&& ~~~m, psn := l.psn && l.wv &&& ~~~m != 0#16 }

def findLine (ln : Nat) (l : List CacheLine) : Option CacheLine := l.find? fun x => decide (x.line = ln)
/-- Put a line in front, in place of the one with its address. -/
def putLine (x : CacheLine) (l : List CacheLine) : List CacheLine := x :: l.filter fun y => !(decide (y.line = x.line))
/-- Change a line in its place. -/
def mapLine (ln : Nat) (g : CacheLine → CacheLine) (l : List CacheLine) : List CacheLine :=
  l.map fun x => if x.line = ln then g x else x
def dropLine (ln : Nat) (l : List CacheLine) : List CacheLine := l.filter fun y => !(decide (y.line = ln))

def State.l1Line (s : State) (c ln : Nat) : Option CacheLine := findLine ln (s.core c).l1d
def State.ccLine (s : State) (k ln : Nat) : Option CacheLine := findLine ln (s.cluster k).cc
def State.updL1 (s : State) (c : Nat) (g : List CacheLine → List CacheLine) : State :=
  let x := s.core c
  s.setCore c { x with l1d := g x.l1d }
def State.updCC (s : State) (k : Nat) (g : List CacheLine → List CacheLine) : State :=
  let x := s.cluster k
  s.setCluster k { x with cc := g x.cc }
def State.mapL1 (s : State) (c ln : Nat) (g : CacheLine → CacheLine) : State :=
  if (s.l1Line c ln).isSome then s.updL1 c (mapLine ln g) else s
def State.mapCC (s : State) (k ln : Nat) (g : CacheLine → CacheLine) : State :=
  if (s.ccLine k ln).isSome then s.updCC k (mapLine ln g) else s

/-- WHO code of a hart in its cluster: core × 2 + slot. -/
def whoCode (h : Nat) : BitVec 4 := BitVec.ofNat 4 (h % 16)
/-- The hart of a cluster that a WHO code names. -/
def whoHart (cluster : Nat) (w : BitVec 4) : Nat := cluster * 16 + w.toNat

/-! ### Owners -/

/-- The value of a word that its owner holds now, with its poison; none where the owner no longer holds it (R126). What an owner on
another device holds is a free value. -/
def State.ownerWord (s : State) (h ln i : Nat) : Option (List Byte × Bool) :=
  if 2048 ≤ h then some (toBytes 4 (Config.remoteWord h ln i s.tick).toNat, false)
  else match s.l1Line (coreOf h) ln with
  | some l => if bitAt l.wv i then some (wordOf l.data i, l.psn) else inCluster
  | none => inCluster
where
  inCluster : Option (List Byte × Bool) :=
    match s.ccLine (clusterOf h) ln with
    | some l => if bitAt l.wv i then some (wordOf l.data i, l.psn) else none
    | none => none

/-- The words of a mask that an owner holds now, as a line's bytes, with their poison. -/
def State.ownerWords (s : State) (h ln : Nat) (m : BitVec 16) : BitVec 16 × List Byte × Bool :=
  let got := words16.foldl (fun g i => if bitAt m i && (s.ownerWord h ln i).isSome then g ||| bitMask i else g) 0#16
  let ws := words16.map fun i => if bitAt got i then (s.ownerWord h ln i).getD (List.replicate 4 0#8, false) else (List.replicate 4 0#8, false)
  (got, ws.flatMap (·.1), ws.any (·.2))

/-- A revocation: the words leave the hart's L1D and its cluster cache (R127, R68); to an owner on another device it goes as a message
(spec/04 R106). -/
def State.revoke (s : State) (h ln : Nat) (m : BitVec 16) : State :=
  if 2048 ≤ h then s.tell (s.ownerDev h).toNat ln (ownerHart h) (.revocation false) m
  else (s.mapL1 (coreOf h) ln (·.clear m)).mapCC (clusterOf h) ln (·.clear m)

def slicePut (x : SliceLine) (l : List SliceLine) : List SliceLine :=
  x :: l.filter fun y => !(decide (y.line = x.line) && decide (y.rlc = x.rlc))

/-- Words leave a slice line; one that keeps none holds no poison. -/
def SliceLine.without (x : SliceLine) (m : BitVec 16) : SliceLine :=
  { x with wv := x.wv &&& ~~~m, wd := x.wd &&& ~~~m, psn := x.psn && x.wv &&& ~~~m != 0#16 }

/-- The victim of a new line in a slice's set (R77): none where an invalid way is free, `some none` where the request waits. -/
def SliceState.victim (t : SliceState) (set : Nat) (rlc : Bool) : Option (Option SliceLine) :=
  let inSet := fun (l : SliceLine) => decide (sliceSet (laOf (l.line * 64)) = set)
  let cand := fun (l : SliceLine) => inSet l && decide (l.pin = 0) && !l.fill
  let ways := t.lines.filter inSet
  if rlc && decide ((ways.filter (·.rlc)).length ≥ 4) then some (pick (fun l => cand l && l.rlc))
  else if ways.length < 16 then none
  else some (pick cand)
where
  pick (cand : SliceLine → Bool) : Option SliceLine :=
    let pref := fun (l : SliceLine) => cand l && !(l.rlc && t.regs.any fun e => decide (e.line = l.line))
    (t.lines.reverse.find? pref).orElse fun _ => t.lines.reverse.find? cand

/-! ### Words written at home (R73, R137, spec/21 R473) -/

/-- HBM's own copy of a line is poisoned. -/
def State.underPoison (s : State) (ln : Nat) : Bool := s.m.under.any fun u => decide (u.1 = ln) && u.2.psn
/-- The words that a line lacks come from HBM's own copy, whose poison comes with them (spec/02 R62). -/
def State.mergeUnder (s : State) (ln : Nat) : State := if s.underPoison ln then s.addPoison ln else s
/-- A home line leaves its slice: a dirty one has been written to HBM, after a read of the words it lacked. -/
def State.homeLeft (s : State) (v : SliceLine) : State :=
  if v.rlc then s else (if v.wd = 0#16 || v.wv != 0xFFFF#16 then s.mergeUnder v.line else s).dropUnder v.line

/-- A line is added in front of a slice's lines. -/
def State.sliceAdd (s : State) (key : Nat) (l : SliceLine) : State :=
  let t := s.slice key
  s.setSlice key { t with lines := l :: t.lines }
/-- A line leaves a slice. -/
def State.sliceDrop (s : State) (key : Nat) (v : SliceLine) : State :=
  let t := s.slice key
  s.setSlice key { t with lines := t.lines.filter fun x => !(decide (x.line = v.line) && decide (x.rlc = v.rlc)) }

/-- A line without a fill or a pin. -/
def SliceLine.plain (ln : Nat) (rlc : Bool) (wv wd : BitVec 16) (psn : Bool) (data : List Byte) : SliceLine :=
  { line := ln, rlc, wv, wd, psn, pin := 0, fill := false, stale := false, data }

/-- The poison of a line into which words are written: a write of all 64 bytes sets it anew (spec/02 R62). -/
def mergePsn (m : BitVec 16) (old new : Bool) : Bool := if m = 0xFFFF#16 then new else old || new

/-- Words of a line are about to be written at home: its slice holds them valid and dirty, in a line allocated for them where it was
absent (R73). Where only a way whose registrations are to be revoked first could be freed, or none, they pass to HBM without a line (DESIGN
CHOICE, unsafe: log entry 149). -/
def State.homeMark (s : State) (ln : Nat) (m : BitVec 16) (psn : Bool) : State :=
  let k := s.homeKey (ln * 64)
  let t := s.slice k
  match sliceFind ln false t.lines with
  | some x => s.setSlice k { t with lines := slicePut { x with wv := x.wv ||| m, wd := x.wd ||| m, psn := mergePsn m x.psn psn } t.lines }
  | none =>
    let l := SliceLine.plain ln false m m (mergePsn m (s.isPoisoned ln) psn) []
    match t.victim (sliceSet (laOf (ln * 64))) false with
    | none => s.sliceAdd k l
    | some none => s
    | some (some v) =>
      if v.rlc && (v.wd != 0#16 || t.regs.any fun e => decide (e.line = v.line)) then s
      else ((s.homeLeft v).sliceDrop k v).sliceAdd k l

/-- The words of a line in protected text (spec/21 R473). -/
def State.protectedWords (s : State) (ln : Nat) : BitVec 16 :=
  words16.foldl (fun m i => if s.isProtected (ln * 64 + 4 * i) 4 then m ||| bitMask i else m) 0#16

/-- Write the words of a line named by a mask at home, from the line's bytes; an update of R137. Words of protected text are refused. -/
def State.homeWriteWords (s : State) (slot ln : Nat) (words : BitVec 16) (data : List Byte) (psn : Bool) : State :=
  let m := words &&& ~~~s.protectedWords ln
  if m = 0#16 then s
  else
    let s := (s.answerRemote slot ln).homeMark ln m psn
    let s := if m = 0xFFFF#16 then (s.homeStore slot (ln * 64) data).fireWatches (ln * 64) 64
      else words16.foldl (fun s i =>
        if bitAt m i then
          (s.homeStore slot (ln * 64 + 4 * i) (wordOf data i)).fireWatches (ln * 64 + 4 * i) 4
        else s) s
    if psn then s.addPoison ln else s

/-- Words that leave the caches of a die for home pass its RLC slice, whose line takes them (R69, R122). -/
def State.rlcPass (s : State) (die ln : Nat) (m : BitVec 16) (data : List Byte) (psn : Bool) : State :=
  match s.rlcKey die (ln * 64) with
  | none => s
  | some k =>
    let t := s.slice k
    match sliceFind ln true t.lines with
    | some x => s.setSlice k { t with lines := slicePut { x with wv := x.wv ||| m, data := mergeWords m data x.data, psn := mergePsn m x.psn psn } t.lines }
    | none => s

/-- Words of the RLC line of a die are dropped. -/
def State.rlcDrop (s : State) (die ln : Nat) (m : BitVec 16) : State :=
  match s.rlcKey die (ln * 64) with
  | none => s
  | some k =>
    let t := s.slice k
    match sliceFind ln true t.lines with
    | some x => s.setSlice k { t with lines := t.lines.map fun y => if y.line = ln ∧ y.rlc = true then x.without m else y }
    | none => s

/-- Remove the registrations of some words of a line at a slice, revoking each owner, with nothing written back. -/
def State.dropOwners (s : State) (key ln : Nat) (m : BitVec 16) : State :=
  let s := ((s.slice key).ownersOf ln m).foldl (fun s o => s.revoke o.1 ln o.2) s
  let t := s.slice key
  s.setSlice key { t with regs := dropRegs ln none m t.regs }

/-- Words sent to their home slice. They are the later update of each word there, so no registration of them stays. -/
def State.writeHome (s : State) (slot ln : Nat) (m : BitVec 16) (data : List Byte) (psn : Bool) : State :=
  if m = 0#16 then s else (s.dropOwners (s.homeKey (ln * 64)) ln m).homeWriteWords slot ln m data psn

/-- A revocation with write-back: the owner's current values go to the point, slice `point`, under its context's key slot, then leave its
caches (R127, spec/02 R64). What an RLC slice receives goes on to the home slice (R122). -/
def State.revokeWB (s : State) (slot point h ln : Nat) (m : BitVec 16) (rlc : Bool) : State :=
  let key := s.ownerSlot slot point ln h
  let (g, d, p) := s.ownerWords h ln m
  let s := if g = 0#16 then s
    else if rlc then (s.rlcPass (dieOfHart h) ln g d p).writeHome key ln g d p
    else s.homeWriteWords key ln g d p
  s.revoke h ln m

/-- Remove the registrations of some words of a line at a slice, revoking each owner but one, with or without write-back. -/
def State.takeFrom (s : State) (slot key ln : Nat) (m : BitVec 16) (keep : Option Nat) (wb : BitVec 16) : State :=
  let owners := ((s.slice key).ownersOf ln m).filter fun o => some o.1 ≠ keep
  let rlc := decide (key ≠ s.homeKey (ln * 64))
  let s := owners.foldl (fun s o => (s.revokeWB slot key o.1 ln (o.2 &&& wb) rlc).revoke o.1 ln (o.2 &&& ~~~wb)) s
  let t := s.slice key
  s.setSlice key { t with regs := dropRegs ln keep m t.regs }

/-! ### Slice lines (R72, R73, R77) -/

/-- Allocate a line in a slice. An RLC victim's registrations there are revoked with write-back and its dirty words go home
(R73, R77). Where no way can be freed nothing is allocated: accesses wait before they come here (`State.homeWaits`). -/
def State.sliceAlloc (s : State) (slot key : Nat) (l : SliceLine) : State :=
  match (s.slice key).victim (sliceSet (laOf (l.line * 64))) l.rlc with
  | none => s.sliceAdd key l
  | some none => s
  | some (some v) =>
    let s := if v.rlc then
        (s.takeFrom slot key v.line 0xFFFF#16 none 0xFFFF#16).homeWriteWords slot v.line v.wd v.data v.psn
      else s.homeLeft v
    (s.sliceDrop key v).sliceAdd key l

/-- A read of HBM opens its row (spec/02 R52). -/
def State.openRow (s : State) (pa : Nat) : State :=
  if devOf pa = s.fab.dev.toNat ∧ isHbm (laOf pa) = true then
    let key := dieOf (laOf pa) * 32 + channelOf (laOf pa)
    let c := s.channel key
    s.setChannel key { c with banks := c.banks.set (bankOf (laOf pa)) { c.banks.get .reset (bankOf (laOf pa)) with openRow := some (rowOf (laOf pa)) } }
  else s

/-- A request of words of a line at its home slice: the line is allocated or becomes the most recently used. -/
def State.homeTouch (s : State) (slot ln : Nat) (dirty : BitVec 16) : State :=
  let s := s.answerRemote slot ln
  let k := s.homeKey (ln * 64)
  let t := s.slice k
  let reads := dirty == 0#16
  match sliceFind ln false t.lines with
  | some x =>
    let s := if reads && x.wv != 0xFFFF#16 then (s.openRow (ln * 64)).mergeUnder ln else s
    s.setSlice k { t with lines := slicePut { x with wv := if reads then 0xFFFF#16 else x.wv ||| dirty, wd := x.wd ||| dirty
                                                     psn := (x.psn || s.isPoisoned ln) && dirty != 0xFFFF#16 } t.lines }
  | none =>
    (if reads then s.openRow (ln * 64) else s).sliceAlloc slot k
      (.plain ln false (if reads then 0xFFFF#16 else dirty) dirty (s.isPoisoned ln && dirty != 0xFFFF#16) [])

/-! ### What an access waits for below the caches -/

/-- A slice holds a line whole. -/
def State.holdsLine (s : State) (key ln : Nat) (rlc : Bool) : Bool :=
  (sliceFind ln rlc (s.slice key).lines).any fun x => !x.fill && x.wv == 0xFFFF#16
/-- A slice cannot serve a line now: its fill is under way, or it is absent and every way it may take is pinned or filling (R62, R77). -/
def State.lineStuck (s : State) (key ln : Nat) (rlc : Bool) : Bool :=
  match sliceFind ln rlc (s.slice key).lines with
  | some x => x.fill
  | none => (s.slice key).victim (sliceSet (laOf (ln * 64))) rlc == some none

/-- The channel of an address cannot perform a request of a key slot for a line now: it is stalled by a rate switch, the bank is blocked
or owes a refresh that comes first, an aged request of the bank or an earlier one of the line is under way, or the key of the slot is about
to change (spec/02 R52, R53, R56, R57, R59, R60, R65). -/
def State.channelBusy (s : State) (slot pa : Nat) : Bool :=
  let key := dieOf (laOf pa) * 32 + channelOf (laOf pa)
  let c := s.channel key
  let b := c.banks.get .reset (bankOf (laOf pa))
  c.busy || b.blocked || decide (0 < b.alerts) || decide (8 ≤ b.owed) ||
    c.queue.any (fun r => r.aged && decide (bankOf r.la = bankOf (laOf pa))) ||
    (c.queue ++ c.inFlight ++ c.retry).any (fun r => decide (r.la / 64 = laOf pa / 64)) ||
    s.m.chanKeys.any fun x => decide (x.1 = key * 16 + slot)

/-- An access of a die to HBM that its caches do not serve waits: at the edge of a die in reset, for an answer of another device, for a way
of a slice or the end of a line's fill, or, where the home slice does not hold the line whole, at its channel. -/
def State.homeWaits (s : State) (slot die pa : Nat) : Bool :=
  s.edgeClosed pa || s.linkWaits pa ||
  (decide (devOf pa = s.fab.dev.toNat) && isHbm (laOf pa) &&
    (s.lineStuck (s.homeKey pa) (pa / 64) false || ((s.rlcKey die pa).any fun k => s.lineStuck k (pa / 64) true) ||
      (!s.holdsLine (s.homeKey pa) (pa / 64) false && s.channelBusy slot pa)))

/-- A hart's caches hold a line's words of a mask valid: its L1D or its cluster cache. -/
def State.cachedFor (s : State) (h ln : Nat) (m : BitVec 16) : Bool :=
  let has := fun (l : Option CacheLine) => l.any fun x => m &&& ~~~x.wv == 0#16
  has (s.l1Line (coreOf h) ln) || has (s.ccLine (clusterOf h) ln)

/-- An access of a hart to `n` bytes of HBM waits below its caches. -/
def State.accessWaits (s : State) (h pa n : Nat) : Bool :=
  s.edgeClosed pa || (!s.cachedFor h (pa / 64) (wordMask (pa % 64) n) && s.homeWaits (keySlot (s.getHart h).ctx) (dieOfHart h) pa)

/-! ### Pins (R76) -/

/-- Pins held in the set of a line. -/
def SliceState.pinned (t : SliceState) (ln : Nat) : Nat :=
  (t.lines.filter fun x => decide (sliceSet (laOf (x.line * 64)) = sliceSet (laOf (ln * 64))) && decide (0 < x.pin)).length
/-- An engine may pin a line in a slice: it is pinned already, or fewer than 8 ways of its set are. -/
def State.pinRoomAt (s : State) (key ln : Nat) (rlc : Bool) : Bool :=
  let t := s.slice key
  ((sliceFind ln rlc t.lines).any fun x => decide (0 < x.pin)) || decide (t.pinned ln < 8)
/-- The same in the home slice of an address and in the RLC slice through which a die reaches it. -/
def State.pinRoom (s : State) (die pa : Nat) : Bool :=
  s.pinRoomAt (s.homeKey pa) (pa / 64) false && (s.rlcKey die pa).all fun k => s.pinRoomAt k (pa / 64) true
/-- An engine's access to HBM waits below the caches. -/
def State.engineWaits (s : State) (slot die pa : Nat) : Bool := s.homeWaits slot die pa || !s.pinRoom die pa

/-- The requests that wait at a slice are met again (R77). -/
def State.retryWaiting (s : State) (k : Nat) : State :=
  let t := s.slice k
  (s.setSlice k { t with waiting := [] }).after (t.waiting.map fun w => (.sliceRequest, w))
/-- A pin of a line in a slice begins or ends. -/
def State.pinBy (s : State) (x : Nat × Nat) (g : Nat → Nat) : State :=
  let t := s.slice x.1
  s.setSlice x.1 { t with lines := t.lines.map fun y => if y.line = x.2 then { y with pin := g y.pin } else y }
/-- The lines at which an engine of a die meets an address: in its RLC slice and in the home slice, where they are there. -/
def State.pinPlaces (s : State) (die pa : Nat) : List (Nat × Nat) :=
  (s.homeKey pa :: (s.rlcKey die pa).toList).filterMap fun k =>
    if (s.slice k).lines.any (fun x => decide (x.line = pa / 64)) then some (k, pa / 64) else none

/-- An engine lets go of lines it has pinned, and the requests that wait are met again (R77). -/
def State.unpinAll (s : State) (l : List (Nat × Nat)) : State :=
  l.foldl (fun s x => (s.pinBy x (· - 1)).retryWaiting x.1) s

/-! ### Reading at the points -/

/-- A word of another device's memory is what that device answers, a free value, whoever owns it as far as this one knows (log entry 148). -/
def State.remoteSeen (s : State) (ln i : Nat) (v : List Byte × Bool) : List Byte × Bool :=
  if s.isRemote (ln * 64) then ((List.range v.1.length).map fun j => Config.remoteByte (ln * 64 + 4 * i + j) s.tick (v.1.getD j 0#8), v.2) else v

/-- A word read at its home slice, forwarded from its owner where one is registered there (R126). -/
def State.homeWord (s : State) (slot ln i : Nat) : List Byte × Bool :=
  let own := (s.homeBytes slot (ln * 64 + 4 * i) 4, s.isPoisoned ln)
  match (s.slice (s.homeKey (ln * 64))).ownerOf ln i with
  | some h => s.remoteSeen ln i ((s.ownerWord h ln i).getD own)
  | none => own

/-- A word as a request of a die that missed the cluster cache finds it: at the RLC slice first, then at home (R66, R101). -/
def State.pointWord (s : State) (slot die ln i : Nat) : List Byte × Bool :=
  match s.rlcKey die (ln * 64) with
  | none => s.homeWord slot ln i
  | some k =>
    let t := s.slice k
    match (t.ownerOf ln i).bind fun h => s.ownerWord h ln i with
    | some v => v
    | none =>
      match sliceFind ln true t.lines with
      | some x => if bitAt x.wv i then (wordOf x.data i, x.psn) else s.homeWord slot ln i
      | none => s.homeWord slot ln i

def State.pointLine (s : State) (slot die ln : Nat) : List Byte × Bool :=
  let ws := words16.map fun i => s.pointWord slot die ln i
  (ws.flatMap (·.1), ws.any (·.2))

/-- The words of a line that the harts selected have registered at a slice. -/
def SliceState.maskOf (t : SliceState) (ln : Nat) (p : Nat → Bool) : BitVec 16 :=
  (t.regs.filter fun e => decide (e.line = ln) && p e.hart).foldl (fun m e => m ||| e.mask) 0#16
/-- The words of a line that the RLC of a die keeps valid when it is filled: a word forwarded from a hart of the die that is registered
at home is answered and not kept, so that the RLC holds no copy older than that hart's own writes (spec/06 R158). -/
def State.rlcKeep (s : State) (die ln : Nat) : BitVec 16 :=
  ~~~ (s.slice (s.homeKey (ln * 64))).maskOf ln fun h => decide (dieOfHart h = die)

/-- Fetch a line for a cluster of a die: its bytes, with the RLC slice filled where the line is homed on another die (R72). -/
def State.fetchLine (s : State) (slot die ln : Nat) : State × List Byte × Bool :=
  let (d, p) := s.pointLine slot die ln
  match s.rlcKey die (ln * 64) with
  | none => (s.homeTouch slot ln 0#16, d, p)
  | some k =>
    let keep := s.rlcKeep die ln
    let s := s.homeTouch slot ln 0#16
    let t := s.slice k
    match sliceFind ln true t.lines with
    | some x => (s.setSlice k { t with lines := slicePut { x with wv := x.wv ||| keep, data := mergeWords (keep &&& ~~~x.wv) d x.data, psn := x.psn || p } t.lines }, d, p)
    | none => (s.sliceAlloc slot k (.plain ln true keep 0#16 p d), d, p)

/-! ### Write-backs and evictions (R69, R128) -/

/-- Dirty words leaving a die's caches for home, through its RLC slice (R69, R122); no registration of them stays at either. -/
def State.writeBack (s : State) (slot die ln : Nat) (m : BitVec 16) (data : List Byte) (psn : Bool) : State :=
  if m = 0#16 then s
  else
    let s := match s.rlcKey die (ln * 64) with
      | none => s
      | some k => s.dropOwners k ln m
    (s.rlcPass die ln m data psn).writeHome slot ln m data psn

/-- The same at the RLC slice of a die. -/
def State.rlcMask (s : State) (die ln : Nat) (p : Nat → Bool) : BitVec 16 :=
  (s.rlcKey die (ln * 64)).elim 0#16 fun k => (s.slice k).maskOf ln p
/-- The same at the home slice or the RLC slice of a die. -/
def State.pointMask (s : State) (die ln : Nat) (p : Nat → Bool) : BitVec 16 :=
  (s.slice (s.homeKey (ln * 64))).maskOf ln p ||| s.rlcMask die ln p
/-- Deregister words of a line of the harts selected, at both slice points. -/
def State.deregister (s : State) (die ln : Nat) (m : BitVec 16) (p : Nat → Bool) : State :=
  let clr := fun (s : State) (k : Nat) =>
    let t := s.slice k
    let rs := t.regs.map fun e => if e.line = ln ∧ p e.hart = true then { e with mask := e.mask &&& ~~~m } else e
    s.setSlice k { t with regs := rs.filter fun e => e.mask ≠ 0#16 }
  let s := clr s (s.homeKey (ln * 64))
  match s.rlcKey die (ln * 64) with
  | none => s
  | some k => clr s k
/-- Owned words go to the points at which the harts selected have registered them (R69): those registered at the die's RLC slice as
write-backs through it, those registered at home alone to the home slice; the registrations end. Words registered at neither are
dirty words. -/
def State.toPoint (s : State) (slot die ln : Nat) (m : BitVec 16) (data : List Byte) (psn : Bool) (p : Nat → Bool) : State :=
  let home := m &&& (s.slice (s.homeKey (ln * 64))).maskOf ln p &&& ~~~ s.rlcMask die ln p
  let s := s.deregister die ln m p
  (s.writeHome slot ln home data psn).writeBack slot die ln (m &&& ~~~home) data psn

/-- The bytes of a cluster-cache line as its owners hold them, with their poison. -/
def State.ccCurrent (s : State) (k : Nat) (l : CacheLine) : List Byte × Bool :=
  let ws := words16.map fun i =>
    match (if bitAt l.wo i then s.l1Line (coreOf (whoHart k (l.whoOf i))) l.line else none) with
    | some x => if bitAt x.wv i then (wordOf x.data i, x.psn) else (wordOf l.data i, false)
    | none => (wordOf l.data i, false)
  (ws.flatMap (·.1), l.psn || ws.any (·.2))

/-- Evict a line of a cluster cache: owned words go to their points with the owners' current values and are deregistered, the
L1D copies staying valid and clean; dirty words go home; a word registered at the cluster cache leaves as a dirty word. -/
def State.evictCC (s : State) (slot k ln : Nat) : State :=
  match s.ccLine k ln with
  | none => s
  | some l =>
    let s := s.updCC k (dropLine ln)
    let die := k / 16
    let mine := fun (x : Nat) => decide (clusterOf x = k)
    let (d, p) := s.ccCurrent k l
    let s := words16.foldl (fun s i =>
      if bitAt l.wo i then
        s.mapL1 (coreOf (whoHart k (l.whoOf i))) ln fun x => { x with wd := x.wd &&& ~~~bitMask i, wo := x.wo &&& ~~~bitMask i }
      else s) s
    let s := if l.wo = 0#16 then s else s.toPoint slot die ln l.wo d p mine
    let dirty := l.wd &&& l.wv &&& ~~~l.wo
    if dirty = 0#16 then s else (s.deregister die ln dirty mine).writeBack slot die ln dirty d p

/-- Keep a cluster cache within 16 ways of each set (R66), evicting the least recently used line of the set. -/
def State.trimCC (s : State) (slot k ln : Nat) : State :=
  let set := ln % 1024
  let ways := (s.cluster k).cc.filter fun x => decide (x.line % 1024 = set)
  if ways.length ≤ 16 then s else (ways.getLast?).elim s fun v => s.evictCC slot k v.line

/-- Make a line with a region present in a cluster cache, evicting one recorded under another region (R33). -/
def State.ccOpen (s : State) (slot k ln : Nat) (rid : BitVec 4) : State :=
  match s.ccLine k ln with
  | some l => if l.rid = rid then s.updCC k (putLine l) else add (s.evictCC slot k ln)
  | none => add s
where
  add (s : State) : State := (s.updCC k (putLine (.empty ln rid))).trimCC slot k ln

/-- The harts of other cores of a hart's cluster that WHO names as owners of words of a line, one pair for each word. -/
def State.otherOwners (s : State) (h ln : Nat) (m : BitVec 16) : List (Nat × Nat) :=
  let k := clusterOf h
  (s.ccLine k ln).elim [] fun l => words16.filterMap fun i =>
    if bitAt m i && bitAt l.wo i && decide (coreOf (whoHart k (l.whoOf i)) ≠ coreOf h) then some (i, whoHart k (l.whoOf i)) else none
/-- WHO no longer names other cores' harts for words: those cores' copies are owned no more (R128). -/
def State.disownOthers (s : State) (h ln : Nat) (m : BitVec 16) : State :=
  (s.otherOwners h ln m).foldl (fun s o => s.mapL1 (coreOf o.2) ln fun x => { x with wo := x.wo &&& ~~~bitMask o.1 }) s
/-- The same where a registration moves the words: those cores lose their copies (R127). -/
def State.revokeOthers (s : State) (h ln : Nat) (m : BitVec 16) : State :=
  (s.otherOwners h ln m).foldl (fun s o => s.mapL1 (coreOf o.2) ln (·.clear (bitMask o.1))) s
/-- Dirty words of a core put into its cluster cache (R69): WD = 1, WO as given, WHO naming the core or the owner. -/
def State.ccDirty (s : State) (slot h ln : Nat) (rid : BitVec 4) (m : BitVec 16) (data : List Byte) (psn : Bool) : State :=
  if m = 0#16 then s
  else
    let k := clusterOf h
    let s := s.ccOpen slot k ln rid
    let s := s.disownOthers h ln m
    s.mapCC k ln fun l =>
      let own := l.wo &&& l.whoMask fun w => decide (w / 2 = coreOf h % 8)
      { l with wv := l.wv ||| m, wd := l.wd ||| m, wo := l.wo &&& (~~~m ||| own),
               who := setWho l.who (m &&& ~~~own) (BitVec.ofNat 4 (coreOf h % 8 * 2)),
               data := mergeWords m data l.data, psn := mergePsn m l.psn psn }

/-- Evict a line of a core's L1D (R69, R128). -/
def State.evictL1 (s : State) (slot c ln : Nat) : State :=
  match s.l1Line c ln with
  | none => s
  | some l =>
    let s := s.updL1 c (dropLine ln)
    let die := c / 128
    let mine := fun (h : Nat) => decide (coreOf h = c)
    let atPoint := l.wo &&& s.pointMask die ln mine
    let s := if atPoint = 0#16 then s else s.toPoint slot die ln atPoint l.data l.psn mine
    let s := if atPoint = 0#16 then s else s.mapCC (c / 8) ln fun x =>
      { x with wo := x.wo &&& ~~~atPoint, wv := x.wv &&& ~~~(atPoint &&& ~~~x.wd) }
    let low := l.wo &&& ~~~atPoint
    let s := if low = 0#16 then s else s.mapCC (c / 8) ln fun x => { x with wo := x.wo &&& ~~~low }
    s.ccDirty slot (c * 2) ln l.rid (low ||| (l.wd &&& ~~~l.wo)) l.data l.psn

/-- Keep an L1D within 8 ways of each set (R66). -/
def State.trimL1 (s : State) (slot c ln : Nat) : State :=
  let ways := (s.core c).l1d.filter fun x => decide (x.line % 128 = ln % 128)
  if ways.length ≤ 8 then s else (ways.getLast?).elim s fun v => s.evictL1 slot c v.line

/-- Make a line with a region present in an L1D (R33). -/
def State.l1Open (s : State) (slot c ln : Nat) (rid : BitVec 4) : State :=
  match s.l1Line c ln with
  | some l => if l.rid = rid then s.updL1 c (putLine l) else add (s.evictL1 slot c ln)
  | none => add s
where
  add (s : State) : State := (s.updL1 c (putLine (.empty ln rid))).trimL1 slot c ln

/-! ### Fills (R66, R68) -/

/-- Make words of a line valid in a cluster cache. -/
def State.ccFill (s : State) (slot k ln : Nat) (rid : BitVec 4) (need : BitVec 16) : State :=
  let s := s.ccOpen slot k ln rid
  match s.ccLine k ln with
  | none => s
  | some l =>
    if need &&& ~~~l.wv = 0#16 then s
    else
      let (s, d, p) := s.fetchLine slot (k / 16) ln
      s.mapCC k ln fun l => { l with wv := 0xFFFF#16, data := mergeWords (~~~l.wv) d l.data, psn := l.psn || p }

/-- Fill a line of a cluster cache with words streamed from its points, without a line in the RLC (R101). -/
def State.ccStream (s : State) (slot k ln : Nat) (rid : BitVec 4) : State :=
  let s := s.ccOpen slot k ln rid
  match s.ccLine k ln with
  | none => s
  | some l =>
    if l.wv = 0xFFFF#16 then s
    else
      let (d, p) := s.pointLine slot (k / 16) ln
      (s.homeTouch slot ln 0#16).mapCC k ln fun l => { l with wv := 0xFFFF#16, data := mergeWords (~~~l.wv) d l.data, psn := l.psn || p }

/-- A word as a core's miss finds it in its cluster cache: forwarded where another core's hart owns it (R67). -/
def State.ccWord (s : State) (c ln : Nat) (l : CacheLine) (i : Nat) : List Byte × Bool :=
  let h := whoHart (c / 8) (l.whoOf i)
  if bitAt l.wo i && decide (coreOf h ≠ c) then (s.ownerWord h ln i).getD (wordOf l.data i, l.psn) else (wordOf l.data i, l.psn)

/-- Make words of a line valid in a core's L1D. -/
def State.l1Fill (s : State) (slot c ln : Nat) (rid : BitVec 4) (need : BitVec 16) : State :=
  let s := s.l1Open slot c ln rid
  match s.l1Line c ln with
  | none => s
  | some l =>
    if need &&& ~~~l.wv = 0#16 then s
    else
      let s := s.ccFill slot (c / 8) ln rid 0xFFFF#16
      match s.ccLine (c / 8) ln with
      | none => s
      | some x =>
        let ws := words16.map fun i => s.ccWord c ln x i
        s.mapL1 c ln fun l => { l with wv := 0xFFFF#16, data := mergeWords (~~~l.wv) (ws.flatMap (·.1)) l.data, psn := l.psn || ws.any (·.2) }

/-- Bytes of a line through a core's L1D, with the line's poison (spec/12 R319). -/
def State.l1Read (s : State) (slot c pa n : Nat) (rid : BitVec 4) : State × List Byte × Bool :=
  let s := s.l1Fill slot c (pa / 64) rid (wordMask (pa % 64) n)
  match s.l1Line c (pa / 64) with
  | some l => (s, (l.data.drop (pa % 64)).take n, l.psn)
  | none => (s, [], false)

/-- Store bytes of a line through a core's L1D: a word stored in part is filled first (R68). -/
def State.l1Write (s : State) (slot c pa : Nat) (rid : BitVec 4) (bs : List Byte) : State :=
  let m := wordMask (pa % 64) bs.length
  let s := if bs.length % 4 = 0 ∧ pa % 4 = 0 then s.l1Open slot c (pa / 64) rid else s.l1Fill slot c (pa / 64) rid m
  s.mapL1 c (pa / 64) fun l => { l with wv := l.wv ||| m, wd := l.wd ||| m, data := putBytes l.data (pa % 64) bs }

/-! ### Vector accesses at the cluster cache (R70, R97 to R100) -/

/-- The dirty words of a line in a core's L1D are written to its cluster cache (R70). -/
def State.l1Flush (s : State) (slot h ln : Nat) : State :=
  match s.l1Line (coreOf h) ln with
  | none => s
  | some l =>
    if l.wd = 0#16 then s
    else
      let s := s.mapL1 (coreOf h) ln fun x => { x with wd := 0#16 }
      s.ccDirty slot h ln l.rid l.wd l.data l.psn

/-- Bytes read by a vector access: valid words of the cluster cache, the rest from the points without an allocation. -/
def State.vecRead (s : State) (slot h pa n : Nat) (rid : BitVec 4) : State × List Byte × Bool :=
  let ln := pa / 64
  let k := clusterOf h
  let s := s.l1Flush slot h ln
  let s := match s.ccLine k ln with
    | some l => if l.rid = rid then s.updCC k (putLine l) else s.evictCC slot k ln
    | none => s
  let m := wordMask (pa % 64) n
  let s := if (s.ccLine k ln).any fun l => m &&& ~~~l.wv == 0#16 then s else s.answerRemote slot ln
  let ws := words16.map fun i =>
    if bitAt m i then
      match s.ccLine k ln with
      | some l => if bitAt l.wv i then s.ccWord (coreOf h) ln l i else s.pointWord slot (k / 16) ln i
      | none => s.pointWord slot (k / 16) ln i
    else (List.replicate 4 0#8, false)
  (s, ((ws.flatMap (·.1)).drop (pa % 64)).take n, ws.any (·.2))

/-- Bytes stored by a kept vector store: the words take the transitions of R68 in the cluster cache and leave the core's L1D. -/
def State.vecWrite (s : State) (slot h pa : Nat) (rid : BitVec 4) (bs : List Byte) : State :=
  let ln := pa / 64
  let m := wordMask (pa % 64) bs.length
  let s := s.l1Flush slot h ln
  let s := if bs.length % 4 = 0 ∧ pa % 4 = 0 then s else s.ccFill slot (clusterOf h) ln rid m
  let base := match s.ccLine (clusterOf h) ln with
    | some l => if l.rid = rid then l.data else List.replicate 64 0#8
    | none => List.replicate 64 0#8
  let s := s.ccDirty slot h ln rid m (putBytes base (pa % 64) bs) false
  s.mapL1 (coreOf h) ln (·.clear m)

/-! ### Release and acquire (R118 to R125) -/

/-- The regions that a region field names (R32). -/
def regionMask (g : BitVec 4) : BitVec 16 := if g = 0#4 then 0xFFFE#16 else 1#16 <<< g.toNat
/-- The regions AQRM selects (R132). -/
def aqrmRegions (a : BitVec 16) : BitVec 16 := if a &&& 0xFFFE#16 = 0#16 then 0xFFFE#16 else a &&& 0xFFFE#16
def inRegions (m : BitVec 16) (rid : BitVec 4) : Bool := rid ≠ 0#4 && bitAt m rid.toNat

/-- Register words of a line at a slice point in an owner's name, with its device (R74, R75): earlier owners are revoked, a full set
evicts its least recently used entry with write-back. -/
def State.registerAt (s : State) (slot key h ln : Nat) (m : BitVec 16) : State :=
  let s := s.takeFrom slot key ln m (some h) 0#16
  let s := if key < 1024 then s else s.tell (devOf (ln * 64)) ln h (.registration 2#2) m
  let t := s.slice key
  match t.regs.find? fun e => decide (e.line = ln) && decide (e.hart = h) with
  | some e => s.setSlice key { t with regs := { e with mask := e.mask ||| m, slot } :: t.regs.erase e }
  | none =>
    let same := t.regs.filter fun e => decide (regSet (laOf (e.line * 64)) = regSet (laOf (ln * 64)))
    let s := if same.length < 16 then s
      else (same.getLast?).elim s fun v => s.takeFrom slot key v.line v.mask none v.mask
    let t := s.slice key
    s.setSlice key { t with regs := { line := ln, dev := s.ownerDev h, hart := h, mask := m, slot } :: t.regs }

/-- Before words are registered at the RLC slice of a die, other harts of that die that have registered them at home give them up with
write-back: a reader of the die that synchronises at die scope finds no older copy of its own (DEDUCED from spec/06 R156, R158; unsafe: log
entry 150). -/
def State.takeSameDie (s : State) (slot die ln : Nat) (m : BitVec 16) (h : Nat) : State :=
  let key := s.homeKey (ln * 64)
  (((s.slice key).ownersOf ln m).filter fun o => decide (o.1 ≠ h) && decide (dieOfHart o.1 = die)).foldl (fun s o =>
    let s := s.revokeWB slot key o.1 ln o.2 false
    let t := s.slice key
    let rs := t.regs.map fun e => if e.line = ln ∧ e.hart = o.1 then { e with mask := e.mask &&& ~~~o.2 } else e
    s.setSlice key { t with regs := rs.filter fun e => e.mask ≠ 0#16 }) s

/-- Register words of a line at the point of a scope (R118, R122): the RLC slice of the hart's die at die scope; home otherwise,
after every RLC registration of the words has been removed, and with it the RLC's copies. A registration at home fires watches (R137). -/
def State.registerWords (s : State) (slot h : Nat) (scope : BitVec 2) (ln : Nat) (m : BitVec 16) : State :=
  let fire := fun (s : State) => words16.foldl (fun s i => if bitAt m i then s.fireWatches (ln * 64 + 4 * i) 4 else s) s
  match (if h < 2048 then s.rlcKey (dieOfHart h) (ln * 64) else none) with
  | some k =>
    if scope = 1#2 then (s.takeSameDie slot (dieOfHart h) ln m h).registerAt slot k h ln m
    else
      let s := s.takeFrom slot k ln m (some h) 0#16
      let t := s.slice k
      let s := (s.setSlice k { t with regs := dropRegs ln none m t.regs }).rlcDrop (dieOfHart h) ln m
      fire (s.registerAt slot (s.homeKey (ln * 64)) h ln m)
  | none => fire (s.registerAt slot (s.homeKey (ln * 64)) h ln m)

/-- Release the words of one line by hart `h` at a scope: `m1` from its L1D, `mc` from its cluster cache. -/
def State.releaseLine (s : State) (slot h : Nat) (scope : BitVec 2) (ln : Nat) (regions : BitVec 16) : State :=
  let c := coreOf h
  let k := clusterOf h
  let l1 := (s.l1Line c ln).filter fun l => inRegions regions l.rid
  let m1 := l1.elim 0#16 (·.wd)
  let s := l1.elim s fun l => if m1 = 0#16 then s else
    let s := s.ccOpen slot k ln l.rid
    s.mapCC k ln fun x => { x with wv := x.wv ||| m1, data := mergeWords m1 l.data x.data, psn := x.psn || l.psn }
  let cc := (s.ccLine k ln).filter fun l => inRegions regions l.rid
  let mc := cc.elim 0#16 fun l =>
    (l.wd &&& l.whoMask fun w => decide (w / 2 = c % 8)) |||
    (if scope = 0#2 then 0#16 else l.wo &&& l.whoMask fun w => decide (w = h % 16))
  let m := m1 ||| mc
  if m = 0#16 then s
  else
    let s := s.revokeOthers h ln m
    let s := if scope = 0#2 then s else s.registerWords slot h scope ln m
    let s := s.mapCC k ln fun l => { l with wv := l.wv ||| m, wd := l.wd &&& ~~~m, wo := l.wo ||| m, who := setWho l.who m (whoCode h) }
    s.mapL1 c ln fun l => { l with wv := l.wv ||| m1, wd := l.wd &&& ~~~m1, wo := l.wo ||| m1 }

/-- The lines that a release of a hart may register. -/
def State.releaseLines (s : State) (h : Nat) : List Nat :=
  ((s.core (coreOf h)).l1d.filter (fun l => l.wd ≠ 0#16)).map (·.line) ++
  ((s.cluster (clusterOf h)).cc.filter (fun l => l.wd ≠ 0#16 || l.wo ≠ 0#16)).map (·.line)

/-- The first line of another device whose registration a release sends and cannot have acknowledged yet (R121, spec/04 R107). -/
def State.releaseWaits (s : State) (h : Nat) (scope : BitVec 2) (regions : BitVec 16) : Option Nat :=
  if scope = 0#2 then none
  else (s.releaseLines h).find? fun ln =>
    s.linkWaits (ln * 64) && ((s.l1Line (coreOf h) ln).any (fun l => inRegions regions l.rid) || (s.ccLine (clusterOf h) ln).any (fun l => inRegions regions l.rid))

/-- A release by a hart at a scope over regions (R120, R121). -/
def State.release (s : State) (h : Nat) (scope : BitVec 2) (regions : BitVec 16) : State :=
  let slot := keySlot (s.getHart h).ctx
  (s.releaseLines h).foldl (fun s ln => s.releaseLine slot h scope ln regions) s

/-- Drop the clean words that nobody owns of the lines selected; lines left without a word go. -/
def acquireLines (p : CacheLine → Bool) (l : List CacheLine) : List CacheLine :=
  (l.map fun x => if p x then { x with wv := x.wv &&& (x.wd ||| x.wo) } else x).filter fun x => x.wv ≠ 0#16

/-- Clean words leave an RLC line, and a fill of it in flight is marked stale (R123, R124). -/
def SliceLine.acquired (x : SliceLine) : SliceLine := { x.without (~~~x.wd) with stale := x.stale || x.fill }
/-- Clear the clean words of the RLC lines selected of one slice. -/
def State.clearRlc (s : State) (k : Nat) (p : Nat → Bool) : State :=
  let t := s.slice k
  if t.lines.any fun x => x.rlc && p x.line then
    s.setSlice k { t with lines := t.lines.map fun x => if x.rlc && p x.line then x.acquired else x }
  else s
/-- The same in all slices of a die. -/
def State.acquireRlc (s : State) (die : Nat) (p : Nat → Bool) : State :=
  words16.foldl (fun s i => s.clearRlc (die * 16 + i) p) s

/-- Fills in flight that an acquire meets are marked stale (R124, R147): those whose message `p` selects. -/
def State.staleFills (s : State) (p : Msg → Bool) : State :=
  { s with inbox := s.inbox.map fun x => if x.1 == .cacheFillReturn && p x.2 then (x.1, { x.2 with flag2 := true }) else x }
/-- A fill in flight is for a cache of a hart that an acquire reaches: its L1D, or its cluster cache where `cc`. -/
def Msg.fillsFor (m : Msg) (h : Nat) (cc : Bool) : Bool :=
  if m.flag then decide (coreOf m.hart.toNat = coreOf h) else cc && decide (clusterOf m.hart.toNat = clusterOf h)

/-- An acquire by a hart at a scope over regions (R123, R124). -/
def State.acquire (s : State) (h : Nat) (scope : BitVec 2) (regions : BitVec 16) : State :=
  let s := s.staleFills fun m => m.fillsFor h (decide (scope ≠ 0#2)) && inRegions regions m.region
  let s := s.updL1 (coreOf h) (acquireLines fun x => inRegions regions x.rid)
  let s := if scope = 0#2 then s else s.updCC (clusterOf h) (acquireLines fun x => inRegions regions x.rid)
  if scope.toNat < 2 then s else s.acquireRlc (dieOfHart h) fun _ => true

/-- The acquire of a completion's pop: one region over a range of lines, in L1D, cluster cache and RLC (R144). -/
def State.acquireRange (s : State) (h : Nat) (region : BitVec 4) (lines : List Nat) : State :=
  if region = 0#4 then s
  else
    let p := fun (x : CacheLine) => decide (x.rid = region) && lines.contains x.line
    let s := s.staleFills fun m => m.fillsFor h true && m.region == region && lines.contains (m.addr.toNat / 64)
    let s := s.updL1 (coreOf h) (acquireLines p)
    let s := s.updCC (clusterOf h) (acquireLines p)
    s.acquireRlc (dieOfHart h) lines.contains

/-! ### own and disown (R130) -/

/-- Own a whole line at a scope. -/
def State.ownLine (s : State) (slot h : Nat) (scope : BitVec 2) (ln : Nat) (rid : BitVec 4) : State :=
  let c := coreOf h
  let k := clusterOf h
  let s := if scope = 0#2 then s else
    match (if scope = 1#2 then s.rlcKey (dieOfHart h) (ln * 64) else none) with
    | some key => s.takeFrom slot key ln 0xFFFF#16 (some h) 0xFFFF#16
    | none => (match s.rlcKey (dieOfHart h) (ln * 64) with
        | some key => s.takeFrom slot key ln 0xFFFF#16 (some h) 0xFFFF#16
        | none => s).takeFrom slot (s.homeKey (ln * 64)) ln 0xFFFF#16 (some h) 0xFFFF#16
  let s := s.updL1 c (acquireLines fun x => decide (x.line = ln))
  let s := if scope = 0#2 then s else s.updCC k (acquireLines fun x => decide (x.line = ln))
  let s := if scope.toNat < 2 then s else s.rlcDrop (dieOfHart h) ln 0xFFFF#16
  let s := s.l1Fill slot c ln rid 0xFFFF#16
  let s := s.revokeOthers h ln 0xFFFF#16
  let s := if scope = 0#2 then s else s.registerWords slot h scope ln 0xFFFF#16
  match s.l1Line c ln with
  | none => s
  | some l =>
    let s := s.ccOpen slot k ln rid
    let s := s.mapCC k ln fun x => { x with wv := 0xFFFF#16, wo := 0xFFFF#16, who := setWho x.who 0xFFFF#16 (whoCode h),
                                            data := l.data, psn := l.psn }
    s.mapL1 c ln fun x => { x with wo := 0xFFFF#16 }

/-- Give up the words of a line that a hart owns at a scope's point. -/
def State.disownLine (s : State) (slot h : Nat) (scope : BitVec 2) (ln : Nat) : State :=
  let c := coreOf h
  let k := clusterOf h
  let die := dieOfHart h
  let isH := fun (x : Nat) => decide (x = h)
  if scope = 0#2 then
    match s.ccLine k ln with
    | none => s
    | some l =>
      let m := (l.wo &&& l.whoMask fun w => decide (w = h % 16)) &&& ~~~ s.pointMask die ln isH
      if m = 0#16 then s
      else
        let d := (s.l1Line c ln).elim l.data fun x => mergeWords (m &&& x.wv) x.data l.data
        let s := s.mapCC k ln fun x => { x with wd := x.wd ||| m, wo := x.wo &&& ~~~m, data := d,
                                                who := setWho x.who m (BitVec.ofNat 4 (c % 8 * 2)) }
        s.mapL1 c ln fun x => { x with wd := x.wd &&& ~~~m, wo := x.wo &&& ~~~m }
  else
    let rlc := if scope = 1#2 then s.rlcKey die (ln * 64) else none
    let key := rlc.getD (s.homeKey (ln * 64))
    let m := (s.slice key).regMask ln h
    if m = 0#16 then s
    else
      let t := s.slice key
      let s := if rlc.isSome then s.deregister die ln m isH
        else s.setSlice key { t with regs := t.regs.filter fun e => !(decide (e.line = ln) && decide (e.hart = h)) }
      let (g, d, p) := s.ownerWords h ln m
      let s := if rlc.isSome then s.writeBack slot die ln g d p else s.writeHome slot ln g d p
      let l1 := s.l1Line c ln
      let s := s.mapCC k ln fun x => { x with wd := x.wd &&& ~~~m, wo := x.wo &&& ~~~m, data := (l1.elim x.data fun y => mergeWords (m &&& y.wv) y.data x.data) }
      s.mapL1 c ln fun x => { x with wd := x.wd &&& ~~~m, wo := x.wo &&& ~~~m }

/-- The lines of which a hart owns words somewhere. -/
def State.ownedLines (s : State) (h : Nat) : List Nat :=
  ((s.cluster (clusterOf h)).cc.filter fun l => l.wo &&& l.whoMask (fun w => decide (w = h % 16)) ≠ 0#16).map (·.line) ++
  (s.m.slices.flatMap fun t => (t.2.regs.filter fun e => decide (e.hart = h)).map (·.line))

/-- Give up every word a hart owns, at every point, as `disown` does (R148, spec/07 R192). -/
def State.disownAll (s : State) (h : Nat) : State :=
  let slot := keySlot (s.getHart h).ctx
  (s.ownedLines h).foldl (fun s ln =>
    ((s.disownLine slot h 0#2 ln).disownLine slot h 1#2 ln).disownLine slot h 2#2 ln) s

/-- Write the dirty region-0 words of a hart's core home (R148, R143): the lines selected. -/
def State.flushPrivate (s : State) (h : Nat) (p : Nat → Bool) : State :=
  let slot := keySlot (s.getHart h).ctx
  let c := coreOf h
  let k := clusterOf h
  let s := ((s.core c).l1d.filter fun l => decide (l.rid = 0#4) && p l.line).foldl (fun s l => s.l1Flush slot h l.line) s
  ((s.cluster k).cc.filter fun l => decide (l.rid = 0#4) && p l.line).foldl (fun s l =>
    let m := l.wd &&& l.whoMask fun w => decide (w / 2 = c % 8)
    (s.writeBack slot (k / 16) l.line m l.data l.psn).mapCC k l.line fun x => { x with wd := x.wd &&& ~~~m }) s

/-! ### Accesses at home -/

/-- Remove every registration of some words of a line: at home, then at the RLC slices of the package that hold any; with write-back of the
words of `wb` (R135, R142). -/
def State.takeAll (s : State) (slot ln : Nat) (m wb : BitVec 16) : State :=
  (List.range 8).foldl (fun s d =>
    match s.rlcKey d (ln * 64) with
    | some k => if ((s.slice k).ownersOf ln m).isEmpty then s else s.takeFrom slot k ln m none wb
    | none => s) (s.takeFrom slot (s.homeKey (ln * 64)) ln m none wb)

/-- The value of word `i` that a hart's core sends home before a far atomic: dirty in its L1D, else dirty in its cluster cache, else
owned in one of them; none where it holds no such value. -/
def State.pushValue (s : State) (h ln i : Nat) : Option (List Byte × Bool) :=
  let l1 := (s.l1Line (coreOf h) ln).filter fun l => bitAt l.wv i
  let cc := (s.ccLine (clusterOf h) ln).filter fun l => bitAt l.wv i
  let take := fun (l : CacheLine) => (wordOf l.data i, l.psn)
  ((l1.filter fun l => bitAt l.wd i).map take).orElse fun _ =>
    ((cc.filter fun l => bitAt l.wd i).map (s.ccWord (coreOf h) ln · i)).orElse fun _ =>
      ((l1.filter fun l => bitAt l.wo i).map take).orElse fun _ => (cc.filter fun l => bitAt l.wo i).map (s.ccWord (coreOf h) ln · i)
/-- A core's dirty values of some words go home, and the words leave its L1D and its cluster cache (R135, step 1). They leave the RLC line of
its die too (DESIGN CHOICE, unsafe: log entry 151). -/
def State.pushHome (s : State) (slot h ln : Nat) (m : BitVec 16) : State :=
  let c := coreOf h
  let k := clusterOf h
  let die := dieOfHart h
  let s := words16.foldl (fun s i =>
    if bitAt m i then
      match s.pushValue h ln i with
      | some (w, p) => s.writeBack slot die ln (bitMask i) (putWord (List.replicate 64 0#8) i w) p
      | none => s
    else s) s
  let s := s.revokeOthers h ln m
  ((s.mapL1 c ln (·.clear m)).mapCC k ln (·.clear m)).rlcDrop die ln m

/-- Read bytes of one line at home after every registration of their words has been revoked with write-back (R134, R135). -/
def State.homeTake (s : State) (slot pa n : Nat) : State × List Byte × Bool :=
  let ln := pa / 64
  let s := s.takeAll slot ln (wordMask (pa % 64) n) 0xFFFF#16
  let s := s.homeTouch slot ln 0#16
  (s, s.homeBytes slot pa n, s.isPoisoned ln)

/-- Write bytes of one line at home (R134, R135), firing watches (R137). -/
def State.homePut (s : State) (slot pa : Nat) (bs : List Byte) : State :=
  ((s.homeTouch slot (pa / 64) (wordMask (pa % 64) bs.length)).homeStore slot pa bs).fireWatches pa bs.length

/-- An engine or host read at the point: current values, forwarded from owners (R141, R114). -/
def State.engineRead (s : State) (slot die pa n : Nat) : List Byte × Bool :=
  let m := wordMask (pa % 64) n
  let ws := words16.map fun i => if bitAt m i then s.pointWord slot die (pa / 64) i else (List.replicate 4 0#8, false)
  (((ws.flatMap (·.1)).drop (pa % 64)).take n, ws.any (·.2))

/-- An engine or host write at home: earlier owners are revoked, with write-back for a word written in part, and the words are
left home-held (R142, R114). -/
def State.engineWrite (s : State) (slot pa : Nat) (bs : List Byte) : State :=
  let ln := pa / 64
  let m := wordMask (pa % 64) bs.length
  let part := words16.foldl (fun p i =>
    if bitAt m i && !(decide (pa % 64 ≤ 4 * i) && decide (4 * i + 4 ≤ pa % 64 + bs.length)) then p ||| bitMask i else p) 0#16
  (s.takeAll slot ln m part).homePut slot pa bs

/-- An engine write over several lines. -/
def State.engineWrites (s : State) (slot pa : Nat) (bs : List Byte) : State :=
  (List.range ((pa % 64 + bs.length + 63) / 64)).foldl (fun s i =>
    let lo := max pa ((pa / 64 + i) * 64)
    let hi := min (pa + bs.length) ((pa / 64 + i + 1) * 64)
    s.engineWrite slot lo ((bs.drop (lo - pa)).take (hi - lo))) s

/-- Bytes over several lines at home, forwarded from owners. -/
def State.engineReads (s : State) (slot die pa n : Nat) : List Byte × Bool :=
  (List.range ((pa % 64 + n + 63) / 64)).foldl (fun (r : List Byte × Bool) i =>
    let lo := max pa ((pa / 64 + i) * 64)
    let hi := min (pa + n) ((pa / 64 + i + 1) * 64)
    let (b, p) := s.engineRead slot die lo (hi - lo)
    (r.1 ++ b, r.2 || p)) ([], false)

end Sys2Proof.Machine
end

