-- ==== Sys2Proof/Machine/Events.lean ====
section
/-! DEFINITION. Events to the host (spec/09 R257 to R260). -/
namespace Sys2Proof.Machine
set_option Elab.async false

/-- The I/O die that serves a compute die (spec/00 R3). -/
def iodOf (die : Nat) : Nat := if die % 4 < 2 then 0 else 1
/-- The I/O die of an event source: compute dies 0 to 7, I/O dies 8 and 9. -/
def iodOfSource (src : Nat) : Nat := if src < 8 then iodOf src else src - 8

def State.evQueue (s : State) (i : Nat) : EvQueue := s.disp.evq.get .reset i
def State.setEvQueue (s : State) (i : Nat) (q : EvQueue) : State := s.updDisp fun d => { d with evq := d.evq.set i q }
def State.evSource (s : State) (k : Nat) : EvSource := s.disp.evs.get .reset k
def State.setEvSource (s : State) (k : Nat) (q : EvSource) : State := s.updDisp fun d => { d with evs := d.evs.set k q }

/-- The queue is full at 4,096 records (R259). -/
def EvQueue.full (q : EvQueue) : Bool := q.tail - q.head == 4096#64

/-- A record enters an I/O die's queue; MSI-X vector 0 is sent where TAIL passes HEAD and IRQ is 1 (R259). -/
def EvQueue.put (q : EvQueue) (e : EvRec) : EvQueue :=
  { q with tail := q.tail + 1#64, entries := q.entries.set (q.tail.toNat % 4096) e,
           msi := if q.irq && q.tail == q.head then q.msi + 1 else q.msi }

/-- Two records coalesce (R260). -/
def EvRec.same (a b : EvRec) : Bool :=
  a.kind == b.kind && a.die == b.die && a.srcio == b.srcio && a.detail == b.detail && a.ctxid == b.ctxid

def EvRec.more (a : EvRec) : EvRec := { a with count := if a.count == 0xFFFF#16 then a.count else a.count + 1#16 }

/-- A record still in a source's hold or spill page takes up another occurrence (R260). -/
def EvSource.joins (e : EvSource) (r : EvRec) : Bool := e.hold.any (r.same ·) || e.spill.any (r.same ·)
def EvSource.join (e : EvSource) (r : EvRec) : EvSource :=
  let more := fun (x : EvRec) => if r.same x then x.more else x
  if e.hold.any (r.same ·) then { e with hold := e.hold.map more } else { e with spill := e.spill.map more }

/-- The 64 KiB spill page holds 2,048 records of 32 bytes (R257, R260). -/
def EvSource.pageFull (e : EvSource) : Bool := decide (2048 ≤ e.spill.length)

/-- Events that wait at their sources are raised, in order, while the spill page has room. -/
def EvSource.letIn : List EvRec → EvSource → EvSource
  | [], e => { e with waiting := [] }
  | r :: l, e =>
    if e.joins r then EvSource.letIn l (e.join r)
    else if e.pageFull then { e with waiting := r :: l }
    else EvSource.letIn l { e with spill := e.spill ++ [{ r with seq := e.seq }], seq := e.seq + 1#32 }

/-- A hart stopped by the event that a record stands for, once its launch has ended (R241, R260). -/
def Hart.stoppedBy (h : Hart) (src : Nat) (r : EvRec) : Bool :=
  h.phase == .stopped src && h.launch.isNone && r.kind == 1#8 && h.ctxid == r.ctxid && h.trap.trpc == r.detail

/-- What a launch waits for has been freed: the placement engine chooses again (spec/08 R218). -/
def State.placeAgain (s : State) : State := if s.inbox.any (·.1 == .placementChoice) then s else s.after [(.placementChoice, {})]

/-- The event of stopped harts is accepted: they stay stopped no longer, placed or saved, and their places are free (R260, R261). -/
def State.freeStopped (s : State) (src : Nat) (r : EvRec) : State :=
  let hs := s.hartIds.filter fun h => (s.getHart h).stoppedBy src r
  let s := s.updDisp fun d => { d with saved := d.saved.map fun x => (x.1, { x.2 with harts := x.2.harts.filter fun y => !y.hart.stoppedBy src r }) }
  if hs.isEmpty then s else (hs.foldl (fun s h => s.updHartN h fun x => { x with phase := .idle }) s).placeAgain

/-- Move records from a source's hold to its queue, from its spill page to its hold, and raise those that wait, in order (R260): one of
each. -/
def State.eventAccept (s : State) (src : Nat) : State :=
  let iod := iodOfSource src
  let q := s.evQueue iod
  let e := s.evSource src
  match e.hold with
  | [] => s
  | r :: rest =>
    if q.full || s.dieHeld (8 + iod) then s
    else
      let s := (s.setEvQueue iod (q.put r)).freeStopped src r
      match e.spill with
      | [] => s.setEvSource src { e with hold := rest }
      | p :: ps => s.setEvSource src (EvSource.letIn e.waiting { e with hold := rest ++ [p], spill := ps })

/-- A source takes a new record: into the hold, into the spill page, or, where that is full, it waits (R260). -/
def EvSource.take (e : EvSource) (r : EvRec) : EvSource :=
  if e.joins r then e.join r
  else if e.hold.length < 16 then { e with seq := e.seq + 1#32, hold := e.hold ++ [r] }
  else if e.pageFull then { e with waiting := e.waiting ++ [r] }
  else { e with seq := e.seq + 1#32, spill := e.spill ++ [r] }

/-- Raise an event at a source (R260). -/
def State.postEvent (s : State) (src : Nat) (kind : BitVec 8) (detail : Word) (ctxid : BitVec 16) (fofs : BitVec 8)
    (hart : BitVec 27) : State :=
  let e := s.evSource src
  let r : EvRec :=
    { count := 1#16, die := if src < 8 then BitVec.ofNat 3 src else 0#3, srcio := decide (8 ≤ src), kind, seq := e.seq, detail,
      time := BitVec.ofNat 64 s.time, ctxid, fofs, hart }
  let q := s.evQueue (iodOfSource src)
  if e.hold.isEmpty && !q.full && !s.dieHeld (8 + iodOfSource src) then (s.setEvSource src { e with seq := e.seq + 1#32 }).setEvQueue (iodOfSource src) (q.put r)
  else s.setEvSource src (e.take r)

/-- The event of a lasting fault of a port or an on-chip array, raised at a source (spec/21 R475). R258 lists no kind for it: its KIND and DETAIL
are free values (DESIGN CHOICE, safe: log entry 161). -/
def State.lastingEvent (s : State) (src : Nat) : State :=
  ({ s with free := s.free + 2 } : State).postEvent src ((Config.freeWord s.free).setWidth 8) (Config.freeWord (s.free + 1)) 0#16 0#8 0#27

/-- An event of a source has not been accepted yet. -/
def State.eventHeld (s : State) (src : Nat) (p : EvRec → Bool) : Bool :=
  let e := s.evSource src
  e.hold.any p || e.spill.any p || e.waiting.any p

/-- A hart that has stopped waits for its event to be accepted (R260). -/
def State.awaitsEvent (s : State) (h : Nat) : Bool :=
  match (s.getHart h).phase with
  | .stopped src => s.eventHeld src fun r => r.kind == 1#8 && r.ctxid == (s.getHart h).ctxid && r.detail == (s.getHart h).trap.trpc
  | _ => false

/-- HARTID of a physical hart (spec/07 R180). -/
def State.hartidOf (s : State) (h : Nat) : BitVec 21 := s.fab.dev ++ BitVec.ofNat 11 h

/-- A die records a lasting fault of a line (spec/02 R62): the poison marker, LAST, HCPOIS and the event. -/
def State.lastingFault (s : State) (pa : Nat) : State :=
  let la := laOf pa
  let key := dieOf la * 32 + channelOf la
  let c := s.channel key
  let s := s.setChannel key { c with last := if c.last == 0xFFFFF#20 then c.last else c.last + 1#20, poisValid := true,
                                     poisLine := BitVec.ofNat 36 (la / 64) }
  (s.addPoison (pa / 64)).postEvent (dieOf la) 2#8 (BitVec.ofNat 64 (la / 64 * 64)) 0#16 0#8 0#27

end Sys2Proof.Machine
end

