-- ==== Sys2Proof/Machine/Translate.lean ====
section
/-! DEFINITION. Translation (spec/01 R18 to R44): the walk, the translation structures, the fault list, and the check of a
target (R21, R22, R24, R25). -/
namespace Sys2Proof.Machine
set_option Elab.async false

/-- The kind of an access (R28). -/
inductive Acc where
  | load | store | rmw | fetch
  deriving DecidableEq, Repr

/-- ACC of a fault-list entry (R42). -/
def Acc.code : Acc → BitVec 2
  | .load => 0#2 | .store => 1#2 | .fetch => 2#2 | .rmw => 3#2
def Acc.reads : Acc → Bool
  | .load => true | .rmw => true | _ => false
def Acc.writes : Acc → Bool
  | .store => true | .rmw => true | _ => false

/-! The fields of a leaf's attributes (R27). -/
def Attr.r (a : Attr) : Bool := a.getLsbD 0
def Attr.w (a : Attr) : Bool := a.getLsbD 1
def Attr.x (a : Attr) : Bool := a.getLsbD 2
def Attr.u (a : Attr) : Bool := a.getLsbD 3
def Attr.g (a : Attr) : Bool := a.getLsbD 4
def Attr.a (a : Attr) : Bool := a.getLsbD 5
def Attr.d (a : Attr) : Bool := a.getLsbD 6
def Attr.rid (a : Attr) : BitVec 4 := a.extractLsb' 7 4
def Attr.hs (a : Attr) : Bool := a.getLsbD 11
def Attr.sy (a : Attr) : Bool := a.getLsbD 12

/-! The reasons of R43. -/
def rsNotValid : BitVec 4 := 1#4
def rsNoRead : BitVec 4 := 2#4
def rsNoWrite : BitVec 4 := 3#4
def rsNoExec : BitVec 4 := 4#4
def rsPriv : BitVec 4 := 5#4
def rsMalformed : BitVec 4 := 6#4
def rsTable : BitVec 4 := 7#4
def rsNonCanon : BitVec 4 := 8#4

/-- Bits [63:48] are copies of bit 47 (R18). -/
def canonical (va : Word) : Bool := va.extractLsb' 47 17 == 0#17 || va.extractLsb' 47 17 == 0x1FFFF#17

/-- Who translates: the context tag and key slot, SPTB and the privilege. -/
structure Walker where
  ctx : BitVec 16
  slot : Nat
  sptb : Word
  sup : Bool
  iod : Nat
  deriving DecidableEq, Repr

def State.walkerOf (s : State) (h : Nat) : Walker :=
  let x := s.getHart h
  { ctx := x.ctxid, slot := keySlot x.ctx, sptb := x.sregs.sptb, sup := x.sup, iod := iodOf (dieOfHart h) }

/-- The bytes a leaf of a level maps (R28). -/
def pageSize (level : Nat) : Nat := 2 ^ (12 + 9 * level)

/-- A range of physical addresses lies inside a live entry's text range for a slot (R31, spec/21 R473). -/
def State.verified (s : State) (slot pa n : Nat) : Bool :=
  s.trust.objects.any fun o => o.2.live && decide (keySlot o.2.slot = slot) && decide (o.2.textPa ≤ pa) && decide (pa + n ≤ o.2.textPa + o.2.size)

/-- The outcome of a walk: a leaf, or a reason with the level at which it stopped. -/
inductive WalkResult where
  | leaf (e : TlbEntry)
  | fault (reason : BitVec 4) (level : Nat)
  deriving DecidableEq, Repr

/-- The checks of a leaf in the order of R28; none where it passes. -/
def leafFault (s : State) (w : Walker) (acc : Acc) (va : Word) (level : Nat) (pte : Word) : Option (BitVec 4) :=
  let pa := (pte.extractLsb' 16 40).toNat * 4096 + va.toNat % pageSize level
  let at' : Attr := pte.extractLsb' 1 13
  let base := (pte.extractLsb' 16 40).toNat * 4096
  if level = 3 then some rsMalformed
  else if level = 2 ∧ pte.extractLsb' 16 18 ≠ 0#18 then some rsMalformed
  else if level = 1 ∧ pte.extractLsb' 16 9 ≠ 0#9 then some rsMalformed
  else if at'.w && !at'.r then some rsMalformed
  else if at'.w && at'.x then some rsMalformed
  else if at'.hs && at'.rid == 0#4 then some rsMalformed
  else if at'.sy && at'.x then some rsMalformed
  else if !isHbm (laOf pa) && (at'.x || at'.hs || at'.sy || at'.rid != 0#4) then some rsMalformed
  else if !w.sup && !at'.u then some rsPriv
  else if w.sup && acc == .fetch && at'.u then some rsPriv
  else if acc.reads && !at'.r then some rsNoRead
  else if acc.writes && !at'.w then some rsNoWrite
  else if acc == .fetch && !(at'.x && s.verified w.slot base (pageSize level)) then some rsNoExec
  else none

/-- Read a table entry at its home slice, forwarded from an owner (R28, R29), through the walk cache for pointers (R35). The bytes of a
poisoned line are taken as clean (DESIGN CHOICE, unsafe: log entry 124). -/
def State.readPte (s : State) (w : Walker) (pa : Nat) : Word :=
  BitVec.ofNat 64 (leNat (s.engineRead w.slot (dieOf (laOf pa)) pa 8).1)

def State.walkCached (s : State) (w : Walker) (level table : Nat) (ix : BitVec 9) : Option (BitVec 40) :=
  ((s.m.walkCache.get [] w.iod).find? fun e =>
    decide (e.ctx = w.ctx) && decide (e.level = level) && decide (e.table = table) && decide (e.index = ix)).map (·.next)

/-- Keep a pointer entry in the walk cache of an I/O die: 2,048 entries in 256 sets of 8 ways. -/
def State.walkInstall (s : State) (iod : Nat) (e : WalkEntry) : State :=
  let set := fun (x : WalkEntry) => (x.table / 4096 + x.index.toNat) % 256
  let l := e :: (s.m.walkCache.get [] iod).filter (· ≠ e)
  s.updMem fun m => { m with walkCache := m.walkCache.set iod (keepFirst (fun x => decide (set x = set e)) 8 l) }

/-- The walk from a table at a level (R28), with the A and D update of R30, which protected text refuses (spec/21 R473; the walk goes on,
DESIGN CHOICE, unsafe: log entry 154). -/
def State.walk (s : State) (w : Walker) (acc : Acc) (va : Word) : Nat → Nat → State × WalkResult
  | fuel, table =>
    let level := fuel
    if !(decide (devOf table = s.fab.dev.toNat) && isHbm (laOf table)) then (s, .fault rsTable level)
    else
      let ix : BitVec 9 := (va >>> (12 + 9 * level)).setWidth 9
      match fuel, (if level = 0 then none else s.walkCached w level table ix) with
      | fuel + 1, some next => State.walk s w acc va fuel (next.toNat * 4096)
      | fuel, _ =>
        let pa := table + 8 * ix.toNat
        let pte := s.readPte w pa
        if !pte.getLsbD 0 then (s, .fault rsNotValid level)
        else if pte.extractLsb' 56 8 ≠ 0#8 ∨ pte.extractLsb' 14 2 ≠ 0#2 then (s, .fault rsMalformed level)
        else if pte.extractLsb' 1 3 = 0#3 then
          if pte.extractLsb' 4 10 ≠ 0#10 then (s, .fault rsMalformed level)
          else
            match fuel with
            | 0 => (s, .fault rsMalformed level)
            | fuel + 1 =>
              let next := pte.extractLsb' 16 40
              State.walk (s.walkInstall w.iod { ctx := w.ctx, level, table, index := ix, next }) w acc va fuel (next.toNat * 4096)
        else
          match leafFault s w acc va level pte with
          | some r => (s, .fault r level)
          | none =>
            let set : Word := if acc.writes then 0xC0#64 else 0x40#64
            let new := pte ||| set
            let s := if new = pte || s.isProtected pa 8 then s else
              ((s.homeTake w.slot pa 8).1).homePut w.slot pa (toBytes 8 new.toNat)
            (s, .leaf { vpn := (va.extractLsb' 12 52) >>> (9 * level) <<< (9 * level), level, ppn := new.extractLsb' 16 40,
                        attr := new.extractLsb' 1 13, ctx := w.ctx })

/-- A cached leaf serves an address of a context (R36). -/
def TlbEntry.hits (e : TlbEntry) (ctx : BitVec 16) (va : Word) : Bool :=
  (e.ctx == ctx || e.attr.g) && e.vpn == ((va.extractLsb' 12 52) >>> (9 * e.level) <<< (9 * e.level))

/-- A cached leaf admits an access without a walk; a store through a leaf with D = 0 walks again (R30), and so does any access that the leaf
refuses (DEDUCED, unsafe: log entry 122). -/
def TlbEntry.admits (e : TlbEntry) (sup : Bool) (acc : Acc) : Bool :=
  (if sup then !(acc == .fetch && e.attr.u) else e.attr.u) && (!acc.reads || e.attr.r) && (!acc.writes || (e.attr.w && e.attr.d)) &&
  (!(acc == .fetch) || e.attr.x)

/-- The address a leaf gives. -/
def TlbEntry.pa (e : TlbEntry) (va : Word) : Nat := e.ppn.toNat * 4096 + va.toNat % pageSize e.level

/-- Which first-level structure a translation uses (R35). -/
inductive TlbKind where
  | instr | data | vector | sequencer
  deriving DecidableEq, Repr

def State.tlbOf (s : State) (h : Nat) : TlbKind → List TlbEntry
  | .instr => (s.core (coreOf h)).itlb
  | .data => (s.core (coreOf h)).dtlb
  | .vector => (s.cluster (clusterOf h)).pre
  | .sequencer => s.m.seqTlb.get [] h

/-- Put a leaf in front of a structure of `n` entries, in place of one for the same page and tag. -/
def tlbPut (e : TlbEntry) (n : Nat) (l : List TlbEntry) : List TlbEntry :=
  (e :: l.filter fun x => !(x.vpn == e.vpn && x.level == e.level && x.ctx == e.ctx)).take n

/-- The same for the pre-translator: 256 sets of 16 ways, by the low bits of the page number; a set gives up its own least recently used
entry. -/
def prePut (e : TlbEntry) (l : List TlbEntry) : List TlbEntry :=
  let set := fun (x : TlbEntry) => (x.vpn.toNat / 2 ^ (9 * x.level)) % 256
  keepFirst (fun x => decide (set x = set e)) 16 (tlbPut e (l.length + 1) l)

/-- Install a leaf for a hart: in its cluster's pre-translator, and in the core's TLB for scalar accesses (R35). -/
def State.tlbInstall (s : State) (h : Nat) (k : TlbKind) (e : TlbEntry) : State :=
  let c := coreOf h
  match k with
  | .sequencer => s.updMem fun m => { m with seqTlb := m.seqTlb.set h (tlbPut e 64 (m.seqTlb.get [] h)) }
  | _ =>
    let cl := s.cluster (clusterOf h)
    let s := s.setCluster (clusterOf h) { cl with pre := prePut e cl.pre }
    let co := s.core c
    match k with
    | .instr => s.setCore c { co with itlb := tlbPut e 32 co.itlb }
    | .data => s.setCore c { co with dtlb := tlbPut e 64 co.dtlb }
    | _ => s

/-- The page of a leaf lies inside a verified object of the context that walked it, so that its X bit is honoured (R31): the pre-translator
may hold it from a data access. -/
def State.fetchable (s : State) (e : TlbEntry) : Bool :=
  s.verified (keySlot (e.ctx.setWidth 3)) (e.ppn.toNat * 4096) (pageSize e.level)
/-- Translate for a walker: the structures first, then a walk (R28, R35, R36). For the sequencer, `h` names the I/O die. -/
def State.lookup (s : State) (w : Walker) (h : Nat) (k : TlbKind) (acc : Acc) (va : Word) : State × WalkResult :=
  if !canonical va then (s, .fault rsNonCanon 3)
  else if !w.sptb.getLsbD 63 then (s, .fault rsTable 3)
  else
    let ok := fun (e : TlbEntry) => e.hits w.ctx va && e.admits w.sup acc
    match (s.tlbOf h k).find? ok with
    | some e => (if k = .vector then s.tlbInstall h k e else s, .leaf e)
    | none =>
      match (if k = .sequencer then none else (s.tlbOf h .vector).find? fun e => ok e && (acc ≠ .fetch || s.fetchable e)) with
      | some e => (s.tlbInstall h k e, .leaf e)
      | none =>
        match s.walk w acc va 3 ((w.sptb.extractLsb' 16 40).toNat * 4096) with
        | (s, .leaf e) => (s.tlbInstall h k e, .leaf e)
        | r => r

/-- A walk from a table at a level meets an entry whose line makes it wait below the caches (R28, spec/02 R52 to R65, spec/21 R477). -/
def State.walkStuck (s : State) (w : Walker) (va : Word) : Nat → Nat → Bool
  | fuel, table =>
    let level := fuel
    if !(decide (devOf table = s.fab.dev.toNat) && isHbm (laOf table)) then false
    else
      let ix : BitVec 9 := (va >>> (12 + 9 * level)).setWidth 9
      match fuel, (if level = 0 then none else s.walkCached w level table ix) with
      | fuel + 1, some next => State.walkStuck s w va fuel (next.toNat * 4096)
      | fuel, _ =>
        let pa := table + 8 * ix.toNat
        let pte := s.readPte w pa
        s.homeWaits w.slot (dieOf (laOf pa)) pa ||
        match fuel with
        | 0 => false
        | fuel + 1 =>
          pte.getLsbD 0 && pte.extractLsb' 1 3 == 0#3 && State.walkStuck s w va fuel ((pte.extractLsb' 16 40).toNat * 4096)
/-- No structure holds a leaf that serves an access: it needs a walk. -/
def State.needsWalk (s : State) (w : Walker) (h : Nat) (k : TlbKind) (acc : Acc) (va : Word) : Bool :=
  let ok := fun (e : TlbEntry) => e.hits w.ctx va && e.admits w.sup acc
  canonical va && w.sptb.getLsbD 63 && !(s.tlbOf h k).any ok &&
    (k == .sequencer || !((s.tlbOf h .vector).any fun e => ok e && (acc ≠ .fetch || s.fetchable e)))
/-- A walk for an address waits: the I/O die whose walkers would serve it is held in reset (spec/21 R477), or an entry's line waits. -/
def State.walkWaits (s : State) (w : Walker) (va : Word) : Bool :=
  s.dieHeld (8 + w.iod) || s.walkStuck w va 3 ((w.sptb.extractLsb' 16 40).toNat * 4096)
/-- A translation needs a walk that waits. -/
def State.walkHeld (s : State) (w : Walker) (h : Nat) (k : TlbKind) (acc : Acc) (va : Word) : Bool :=
  s.needsWalk w h k acc va && s.walkWaits w va

/-! ### The fault list (R41, R42) -/

/-- A faulting page: the first faulting address on it, the level, the reason, and its row and element. -/
structure PageFault where
  va : Word
  level : Nat
  reason : BitVec 4
  row : Nat
  elem : Nat
  deriving DecidableEq, Repr

/-- The two words of a fault-list entry (R42). -/
def PageFault.words (p : PageFault) (acc : Acc) : Word × Word :=
  ((p.va &&& ~~~0xFFF#64) ||| BitVec.ofNat 64 (p.level % 4 * 64) ||| (acc.code.zeroExtend 64 <<< 4) ||| p.reason.zeroExtend 64,
   BitVec.ofNat 64 (p.row % 65536 * 65536 + p.elem % 65536))

/-- Set SFPN.COUNT and write the entries through the hart's L1D as region-0 words (R41). -/
def State.recordFaults (s : State) (acc : Acc) (l : List PageFault) : State :=
  let s := s.updSup fun r => { r with sfpn := BitVec.ofNat 7 l.length }
  let sfpa := s.hart.sregs.sfpa
  let base := (sfpa.extractLsb' 10 42).toNat * 1024
  if sfpa.getLsbD 0 && decide (devOf base = s.fab.dev.toNat) && isHbm (laOf base) then
    (l.zipIdx).foldl (fun s p =>
      let (w0, w1) := p.1.words acc
      let slot := keySlot s.hart.ctx
      let s := s.l1Write slot (coreOf s.cur) (base + 16 * p.2) 0#4 (toBytes 8 w0.toNat)
      s.l1Write slot (coreOf s.cur) (base + 16 * p.2 + 8) 0#4 (toBytes 8 w1.toNat)) s
  else s

/-- Translate a scalar access or a fetch of the executing hart; a fault is recorded and raised (R26, R44). -/
def translate (k : TlbKind) (acc : Acc) (va : Word) : M (Nat × Attr) := do
  let s ← get
  if acc ≠ .fetch ∧ canonical va = true ∧ s.hart.sregs.sptb.getLsbD 63 = false then raise tcAccessFault va
  else if s.walkHeld (s.walkerOf s.cur) s.cur k acc va then stall
  else
    match s.lookup (s.walkerOf s.cur) s.cur k acc va with
    | (s, .leaf e) =>
      set s
      return (e.pa va, e.attr)
    | (s, .fault r l) =>
      set (s.recordFaults acc [{ va, level := l, reason := r, row := 0, elem := 0 }])
      raise (if acc = .fetch then tcFetchFault else tcPageFault) va

/-! ### The target of a physical address (R21, R22, R24, R25) -/

/-- Where an access is performed. -/
inductive Target where
  | hbm
  | plate (p ofs : Nat)
  | window
  | control (la : Nat)
  | mailbox (ofs : Nat)
  | refused
  deriving DecidableEq, Repr

/-- The grant of a hart contains bytes of a cluster's storage (R23, R25). -/
def Hart.grants (h : Hart) (ctx : BitVec 3) (k : LaKind) (n : Nat) : Bool :=
  h.phase ≠ .idle && h.ctx == ctx &&
  match k with
  | .vreg _ o => decide (h.grant.voff.toNat * 1024 ≤ o) && decide (o + n ≤ (h.grant.voff.toNat + h.grant.vsz.toNat) * 1024)
  | .tile _ o => decide (h.grant.tbase.toNat * 0x4000 ≤ o) && decide (o + n ≤ (h.grant.tbase.toNat + h.grant.tcnt.toNat) * 0x4000)
  | .acc _ o => decide (h.grant.abase.toNat * 0x8000 ≤ o) && decide (o + n ≤ (h.grant.abase.toNat + h.grant.acnt.toNat) * 0x8000)
  | _ => false

/-- Storage of a cluster lies in the grant of one of a context's harts (R25). -/
def State.granted (s : State) (ctx : BitVec 3) (cluster : Nat) (k : LaKind) (n : Nat) : Bool :=
  (List.range 16).any fun i => (s.getHart (cluster * 16 + i)).grants ctx k n

/-- A plate belongs to a context (R25). -/
def Plate.belongs (p : Plate) (ctx : BitVec 3) : Bool := p.attach ≠ 0#2 && p.ctx == ctx

/-- The bit of MEMBERk for a device (R109). -/
def State.isMember (s : State) (dev : Nat) : Bool := (s.fab.members.get 0#64 (dev / 64)).getLsbD (dev % 64)
/-- A remote device is a member and holds the context's tag (R21). -/
def State.remoteOk (s : State) (ctx : BitVec 3) (dev : Nat) : Bool :=
  s.isMember dev && s.fab.remoteCtxs.any fun r => decide (r.dev = dev) && r.tag == (s.ctx ctx.toNat).dtag

/-- The target of an access of `n` bytes by a context in a privilege, after translation. -/
def State.target (s : State) (ctx : BitVec 3) (sup : Bool) (pa n : Nat) : Target :=
  if devOf pa ≠ s.fab.dev.toNat then
    if isHbm (laOf pa) && s.remoteOk ctx (devOf pa) then .hbm else .refused
  else
    match laKind (laOf pa) with
    | .hbm => .hbm
    | .plate d p o => if (s.plate (d * 128 + p)).belongs ctx then .plate (d * 128 + p) o else .refused
    | .vreg c o => if s.granted ctx c (.vreg c o) n then .window else .refused
    | .tile c o => if s.granted ctx c (.tile c o) n then .window else .refused
    | .acc c o => if s.granted ctx c (.acc c o) n then .window else .refused
    | .control => if sup then .control (laOf pa) else .refused
    | .mailbox => if sup then .mailbox (laOf pa - 0x3F000000000) else .refused
    | .reserved => .refused

/-! ### The plate window (spec/03 R83, R85) -/

/-- The window is enabled and holds the address (R20). -/
def inPlateWindow (pwb va : Word) : Bool := pwb.getLsbD 0 && canonical va && va.extractLsb' 23 25 == pwb.extractLsb' 23 25

/-- Slot and offset within its plate (R85). -/
def plateSlotOf (va : Word) : BitVec 4 := va.extractLsb' 19 4
def plateOfs (va : Word) : Nat := (va.extractLsb' 0 19).toNat

/-- Loads and reads are admitted only in READY; stores in EMPTY and READY (R82). -/
def Plate.admits (p : Plate) (write : Bool) : Bool := p.state == 2#2 || (write && p.state == 0#2)

/-! ### The sequencer's view of a context (spec/08 R212, R215) -/

/-- A dispatch block's queue table and page tables, on the device that holds them (spec/08 R212, R215). -/
structure QueueView where
  dev : Nat
  /-- The key slot, the CTXID and the I/O die that walks. -/
  slot : Nat
  ctx : BitVec 16
  iod : Nat
  qtab : Word
  ptb : Word
  deriving DecidableEq, Repr

/-- The view of a resident slot of this device; queues 0 to 31 are IOD0's, 32 to 63 IOD1's (spec/08 R217). -/
def State.queueView (s : State) (n q : Nat) : QueueView :=
  let c := s.ctx n
  { dev := s.fab.dev.toNat, slot := n + 1, ctx := c.gen ++ BitVec.ofNat 3 n, iod := q / 32 % 2, qtab := c.table, ptb := c.ptb }

/-- The sequencer's translation of a VA as a read: physical address and attributes. A walk of another device's tables leaves this
device as it was. -/
def State.seqTranslate (s : State) (v : QueueView) (va : Word) : State × Option (Nat × Attr) :=
  let w : Walker := { ctx := v.ctx, slot := v.slot, sptb := v.ptb, sup := true, iod := v.iod }
  if v.dev = s.fab.dev.toNat then
    match s.lookup w v.iod .sequencer .load va with
    | (s, .leaf e) => (s, some (e.pa va, e.attr))
    | (s, .fault ..) => (s, none)
  else
    let t := s.updFab fun f => { f with dev := BitVec.ofNat 10 v.dev }
    if !canonical va || !v.ptb.getLsbD 63 then (s, none)
    else
      match (t.walk { w with iod := 2 } .load va 3 ((v.ptb.extractLsb' 16 40).toNat * 4096)).2 with
      | .leaf e => (s, some (e.pa va, e.attr))
      | .fault .. => (s, none)

/-- The same where the page must be HBM of the view's device. -/
def State.seqHbm (s : State) (v : QueueView) (va : Word) : State × Option (Nat × Attr) :=
  match s.seqTranslate v va with
  | (s, some (pa, attr)) => (s, if isHbm (laOf pa) && decide (devOf pa = v.dev) then some (pa, attr) else none)
  | r => r

end Sys2Proof.Machine
end

