-- ==== Sys2Proof/Machine/Control.lean ====
section
/-! DEFINITION. Control space and the trust-die mailbox as registers (spec/02 R55, spec/04 R108 to R116, spec/08 R212, R228,
spec/09 R259, spec/21 R467). A command written to a register is a step of the unit that takes it, put into the inbox. -/
namespace Sys2Proof.Machine
set_option Elab.async false

/-- A one-bit field. -/
def bit1 (b : Bool) : Word := if b then 1#64 else 0#64

/-! ### HBM control blocks (R55) -/

/-- The rate that a channel is to run at: the slower of CEIL and LIMIT (R54). -/
def Channel.wanted (c : Channel) : BitVec 2 := if c.ceil < c.limit then c.limit else c.ceil

/-- OWED: the largest count of postponed refreshes over the channel's banks. -/
def Channel.owedMax (c : Channel) : Nat := c.banks.foldl (fun m b => max m b.2.owed) 0

def chanDie (key : Nat) : DieId := BitVec.ofNat 3 (key / 32)
def chanCh (key : Nat) : BitVec 5 := BitVec.ofNat 5 key

/-- A rate switch follows a change of CEIL or LIMIT that changes the wanted rate, unless one is in progress (R54, R57). -/
def State.rateCheck (s : State) (key : Nat) : State :=
  let c := s.channel key
  if c.wanted ≠ c.cur ∧ c.busy = false then s.after [(.rateSwitch, { die := chanDie key, chan := chanCh key })] else s

/-- A write of HCRATE.CEIL: 3 leaves the field unchanged (R55). -/
def State.ceilWrite (s : State) (key : Nat) (v : BitVec 2) : State :=
  if v = 3#2 then s else (s.setChannel key { s.channel key with ceil := v }).rateCheck key

def Channel.read (c : Channel) (ofs : Nat) : Word :=
  if ofs = 0x00 then (c.cur.zeroExtend 64 <<< 24) ||| (bit1 c.busy <<< 16) ||| (c.limit.zeroExtend 64 <<< 8) ||| c.ceil.zeroExtend 64
  else if ofs = 0x08 then (c.last.zeroExtend 64 <<< 40) ||| (c.trans.zeroExtend 64 <<< 20) ||| c.corr.zeroExtend 64
  else if ofs = 0x10 then (bit1 c.poisValid <<< 63) ||| (c.poisLine.zeroExtend 64 <<< 6)
  else if ofs = 0x18 then (c.alerts.zeroExtend 64 <<< 32) ||| BitVec.ofNat 64 c.owedMax
  else 0#64

/-- A write of a register: `v` is the register's new value, `w1` the bits written as 1. -/
def State.chanWrite (s : State) (key ofs : Nat) (v w1 : Word) : State :=
  let c := s.channel key
  if ofs = 0x00 then s.ceilWrite key (v.extractLsb' 0 2)
  else if ofs = 0x08 then s.setChannel key { c with last := v.extractLsb' 40 20, trans := v.extractLsb' 20 20, corr := v.extractLsb' 0 20 }
  else if ofs = 0x10 then s.setChannel key { c with poisValid := c.poisValid && !w1.getLsbD 63 }
  else if ofs = 0x18 then s.setChannel key { c with alerts := v.extractLsb' 32 32 }
  else s

/-! ### Apertures (spec/04 R113) -/

def Aperture.enabled (a : Aperture) : Bool := a.size ≠ 0#64 && a.key ≠ 0#4
def Aperture.dev (a : Aperture) : Nat := devOf a.tgt.toNat

/-- The devices that the enabled apertures name. -/
def apertureDevs (l : SMap Aperture) : List Nat := ((l.filter fun a => a.2.enabled).map fun a => a.2.dev).eraseDups

/-- The conditions of R113 on aperture `n` with its registers as given. They judge an aperture that is enabled: with KEY 0 or SIZE 0 it is
disabled, and the write is accepted whatever its target (DESIGN CHOICE, unsafe: log entry 155). -/
def State.apertureOk (s : State) (n : Nat) (a : Aperture) : Bool :=
  decide (a.key.toNat < 9) &&
  (!a.enabled ||
    (isHbm (laOf a.tgt.toNat) && decide (laOf a.tgt.toNat + a.size.toNat ≤ 0x8000000000) &&
     s.isMember a.dev &&
     (s.fab.apertures.all fun b => decide (b.1 = n) || !b.2.enabled ||
        decide (b.2.base.toNat + b.2.size.toNat ≤ a.base.toNat) || decide (a.base.toNat + a.size.toNat ≤ b.2.base.toNat)) &&
     decide ((apertureDevs (s.fab.apertures.set n a)).length ≤ 16)))

/-- A write of HAPCTLa: a refused one changes no field but ERR. -/
def State.hapctlWrite (s : State) (n : Nat) (v w1 : Word) : State :=
  let a := s.fab.apertures.get .reset n
  let b := { a with err := a.err && !w1.getLsbD 7, sync := v.getLsbD 4, key := v.extractLsb' 0 4 }
  s.updFab fun f => { f with apertures := f.apertures.set n (if s.apertureOk n b then b else { a with err := true }) }

/-! ### Dispatch blocks (spec/08 R212) -/

/-- The launches that run for a slot. -/
def State.runCount (s : State) (n : Nat) : Nat := (s.disp.launches.filter fun l => decide (l.2.slot.toNat = n)).length

/-- The harts placed for a slot. -/
def State.placedHarts (s : State) (n : Nat) : List Nat :=
  s.hartIds.filter fun h => (s.getHart h).phase ≠ .idle && decide ((s.getHart h).ctx.toNat = n)

def Ctx.dies (c : Ctx) : List Nat := (List.range 8).filter fun d => c.dgrant.getLsbD d
def Ctx.plates (c : Ctx) : Nat := (c.dgrant.extractLsb' 8 8).toNat

/-- The save-area size that a context needs by its grants as they stand, in 2 MiB units (R212). -/
def State.needOf (s : State) (n : Nat) : Nat :=
  let c := s.ctx n
  let harts := (s.placedHarts n).foldl (fun t h =>
    let g := (s.getHart h).grant
    t + 4096 + g.vsz.toNat * 1024 + g.tcnt.toNat * 16384 + g.acnt.toNat * 32768) 0
  let plates := c.plates * c.dies.length * (262144 + 64)
  (1048576 + harts + plates + 0x1FFFFF) / 0x200000

/-- NEED: 0 where the slot is empty. -/
def State.need (s : State) (n : Nat) : Nat := if (s.ctx n).state = 0#2 then 0 else s.needOf n

def State.dcRead (s : State) (n ofs : Nat) : Word :=
  let c := s.ctx n
  if ofs = 0x00 then c.qtab else if ofs = 0x08 then c.ptb else if ofs = 0x10 then c.save
  else if ofs = 0x18 then
    BitVec.ofNat 64 (s.need n % 4096) <<< 40 ||| BitVec.ofNat 64 (s.runCount n % 65536) <<< 16 ||| bit1 c.cmderr <<< 3 |||
      bit1 c.busy <<< 2 ||| c.state.zeroExtend 64
  else if ofs = 0x28 then c.arg else if ofs = 0x30 then c.supt else if ofs = 0x38 then c.dgrant else 0#64

/-- A DCCTL command as the step that performs it (R212). -/
def dcCommand (cmd : Nat) : Option Instr :=
  if cmd = 1 then some .quiesce else if cmd = 2 then some .endQuiesce else if cmd = 3 then some .endLaunch
  else if cmd = 4 then some .createContext else if cmd = 5 then some .removeContext else none

/-- A DCCTL command of a slot that has been accepted and not performed yet. -/
def State.commandWaits (s : State) (n : Nat) : Bool :=
  s.inbox.any fun x => [Instr.quiesce, .endQuiesce, .endLaunch, .createContext, .removeContext].contains x.1 && decide (x.2.slot.toNat = n)

/-- A write of a dispatch block. A new DCQTAB is taken at the next queue scan; that of a slot without a context, whose queues nothing scans,
at once (R214). A DCCTL command takes DCARG with it. -/
def State.dcWrite (s : State) (n ofs : Nat) (v w1 : Word) : State :=
  let c := s.ctx n
  if ofs = 0x00 then
    let q := v &&& 0x000F_FFFF_FFFF_F801#64
    s.setCtx n { c with qtab := q, fresh := true, table := if c.state = 0#2 then q else c.table }
  else if ofs = 0x08 then if c.state = 0#2 then s.setCtx n { c with ptb := v } else s
  else if ofs = 0x10 then s.setCtx n { c with save := v &&& 0x000F_FFFF_FFFF_FE01#64 }
  else if ofs = 0x18 then s.setCtx n { c with cmderr := c.cmderr && !w1.getLsbD 3 }
  else if ofs = 0x20 then
    match (if v.toNat < 16 ∧ c.busy = false then dcCommand v.toNat else none) with
    | some i => (s.setCtx n { c with busy := true }).after [(i, { slot := BitVec.ofNat 3 n, value := c.arg })]
    | none => s.setCtx n { c with cmderr := true }
  else if ofs = 0x28 then s.setCtx n { c with arg := v }
  else if ofs = 0x30 then if c.state = 0#2 then s.setCtx n { c with supt := v &&& 0x000F_FFFF_FFFF_FFC1#64 } else s
  else if ofs = 0x38 then if c.state = 0#2 then s.setCtx n { c with dgrant := v &&& 0x0000_FFFF_0000_FFFF#64 } else s
  else s

/-! ### The switch block (spec/08 R228) and the event queues (spec/09 R259) -/

def State.swRead (s : State) (ofs : Nat) : Word :=
  let w := s.disp.switch
  if ofs = 0x00 then w.t
  else if ofs = 0x10 then w.dur.zeroExtend 64 <<< 32 ||| bit1 w.refused <<< 4 ||| w.phase.zeroExtend 64
  else 0#64

/-- Change the switch block. -/
def State.updSwitch (s : State) (g : Switch → Switch) : State := s.updDisp fun d => { d with switch := g d.switch }

/-- Arm a switch (R228): T is taken as it stands. -/
def State.armSwitch (s : State) (park : Bool) (target : BitVec 3) : State :=
  let w := s.disp.switch
  let st := (s.ctx target.toNat).state
  if w.phase ≠ 0#2 ∨ w.t.toNat < s.time + 200000 ∨ (park = false ∧ (st = 0#2 ∨ st = 1#2)) then s.updSwitch fun w => { w with refused := true }
  else
    let s := s.updSwitch fun w => { w with phase := 1#2, park, target, latched := w.t, begun := false }
    s.hartIds.foldl (fun s h => s.updHartN h fun x => { x with noticed := false }) s

/-- A write of the switch block: SWCTL arms with the write itself, and reserved bits refuse the arming that it asks for. -/
def State.swWrite (s : State) (ofs : Nat) (v w1 : Word) : State :=
  let w := s.disp.switch
  if ofs = 0x00 then s.updDisp fun d => { d with switch := { w with t := v } }
  else if ofs = 0x08 then
    if !v.getLsbD 4 then s
    else if 32 ≤ v.toNat then s.updSwitch fun w => { w with refused := true }
    else s.armSwitch (v.getLsbD 3) (v.extractLsb' 0 3)
  else if ofs = 0x10 then s.updDisp fun d => { d with switch := { w with refused := w.refused && !w1.getLsbD 4 } }
  else s

/-- EQHEAD: a value that would make TAIL − HEAD negative is ignored; room in the queue lets held records enter (R259, R260). -/
def State.eqheadWrite (s : State) (i : Nat) (v : Word) : State :=
  let q := s.evQueue i
  if q.tail < v then s
  else (s.setEvQueue i { q with head := v }).after
    (((List.range 10).filter fun k => decide (iodOfSource k = i)).map fun k => (.eventAccept, { unit := BitVec.ofNat 32 k }))

/-- SPILLED: records held in the spill pages of the dies an I/O die serves. -/
def State.spilled (s : State) (i : Nat) : Nat :=
  ((List.range 10).filter fun k => decide (iodOfSource k = i)).foldl (fun t k => t + (s.evSource k).spill.length) 0

/-- The four 64-bit words of an event record (R257). -/
def EvRec.word (e : EvRec) (i : Nat) : Word :=
  if i = 0 then e.count ++ e.die ++ BitVec.ofBool e.srcio ++ 0#4 ++ e.kind ++ e.seq
  else if i = 1 then e.detail
  else if i = 2 then e.time
  else e.ctxid ++ 0#13 ++ e.fofs ++ e.hart

def State.evRead (s : State) (i ofs : Nat) : Word :=
  let q := s.evQueue i
  if ofs = 0x6000 then q.head else if ofs = 0x6008 then q.tail
  else if ofs = 0x6010 then BitVec.ofNat 64 (s.spilled i) <<< 32 ||| bit1 q.irq
  else if 0x10000 ≤ ofs ∧ ofs < 0x30000 then
    match q.entries.find? fun e => decide (e.1 = (ofs - 0x10000) / 32) with
    | some e => e.2.word ((ofs - 0x10000) % 32 / 8)
    | none => 0#64
  else 0#64

/-! ### Control space (R22, R55, R105) -/

/-- A port register (R108). -/
def Port.read (p : Port) : Word := p.retry.zeroExtend 64 <<< 40 ||| p.mode.zeroExtend 64 <<< 4 ||| bit1 p.inuse

def State.hapRead (s : State) (ofs : Nat) : Word :=
  let a := s.fab.apertures.get .reset ((ofs - 0x1000) / 32)
  if ofs % 32 = 0 then a.base else if ofs % 32 = 8 then a.size else if ofs % 32 = 16 then a.tgt
  else bit1 a.err <<< 7 ||| bit1 a.sync <<< 4 ||| a.key.zeroExtend 64

/-- The register at an offset of I/O die i's domain block. -/
def State.domRead (s : State) (i ofs : Nat) : Word :=
  if ofs = 0 then bit1 s.fab.devValid <<< 15 ||| s.fab.dev.zeroExtend 64
  else if 0x100 ≤ ofs ∧ ofs < 0x180 then s.fab.members.get 0#64 ((ofs - 0x100) / 8)
  else if 0x200 ≤ ofs ∧ ofs < 0x240 then (s.fab.ports.get .reset (i * 8 + (ofs - 0x200) / 8)).read
  else if ofs = 0x300 then
    let c := s.fab.clock
    c.offset.zeroExtend 64 <<< 32 ||| bit1 c.hold <<< 2 ||| bit1 c.master <<< 1 ||| bit1 c.lock
  else if i = 0 ∧ 0x1000 ≤ ofs ∧ ofs < 0x1400 then s.hapRead ofs
  else if i = 0 ∧ 0x4000 ≤ ofs ∧ ofs < 0x4200 then s.dcRead ((ofs - 0x4000) / 64) (ofs % 64)
  else if i = 0 ∧ 0x5000 ≤ ofs ∧ ofs < 0x5018 then s.swRead (ofs - 0x5000)
  else s.evRead i ofs

/-- A write of an aperture's registers; only one of HAPCTL is judged (DEDUCED, unsafe: log entry 125). -/
def State.hapWrite (s : State) (ofs : Nat) (v w1 : Word) : State :=
  let n := (ofs - 0x1000) / 32
  let a := s.fab.apertures.get .reset n
  let put := fun (b : Aperture) => s.updFab fun f => { f with apertures := f.apertures.set n b }
  if ofs % 32 = 0 then put { a with base := v &&& 0x0000_0FFF_FFE0_0000#64 }
  else if ofs % 32 = 8 then put { a with size := v &&& 0x0000_00FF_FFE0_0000#64 }
  else if ofs % 32 = 16 then put { a with tgt := v &&& 0x000F_FFFF_FFE0_0000#64 }
  else s.hapctlWrite n v w1

def State.domWrite (s : State) (i ofs : Nat) (v w1 : Word) : State :=
  if 0x200 ≤ ofs ∧ ofs < 0x240 then
    let k := i * 8 + (ofs - 0x200) / 8
    s.updFab fun f => { f with ports := f.ports.set k { f.ports.get .reset k with retry := v.extractLsb' 40 24 } }
  else if i = 0 ∧ 0x1000 ≤ ofs ∧ ofs < 0x1400 then s.hapWrite ofs v w1
  else if i = 0 ∧ 0x4000 ≤ ofs ∧ ofs < 0x4200 then s.dcWrite ((ofs - 0x4000) / 64) (ofs % 64) v w1
  else if i = 0 ∧ 0x5000 ≤ ofs ∧ ofs < 0x5018 then s.swWrite (ofs - 0x5000) v w1
  else if ofs = 0x6000 then s.eqheadWrite i v
  else if ofs = 0x6010 then s.setEvQueue i { s.evQueue i with irq := v.getLsbD 0 }
  else s

/-- The 64-bit register of control space that holds an LA; an LA without a register reads zero (R17). -/
def State.ctlRead (s : State) (la : Nat) : Word :=
  let o := la / 8 * 8 - 0x30000000000
  if o < 0x8000000 then
    let d := o % 0x1000000
    if 0x100000 ≤ d ∧ d < 0x102000 then (s.channel (o / 0x1000000 * 32 + (d - 0x100000) / 0x100)).read (d % 0x100) else 0#64
  else if o < 0xA000000 then s.domRead ((o - 0x8000000) / 0x1000000) (o % 0x1000000)
  else 0#64

/-- Write the register that holds an LA. -/
def State.ctlWrite (s : State) (la : Nat) (v w1 : Word) : State :=
  let o := la / 8 * 8 - 0x30000000000
  if o < 0x8000000 then
    let d := o % 0x1000000
    if 0x100000 ≤ d ∧ d < 0x102000 then s.chanWrite (o / 0x1000000 * 32 + (d - 0x100000) / 0x100) (d % 0x100) v w1 else s
  else if o < 0xA000000 then s.domWrite ((o - 0x8000000) / 0x1000000) (o % 0x1000000) v w1
  else s

/-! ### The mailbox (spec/21 R467) -/

def State.mbstat (s : State) : Word :=
  let t := s.trust
  t.rlen.zeroExtend 64 <<< 32 ||| t.tag.zeroExtend 64 <<< 8 ||| t.result.zeroExtend 64 <<< 4 ||| bit1 t.err <<< 2 |||
    bit1 t.done <<< 1 ||| bit1 t.busy

/-- The byte at an offset of the mailbox. -/
def State.mbByte (s : State) (ofs : Nat) : Byte :=
  if 8 ≤ ofs ∧ ofs < 16 then s.mbstat.extractLsb' (8 * (ofs - 8)) 8
  else if 0x1000 ≤ ofs ∧ ofs < 0x8000 then s.trust.request.get 0#8 (ofs - 0x1000)
  else if 0x8000 ≤ ofs then (if ofs - 0x8000 < s.trust.rlen.toNat then s.trust.response.get 0#8 (ofs - 0x8000) else 0#8)
  else 0#8

/-- A command ends with a result and a response (R467). -/
def State.mbDone (s : State) (result : BitVec 8) (resp : List Byte) : State :=
  s.updTrust fun t => { t with result, rlen := BitVec.ofNat 16 resp.length, response := (resp.zipIdx).map (fun b => (b.2, b.1)),
                               done := true, busy := false }

/-- The command of a code as the step that performs it (R468). -/
def mbCommand (v : Word) : Instr :=
  let c := (v.extractLsb' 0 8).toNat
  if c = 1 then .verifyObject else if c = 2 then .retireObject else if c = 3 then .loadContextKey
  else if c = 4 then .clearContextKey else if c = 5 then .ownerKeyInstall else if c = 6 then .ownerKeyClear
  else if c = 7 then .getMeasurements else if c = 8 then .spareStatus else .mailboxUnknownCommand

/-- A write of MBCMD. -/
def State.mbcmdWrite (s : State) (v : Word) : State :=
  if s.trust.busy then s.updTrust fun t => { t with err := true }
  else
    let s := s.updTrust fun t => { t with cmd := v, tag := v.extractLsb' 8 8 |>.zeroExtend 16, busy := true }
    if v.extractLsb' 40 24 ≠ 0#24 ∨ 28672 < (v.extractLsb' 24 16).toNat then s.mbDone 2#8 []
    else s.after [(mbCommand v, { value := v })]

/-- Store bytes into the mailbox at an offset. -/
def State.mbWrite (s : State) (ofs : Nat) (bs : List Byte) : State :=
  if ofs < 8 then s.mbcmdWrite (BitVec.ofNat 64 (leNat bs * 256 ^ ofs))
  else if ofs < 16 then
    let w := leNat bs * 256 ^ (ofs - 8)
    s.updTrust fun t => { t with err := t.err && !w.testBit 2, done := t.done && !w.testBit 1 }
  else if 0x1000 ≤ ofs ∧ ofs < 0x8000 then
    s.updTrust fun t => { t with request := (bs.zipIdx).foldl (fun r b => r.set (ofs - 0x1000 + b.2) b.1) t.request }
  else s

end Sys2Proof.Machine
end

