-- ==== Sys2Proof/Machine/Vector.lean ====
section
/-! DEFINITION. Element types and their conversions, vector registers and predicates as bits of a hart's share, masks, mailboxes
and the registers that an instruction names (spec/01 R23, spec/07 R183, spec/10 R262 to R270, spec/15 R370 to R379). -/
namespace Sys2Proof.Machine
set_option Elab.async false

/-! ### Element types (R262, R269, R270) -/

/-- The type of an element tag: a float format, or an integer of a width, signed or not. -/
inductive Ty where
  | fl (f : Fmt)
  | int (w : Nat) (sg : Bool)
  deriving DecidableEq, Repr

/-- The type of a tag; none for the reserved codes (R262). -/
def tagTy (c : BitVec 4) : Option Ty :=
  match c.toNat with
  | 0 => some (.fl fmt32) | 1 => some (.fl fmt16) | 2 => some (.fl fmtBf) | 3 => some (.fl fmt8) | 4 => some (.fl fmt64)
  | 5 => some (.int 32 true) | 6 => some (.int 16 true) | 7 => some (.int 8 true) | 8 => some (.int 4 true)
  | 9 => some (.int 2 true) | 10 => some (.int 32 false) | 11 => some (.int 16 false) | 12 => some (.int 8 false)
  | 13 => some (.int 64 true) | _ => none

def Ty.width : Ty → Nat
  | .fl f => f.width
  | .int w _ => w
def Ty.isFloat : Ty → Bool
  | .fl _ => true
  | .int .. => false

/-- The integer of a code. -/
def intVal (w : Nat) (sg : Bool) (c : Nat) : Int := if sg && c.testBit (w - 1) then (c : Int) - 2 ^ w else c
def intMin (w : Nat) (sg : Bool) : Int := if sg then -(2 ^ (w - 1)) else 0
def intMax (w : Nat) (sg : Bool) : Int := if sg then 2 ^ (w - 1) - 1 else 2 ^ w - 1
/-- An integer as a code of a type: wrapped, or saturated (R393). -/
def narrow (sat : Bool) (w : Nat) (sg : Bool) (v : Int) : Nat :=
  ((if sat then max (intMin w sg) (min (intMax w sg) v) else v) % 2 ^ w).toNat

/-- A code converted between types (R270); `sat` governs integer results. Equal types copy the bits (spec/16
R400). -/
def Ty.cvt (sat : Bool) (a b : Ty) (c : Nat) : Nat × Exc :=
  if a = b then (c, {})
  else
    match a, b with
    | .fl f, .fl g => g.encode .rn (f.decode c)
    | .fl f, .int w sg =>
      let (v, x) := (f.decode c).toRange .rn (intMin w sg) (intMax w sg)
      (narrow false w sg v, x)
    | .int w sg, .fl g => g.encode .rn (.ofInt (intVal w sg c))
    | .int w sg, .int w' sg' => (narrow sat w' sg' (intVal w sg c), {})

/-- The canonical NaN for a NaN, with INV where it signals (R267). -/
def Ty.canon (t : Ty) (c : Nat) : Nat × Exc :=
  match t with
  | .fl f => if (f.decode c).isNan then f.encode .rn (f.decode c) else (c, {})
  | .int .. => (c, {})
/-- An operand converted to the operation type, a NaN made canonical in equal types too (R267, R270). -/
def Ty.operand (sat : Bool) (a b : Ty) (c : Nat) : Nat × Exc :=
  let (r, x) := a.cvt sat b c
  let (r, y) := b.canon r
  (r, x.or y)

/-- The operation type of two operands (R269). -/
def opTy (a b : Ty) : Ty :=
  if a = b then a
  else
    match a, b with
    | .fl f, .fl g => if f.width = g.width then .fl fmt32 else if f.width < g.width then .fl g else .fl f
    | .fl f, .int .. => if f = fmt32 ∨ f = fmt64 then .fl f else .fl fmt32
    | .int .., .fl f => if f = fmt32 ∨ f = fmt64 then .fl f else .fl fmt32
    | .int w sg, .int w' sg' => if w < w' then .int w' sg' else if w' < w then .int w sg else .int (2 * w) true

/-- The type in which an operation defined only for floats is performed (R269). -/
def Ty.floatOnly (t : Ty) : Ty := if t.isFloat then t else .fl fmt32

/-! ### Configuration -/

/-- Registers, element width and capacity of a configuration (R183). -/
def VecRegs.nregs (v : VecRegs) : Nat := 4 * 2 ^ (v.request.extractLsb' 0 2).toNat
def VecRegs.width (v : VecRegs) : Nat := 2 * 2 ^ (v.request.extractLsb' 2 3).toNat
def VecRegs.vcap (v : VecRegs) : Nat := v.b / v.width
def VecRegs.rows (v : VecRegs) : Nat := v.vrows.toNat
def VecRegs.len (v : VecRegs) : Nat := v.vl.toNat

/-- The register length that a request gives in a share of `vsz` KiB; 0 where it is unsupported (R183, R372). -/
def registerLength (vsz : Nat) (req : Word) : Nat :=
  if req.extractLsb' 5 59 ≠ 0#59 ∨ 5 < (req.extractLsb' 2 3).toNat then 0
  else
    let nregs := 4 * 2 ^ (req.extractLsb' 0 2).toNat
    let width := 2 * 2 ^ (req.extractLsb' 2 3).toNat
    let b := vsz * 1024 * 8 * width / (nregs * width + 32)
    let b := min (b - b % 128) 16384
    if b < 128 then 0 else b

/-- The tag of register k (R263). -/
def VecRegs.tag (v : VecRegs) (k : Nat) : BitVec 4 :=
  if k < 16 then v.vtaglo.extractLsb' (4 * k) 4 else v.vtaghi.extractLsb' (4 * (k - 16)) 4
def VecRegs.setTag (v : VecRegs) (k : Nat) (t : BitVec 4) : VecRegs :=
  let put := fun (w : Word) (j : Nat) => (w &&& ~~~(0xF#64 <<< (4 * j))) ||| (t.zeroExtend 64 <<< (4 * j))
  if k < 16 then { v with vtaglo := put v.vtaglo k } else { v with vtaghi := put v.vtaghi (k - 16) }
/-- The element type of register k; a reserved tag never reaches a queue (R373). -/
def VecRegs.ty (v : VecRegs) (k : Nat) : Ty := (tagTy (v.tag k)).getD (.int 8 false)

/-! ### Registers and predicates as storage (R23) -/

/-- Bits at a bit address of this device's storage, and their write, which clears the marks of the bits written (spec/09 R246). -/
def State.getBits (s : State) (bit w : Nat) : Nat := leNat (s.homeBytes 0 (bit / 8) ((bit % 8 + w + 7) / 8)) / 2 ^ (bit % 8) % 2 ^ w
def State.putBits (s : State) (bit w v : Nat) : State :=
  let n := (bit % 8 + w + 7) / 8
  let sh := bit % 8
  let old := leNat (s.homeBytes 0 (bit / 8) n)
  let new := old - old / 2 ^ sh % 2 ^ w * 2 ^ sh + v % 2 ^ w * 2 ^ sh
  s.updMem fun m => { m with mem := Mem.writes (bit / 8) (toBytes n new) m.mem, marks := natDrop bit w m.marks }
def State.marked (s : State) (bit w : Nat) : Bool := natAny bit w s.m.marks
/-- Mark a bit address. -/
def State.markBit (s : State) (bit : Nat) : State := s.updMem fun m => { m with marks := natInsert bit m.marks }
/-- Mark an element: by its first bit, and by the first bit of each further byte it covers, so that a read of any of its bytes meets the
mark (spec/03 R92). -/
def State.mark (s : State) (bit w : Nat) : State := ((List.range ((w + 7) / 8)).map fun i => bit + 8 * i).foldl (·.markBit ·) s

/-- Bit address of storage at offset `ofs` of a cluster's window. -/
def State.clusterBit (s : State) (cluster ofs : Nat) : Nat := 8 * (s.fab.dev.toNat * 2 ^ 42 + clusterLa cluster ofs)
/-- Bit address of the vector share of hart h. -/
def State.shareBit (s : State) (h : Nat) : Nat := s.clusterBit (clusterOf h) ((s.getHart h).grant.voff.toNat * 1024)

/-- Bit address of element i, of width w, of register k; and of bit e of predicate j. -/
def State.velAt (s : State) (v : VecRegs) (k i w : Nat) : Nat := s.shareBit s.cur + k * v.b + i * w
def State.pbitAt (s : State) (v : VecRegs) (j e : Nat) : Nat := s.shareBit s.cur + v.nregs * v.b + j * v.vcap + e

/-- Element i of register k as its tag gives it. -/
def State.vel (s : State) (v : VecRegs) (k i : Nat) : Nat := s.getBits (s.velAt v k i (v.ty k).width) (v.ty k).width
def State.putVel (s : State) (v : VecRegs) (k i c : Nat) : State := s.putBits (s.velAt v k i (v.ty k).width) (v.ty k).width c
def State.velMarked (s : State) (v : VecRegs) (k i : Nat) : Bool := s.marked (s.velAt v k i (v.ty k).width) (v.ty k).width
def State.markVel (s : State) (v : VecRegs) (k i : Nat) : State := s.mark (s.velAt v k i (v.ty k).width) (v.ty k).width

/-- Bit e of predicate j; p0 reads all-true, and writes to it are discarded (spec/07 R178). -/
def State.pbit (s : State) (v : VecRegs) (j e : Nat) : Bool := j == 0 || s.getBits (s.pbitAt v j e) 1 == 1
def State.putPbit (s : State) (v : VecRegs) (j e : Nat) (b : Bool) : State :=
  if j = 0 then s else s.putBits (s.pbitAt v j e) 1 b.toNat
def State.pMarked (s : State) (v : VecRegs) (j e : Nat) : Bool := j != 0 && s.marked (s.pbitAt v j e) 1

/-- An index element as an integer (R387, R401). -/
def State.index (s : State) (v : VecRegs) (k i : Nat) : Int :=
  match v.ty k with
  | .int w sg => intVal w sg (s.vel v k i)
  | .fl _ => 0

/-! ### Masks (R378) -/

def State.isActive (s : State) (v : VecRegs) (i : Nat) : Bool := s.pbit v v.vmsel.toNat i
/-- The positions of one row, and the active ones. -/
def VecRegs.cols (v : VecRegs) : List Nat := List.range v.len
def State.activeCols (s : State) (v : VecRegs) : List Nat := v.cols.filter fun i => s.isActive v i
/-- Positions (row, element) in element order: all, and the active ones. -/
def VecRegs.grid (v : VecRegs) : List (Nat × Nat) := (List.range v.rows).flatMap fun k => v.cols.map fun i => (k, i)
def State.activeGrid (s : State) (v : VecRegs) : List (Nat × Nat) :=
  (List.range v.rows).flatMap fun k => (s.activeCols v).map fun i => (k, i)

/-- Row and element as VSTART and TRARG give them (spec/01 R40). -/
def posWord (k i : Nat) : Word := BitVec.ofNat 64 (k % 65536 * 65536 + i % 65536)

/-! ### The registers an instruction names -/

/-- Vector groups read and written, predicate groups read and written, and whether only row 0 of them counts. -/
structure VUse where
  vr : List Reg := []
  vw : List Reg := []
  pr : List Reg := []
  pw : List Reg := []
  /-- A predicate written that is no group. -/
  p1 : List Reg := []
  single : Bool := false
  deriving DecidableEq, Repr

/-- Source b of a `.x` form is a scalar (R391). -/
def srcB (b : Reg) (x : BitVec 1) : List Reg := if x = 1#1 then [] else [b]

/-- What an instruction names (R371, R381, R391 to R409, spec/17 R414). -/
def vuse : Instr → VUse
  | .vld d _ _ _ | .vldT d _ _ _ | .vbcast d _ | .vins d _ _ | .accx d _ _ => { vw := [d] }
  | .vldx d _ b _ _ => { vr := [b], vw := [d] }
  | .vst d _ _ _ | .vstN d _ _ _ _ => { vr := [d] }
  | .vstx d _ b _ _ => { vr := [d, b] }
  | .vpush a _ => { vr := [a] }
  | .vpushT d a _ => { vr := [a], p1 := [d] }
  | .vadd d a b _ x | .vsub d a b _ x | .vmul d a b _ x | .vdiv d a b _ x | .vmin d a b _ x | .vmax d a b _ x | .vand d a b _ x
  | .vor d a b _ x | .vxor d a b _ x | .vshl d a b _ x | .vshr d a b _ x | .vmulh d a b _ x | .vsel d a b _ x =>
    { vr := a :: srcB b x, vw := [d] }
  | .vfma d a b _ x | .vfms d a b _ x => { vr := d :: a :: srcB b x, vw := [d] }
  | .vsqrt d a _ | .vabs d a _ | .vneg d a _ | .vcvt d a _ | .vslup d a _ _ | .vsldn d a _ _ => { vr := [a], vw := [d] }
  | .vrcp d a | .vrsqrt d a | .vexp2 d a | .vlog2 d a | .vtanh d a | .vcomp d a | .vredSum d a | .vredMin d a | .vredMax d a
  | .vredAnd d a | .vredOr d a | .vscanSum d a | .vscanMin d a | .vscanMax d a | .vbpopc d a => { vr := [a], vw := [d] }
  | .vcmpEq d a b x | .vcmpNe d a b x | .vcmpLt d a b x | .vcmpLe d a b x | .vcmpGt d a b x | .vcmpGe d a b x | .vcmpUn d a b x =>
    { vr := a :: srcB b x, pw := [d] }
  | .vperm d a b | .vdot d a b => { vr := [a, b], vw := [d] }
  | .vext _ a _ => { vr := [a] }
  | .vbsl d a _ | .vbsr d a _ => { vr := [a], vw := [d] }
  | .vbfun d a _ => { vr := [d, a], vw := [d] }
  | .pand d a b | .por d a b | .pxor d a b | .pandn d a b => { pr := [a, b], pw := [d] }
  | .pnot d a | .pfirst d a | .pmv d a => { pr := [a], pw := [d] }
  | .pset d _ => { pw := [d] }
  | .pcnt _ a => { pr := [a], single := true }
  | .bpAny a _ | .bpNone a _ | .bpAll a _ | .bpFirst a _ => { pr := [a], single := true }
  | .mops _ a _ => { vr := [a], single := true }
  | .acci _ a _ => { vr := [a] }
  | _ => {}

def VUse.rows (u : VUse) (v : VecRegs) : Nat := if u.single then 1 else v.rows
/-- Registers of a group. -/
def groupRegs (n : Nat) (r : Reg) : List Nat := (List.range n).map (r.toNat + ·)
def VUse.reads (u : VUse) (v : VecRegs) : List Nat := u.vr.flatMap (groupRegs (u.rows v))
def VUse.writes (u : VUse) (v : VecRegs) : List Nat := u.vw.flatMap (groupRegs (u.rows v))

/-- The conditions of R373 on the configuration, the register numbers and the tags. -/
def VecRegs.admits (v : VecRegs) (u : VUse) : Bool :=
  !v.ill &&
  ((u.reads v ++ u.writes v).all fun k => decide (k < v.nregs) &&
    (match tagTy (v.tag k) with | some t => decide (t.width ≤ v.width) | none => false)) &&
  ((u.pr ++ u.pw).all fun j => decide (j.toNat + u.rows v ≤ 32))

/-- Corresponding rows of two groups satisfy a test of their types. -/
def VecRegs.rowTys (v : VecRegs) (a b : Reg) (p : Ty → Ty → Bool) : Bool :=
  (List.range v.rows).all fun k => p (v.ty (a.toNat + k)) (v.ty (b.toNat + k))
/-- No row of a group has a float tag. -/
def VecRegs.noFloat (v : VecRegs) (a : Reg) : Bool := (List.range v.rows).all fun k => !(v.ty (a.toNat + k)).isFloat

/-! ### What every queued vector instruction does around its effect -/

/-- A poisoned element that is consumed raises POISON; the first in the order given (spec/09 R246). -/
def consume (l : List ((Nat × Nat) × Bool)) : M Unit :=
  match l.find? (·.2) with
  | some ((k, i), _) => raise tcPoison (posWord k i)
  | none => pure ()

/-- The mailbox registers that an entry reads (R379); with VL = 0 it reads none (R378). -/
def QEntry.mailboxes (q : QEntry) : List Nat :=
  if q.vec.vl = 0#14 then [] else ((vuse q.instr).reads q.vec).filter fun r => q.vec.mbx.getLsbD r

/-- Set or clear FULL bits. -/
def fullClear (full : BitVec 32) (l : List Nat) : BitVec 32 := l.foldl (fun f r => f &&& ~~~(1#32 <<< r)) full
def fullSet (full : BitVec 32) (l : List Nat) : BitVec 32 := l.foldl (fun f r => f ||| (1#32 <<< r)) full

/-- Bit address of tile t and of accumulator k of the executing hart, and their bits (spec/01 R23, spec/17 R412). -/
def State.tileBit (s : State) (t : Reg) : Nat := s.clusterBit (clusterOf s.cur) (0x80000 + (s.hart.grant.tbase.toNat + t.toNat % 8) * 0x4000)
def State.accBit (s : State) (k : Reg) : Nat := s.clusterBit (clusterOf s.cur) (0x100000 + (s.hart.grant.abase.toNat + k.toNat % 4) * 0x8000)
def State.tileLatent (s : State) (t : Reg) : Bool := s.marked (s.tileBit t) 0x20000
def State.accLatent (s : State) (k : Reg) : Bool := s.marked (s.accBit k) 0x40000

/-- A row of the vector and predicate sources holds a mark. -/
def State.rowLatent (s : State) (u : VUse) (v : VecRegs) (k : Nat) : Bool :=
  (u.vr.any fun r => s.marked (s.shareBit s.cur + (r.toNat + k) * v.b) v.b) ||
  u.pr.any fun j => j.toNat + k != 0 && s.marked (s.pbitAt v (j.toNat + k) 0) v.vcap

/-- The registers that an instruction writes from sources that hold marks: vector and predicate registers of the rows with marks; a
predicate that is no group, an accumulator and the group of an `accx` from any mark. An instruction that completes has consumed none
of them: they are latent (spec/09 R246). -/
def State.latentWrites (s : State) (q : QEntry) : List Nat :=
  let u := vuse q.instr
  let rows := (List.range (u.rows q.vec)).filter (s.rowLatent u q.vec)
  let inRows := (rows.flatMap fun k => (u.vw ++ u.pw).map fun d => d.toNat + k) ++ (if rows.isEmpty then [] else u.p1.map (·.toNat))
  match q.instr with
  | .mop d a b => if s.tileLatent a || s.tileLatent b then [d.toNat] else []
  | .mops d _ b => if !rows.isEmpty || s.tileLatent b then [d.toNat] else []
  | .mopM d a _ => if s.tileLatent a then [d.toNat] else []
  | .accx d a _ => if s.accLatent a then (List.range (u.rows q.vec)).map (d.toNat + ·) else []
  | .acci d _ _ => if rows.isEmpty then [] else [d.toNat]
  | _ => inRows

/-- An event of kind 7 for each register written. -/
def State.latentEvents (s : State) (l : List Nat) : State :=
  l.foldl (fun s d =>
    s.postEvent (dieOfHart s.cur) 7#8 (BitVec.ofNat 64 d) s.hart.ctxid 0#8 ((s.hartidOf s.cur).zeroExtend 27)) s

/-- A die raises no new event while its spill page is full, and what would raise one waits (R260). -/
def State.eventsStopped (s : State) (die : Nat) : Bool := (s.evSource die).pageFull || !(s.evSource die).waiting.isEmpty

/-- The operands of an entry are available: the mailboxes that it reads are full, and what it would report can be reported. -/
def State.available (s : State) (q : QEntry) : Bool :=
  (q.mailboxes.all fun r => s.hart.vec.full.getLsbD r) && ((s.latentWrites q).isEmpty || !s.eventsStopped (dieOfHart s.cur))

/-- Wait for the mailboxes read, run, and empty them (R379); latent marks of the sources are reported (spec/09 R246). -/
def withMailboxes (q : QEntry) (run : M Unit) : M Unit := do
  let s ← get
  let latent := s.latentWrites q
  if s.available q then
    run
    modify fun s => (s.updVec fun v => { v with full := fullClear v.full q.mailboxes }).latentEvents latent
  else stall

end Sys2Proof.Machine
end

