-- ==== Sys2Proof/Machine/Elements.lean ====
section
/-! DEFINITION. The elements of a vector or matrix memory instruction, their addresses, and the order of one hart's accesses to
overlapping bytes (spec/15 R382, R383, spec/17 R412, R416, spec/06 R164). -/
namespace Sys2Proof.Machine
set_option Elab.async false

/-- The element stride (R382). -/
def VecRegs.stride (v : VecRegs) : Int := if v.vstr = 0#32 then 1 else v.vstr.toInt

/-- An element of width w whose first bit lies `bits` bits from an address. -/
def elemAt (k i w : Nat) (base : Int) (bits : Nat) : VElem :=
  { k, i, va := BitVec.ofInt 64 (base + (bits / 8 : Nat)), n := max (w / 8) 1, bit := bits % 8, w }

/-- Element (k, i) of a strided access of data group d from base x[a] (R382, R383). -/
def VecRegs.stridedElem (v : VecRegs) (d : Reg) (base : Word) (k i : Nat) : VElem :=
  let w := (v.ty (d.toNat + k)).width
  let row := (base.toNat : Int) + k * v.vpitch.toInt
  if w < 8 then elemAt k i w row (i * w) else elemAt k i w (row + i * v.stride * (w / 8 : Nat)) 0

/-- Element (k, i) of an indexed access (R382). -/
def State.indexedElem (s : State) (v : VecRegs) (d b : Reg) (base : Word) (k i : Nat) : VElem :=
  elemAt k i (v.ty (d.toNat + k)).width ((base.toNat : Int) + s.index v (b.toNat + k) i) 0

/-- The active elements of an access in element order. -/
def State.stridedElems (s : State) (q : QEntry) (d : Reg) : List VElem :=
  (s.activeGrid q.vec).map fun (k, i) => q.vec.stridedElem d q.xa k i
def State.indexedElems (s : State) (q : QEntry) (d b : Reg) : List VElem :=
  (s.activeGrid q.vec).map fun (k, i) => s.indexedElem q.vec d b q.xa k i

/-- A position not before VSTART. -/
def fromStart (vstart : BitVec 32) (e : VElem) : Bool :=
  let row := (vstart.extractLsb' 16 16).toNat
  decide (row < e.k) || (decide (row = e.k) && decide ((vstart.extractLsb' 0 16).toNat ≤ e.i))

/-! ### Tile shapes (R412) -/

/-- A valid shape: the type of its elements, rows and columns. -/
structure Shape where
  ty : Ty
  rows : Nat
  cols : Nat
  deriving DecidableEq, Repr

/-- The shape in a TSHAPE register; none where it is invalid. -/
def shapeOf (t : BitVec 20) : Option Shape :=
  let tag := t.extractLsb' 0 4
  let rows := (t.extractLsb' 4 8).toNat
  let c := if t.extractLsb' 12 8 = 0#8 then 256 else (t.extractLsb' 12 8).toNat
  let cols := if tag = 9#4 then 2 * c else c
  if tag ∈ [0#4, 1#4, 2#4, 3#4, 7#4, 8#4, 9#4] ∧ 1 ≤ rows ∧ rows ≤ 128 then
    match tagTy tag with
    | some ty => if cols * ty.width ≤ 1024 then some { ty, rows, cols } else none
    | none => none
  else none

/-- The shape of tile t as an entry saw it. -/
def QEntry.shape (q : QEntry) (t : BitVec 3) : Option Shape := shapeOf (q.tshape[t.toNat]'t.isLt)

/-- The elements of `rows` rows of n elements from a base (R416), from row `k0` on. -/
def tileElems (v : VecRegs) (base : Word) (ty : Ty) (k0 rows n : Nat) : List VElem :=
  ((List.range rows).filter (k0 ≤ ·)).flatMap fun k => (List.range n).map fun i =>
    elemAt k i ty.width ((base.toNat : Int) + k * v.vpitch.toInt) (i * ty.width)

/-! ### Overlapping bytes of one hart (spec/06 R164) -/

/-- An earlier entry of either queue may still write one of these predicates or vector registers. -/
def State.unwritten (s : State) (q : QEntry) (preds regs : List Nat) : Bool :=
  (s.hart.vq ++ s.hart.mq).any fun e =>
    decide (e.seq < q.seq) &&
      (let u := vuse e.instr
       (u.writes e.vec).any (regs.contains ·) || (u.pw.flatMap (groupRegs (u.rows e.vec)) ++ u.p1.map (·.toNat)).any (preds.contains ·))

/-- The indices of a queued entry are not known yet: a register of its index group is still to be written, or is a mailbox that is empty
or that an earlier entry empties (spec/15 R379). Such an entry may access any byte. -/
def State.unindexed (s : State) (q : QEntry) : Bool :=
  match q.instr with
  | .vldx _ _ b _ _ | .vstx _ _ b _ _ =>
    let regs := groupRegs q.vec.rows b
    s.unwritten q [] regs ||
      (q.mailboxes.filter regs.contains).any fun r =>
        !s.hart.vec.full.getLsbD r || (s.hart.vq ++ s.hart.mq).any fun e => decide (e.seq < q.seq) && e.mailboxes.contains r
  | _ => false

/-- The positions that a queued entry may access: the active ones, or all while its mask may still be written. -/
def State.mayGrid (s : State) (q : QEntry) : List (Nat × Nat) :=
  if s.unwritten q [q.vec.vmsel.toNat] [] then q.vec.grid else s.activeGrid q.vec

/-- The elements that a queued entry may access, as far as they are known (`State.unindexed`), its progress word among them, and whether
it stores. -/
def State.accesses (s : State) (q : QEntry) : List VElem × Bool :=
  let strided := fun (d : Reg) => (s.mayGrid q).map fun (k, i) => q.vec.stridedElem d q.xa k i
  let indexed := fun (d b : Reg) => if s.unindexed q then [] else (s.mayGrid q).map fun (k, i) => s.indexedElem q.vec d b q.xa k i
  match q.instr with
  | .vld d _ _ _ | .vldT d _ _ _ => (strided d, false)
  | .vst d _ _ _ => (strided d, true)
  | .vldx d _ b _ _ => (indexed d b, false)
  | .vstx d _ b _ _ => (indexed d b, true)
  | .vstN d _ _ _ _ => ({ k := 0, i := 0, va := q.xb, n := 8, bit := 0, w := 64 } :: strided d, true)
  | .tld d _ => ((q.shape (d.extractLsb' 0 3)).elim [] fun t => tileElems q.vec q.xa t.ty 0 t.rows t.cols, false)
  | .tst d _ => ((q.shape (d.extractLsb' 0 3)).elim [] fun t => tileElems q.vec q.xa t.ty 0 t.rows t.cols, true)
  | .mopM _ a _ => ((q.shape (a.extractLsb' 0 3)).elim [] fun t => tileElems q.vec q.xb t.ty 0 t.cols q.vec.len, false)
  | _ => ([], false)

/-- The physical address of a byte as the executing hart's accesses resolve it now; none where it resolves to nothing. -/
def State.peekPa (s : State) (pwb : Word) (drain : List (Nat × Nat)) (va : Word) : Option Nat :=
  if inPlateWindow pwb va then
    let k := (plateSlotOf va).toNat
    let p := match drain.find? fun d => decide (d.1 = k) with
      | some d => some d.2
      | none => match s.hart.slots[k]'((plateSlotOf va).isLt) with | .attached p => some (dieOfHart s.cur * 128 + p) | _ => none
    p.map fun p => s.fab.dev.toNat * 2 ^ 42 + plateLa (p / 128) (p % 128) (plateOfs va)
  else
    match (s.lookup (s.walkerOf s.cur) s.cur .vector .load va).2 with
    | .leaf e => some (e.pa va)
    | .fault .. => none

/-- An entry of a queue may access some of `n` bytes at a physical address, one of the two accesses being a store. -/
def State.entryTouches (s : State) (q : QEntry) (pa n : Nat) (store : Bool) : Bool :=
  let (l, st) := s.accesses q
  (st || store) && (s.unindexed q || l.any fun e =>
    match s.peekPa q.pwb q.drain e.va with
    | some a => decide (a < pa + n) && decide (pa < a + e.n)
    | none => false)

/-- The cluster whose register, tile or accumulator window holds a physical address of this device (spec/01 R22). -/
def State.windowOf (s : State) (pa : Nat) : Option Nat :=
  if devOf pa ≠ s.fab.dev.toNat then none
  else
    match laKind (laOf pa) with
    | .vreg c _ | .tile c _ | .acc c _ => some c
    | _ => none

/-- An entry of a queue may access the windows of a cluster (spec/01 R24). -/
def State.entryWindow (s : State) (q : QEntry) (cluster : Nat) : Bool :=
  s.unindexed q || (s.accesses q).1.any fun e => decide ((s.peekPa q.pwb q.drain e.va).bind s.windowOf = some cluster)

/-- An entry of a queue may access an SY page (spec/06 R165). -/
def State.entrySy (s : State) (q : QEntry) : Bool :=
  s.unindexed q || (s.accesses q).1.any fun e =>
    !inPlateWindow q.pwb e.va &&
    match (s.lookup (s.walkerOf s.cur) s.cur .vector .load e.va).2 with
    | .leaf t => t.attr.sy
    | .fault .. => false

/-- Queued work of the executing hart ahead of its scalar side; in supervisor mode the user's entries are set aside (R240). -/
def State.ahead (s : State) : List QEntry := if s.hart.sup then [] else s.hart.vq ++ s.hart.mq

/-- A scalar access waits for earlier queued accesses to the same bytes (R164), and to the windows of the same cluster (spec/01 R24). -/
def waitOverlap (pa n : Nat) (store : Bool) : M Unit := do
  let s ← get
  if s.ahead.any fun q => s.entryTouches q pa n store || (s.windowOf pa).any (s.entryWindow q) then stall else pure ()

/-- A scalar access to an SY page, or a far atomic, waits for earlier queued accesses to SY pages (R165). -/
def waitSy (sy : Bool) : M Unit := do
  let s ← get
  if sy && s.ahead.any s.entrySy then stall else pure ()

/-! ### What scalar instructions wait for -/

def Instr.isVecLoad : Instr → Bool
  | .vld .. | .vldx .. | .vldT .. => true
  | _ => false
def Instr.isQueuedStore : Instr → Bool
  | .vst .. | .vstx .. | .vstN .. | .tst .. => true
  | _ => false
def Instr.isQueuedLoad : Instr → Bool
  | .vld .. | .vldx .. | .vldT .. | .tld .. | .mopM .. => true
  | _ => false

/-- Wait while an entry ahead satisfies a test. -/
def waitEntries (p : QEntry → Bool) : M Unit := do
  let s ← get
  if s.ahead.any p then stall else pure ()

/-- Wait until every earlier vector and matrix instruction has completed. -/
def waitQueues : M Unit := waitEntries fun _ => true
def Instr.isTrimLoad : Instr → Bool
  | .vldT .. => true
  | _ => false
/-- A queued load may still shorten VL: its bound check has not been made, or has found an element of row 0 beyond its plate (spec/03
R86). The check of the head of the queue has been made where its addresses are known. -/
def State.trimPending (s : State) (q : QEntry) : Bool :=
  Instr.isVecLoad q.instr &&
    (Instr.isTrimLoad q.instr || s.unindexed q || decide ((s.hart.vq.head?.map (·.seq)) ≠ some q.seq) || !s.hart.mq.isEmpty ||
      (s.accesses q).1.any fun e => decide (e.k = 0) && decide (0 < e.i) && inPlateWindow q.pwb e.va && decide (0x40000 < plateOfs e.va + e.n))
/-- Wait for the vector loads that may still shorten VL (spec/12 R330). -/
def waitTrims : M Unit := do
  let s ← get
  if s.ahead.any s.trimPending then stall else pure ()
/-- Wait for the writers of a vector group or a predicate, and for VL (spec/09 R242, spec/15 R380). -/
def waitWriters (v : List Nat) (p : List Nat) : M Unit := do
  let s ← get
  let writes := fun (q : QEntry) =>
    let u := vuse q.instr
    (u.writes q.vec).any (v.contains ·) || (u.pw.flatMap (groupRegs (u.rows q.vec)) ++ u.p1.map (·.toNat)).any (p.contains ·)
  if s.ahead.any fun q => s.trimPending q || writes q then stall else pure ()

end Sys2Proof.Machine
end

