-- ==== Sys2Proof/Machine/Access.lean ====
section
/-! DEFINITION. Scalar loads and stores (spec/12 R317 to R320): the order of the checks and the place of the access. -/
namespace Sys2Proof.Machine
set_option Elab.async false

/-- A register of control space as bytes, and the store of bytes into one: the other bytes of the register keep their value, and
no bit outside the bytes counts as written by 1. -/
def State.ctlBytes (s : State) (la n : Nat) : List Byte := ((toBytes 8 (s.ctlRead la).toNat).drop (la % 8)).take n
def State.ctlStore (s : State) (la : Nat) (bs : List Byte) : State :=
  let w1 := leNat bs * 256 ^ (la % 8)
  let v := leNat (putBytes (toBytes 8 (s.ctlRead la).toNat) (la % 8) bs)
  s.ctlWrite la (BitVec.ofNat 64 v) (BitVec.ofNat 64 w1)

/-- A plate slot of the executing hart resolved for `n` bytes (spec/03 R85, R86, R88): plate number and offset. -/
def resolveSlot (va : Word) (n : Nat) : M (Nat × Nat) := do
  let s ← get
  if 0x40000 < plateOfs va + n then raise tcBound va
  else
    match s.hart.slots[(plateSlotOf va).toNat]'(plateSlotOf va).isLt with
    | .attached p => return (dieOfHart s.cur * 128 + p, plateOfs va)
    | _ => raise tcDetached va

/-- Bytes of on-chip storage at a local address of this device; a poison mark among them is consumed (spec/03 R92). -/
def windowLoad (va : Word) (la n : Nat) : M (List Byte) := do
  let s ← get
  let pa := s.fab.dev.toNat * 2 ^ 42 + la
  if natAny (8 * pa) (8 * n) s.m.marks then raise tcPoison va
  else return s.homeBytes 0 pa n

/-- Store bytes to on-chip storage at a local address of this device. -/
def windowStore (la : Nat) (bs : List Byte) : M Unit :=
  modify fun s => s.homeStore 0 (s.fab.dev.toNat * 2 ^ 42 + la) bs

/-- A load from a plate, which its state must allow (spec/03 R82). -/
def plateLoad (va : Word) (p ofs n : Nat) : M (List Byte) := do
  let s ← get
  if (s.plate p).admits false then windowLoad va (plateLa (p / 128) (p % 128) ofs) n else stall

/-- A store to a plate, which its state must allow (spec/03 R82). -/
def plateStore (p ofs : Nat) (bs : List Byte) : M Unit := do
  let s ← get
  if (s.plate p).admits true then windowStore (plateLa (p / 128) (p % 128) ofs) bs else stall

/-- Where a scalar access is performed: a plate through the window, or a translated address with its page's attributes. -/
inductive Place where
  | plate (p ofs : Nat)
  | page (pa : Nat) (attr : Attr) (t : Target)
  deriving DecidableEq, Repr

/-- The checks of R318 in their order, up to the place of the access. -/
def accessCheck (acc : Acc) (va : Word) (n : Nat) : M Place := do
  if va.toNat % n ≠ 0 then raise tcMisaligned va
  else
    let s ← get
    if inPlateWindow s.hart.user.pwb va then
      let (p, o) ← resolveSlot va n
      return .plate p o
    else
      let (pa, attr) ← translate .data acc va
      let s ← get
      match s.target s.hart.ctx s.hart.sup pa n with
      | .refused => raise tcAccessFault va
      | t =>
        if (if attr.sy then s.homeWaits (keySlot s.hart.ctx) (dieOfHart s.cur) pa else s.accessWaits s.cur pa n) then stallAt pa
        else if acc.writes && isHbm (laOf pa) && s.isProtected pa n then raise tcAccessFault va else return .page pa attr t

/-- Read at the place R319 gives. -/
def loadFrom (va : Word) (n : Nat) : Place → M (List Byte)
  | .plate p o => plateLoad va p o n
  | .page pa attr t => do
    let s ← get
    match t with
    | .hbm =>
      let (s', bs, psn) := if attr.sy then s.homeTake (keySlot s.hart.ctx) pa n
        else s.l1Read (keySlot s.hart.ctx) (coreOf s.cur) pa n attr.rid
      set s'
      if psn then raise tcPoison va else return bs
    | .plate p o => plateLoad va p o n
    | .window => windowLoad va (laOf pa) n
    | .control la => return s.ctlBytes la n
    | .mailbox o => return (List.range n).map fun i => s.mbByte (o + i)
    | .refused => raise tcAccessFault va

/-- Write at the place R319 gives. -/
def storeTo (bs : List Byte) : Place → M Unit
  | .plate p o => plateStore p o bs
  | .page pa attr t => do
    let s ← get
    match t with
    | .hbm =>
      let slot := keySlot s.hart.ctx
      set (if attr.sy then ((s.homeTake slot pa bs.length).1).homePut slot pa bs else s.l1Write slot (coreOf s.cur) pa attr.rid bs)
    | .plate p o => plateStore p o bs
    | .window => windowStore (laOf pa) bs
    | .control la => set (s.ctlStore la bs)
    | .mailbox o => set (s.mbWrite o bs)
    | .refused => pure ()

/-- The physical address of a place. -/
def Place.pa (dev : Nat) : Place → Nat
  | .plate p o => dev * 2 ^ 42 + plateLa (p / 128) (p % 128) o
  | .page pa _ _ => pa

def Place.sy : Place → Bool
  | .page _ attr _ => attr.sy
  | .plate .. => false

/-- Wait for queued accesses that come first (spec/06 R164, R165). -/
def waitPlace (p : Place) (n : Nat) (store : Bool) : M Unit := do
  let s ← get
  waitOverlap (p.pa s.fab.dev.toNat) n store
  waitSy p.sy

/-- A scalar load of `n` bytes (R318). -/
def loadBytes (va : Word) (n : Nat) : M (List Byte) := do
  let p ← accessCheck .load va n
  waitPlace p n false
  loadFrom va n p

/-- A scalar store (R318). -/
def storeBytes (va : Word) (bs : List Byte) : M Unit := do
  let p ← accessCheck .store va bs.length
  waitPlace p bs.length true
  storeTo bs p

end Sys2Proof.Machine
end

