-- ==== Sys2Proof/Machine/Launch.lean ====
section
/-! DEFINITION. How plates, harts and launches come to their ends (spec/03 R80, R81, R87; spec/07 R192, R193; spec/08 R220;
spec/17 R434). -/
namespace Sys2Proof.Machine
set_option Elab.async false

/-! ### Plates -/

def Slot.plate? : Slot → Option Nat
  | .attached p => some p
  | _ => none

def Hart.slotAt (h : Hart) (i : Nat) : Slot := if hi : i < 16 then h.slots[i] else .empty
def Hart.setSlot (h : Hart) (i : Nat) (v : Slot) : Hart :=
  if hi : i < 16 then { h with slots := h.slots.set i v } else h

/-- Some queued access or copy still resolves to the plate (the drain set of R87). -/
def State.plateUsed (s : State) (p : Nat) : Bool :=
  (s.hartIds.any fun h => (s.getHart h).vq.any (fun q => q.drain.any (·.2 == p)) || (s.getHart h).mq.any (fun q => q.drain.any (·.2 == p))) ||
  s.m.clusters.any fun c => c.2.copies.any fun x => x.drained.any (·.2 == p)

/-- Copies that a plate held back go on: the copy units with active commands are asked again. -/
def State.copyRetry (s : State) : State :=
  s.after ((s.m.clusters.filter fun c => c.2.copies.any (·.active)).map fun c =>
    (.copyComplete, { die := BitVec.ofNat 3 (c.1 / 16), unit := BitVec.ofNat 32 (c.1 % 16) }))

/-- A plate whose drain set is empty is re-attached by the plate switch next (R87, step 4). -/
def State.drainCheck (s : State) (p : Nat) : State :=
  let x := s.plate p
  if x.hand.isSome && x.state == 3#2 && !s.plateUsed p then
    s.after [(.plateReattach, { die := BitVec.ofNat 3 (p / 128), unit := BitVec.ofNat 32 (p % 128) })]
  else s

/-- Elements that an entry may access, whatever its mask; an indexed access may access any slot. -/
def QEntry.nominal (q : QEntry) : List VElem :=
  match q.instr with
  | .vld d _ _ _ | .vldT d _ _ _ | .vst d _ _ _ | .vstN d _ _ _ _ => q.vec.grid.map fun (k, i) => q.vec.stridedElem d q.xa k i
  | .tld d _ | .tst d _ => (q.shape (d.extractLsb' 0 3)).elim [] fun t => tileElems q.vec q.xa t.ty 0 t.rows t.cols
  | .mopM _ a _ => (q.shape (a.extractLsb' 0 3)).elim [] fun t => tileElems q.vec q.xb t.ty 0 t.cols q.vec.len
  | _ => []
def Instr.isIndexed : Instr → Bool
  | .vldx .. | .vstx .. => true
  | _ => false

/-- An address lies in slot k of a plate window. -/
def inSlot (pwb : Word) (k : Nat) (va : Word) : Bool := inPlateWindow pwb va && decide ((plateSlotOf va).toNat = k)
def QEntry.mayTouchSlot (q : QEntry) (k : Nat) : Bool := Instr.isIndexed q.instr || q.nominal.any fun e => inSlot q.pwb k e.va

/-- Elements of one side of a copy, and the address of element j (spec/13 R344). -/
def CopySide.total (c : CopySide) : Nat := c.counts.foldl (fun n x => n * x.toNat) 1
def CopySide.addr (c : CopySide) (j : Nat) : Word := go c.base j c.counts c.strides
where
  go : Word → Nat → List (BitVec 32) → List Word → Word
    | a, r, n :: ns, t :: ts => go (a + BitVec.ofNat 64 (r % n.toNat) * t) (r / n.toNat) ns ts
    | a, _, _, _ => a
/-- A copy of kind 1 names slot k. -/
def CopySide.touchesSlot (c : CopySide) (pwb : Word) (k : Nat) : Bool :=
  c.kind == 1#2 && (List.range c.total).any fun j => inSlot pwb k (c.addr j)

/-- Physical address of storage of this device. -/
def State.ownPa (s : State) (la : Nat) : Nat := s.fab.dev.toNat * 2 ^ 42 + la
def platePa (s : State) (p ofs : Nat) : Nat := s.ownPa (plateLa (p / 128) (p % 128) ofs)

/-- The accesses to a plate that hart `h` has issued: those through slot `k`, which go on resolving to it, and those through a page of
its window (R87, step 3). -/
def State.keepDrain (s : State) (h k p : Nat) : State :=
  let t := s.switchTo h
  let mark := fun (q : QEntry) =>
    if q.mayTouchSlot k || t.entryTouches q (platePa s p 0) 0x40000 true then { q with drain := (k, p) :: q.drain } else q
  let s := s.updHartN h fun x => { x with vq := x.vq.map mark, mq := x.mq.map mark }
  let c := clusterOf h
  let cl := s.cluster c
  s.setCluster c { cl with copies := cl.copies.map fun y =>
    if y.hart = h ∧ (y.src.touchesSlot y.pwb k || y.dst.touchesSlot y.pwb k) = true then { y with drained := (k, p) :: y.drained } else y }

/-- Begin a hand-over of the plate in slot `k` of hart `h` (R87): the slot detaches, and the plate drains unless a copy fills it. -/
def State.handOver (s : State) (h k p : Nat) (dest : HandTo) : State :=
  let s := if (s.getHart h).slotAt k = .attached (p % 128) then (s.updHartN h (·.setSlot k .empty)).keepDrain h k p else s
  let x := s.plate p
  let s := s.setPlate p (if x.state = 1#2 ∨ x.state = 3#2 then { x with hand := some dest } else { x with state := 3#2, held := x.state, hand := some dest })
  s.drainCheck p

/-- A plate goes to its context's pool. A plate that drains returns to HELD. -/
def State.toPool (s : State) (p : Nat) : State :=
  let x := s.plate p
  (s.setPlate p { x with state := if x.state = 3#2 then x.held else x.state, attach := 1#2, target := 0, hand := none }).copyRetry.placeAgain

/-- A plate is the next to attach in slot 14 or 15 of a station: the first that waits for it, or the tile that the station holds. -/
def Orbit.due (o : Orbit) (i k p : Nat) : Bool :=
  match o.stations[i]? with
  | none => false
  | some t =>
    let wait := (if k = 14 then t.inPro else t.inRetro).filterMap (·.plate)
    (if k = 14 then t.pro else t.retro).plate.any (· % 128 == p) || wait.head?.any (· % 128 == p)

/-- The plate that attaches next in slot 14 or 15 of a station's hart. -/
def State.dueAt (s : State) (h k : Nat) : Option Nat :=
  (s.m.plates.find? fun p => match p.2.hand with
    | some (.station t j n) => decide (t = h) && decide (j = k) &&
        ((s.disp.orbits.get .reset n).stations.findIdx? fun x => decide (x.hart = h)).any fun i => (s.disp.orbits.get .reset n).due i k (p.1 % 128)
    | _ => false).map (·.1)

/-- A slot has come free: a tile that waits for it in the plate switch arrives next (R207). -/
def State.slotFreed (s : State) (h k : Nat) : State :=
  if (s.getHart h).slotAt k ≠ .empty then s
  else (s.dueAt h k).elim s fun p => (s.updHartN h (·.setSlot k .pending)).drainCheck p

/-- A plate stays beside the tile that a station of a completed orbit holds (R210). -/
def Orbit.stays (o : Orbit) (i k p : Nat) : Bool :=
  o.complete && (o.stations[i]?).any fun t =>
    (if k = 14 then t.pro else t.retro).plate.isSome && ((if k = 14 then t.inPro else t.inRetro).filterMap (·.plate)).contains p

/-- The end of a hand-over (R87, step 4): the state returns to HELD; a target that has retired gives the plate to the pool. -/
def State.reattach (s : State) (p : Nat) : State :=
  let x := s.plate p
  match x.hand with
  | none => s
  | some dest =>
    if x.state ≠ 3#2 ∨ s.plateUsed p = true then s
    else
      match dest with
      | .pool => s.toPool p
      | .slot h k give =>
        if (s.getHart h).slotAt k = .pending then
          let s := (s.setPlate p { x with state := x.held, attach := 2#2, target := h % 256 * 16 + k, hand := none }).copyRetry
          s.updHartN h fun y => { y.setSlot k (.attached (p % 128)) with latch := if give then y.latch ||| 0b0001000#7 else y.latch }
        else s.toPool p
      | .station h k n =>
        let o := s.disp.orbits.get .reset n
        match o.stations.findIdx? fun x => decide (x.hart = h) with
        | none => s.toPool p
        | some i =>
          let free := (s.getHart h).slotAt k ∈ [Slot.empty, .pending] ∧ o.due i k (p % 128) = true
          if ¬free ∧ o.stays i k p = false then s
          else
            let s := (s.setPlate p { x with state := x.held, attach := 3#2, target := h / 16 % 16 * 256 + i, hand := none }).copyRetry
            let s := if free then s.updHartN h fun y => y.setSlot k (.attached (p % 128)) else s
            let m : Msg := { unit := BitVec.ofNat 32 n, station := BitVec.ofNat 4 i, kind := 1#8 }
            s.after [(.orbitRound, m), (.orbitMarker, m), (.orbitComplete, m)]

/-! ### Retirement of a hart -/

/-- The fills and the drains of a copy end with it (R81). -/
def State.endFill (s : State) (p : Nat) (ok : Bool) : State :=
  let x := s.plate p
  let dest : BitVec 2 := if ok then 2#2 else 0#2
  (if x.state = 1#2 then
    if x.hand.isSome then (s.setPlate p { x with state := 3#2, held := dest }).drainCheck p else s.setPlate p { x with state := dest }
  else if x.state = 3#2 then (s.setPlate p { x with held := dest }).drainCheck p
  else s).copyRetry

/-- Write a copy's progress word at the block's home (spec/13 R345). -/
def State.writeProgress (s : State) (c : CopyCmd) : State :=
  s.engineWrite (keySlot c.ctx) (c.blockPa + 0x28) (toBytes 8 c.progress)

/-- A copy as its progress word counts it: the elements below the first that it has read and not written (spec/13 R345, spec/08 R225). -/
def CopyCmd.counted (c : CopyCmd) : CopyCmd :=
  { c with progress := (c.buffer.map (·.1)).foldl min c.progress, buffer := [], served := 0 }

/-- The copies a hart pushed end at an element boundary with their progress written and their records discarded (R220, R347). -/
def State.dropCopies (s : State) (h : Nat) : State :=
  let c := clusterOf h
  let mine := (s.cluster c).copies.filter fun y => decide (y.hart = h)
  let cl := s.cluster c
  let s := s.setCluster c { cl with copies := cl.copies.filter fun y => decide (y.hart ≠ h) }
  mine.foldl (fun s y =>
    let s := (s.unpinAll y.pins).writeProgress y.counted
    let s := y.filling.foldl (fun s p => s.endFill p false) s
    y.drained.foldl (fun s d => s.drainCheck d.2) s) s

/-- Remove a hart's watch and its park entries. -/
def State.unwatch (s : State) (h : Nat) : State :=
  s.updMem fun m => { m with slices := m.slices.map fun t =>
    (t.1, { t.2 with watches := t.2.watches.filter (fun w => decide (w.2 ≠ h)) }) }
def State.unpark (s : State) (h : Nat) : State :=
  s.updMem fun m => { m with slices := m.slices.map fun t =>
    (t.1, { t.2 with parks := t.2.parks.filter (fun w => decide (w.hart ≠ h)) }) }

/-- A hart leaves its physical place: its grant and its slots are freed, its queues, records and pending items are gone. -/
def Hart.retired (h : Hart) : Hart :=
  { h with phase := .idle, held := [], acks := { reg := 0, acq := 0, tlb := 0 }, resend := [], launch := none, grant := .reset, vq := [], mq := [], frozen := false, window := [], pushSince := none,
           entering := false, trapFrom := none, e1 := [], e2 := [], outstanding := 0,
           slots := Vector.replicate 16 .empty, latch := 0#7, pendingUser := [], noticePending := false, resizePending := false,
           user := { h.user with watchEn := false } }

/-- What entries that leave a queue held of plates given away is released (R87). -/
def State.releaseDrains (s : State) (l : List QEntry) : State := l.foldl (fun s q => q.drain.foldl (fun s d => s.drainCheck d.2) s) s

/-- A plate of a hart that is freed returns to the pool; one that a copy fills waits for that copy's end (R81, R87). -/
def State.plateFreed (s : State) (p : Nat) : State :=
  if (s.plate p).state = 1#2 then s.setPlate p { s.plate p with hand := some .pool } else s.toPool p

/-- The hart to which a hand-over goes. -/
def HandTo.hart? : HandTo → Option Nat
  | .pool => none
  | .slot h _ _ => some h
  | .station h _ _ => some h

/-- The stations of a hart keep none of some plates. -/
def Orbit.lose (o : Orbit) (h : Nat) (lost : List Nat) : Orbit :=
  let keep := fun (t : OTile) => if t.plate.any lost.contains then { id := 0xFFF#12, plate := none } else t
  { o with stations := o.stations.map fun t =>
      if t.hart = h then { t with pro := keep t.pro, retro := keep t.retro, inPro := t.inPro.map keep, inRetro := t.inRetro.map keep } else t }

/-- Hand-overs on their way to a slot or a station of a hart that is freed end in the pool (R87, step 4); the station is left without the
tile. -/
def State.redirect (s : State) (h : Nat) : State :=
  let mine := fun (p : Plate) => (p.hand.bind (·.hart?)) == some h
  let lost := (s.m.plates.filter fun x => mine x.2).map (·.1)
  if lost.isEmpty then s
  else
    let s := s.updMem fun m => { m with plates := m.plates.map fun x => if mine x.2 then (x.1, { x.2 with hand := some .pool }) else x }
    s.updDisp fun d => { d with orbits := d.orbits.map fun o => (o.1, o.2.lose h lost) }

/-- Wakes on their way to a hart that is freed are dropped (spec/07 R199). -/
def State.dropWakes (s : State) (h : Nat) : State :=
  { s with inbox := s.inbox.filter fun x => !(x.1 == .wakeArrival && decide (x.2.hart.toNat = h)) }

/-- Free a hart (R192, steps 5 and 6; R220): the watch goes, its plates return to the pool, and the grant is freed. Tiles of an
orbit stay at their station (spec/17 R434). One that waits for its event to be accepted stays stopped in its place (spec/09 R260). -/
def State.freeHart (s : State) (h : Nat) : State :=
  let plates := ((List.range 16).filterMap fun i => ((s.getHart h).slotAt i).plate?).filter fun p =>
    (s.plate (dieOfHart h * 128 + p)).attach == 2#2
  let queued := (s.getHart h).vq ++ (s.getHart h).mq
  let s := (((s.unwatch h).unpark h).redirect h).dropWakes h
  let phase := if s.awaitsEvent h then (s.getHart h).phase else .idle
  let s := (s.updHartN h fun x => { x.retired with phase }).releaseDrains queued
  plates.foldl (fun s p => s.plateFreed (dieOfHart h * 128 + p)) s

/-! ### The end of an orbit (R434) -/

/-- The fired bits are written to the ephemeris as the orbit holds them (R210). -/
def State.writeFired (s : State) (o : Orbit) : State :=
  o.eph.foldl (fun s e =>
    let slot := keySlot o.ctx
    let bit := fun (b : Byte) => if e.fired then b ||| 1#8 else b &&& 0xFE#8
    if isHbm (laOf e.pa) then s.engineWrite slot (e.pa + 6) [bit ((s.engineRead slot (dieOf (laOf e.pa)) (e.pa + 6) 1).1.headD 0#8)]
    else s.homeStore slot (e.pa + 6) [bit (s.homeByte slot (e.pa + 6))]) s

/-- A tile returns to the context pool: through the drain from a station's slot, or at the end of the hand-over it is in. -/
def State.tileToPool (s : State) (h k : Nat) (t : OTile) : State :=
  match t.plate with
  | none => s
  | some p =>
    if (s.plate p).hand.isSome then (s.setPlate p { s.plate p with hand := some .pool }).drainCheck p
    else if (s.getHart h).slotAt k = .attached (p % 128) then s.handOver h k p .pool
    else s.toPool p

/-- Every tile of an orbit returns to the pool, and the orbit becomes FREE. Tiles of others that wait for its slots arrive next. -/
def State.freeOrbit (s : State) (n : Nat) : State :=
  let o := s.disp.orbits.get .reset n
  let s := o.stations.foldl (fun s t =>
    let s := (s.tileToPool t.hart 14 t.pro).tileToPool t.hart 15 t.retro
    let s := t.inPro.foldl (fun s x => s.tileToPool t.hart 14 x) s
    let s := t.inRetro.foldl (fun s x => s.tileToPool t.hart 15 x) s
    s.updHartN t.hart fun h =>
      let clr := fun (h : Hart) (k : Nat) => if h.slotAt k = .pending then h.setSlot k .empty else h
      clr (clr h 14) 15) s
  let s := s.updDisp fun d => { d with orbits := d.orbits.set n .reset }
  o.stations.foldl (fun s t => (s.slotFreed t.hart 14).slotFreed t.hart 15) s

/-- The end of its launch ends an orbit (R434). -/
def State.endOrbit (s : State) (n : Nat) : State :=
  let o := s.disp.orbits.get .reset n
  let s := if o.state = 2#2 then s.writeFired o else s
  s.freeOrbit n

/-- The orbits that harts of a launch defined. -/
def State.orbitsOf (s : State) (l : Nat) : List Nat :=
  (s.disp.orbits.filter fun o => o.2.state ≠ 0#2 && decide (o.2.launch = some l)).map (·.1)

/-! ### The end of a launch -/

/-- Every hart of a launch has retired (R193). -/
def Launch.allDone (r : Launch) : Bool := (List.range r.harts.length).all r.done.contains

/-- A far compare-and-swap of a 64-bit word by the sequencer (R219, R220): whether it performed. -/
def State.casWord (s : State) (slot pa : Nat) (old new : Word) : State × Bool :=
  let (s, b, _) := s.homeTake slot pa 8
  if BitVec.ofNat 64 (leNat b) = old then (s.homePut slot pa (toBytes 8 new.toNat), true) else (s, false)

/-- The physical address of a running launch's state word, by its VA (R219); none where it can no longer be reached. -/
def State.stateWord (s : State) (r : Launch) : State × Option Nat :=
  match s.seqHbm (s.queueView r.slot.toNat 0) (r.record + 0x78#64) with
  | (s, some (pa, _)) => (s, some pa)
  | (s, none) => (s, none)

/-- The swap of a running launch's state word from 1 to its end (R193, R220): whether this end stands. A word that cannot be reached
decides nothing. -/
def State.endWord (s : State) (r : Launch) (v : Word) : State × Bool :=
  match s.stateWord r with
  | (s, some pa) => s.casWord (keySlot r.slot) pa 1#64 v
  | (s, none) => (s, true)

/-- The plates of the tiles of an orbit. -/
def Orbit.plates (o : Orbit) : List Nat :=
  o.stations.flatMap fun t => (t.pro :: t.retro :: (t.inPro ++ t.inRetro)).filterMap (·.plate)

/-- A launch of a parked context ends: its harts, copies and park entries leave the image, and its plates and the tiles named return to
the pool in it (R220). -/
def SavedCtx.without (img : SavedCtx) (l : Nat) (tiles : List Nat) : SavedCtx :=
  let gone := (img.harts.filter fun h => decide (h.launch = l)).map (·.phys)
  let fills := (img.copies.filter fun c => gone.contains c.2.hart).flatMap (·.2.filling)
  { img with
    harts := img.harts.filter fun h => decide (h.launch ≠ l)
    parks := img.parks.filter fun p => !gone.contains p.hart
    copies := img.copies.filter fun c => !gone.contains c.2.hart
    plates := img.plates.map fun p =>
      let n := p.die * 128 + p.plate
      let r := if fills.contains n then { p.record with state := 0#2 } else p.record
      let mine := (r.attach = 2#2 ∧ gone.contains (p.die * 256 + r.target / 16) = true) ∨ tiles.contains n = true
      { p with record := if mine then { r with state := if r.state = 3#2 then r.held else r.state, attach := 1#2, target := 0, hand := none } else r } }

/-- The orbits of a launch end (R220, R434); those of a parked context have their tiles in its image. -/
def State.endOrbits (s : State) (l : Nat) (parked : Bool) : State :=
  (s.orbitsOf l).foldl (fun s n =>
    if parked then
      let o := s.disp.orbits.get .reset n
      let s := if o.state = 2#2 then s.writeFired o else s
      s.updDisp fun d => { d with orbits := d.orbits.set n .reset }
    else s.endOrbit n) s

/-- End a running launch with state 3 (R220): its harts stop, queues are discarded, copies stop, grants are freed, plates return
to the pool, its orbits end, and one event names the record. A launch that had completed first stands as done; so does one whose word a
program has overwritten with another value, which runs on (DESIGN CHOICE, unsafe: log entry 158). -/
def State.failLaunch (s : State) (l : Nat) : State :=
  match s.disp.launches.find? fun x => decide (x.1 = l) with
  | none => s
  | some (_, r) =>
    let (s, ok) := s.endWord r 3#64
    if !ok then s
    else
      let n := r.slot.toNat
      let parked := (s.ctx n).state == 2#2
      let tiles := (s.orbitsOf l).flatMap fun o => (s.disp.orbits.get .reset o).plates
      let s := s.endOrbits l parked
      let live := if parked then [] else r.harts.eraseDups.filter fun h => decide ((s.getHart h).launch = some l)
      let s := live.foldl (fun s h => (s.dropCopies h).freeHart h) s
      let s := s.updDisp fun d => { d with saved := d.saved.map fun x => if x.1 = n then (x.1, x.2.without l tiles) else x }
      let c := s.ctx n
      let s := s.postEvent 8 3#8 r.record (c.gen ++ r.slot) 0xFF#8 0#27
      (s.updDisp fun d => { d with launches := d.launches.filter fun x => decide (x.1 ≠ l) }).placeAgain

end Sys2Proof.Machine
end

