-- ==== Sys2Proof/Machine/Ops.lean ====
section
/-! DEFINITION. Taking a trap and returning from one (spec/09 R232 to R241), and how the meaning of an instruction ends. -/
namespace Sys2Proof.Machine
set_option Elab.async false

/-- The instruction word as TRARG gives it (R233). -/
def instrWord (i : Instr) : Word := (encode i).zeroExtend 64

/-- The address of a trap's entry (R235, R237). -/
def trapVector (trentry : Word) (sup : Bool) (code : BitVec 8) : Word :=
  (trentry &&& ~~~0xFFF#64) + (if sup then 0x800#64 else 0#64) + (code.zeroExtend 64 <<< 6)

/-- Stop the executing hart (R241): the event of kind 1, and the end of its launch with state 3. -/
def State.stopHart (s : State) : State :=
  let t := s.hart.trap
  let s := s.updHart fun h => { h with phase := .stopped (dieOfHart s.cur), entering := false }
  let s := s.postEvent (dieOfHart s.cur) 1#8 t.trpc s.hart.ctxid 0#8 (t.trcode.setWidth 6 ++ s.hartidOf s.cur)
  match s.hart.launch with
  | some l => s.failLaunch l
  | none => s

/-- The registers that a trap writes (R237). -/
def TrapRegs.enter (t : TrapRegs) (code : BitVec 8) (arg : Word) (qk : BitVec 2) (trpc trnext : Word) (prior frz : Bool) : TrapRegs :=
  { t with trpc := trpc &&& ~~~3#64, trnext := (if qk = 0#2 then trpc else trnext) &&& ~~~3#64, trcode := code, trarg := arg,
           prior, qk, skip := code == tcEcall, frz }

/-- Take a trap (R237): the trap registers, the frozen queues, the privilege and the pc. `trpc` is the trapping instruction. What frozen
entries had translated is given up: they translate again (spec/01 R40, R46). -/
def State.takeTrap (s : State) (code : BitVec 8) (arg : Word) (qk : BitVec 2) (trpc : Word) : State :=
  let frz := !s.hart.vq.isEmpty || !s.hart.mq.isEmpty
  let thaw := fun (q : QEntry) => { q with spans := [] }
  let s := s.updHart fun h =>
    { h with trap := h.trap.enter code arg qk trpc h.pc h.sup frz, frozen := h.frozen || frz, phase := .running,
             vq := h.vq.map thaw, mq := h.mq.map thaw, window := [], trapFrom := if qk = 0#2 && !h.sup then none else h.trapFrom }
  if s.hart.trap.trentry.getLsbD 0 then
    s.updHart fun h => { h with sup := true, pc := trapVector h.trap.trentry h.sup code, entering := true }
  else s.stopHart

/-- Drop the head of a queue. -/
def Hart.dropHead (h : Hart) (qk : BitVec 2) : Hart :=
  if qk = 1#2 then { h with vq := h.vq.tail } else if qk = 2#2 then { h with mq := h.mq.tail } else h

/-- Discard the queue entries from a step on (R238, R240: the instructions from TRPC onward run again). -/
def Hart.discardFrom (h : Hart) (seq : Nat) : Hart :=
  { h with vq := h.vq.filter (fun q => decide (q.seq < seq)), mq := h.mq.filter (fun q => decide (q.seq < seq)) }

/-- The return from a trap (R238), in supervisor mode. -/
def Hart.sret (h : Hart) : Hart :=
  let t := h.trap
  let h :=
    if t.qk = 0#2 then
      let h' := (match h.trapFrom with
        | some (pc, seq) => if !t.prior && pc == t.trpc then h.discardFrom seq else h
        | none => h)
      { h' with pc := t.trpc + (if t.skip then 4#64 else 0#64) }
    else
      let h' := if t.skip then
          let g := h.dropHead t.qk
          { g with vec := { g.vec with vstart := 0#32 }, user := { g.user with mstart := 0#10 } }
        else h
      { h' with pc := t.trnext }
  let clear := fun (q : QEntry) => if !t.prior && q.faulted then { q with faulted := false, since := none } else q
  { h with sup := t.prior, frozen := h.frozen && t.prior, vq := h.vq.map clear, mq := h.mq.map clear,
           trap := { h.trap with frz := h.trap.frz && t.prior }, trapFrom := if t.prior then h.trapFrom else none }

/-! ### The end of a meaning -/

/-- An instruction that completes moves on to the next one; one that traps enters the supervisor; one that waits is met again. -/
def finish (m : M Unit) (s : State) : Host.Outcome State Fault Refusal :=
  match m s with
  | .ok _ t => .next t.advance
  | .error (.trap c a) t => .next (t.takeTrap c a 0#2 t.hart.pc)
  | .error .stall t => .next t

/-- The same for an instruction that sets the pc itself. -/
def finishPc (m : M Unit) (s : State) : Host.Outcome State Fault Refusal :=
  match m s with
  | .ok _ t => .next t
  | .error (.trap c a) t => .next (t.takeTrap c a 0#2 t.hart.pc)
  | .error .stall t => .next t

/-- A step of another agent. -/
def finishEvent (m : M Unit) (s : State) : Host.Outcome State Fault Refusal :=
  match m s with
  | .ok _ t => .next t
  | .error (.trap c a) t => .next (t.takeTrap c a 0#2 t.hart.pc)
  | .error .stall t => .next t

/-- Only the supervisor goes on (R232). -/
def needSup (i : Instr) : M Unit := do
  let s ← get
  if s.hart.sup then pure () else raise tcPrivileged (instrWord i)

/-- A reserved encoding or operand (R233). -/
def illegal {α : Type} (i : Instr) : M α := raise tcIllegal (instrWord i)

/-- A message outside the limits of its step's rule is no step of the device: nothing comes of it. -/
def badMsg : M Unit := pure ()

end Sys2Proof.Machine
end

