-- ==== Sys2Proof/Machine/Operands.lean ====
section
/-! DEFINITION. The operand forms of the encoded instructions (spec/11 R287 to R292, spec/12 R312 to R326, spec/13 R331, R335). -/
namespace Sys2Proof.Machine
set_option Elab.async false

/-- A sign-extended immediate or offset. -/
def sext {n : Nat} (i : BitVec n) : Word := i.signExtend 64
/-- A zero-extended immediate. -/
def zext {n : Nat} (i : BitVec n) : Word := i.zeroExtend 64

/-- The effective address of a load or store: x[a] plus a signed offset (R317, R322). -/
def State.ea {n : Nat} (s : State) (a : Reg) (o : BitVec n) : Word := s.xr a + sext o

/-- The target of a branch or of `jal`: the pc plus 4 × a signed word offset (R324, R326). -/
def State.branchTarget {n : Nat} (s : State) (o : BitVec n) : Word := s.hart.pc + (sext o <<< 2)

/-- An upper immediate (R314). -/
def upper (i : BitVec 21) : Word := sext i <<< 16

/-- A shift amount in a register: bits [5:0] (R310). -/
def shamt (b : Word) : Nat := (b.extractLsb' 0 6).toNat

/-- The width in bytes of a `.w` or `.d` form (R331). -/
def widthBytes (w : BitVec 1) : Nat := if w = 0#1 then 4 else 8

/-- A loaded value of `n` bytes, sign-extended (R317). -/
def signedLoad (n : Nat) (bs : List Byte) : Word := (BitVec.ofNat (8 * n) (leNat bs)).signExtend 64
/-- A loaded value, zero-extended. -/
def unsignedLoad (bs : List Byte) : Word := BitVec.ofNat 64 (leNat bs)
/-- The low `n` bytes of a stored register. -/
def storeData (n : Nat) (v : Word) : List Byte := toBytes n v.toNat

/-- The register fields d, a, b of an instruction word (R287). -/
def wordD (w : BitVec 32) : Reg := w.extractLsb' 21 5
def wordA (w : BitVec 32) : Reg := w.extractLsb' 16 5
def wordB (w : BitVec 32) : Reg := w.extractLsb' 11 5

/-- An instruction as it enters a queue: its scalar operands, configuration and PWB as they stand (R298, spec/03 R83). -/
def State.qentry (s : State) (i : Instr) : QEntry :=
  let w := encode i
  { instr := i, pc := s.hart.pc, xd := s.xr (wordD w), xa := s.xr (wordA w), xb := s.xr (wordB w), fa := s.fr (wordA w), fb := s.fr (wordB w),
    vec := s.hart.vec, tshape := s.hart.user.tshape, pwb := s.hart.user.pwb, drain := [], since := none, seq := s.tick,
    faulted := false, spans := if s.hart.sup then s.hart.window else [], slices := 0 }

/-- The head entry that a trap left takes the operand registers and VL as they stand at `sret` (spec/09 R243). -/
def State.requeue (s : State) (q : QEntry) : QEntry :=
  if q.faulted then
    let w := encode q.instr
    { q with xd := s.xr (wordD w), xa := s.xr (wordA w), xb := s.xr (wordB w), fa := s.fr (wordA w), fb := s.fr (wordB w),
             vec := { q.vec with vl := s.hart.vec.vl }, since := none, slices := 0 }
  else q

end Sys2Proof.Machine
end

