-- ==== Sys2Proof/Machine/Int.lean ====
section
/-! DEFINITION. Integer arithmetic (spec/12 R309 to R315). -/
namespace Sys2Proof.Machine
set_option Elab.async false

/-- Write an integer result and go on (R309). -/
def State.result (s : State) (d : Reg) (v : Word) : Host.Outcome State Fault Refusal := .next ((s.setX d v).advance)

/-- Rotate left by `n` below 64 (R310). -/
def rolWord (a : Word) (n : Nat) : Word := if n = 0 then a else (a <<< n) ||| (a >>> (64 - n))

/-- Count of zero bits above bit n of the low n + 1 bits scanned down (R310). -/
def clzFrom (a : Word) : Nat → Nat
  | 0 => 0
  | n + 1 => if a.getLsbD n then 0 else 1 + clzFrom a n
/-- Count of leading zeros (R310, R311). -/
def clzWord (a : Word) : Word := BitVec.ofNat 64 (clzFrom a 64)

def ctzFrom (a : Word) (i : Nat) : Nat → Nat
  | 0 => 0
  | n + 1 => if a.getLsbD i then 0 else 1 + ctzFrom a (i + 1) n
/-- Count of trailing zeros (R310, R311). -/
def ctzWord (a : Word) : Word := BitVec.ofNat 64 (ctzFrom a 0 64)

def popcTo (a : Word) : Nat → Nat
  | 0 => 0
  | n + 1 => (if a.getLsbD n then 1 else 0) + popcTo a n
/-- Count of 1 bits (R310). -/
def popcWord (a : Word) : Word := BitVec.ofNat 64 (popcTo a 64)

/-- The high halves of the 128-bit products (R315). -/
def mulHighS (a b : Word) : Word := ((a.signExtend 128 * b.signExtend 128).extractLsb' 64 64)
def mulHighU (a b : Word) : Word := ((a.zeroExtend 128 * b.zeroExtend 128).extractLsb' 64 64)
def mulHighSU (a b : Word) : Word := ((a.signExtend 128 * b.zeroExtend 128).extractLsb' 64 64)

/-- Division toward zero, with the edge cases of R315. -/
def divS (a b : Word) : Word := if b = 0#64 then BitVec.allOnes 64 else BitVec.ofInt 64 (a.toInt.tdiv b.toInt)
def divU (a b : Word) : Word := if b = 0#64 then BitVec.allOnes 64 else BitVec.ofNat 64 (a.toNat / b.toNat)
def remS (a b : Word) : Word := if b = 0#64 then a else a - b * divS a b
def remU (a b : Word) : Word := if b = 0#64 then a else a - b * divU a b

def execAdd (d a b : Reg) (s : State) : Host.Outcome State Fault Refusal := s.result d (s.xr a + s.xr b)
def execSub (d a b : Reg) (s : State) : Host.Outcome State Fault Refusal := s.result d (s.xr a - s.xr b)
def execAnd (d a b : Reg) (s : State) : Host.Outcome State Fault Refusal := s.result d (s.xr a &&& s.xr b)
def execOr (d a b : Reg) (s : State) : Host.Outcome State Fault Refusal := s.result d (s.xr a ||| s.xr b)
def execXor (d a b : Reg) (s : State) : Host.Outcome State Fault Refusal := s.result d (s.xr a ^^^ s.xr b)
def execAndn (d a b : Reg) (s : State) : Host.Outcome State Fault Refusal := s.result d (s.xr a &&& ~~~s.xr b)
def execSll (d a b : Reg) (s : State) : Host.Outcome State Fault Refusal := s.result d (s.xr a <<< shamt (s.xr b))
def execSrl (d a b : Reg) (s : State) : Host.Outcome State Fault Refusal := s.result d (s.xr a >>> shamt (s.xr b))
def execSra (d a b : Reg) (s : State) : Host.Outcome State Fault Refusal := s.result d ((s.xr a).sshiftRight (shamt (s.xr b)))
def execRol (d a b : Reg) (s : State) : Host.Outcome State Fault Refusal := s.result d (rolWord (s.xr a) (shamt (s.xr b)))
def execSlt (d a b : Reg) (s : State) : Host.Outcome State Fault Refusal := s.result d (boolWord (ltS (s.xr a) (s.xr b)))
def execSltu (d a b : Reg) (s : State) : Host.Outcome State Fault Refusal := s.result d (boolWord (ltU (s.xr a) (s.xr b)))
def execMin (d a b : Reg) (s : State) : Host.Outcome State Fault Refusal :=
  s.result d (if ltS (s.xr b) (s.xr a) then s.xr b else s.xr a)
def execMax (d a b : Reg) (s : State) : Host.Outcome State Fault Refusal :=
  s.result d (if ltS (s.xr a) (s.xr b) then s.xr b else s.xr a)
def execMinu (d a b : Reg) (s : State) : Host.Outcome State Fault Refusal :=
  s.result d (if ltU (s.xr b) (s.xr a) then s.xr b else s.xr a)
def execMaxu (d a b : Reg) (s : State) : Host.Outcome State Fault Refusal :=
  s.result d (if ltU (s.xr a) (s.xr b) then s.xr b else s.xr a)
def execClz (d a : Reg) (s : State) : Host.Outcome State Fault Refusal := s.result d (clzWord (s.xr a))
def execCtz (d a : Reg) (s : State) : Host.Outcome State Fault Refusal := s.result d (ctzWord (s.xr a))
def execPopc (d a : Reg) (s : State) : Host.Outcome State Fault Refusal := s.result d (popcWord (s.xr a))
def execAddi (d a : Reg) (i : BitVec 16) (s : State) : Host.Outcome State Fault Refusal := s.result d (s.xr a + sext i)
def execAndi (d a : Reg) (i : BitVec 16) (s : State) : Host.Outcome State Fault Refusal := s.result d (s.xr a &&& zext i)
def execOri (d a : Reg) (i : BitVec 16) (s : State) : Host.Outcome State Fault Refusal := s.result d (s.xr a ||| zext i)
def execXori (d a : Reg) (i : BitVec 16) (s : State) : Host.Outcome State Fault Refusal := s.result d (s.xr a ^^^ zext i)
def execSlli (d a : Reg) (n : BitVec 6) (s : State) : Host.Outcome State Fault Refusal := s.result d (s.xr a <<< n.toNat)
def execSrli (d a : Reg) (n : BitVec 6) (s : State) : Host.Outcome State Fault Refusal := s.result d (s.xr a >>> n.toNat)
def execSrai (d a : Reg) (n : BitVec 6) (s : State) : Host.Outcome State Fault Refusal := s.result d ((s.xr a).sshiftRight n.toNat)
def execSlti (d a : Reg) (i : BitVec 16) (s : State) : Host.Outcome State Fault Refusal :=
  s.result d (boolWord (ltS (s.xr a) (sext i)))
def execSltiu (d a : Reg) (i : BitVec 16) (s : State) : Host.Outcome State Fault Refusal :=
  s.result d (boolWord (ltU (s.xr a) (sext i)))
def execLih (d : Reg) (i : BitVec 21) (s : State) : Host.Outcome State Fault Refusal := s.result d (upper i)
def execPcrel (d : Reg) (i : BitVec 21) (s : State) : Host.Outcome State Fault Refusal := s.result d (s.hart.pc + upper i)
def execMul (d a b : Reg) (s : State) : Host.Outcome State Fault Refusal := s.result d (s.xr a * s.xr b)
def execMulh (d a b : Reg) (s : State) : Host.Outcome State Fault Refusal := s.result d (mulHighS (s.xr a) (s.xr b))
def execMulhu (d a b : Reg) (s : State) : Host.Outcome State Fault Refusal := s.result d (mulHighU (s.xr a) (s.xr b))
def execMulhsu (d a b : Reg) (s : State) : Host.Outcome State Fault Refusal := s.result d (mulHighSU (s.xr a) (s.xr b))
def execDiv (d a b : Reg) (s : State) : Host.Outcome State Fault Refusal := s.result d (divS (s.xr a) (s.xr b))
def execDivu (d a b : Reg) (s : State) : Host.Outcome State Fault Refusal := s.result d (divU (s.xr a) (s.xr b))
def execRem (d a b : Reg) (s : State) : Host.Outcome State Fault Refusal := s.result d (remS (s.xr a) (s.xr b))
def execRemu (d a b : Reg) (s : State) : Host.Outcome State Fault Refusal := s.result d (remU (s.xr a) (s.xr b))

end Sys2Proof.Machine
end

