-- ==== Sys2Proof/Machine/LoadStore.lean ====
section
/-! DEFINITION. Scalar loads and stores, acquire loads and release stores, floating loads and stores (spec/12 R317 to R323,
spec/14 R358). -/
namespace Sys2Proof.Machine
set_option Elab.async false

/-- A load into an x register. -/
def loadX (d : Reg) (va : Word) (n : Nat) (g : List Byte → Word) : M Unit := do
  let bs ← loadBytes va n
  modify fun s => s.setX d (g bs)

/-- A load into an f register. -/
def loadF (d : Reg) (va : Word) (n : Nat) (g : List Byte → Word) : M Unit := do
  let bs ← loadBytes va n
  modify fun s => s.setF d (g bs)

def execLdB (d a : Reg) (o : BitVec 13) (s : State) : Host.Outcome State Fault Refusal := finish (loadX d (s.ea a o) 1 (signedLoad 1)) s
def execLdBu (d a : Reg) (o : BitVec 13) (s : State) : Host.Outcome State Fault Refusal := finish (loadX d (s.ea a o) 1 unsignedLoad) s
def execLdH (d a : Reg) (o : BitVec 13) (s : State) : Host.Outcome State Fault Refusal := finish (loadX d (s.ea a o) 2 (signedLoad 2)) s
def execLdHu (d a : Reg) (o : BitVec 13) (s : State) : Host.Outcome State Fault Refusal := finish (loadX d (s.ea a o) 2 unsignedLoad) s
def execLdW (d a : Reg) (o : BitVec 13) (s : State) : Host.Outcome State Fault Refusal := finish (loadX d (s.ea a o) 4 (signedLoad 4)) s
def execLdWu (d a : Reg) (o : BitVec 13) (s : State) : Host.Outcome State Fault Refusal := finish (loadX d (s.ea a o) 4 unsignedLoad) s
def execLdD (d a : Reg) (o : BitVec 13) (s : State) : Host.Outcome State Fault Refusal := finish (loadX d (s.ea a o) 8 unsignedLoad) s
def execStB (d a : Reg) (o : BitVec 13) (s : State) : Host.Outcome State Fault Refusal := finish (storeBytes (s.ea a o) (storeData 1 (s.xr d))) s
def execStH (d a : Reg) (o : BitVec 13) (s : State) : Host.Outcome State Fault Refusal := finish (storeBytes (s.ea a o) (storeData 2 (s.xr d))) s
def execStW (d a : Reg) (o : BitVec 13) (s : State) : Host.Outcome State Fault Refusal := finish (storeBytes (s.ea a o) (storeData 4 (s.xr d))) s
def execStD (d a : Reg) (o : BitVec 13) (s : State) : Host.Outcome State Fault Refusal := finish (storeBytes (s.ea a o) (storeData 8 (s.xr d))) s

/-- The regions that AQRM selects for the executing hart (spec/05 R132). -/
def State.aqrm (s : State) : BitVec 16 := aqrmRegions s.hart.user.aqrm

/-- A release of the executing hart. It waits for queued stores, and for the answers of other devices (spec/05 R121, spec/13 R336). -/
def doRelease (scope : BitVec 2) (regions : BitVec 16) : M Unit := do
  waitEntries fun q => Instr.isQueuedStore q.instr
  let s ← get
  if s.hart.acks.reg = 0 then
    match s.releaseWaits s.cur scope regions with
    | none => set (s.release s.cur scope regions)
    | some ln => stallAt (ln * 64)
  else stall

/-- An acquire of the executing hart. It waits for queued loads (spec/05 R124). -/
def doAcquire (scope : BitVec 2) (regions : BitVec 16) : M Unit := do
  waitEntries fun q => Instr.isQueuedLoad q.instr
  let s ← get
  if s.hart.acks.acq = 0 then set (s.acquire s.cur scope regions) else stall

/-! ### What an instruction that is not repeated keeps (spec/05 R140, spec/09 R237, R323) -/

/-- The kept record belongs to the instruction at which a hart stands. -/
def Hart.isHere (h : Hart) (k : Held) : Bool := k.pc == h.pc && k.sup == h.sup && k.inh == h.irq.inh
def Hart.heldHere (h : Hart) : Option Kept := (h.held.find? h.isHere).map (·.kept)
/-- Drop the record of the instruction at which a hart stands. -/
def Hart.release (h : Hart) : Hart := { h with held := h.held.filter fun k => !h.isHere k }
/-- Keep a record for the instruction at which a hart stands. -/
def Hart.keep (h : Hart) (k : Kept) : Hart :=
  { h with held := { pc := h.pc, sup := h.sup, inh := h.irq.inh, kept := k } :: (h.release).held }

/-- An acquire of the executing hart can be performed: no earlier load is queued, and no acknowledgement is awaited (spec/05 R124). -/
def State.acquireReady (s : State) : Bool :=
  !(s.ahead.any fun q => Instr.isQueuedLoad q.instr) && decide (s.hart.acks.acq = 0)

/-- What an access gives its instruction to write as it retires: a register, its value, and flags. -/
structure Gives where
  d : Reg
  value : Word
  flags : BitVec 5
  deriving DecidableEq, Repr

def State.retireAccess (s : State) (r : Gives) : State := (s.setX r.d r.value).orFflags r.flags

/-- The acquire after an access that has been performed, with which its instruction retires: where it must wait, the instruction keeps that
only its acquire is left (R323, spec/13 R332, spec/14 R366). -/
def acquireAfter (scope : BitVec 2) (regions : BitVec 16) (r : Gives) : M Unit := do
  let s ← get
  if s.acquireReady then set ((s.acquire s.cur scope regions).retireAccess r)
  else
    set (s.updHart (·.keep (.acquire regions r.d r.value r.flags)))
    stall

/-- An access followed by an acquire: performed once, and only the acquire is left where the instruction is met again. -/
def accessAcquire (scope : BitVec 2) (access : M Gives) : M Unit := do
  let s ← get
  match s.hart.heldHere with
  | some (.acquire g d v f) =>
    if s.acquireReady then set (((s.acquire s.cur scope g).updHart (·.release)).retireAccess ⟨d, v, f⟩) else stall
  | _ =>
    let r ← access
    acquireAfter scope s.aqrm r

/-- `lda` (R323): the load, then an acquire over the AQRM regions. -/
def loadAcquire (d : Reg) (va : Word) (n : Nat) (scope : BitVec 2) : M Unit :=
  accessAcquire scope do
    let bs ← loadBytes va n
    return ⟨d, if n = 4 then signedLoad 4 bs else unsignedLoad bs, 0#5⟩

/-- `stl` (R323): the checks, a release over the AQRM regions, then the store. -/
def storeRelease (va : Word) (bs : List Byte) (scope : BitVec 2) : M Unit := do
  let p ← accessCheck .store va bs.length
  waitPlace p bs.length true
  let s ← get
  doRelease scope s.aqrm
  storeTo bs p

def execLdaW (d a : Reg) (sc : BitVec 2) (o : BitVec 11) (s : State) : Host.Outcome State Fault Refusal :=
  finish (loadAcquire d (s.ea a o) 4 sc) s
def execLdaD (d a : Reg) (sc : BitVec 2) (o : BitVec 11) (s : State) : Host.Outcome State Fault Refusal :=
  finish (loadAcquire d (s.ea a o) 8 sc) s
def execStlW (d a : Reg) (sc : BitVec 2) (o : BitVec 11) (s : State) : Host.Outcome State Fault Refusal :=
  finish (storeRelease (s.ea a o) (storeData 4 (s.xr d)) sc) s
def execStlD (d a : Reg) (sc : BitVec 2) (o : BitVec 11) (s : State) : Host.Outcome State Fault Refusal :=
  finish (storeRelease (s.ea a o) (storeData 8 (s.xr d)) sc) s

end Sys2Proof.Machine
end

