-- ==== Sys2Proof/Machine/Atomic.lean ====
section
/-! DEFINITION. Far atomics (spec/13 R331 to R334, spec/05 R135). -/
namespace Sys2Proof.Machine
set_option Elab.async false

/-- The operations of R331. -/
inductive AtomicOp where
  | add | and | or | xor | min | max | minu | maxu | swp | cas | fadd
  deriving DecidableEq, Repr

/-- The operation of a code. -/
def atomicOfCode (c : Nat) : Option AtomicOp :=
  [AtomicOp.add, .and, .or, .xor, .min, .max, .minu, .maxu, .swp, .cas, .fadd][c]?

/-- The new memory value of n bits, and the flags that `afadd` returns (R331, R333). -/
def AtomicOp.result (op : AtomicOp) {n : Nat} (m v c : BitVec n) : BitVec n × Exc :=
  match op with
  | .add => (m + v, {})
  | .and => (m &&& v, {})
  | .or => (m ||| v, {})
  | .xor => (m ^^^ v, {})
  | .min => (if m.slt v then m else v, {})
  | .max => (if m.slt v then v else m, {})
  | .minu => (if m.ult v then m else v, {})
  | .maxu => (if m.ult v then v else m, {})
  | .swp => (v, {})
  | .cas => (if m = c then v else m, {})
  | .fadd =>
    let r := (if n = 32 then fmt32 else fmt64).add .rn m.toNat v.toNat
    (BitVec.ofNat n r.1, r.2)

/-- What an atomic returns: the old value as a register takes it, its poison, and the flags. -/
structure AtomicAnswer where
  old : Word
  poisoned : Bool
  exc : Exc
  deriving DecidableEq, Repr

/-- The read-modify-write at the home slice (R135, steps 2 to 4); a poisoned old value stops it before it writes (R332). -/
def State.atomicHome (s : State) (slot pa : Nat) (op : AtomicOp) (wide : Bool) (v c : Word) : State × AtomicAnswer :=
  let n := if wide then 8 else 4
  let (s, bs, psn) := s.homeTake slot pa n
  let m := leNat bs
  let old := if wide then BitVec.ofNat 64 m else (BitVec.ofNat 32 m).signExtend 64
  if psn then (s, { old, poisoned := true, exc := {} })
  else
    let (new, exc) := (if wide then
        let r := op.result (BitVec.ofNat 64 m) v c
        (r.1.toNat, r.2)
      else
        let r := op.result (BitVec.ofNat 32 m) (v.setWidth 32) (c.setWidth 32)
        (r.1.toNat, r.2))
    (s.homePut slot pa (toBytes n new), { old, poisoned := false, exc })

/-- Translate an address whose line must lie in HBM for reading and writing (R332, R337): the physical address and the page's
attributes. A window has no home. -/
def homeAddr (va : Word) : M (Nat × Attr) := do
  let s ← get
  if inPlateWindow s.hart.user.pwb va then raise tcAccessFault va
  else
    let (pa, attr) ← translate .data .rmw va
    let s ← get
    if s.target s.hart.ctx s.hart.sup pa 1 = .hbm then (if s.homeWaits (keySlot s.hart.ctx) (dieOfHart s.cur) pa then stallAt pa else return (pa, attr)) else raise tcAccessFault va

/-- The checks of R332 and R338 on the `n` bytes at an address: alignment, translation and the right to write. -/
def homeCheck (va : Word) (n : Nat) : M (Nat × Attr) := do
  if va.toNat % n ≠ 0 then raise tcMisaligned va
  else
    let (pa, attr) ← homeAddr va
    let s ← get
    if s.isProtected pa n then raise tcAccessFault va else return (pa, attr)

/-- The access of a far atomic (R332), from its checks to what x[d] and FFLAGS take as it retires (spec/14 R366). It waits for the queued accesses that come before it (spec/06 R164,
R165). -/
def atomicAccess (op : AtomicOp) (d a b : Reg) (sc : BitVec 2) (w : BitVec 1) : M Gives := do
  let s ← get
  let va := s.xr a
  let n := widthBytes w
  let (c, v) := (s.xr d, s.xr b)
  let (pa, _) ← homeCheck va n
  waitOverlap pa n true
  waitSy true
  doRelease sc s.aqrm
  let s ← get
  let slot := keySlot s.hart.ctx
  let s := s.pushHome slot s.cur (pa / 64) (wordMask (pa % 64) n)
  let (s, r) := s.atomicHome slot pa op (w == 1#1) v c
  set s
  if r.poisoned then raise tcPoison va
  else return ⟨d, r.old, r.exc.bits⟩

/-- A far atomic (R332): performed once, then its acquire. -/
def atomicBody (op : AtomicOp) (d a b : Reg) (sc : BitVec 2) (w : BitVec 1) : M Unit := accessAcquire sc (atomicAccess op d a b sc w)

def execAadd (d a b : Reg) (sc : BitVec 2) (w : BitVec 1) (s : State) : Host.Outcome State Fault Refusal :=
  finish (atomicBody .add d a b sc w) s
def execAand (d a b : Reg) (sc : BitVec 2) (w : BitVec 1) (s : State) : Host.Outcome State Fault Refusal :=
  finish (atomicBody .and d a b sc w) s
def execAor (d a b : Reg) (sc : BitVec 2) (w : BitVec 1) (s : State) : Host.Outcome State Fault Refusal :=
  finish (atomicBody .or d a b sc w) s
def execAxor (d a b : Reg) (sc : BitVec 2) (w : BitVec 1) (s : State) : Host.Outcome State Fault Refusal :=
  finish (atomicBody .xor d a b sc w) s
def execAmin (d a b : Reg) (sc : BitVec 2) (w : BitVec 1) (s : State) : Host.Outcome State Fault Refusal :=
  finish (atomicBody .min d a b sc w) s
def execAmax (d a b : Reg) (sc : BitVec 2) (w : BitVec 1) (s : State) : Host.Outcome State Fault Refusal :=
  finish (atomicBody .max d a b sc w) s
def execAminu (d a b : Reg) (sc : BitVec 2) (w : BitVec 1) (s : State) : Host.Outcome State Fault Refusal :=
  finish (atomicBody .minu d a b sc w) s
def execAmaxu (d a b : Reg) (sc : BitVec 2) (w : BitVec 1) (s : State) : Host.Outcome State Fault Refusal :=
  finish (atomicBody .maxu d a b sc w) s
def execAswp (d a b : Reg) (sc : BitVec 2) (w : BitVec 1) (s : State) : Host.Outcome State Fault Refusal :=
  finish (atomicBody .swp d a b sc w) s
def execAcas (d a b : Reg) (sc : BitVec 2) (w : BitVec 1) (s : State) : Host.Outcome State Fault Refusal :=
  finish (atomicBody .cas d a b sc w) s
def execAfadd (d a b : Reg) (sc : BitVec 2) (w : BitVec 1) (s : State) : Host.Outcome State Fault Refusal :=
  finish (atomicBody .fadd d a b sc w) s

end Sys2Proof.Machine
end

