-- ==== Sys2Proof/Machine/Branch.lean ====
section
/-! DEFINITION. Branches, the predicate branch and jumps (spec/12 R324 to R327). -/
namespace Sys2Proof.Machine
set_option Elab.async false

/-- A compare-and-branch (R324). -/
def State.branch (s : State) (taken : Bool) (o : BitVec 16) : Host.Outcome State Fault Refusal :=
  .next (if taken then s.setPc (s.branchTarget o) else s.advance)

def execBeq (a b : Reg) (o : BitVec 16) (s : State) : Host.Outcome State Fault Refusal := s.branch (s.xr a == s.xr b) o
def execBne (a b : Reg) (o : BitVec 16) (s : State) : Host.Outcome State Fault Refusal := s.branch (s.xr a != s.xr b) o
def execBlt (a b : Reg) (o : BitVec 16) (s : State) : Host.Outcome State Fault Refusal := s.branch (ltS (s.xr a) (s.xr b)) o
def execBge (a b : Reg) (o : BitVec 16) (s : State) : Host.Outcome State Fault Refusal := s.branch (!ltS (s.xr a) (s.xr b)) o
def execBltu (a b : Reg) (o : BitVec 16) (s : State) : Host.Outcome State Fault Refusal := s.branch (ltU (s.xr a) (s.xr b)) o
def execBgeu (a b : Reg) (o : BitVec 16) (s : State) : Host.Outcome State Fault Refusal := s.branch (!ltU (s.xr a) (s.xr b)) o

/-- The tests of a predicate branch on bits 0 to VL - 1 (R325). -/
inductive PredMode where
  | any | none | all | first
  deriving DecidableEq, Repr

def PredMode.holds (m : PredMode) (bits : List Bool) : Bool :=
  match m with
  | .any => bits.any (·)
  | .none => !bits.any (·)
  | .all => bits.all (·)
  | .first => bits.head?.getD false

/-- `bp` (R325). -/
def predBranch (i : Instr) (m : PredMode) (p : Reg) (o : BitVec 16) : M Unit := do
  let s ← get
  if !s.hart.vec.admits (vuse i) then raise tcVconfig (instrWord i)
  else
    waitWriters [] [p.toNat]
    let v := s.hart.vec
    consume (v.cols.map fun e => ((0, e), s.pMarked v p.toNat e))
    let taken := m.holds (v.cols.map fun e => s.pbit v p.toNat e)
    set (if taken then s.setPc (s.branchTarget o) else s.advance)

def execBpAny (p : Reg) (o : BitVec 16) (s : State) : Host.Outcome State Fault Refusal := finishPc (predBranch (.bpAny p o) .any p o) s
def execBpNone (p : Reg) (o : BitVec 16) (s : State) : Host.Outcome State Fault Refusal := finishPc (predBranch (.bpNone p o) .none p o) s
def execBpAll (p : Reg) (o : BitVec 16) (s : State) : Host.Outcome State Fault Refusal := finishPc (predBranch (.bpAll p o) .all p o) s
def execBpFirst (p : Reg) (o : BitVec 16) (s : State) : Host.Outcome State Fault Refusal := finishPc (predBranch (.bpFirst p o) .first p o) s

def execJal (d : Reg) (o : BitVec 21) (s : State) : Host.Outcome State Fault Refusal :=
  .next ((s.setX d (s.hart.pc + 4#64)).setPc (s.branchTarget o))

/-- `jalr` (R326): a misaligned target traps and leaves x[d]. -/
def execJalr (d a : Reg) (i : BitVec 16) (s : State) : Host.Outcome State Fault Refusal :=
  let t := s.xr a + sext i
  if t.extractLsb' 0 2 = 0#2 then .next ((s.setX d (s.hart.pc + 4#64)).setPc t)
  else .next (s.takeTrap tcMisaligned t 0#2 s.hart.pc)

end Sys2Proof.Machine
end

