-- ==== Sys2Proof/Machine/Names.lean ====
section
/-! DEFINITION. Logical names: the core table, the natural table and the route table (spec/07 R190, R195 to R197, spec/04 R111). -/
namespace Sys2Proof.Machine
set_option Elab.async false

/-- A physical hart by die, cluster, core and slot (R180). -/
def hartNumber (die cluster core slot : Nat) : Nat := die * 256 + cluster * 16 + core * 2 + slot

/-- The natural place of position (d, c) in a context's dies (R190). -/
def naturalPlace (dies : List Nat) (d c : Nat) : Option Nat :=
  if c < 256 then (dies[d]?).map fun die => hartNumber die (c % 16) (c / 16 % 8) (c / 128) else none

/-- The hart that a core-table entry names (R195); none where it is invalid. -/
def coreEntryHart (dies : List Nat) (e : BitVec 16) : Option Nat :=
  let die := (e.extractLsb' 12 3).toNat
  if e.getLsbD 15 && dies.contains die then
    some (hartNumber die (e.extractLsb' 8 4).toNat (e.extractLsb' 5 3).toNat (e.extractLsb' 4 1).toNat)
  else none

/-- The hart at position (d, c) of a context, by its core table or the natural table (R190, R195, R197). -/
def State.placeOf (s : State) (slot : Nat) (sctb : Word) (d c : Nat) : Option Nat :=
  let dies := (s.ctx slot).dies
  if sctb.getLsbD 0 then
    let pa := (sctb.extractLsb' 12 40).toNat * 4096 + 2 * (d * 256 + c)
    coreEntryHart dies (BitVec.ofNat 16 (leNat (s.engineRead (slot + 1) (dieOf (laOf pa)) pa 2).1))
  else naturalPlace dies d c

/-- The hart that logical number n names in the launch of the executing hart (R197). -/
def State.logicalHart (s : State) (n : Word) : Option Nat :=
  match s.hart.launch.bind fun l => (s.disp.launches.find? fun x => decide (x.1 = l)).map (·.2) with
  | some r =>
    if n.toNat < r.dext * r.cext then s.placeOf s.hart.ctx.toNat s.hart.sregs.sctb (n.toNat / r.cext) (n.toNat % r.cext) else none
  | none => none

/-- A hart that the executing hart names has retired, or its place is held by another launch (R199, spec/17 R427). -/
def State.hasRetired (s : State) (h : Nat) : Bool := (s.getHart h).phase == .idle || (s.getHart h).launch != s.hart.launch

/-- The hart target of an instruction, or ACCESS_FAULT with the number named (R197, R233). -/
def needHart (n : Word) : M Nat := do
  let s ← get
  match s.logicalHart n with
  | some h => return h
  | none => raise tcAccessFault n

/-- The device that a logical coordinate names through a route table (R111, R196); none where it is refused. -/
def State.routeDevice (s : State) (slot : Nat) (srtb : Word) (coord : BitVec 16) : Option Nat :=
  let x := (coord.extractLsb' 0 4).toNat
  let y := (coord.extractLsb' 4 3).toNat
  let z := (coord.extractLsb' 7 3).toNat
  if srtb.getLsbD 0 && coord.extractLsb' 10 6 == 0#6 && decide (x ≤ (srtb.extractLsb' 7 4).toNat) &&
     decide (y ≤ (srtb.extractLsb' 4 3).toNat) && decide (z ≤ (srtb.extractLsb' 1 3).toNat) then
    let pa := (srtb.extractLsb' 11 41).toNat * 2048 + 2 * (coord.extractLsb' 0 10).toNat
    let e := BitVec.ofNat 16 (leNat (s.engineRead (slot + 1) (dieOf (laOf pa)) pa 2).1)
    if e.getLsbD 15 then some (e.extractLsb' 0 10).toNat else none
  else none

end Sys2Proof.Machine
end

