-- ==== Sys2Proof/Machine/Plate.lean ====
section
/-! DEFINITION. Plate instructions (spec/17 R425 to R429, spec/03 R80 to R89). -/
namespace Sys2Proof.Machine
set_option Elab.async false

/-- Plates of a die in a context's pool, in ascending order, numbered die × 128 + plate. -/
def State.pool (s : State) (die : Nat) (ctx : BitVec 3) : List Nat :=
  ((List.range 128).map (die * 128 + ·)).filter fun p => (s.plate p).attach == 1#2 && (s.plate p).ctx == ctx

/-- The die and the first plate number of the executing hart's die. -/
def State.die (s : State) : Nat := dieOfHart s.cur

/-- Slots 14 and 15 are an orbit executor's (R203, R425). -/
def Grant.reserves (g : Grant) (k : Nat) : Bool := g.orb && decide (14 ≤ k)

/-- Run a plate instruction on slot x[a], and write its status (R425): a malformed slot gives 7, a reserved one traps. -/
def plateOp (i : Instr) (d a : Reg) (run : Nat → M Nat) : M Unit := do
  let s ← get
  let x := s.xr a
  let st ← (if x.extractLsb' 4 60 ≠ 0#60 then pure 7
    else if s.hart.grant.reserves x.toNat then raise tcGrant (instrWord i)
    else run x.toNat)
  modify fun s => s.setX d (BitVec.ofNat 64 st)

/-- The plate switch chooses the plate of the lowest number in the pool (R426). -/
def pclaimRun (k : Nat) : M Nat := do
  let s ← get
  if s.hart.slotAt k ≠ .empty then return 2
  else
    match (s.pool s.die s.hart.ctx).head? with
    | none => return 3
    | some p =>
      let s := s.setPlate p { s.plate p with state := 0#2, attach := 2#2, target := s.cur % 256 * 16 + k }
      set (s.updHart fun h => h.setSlot k (.attached (p % 128)))
      return 0

def prelRun (k : Nat) : M Nat := do
  let s ← get
  match s.hart.slotAt k with
  | .attached p =>
    set (s.handOver s.cur k (s.die * 128 + p) .pool)
    return 0
  | _ => return 1

def pgiveRun (x : Word) (k : Nat) : M Nat := do
  if x.extractLsb' 20 44 ≠ 0#44 then return 7
  else
    let t ← needHart (x.extractLsb' 0 16 |>.zeroExtend 64)
    let j := (x.extractLsb' 16 4).toNat
    let s ← get
    match s.hart.slotAt k with
    | .attached p =>
      if s.hasRetired t then return 5
      else if dieOfHart t ≠ s.die then return 4
      else if (s.getHart t).grant.reserves j then return 4
      else if (s.getHart t).slotAt j ≠ .empty ∧ ¬(t = s.cur ∧ j = k) then return 4
      else
        set ((s.handOver s.cur k (s.die * 128 + p) (.slot t j true)).updHartN t fun h => h.setSlot j .pending)
        return 0
    | _ => return 1

/-- The hart's queued accesses to a plate through a slot, or through a window page. -/
def State.queuedOn (s : State) (k p : Nat) : Bool :=
  s.ahead.any fun q => q.mayTouchSlot k ||
    s.entryTouches q (platePa s p 0) 0x40000 true

def pmarkRun (x : Word) (k : Nat) : M Nat := do
  let s ← get
  match s.hart.slotAt k with
  | .attached p =>
    let n := s.die * 128 + p
    if (x ≠ 0#64 ∧ x ≠ 2#64) ∨ (s.plate n).state = 1#2 then return 6
    else if s.queuedOn k n then stall
    else
      set (s.setPlate n { s.plate n with state := x.extractLsb' 0 2 }).copyRetry
      return 0
  | _ => return 1

/-- The plate on its way to slot k of hart h. -/
def State.incoming (s : State) (h k : Nat) : Option Nat :=
  (s.m.plates.find? fun p => match p.2.hand with
    | some (.slot t j _) => decide (t = h) && decide (j = k)
    | some (.station t j _) => decide (t = h) && decide (j = k)
    | _ => false).map (·.1)

def plateWord (n : Nat) (p : Plate) (flags : Word) : Word :=
  BitVec.ofNat 64 (n % 128) <<< 16 ||| flags ||| p.held.zeroExtend 64 <<< 2 ||| p.state.zeroExtend 64

/-- `pstat` (R429). -/
def State.pstat (s : State) (x : Word) : Word :=
  if x = 16#64 then BitVec.ofNat 64 (s.pool s.die s.hart.ctx).length
  else if 16 < x.toNat then 0#64
  else
    match s.hart.slotAt x.toNat with
    | .empty => 0#64
    | .attached p => plateWord p (s.plate (s.die * 128 + p)) 0x10#64
    | .pending => (s.incoming s.cur x.toNat).elim 0x20#64 fun n => plateWord n (s.plate n) 0x20#64

def execPclaim (d a : Reg) (s : State) : Host.Outcome State Fault Refusal := finish (plateOp (.pclaim d a) d a pclaimRun) s
def execPrel (d a : Reg) (s : State) : Host.Outcome State Fault Refusal := finish (plateOp (.prel d a) d a prelRun) s
def execPgive (d a b : Reg) (s : State) : Host.Outcome State Fault Refusal := finish (plateOp (.pgive d a b) d a (pgiveRun (s.xr b))) s
def execPmark (d a b : Reg) (s : State) : Host.Outcome State Fault Refusal := finish (plateOp (.pmark d a b) d a (pmarkRun (s.xr b))) s
def execPstat (d a : Reg) (s : State) : Host.Outcome State Fault Refusal :=
  finish (modify fun s => s.setX d (s.pstat (s.xr a))) s

end Sys2Proof.Machine
end

