-- ==== Sys2Proof/Machine/CtlReg.lean ====
section
/-! DEFINITION. Control registers (spec/11 R295 to R298, spec/12 R328 to R330, and the layouts they name). -/
namespace Sys2Proof.Machine
set_option Elab.async false

/-- The 64 bits of a flag at a bit. -/
def flagAt (b : Bool) (n : Nat) : Word := bit1 b <<< n
/-- The bits of a value that a layout admits. -/
def onlyBits (v : Word) (lo w : Nat) : Word := (((v >>> lo).setWidth w).zeroExtend 64) <<< lo

/-! ### Values -/

/-- VTYPE (R297). -/
def VecRegs.vtype (v : VecRegs) : Word := flagAt v.resized 6 ||| flagAt v.ill 5 ||| v.request.zeroExtend 64
/-- VMBX (R369). -/
def VecRegs.vmbx (v : VecRegs) : Word := v.full.zeroExtend 64 <<< 32 ||| v.mbx.zeroExtend 64
/-- PSLOTS (spec/03 R84). -/
def Hart.pslots (h : Hart) : Word :=
  (List.range 16).foldl (fun w i => match h.slotAt i with
    | .empty => w
    | .pending => w ||| 1#64 <<< (16 + i)
    | .attached _ => w ||| 1#64 <<< i) 0#64

/-- SGRANT (spec/07 R181). -/
def Grant.word (g : Grant) : Word :=
  g.voff ++ g.vsz ++ g.tbase ++ g.tcnt ++ g.abase ++ g.acnt ++ g.pln ++ g.vw ++ g.mw ++ 0#15 ++ BitVec.ofBool g.orb
/-- TRSTAT (spec/09 R234). -/
def TrapRegs.trstat (t : TrapRegs) : Word := t.qk.zeroExtend 64 <<< 6 ||| flagAt t.skip 5 ||| flagAt t.frz 4 ||| bit1 t.prior
/-- USTAT (spec/09 R250). -/
def UserIrq.ustat (u : UserIrq) : Word :=
  u.cause.zeroExtend 64 <<< 4 ||| flagAt u.inh 3 ||| flagAt u.ore 2 ||| flagAt u.nte 1 ||| bit1 u.cde

/-- The value of a control register; none for a number that R296 does not assign. -/
def State.creg (s : State) (n : BitVec 16) : Option Word :=
  let h := s.hart
  let v := h.vec
  let u := h.user
  match n.toNat with
  | 0x000 => some (v.vl.zeroExtend 64)
  | 0x001 => some (BitVec.ofNat 64 v.vcap)
  | 0x002 => some v.vtype
  | 0x003 => some (v.vrows.zeroExtend 64)
  | 0x004 => some (v.vstr.zeroExtend 64)
  | 0x005 => some (v.vpitch.signExtend 64)
  | 0x006 => some (v.vmsel.zeroExtend 64)
  | 0x007 => some (v.vstart.zeroExtend 64)
  | 0x008 => some (h.grant.vsz.zeroExtend 64 <<< 10)
  | 0x009 => some v.vmbx
  | 0x00A => some (flagAt v.ovf 1 ||| bit1 v.inv)
  | 0x00B => some (BitVec.ofNat 64 v.b)
  | 0x00C => some v.vtaglo
  | 0x00D => some v.vtaghi
  | 0x010 => some (u.drm.zeroExtend 64 <<< 1 ||| bit1 u.rat)
  | 0x011 => some (u.fflags.zeroExtend 64)
  | 0x018 => some (u.mstart.zeroExtend 64)
  | 0x020 => some (u.tshape[0].zeroExtend 64)
  | 0x021 => some (u.tshape[1].zeroExtend 64)
  | 0x022 => some (u.tshape[2].zeroExtend 64)
  | 0x023 => some (u.tshape[3].zeroExtend 64)
  | 0x024 => some (u.tshape[4].zeroExtend 64)
  | 0x025 => some (u.tshape[5].zeroExtend 64)
  | 0x026 => some (u.tshape[6].zeroExtend 64)
  | 0x027 => some (u.tshape[7].zeroExtend 64)
  | 0x030 => some h.irq.ustat
  | 0x031 => some h.irq.xepc
  | 0x032 => some (h.irq.xid.zeroExtend 64)
  | 0x033 => some h.irq.xres
  | 0x034 => some h.irq.xnot
  | 0x038 => some u.pwb
  | 0x039 => some h.pslots
  | 0x040 => some (u.aqrm.zeroExtend 64)
  | 0x041 => some (u.watchVa ||| bit1 u.watchEn)
  | 0x048 => some (u.pushlim.zeroExtend 64)
  | 0x050 => some (BitVec.ofNat 64 s.time)
  | 0x051 => some ((s.hartidOf s.cur).zeroExtend 64)
  | 0x052 => some (h.ctxid.zeroExtend 64)
  | 0x106 => some h.sregs.sptb
  | 0x107 => some h.sregs.sfpa
  | 0x108 => some (h.sregs.sfpn.zeroExtend 64)
  | 0x109 => some h.sregs.sctb
  | 0x10A => some h.sregs.srtb
  | 0x10B => some h.grant.word
  | 0x10C => some (h.sregs.snotice.zeroExtend 64)
  | 0x120 => some h.trap.trstat
  | 0x121 => some h.trap.trpc
  | 0x122 => some h.trap.trnext
  | 0x123 => some (h.trap.trcode.zeroExtend 64)
  | 0x124 => some h.trap.trarg
  | 0x125 => some h.trap.trentry
  | 0x126 => some h.trap.trspare
  | _ => none

/-! ### Writes -/

/-- VL as a write of a length leaves it: at most VCAP (R329). -/
def VecRegs.clampVl (v : VecRegs) (n : Nat) : BitVec 14 := BitVec.ofNat 14 (min n v.vcap)
/-- VROWS as a write leaves it (R369). -/
def clampRows (n : Nat) : BitVec 4 := if n = 0 then 1#4 else if 8 < n then 8#4 else BitVec.ofNat 4 n
/-- A VA whose low two bits are discarded (spec/09 R235, R250). -/
def pcField (v : Word) : Word := v &&& ~~~3#64

/-- Write a control register (R295, R329): fields that are read only keep their value, reserved bits stay zero. -/
def State.setCreg (s : State) (n : BitVec 16) (v : Word) : State :=
  match n.toNat with
  | 0x000 => s.updVec fun r => { r with vl := r.clampVl (v.extractLsb' 0 14).toNat }
  | 0x003 => s.updVec fun r => { r with vrows := clampRows (v.extractLsb' 0 4).toNat }
  | 0x004 => s.updVec fun r => { r with vstr := v.extractLsb' 0 32 }
  | 0x005 => s.updVec fun r => { r with vpitch := v.extractLsb' 0 40 }
  | 0x006 => s.updVec fun r => { r with vmsel := v.extractLsb' 0 5 }
  | 0x007 => s.updVec fun r => { r with vstart := v.extractLsb' 0 32 }
  | 0x009 => s.updVec fun r => { r with mbx := v.extractLsb' 0 32, full := r.full &&& v.extractLsb' 0 32 }
  | 0x00A => s.updVec fun r => { r with ovf := v.getLsbD 1, inv := v.getLsbD 0 }
  | 0x00C => s.updVec fun r => { r with vtaglo := v }
  | 0x00D => s.updVec fun r => { r with vtaghi := v }
  | 0x010 => s.updUser fun u => { u with drm := v.extractLsb' 1 3, rat := v.getLsbD 0 }
  | 0x011 => s.updUser fun u => { u with fflags := v.extractLsb' 0 5 }
  | 0x018 => s.updUser fun u => { u with mstart := v.extractLsb' 0 10 }
  | 0x020 => s.updUser fun u => { u with tshape := u.tshape.set 0 (v.extractLsb' 0 20) }
  | 0x021 => s.updUser fun u => { u with tshape := u.tshape.set 1 (v.extractLsb' 0 20) }
  | 0x022 => s.updUser fun u => { u with tshape := u.tshape.set 2 (v.extractLsb' 0 20) }
  | 0x023 => s.updUser fun u => { u with tshape := u.tshape.set 3 (v.extractLsb' 0 20) }
  | 0x024 => s.updUser fun u => { u with tshape := u.tshape.set 4 (v.extractLsb' 0 20) }
  | 0x025 => s.updUser fun u => { u with tshape := u.tshape.set 5 (v.extractLsb' 0 20) }
  | 0x026 => s.updUser fun u => { u with tshape := u.tshape.set 6 (v.extractLsb' 0 20) }
  | 0x027 => s.updUser fun u => { u with tshape := u.tshape.set 7 (v.extractLsb' 0 20) }
  | 0x030 => s.updIrq fun u => { u with ore := v.getLsbD 2, nte := v.getLsbD 1, cde := v.getLsbD 0 }
  | 0x031 => s.updIrq fun u => { u with xepc := pcField v }
  | 0x033 => s.updIrq fun u => { u with xres := pcField v }
  | 0x034 => s.updIrq fun u => { u with xnot := pcField v }
  | 0x038 => s.updUser fun u => { u with pwb := onlyBits v 23 25 ||| onlyBits v 0 1 }
  | 0x040 => s.updUser fun u => { u with aqrm := v.extractLsb' 1 15 ++ 0#1 }
  | 0x041 => s.updUser fun u => { u with watchVa := onlyBits v 3 45, watchEn := v.getLsbD 0 }
  | 0x048 => s.updUser fun u => { u with pushlim := v.extractLsb' 0 32 }
  | 0x106 => s.updSup fun r => { r with sptb := onlyBits v 63 1 ||| onlyBits v 16 40 }
  | 0x107 => s.updSup fun r => { r with sfpa := onlyBits v 10 42 ||| onlyBits v 0 1 }
  | 0x108 => s.updSup fun r => { r with sfpn := v.extractLsb' 0 7 }
  | 0x109 => s.updSup fun r => { r with sctb := onlyBits v 12 40 ||| onlyBits v 0 1 }
  | 0x10A => s.updSup fun r => { r with srtb := onlyBits v 0 52 }
  | 0x10C => s.updSup fun r => { r with snotice := v.extractLsb' 0 32 }
  | 0x120 => s.updTrap fun t => { t with qk := v.extractLsb' 6 2, skip := v.getLsbD 5, prior := v.getLsbD 0 }
  | 0x121 => s.updTrap fun t => { t with trpc := pcField v }
  | 0x122 => s.updTrap fun t => { t with trnext := pcField v }
  | 0x123 => s.updTrap fun t => { t with trcode := v.extractLsb' 0 8 }
  | 0x124 => s.updTrap fun t => { t with trarg := v }
  | 0x125 => s.updTrap fun t => { t with trentry := onlyBits v 12 52 ||| onlyBits v 0 1 }
  | 0x126 => s.updTrap fun t => { t with trspare := v }
  | _ => s

/-! ### The watch (spec/05 R136, R137) -/

/-- Whether a slice's watch table is full. -/
def SliceState.watchFull (t : SliceState) : Bool := decide (256 ≤ t.watches.length)

/-- Arm a watch on a word for the executing hart: true where the table is full. -/
def installWatch (pa : Nat) : M Bool := do
  let s ← get
  let s := s.unwatch s.cur
  let k := s.homeKey pa
  let t := s.slice k
  if t.watchFull then
    set (s.updHart fun h => { h with latch := h.latch ||| 0b0000100#7 })
    return true
  else
    set (s.setSlice k { t with watches := t.watches ++ [(pa, s.cur)] })
    return false

/-- The side effect of a write of WATCH: whether EN is cleared after it. -/
def watchWrite (v : Word) : M Bool := do
  let s ← get
  if !v.getLsbD 0 then
    set (s.unwatch s.cur)
    return false
  else
    let va := ((onlyBits v 3 45).extractLsb' 0 48).signExtend 64
    if inPlateWindow s.hart.user.pwb va then raise tcAccessFault va
    else
      let (pa, _) ← translate .data .load va
      let s ← get
      if s.target s.hart.ctx s.hart.sup pa 8 == .hbm then installWatch pa else raise tcAccessFault va

/-! ### The four instructions -/

/-- The value a control register instruction writes (R328). -/
inductive CrOp where
  | read | write | setBits | clearBits
  deriving DecidableEq, Repr

def CrOp.value (op : CrOp) (old a : Word) : Word :=
  match op with
  | .read => old
  | .write => a
  | .setBits => old ||| a
  | .clearBits => old &&& ~~~a

/-- The wait of R298 and R330, in user mode. -/
def cregWait (n : BitVec 16) : M Unit :=
  if n = 0x007#16 ∨ n = 0x018#16 ∨ n = 0x00A#16 then waitQueues else if n = 0#16 then waitTrims else pure ()

/-- Write with its side effect; a full watch table clears EN after the write. -/
def cregWrite (n : BitVec 16) (v : Word) : M Unit := do
  let full ← (if n = 0x041#16 then watchWrite v else pure false)
  modify fun s => s.setCreg n v
  if full then modify fun s => s.updUser fun u => { u with watchEn := false } else pure ()

/-- `crr`, `crw`, `crs` and `crc` (R328). -/
def cregAccess (i : Instr) (op : CrOp) (d a : Reg) (n : BitVec 16) : M Unit := do
  let s ← get
  match s.creg n with
  | none => illegal i
  | some _ =>
    if decide (0x100 ≤ n.toNat) && !s.hart.sup then raise tcPrivileged (instrWord i)
    else
      cregWait n
      let old := (s.creg n).getD 0#64
      if op = .read then pure () else cregWrite n (op.value old (s.xr a))
      modify fun s => s.setX d old

def execCrr (d : Reg) (n : BitVec 16) (s : State) : Host.Outcome State Fault Refusal := finish (cregAccess (.crr d n) .read d 0#5 n) s
def execCrw (d a : Reg) (n : BitVec 16) (s : State) : Host.Outcome State Fault Refusal := finish (cregAccess (.crw d a n) .write d a n) s
def execCrs (d a : Reg) (n : BitVec 16) (s : State) : Host.Outcome State Fault Refusal := finish (cregAccess (.crs d a n) .setBits d a n) s
def execCrc (d a : Reg) (n : BitVec 16) (s : State) : Host.Outcome State Fault Refusal := finish (cregAccess (.crc d a n) .clearBits d a n) s

end Sys2Proof.Machine
end

