-- ==== Sys2Proof/Machine/VecConfig.lean ====
section
/-! DEFINITION. Vector configuration, `vsave` and `vrest`, and the two vector instructions of the scalar pipeline (spec/15 R371 to
R377, spec/09 R255, R256, spec/16 R403, R409). -/
namespace Sys2Proof.Machine
set_option Elab.async false

/-- A request takes effect (R372): VTYPE, VREGB and VSTART. -/
def VecRegs.configure (v : VecRegs) (vsz : Nat) (req : Word) : VecRegs :=
  let b := registerLength vsz req
  { v with request := req.extractLsb' 0 5, resized := false, ill := b == 0, b, vstart := 0#32 }

def vcfgBody (d a : Reg) : M Unit := do
  waitQueues
  modify fun s =>
    let req := s.xr a
    let s := s.updVec fun v => { v.configure s.hart.grant.vsz.toNat req with vl := 0#14 }
    s.setX d (BitVec.ofNat 64 s.hart.vec.vcap)

def vsetlBody (d a : Reg) : M Unit := do
  let s ← get
  if s.hart.vec.ill then raise tcVconfig (instrWord (.vsetl d a))
  else
    waitTrims
    let n := s.hart.vec.clampVl (s.xr a).toNat
    set ((s.updVec fun v => { v with vl := n }).setX d (n.zeroExtend 64))

def vsetrowsBody (d a : Reg) : M Unit := modify fun s =>
  let n := clampRows (s.xr a).toNat
  (s.updVec fun v => { v with vrows := n }).setX d (n.zeroExtend 64)

/-- `vtag` (R375): the rows that lie past v31 are left. -/
def vtagBody (d a : Reg) : M Unit := modify fun s =>
  s.updVec fun v => ((groupRegs v.rows d).filter (decide <| · < 32)).foldl (fun v k => v.setTag k ((s.xr a).extractLsb' 0 4)) v

/-! ### `vsave` (R255, R256, R376) -/

/-- The width of a register's elements in a save area. -/
def VecRegs.saveWidth (v : VecRegs) (k : Nat) : Nat :=
  match tagTy (v.tag k) with
  | some t => t.width
  | none => (Config.reservedWidth (v.tag k)).toNat

/-- The width of a predicate's elements. -/
def predWidth : Nat := 1

/-- Item `j` of a save area: registers 0 to nregs − 1, then p1 to p31. Its first bit and the width of its elements. -/
def State.saveItem (s : State) (v : VecRegs) (j : Nat) : Nat × Nat :=
  if j < v.nregs then (s.velAt v j 0 (v.saveWidth j), v.saveWidth j) else (s.pbitAt v (j - v.nregs + 1) 0, predWidth)

/-- An element of an item and its mark. Bits past the end of its register do not exist: they are free. -/
def saveElem (v : VecRegs) (j i : Nat) : M (Nat × Bool) := do
  let s ← get
  let (at', w) := s.saveItem v j
  if j < v.nregs ∧ v.b < (i + 1) * w then
    let x ← takeFree
    return (x.toNat % 2 ^ w, false)
  else if s.marked (at' + i * w) w then return (0, true)
  else return (s.getBits (at' + i * w) w, false)

def saveElems (v : VecRegs) (j : Nat) : Nat → Nat → M (List (Nat × Bool))
  | 0, _ => return []
  | n + 1, i => do
    let e ← saveElem v j i
    let r ← saveElems v j n (i + 1)
    return e :: r

def saveItems (v : VecRegs) : Nat → Nat → M (List (List (Nat × Bool)))
  | 0, _ => return []
  | n + 1, j => do
    let e ← saveElems v j v.len 0
    let r ← saveItems v n (j + 1)
    return e :: r

/-- Elements packed at w bits, in whole 8-byte words. -/
def packed (w : Nat) (l : List Nat) : List Byte :=
  toBytes ((l.length * w + 63) / 64 * 8) (l.foldr (fun c acc => c + 2 ^ w * acc) 0)

/-- The number of items. -/
def VecRegs.items (v : VecRegs) : Nat := v.nregs + 31
/-- The width of an item's elements. -/
def VecRegs.itemWidth (v : VecRegs) (j : Nat) : Nat := if j < v.nregs then v.saveWidth j else predWidth

/-- The data section, and whether it holds a poison section. -/
def VecRegs.saveData (v : VecRegs) (l : List (List (Nat × Bool))) : List Byte × Bool :=
  let data := l.zipIdx.flatMap fun x => packed (v.itemWidth x.2) (x.1.map (·.1))
  let psn := l.any (·.any (·.2))
  (if psn then data ++ l.flatMap fun x => packed 1 (x.map (·.2.toNat)) else data, psn)

/-- The header (R255). -/
def VecRegs.saveHeader (v : VecRegs) (psn : Bool) (n : Nat) : List Byte :=
  let w := fun (x : Word) => toBytes 8 x.toNat
  w (v.request.zeroExtend 64) ++ w (v.vl.zeroExtend 64) ++ w (v.vrows.zeroExtend 64) ++ w (v.vstr.zeroExtend 64) ++
  w (v.vpitch.signExtend 64) ++ w (v.vmsel.zeroExtend 64) ++ w (v.vstart.zeroExtend 64) ++ w v.vtaglo ++ w v.vtaghi ++
  w (BitVec.ofNat 64 v.b) ++ w (v.mbx.zeroExtend 64) ++ w (v.full.zeroExtend 64) ++ w v.vtype ++
  w (flagAt v.ovf 1 ||| bit1 v.inv) ++ toBytes 4 1 ++ toBytes 4 psn.toNat ++ toBytes 8 n ++ List.replicate 128 0#8

/-- Store bytes as 8-byte stores in ascending order. -/
def storeWords (va : Word) : Nat → List Byte → M Unit
  | 0, _ => pure ()
  | n + 1, bs => do
    storeBytes va (bs.take 8)
    storeWords (va + 8#64) n (bs.drop 8)

def vsaveBody (d a : Reg) : M Unit := do
  waitQueues
  let s ← get
  let va := s.xr a
  if va.extractLsb' 0 6 ≠ 0#6 then raise tcMisaligned va
  else
    let v := s.hart.vec
    let items ← (if v.ill then pure [] else saveItems v v.items 0)
    let (data, psn) := v.saveData items
    let bs := v.saveHeader psn data.length ++ data
    storeWords va (bs.length / 8) bs
    modify fun s => s.setX d (BitVec.ofNat 64 bs.length)

/-! ### `vrest` (R377) -/

/-- Load bytes as 8-byte loads in ascending order. -/
def loadWords (va : Word) : Nat → M (List Byte)
  | 0 => return []
  | n + 1 => do
    let b ← loadBytes va 8
    let r ← loadWords (va + 8#64) n
    return b ++ r

/-- Put the elements below n of an item. -/
def State.restItem (s : State) (v : VecRegs) (j n : Nat) (data : Nat) : State :=
  let (at', w) := s.saveItem v j
  (List.range n).foldl (fun s i =>
    if j < v.nregs ∧ v.b < (i + 1) * w then s else s.putBits (at' + i * w) w (data / 2 ^ (i * w) % 2 ^ w)) s

/-- Mark the elements below n of an item whose bit is 1. -/
def State.restMarks (s : State) (v : VecRegs) (j n : Nat) (bits : Nat) : State :=
  let (at', w) := s.saveItem v j
  (List.range n).foldl (fun s i => if bits.testBit i then s.mark (at' + i * w) w else s) s

/-- Read the items from an address and put each by `put`: the address after them. -/
def restItems (width : Nat → Nat) (svl : Nat) (put : Nat → Nat → State → State) : Nat → Nat → Word → M Word
  | 0, _, va => return va
  | m + 1, j, va => do
    let words := (svl * width j + 63) / 64
    let bs ← loadWords va words
    modify (put j (leNat bs))
    restItems width svl put m (j + 1) (va + BitVec.ofNat 64 (words * 8))

/-- The header fields (R255). -/
def headerWord (hdr : List Byte) (ofs : Nat) : Word := BitVec.ofNat 64 (leNat ((hdr.drop ofs).take 8))

/-- The header is one that `vrest` accepts. -/
def headerOk (hdr : List Byte) (vsz : Nat) : Bool :=
  let req := headerWord hdr 0
  let vf := headerWord hdr 0x70
  vf.extractLsb' 0 32 == 1#32 && vf.extractLsb' 33 31 == 0#31 && req.extractLsb' 5 59 == 0#59 &&
  (hdr.drop 0x80).all (· == 0#8) && ((headerWord hdr 0x60).getLsbD 5 || registerLength vsz req != 0)

/-- The registers that a header restores. -/
def VecRegs.restore (v : VecRegs) (vsz : Nat) (hdr : List Byte) : VecRegs :=
  { v.configure vsz (headerWord hdr 0) with
    vrows := clampRows ((headerWord hdr 0x10).extractLsb' 0 4).toNat, vstr := (headerWord hdr 0x18).extractLsb' 0 32,
    vpitch := (headerWord hdr 0x20).extractLsb' 0 40, vmsel := (headerWord hdr 0x28).extractLsb' 0 5,
    vstart := (headerWord hdr 0x30).extractLsb' 0 32, vtaglo := headerWord hdr 0x38, vtaghi := headerWord hdr 0x40,
    mbx := (headerWord hdr 0x50).extractLsb' 0 32, full := (headerWord hdr 0x58).extractLsb' 0 32,
    ovf := (headerWord hdr 0x68).getLsbD 1, inv := (headerWord hdr 0x68).getLsbD 0 }

def vrestBody (d a : Reg) : M Unit := do
  waitQueues
  let s ← get
  let va := s.xr a
  if va.extractLsb' 0 6 ≠ 0#6 then raise tcMisaligned va
  else
    let hdr ← loadWords va 32
    let s ← get
    let vsz := s.hart.grant.vsz.toNat
    if !headerOk hdr vsz then set ((s.updVec fun v => { v with ill := true, vl := 0#14 }).setX d 0#64)
    else
      let s := s.updVec fun v => v.restore vsz hdr
      set s
      if (headerWord hdr 0x60).getLsbD 5 then
        set ((s.updVec fun v => { v with ill := true, vl := 0#14 }).setX d 256#64)
      else
        let v := s.hart.vec
        let svl := (headerWord hdr 0x08).toNat
        let n := min svl v.vcap
        let after ← restItems v.itemWidth svl (fun j x s => s.restItem v j n x) v.items 0 (va + 256#64)
        let after ← (if (headerWord hdr 0x70).getLsbD 32 then
            restItems (fun _ => 1) svl (fun j x s => s.restMarks v j n x) v.items 0 after
          else pure after)
        modify fun s => (s.updVec fun v => { v with vl := BitVec.ofNat 14 n, resized := decide (v.vcap < svl) }).setX d (after - va)

/-! ### `vext` and `pcnt` -/

/-- The value that `vext` reads: for an x register or an f register (R403). -/
def extValue (t : Ty) (c : Nat) : Word :=
  match t with
  | .int w sg => BitVec.ofInt 64 (intVal w sg c)
  | .fl f => if f = fmt32 ∨ f = fmt64 then BitVec.ofNat 64 c else BitVec.ofNat 64 ((Ty.fl f).cvt false (.fl fmt32) c).1

def vextBody (d a b : Reg) : M Unit := do
  let s ← get
  let i := Instr.vext d a b
  if !s.hart.vec.admits (vuse i) then raise tcVconfig (instrWord i)
  else
    let v := s.hart.vec
    let pos := s.xr b
    let k := (pos.extractLsb' 16 16).toNat
    let e := (pos.extractLsb' 0 16).toNat
    waitWriters (groupRegs v.rows a) []
    let t := v.ty (a.toNat + (if k < v.rows then k else 0))
    let put := fun (c : Nat) (s : State) => if t.isFloat then s.setF d (extValue t c) else s.setX d (extValue t c)
    if k < v.rows ∧ e < v.len then
      let r := a.toNat + k
      if v.mbx.getLsbD r then
        waitEntries fun q => ((vuse q.instr).reads q.vec).contains r
        if !v.full.getLsbD r then stall else pure ()
      else pure ()
      consume [((k, e), s.velMarked v r e)]
      modify fun s => put (s.vel v r e) (if v.mbx.getLsbD r then s.updVec fun x => { x with full := fullClear x.full [r] } else s)
    else modify (put 0)

def pcntBody (d a : Reg) : M Unit := do
  let s ← get
  let i := Instr.pcnt d a
  if !s.hart.vec.admits (vuse i) then raise tcVconfig (instrWord i)
  else
    waitWriters [] [a.toNat]
    let v := s.hart.vec
    consume (v.cols.map fun e => ((0, e), s.pMarked v a.toNat e))
    set (s.setX d (BitVec.ofNat 64 (v.cols.filter fun e => s.pbit v a.toNat e).length))

def execVcfg (d a : Reg) (s : State) : Host.Outcome State Fault Refusal := finish (vcfgBody d a) s
def execVsetl (d a : Reg) (s : State) : Host.Outcome State Fault Refusal := finish (vsetlBody d a) s
def execVsetrows (d a : Reg) (s : State) : Host.Outcome State Fault Refusal := finish (vsetrowsBody d a) s
def execVtag (d a : Reg) (s : State) : Host.Outcome State Fault Refusal := finish (vtagBody d a) s
def execVsave (d a : Reg) (s : State) : Host.Outcome State Fault Refusal := finish (vsaveBody d a) s
def execVrest (d a : Reg) (s : State) : Host.Outcome State Fault Refusal := finish (vrestBody d a) s
def execVext (d a b : Reg) (s : State) : Host.Outcome State Fault Refusal := finish (vextBody d a b) s
def execPcnt (d a : Reg) (s : State) : Host.Outcome State Fault Refusal := finish (pcntBody d a) s

end Sys2Proof.Machine
end

