-- ==== Sys2Proof/Machine/Orbit.lean ====
section
/-! DEFINITION. Orbits: their instructions and the steps of their stations (spec/07 R202 to R211, spec/17 R430 to R435). -/
namespace Sys2Proof.Machine
set_option Elab.async false

/-! ### Orbits and stations -/

/-- Orbits are kept by context, die and index: context × 64 + handle (R211, R430). -/
def State.orbit (s : State) (n : Nat) : Orbit := s.disp.orbits.get .reset n
def State.setOrbit (s : State) (n : Nat) (o : Orbit) : State := s.updDisp fun d => { d with orbits := d.orbits.set n o }
def Orbit.setStation (o : Orbit) (k : Nat) (t : Station) : Orbit := { o with stations := o.stations.set k t }
def Orbit.size (o : Orbit) : Nat := o.stations.length
def Orbit.next (o : Orbit) (k : Nat) : Nat := (k + 1) % o.size
def Orbit.prev (o : Orbit) (k : Nat) : Nat := (k + o.size - 1) % o.size

/-- Rounds in a lap, the dwell edge and the last round of a lap (R208). -/
def Orbit.lap (o : Orbit) : Nat := if o.size % 2 = 1 then o.size else o.size + 1
def Orbit.dwell (o : Orbit) (r : Nat) : Bool := o.size % 2 == 0 && r % o.lap == o.size / 2 - 1
def Orbit.lastRound (o : Orbit) (r : Nat) : Bool := r % o.lap == o.lap - 1

/-- The null tile (R204). -/
def nullTile : OTile := { id := 0xFFF#12, plate := none }
/-- A tile stands in a slot of a hart; a null tile stands anywhere. -/
def State.holdsTile (s : State) (h k : Nat) (t : OTile) : Bool :=
  t.plate.all fun p => (s.getHart h).slotAt k == .attached (p % 128)

/-- The context of an orbit runs, and the orbit. -/
def State.orbitRuns (s : State) (n : Nat) : Bool := (s.orbit n).state == 2#2 && s.ctxRuns (n / 64) (dieOfHart (s.orbit n).owner)

def orbitMsg (n k kind : Nat) (flag : Bool) : Msg := { unit := BitVec.ofNat 32 n, station := BitVec.ofNat 4 k, kind := BitVec.ofNat 8 kind, flag }

/-- Hand a tile from a station's slot to the same slot of another station. -/
def State.handTile (s : State) (n k : Nat) (slot : Nat) (t : OTile) (dest : Nat) : State :=
  match t.plate, (s.orbit n).stations[k]?, (s.orbit n).stations[dest]? with
  | some p, some a, some b =>
    let s := s.handOver a.hart slot p (.station b.hart slot n)
    let s := if (s.getHart b.hart).slotAt slot = .empty then s.updHartN b.hart (·.setSlot slot .pending) else s
    s.slotFreed a.hart slot
  | _, _, _ => s

/-! ### Rounds -/

/-- The lowest entry that a pair fires (R206). -/
def Orbit.fires (o : Orbit) (pro retro : BitVec 12) : Option Nat :=
  if pro = 0xFFF#12 ∨ retro = 0xFFF#12 then none
  else o.eph.findIdx? fun e => e.pro == pro && e.retro == retro && !e.fired

/-- A station looks up its pair (R206, steps 1 to 3). -/
def State.orbitRound (s : State) (n k : Nat) : State :=
  let o := s.orbit n
  match o.stations[k]? with
  | none => s
  | some t =>
    if !s.orbitRuns n || o.complete || t.looked || t.ended || !s.holdsTile t.hart 14 t.pro || !s.holdsTile t.hart 15 t.retro then s
    else
      match o.fires t.pro.id t.retro.id with
      | none => (s.setOrbit n (o.setStation k { t with looked := true })).after [(.orbitRoundEdge, orbitMsg n k 0 false)]
      | some i =>
        match o.eph[i]? with
        | none => s
        | some e =>
          let o := { o.setStation k { t with looked := true, task := true } with eph := o.eph.set i { e with fired := true }, fcount := o.fcount + 1 }
          (s.setOrbit n o).updHartN t.hart fun h =>
            { h with pendingUser := h.pendingUser ++ [.orbitTask n k (o.handlers.getD e.task.toNat 0#64) (BitVec.ofNat 64 i)
              (zext (e.arg.extractLsb' 0 32)) (zext (e.arg.extractLsb' 32 32))] }

/-- The orbit completes: D = E, or the end of its last lap (R210). -/
def State.orbitDone (s : State) (n : Nat) : State :=
  (s.setOrbit n { s.orbit n with complete := true }).after [(.orbitComplete, orbitMsg n 0 0 false)]

/-- A task ends at its `uret` (R206, step 4). -/
def State.taskEnded (s : State) (n k : Nat) : State :=
  let o := s.orbit n
  match o.stations[k]? with
  | none => s
  | some t =>
    if t.task then
      let o := { o.setStation k { t with task := false } with dcount := o.dcount + 1 }
      let s := (s.setOrbit n o).after [(.orbitRoundEdge, orbitMsg n k 0 false)]
      if o.dcount = o.entries then s.orbitDone n else s
    else s

/-- A station gives its tiles onward and sends its markers (R207). -/
def State.giveOn (s : State) (n k : Nat) : State :=
  let o := s.orbit n
  match o.stations[k]? with
  | none => s
  | some t =>
    let stay := o.dwell t.round
    let o := o.setStation k { t with pro := nullTile, retro := if stay then t.retro else nullTile, ended := true, looked := false }
    let put := fun (o : Orbit) (j : Nat) (g : Station → Station) => match o.stations[j]? with | some x => o.setStation j (g x) | none => o
    let o := put o (o.next k) fun x => { x with inPro := x.inPro ++ [t.pro] }
    let o := if stay then o else put o (o.prev k) fun x => { x with inRetro := x.inRetro ++ [t.retro] }
    let s := (s.setOrbit n o).handTile n k 14 t.pro (o.next k)
    let s := if stay then s else s.handTile n k 15 t.retro (o.prev k)
    s.after [(.orbitMarker, orbitMsg n (o.next k) 0 true), (.orbitMarker, orbitMsg n (o.prev k) 0 false), (.orbitMarker, orbitMsg n k 1 false)]

/-- Every station has ended the last round of a lap. -/
def Orbit.lapEnded (o : Orbit) : Bool := o.stations.all fun t => t.ended && t.looked && o.lastRound t.round

/-- The end of a station's round (R207, R210). -/
def State.orbitRoundEdge (s : State) (n k : Nat) : State :=
  let o := s.orbit n
  match o.stations[k]? with
  | none => s
  | some t =>
    if !s.orbitRuns n || !t.looked || t.task || t.ended then s
    else if o.complete || o.lastRound t.round then
      let o' := o.setStation k { t with ended := true }
      let s := s.setOrbit n o'
      if !o.complete && o'.lapEnded then s.after [(.orbitLapEnd, orbitMsg n 0 0 false)] else s
    else s.giveOn n k

/-- A station enters its next round with both markers and the tiles that move to it (R207). -/
def State.tryEnter (s : State) (n k : Nat) : State :=
  let o := s.orbit n
  match o.stations[k]? with
  | none => s
  | some t =>
    let stay := o.dwell t.round
    match t.inPro, (if stay then t.retro :: t.inRetro else t.inRetro) with
    | p :: ps, r :: rs =>
      if s.orbitRuns n && !o.complete && t.ended && !t.looked && decide (0 < t.markNext) && decide (0 < t.markPrev) &&
          s.holdsTile t.hart 14 p && s.holdsTile t.hart 15 r then
        (s.setOrbit n (o.setStation k { t with pro := p, retro := r, inPro := ps, inRetro := rs,
                                               round := t.round + 1, ended := false, markNext := t.markNext - 1, markPrev := t.markPrev - 1 })).after
          [(.orbitRound, orbitMsg n k 0 false)]
      else s
    | _, _ => s

/-- A marker arrives from the previous (`pro`) or the next station, or a tile has arrived (kind 1). -/
def State.orbitMarker (s : State) (n k kind : Nat) (pro : Bool) : State :=
  let o := s.orbit n
  match o.stations[k]? with
  | none => s
  | some t =>
    let s := if kind = 1 then s else
      s.setOrbit n (o.setStation k (if pro then { t with markPrev := t.markPrev + 1 } else { t with markNext := t.markNext + 1 }))
    s.tryEnter n k

/-- The end of a lap (R210). -/
def State.orbitLapEnd (s : State) (n : Nat) : State :=
  let o := s.orbit n
  if !s.orbitRuns n || o.complete || !o.lapEnded then s
  else if o.laps < o.lapLimit then
    (List.range o.size).foldl (fun s k => s.giveOn n k) (s.setOrbit n { o with laps := o.laps + 1 })
  else s.orbitDone n

/-! ### Completion (R210) -/

/-- A tile sent to a station before completion stands there: in the slot of its family where the station's own tile has left it, else beside
that tile, which the station does not hand on. Null tiles stand nowhere. -/
def Station.settle (t : Station) : Station :=
  let up := fun (own : OTile) (l : List OTile) => match own.plate, l.filter (·.plate.isSome) with
    | none, p :: ps => (p, ps)
    | _, ps => (own, ps)
  let (pro, inPro) := up t.pro t.inPro
  let (retro, inRetro) := up t.retro t.inRetro
  { t with pro, inPro, retro, inRetro }

/-- The plates of the tiles that stand beside a station's own. -/
def Station.beside (t : Station) : List Nat := (t.inPro ++ t.inRetro).filterMap (·.plate)

/-- Every tile sent before completion takes its place where it was sent; those that drain attach as their drain ends. -/
def State.settleAll (s : State) (n : Nat) : State :=
  let o : Orbit := { s.orbit n with stations := (s.orbit n).stations.map Station.settle }
  (o.stations.flatMap Station.beside).foldl (·.drainCheck ·) (s.setOrbit n o)

/-- The completion record (R433). -/
def Orbit.record (o : Orbit) (n : Nat) : Word :=
  BitVec.ofNat 64 (o.laps % 256) <<< 24 ||| BitVec.ofNat 64 ((o.entries - o.fcount) % 65536) <<< 8 ||| BitVec.ofNat 64 (n % 64)

/-- The orbit writes its fired bits and places its record, once every hand-over has attached its tile; where the hart that ran `orbgo` has
retired, the record has no port to go to (R347). -/
def State.orbitComplete (s : State) (n : Nat) : State :=
  if !s.orbitRuns n || !(s.orbit n).complete then s
  else
    let s := s.settleAll n
    let o := s.orbit n
    if o.stations.all fun t => (t.beside.all fun p => (s.plate p).hand.isNone) && s.holdsTile t.hart 14 t.pro && s.holdsTile t.hart 15 t.retro then
      let s := (s.writeFired o).setOrbit n { o with state := 3#2 }
      let owner := s.getHart o.owner
      if owner.launch ≠ o.launch ∨ owner.ctx ≠ o.ctx then s else
      s.updHartN o.owner fun h =>
        { h with e2 := h.e2 ++ [{ word := o.record n, region := o.ephRegion, lines := (o.eph.map fun e => e.pa / 64).eraseDups }],
                 latch := h.latch ||| 1#7 }
    else s

/-! ### Instructions -/

/-- Load `n` 8-byte words. -/
def loadDwords (va : Word) : Nat → M (List Word)
  | 0 => return []
  | n + 1 => do
    let b ← loadBytes va 8
    let r ← loadDwords (va + 8#64) n
    return BitVec.ofNat 64 (leNat b) :: r

/-- Write (value << 8) | status (R430). -/
def orbitResult (d : Reg) (run : M (Nat × Nat)) : M Unit := do
  let (v, st) ← run
  modify fun s => s.setX d (BitVec.ofNat 64 (v * 256 + st))

/-- The orbit that a handle names for the executing hart (R430). -/
def State.ownOrbit (s : State) (handle : Word) : Option Nat :=
  let n := s.hart.ctx.toNat * 64 + handle.toNat
  if handle.toNat < 64 ∧ handle.toNat / 8 = s.die ∧ (s.orbit n).state ≠ 0#2 ∧ (s.orbit n).launch = s.hart.launch ∧ s.hart.launch.isSome then some n else none

/-- Clusters that are stations of running orbits of a context, but one orbit. -/
def State.busyClusters (s : State) (ctx : BitVec 3) (but : Option Nat) : List Nat :=
  (s.disp.orbits.filter fun o => o.2.state == 2#2 && o.2.ctx == ctx && some o.1 != but).flatMap fun o => o.2.stations.map fun t => clusterOf t.hart

/-- The conditions of R202 on executors. -/
def State.executorsOk (s : State) (l : List Nat) : Bool :=
  let cs := l.map clusterOf
  (l.all fun h => !s.hasRetired h && (s.getHart h).grant.orb && decide (dieOfHart h = s.die)) && decide (cs.eraseDups.length = cs.length) &&
    !(cs.any ((s.busyClusters s.hart.ctx none).contains ·))

/-- Byte `i` of a record read as 8-byte words. -/
def recByte (r : List Word) (i : Nat) : Nat := ((r.getD (i / 8) 0#64).extractLsb' (8 * (i % 8)) 8).toNat
def recHalf (r : List Word) (i : Nat) : Nat := recByte r i + 256 * recByte r (i + 1)

/-- Names become harts, in order; the first refused traps. -/
def needHarts : List Nat → M (List Nat)
  | [] => return []
  | n :: l => do
    let h ← needHart (BitVec.ofNat 64 n)
    let r ← needHarts l
    return h :: r

def newStation (h : Nat) : Station :=
  { hart := h, pro := nullTile, retro := nullTile, round := 0, task := false, looked := false, ended := false, markNext := 0,
    markPrev := 0, inPro := [], inRetro := [] }

/-- A record's fields of status 2 are outside their limits. -/
def recordBad (r : List Word) : Bool :=
  (r.getD 0 0#64).extractLsb' 0 4 != 0#4 || (r.getD 1 0#64).extractLsb' 0 3 != 0#3 || recHalf r 0x10 == 0 || decide (4096 < recHalf r 0x10) ||
  decide (recByte r 0x12 < 2) || decide (16 < recByte r 0x12) || decide (15 < recByte r 0x13) || recByte r 0x14 % 16 == 0 || recByte r 0x15 == 0

/-- `orbdef` (R431). -/
def orbdefRun (va : Word) : M (Nat × Nat) := do
  if va.extractLsb' 0 6 ≠ 0#6 then raise tcMisaligned va
  else
    let r ← loadDwords va 8
    let size := recByte r 0x12
    let st := (List.range 16).map fun k => recHalf r (0x20 + 2 * k)
    if recordBad r then return (0, 2)
    else if 16 ≤ recByte r 0x14 ∨ ((List.range 10).any fun i => recByte r (0x16 + i) ≠ 0) = true ∨ ((st.drop size).any (· ≠ 0)) = true then return (0, 5)
    else
      let harts ← needHarts (st.take size)
      let s ← get
      if !s.executorsOk harts then return (0, 4)
      else
        let base := s.hart.ctx.toNat * 64
        match ((List.range 8).map (s.die * 8 + ·)).find? fun i => (s.orbit (base + i)).state == 0#2 with
        | none => return (0, 3)
        | some i =>
          set (s.setOrbit (base + i)
            { Orbit.reset with
              state := 1#2, launch := s.hart.launch, owner := s.cur, ctx := s.hart.ctx, ephVa := r.getD 0 0#64,
              ephRegion := BitVec.ofNat 4 (recByte r 0x14), taskVa := r.getD 1 0#64, taskCount := recByte r 0x15, entries := recHalf r 0x10,
              lapLimit := if recByte r 0x13 = 0 then 2 else recByte r 0x13, stations := harts.map newStation })
          return (i, 0)

/-- Fields of a descriptor. -/
def descBad (x : Word) : Bool := x.extractLsb' 32 32 != 0#32 || x.extractLsb' 13 2 != 0#2 || x.extractLsb' 6 2 != 0#2
def descHandle (x : Word) : Word := zext (x.extractLsb' 0 6)
def descStation (x : Word) : Nat := (x.extractLsb' 8 4).toNat
def descRetro (x : Word) : Bool := x.getLsbD 12

/-- `orbin` (R432). -/
def orbinRun (xa xb : Word) : M (Nat × Nat) := do
  let s ← get
  if descBad xb || xb.getLsbD 15 || xa.extractLsb' 4 60 != 0#60 then return (0, 5)
  else
    match s.ownOrbit (descHandle xb) with
    | none => return (0, 1)
    | some n =>
      let o := s.orbit n
      let id := xb.extractLsb' 16 12
      let fam := fun (t : Station) => if descRetro xb then t.retro else t.pro
      if o.state ≠ 1#2 then return (0, 1)
      else
        match s.hart.slotAt xa.toNat, o.stations[descStation xb]? with
        | .attached p, some t =>
          let n' := s.die * 128 + p
          if (fam t).plate.isSome then return (0, 3)
          else if id = 0xFFF#12 ∨ (o.stations.any fun x => (fam x).id == id) = true then return (0, 4)
          else
            let tile : OTile := { id, plate := some n' }
            let slot := if descRetro xb then 15 else 14
            let s := s.setOrbit n (o.setStation (descStation xb) (if descRetro xb then { t with retro := tile } else { t with pro := tile }))
            let s := s.handOver s.cur xa.toNat n' (.station t.hart slot n)
            set (if (s.getHart t.hart).slotAt slot = .empty then s.updHartN t.hart (·.setSlot slot .pending) else s)
            return (0, 0)
        | .attached _, none => return (0, 3)
        | _, _ => return (0, 2)

/-- Orbits that a hart started and whose records it has not popped (R433). -/
def State.orbitsStarted (s : State) : Nat :=
  s.hart.e2.length + (s.disp.orbits.filter fun o => o.2.state == 2#2 && decide (o.2.owner = s.cur) && o.2.ctx == s.hart.ctx && o.2.launch == s.hart.launch).length

/-- Ephemeris entries, read as loads with the physical address of each. -/
def loadEphemeris (va : Word) : Nat → M (List (EphEntry × Bool))
  | 0 => return []
  | n + 1 => do
    let p ← accessCheck .load va 8
    let s ← get
    let pa := p.pa s.fab.dev.toNat
    let w0 ← loadBytes va 8
    let w1 ← loadBytes (va + 8#64) 8
    let r ← loadEphemeris (va + 16#64) n
    let w : Word := BitVec.ofNat 64 (leNat w0)
    let bad := w.extractLsb' 12 4 != 0#4 || w.extractLsb' 28 4 != 0#4 || w.extractLsb' 49 15 != 0#15
    return ({ pro := w.extractLsb' 0 12, retro := w.extractLsb' 16 12, task := w.extractLsb' 32 16, fired := w.getLsbD 48,
              arg := BitVec.ofNat 64 (leNat w1), pa }, bad) :: r

/-- `orbgo` (R433). -/
def orbgoRun (xa : Word) : M (Nat × Nat) := do
  let s ← get
  match s.ownOrbit xa with
  | none => return (0, 1)
  | some n =>
    if (s.orbit n).state ≠ 1#2 then return (0, 1)
    else if 4 ≤ s.orbitsStarted then return (0, 3)
    else
      doRelease 3#2 (regionMask 0#4)
      let o := s.orbit n
      let handlers ← loadDwords o.taskVa o.taskCount
      let es ← loadEphemeris o.ephVa o.entries
      if (handlers.any fun h => h.extractLsb' 0 2 != 0#2) = true ∨ (es.any fun e => e.2 || decide (o.taskCount ≤ e.1.task.toNat)) = true then return (0, 2)
      else
        let s ← get
        let eph := es.map (·.1)
        let f := (eph.filter (·.fired)).length
        let o : Orbit := { o with handlers, eph, fcount := f, dcount := f, laps := 0, owner := s.cur, complete := false }
        if f = o.entries then
          set ((s.setOrbit n { o with state := 2#2 }).orbitDone n)
          return (0, 0)
        else if (o.stations.any fun (t : Station) => s.hasRetired t.hart || !(s.getHart t.hart).grant.orb ||
            (s.busyClusters s.hart.ctx (some n)).contains (clusterOf t.hart)) then return (0, 4)
        else
          set ((s.setOrbit n { o with state := 2#2, laps := 1 }).after
            ((List.range o.size).map fun k => (.orbitRound, orbitMsg n k 0 false)))
          return (0, 0)

/-- The handle of an `orbout`, which x[a] and the descriptor both hold (R430): where they differ a free choice says which counts. -/
def orboutHandle (xa xb : Word) : M Word := do
  if xa = descHandle xb then return xa
  else if ← takeChoice then return xa
  else return descHandle xb

/-- The plate of the tile of a family that stands at a station, its own tile first; and the station without it. -/
def Station.stands (t : Station) (retro : Bool) : Option Nat :=
  ((if retro then t.retro :: t.inRetro else t.pro :: t.inPro).filterMap (·.plate)).head?
def Station.collect (t : Station) (retro : Bool) : Station :=
  if retro then (if t.retro.plate.isSome then { t with retro := nullTile } else { t with inRetro := t.inRetro.tail })
  else if t.pro.plate.isSome then { t with pro := nullTile } else { t with inPro := t.inPro.tail }

/-- `orbout` (R434). -/
def orboutRun (xa xb : Word) : M (Nat × Nat) := do
  if descBad xb then return (0, 5)
  else
    let handle ← orboutHandle xa xb
    let s ← get
    match s.ownOrbit handle with
    | none => return (0, 1)
    | some n =>
      let o := s.orbit n
      if o.state ≠ 3#2 then return (0, 1)
      else if xb.getLsbD 15 then
        set (s.freeOrbit n)
        return (0, 0)
      else
        let slot := (xb.extractLsb' 28 4).toNat
        match o.stations[descStation xb]? with
        | none => return (0, 2)
        | some t =>
          match t.stands (descRetro xb) with
          | none => return (0, 2)
          | some p =>
            if s.hart.slotAt slot ≠ .empty ∨ s.hart.grant.reserves slot = true then return (0, 3)
            else
              let s := s.setOrbit n (o.setStation (descStation xb) (t.collect (descRetro xb)))
              let s := s.updHart fun h => h.setSlot slot .pending
              let from' := if descRetro xb then 15 else 14
              set ((s.handOver t.hart from' p (.slot s.cur slot false)).slotFreed t.hart from')
              return (0, 0)

/-- `orbstat` (R435). -/
def State.orbstat (s : State) (x : Word) : Word :=
  match s.ownOrbit x with
  | none => 0#64
  | some n =>
    let o := s.orbit n
    o.state.zeroExtend 64 <<< 56 ||| BitVec.ofNat 64 (o.laps % 16) <<< 48 ||| BitVec.ofNat 64 (o.dcount % 8192) <<< 32 |||
      BitVec.ofNat 64 (o.fcount % 8192) <<< 16 ||| BitVec.ofNat 64 (o.entries % 8192)

def execOrbdef (d a : Reg) (s : State) : Host.Outcome State Fault Refusal := finish (orbitResult d (orbdefRun (s.xr a))) s
def execOrbin (d a b : Reg) (s : State) : Host.Outcome State Fault Refusal := finish (orbitResult d (orbinRun (s.xr a) (s.xr b))) s
def execOrbgo (d a : Reg) (s : State) : Host.Outcome State Fault Refusal := finish (orbitResult d (orbgoRun (s.xr a))) s
def execOrbout (d a b : Reg) (s : State) : Host.Outcome State Fault Refusal := finish (orbitResult d (orboutRun (s.xr a) (s.xr b))) s
def execOrbstat (d a : Reg) (s : State) : Host.Outcome State Fault Refusal := finish (modify fun s => s.setX d (s.orbstat (s.xr a))) s

/-! ### Steps -/

/-- The orbit and the station that a step names; an orbit number is below 512, a station below the orbit's size. -/
def orbitStep (g : State → Nat → Nat → State) : M Unit := do
  let s ← get
  if s.msg.unit.toNat < 512 then set (g s s.msg.unit.toNat s.msg.station.toNat) else badMsg

def execOrbitRound (s : State) : Host.Outcome State Fault Refusal := finishEvent (orbitStep fun s n k => s.orbitRound n k) s
def execOrbitRoundEdge (s : State) : Host.Outcome State Fault Refusal := finishEvent (orbitStep fun s n k => s.orbitRoundEdge n k) s
def execOrbitMarker (s : State) : Host.Outcome State Fault Refusal :=
  finishEvent (orbitStep fun s n k => s.orbitMarker n k s.msg.kind.toNat s.msg.flag) s
def execOrbitLapEnd (s : State) : Host.Outcome State Fault Refusal := finishEvent (orbitStep fun s n _ => s.orbitLapEnd n) s
def execOrbitComplete (s : State) : Host.Outcome State Fault Refusal := finishEvent (orbitStep fun s n _ => s.orbitComplete n) s

end Sys2Proof.Machine
end

