-- ==== Sys2Proof/Machine/Sync.lean ====
section
/-! DEFINITION. Synchronisation instructions, queue locks, waiting and waking (spec/13 R335 to R339, spec/05 R120 to R140, spec/07
R198, R199). -/
namespace Sys2Proof.Machine
set_option Elab.async false

/-! ### acq, rel, fence, own, disown -/

def execAcq (sc : BitVec 2) (g : BitVec 4) (s : State) : Host.Outcome State Fault Refusal := finish (doAcquire sc (regionMask g)) s
def execRel (sc : BitVec 2) (g : BitVec 4) (s : State) : Host.Outcome State Fault Refusal := finish (doRelease sc (regionMask g)) s

/-- A release, then an acquire (R131). -/
def fenceBody (sc : BitVec 2) (g : BitVec 4) : M Unit := do
  doRelease sc (regionMask g)
  doAcquire sc (regionMask g)

def execFence (sc : BitVec 2) (g : BitVec 4) (s : State) : Host.Outcome State Fault Refusal := finish (fenceBody sc g) s

/-- Whether `own` and `disown` act on a page (R337). -/
def ownApplies (attr : Attr) (g : BitVec 4) : Bool := attr.rid != 0#4 && !attr.sy && (g == 0#4 || g == attr.rid)

def ownBody (a : Reg) (sc : BitVec 2) (g : BitVec 4) : M Unit := do
  let s ← get
  let (pa, attr) ← homeAddr (s.xr a)
  if ownApplies attr g then modify fun s => s.ownLine (keySlot s.hart.ctx) s.cur sc (pa / 64) attr.rid else pure ()

def disownBody (a : Reg) (sc : BitVec 2) (g : BitVec 4) : M Unit := do
  let s ← get
  let (pa, attr) ← homeAddr (s.xr a)
  if ownApplies attr g then modify fun s => s.disownLine (keySlot s.hart.ctx) s.cur sc (pa / 64) else pure ()

def execOwn (a : Reg) (sc : BitVec 2) (g : BitVec 4) (s : State) : Host.Outcome State Fault Refusal := finish (ownBody a sc g) s
def execDisown (a : Reg) (sc : BitVec 2) (g : BitVec 4) (s : State) : Host.Outcome State Fault Refusal := finish (disownBody a sc g) s

/-! ### Queue locks (R138 to R140, R338) -/

/-- Whether a slice's park table is full (R139). -/
def SliceState.parkFull (t : SliceState) : Bool := decide (256 ≤ t.parks.length)

/-- The two fields of a lock word at home: next-ticket and now-serving. -/
def nextTicket (w : Nat) : BitVec 32 := BitVec.ofNat 32 w
def nowServing (w : Nat) : BitVec 32 := BitVec.ofNat 32 (w / 2 ^ 32)

/-- An SY read of a 64-bit word at home, with its poison. -/
def State.syRead (s : State) (slot pa : Nat) : State × Nat × Bool :=
  let (s, bs, psn) := s.homeTake slot pa 8
  (s, leNat bs, psn)

/-- The ticket draw of `qlock` for hart h (R139): the record that the hart keeps; none where the lock word is poisoned. A draw from a lock word
of another device goes there as a message (spec/04 R106), and the ticket comes with its grant. -/
def State.drawTicket (s : State) (slot pa h : Nat) : State × Option Kept :=
  if s.isRemote pa then ((s.answerRemote slot (pa / 64)).tell (devOf pa) (pa / 64) h .lockDraw 0#16, some (.qlock pa 0#32 false false))
  else
  let (s, w, psn) := s.syRead slot pa
  if psn then (s, none)
  else
    let t := nextTicket w
    let k := s.homeKey pa
    let s := s.homePut slot pa (toBytes 4 (t + 1#32).toNat)
    let s := s.setSlice k { s.slice k with tickets := { pa, slot, ticket := t, hart := h, lost := false } :: (s.slice k).tickets }
    if nowServing w = t then (s, some (.qlock pa t false true))
    else
      let x := s.slice k
      if x.parkFull then (s, some (.qlock pa t true false))
      else (s.setSlice k { x with parks := x.parks ++ [{ pa, ticket := t.zeroExtend 64, hart := h, launch := false }] },
            some (.qlock pa t false false))

/-- The message that grants a ticket to a hart. -/
def grantMsg (h pa : Nat) (t : Word) : Instr × Msg := (.grant, { hart := BitVec.ofNat 11 h, addr := BitVec.ofNat 64 pa, value := t })

/-- The tickets of a lock word from one on that a lost die's harts had drawn are passed (spec/21 R478): the first that is not. -/
def skipLost (l : List Ticket) (pa : Nat) : Nat → BitVec 32 → BitVec 32
  | 0, n => n
  | m + 1, n => if l.any fun t => decide (t.pa = pa) && t.ticket == n && t.lost then skipLost l pa m (n + 1#32) else n

/-- The tickets still outstanding when now-serving goes from one value to another. -/
def passTickets (l : List Ticket) (pa : Nat) (old new : BitVec 32) : List Ticket :=
  l.filter fun t => !(decide (t.pa = pa) && decide (t.ticket - old < new - old))

/-- Set now-serving of a lock word and grant the ticket it names to the waiter parked for it (R139). -/
def State.serve (s : State) (slot pa : Nat) (old new : BitVec 32) : State :=
  let k := s.homeKey pa
  let n := skipLost (s.slice k).tickets pa (s.slice k).tickets.length new
  let s := s.homePut slot (pa + 4) (toBytes 4 n.toNat)
  let x := s.slice k
  let s := s.setSlice k { x with tickets := passTickets x.tickets pa old n }
  let mine := fun (p : Park) => decide (p.pa = pa) && p.ticket == n.zeroExtend 64 && !p.launch
  match x.parks.find? mine with
  | none => s
  | some p =>
    let s := s.setSlice k { s.slice k with parks := x.parks.eraseP mine }
    if p.hart < 2048 then s.after [grantMsg p.hart pa p.ticket]
    else s.tell (s.ownerDev p.hart).toNat (pa / 64) (ownerHart p.hart) (.lockGrant n) 0#16

/-- The increment of now-serving by `qunlock` (R139); nothing where the word is poisoned. That of a lock word of another device goes there as a
message. -/
def State.advanceServing (s : State) (slot pa : Nat) : State × Bool :=
  if s.isRemote pa then ((s.answerRemote slot (pa / 64)).tell (devOf pa) (pa / 64) 0 .lockIncrement 0#16, true)
  else
  let (s, w, psn) := s.syRead slot pa
  if psn then (s, false) else (s.serve slot pa (nowServing w) (nowServing w + 1#32), true)

/-- A poll of now-serving by a hart that polls for a ticket (R139): its records with grants found. -/
def State.pollLocks (s : State) (h : Nat) : State :=
  let slot := keySlot (s.getHart h).ctx
  (s.getHart h).held.foldl (fun s k =>
    match k.kept with
    | .qlock pa t true false =>
      let (s, w, _) := s.syRead slot pa
      if nowServing w = t then
        s.updHartN h fun x => { x with held := x.held.map fun y => if y = k then { y with kept := .qlock pa t true true } else y }
      else s
    | _ => s) s

/-- The checks of `qlock` and `qunlock`: the physical address of the lock word. -/
def lockCheck (va : Word) : M Nat := do
  let (pa, attr) ← homeCheck va 8
  if attr.sy then return pa else raise tcAccessFault va

/-- The end of a `qlock`: it waits for its grant or a matching poll, acquires and retires with its ticket. -/
def lockWait (d : Reg) (sc : BitVec 2) (g : BitVec 4) : M Unit := do
  modify fun s => s.pollLocks s.cur
  let s ← get
  match s.hart.heldHere with
  | some (.qlock _ t _ true) =>
    doAcquire sc (regionMask g)
    modify fun s => (s.updHart (·.release)).setX d (t.zeroExtend 64)
  | _ => stall

def qlockBody (d a : Reg) (sc : BitVec 2) (g : BitVec 4) : M Unit := do
  let s ← get
  match s.hart.heldHere with
  | some (.qlock ..) => lockWait d sc g
  | _ =>
    let pa ← lockCheck (s.xr a)
    waitOverlap pa 8 true
    waitSy true
    let s ← get
    match s.drawTicket (keySlot s.hart.ctx) pa s.cur with
    | (s, none) =>
      set s
      raise tcPoison (s.xr a)
    | (s, some k) =>
      set (s.updHart (·.keep k))
      lockWait d sc g

def qunlockBody (a : Reg) (sc : BitVec 2) (g : BitVec 4) : M Unit := do
  let s ← get
  let pa ← lockCheck (s.xr a)
  waitOverlap pa 8 true
  waitSy true
  doRelease sc (regionMask g)
  let s ← get
  let (t, ok) := s.advanceServing (keySlot s.hart.ctx) pa
  set t
  if ok then pure () else raise tcPoison (s.xr a)

def execQlock (d a : Reg) (sc : BitVec 2) (g : BitVec 4) (s : State) : Host.Outcome State Fault Refusal := finish (qlockBody d a sc g) s
def execQunlock (a : Reg) (sc : BitVec 2) (g : BitVec 4) (s : State) : Host.Outcome State Fault Refusal := finish (qunlockBody a sc g) s

/-! ### wait and wake (R339, R198, R199) -/

def latchPort : BitVec 7 := 0b0000001#7
def latchWake : BitVec 7 := 0b0000010#7
def latchWatch : BitVec 7 := 0b0000100#7
def latchPlate : BitVec 7 := 0b0001000#7
def latchResume : BitVec 7 := 0b0010000#7
def latchTimeout : BitVec 7 := 0b0100000#7
def latchUint : BitVec 7 := 0b1000000#7

def Hart.setLatch (h : Hart) (b : BitVec 7) : Hart := { h with latch := h.latch ||| b }

/-- A record stands in e1 or e2. -/
def Hart.hasRecord (h : Hart) : Bool := !h.e1.isEmpty || !h.e2.isEmpty
/-- A `wait` of the hart ends. -/
def Hart.wakes (h : Hart) : Bool := h.latch != 0#7 || h.hasRecord

/-- The end of a `wait`. -/
def State.endWait (s : State) (d : Reg) : State :=
  let l := if s.hart.hasRecord then s.hart.latch ||| latchPort else s.hart.latch
  (s.updHart fun h => { h with latch := 0#7, phase := .running }).setX d (zext l)

def waitBody (d a : Reg) : M Unit := do
  let s ← get
  let t := s.xr a
  let s := if t ≠ 0#64 ∧ t.toNat ≤ s.time then s.updHart (·.setLatch latchTimeout) else s
  if s.hart.wakes then set (s.endWait d)
  else
    set (s.updHart fun h => { h with phase := .waiting t d })
    stall

/-- `wake` sends its message, which names the hart and its launch; it reaches the target as a step of its own. A hart that has halted is
not changed. -/
def wakeBody (a : Reg) : M Unit := do
  let s ← get
  let h ← needHart (s.xr a)
  modify fun s =>
    if s.hasRetired h then s else s.after [(.wakeArrival, { hart := BitVec.ofNat 11 h, unit := BitVec.ofNat 32 (s.hart.launch.getD 128) })]

def execWait (d a : Reg) (s : State) : Host.Outcome State Fault Refusal := finish (waitBody d a) s
def execWake (a : Reg) (s : State) : Host.Outcome State Fault Refusal := finish (wakeBody a) s

/-! ### Steps at the home slice and at the harts -/

/-- Change the hart that a message names. -/
def msgHart (g : State → Nat → State) : M Unit := modify fun s => g s s.msg.hart.toNat

/-- A step on an aligned 64-bit word of HBM that a message names. -/
def msgWord (g : State → Nat → State) : M Unit := do
  let s ← get
  let pa := s.msg.addr.toNat
  if pa < 2 ^ 52 ∧ isHbm (laOf pa) = true ∧ pa % 8 = 0 then set (g s pa) else badMsg

/-- The same where the step is a request at the word's home under a key slot: it is met again where it waits there (spec/02 R52 to R65, spec/03
R77). -/
def homeWordStep (i : Instr) (slot : State → Nat) (g : State → Nat → State) : M Unit :=
  msgWord fun s pa => if s.homeWaits (slot s) (dieOf (laOf pa)) pa then s.after [(i, s.msg)] else g s pa

/-- What a draw for a hart of another device is answered with: a grant at once, or the word to poll where it could not be parked (R139). -/
def State.answerDraw (s : State) (pa : Nat) (dev : BitVec 10) (h : Nat) (k : Kept) : State :=
  match k with
  | .qlock _ t _ true => s.tell dev.toNat (pa / 64) h (.lockGrant t) 0#16
  | .qlock _ t true _ => s.tell dev.toNat (pa / 64) h (.lockPoll t) 0#16
  | _ => s

/-- A ticket draw reaches the home slice for a hart that stands at its `qlock`, or (`flag`) for a hart of another device. -/
def execQlockTicketDraw (s : State) : Host.Outcome State Fault Refusal :=
  finishEvent (homeWordStep .qlockTicketDraw (fun s => keySlot (if s.msg.flag then s.msg.slot else (s.getHart s.msg.hart.toNat).ctx)) fun s pa =>
    let h := s.msg.hart.toNat
    if s.msg.flag then
      let (s, k) := s.drawTicket (keySlot s.msg.slot) pa (s.ownerKey s.msg.dev h)
      k.elim s (s.answerDraw pa s.msg.dev h)
    else
      let (s, k) := s.drawTicket (keySlot (s.getHart h).ctx) pa h
      k.elim s fun k => s.updHartN h (·.keep k)) s

/-- An increment of now-serving reaches the home slice. -/
def execQunlockIncrement (s : State) : Host.Outcome State Fault Refusal :=
  finishEvent (homeWordStep .qunlockIncrement (fun s => keySlot s.msg.slot) fun s pa => (s.advanceServing (keySlot s.msg.slot) pa).1) s

/-- A grant reaches a waiting hart (R139), which holds it until its `qlock` goes on (R140); the ticket of a lock word of another device than `own`
comes with it. -/
def Hart.granted (h : Hart) (own pa : Nat) (t : BitVec 32) : Hart :=
  { h with held := h.held.map fun k =>
    match k.kept with
    | .qlock p u poll _ => if p = pa ∧ (u = t ∨ devOf pa ≠ own) then { k with kept := .qlock p t poll true } else k
    | _ => k }

def execGrant (s : State) : Host.Outcome State Fault Refusal :=
  finishEvent (msgWord fun s pa => s.updHartN s.msg.hart.toNat (·.granted s.fab.dev.toNat pa (s.msg.value.setWidth 32))) s

def execPollRead (s : State) : Host.Outcome State Fault Refusal := finishEvent (msgHart fun s h => s.pollLocks h) s

/-- A wake message for a hart of a launch (`unit`; 128 for none): a hart that has halted is not changed, nor one of another launch that
holds its place (R198, R199). -/
def execWakeArrival (s : State) : Host.Outcome State Fault Refusal :=
  finishEvent (msgHart fun s h =>
    if (s.getHart h).phase = .idle ∨ (s.getHart h).launch.getD 128 ≠ s.msg.unit.toNat then s else s.updHartN h (·.setLatch latchWake)) s

/-- Meridian time has reached the timeout of a `wait` in progress (R198). -/
def Hart.timedOut (h : Hart) (time : Nat) : Hart :=
  match h.phase with
  | .waiting t _ => if t ≠ 0#64 ∧ t.toNat ≤ time then h.setLatch latchTimeout else h
  | _ => h

def execWaitTimeout (s : State) : Host.Outcome State Fault Refusal :=
  finishEvent (msgHart fun s h => s.updHartN h (·.timedOut s.time)) s

end Sys2Proof.Machine
end

