-- ==== Sys2Proof/Machine/Rational.lean ====
section
/-! DEFINITION. FS64, the floating-slash rational (spec/10 R278 to R283, spec/14 R356, R359 to R364). -/
namespace Sys2Proof.Machine
set_option Elab.async false

/-- The value of an FS64 word as an operation reads it: NaN, with the flag of a non-canonical code; infinity; ±n/d in lowest
terms, zero as 0/1. -/
inductive QVal where
  | nan (nv : Bool)
  | inf (neg : Bool)
  | fin (neg : Bool) (n d : Nat)
  deriving DecidableEq, Repr

/-- L, N, D of a word (R278). -/
def fsL (w : Word) : Nat := (w.extractLsb' 57 6).toNat
def fsN (w : Word) : Nat := (w.extractLsb' 0 57).toNat / 2 ^ (57 - fsL w)
def fsD (w : Word) : Nat := (w.extractLsb' 0 57).toNat % 2 ^ (57 - fsL w)
def fsS (w : Word) : Bool := w.getLsbD 63

/-- n/d in lowest terms. -/
def QVal.make (neg : Bool) (n d : Nat) : QVal :=
  if n = 0 then .fin neg 0 1 else .fin neg (n / Nat.gcd n d) (d / Nat.gcd n d)

/-- Read an FS64 word (R278). -/
def QVal.decode (w : Word) : QVal :=
  let l := fsL w
  if l = 0 then .fin (fsS w) 0 1
  else if 58 ≤ l then .nan true
  else if fsD w = 0 then if l = 1 then .inf (fsS w) else .nan false
  else .make (fsS w) (fsN w) (fsD w)

def fsNan : Word := 0x7300_0000_0000_0000#64
def fsInf (neg : Bool) : Word := if neg then 0x8300_0000_0000_0000#64 else 0x0300_0000_0000_0000#64
/-- The canonical word of a representable n/d in lowest terms; zero is +0. -/
def fsWord (neg : Bool) (n d : Nat) : Word :=
  if n = 0 then 0#64
  else BitVec.ofNat 64 ((if neg then 2 ^ 63 else 0) + bitLen n * 2 ^ 57 + n * 2 ^ (57 - bitLen n) + d)

/-- Representable (R279). -/
def fsRep (n d : Nat) : Bool := bitLen n + bitLen d ≤ 57
def fsMax : Nat := 2 ^ 56 - 1

/-- The largest j from 0 to t, built from bit i − 1 down, with a representable candidate (R282). -/
def largestJ (an ad bn bd t j : Nat) : Nat → Nat
  | 0 => j
  | i + 1 =>
    let j' := j + 2 ^ i
    if j' ≤ t && fsRep (an + j' * bn) (ad + j' * bd) then largestJ an ad bn bd t j' i else largestJ an ad bn bd t j i

/-- The neighbours of u/v on the walk of R282 from bracket ends A and B. -/
def fsWalk (an ad bn bd u v : Nat) : Nat → (Nat × Nat) × (Nat × Nat)
  | 0 => ((an, ad), (bn, bd))
  | fuel + 1 =>
    let t := u / v
    let j := largestJ an ad bn bd t 0 (bitLen t)
    if j < t then
      let c := (an + j * bn, ad + j * bd)
      if c.1 * bd < bn * c.2 then (c, (bn, bd)) else ((bn, bd), c)
    else fsWalk bn bd (an + t * bn) (ad + t * bd) v (u % v) fuel

/-- The neighbours lo and hi of a magnitude p/q that is not representable (R282). -/
def fsNeighbours (p q : Nat) : (Nat × Nat) × (Nat × Nat) := fsWalk 0 1 1 0 p q 100

/-- Of two neighbours the one a tie takes (R280): the smaller denominator, lo where they are equal. -/
def fsTie (lo hi : Nat × Nat) : Nat × Nat := if hi.2 < lo.2 then hi else lo

/-- The magnitude that a mode picks for p/q between its neighbours (R280). -/
def fsPick (mode : Rnd) (neg : Bool) (p q : Nat) (lo hi : Nat × Nat) : Nat × Nat :=
  match mode with
  | .rz => lo
  | .rd => if neg then hi else lo
  | .ru => if neg then lo else hi
  | .rn =>
    -- 2p/q against lo + hi, over the common denominator
    let l := 2 * p * lo.2 * hi.2
    let r := q * (lo.1 * hi.2 + hi.1 * lo.2)
    if l < r then lo else if r < l then hi else fsTie lo hi
  | .rm =>
    let l := p * (lo.2 + hi.2)
    let r := q * (lo.1 + hi.1)
    if l < r then lo else if r < l then hi else fsTie lo hi

/-- Round ±p/q, in lowest terms, to FS64 (R280, R281). -/
def fsRound (mode : Rnd) (neg : Bool) (p q : Nat) : Word × Exc :=
  if p = 0 then (0#64, {})
  else if fsRep p q then (fsWord neg p q, {})
  else if fsMax * q < p then
    let toInf := match mode with
      | .rn | .rm => true
      | .rz => false
      | .rd => neg
      | .ru => !neg
    (if toInf then fsInf neg else fsWord neg fsMax 1, { of := true, nx := true })
  else if p * fsMax < q then
    let up := match mode with
      | .rn => decide (q < 2 * p * fsMax)
      | .rm => decide (q < p * 2 ^ 56)
      | .rz => false
      | .rd => neg
      | .ru => !neg
    (if up then fsWord neg 1 fsMax else 0#64, { uf := true, nx := true })
  else
    let (lo, hi) := fsNeighbours p q
    let r := fsPick mode neg p q lo hi
    (fsWord neg r.1 r.2, { nx := true })

/-- Round a value. -/
def QVal.encode (mode : Rnd) : QVal → Word × Exc
  | .nan nv => (fsNan, { nv })
  | .inf n => (fsInf n, {})
  | .fin neg n d => fsRound mode neg n d

/-! ### Exact operations (R281) -/

def QVal.isNan : QVal → Bool
  | .nan _ => true | _ => false
def QVal.nv : QVal → Bool
  | .nan v => v | _ => false
def QVal.isZero : QVal → Bool
  | .fin _ 0 _ => true | _ => false
def QVal.neg? : QVal → Bool
  | .nan _ => false | .inf n => n | .fin n m _ => n && m ≠ 0
def QVal.negate : QVal → QVal
  | .nan v => .nan v | .inf n => .inf !n | .fin n m d => .fin (!n) m d

/-- The signed numerator. -/
def qInt (neg : Bool) (n : Nat) : Int := if neg then -(n : Int) else n
def QVal.ofInt (v : Int) (d : Nat) : QVal := .make (v < 0) v.natAbs d

def qInvalid : QVal × Exc := (.nan false, { nv := true })

def QVal.add (a b : QVal) : QVal × Exc :=
  match a, b with
  | .nan v, y => (.nan false, { nv := v || y.nv })
  | x, .nan v => (.nan false, { nv := v || x.nv })
  | .inf n, .inf k => if n = k then (.inf n, {}) else qInvalid
  | .inf n, _ => (.inf n, {})
  | _, .inf n => (.inf n, {})
  | .fin n1 p1 q1, .fin n2 p2 q2 => (.ofInt (qInt n1 p1 * q2 + qInt n2 p2 * q1) (q1 * q2), {})

def QVal.mul (a b : QVal) : QVal × Exc :=
  match a, b with
  | .nan v, y => (.nan false, { nv := v || y.nv })
  | x, .nan v => (.nan false, { nv := v || x.nv })
  | .inf n, y => if y.isZero then qInvalid else (.inf (n != y.neg?), {})
  | x, .inf n => if x.isZero then qInvalid else (.inf (n != x.neg?), {})
  | .fin n1 p1 q1, .fin n2 p2 q2 => (.make (n1 != n2) (p1 * p2) (q1 * q2), {})

def QVal.div (a b : QVal) : QVal × Exc :=
  match a, b with
  | .nan v, y => (.nan false, { nv := v || y.nv })
  | x, .nan v => (.nan false, { nv := v || x.nv })
  | .inf _, .inf _ => qInvalid
  | .inf n, y => (.inf (n != y.neg?), {})
  | .fin .., .inf _ => (.fin false 0 1, {})
  | .fin n1 p1 q1, .fin n2 p2 q2 =>
    if p2 = 0 then if p1 = 0 then qInvalid else (.inf n1, { dz := true })
    else (.make (n1 != n2) (p1 * q2) (q1 * p2), {})

def QVal.fma (a b c : QVal) : QVal × Exc :=
  let (p, x) := a.mul b
  let (r, y) := p.add c
  (r, x.or { y with nv := y.nv || c.nv })

/-- Order of two values that are not NaN: a < b, a = b. -/
def QVal.cmp (a b : QVal) : Bool × Bool :=
  match a, b with
  | .inf n, .inf k => (n && !k, n == k)
  | .inf n, _ => (n, false)
  | _, .inf n => (!n, false)
  | .fin n1 p1 q1, .fin n2 p2 q2 => (qInt n1 p1 * q2 < qInt n2 p2 * q1, qInt n1 p1 * q2 = qInt n2 p2 * q1)
  | _, _ => (false, false)

/-- An operation's value rounded. -/
def qFinish (mode : Rnd) (r : QVal × Exc) : Word × Exc :=
  let (w, y) := r.1.encode mode
  (w, r.2.or y)

/-- p/q rounded to an integer in a mode; RM rounds at the midpoint with ties to the smaller magnitude (R283). -/
def ratToInt (mode : Rnd) (neg : Bool) (p q : Nat) : Int × Bool :=
  let t := p / q
  let r := p % q
  let up := match mode with
    | .rn => decide (q < 2 * r) || (decide (2 * r = q) && t % 2 = 1)
    | .rm => decide (q < 2 * r)
    | .rz => false
    | .rd => neg && r ≠ 0
    | .ru => !neg && r ≠ 0
  (qInt neg (if up then t + 1 else t), r ≠ 0)

/-- FS64 to an integer in lo .. hi (R283, spec/14 R356). -/
def QVal.toRange (mode : Rnd) (lo hi : Int) : QVal → Int × Exc
  | .nan _ => (0, { nv := true })
  | .inf n => (if n then lo else hi, { nv := true })
  | .fin n p q =>
    let (v, nx) := ratToInt mode n p q
    if v < lo then (lo, { nv := true }) else if hi < v then (hi, { nv := true }) else (v, { nx })

/-- A binary value as FS64 (R283): the exact dyadic value rounded. -/
def fsOfBinary (mode : Rnd) : FVal → Word × Exc
  | .nan s => (fsNan, { nv := s })
  | .inf n => (fsInf n, {})
  | .fin n m e =>
    if m = 0 then (0#64, {})
    else
      match QVal.make n (m * 2 ^ e.toNat) (2 ^ (-e).toNat) with
      | .fin n p q => fsRound mode n p q
      | _ => (fsNan, {})

/-- FS64 as a binary code (R283): the exact value rounded by IEEE. -/
def Fmt.ofRational (f : Fmt) (mode : Rnd) : QVal → Nat × Exc
  | .nan nv => (f.nan, { nv })
  | .inf n => (f.inf n, {})
  | .fin n p q =>
    if p = 0 then (0, {})
    else
      let sh := f.frac + 3 + bitLen q
      let m := p * 2 ^ sh / q
      let r := p * 2 ^ sh % q
      f.round mode n (2 * m + (if r = 0 then 0 else 1)) (-(sh : Int) - 1)

/-- The k-th partial quotient of p/q, 0 past the end (spec/14 R363). -/
def partialQuotient (p q : Nat) : Nat → Nat → Nat
  | 0, _ => 0
  | fuel + 1, k =>
    if q = 0 then 0 else if k = 0 then p / q else partialQuotient q (p % q) fuel (k - 1)

end Sys2Proof.Machine
end

