-- ==== Sys2Proof/Machine/ScalarFloat.lean ====
section
/-! DEFINITION. Scalar floating-point and rational instructions, and the float loads and stores (spec/14). -/
namespace Sys2Proof.Machine
set_option Elab.async false

/-! ### Operands and modes -/

/-- The binary format of a precision field (R292). -/
def precFmt (p : BitVec 1) : Fmt := if p = 1#1 then fmt64 else fmt32
/-- A `.d` form in rational mode (R272). -/
def State.rational (s : State) (p : BitVec 1) : Bool := p == 1#1 && s.hart.user.rat
/-- The binary operand in f[r]: bits [31:0] of a `.s` form (R354). -/
def State.fcode (s : State) (p : BitVec 1) (r : Reg) : Nat := if p = 1#1 then (s.fr r).toNat else (s.fr r).toNat % 2 ^ 32
/-- The FS64 operand in f[r]. -/
def State.qval (s : State) (r : Reg) : QVal := .decode (s.fr r)

/-- A rounding mode by its code; none for the codes that name no mode. -/
def rndOf (c : BitVec 3) : Option Rnd :=
  if c = 0#3 then some .rn else if c = 1#3 then some .rz else if c = 2#3 then some .rd else if c = 3#3 then some .ru
  else if c = 4#3 then some .rm else none

/-- The rounding mode of an instruction as it issues (R272, R293, R352): RM only in a `.d` form in rational mode. -/
def State.rounding (s : State) (p : BitVec 1) (r : BitVec 3) : Option Rnd :=
  (rndOf (if r = 7#3 then s.hart.user.drm else r)).filter fun m => !(m == .rm) || s.rational p

/-- Write an f result with its flags (R366). -/
def putF (d : Reg) (r : Nat × Exc) : M Unit := modify fun s => (s.setF d (BitVec.ofNat 64 r.1)).raiseFlags r.2
/-- Write an FS64 result with its flags. -/
def putQ (d : Reg) (r : Word × Exc) : M Unit := modify fun s => (s.setF d r.1).raiseFlags r.2
/-- Write an x result with its flags. -/
def putX (d : Reg) (r : Word × Exc) : M Unit := modify fun s => (s.setX d r.1).raiseFlags r.2

/-- Run with the rounding mode, or trap (R293). -/
def withRounding (i : Instr) (p : BitVec 1) (r : BitVec 3) (g : Rnd → M Unit) : M Unit := do
  let s ← get
  match s.rounding p r with
  | some m => g m
  | none => illegal i

/-- A rounding operation into f[d], binary or rational (R354, R356). -/
def floatOp (i : Instr) (d : Reg) (p : BitVec 1) (r : BitVec 3) (bin : Rnd → Nat × Exc) (rat : Rnd → QVal × Exc) : M Unit :=
  withRounding i p r fun m => do
    let s ← get
    if s.rational p then putQ d (qFinish m (rat m)) else putF d (bin m)

/-! ### Arithmetic, major 0x1C (R352 to R356) -/

def execFadd (d a b : Reg) (p : BitVec 1) (r : BitVec 3) (s : State) : Host.Outcome State Fault Refusal :=
  finish (floatOp (.fadd d a b p r) d p r (fun m => (precFmt p).add m (s.fcode p a) (s.fcode p b)) fun _ => (s.qval a).add (s.qval b)) s
def execFsub (d a b : Reg) (p : BitVec 1) (r : BitVec 3) (s : State) : Host.Outcome State Fault Refusal :=
  finish (floatOp (.fsub d a b p r) d p r (fun m => (precFmt p).sub m (s.fcode p a) (s.fcode p b)) fun _ => (s.qval a).add (s.qval b).negate) s
def execFmul (d a b : Reg) (p : BitVec 1) (r : BitVec 3) (s : State) : Host.Outcome State Fault Refusal :=
  finish (floatOp (.fmul d a b p r) d p r (fun m => (precFmt p).mul m (s.fcode p a) (s.fcode p b)) fun _ => (s.qval a).mul (s.qval b)) s
def execFdiv (d a b : Reg) (p : BitVec 1) (r : BitVec 3) (s : State) : Host.Outcome State Fault Refusal :=
  finish (floatOp (.fdiv d a b p r) d p r (fun m => (precFmt p).div m (s.fcode p a) (s.fcode p b)) fun _ => (s.qval a).div (s.qval b)) s

/-- `fsqrt`: RATIONAL_OP in rational mode (R356). -/
def execFsqrt (d a : Reg) (p : BitVec 1) (r : BitVec 3) (s : State) : Host.Outcome State Fault Refusal :=
  finish (withRounding (.fsqrt d a p r) p r fun m =>
    if s.rational p then raise tcRationalOp (instrWord (.fsqrt d a p r)) else putF d ((precFmt p).sqrt m (s.fcode p a))) s

/-- `fmin` and `fmax` of FS64 words (R356). -/
def qMinmax (isMax : Bool) (a b : QVal) : Word × Exc :=
  let nv : Exc := { nv := a.nv || b.nv }
  let pick := if a.isNan then b else if b.isNan then a
    else if (if isMax then (a.cmp b).1 else (b.cmp a).1) then b else a
  ((pick.encode .rn).1, nv)

/-- The result of `fmin` or `fmax`. -/
def floatMinmax (isMax : Bool) (d a b : Reg) (p : BitVec 1) : M Unit := do
  let s ← get
  if s.rational p then putQ d (qMinmax isMax (s.qval a) (s.qval b))
  else putF d ((precFmt p).minmax isMax (s.fcode p a) (s.fcode p b))

def execFmin (d a b : Reg) (p : BitVec 1) (s : State) : Host.Outcome State Fault Refusal := finish (floatMinmax false d a b p) s
def execFmax (d a b : Reg) (p : BitVec 1) (s : State) : Host.Outcome State Fault Refusal := finish (floatMinmax true d a b p) s

/-- The sign bit of f[r] as a precision reads it. -/
def State.signBit (s : State) (p : BitVec 1) (r : Reg) : Bool := (s.fr r).getLsbD (if p = 1#1 then 63 else 31)

/-- An FS64 value with another sign, canonical (R356). -/
def QVal.withSign (neg : Bool) : QVal → Word
  | .nan _ => fsNan
  | .inf _ => fsInf neg
  | .fin _ n d => (fsRound .rn neg n d).1

/-- `fsgn`: the magnitude of f[a] with a sign; an FS64 operand of either register with L from 58 to 63 sets NV (R354, R356). -/
def signOp (d a b : Reg) (p : BitVec 1) (neg : Bool) : M Unit := do
  let s ← get
  let v := s.fr a
  if s.rational p then putQ d ((s.qval a).withSign neg, { nv := (s.qval a).nv || (s.qval b).nv })
  else
    let r : Word :=
      if p = 1#1 then BitVec.ofBool neg ++ v.extractLsb' 0 63
      else (BitVec.ofBool neg ++ v.extractLsb' 0 31 : BitVec 32).zeroExtend 64
    set (s.setF d r)

def execFsgnC (d a b : Reg) (p : BitVec 1) (s : State) : Host.Outcome State Fault Refusal := finish (signOp d a b p (s.signBit p b)) s
def execFsgnN (d a b : Reg) (p : BitVec 1) (s : State) : Host.Outcome State Fault Refusal := finish (signOp d a b p (!s.signBit p b)) s
def execFsgnX (d a b : Reg) (p : BitVec 1) (s : State) : Host.Outcome State Fault Refusal :=
  finish (signOp d a b p (s.signBit p a != s.signBit p b)) s

/-- A comparison into x[d]: `test` of (a < b, a = b); `quiet` where a quiet NaN sets no flag (R354, R356). -/
def floatCmp (quiet : Bool) (test : Bool × Bool → Bool) (d a b : Reg) (p : BitVec 1) : M Unit := do
  let s ← get
  if s.rational p then
    let x := s.qval a
    let y := s.qval b
    if x.isNan || y.isNan then putX d (0#64, { nv := !quiet || x.nv || y.nv }) else putX d (boolWord (test (x.cmp y)), {})
  else
    let x := (precFmt p).decode (s.fcode p a)
    let y := (precFmt p).decode (s.fcode p b)
    if x.isNan || y.isNan then putX d (0#64, { nv := !quiet || x.isSnan || y.isSnan }) else putX d (boolWord (test (x.cmp y)), {})

def execFeq (d a b : Reg) (p : BitVec 1) (s : State) : Host.Outcome State Fault Refusal := finish (floatCmp true (·.2) d a b p) s
def execFlt (d a b : Reg) (p : BitVec 1) (s : State) : Host.Outcome State Fault Refusal := finish (floatCmp false (·.1) d a b p) s
def execFle (d a b : Reg) (p : BitVec 1) (s : State) : Host.Outcome State Fault Refusal :=
  finish (floatCmp false (fun r => r.1 || r.2) d a b p) s

/-- KIND of a binary operand (R355). -/
def Fmt.kind (f : Fmt) (c : Nat) : Nat :=
  match f.decode c with
  | .nan sig => if sig then 5 else 4
  | .inf _ => 3
  | .fin _ m _ => if m = 0 then 0 else if m < 2 ^ f.frac then 1 else 2

/-- KIND and NC of an FS64 word (R355). -/
def fsKind (w : Word) : Nat :=
  match QVal.decode w with
  | .nan nv => if nv then 6 else 4
  | .inf _ => 3
  | .fin _ n _ => if n = 0 then 0 else 2
def fsNonCanonical (w : Word) : Bool :=
  match QVal.decode w with
  | .nan nv => nv
  | .inf _ => false
  | .fin n p q => (fsRound .rn n p q).1 != w

/-- The class word (R355). -/
def classWord (nc neg : Bool) (kind : Nat) : Word := BitVec.ofNat 64 ((if nc then 16 else 0) + (if neg then 8 else 0) + kind)

def execFclass (d a : Reg) (p : BitVec 1) (s : State) : Host.Outcome State Fault Refusal :=
  s.result d (if s.rational p then classWord (fsNonCanonical (s.fr a)) (s.signBit p a) (fsKind (s.fr a))
              else classWord false (s.signBit p a) ((precFmt p).kind (s.fcode p a)))

/-! ### Conversions (R353, R354, R356) -/

def intMin64 : Int := -(2 ^ 63)
def intMax64 : Int := 2 ^ 63 - 1
def natMax64 : Int := 2 ^ 64 - 1

def execFcvtFX (d a : Reg) (p : BitVec 1) (r : BitVec 3) (s : State) : Host.Outcome State Fault Refusal :=
  finish (floatOp (.fcvtFX d a p r) d p r (fun m => (precFmt p).encode m (.ofInt (s.xr a).toInt)) fun _ => (.ofInt (s.xr a).toInt 1, {})) s
def execFcvtFXu (d a : Reg) (p : BitVec 1) (r : BitVec 3) (s : State) : Host.Outcome State Fault Refusal :=
  finish (floatOp (.fcvtFXu d a p r) d p r (fun m => (precFmt p).encode m (.ofInt (s.xr a).toNat)) fun _ => (.ofInt (s.xr a).toNat 1, {})) s

/-- A float or FS64 operand to a 64-bit integer in lo .. hi. -/
def floatToInt (i : Instr) (lo hi : Int) (d a : Reg) (p : BitVec 1) (r : BitVec 3) : M Unit :=
  withRounding i p r fun m => do
    let s ← get
    let (v, x) := if s.rational p then (s.qval a).toRange m lo hi else ((precFmt p).decode (s.fcode p a)).toRange m lo hi
    putX d (BitVec.ofInt 64 v, x)

def execFcvtXF (d a : Reg) (p : BitVec 1) (r : BitVec 3) (s : State) : Host.Outcome State Fault Refusal :=
  finish (floatToInt (.fcvtXF d a p r) intMin64 intMax64 d a p r) s
def execFcvtXuF (d a : Reg) (p : BitVec 1) (r : BitVec 3) (s : State) : Host.Outcome State Fault Refusal :=
  finish (floatToInt (.fcvtXuF d a p r) 0 natMax64 d a p r) s

/-- `fcvt.f.f` (R353): `w` selects a 64-bit binary partner, which only rational mode has. -/
def floatToFloat (d a : Reg) (w p : BitVec 1) (r : BitVec 3) : M Unit :=
  withRounding (.fcvtFF d a w p r) p r fun m => do
    let s ← get
    let partner := precFmt w
    if s.hart.user.rat then
      if p = 1#1 then putQ d (fsOfBinary m (partner.decode (s.fcode w a))) else putF d (partner.ofRational m (s.qval a))
    else if w = 1#1 then illegal (.fcvtFF d a w p r)
    else if p = 1#1 then putF d (fmt64.encode m (fmt32.decode (s.fcode 0#1 a)))
    else putF d (fmt32.encode m (fmt64.decode (s.fcode 1#1 a)))

def execFcvtFF (d a : Reg) (w p : BitVec 1) (r : BitVec 3) (s : State) : Host.Outcome State Fault Refusal :=
  finish (floatToFloat d a w p r) s

def execFmvXF (d a : Reg) (p : BitVec 1) (s : State) : Host.Outcome State Fault Refusal :=
  s.result d (if p = 1#1 then s.fr a else sext ((s.fr a).extractLsb' 0 32))
def execFmvFX (d a : Reg) (p : BitVec 1) (s : State) : Host.Outcome State Fault Refusal :=
  .next ((s.setF d (if p = 1#1 then s.xr a else zext ((s.xr a).extractLsb' 0 32))).advance)

/-! ### Fused multiply-add (R357) -/

/-- ±(f[a] × f[b]) ± f[c], rounded once. -/
def fusedOp (i : Instr) (negProd negAdd : Bool) (d a b c : Reg) (p : BitVec 1) (r : BitVec 3) : M Unit := do
  let s ← get
  let f := precFmt p
  let sg := fun (n : Bool) (v : FVal) => if n then v.negate else v
  let sq := fun (n : Bool) (v : QVal) => if n then v.negate else v
  floatOp i d p r
    (fun m => f.fma m (sg negProd (f.decode (s.fcode p a))) (f.decode (s.fcode p b)) (sg negAdd (f.decode (s.fcode p c))))
    fun _ => (sq negProd (s.qval a)).fma (s.qval b) (sq negAdd (s.qval c))

def execFma (d a b : Reg) (p : BitVec 1) (r : BitVec 3) (c : Reg) (s : State) : Host.Outcome State Fault Refusal :=
  finish (fusedOp (.fma d a b p r c) false false d a b c p r) s
def execFms (d a b : Reg) (p : BitVec 1) (r : BitVec 3) (c : Reg) (s : State) : Host.Outcome State Fault Refusal :=
  finish (fusedOp (.fms d a b p r c) false true d a b c p r) s
def execFnma (d a b : Reg) (p : BitVec 1) (r : BitVec 3) (c : Reg) (s : State) : Host.Outcome State Fault Refusal :=
  finish (fusedOp (.fnma d a b p r c) true true d a b c p r) s
def execFnms (d a b : Reg) (p : BitVec 1) (r : BitVec 3) (c : Reg) (s : State) : Host.Outcome State Fault Refusal :=
  finish (fusedOp (.fnms d a b p r c) true false d a b c p r) s

/-! ### Float loads and stores (R358) -/

/-- `fld.h`: binary16 to binary32. -/
def loadHalf (d : Reg) (va : Word) : M Unit := do
  let bs ← loadBytes va 2
  putF d (fmt32.encode .rn (fmt16.decode (leNat bs)))

/-- `fst.h`: binary32 to binary16; the flags are set once the store is sent. -/
def storeHalf (va : Word) (c : Nat) : M Unit := do
  let (h, x) := fmt16.encode .rn (fmt32.decode c)
  storeBytes va (toBytes 2 h)
  modify fun s => s.raiseFlags x

def execFldH (d a : Reg) (o : BitVec 13) (s : State) : Host.Outcome State Fault Refusal := finish (loadHalf d (s.ea a o)) s
def execFldW (d a : Reg) (o : BitVec 13) (s : State) : Host.Outcome State Fault Refusal := finish (loadF d (s.ea a o) 4 unsignedLoad) s
def execFldD (d a : Reg) (o : BitVec 13) (s : State) : Host.Outcome State Fault Refusal := finish (loadF d (s.ea a o) 8 unsignedLoad) s
def execFstH (d a : Reg) (o : BitVec 13) (s : State) : Host.Outcome State Fault Refusal :=
  finish (storeHalf (s.ea a o) (s.fcode 0#1 d)) s
def execFstW (d a : Reg) (o : BitVec 13) (s : State) : Host.Outcome State Fault Refusal :=
  finish (storeBytes (s.ea a o) (storeData 4 (s.fr d))) s
def execFstD (d a : Reg) (o : BitVec 13) (s : State) : Host.Outcome State Fault Refusal :=
  finish (storeBytes (s.ea a o) (storeData 8 (s.fr d))) s

/-! ### The rational major (R359 to R364) -/

/-- `qnum` (R360). -/
def qNum : QVal → Word × Exc
  | .nan _ => (0#64, { nv := true })
  | .inf n => (if n then BitVec.allOnes 64 else 1#64, {})
  | .fin n p _ => (BitVec.ofInt 64 (qInt n p), {})
/-- `qden` (R360). -/
def qDen : QVal → Word × Exc
  | .nan _ => (0#64, { nv := true })
  | .inf _ => (0#64, {})
  | .fin _ _ q => (BitVec.ofNat 64 q, {})

def execQnum (d a : Reg) (s : State) : Host.Outcome State Fault Refusal := finish (putX d (qNum (s.qval a))) s
def execQden (d a : Reg) (s : State) : Host.Outcome State Fault Refusal := finish (putX d (qDen (s.qval a))) s

/-- `qmk` (R361): the quotient of two signed integers. -/
def qMake (m : Rnd) (a b : Int) : Word × Exc :=
  if b = 0 then if a = 0 then (fsNan, { nv := true }) else (fsInf (a < 0), { dz := true })
  else qFinish m (.make (decide (a < 0) != decide (b < 0)) a.natAbs b.natAbs, {})

def execQmk (d a b : Reg) (r : BitVec 3) (s : State) : Host.Outcome State Fault Refusal :=
  finish (withRounding (.qmk d a b r) 1#1 r fun m => putQ d (qMake m (s.xr a).toInt (s.xr b).toInt)) s

/-- The parts of a value as the mediant takes them, ∞ as 1/0. -/
def QVal.parts : QVal → Nat × Nat
  | .nan _ => (0, 0)
  | .inf _ => (1, 0)
  | .fin _ n d => (n, d)

/-- `qmed` (R362). -/
def qMed (m : Rnd) (a b : QVal) : Word × Exc :=
  if a.isNan || b.isNan then (fsNan, { nv := a.nv || b.nv })
  else if !a.isZero && !b.isZero && a.neg? != b.neg? then (fsNan, { nv := true })
  else
    let neg := if a.isZero then b.neg? else a.neg?
    let n := a.parts.1 + b.parts.1
    let d := a.parts.2 + b.parts.2
    if d = 0 then (fsInf neg, {}) else qFinish m (.make neg n d, {})

def execQmed (d a b : Reg) (r : BitVec 3) (s : State) : Host.Outcome State Fault Refusal :=
  finish (withRounding (.qmed d a b r) 1#1 r fun m => putQ d (qMed m (s.qval a) (s.qval b))) s

/-- `qcf` (R363). -/
def qCf (v : QVal) (k : Nat) : Word × Exc :=
  match v with
  | .nan _ => (0#64, { nv := true })
  | .inf _ => (if k = 0 then BitVec.allOnes 64 else 0#64, {})
  | .fin _ n d => (BitVec.ofNat 64 (partialQuotient n d 128 k), {})

def execQcf (d a b : Reg) (s : State) : Host.Outcome State Fault Refusal := finish (putX d (qCf (s.qval a) (s.xr b).toNat)) s

/-- `qfloor` (R364). -/
def qFloor : QVal → Word × Exc
  | .nan nv => (fsNan, { nv })
  | .inf n => (fsInf n, {})
  | .fin n p q => (fsWord n (if n then (p + q - 1) / q else p / q) 1, {})

def execQfloor (d a : Reg) (s : State) : Host.Outcome State Fault Refusal := finish (putQ d (qFloor (s.qval a))) s

end Sys2Proof.Machine
end

