-- ==== Sys2Proof/Machine/VecArith.lean ====
section
/-! DEFINITION. Vector arithmetic and compare: the operations in an operation type and their element-wise effect (spec/10 R267 to
R270, spec/15 R391 to R394). -/
namespace Sys2Proof.Machine
set_option Elab.async false

/-- The operations of R392. -/
inductive VOp where
  | add | sub | mul | fma | fms | div | sqrt | min | max | abs | neg | and | or | xor | shl | shr | mulh
  deriving DecidableEq, Repr

/-- An operation on bit patterns. -/
def VOp.bits (op : VOp) (a b : Nat) : Nat :=
  match op with
  | .and => a &&& b
  | .or => a ||| b
  | _ => a ^^^ b

/-- A float operation in T, rounded once to nearest-even (R267, R392). -/
def VOp.float (op : VOp) (f : Fmt) (a b c : Nat) : Nat × Exc :=
  match op with
  | .add => f.add .rn a b
  | .sub => f.sub .rn a b
  | .mul => f.mul .rn a b
  | .fma => f.fma .rn (f.decode a) (f.decode b) (f.decode c)
  | .fms => f.fma .rn (f.decode a) (f.decode b) (f.decode c).negate
  | .div => f.div .rn a b
  | .sqrt => f.sqrt .rn a
  | .min => f.minmax false a b
  | .max => f.minmax true a b
  | .abs => f.encode .rn (match f.decode a with | .fin _ m e => .fin false m e | .inf _ => .inf false | .nan s => .nan s)
  | .neg => f.encode .rn (f.decode a).negate
  | .and | .or | .xor | .shl | .shr | .mulh => (op.bits a b, {})

/-- An integer operation in T: exact, then wrapped or saturated (R267, R392, R393). -/
def VOp.int (op : VOp) (w : Nat) (sg sat : Bool) (a b c : Nat) : Nat :=
  let x := intVal w sg a
  let y := intVal w sg b
  let z := intVal w sg c
  let fin := narrow sat w sg
  match op with
  | .add => fin (x + y)
  | .sub => fin (x - y)
  | .mul => fin (x * y)
  | .fma => fin (x * y + z)
  | .fms => fin (x * y - z)
  | .div => if y = 0 then 2 ^ w - 1 else fin (x.tdiv y)
  | .sqrt => a
  | .min => if y < x then b else a
  | .max => if x < y then b else a
  | .abs => fin (if x < 0 then -x else x)
  | .neg => fin (-x)
  | .and | .or | .xor => op.bits a b
  | .shl => fin (x * 2 ^ (b % w))
  | .shr => narrow false w sg (x / 2 ^ (b % w))
  | .mulh => narrow false w sg (x * y / 2 ^ w)

/-- An operation on operands of type T (R392). -/
def VOp.apply (op : VOp) (t : Ty) (sat : Bool) (a b c : Nat) : Nat × Exc :=
  match t with
  | .fl f => op.float f a b c
  | .int w sg => (op.int w sg sat a b c, {})

/-- A shift or `vmulh`, which a float operation type refuses (R373). -/
def VOp.intOnly : VOp → Bool
  | .shl | .shr | .mulh => true
  | _ => false
def VOp.fused : VOp → Bool
  | .fma | .fms => true
  | _ => false

/-- The operation type (R269): of a and b, then with c where three operands meet. -/
def VOp.type (op : VOp) (ta tb tc : Ty) : Ty :=
  let t := opTy ta tb
  match op with
  | .fma | .fms => opTy t tc
  | .sqrt => t.floatOnly
  | _ => t

/-- The scalar of a `.x` form as an element of a type (R269). -/
def scalarCode (t : Ty) (sat : Bool) (x f : Word) : Nat × Exc :=
  match t with
  | .int w sg => (narrow sat w sg (if sg then x.toInt else x.toNat), {})
  | .fl g => if g = fmt64 then (f.toNat, {}) else (Ty.fl fmt32).cvt false (.fl g) (f.toNat % 2 ^ 32)

/-- One element: operands converted to T, saturating under `.sat` (R270), the operation, the result converted to vd's type (R269, R392, R393). -/
def VOp.element (op : VOp) (sat : Bool) (ta tb td : Ty) (a b c : Nat) : Nat × Exc :=
  let t := op.type ta tb td
  let (a, xa) := ta.cvt sat t a
  let (b, xb) := tb.cvt sat t b
  let (c, xc) := if op.fused then td.cvt sat t c else (c, {})
  let (r, xr) := op.apply t sat a b c
  let (r, xd) := t.cvt sat td r
  (r, ((((xa.or xb).or xc).or xr).or xd))

/-- OR the exceptions of results into VFLAGS (R268). -/
def State.vflags (s : State) (x : Exc) : State := s.orVflags x.of x.nv

/-- Write elements of register groups with their flags. -/
def State.putElems (s : State) (v : VecRegs) (d : Reg) (l : List ((Nat × Nat) × (Nat × Exc))) : State :=
  l.foldl (fun s r => (s.putVel v (d.toNat + r.1.1) r.1.2 r.2.1).vflags r.2.2) s

/-- Operand b of an element: the register's element or the scalar (R391). -/
def operandB (s : State) (q : QEntry) (a b : Reg) (sat : Bool) (x : BitVec 1) (k i : Nat) : Nat × Exc :=
  if x = 1#1 then scalarCode (q.vec.ty (a.toNat + k)) sat q.xb q.fb else (s.vel q.vec (b.toNat + k) i, {})
def tyB (v : VecRegs) (a b : Reg) (x : BitVec 1) (k : Nat) : Ty := v.ty ((if x = 1#1 then a else b).toNat + k)

/-- An element-wise operation of two or three operands (R392). -/
def binaryRun (q : QEntry) (op : VOp) (d a b : Reg) (sat x : BitVec 1) : M Unit := do
  let s ← get
  let v := q.vec
  let act := s.activeGrid v
  consume (act.map fun (k, i) =>
    ((k, i), s.velMarked v (a.toNat + k) i || (x != 1#1 && s.velMarked v (b.toNat + k) i) || (op.fused && s.velMarked v (d.toNat + k) i)))
  set (s.putElems v d (act.map fun (k, i) =>
    let (bv, bx) := operandB s q a b (sat = 1#1) x k i
    let (r, rx) := op.element (sat = 1#1) (v.ty (a.toNat + k)) (tyB v a b x k) (v.ty (d.toNat + k)) (s.vel v (a.toNat + k) i) bv (s.vel v (d.toNat + k) i)
    ((k, i), (r, bx.or rx))))

/-- A unary operation (R392). -/
def unaryRun (q : QEntry) (op : VOp) (d a : Reg) (sat : BitVec 1) : M Unit := do
  let s ← get
  let v := q.vec
  let act := s.activeGrid v
  consume (act.map fun (k, i) => ((k, i), s.velMarked v (a.toNat + k) i))
  set (s.putElems v d (act.map fun (k, i) =>
    let t := v.ty (a.toNat + k)
    let c := s.vel v (a.toNat + k) i
    ((k, i), op.element (sat = 1#1) t t (v.ty (d.toNat + k)) c c c)))

/-- `vsel` (R392): the mask chooses the operand, and every element below VL is written. -/
def selectRun (q : QEntry) (d a b : Reg) (sat x : BitVec 1) : M Unit := do
  let s ← get
  let v := q.vec
  consume (v.grid.map fun (k, i) =>
    ((k, i), if s.isActive v i then s.velMarked v (a.toNat + k) i else x != 1#1 && s.velMarked v (b.toNat + k) i))
  set (s.putElems v d (v.grid.map fun (k, i) =>
    let ta := v.ty (a.toNat + k)
    let tb := tyB v a b x k
    let t := opTy ta tb
    let act := s.isActive v i
    let (c, x0) := if act then (s.vel v (a.toNat + k) i, ({} : Exc)) else operandB s q a b (sat = 1#1) x k i
    let (c, x1) := (if act then ta else tb).operand (sat = 1#1) t c
    let (c, x2) := t.cvt (sat = 1#1) (v.ty (d.toNat + k)) c
    ((k, i), (c, (x0.or x1).or x2))))

/-! ### Compare (R394) -/

inductive Cond where
  | eq | ne | lt | le | gt | ge | un
  deriving DecidableEq, Repr

/-- A condition from (a < b, a = b). -/
def Cond.test (c : Cond) (lt eq : Bool) : Bool :=
  match c with
  | .eq => eq | .ne => !eq | .lt => lt | .le => lt || eq | .gt => !lt && !eq | .ge => !lt | .un => false

/-- The comparison of two operands of type T (R267, R394). -/
def Cond.apply (c : Cond) (t : Ty) (a b : Nat) : Bool × Exc :=
  match t with
  | .int w sg => (c.test (intVal w sg a < intVal w sg b) (intVal w sg a = intVal w sg b), {})
  | .fl f =>
    let x := f.decode a
    let y := f.decode b
    if x.isNan || y.isNan then
      let quiet := c == .eq || c == .ne || c == .un
      (c == .ne || c == .un, { nv := !quiet || x.isSnan || y.isSnan })
    else (c.test (x.cmp y).1 (x.cmp y).2, {})

/-- Write predicate bits. -/
def State.putPbits (s : State) (v : VecRegs) (d : Reg) (l : List ((Nat × Nat) × Bool)) : State :=
  l.foldl (fun s r => s.putPbit v (d.toNat + r.1.1) r.1.2 r.2) s

def compareRun (q : QEntry) (c : Cond) (d a b : Reg) (x : BitVec 1) : M Unit := do
  let s ← get
  let v := q.vec
  let act := s.activeGrid v
  consume (act.map fun (k, i) => ((k, i), s.velMarked v (a.toNat + k) i || (x != 1#1 && s.velMarked v (b.toNat + k) i)))
  let rs := act.map fun (k, i) =>
    let ta := v.ty (a.toNat + k)
    let tb := tyB v a b x k
    let t := opTy ta tb
    let (bv, x0) := operandB s q a b false x k i
    let (ca, x1) := ta.cvt false t (s.vel v (a.toNat + k) i)
    let (cb, x2) := tb.cvt false t bv
    let (r, x3) := c.apply t ca cb
    ((k, i), (r, ((x0.or x1).or x2).or x3))
  set ((s.putPbits v d (rs.map fun r => (r.1, r.2.1))).vflags (rs.foldl (fun e r => e.or r.2.2) {}))

end Sys2Proof.Machine
end

