-- ==== Sys2Proof/Machine/VecMem.lean ====
section
/-! DEFINITION. Vector memory: translation windows, the places of elements, faults and restarts, trims, `vst.n` and `vpush`
(spec/01 R39, R40, spec/03 R82 to R88, spec/09 R243 to R249, spec/15 R381 to R390). -/
namespace Sys2Proof.Machine
set_option Elab.async false

/-! ### Translation windows (R39) -/

/-- Where an element lies as the pre-translator finds it. -/
inductive VPlace where
  | misaligned
  | bound
  | fault (reason : BitVec 4) (level : Nat)
  /-- SPTB is not enabled (spec/01 R26). -/
  | noTable
  /-- Its page is still to be walked, by an I/O die that is held in reset (spec/21 R477). -/
  | held
  | slot (k ofs : Nat)
  /-- A physical address with its page's attributes and first address. -/
  | page (pa : Nat) (attr : Attr) (leaf : Nat)
  deriving DecidableEq, Repr

/-- The kinds of fault that the pre-translator finds (R385). -/
def VPlace.early : VPlace → Bool
  | .misaligned | .bound | .fault .. => true
  | _ => false

def Span.holds (x : Span) (va : Word) : Bool := decide (x.lo ≤ va.toNat) && decide (va.toNat < x.lo + x.size)

/-- The place of an address on a page of the window. -/
def Span.place (x : Span) (va : Word) : VPlace :=
  match x.leaf with
  | some e => .page (e.pa va) e.attr (e.ppn.toNat * 4096)
  | none => .fault x.reason x.level

/-- The span that a translation gives (R39): the leaf's page, or what the entry at which the walk stopped would map. -/
def spanOf (e : VElem) (r : WalkResult) : Span :=
  let at' := fun (level : Nat) => e.va.toNat / pageSize level * pageSize level
  match r with
  | .leaf t => { lo := at' t.level, size := pageSize t.level, leaf := some t, reason := 0#4, level := t.level, first := e }
  | .fault r l =>
    let lv := if r = rsNonCanon then 0 else l
    { lo := at' lv, size := pageSize lv, leaf := none, reason := r, level := l, first := e }

/-- A window in the making: the state, its pages, its elements in reverse, and the elements after it. -/
structure Window where
  s : State
  spans : List Span
  items : List (VElem × VPlace)
  rest : List VElem

/-- Form a window of at most `cap` pages from the elements left (R39): 64, or, for a window in progress, those it has. -/
def formWindow (cap : Nat) (acc : Acc) (pwb : Word) : List VElem → Window → Window
  | [], w => w
  | e :: l, w =>
    let put := fun (w : Window) (p : VPlace) => { w with items := (e, p) :: w.items }
    if e.va.toNat % e.n ≠ 0 then formWindow cap acc pwb l (put w .misaligned)
    else if inPlateWindow pwb e.va then
      formWindow cap acc pwb l (put w (if 0x40000 < plateOfs e.va + e.n then .bound else .slot (plateSlotOf e.va).toNat (plateOfs e.va)))
    else if canonical e.va && !w.s.hart.sregs.sptb.getLsbD 63 then formWindow cap acc pwb l (put w .noTable)
    else
      match w.spans.find? (·.holds e.va) with
      | some x => formWindow cap acc pwb l (put w (x.place e.va))
      | none =>
        if cap ≤ w.spans.length then { w with rest := e :: l }
        else if w.s.walkHeld (w.s.walkerOf w.s.cur) w.s.cur .vector acc e.va then formWindow cap acc pwb l (put w .held)
        else
          let (s, r) := w.s.lookup (w.s.walkerOf w.s.cur) w.s.cur .vector acc e.va
          let x := spanOf e r
          formWindow cap acc pwb l (put { w with s, spans := w.spans ++ [x] } (x.place e.va))

/-- Form the next window of an access, or go on with the one in progress, whose pages stay as they were translated (R39, R46). -/
def State.windowFor (s : State) (acc : Acc) (pwb : Word) (spans : List Span) (elems : List VElem) : Window :=
  formWindow (if spans.isEmpty then 64 else spans.length) acc pwb elems { s, spans, items := [], rest := [] }

/-- Keep the window in progress of an entry; none where it has been performed. -/
def Hart.keepSpans (h : Hart) (seq : Nat) (spans : List Span) : Hart :=
  let put := fun (q : QEntry) => if q.seq = seq then { q with spans } else q
  { h with vq := h.vq.map put, mq := h.mq.map put }
/-- The same for the instruction being performed, which is the supervisor's own in supervisor mode (spec/09 R240). -/
def State.keepWindow (s : State) (seq : Nat) (spans : List Span) : State :=
  s.updHart fun h => if h.sup then { h with window := spans } else h.keepSpans seq spans

/-- The faulting pages of a window for the fault list (R40): ROW and ELEM as the access gives them. -/
def Window.faults (w : Window) : List PageFault :=
  (w.spans.filter (·.leaf.isNone)).map fun x =>
    { va := x.first.va, level := x.level, reason := x.reason, row := x.first.k, elem := x.first.i }

/-! ### The place of an access (R384, R385) -/

/-- Where an element is performed. -/
inductive VLoc where
  | plate (p ofs : Nat)
  | hbm (pa : Nat) (attr : Attr) (leaf : Nat)
  | window (la : Nat)
  | control (la : Nat)
  | mailbox (ofs : Nat)
  deriving DecidableEq, Repr

/-- The plate a slot of the executing hart resolves to for a queued entry, and whether the access is being drained (R87). -/
def State.entrySlot (s : State) (q : QEntry) (k : Nat) : Option (Nat × Bool) :=
  match q.drain.find? fun d => decide (d.1 = k) with
  | some d => some (d.2, true)
  | none => (s.hart.slotAt k).plate?.map fun p => (dieOfHart s.cur * 128 + p, false)

/-- The checks of the memory pipeline on an element: ACCESS_FAULT, PLATE_DETACHED; a plate whose state refuses it makes it wait. -/
def locate (q : QEntry) (store : Bool) (e : VElem) (p : VPlace) : M VLoc := do
  let s ← get
  match p with
  | .slot k ofs =>
    match s.entrySlot q k with
    | none => raise tcDetached e.va
    | some (n, drained) =>
      let x := s.plate n
      if x.admits store || (drained && x.state == 3#2) then return .plate n ofs else stall
  | .page pa attr leaf =>
    match s.target s.hart.ctx s.hart.sup pa e.n with
    | .refused => raise tcAccessFault e.va
    | .hbm =>
      if (if attr.sy || attr.hs then s.homeWaits (keySlot s.hart.ctx) (dieOfHart s.cur) pa else s.accessWaits s.cur pa e.n) then stallAt pa
      else if store && s.isProtected pa e.n then raise tcAccessFault e.va
      else return .hbm pa attr leaf
    | .plate n ofs =>
      if (s.plate n).admits store || (q.drain.any (·.2 == n) && (s.plate n).state == 3#2) then return .plate n ofs else stall
    | .window => return .window (laOf pa)
    | .control la => return .control la
    | .mailbox o => return .mailbox o
  | .held => stall
  | _ => raise tcAccessFault e.va

/-- How a vector access is performed (R381, R384). -/
structure VMode where
  store : Bool
  /-- `.o`. -/
  ordered : Bool := false
  /-- `.nt`, or `vst.n`: element writes at home, loads without an allocation. -/
  home : Bool := false
  /-- Trims at any fault but POISON (`vld.t`). -/
  trimAll : Bool := false
  /-- An indexed access. -/
  indexed : Bool := false
  deriving DecidableEq, Repr

/-- Bytes of one line at home, forwarded from owners registered there (R145). -/
def State.homeForward (s : State) (slot pa n : Nat) : List Byte × Bool :=
  let m := wordMask (pa % 64) n
  let ws := words16.map fun i => if bitAt m i then s.homeWord slot (pa / 64) i else (List.replicate 4 0#8, false)
  (((ws.flatMap (·.1)).drop (pa % 64)).take n, ws.any (·.2))

/-- Read the element at a place: its bits and whether they are poisoned. -/
def readElem (mode : VMode) (e : VElem) (loc : VLoc) : M (Nat × Bool) := do
  let s ← get
  let slot := keySlot s.hart.ctx
  let bits := fun (bs : List Byte) => leNat bs / 2 ^ e.bit % 2 ^ e.w
  match loc with
  | .plate p o => return (s.getBits (8 * platePa s p o + e.bit) e.w, s.marked (8 * platePa s p o + e.bit) e.w)
  | .window la => return (s.getBits (8 * s.ownPa la + e.bit) e.w, s.marked (8 * s.ownPa la + e.bit) e.w)
  | .hbm pa attr _ =>
    let (s', bs, psn) :=
      if attr.sy then s.homeTake slot pa e.n
      else if mode.ordered || attr.hs then
        let s := s.pushHome slot s.cur (pa / 64) (wordMask (pa % 64) e.n)
        (s, s.homeForward slot pa e.n)
      else s.vecRead slot s.cur pa e.n attr.rid
    set s'
    return (bits bs, psn)
  | .control la => return (bits (s.ctlBytes la e.n), false)
  | .mailbox o => return (bits ((List.range e.n).map fun i => s.mbByte (o + i)), false)

/-- The bytes of an element as a store writes them, from the old bytes where it covers part of a byte (R383). -/
def VElem.bytes (e : VElem) (code : Nat) (old : List Byte) : List Byte :=
  if e.w < 8 then
    let o := leNat old
    toBytes e.n (o - o / 2 ^ e.bit % 2 ^ e.w * 2 ^ e.bit + code % 2 ^ e.w * 2 ^ e.bit)
  else toBytes e.n code

/-- Write the element at a place. -/
def writeElem (mode : VMode) (e : VElem) (code : Nat) (loc : VLoc) : M Unit := do
  let s ← get
  let slot := keySlot s.hart.ctx
  match loc with
  | .plate p o => set (s.putBits (8 * platePa s p o + e.bit) e.w code)
  | .window la => set (s.putBits (8 * s.ownPa la + e.bit) e.w code)
  | .hbm pa attr _ =>
    if attr.sy then
      let (s, old, _) := s.homeTake slot pa e.n
      set (s.homePut slot pa (e.bytes code old))
    else if mode.ordered || mode.home || attr.hs then
      let s := s.pushHome slot s.cur (pa / 64) (wordMask (pa % 64) e.n)
      set (s.engineWrite slot pa (e.bytes code (s.homeForward slot pa e.n).1))
    else if e.w < 8 then
      let (s, old, _) := s.vecRead slot s.cur pa e.n attr.rid
      set (s.vecWrite slot s.cur pa attr.rid (e.bytes code old))
    else set (s.vecWrite slot s.cur pa attr.rid (e.bytes code []))
  | .control la => set (s.ctlStore la (e.bytes code (s.ctlBytes la e.n)))
  | .mailbox o => set (s.mbWrite o (e.bytes code [s.mbByte o]))

/-! ### Lines that a load allocates (spec/03 R70, spec/04 R97, R100) -/

/-- The words of lines that accesses touch, gathered by line: what one line request of an indexed access asks for (R97). -/
def lineMasks (l : List (Nat × Nat)) : SMap (BitVec 16) :=
  l.foldl (fun m x => m.set (x.1 / 64) (m.get 0#16 (x.1 / 64) ||| wordMask (x.1 % 64) x.2)) []
/-- The bits of lines that elements cover, gathered by line: bit addresses and widths. -/
def lineBits (l : List (Nat × Nat)) : SMap Nat :=
  l.foldl (fun m x => m.set (x.1 / 512) (m.get 0 (x.1 / 512) ||| (2 ^ x.2 - 1) <<< (x.1 % 512))) []
/-- The lines all of whose words a list of accesses delivers: every bit of the line for a segment, every word named for line requests. -/
def wholeLines (indexed : Bool) (l : List (Nat × VElem)) : List Nat :=
  if indexed then ((lineMasks (l.map fun x => (x.1, x.2.n))).filter (·.2 = 0xFFFF#16)).map (·.1)
  else ((lineBits (l.map fun x => (8 * x.1 + x.2.bit, x.2.w))).filter fun x => decide (x.2 = 2 ^ 512 - 1)).map (·.1)

/-- Runs of elements in one leaf page homed on one die, of at most 4,096 elements, with their addresses. -/
def segments : List (VElem × VLoc) → List (List (Nat × VElem)) → Option (Nat × Nat) → List (List (Nat × VElem))
  | [], out, _ => out
  | (e, .hbm pa _ leaf) :: l, out, last =>
    let key := (leaf, dieOf (laOf pa))
    match out with
    | seg :: more =>
      if last = some key ∧ seg.length < 4096 then segments l (((pa, e) :: seg) :: more) (some key)
      else segments l ([(pa, e)] :: out) (some key)
    | [] => segments l [[(pa, e)]] (some key)
  | _ :: l, out, _ => segments l out none

/-- Fill the lines of which one segment, or one line request of an indexed access, delivers all 16 words (R100). What a home slice of
another die sends goes straight to the cluster, and no RLC line is filled (R101). -/
def allocateLines (mode : VMode) (l : List (VElem × VLoc)) : M Unit :=
  modify fun s =>
    let cached := l.filterMap fun x => match x.2 with | .hbm pa attr _ => if attr.sy || attr.hs then none else some (pa, x.1, attr.rid) | _ => none
    let segs := if mode.indexed then [cached.map fun x => (x.1, x.2.1)] else segments l [] none
    segs.foldl (fun s seg => (wholeLines mode.indexed seg).foldl (fun s ln =>
      match cached.find? fun c => decide (c.1 / 64 = ln) with
      | some c => (s.l1Flush (keySlot s.hart.ctx) s.cur ln).ccStream (keySlot s.hart.ctx) (clusterOf s.cur) ln c.2.2
      | none => s) s) s

/-! ### Performing the elements of a window -/

/-- Run a part and return what stopped it. -/
def attempt {α : Type} (m : M α) : M (Except Stop α) := fun s =>
  match m s with
  | .ok a t => .ok (.ok a) t
  | .error e t => .ok (.error e) t

/-- The elements before the first that fails its check, that element with what stopped it, and those after it. -/
def untilFailure (chk : VElem → VPlace → M VLoc) : List (VElem × VPlace) → M (List (VElem × VLoc) × Option (VElem × Stop) × List (VElem × VPlace))
  | [] => return ([], none, [])
  | x :: l => do
    match ← attempt (chk x.1 x.2) with
    | .ok loc =>
      let (a, b, c) ← untilFailure chk l
      return ((x.1, loc) :: a, b, c)
    | .error e => return ([], some (x.1, e), l)

/-- Any subset of the later elements of an unordered access may be performed before the trap (R243). -/
def laterSubset (chk : VElem → VPlace → M VLoc) : List (VElem × VPlace) → M (List (VElem × VLoc))
  | [] => return []
  | x :: l => do
    let rest ← laterSubset chk l
    if ← takeChoice then
      match ← attempt (chk x.1 x.2) with
      | .ok loc => return (x.1, loc) :: rest
      | .error _ => return rest
    else return rest

/-- Insert a range of bits into sorted ranges; none where it meets one of them. -/
def insertRange (a n : Nat) : List (Nat × Nat) → Option (List (Nat × Nat))
  | [] => some [(a, n)]
  | (b, m) :: l => if a + n ≤ b then some ((a, n) :: (b, m) :: l) else if b + m ≤ a then (insertRange a n l).map ((b, m) :: ·) else none

def VLoc.bitAt (s : State) (e : VElem) : VLoc → Nat
  | .plate p o => 8 * platePa s p o + e.bit
  | .hbm pa _ _ => 8 * pa + e.bit
  | .window la => 8 * s.ownPa la + e.bit
  | .control la => 8 * s.ownPa la
  | .mailbox o => 8 * s.ownPa (0x3F000000000 + o)

def overlapping (s : State) (l : List (VElem × VLoc)) : Bool :=
  (l.foldr (fun x acc => acc.bind (insertRange (x.2.bitAt s x.1) x.1.w)) (some [])).isNone

/-- Whether an element is performed in element order (R385). -/
def VMode.inOrder (mode : VMode) : VLoc → Bool
  | .hbm _ attr _ => mode.ordered || attr.sy || attr.hs
  | _ => mode.ordered

/-- Split by a free choice for each element that `free` names; the others come first, in their order. -/
def splitByChoice {α : Type} (free : α → Bool) : List α → M (List α × List α)
  | [] => return ([], [])
  | x :: l => do
    let (a, b) ← splitByChoice free l
    if !free x then return (x :: a, b)
    else if ← takeChoice then return (x :: a, b) else return (a, x :: b)

/-- The order in which elements are performed: element order, or, where elements of an unordered store share bytes, an order in
which any of them may prevail (R384). Elements on HS and SY pages keep their order (spec/05 R134, R145). -/
def storeOrder (mode : VMode) (l : List (VElem × VLoc)) : M (List (VElem × VLoc)) := do
  let s ← get
  if mode.store && !mode.ordered && overlapping s l then
    let (a, b) ← splitByChoice (fun x => !mode.inOrder x.2) l
    return a ++ b
  else return l

/-! ### VL trims (spec/03 R86, R386, R380) -/

/-- Shorten VL for the hart and for every entry from this one on. -/
def State.trimVl (s : State) (seq n : Nat) : State :=
  let cut := fun (q : QEntry) => if seq ≤ q.seq then { q with vec := { q.vec with vl := BitVec.ofNat 14 n } } else q
  s.updHart fun h => { h with vec := { h.vec with vl := BitVec.ofNat 14 n }, vq := h.vq.map cut, mq := h.mq.map cut }

/-- VSTART at an element (spec/01 R40). -/
def startAt (k i : Nat) : BitVec 32 := BitVec.ofNat 32 (k % 65536 * 65536 + i % 65536)
def setStart (e : VElem) : M Unit := modify fun s => s.updVec fun v => { v with vstart := startAt e.k e.i }

def Stop.isPoison : Stop → Bool
  | .trap c _ => c == tcPoison
  | _ => false
def Stop.isTrap : Stop → Bool
  | .trap .. => true
  | _ => false

/-- Stop at an element that the pre-translator found at fault. -/
def earlyStop {α : Type} (acc : Acc) (w : Window) (e : VElem) : VPlace → M α
  | .misaligned => raise tcMisaligned e.va
  | .bound => raise tcBound e.va
  | _ => do
    modify fun s => s.recordFaults acc w.faults
    raise tcPageFault e.va

/-- The row and the element of an instruction's first element left. -/
def startOf (l : List VElem) : M Unit :=
  match l with
  | [] => pure ()
  | e :: _ => setStart e

/-- Perform the elements left: window by window, each, once every page of it has a translation or a fault (R39), up to its first fault; `spans` are the pages of a window in progress. `go` performs
elements in the order given, and is told those that no element left out comes before; `chk` makes the checks of the memory pipeline on
one. -/
def memLoop (q : QEntry) (mode : VMode) (chk : VElem → VPlace → M VLoc) (go : List VElem → List (VElem × VLoc) → M Unit) :
    Nat → List Span → List VElem → M Unit
  | 0, _, _ => pure ()
  | fuel + 1, spans, elems =>
    match elems with
    | [] => pure ()
    | _ => do
      let s ← get
      let acc : Acc := if mode.store then .store else .load
      let w := s.windowFor acc q.pwb spans elems
      set w.s
      if w.items.any fun x => x.2 == .held then
        startOf elems
        modify (·.keepWindow q.seq w.spans)
        stall
      let items := w.items.reverse
      let pre := items.takeWhile fun x => !x.2.early
      let post := items.drop pre.length
      let (done, bad, later) ← untilFailure chk pre
      let trims := fun (e : VElem) (any : Bool) => !mode.store && decide (e.k = 0) && decide (0 < e.i) && (any || mode.trimAll)
      let go' := fun (l : List (VElem × VLoc)) => do go (done.map (·.1)) (← storeOrder mode l)
      match bad with
      | some (e, stop) =>
        let some' := if stop.isTrap && !mode.ordered then laterSubset chk later else return []
        let extra := (← some').filter fun x => !mode.inOrder x.2
        go' (done ++ extra)
        if stop.isTrap && !stop.isPoison && trims e false then
          modify (·.trimVl q.seq e.i)
          memLoop q mode chk go fuel [] ((later.map (·.1) ++ post.map (·.1) ++ w.rest).filter fun x => decide (x.i < e.i))
        else
          setStart e
          if stop.isTrap then pure () else modify (·.keepWindow q.seq w.spans)
          throw stop
      | none =>
        go' done
        match post with
        | [] => memLoop q mode chk go fuel [] w.rest
        | (e, p) :: more =>
          if trims e (p = .bound) then
            modify (·.trimVl q.seq e.i)
            memLoop q mode chk go fuel [] ((more.map (·.1) ++ w.rest).filter fun x => decide (x.i < e.i))
          else
            setStart e
            earlyStop acc w e p

/-! ### Loads and stores (R381 to R387) -/

/-- Load elements into register rows; a poisoned source marks the element (R246). -/
def loadElems (q : QEntry) (mode : VMode) (d : Reg) : List (VElem × VLoc) → M Unit
  | [] => pure ()
  | (e, loc) :: l => do
    let (c, psn) ← readElem mode e loc
    modify fun s =>
      let s := s.putVel q.vec (d.toNat + e.k) e.i c
      if psn then s.markVel q.vec (d.toNat + e.k) e.i else s
    loadElems q mode d l

/-- Store elements of register rows as they stood in `s0`. -/
def storeElems (q : QEntry) (mode : VMode) (s0 : State) (d : Reg) : List (VElem × VLoc) → M Unit
  | [] => pure ()
  | (e, loc) :: l => do
    writeElem mode e (s0.vel q.vec (d.toNat + e.k) e.i) loc
    storeElems q mode s0 d l

/-- An index element of an access is marked (spec/09 R246). -/
def State.indexMarked (s : State) (q : QEntry) (b : Option Reg) (e : VElem) : Bool := b.any fun b => s.velMarked q.vec (b.toNat + e.k) e.i

/-- The checks of an element of a store: its place, then poison of its index and of its data (R243, R246). -/
def storeCheck (q : QEntry) (d : Reg) (b : Option Reg) (e : VElem) (p : VPlace) : M VLoc := do
  let loc ← locate q true e p
  let s ← get
  if s.velMarked q.vec (d.toNat + e.k) e.i || s.indexMarked q b e then raise tcPoison (posWord e.k e.i) else return loc

/-- A sub-byte tag admits only unit stride and no index (R383). -/
def subByteBad (q : QEntry) (d : Reg) (indexed : Bool) : Bool :=
  !(q.vec.vl == 0#14) && (List.range q.vec.rows).any fun k =>
    decide ((q.vec.ty (d.toNat + k)).width < 8) && (indexed || (q.vec.vstr != 0#32 && q.vec.vstr != 1#32))

/-- Perform the elements of a vector memory instruction from VSTART. -/
def memRun (q : QEntry) (mode : VMode) (d : Reg) (b : Option Reg) (elems : List VElem) (go : List VElem → List (VElem × VLoc) → M Unit) : M Unit := do
  if subByteBad q d mode.indexed then
    modify fun s => s.updVec fun v => { v with vstart := 0#32 }
    raise tcMisaligned q.xa
  else
    modify (·.keepWindow q.seq [])
    let s ← get
    let chk := if mode.store then storeCheck q d b else locate q false
    let l := elems.filter (fromStart s.hart.vec.vstart)
    memLoop q mode chk go (l.length + 1) q.spans l

def loadRun (q : QEntry) (mode : VMode) (d : Reg) (elems : List VElem) : M Unit :=
  memRun q mode d none elems fun _ l => do
    if mode.ordered || mode.home then pure () else allocateLines mode l
    loadElems q mode d l

def storeRun (q : QEntry) (mode : VMode) (d : Reg) (b : Option Reg) (elems : List VElem) : M Unit := do
  let s ← get
  memRun q mode d b elems fun _ l => storeElems q mode s d l

/-- VL of an entry as it stands: a trim cuts it in the queue, or, of a supervisor's instruction, in the hart (spec/03 R86). -/
def State.entryLen (s : State) (q : QEntry) : Nat :=
  if s.hart.sup then s.hart.vec.len else ((s.hart.vq.find? fun e => decide (e.seq = q.seq)).map (·.vec.len)).getD q.vec.len

/-- An indexed load whose index elements `bad` are marked: the first of them that is consumed raises POISON, and the load is not performed
at all, unless an element up to it meets another fault first (spec/09 R239, R246). Where an element up to it waits, nothing has been performed. -/
def indexGate (q : QEntry) (mode : VMode) (d : Reg) (elems : List VElem) : List VElem → M Unit
  | [] => loadRun q mode d elems
  | e :: more => do
    let s ← get
    let upTo := elems.filter fun x => !(decide (e.k < x.k) || (decide (e.k = x.k) && decide (e.i < x.i)))
    match memRun q mode d none upTo (fun _ _ => pure ()) s with
    | .ok _ t => if e.i < t.entryLen q then raise tcPoison (posWord e.k e.i) else indexGate q mode d elems more
    | .error (.trap ..) _ => loadRun q mode d upTo
    | .error st t =>
      set { t with hart := s.hart, others := s.others }
      throw st

def vldRun (q : QEntry) (d : Reg) (n o : BitVec 1) (trim : Bool) : M Unit := do
  let s ← get
  loadRun q { store := false, ordered := o = 1#1, home := n = 1#1, trimAll := trim } d (s.stridedElems q d)
def vldxRun (q : QEntry) (d b : Reg) (n o : BitVec 1) : M Unit := do
  let s ← get
  let l := s.indexedElems q d b
  indexGate q { store := false, ordered := o = 1#1, home := n = 1#1, indexed := true } d l
    ((l.filter (fromStart s.hart.vec.vstart)).filter (s.indexMarked q (some b)))
def vstRun (q : QEntry) (d : Reg) (n o : BitVec 1) : M Unit := do
  let s ← get
  storeRun q { store := true, ordered := o = 1#1, home := n = 1#1 } d none (s.stridedElems q d)
def vstxRun (q : QEntry) (d b : Reg) (n o : BitVec 1) : M Unit := do
  let s ← get
  storeRun q { store := true, ordered := o = 1#1, home := n = 1#1, indexed := true } d (some b) (s.indexedElems q d b)

/-! ### `vst.n` (R388) -/

/-- Write a count to the progress word at its home. -/
def writeCount (pa c : Nat) : M Unit := modify fun s =>
  ((s.homeTake (keySlot s.hart.ctx) pa 8).1).homePut (keySlot s.hart.ctx) pa (toBytes 8 c)

/-- The progress word: its address, or its fault (R388). -/
def progressWord (pwb va : Word) : M Nat := do
  if va.toNat % 8 ≠ 0 then raise tcMisaligned va
  else if inPlateWindow pwb va then raise tcAccessFault va
  else
    let (pa, attr) ← translate .data .store va
    let s ← get
    if attr.sy && isHbm (laOf pa) && s.target s.hart.ctx s.hart.sup pa 8 == .hbm && !s.isProtected pa 8 then
      (if s.homeWaits (keySlot s.hart.ctx) (dieOfHart s.cur) pa then stallAt pa else return pa)
    else raise tcAccessFault va

/-- Store elements in the order given, and write a count whenever it rises: `all` are the active elements, `next` those that no
element left out comes before and that are not committed, `ahead` those committed past the first of them. -/
def notifyElems (q : QEntry) (mode : VMode) (s0 : State) (d : Reg) (pa : Nat) (all : List VElem) :
    List VElem → List VElem → List (VElem × VLoc) → M Unit
  | _, _, [] => pure ()
  | next, ahead, (e, loc) :: l => do
    let pos := fun (x : VElem) => x.k * q.vec.len + x.i
    writeElem mode e (s0.vel q.vec (d.toNat + e.k) e.i) loc
    let ahead := e :: ahead
    let gone := next.takeWhile ahead.contains
    let rest := next.drop gone.length
    match gone.getLast? with
    | none => pure ()
    | some x => writeCount pa (((all.find? fun y => decide (pos x < pos y)).map pos).getD (q.vec.rows * q.vec.len))
    notifyElems q mode s0 d pa all rest (ahead.filter fun x => !gone.contains x) l

/-- The count of positions before VSTART. -/
def startCount (q : QEntry) (vstart : BitVec 32) : Nat :=
  (vstart.extractLsb' 16 16).toNat * q.vec.len + (vstart.extractLsb' 0 16).toNat

def vstnRun (q : QEntry) (d : Reg) (o : BitVec 1) : M Unit := do
  let s ← get
  if q.vec.len = 0 then pure ()
  else
    let pa ← progressWord q.pwb q.xb
    let start := startCount q s.hart.vec.vstart
    writeCount pa start
    let all := s.stridedElems q d
    let mode : VMode := { store := true, ordered := o = 1#1, home := true }
    match ← attempt (memRun q mode d none all fun done l => notifyElems q mode s d pa all done [] l) with
    | .ok _ => writeCount pa (q.vec.rows * q.vec.len)
    | .error st =>
      let t ← get
      if st.isTrap && decide (start < startCount q t.hart.vec.vstart) then writeCount pa (startCount q t.hart.vec.vstart) else pure ()
      throw st

/-! ### `vpush` (R389, R390, spec/09 R249) -/

/-- Whether the target registers are ready: rows of register a of hart t. -/
def State.pushReady (s : State) (q : QEntry) (t : Nat) (a : Reg) : Bool :=
  let h := s.getHart t
  (groupRegs q.vec.rows a).all fun k =>
    h.vec.mbx.getLsbD k && !h.vec.full.getLsbD k && decide (k < h.vec.nregs) && !h.vec.ill &&
    decide (q.vec.len ≤ h.vec.b / (q.vec.ty k).width)

/-- Deliver the group: elements, tags and FULL bits (R389). -/
def State.deliver (s : State) (q : QEntry) (t : Nat) (a : Reg) : State :=
  let regs := groupRegs q.vec.rows a
  let h := s.getHart t
  let base := s.shareBit t
  let s' := regs.foldl (fun r k =>
    let w := (q.vec.ty k).width
    q.vec.cols.foldl (fun r i => r.putBits (base + k * h.vec.b + i * w) w (s.vel q.vec k i)) r) s
  s'.updHartN t fun h =>
    let v := regs.foldl (fun v k => v.setTag k (q.vec.tag k)) h.vec
    { h with vec := { v with full := fullSet v.full regs } }

/-- Core cycles since a meridian time: four to the nanosecond (spec/00 R7). -/
def State.cyclesSince (s : State) (t : Nat) : Nat := 4 * (s.time - t)

/-- Begin to count, or go on counting, the wait of a push. -/
def pushWait (q : QEntry) : M Unit := do
  let s ← get
  let since := (if s.hart.sup then s.hart.pushSince else q.since).getD s.time
  let limit := s.hart.user.pushlim.toNat
  if limit ≤ s.cyclesSince since then
    modify fun s => s.updHart fun h => { h with pushSince := if h.sup then none else h.pushSince }
    raise tcPushTimeout q.xb
  else
    modify fun s => s.updHart fun h =>
      if h.sup then { h with pushSince := some since }
      else { h with vq := h.vq.map fun x => if x.seq = q.seq then { x with since := some since } else x }
    stall

def pushConsume (q : QEntry) (a : Reg) : M Unit := do
  let s ← get
  consume (q.vec.grid.map fun (k, i) => ((k, i), s.velMarked q.vec (a.toNat + k) i))

def vpushRun (q : QEntry) (a : Reg) : M Unit := do
  pushConsume q a
  let t ← needHart q.xb
  let s ← get
  if s.pushReady q t a then
    set ((s.deliver q t a).updHart fun h => { h with pushSince := if h.sup then none else h.pushSince })
  else pushWait q

def vpushtRun (q : QEntry) (d a : Reg) : M Unit := do
  pushConsume q a
  let t ← needHart q.xb
  let s ← get
  let ok := s.pushReady q t a
  let s := if ok then s.deliver q t a else s
  set (q.vec.cols.foldl (fun s i => s.putPbit q.vec d.toNat i ok) s)

end Sys2Proof.Machine
end

