-- ==== Sys2Proof/Machine/Copy.lean ====
section
/-! DEFINITION. Copies: the engine ports and the copy units (spec/13 R340 to R346, spec/05 R141 to R144, spec/08 R223, spec/03 R81,
R82). -/
namespace Sys2Proof.Machine
set_option Elab.async false

/-! ### The parameter block (R343) -/

def blkNat (b : List Byte) (ofs n : Nat) : Nat := leNat ((b.drop ofs).take n)
def blkZero (b : List Byte) (ofs n : Nat) : Bool := blkNat b ofs n == 0

/-- One side of a block: its kind, base, region, counts and strides from the offsets given. -/
def blkSide (b : List Byte) (kind region n base counts strides : Nat) : CopySide :=
  { kind := BitVec.ofNat 2 kind, base := BitVec.ofNat 64 (blkNat b base 8), region := BitVec.ofNat 4 region,
    counts := (List.range n).map fun k => BitVec.ofNat 32 (blkNat b (counts + 4 * k) 4),
    strides := (List.range n).map fun k => BitVec.ofNat 64 (blkNat b (strides + 8 * k) 8) }

def blkSrc (b : List Byte) : CopySide := blkSide b (blkNat b 7 1 / 16 % 4) (blkNat b 0x20 1 % 16) (blkNat b 5 1) 0x08 0x40 0x80
def blkDst (b : List Byte) : CopySide := blkSide b (blkNat b 7 1 / 64) (blkNat b 0x20 1 / 16) (blkNat b 6 1) 0x10 0x100 0x140

/-- Base and strides are multiples of e. -/
def CopySide.aligned (c : CopySide) (e : Nat) : Bool := decide (c.base.toNat % e = 0) && c.strides.all fun t => decide (t.toNat % e = 0)
/-- The region field is 0 for kinds 1 and 2. -/
def CopySide.regionOk (c : CopySide) : Bool := c.region == 0#4 || c.kind == 0#2 || c.kind == 3#2

/-- A side in memory: kind 0, or kind 3 on the device that the coordinate names. -/
def CopySide.inMemory (c : CopySide) : Bool := c.kind == 0#2 || c.kind == 3#2

/-- A block whose fields are outside their limits (R343); `dev` is the device that its coordinate names. -/
def blkBad (b : List Byte) (dev : Option Nat) : Bool :=
  let e := blkNat b 4 1
  let (ns, nd) := (blkNat b 5 1, blkNat b 6 1)
  let (src, dst) := (blkSrc b, blkDst b)
  !([1, 2, 4, 8].contains e) || ns == 0 || decide (16 < ns) || nd == 0 || decide (16 < nd) ||
    !blkZero b 0x21 1 || !blkZero b 0x24 4 || !blkZero b 0x30 16 || !blkZero b 0x180 64 ||
    !blkZero b (0x40 + 4 * ns) (64 - 4 * ns) || !blkZero b (0x80 + 8 * ns) (128 - 8 * ns) ||
    !blkZero b (0x100 + 4 * nd) (64 - 4 * nd) || !blkZero b (0x140 + 8 * nd) (128 - 8 * nd) ||
    !src.regionOk || !dst.regionOk || src.total != dst.total || !src.aligned e || !dst.aligned e ||
    (src.kind == 3#2 && dst.kind == 3#2) || ((src.kind == 3#2 || dst.kind == 3#2) && dev.isNone)

/-- The first and the last byte of a side's range (R144). -/
def CopySide.range (c : CopySide) (e : Nat) : Int × Int :=
  let step := fun (r : Int × Int) (p : BitVec 32 × Word) =>
    let x := ((p.1.toNat : Int) - 1) * p.2.toInt
    (r.1 + min 0 x, r.2 + max 0 x)
  let r := (c.counts.zip c.strides).foldl step (0, 0)
  ((c.base.toNat : Int) + r.1, (c.base.toNat : Int) + r.2 + e - 1)

/-- Multiples of n from the one that holds lo to the one that holds hi. -/
def multiples (n : Nat) (lo hi : Int) : List Int :=
  (List.range ((hi / n - lo / n + 1).toNat)).map fun (i : Nat) => (lo / n + i) * n

/-- The physical address that a load of the executing hart finds now; none where it does not translate. -/
def State.peekLoad (s : State) (va : Int) : Option Nat :=
  let a := BitVec.ofInt 64 va
  match (s.lookup (s.walkerOf s.cur) s.cur .data .load a).2 with
  | .leaf e => some (e.pa a)
  | .fault .. => none

/-! ### epush (R342, R143) -/

/-- A port operand (R289, R340): codes 3 to 7 and codes that the instruction does not take raise ENGINE_PORT. -/
def portCheck (i : Instr) (p : Reg) (ok : Nat → Bool) : M Unit :=
  if 8 ≤ p.toNat then illegal i else if ok p.toNat then pure () else raise tcEnginePort (zext p)

/-- The bytes of HBM or window behind element addresses of a side of kind 0 or 3: a VA of the executing hart, or an LA of a device. -/
def State.sidePa (s : State) (dev : Option Nat) (v : Int) : Option Nat :=
  match dev with
  | none => s.peekLoad v
  | some d => if 0 ≤ v ∧ v < 2 ^ 42 then some (d * 2 ^ 42 + v.toNat) else none

/-- The block's lines as a load finds them: each with its place. -/
def blockPlaces (va : Word) : Nat → Word → M (List Place)
  | 0, _ => return []
  | n + 1, a => do
    let s ← get
    if inPlateWindow s.hart.user.pwb a then raise tcAccessFault va
    else
      let (pa, attr) ← translate .data .load a
      let s ← get
      if s.target s.hart.ctx s.hart.sup pa 64 = .hbm then
        let r ← blockPlaces va n (a + 64#64)
        return .page pa attr .hbm :: r
      else raise tcAccessFault va

/-- Wait below the caches for a load from a place (spec/02 R53 to R60). -/
def waitBelow (n : Nat) (p : Place) : M Unit := do
  let s ← get
  match p with
  | .page pa attr .hbm =>
    if (if attr.sy then s.homeWaits (keySlot s.hart.ctx) (dieOfHart s.cur) pa else s.accessWaits s.cur pa n) then stallAt pa else pure ()
  | _ => pure ()

/-- Read the lines of a block, each as a load of 64 bytes. -/
def blockRead : Word → List Place → M (List Byte)
  | _, [] => return []
  | a, p :: ps => do
    waitBelow 64 p
    waitPlace p 64 false
    let b ← loadFrom a 64 p
    let r ← blockRead (a + 64#64) ps
    return b ++ r

/-- Dirty region-0 words of a source range in memory go home (R143). Where the region field is another, a region-0 page in the range is
a mismatch, whose words the copy reads old or new: a free choice says whether they go home. -/
def State.flushSource (s : State) (c : CopySide) (e : Nat) (dev : Option Nat) : State :=
  if !c.inMemory || (c.kind == 3#2 && dev.isNone) then s
  else
    let go := c.region == 0#4 || Config.freeBool s.free
    let s : State := if c.region = 0#4 then s else { s with free := s.free + 1 }
    if go then
      let (lo, hi) := c.range e
      let lines := (multiples 64 lo hi).filterMap fun v => (s.sidePa (if c.kind = 3#2 then dev else none) v).map (· / 64)
      s.flushPrivate s.cur fun ln => lines.contains ln
    else s

/-- The command that a block gives. -/
def State.copyOf (s : State) (b : List Byte) (place : Place) : CopyCmd :=
  let flags := blkNat b 7 1
  let coord := BitVec.ofNat 16 (blkNat b 0x22 2)
  let remote := flags / 16 % 4 == 3 || flags / 64 == 3
  let dev := if remote then s.routeDevice s.hart.ctx.toNat s.hart.sregs.srtb coord else none
  { hart := s.cur, ctx := s.hart.ctx, blockPa := place.pa s.fab.dev.toNat,
    blockRid := match place with | .page _ attr _ => attr.rid | .plate .. => 0#4,
    id := BitVec.ofNat 32 (blkNat b 0 4), size := BitVec.ofNat 8 (blkNat b 4 1), irq := flags % 2 == 1, ordered := flags / 2 % 2 == 1,
    scope := BitVec.ofNat 2 (flags / 4), handler := BitVec.ofNat 64 (blkNat b 0x18 8), dev, src := blkSrc b, dst := blkDst b,
    pwb := s.hart.user.pwb, sup := s.hart.sup, progress := 0, active := false, failed := if blkBad b dev then some 2#8 else none,
    drained := [], filling := [], buffer := [], served := 0, pins := [] }

/-- The message that names a cluster's copy unit. -/
def copyMsg (k : Nat) : Msg := { die := BitVec.ofNat 3 (k / 16), unit := BitVec.ofNat 32 (k % 16) }

/-- A command is accepted by the cluster's copy unit. -/
def State.acceptCopy (s : State) (c : CopyCmd) : State :=
  let k := clusterOf s.cur
  let x := s.cluster k
  ((s.setCluster k { x with copies := x.copies ++ [c] }).updHart fun h => { h with outstanding := h.outstanding + 1 }).after
    [(.copyStart, copyMsg k)]

def epushBody (i : Instr) (d a : Reg) : M Unit := do
  portCheck i d fun p => p == 0
  let s ← get
  let va := s.xr a
  if va.toNat % 64 ≠ 0 then raise tcMisaligned va
  else if 16 ≤ s.hart.outstanding then raise tcEnginePort 0#64
  else
    let places ← blockPlaces va 7 va
    waitEntries fun q => Instr.isQueuedStore q.instr
    let b ← blockRead va places
    let s ← get
    match places with
    | [] => pure ()
    | p :: _ =>
      let c := s.copyOf b p
      doRelease c.scope 0xFFFE#16
      modify fun s => (s.flushSource c.src c.size.toNat c.dev).acceptCopy c

/-! ### epop and epeek (R346, R144) -/

/-- The acquire that a record's pop performs. -/
def State.popAcquire (s : State) (r : CopyRecord) : State :=
  let s := s.acquireRange s.cur r.lineRid [r.line]
  if !r.mem || r.region == 0#4 then s
  else
    let (lo, hi) := (r.lo, r.hi)
    if 4096 < hi / 64 - lo / 64 + 1 then s.acquire s.cur r.scope (regionMask r.region)
    else s.acquireRange s.cur r.region ((multiples 64 lo hi).filterMap fun v => (s.sidePa r.dev v).map (· / 64))

/-- Wait until an acquire of the executing hart can be performed (spec/05 R124). -/
def waitAcquire : M Unit := do
  let s ← get
  if s.acquireReady then pure () else stall

def epopBody (i : Instr) (d a : Reg) : M Unit := do
  portCheck i a fun p => p == 1 || p == 2
  let s ← get
  if a = 1#5 then
    match s.hart.e1 with
    | [] => raise tcEnginePort 1#64
    | r :: l =>
      waitAcquire
      let s := s.updHart fun h => { h with e1 := l, outstanding := h.outstanding - 1 }
      set ((s.popAcquire r).setX d r.word)
  else
    match s.hart.e2 with
    | [] => raise tcEnginePort 2#64
    | r :: l =>
      waitAcquire
      let s := s.updHart fun h => { h with e2 := l }
      set ((s.acquireRange s.cur r.region r.lines).setX d r.word)

/-- The count that `epeek` reads. -/
def Hart.peekPort (h : Hart) (a : Reg) : Nat := if a = 0#5 then h.outstanding else if a = 1#5 then h.e1.length else h.e2.length

def epeekBody (i : Instr) (d a : Reg) : M Unit := do
  portCheck i a fun p => decide (p ≤ 2)
  modify fun s => s.setX d (BitVec.ofNat 64 (s.hart.peekPort a))

def execEpush (d a : Reg) (s : State) : Host.Outcome State Fault Refusal := finish (epushBody (.epush d a) d a) s
def execEpop (d a : Reg) (s : State) : Host.Outcome State Fault Refusal := finish (epopBody (.epop d a) d a) s
def execEpeek (d a : Reg) (s : State) : Host.Outcome State Fault Refusal := finish (epeekBody (.epeek d a) d a) s

/-! ### Elements of a copy (R344) -/

/-- Where an element is performed: a plate with whether the access is being drained, or bytes at a physical address. -/
inductive CopyPlace where
  | plate (p ofs : Nat) (drained : Bool)
  | hbm (pa : Nat)
  | window (pa : Nat)
  deriving DecidableEq, Repr

/-- The place of a physical address of this device for a copy (R24, R25); none where it is refused. -/
def State.copyTarget (s : State) (c : CopyCmd) (store : Bool) (pa : Nat) : Option CopyPlace :=
  match s.target c.ctx c.sup pa c.size.toNat with
  | .hbm => if store && s.isProtected pa c.size.toNat then none else some (.hbm pa)
  | .plate p o => some (.plate p o false)
  | .window => some (.window pa)
  | _ => none

/-- Resolve an element's address, or the status with which the copy ends. -/
def State.copyPlace (s : State) (c : CopyCmd) (store : Bool) (a : Word) : State × Except (BitVec 8) CopyPlace :=
  let side := if store then c.dst else c.src
  let la := a.toNat
  if side.kind = 0#2 then
    let w := { s.walkerOf c.hart with sup := c.sup }
    if inPlateWindow c.pwb a || (canonical a && !w.sptb.getLsbD 63) then (s, .error 2#8)
    else
      match s.lookup w c.hart .vector (if store then .store else .load) a with
      | (s, .fault ..) => (s, .error 1#8)
      | (s, .leaf e) =>
        match s.copyTarget c store (e.pa a) with
        | some (.hbm pa) => (s, .ok (.hbm pa))
        | _ => (s, .error 2#8)
  else if side.kind = 1#2 then
    let k := (plateSlotOf a).toNat
    if !inPlateWindow c.pwb a || decide (0x40000 < plateOfs a + c.size.toNat) then (s, .error 2#8)
    else
      match c.drained.find? fun d => decide (d.1 = k) with
      | some d => (s, .ok (.plate d.2 (plateOfs a) true))
      | none =>
        match (s.getHart c.hart).slotAt k with
        | .attached p => (s, .ok (.plate (dieOfHart c.hart * 128 + p) (plateOfs a) false))
        | _ => (s, .error 4#8)
  else if side.kind = 2#2 then
    match (if la < 2 ^ 42 then s.copyTarget c store (s.ownPa la) else none) with
    | some (.hbm _) => (s, .error 2#8)
    | some p => (s, .ok p)
    | none => (s, .error 2#8)
  else
    match (if la < 2 ^ 42 then c.dev else none) with
    | none => (s, .error 2#8)
    | some dev =>
      let pa := dev * 2 ^ 42 + la
      match laKind la with
      | .hbm => (s, (s.copyTarget c store pa).elim (.error 2#8) .ok)
      | .plate .. =>
        if dev = s.fab.dev.toNat then (s, (s.copyTarget c store pa).elim (.error 2#8) .ok)
        else (s, if s.remoteOk c.ctx dev then .ok (.window pa) else .error 2#8)
      | _ => (s, .error 2#8)

/-- Bytes of one line as a copy reads them, at the points of its scope (R141, R118). A slice that serves them holds or allocates the
line, which is pinned until the bytes are read (spec/03 R76). -/
def State.copyBytes (s : State) (c : CopyCmd) (pa : Nat) : State × List Byte × Bool :=
  let (slot, k, n) := (keySlot c.ctx, clusterOf c.hart, c.size.toNat)
  let die := dieOfHart c.hart
  let ln := pa / 64
  let m := wordMask (pa % 64) n
  if c.scope = 0#2 then
    let inCC := fun (i : Nat) => (s.ccLine k ln).bind fun l =>
      if bitAt l.wv i then
        some (if bitAt l.wo i then (s.ownerWord (whoHart k (l.whoOf i)) ln i).getD (wordOf l.data i, l.psn) else (wordOf l.data i, l.psn))
      else none
    let miss := words16.any fun i => bitAt m i && (inCC i).isNone
    let ws := words16.map fun i => if bitAt m i then (inCC i).getD (s.pointWord slot die ln i) else (List.replicate 4 0#8, false)
    (if miss then (s.fetchLine slot die ln).1 else s, ((ws.flatMap (·.1)).drop (pa % 64)).take n, ws.any (·.2))
  else if c.scope = 1#2 then
    let (b, p) := s.engineRead slot die pa n
    ((s.fetchLine slot die ln).1, b, p)
  else
    let (b, p) := s.homeForward slot pa n
    (s.homeTouch slot ln 0#16, b, p)

/-- What becomes of an element. -/
inductive CopyRes where
  | data (bs : List Byte)
  /-- A plate holds it back. -/
  | held
  /-- It waits below the caches, and is met again. -/
  | waits
  | failed (st : BitVec 8)
  deriving DecidableEq, Repr

/-- Read bytes of on-chip storage; a poison mark ends the copy. -/
def State.copyWindow (s : State) (pa n : Nat) : CopyRes :=
  if natAny (8 * pa) (8 * n) s.m.marks then .failed 3#8 else .data (s.homeBytes 0 pa n)

/-- Read the source of element j. -/
def State.copyRead (s : State) (c : CopyCmd) (j : Nat) : State × CopyRes :=
  match s.copyPlace c false (c.src.addr j) with
  | (s, .error st) => (s, .failed st)
  | (s, .ok (.hbm pa)) =>
    if s.engineWaits (keySlot c.ctx) (dieOfHart c.hart) pa then (s, .waits)
    else
      let (s, b, psn) := s.copyBytes c pa
      (s, if psn then .failed 3#8 else .data b)
  | (s, .ok (.window pa)) => (s, s.copyWindow pa c.size.toNat)
  | (s, .ok (.plate p o drained)) =>
    let x := s.plate p
    (s, if x.admits false || (drained && x.state == 3#2) then s.copyWindow (platePa s p o) c.size.toNat else .held)

/-- Read the source of element j. A source word that the copy itself has written is taken as it stood before or after, by free choice. -/
def State.copyTake (s s0 : State) (c : CopyCmd) (j : Nat) : State × CopyRes :=
  match s.copyRead c j with
  | (s, .data b) =>
    match (s0.copyRead c j).2 with
    | .data b0 => if b0 = b then (s, .data b) else ({ s with free := s.free + 1 }, .data (if Config.freeBool s.free then b0 else b))
    | _ => (s, .data b)
  | r => r

/-! ### Writing (R142) -/

/-- The bytes that are written together: the 4-byte word of a memory destination, or an element of 8 bytes. -/
def CopyCmd.unit (c : CopyCmd) : Nat := max c.size.toNat 4

/-- The elements of a command that are written together with element j: those of its word in memory, itself on chip. -/
def CopyCmd.mates (c : CopyCmd) (j : Nat) : List Nat :=
  if c.dst.inMemory then (List.range c.dst.total).filter fun i => decide ((c.dst.addr i).toNat / c.unit = (c.dst.addr j).toNat / c.unit) else [j]

/-- Write the bytes of one unit at a physical address: in full at once where the elements cover it, else in part. Of elements that name
the same bytes the last given prevails. -/
def State.putUnit (s : State) (slot pa u : Nat) (l : List (Nat × List Byte)) : State :=
  if (List.range u).all fun i => l.any fun x => decide (x.1 ≤ i) && decide (i < x.1 + x.2.length) then
    s.engineWrite slot pa (l.foldl (fun b x => putBytes b x.1 x.2) (List.replicate u 0#8))
  else l.foldl (fun s x => s.engineWrite slot (pa + x.1) x.2) s

/-- Write the elements of one unit, with their bytes. -/
def State.copyPut (s : State) (c : CopyCmd) (l : List (Nat × List Byte)) : State × CopyRes :=
  match l with
  | [] => (s, .data [])
  | (j, b) :: _ =>
    let u := c.unit
    let parts := l.map fun x => ((c.dst.addr x.1).toNat % u, x.2)
    match s.copyPlace c true (c.dst.addr j) with
    | (s, .error st) => (s, .failed st)
    | (s, .ok (.hbm pa)) =>
      if s.engineWaits (keySlot c.ctx) (dieOfHart c.hart) pa then (s, .waits) else (s.putUnit (keySlot c.ctx) (pa / u * u) u parts, .data b)
    | (s, .ok (.window pa)) => (parts.foldl (fun s x => s.homeStore 0 (pa / u * u + x.1) x.2) s, .data b)
    | (s, .ok (.plate p o _)) =>
      if c.filling.contains p then (parts.foldl (fun s x => s.homeStore 0 (platePa s p (o / u * u) + x.1) x.2) s, .data b) else (s, .held)

/-- Units on their way out: the state, the elements still kept, and the element that stopped it. -/
structure CopyFlush where
  s : State
  left : List (Nat × List Byte)
  stop : Option (Nat × CopyRes)

/-- Write the unit of an element kept, where all its elements have been read (`fin`: where it will get no more). An ordered copy writes units
in the order of their first elements. Otherwise a unit may be written later, a free choice, and elements that name the same bytes may come
in either order. -/
def flushOne (c : CopyCmd) (fin : Bool) (f : CopyFlush) (x : Nat × List Byte) : CopyFlush :=
  let m := c.mates x.1
  let first := decide ((f.left.head?).map (·.1) = some x.1)
  let bits := (Config.freeBool f.s.free, Config.freeBool (f.s.free + 1))
  if f.stop.isSome || !f.left.contains x || !(fin || m.all fun i => decide (i < c.progress)) || (if c.ordered then !first else !fin && bits.1) then f
  else
    let l := f.left.filter fun y => m.contains y.1
    let s : State := if c.ordered then f.s else { f.s with free := f.s.free + 2 }
    match s.copyPut c (if !c.ordered && bits.2 then l.reverse else l) with
    | (s, .data _) => { s, left := f.left.filter fun y => !m.contains y.1, stop := none }
    | (s, r) => { s, left := f.left, stop := some (x.1, r) }

/-- Write what is kept and can be written. -/
def State.copyFlush (s : State) (c : CopyCmd) (fin : Bool) : CopyFlush := c.buffer.foldl (flushOne c fin) { s, left := c.buffer, stop := none }

/-- The plates that the destination names now, each with whether the copy drains into it. -/
def State.copyPlates (s : State) (c : CopyCmd) : List (Nat × Bool) :=
  ((List.range c.dst.total).filterMap fun j =>
    match (s.copyPlace c true (c.dst.addr j)).2 with
    | .ok (.plate p _ d) => some (p, d)
    | _ => none).eraseDups

/-- A copy begins its transfer (R81): its destination plates go FILLING, those too that it comes to name later; none where one of them
holds it back. -/
def State.copyBegin (s : State) (c : CopyCmd) : Option (State × CopyCmd) :=
  if c.dst.kind = 0#2 then some (s, c)
  else
    let l := (s.copyPlates c).filter fun x => !c.filling.contains x.1
    if l.all fun x => (s.plate x.1).state == 0#2 || (s.plate x.1).state == 2#2 || (x.2 && (s.plate x.1).state == 3#2) then
      some (l.foldl (fun s x => if (s.plate x.1).state = 3#2 then s else s.setPlate x.1 { s.plate x.1 with state := 1#2 }) s,
            { c with filling := c.filling ++ l.map (·.1) })
    else none

/-- Elements above one that failed may or may not be performed, unless the copy is ordered (R345). -/
def State.copyRest (s0 : State) (c : CopyCmd) : List Nat → State → State
  | [], s => s
  | j :: l, s =>
    let go := Config.freeBool s.free
    let s : State := { s with free := s.free + 1 }
    State.copyRest s0 c l (if go then (match s.copyTake s0 c j with | (s, .data b) => (s.copyPut c [(j, b)]).1 | (s, _) => s) else s)

/-- Read elements one after another, writing what is complete: the state, the command with what it keeps, and what stopped it. -/
def State.copyRun (s0 : State) : List Nat → State → CopyCmd → State × CopyCmd × Option (Nat × CopyRes)
  | [], s, c => (s, c, none)
  | j :: l, s, c =>
    match s.copyTake s0 c j with
    | (s, .data b) =>
      let c := { c with progress := j + 1, buffer := c.buffer ++ [(j, b)], served := c.served + 1 }
      let f := s.copyFlush c false
      if f.stop.isSome then (f.s, { c with buffer := f.left }, f.stop) else State.copyRun s0 l f.s { c with buffer := f.left }
    | (s, r) => (s, c, some (j, r))

/-- The lines that an element and the next one share, at the source or the destination, in the slices that hold them: the copy's part of
such a line is not performed yet. -/
def State.copyPins (s : State) (c : CopyCmd) : List (Nat × Nat) :=
  let line := fun (store : Bool) (j : Nat) =>
    match (s.copyPlace c store ((if store then c.dst else c.src).addr j)).2 with
    | .ok (.hbm pa) => some (pa / 64)
    | _ => none
  if c.progress = 0 ∨ c.src.total ≤ c.progress then []
  else [false, true].flatMap fun store =>
    match line store (c.progress - 1), line store c.progress with
    | some a, some b => if a = b then s.pinPlaces (dieOfHart c.hart) (64 * a) else []
    | _, _ => []

/-- A command pins the lines whose part it has not done, and lets go of the others (spec/03 R76). -/
def State.repin (s : State) (c : CopyCmd) : State × CopyCmd :=
  let l := s.copyPins c
  ((l.foldl (fun s x => s.pinBy x (· + 1)) s).unpinAll c.pins, { c with pins := l })

/-! ### A cut (spec/08 R225, R226) -/

/-- Where an element of a memory destination on another device goes: its physical address. -/
def State.remoteDest (s : State) (c : CopyCmd) (j : Nat) : Option Nat :=
  match (s.copyPlace c true (c.dst.addr j)).2 with
  | .ok (.hbm pa) | .ok (.window pa) => if devOf pa ≠ s.fab.dev.toNat then some pa else none
  | _ => none

/-- Elements read whose requests to another device have left the copy unit and have not entered a link are held by the I/O die (R226, step
2): which of them, a free choice; of an ordered copy, all from the first one held on (R142). -/
def State.holdRequests (s : State) (c : CopyCmd) : State × CopyCmd :=
  c.buffer.foldl (fun r x =>
    match r.1.remoteDest c x.1 with
    | none => r
    | some pa =>
      let s : State := { r.1 with free := r.1.free + 1 }
      if Config.freeBool r.1.free || (c.ordered && r.2.buffer.length != c.buffer.length) then
        let m : Remote := { pa, plane := s.planeFor pa, tag := s.free, hart := c.hart, ctx := c.ctx, held := true, window := !isHbm (laOf pa), bytes := x.2 }
        (s.updFab fun f => { f with remotes := f.remotes ++ [m] }, { r.2 with buffer := r.2.buffer.filter fun y => y != x })
      else (s, r.2)) (s, c)

/-- A command stops at an element boundary: requests on their way are performed, or held at the edge of the device, and the progress word
counts every element whose request has left the copy unit. What a plate holds back stays with the command. -/
def State.stopCopy (s : State) (c : CopyCmd) : State × CopyCmd :=
  let (s, c) := (s.unpinAll c.pins).holdRequests c
  let f := s.copyFlush c true
  let c := { c with buffer := f.left, served := 0, pins := [] }
  (f.s.writeProgress c.counted, c)

/-- The copies of a context in the clusters of a die stop. -/
def State.stopCopies (s : State) (n die : Nat) : State :=
  (s.m.clusters.filter fun c => decide (c.1 / 16 = die)).foldl (fun s k =>
    (List.range k.2.copies.length).foldl (fun s i =>
      match (s.cluster k.1).copies[i]? with
      | none => s
      | some c =>
        if c.ctx.toNat ≠ n ∨ c.active = false ∨ c.failed.isSome = true then s
        else
          let (s, c) := s.stopCopy c
          let x := s.cluster k.1
          s.setCluster k.1 { x with copies := x.copies.set i c }) s) s

/-- A held request is released: it is performed at the device that it names. -/
def State.releaseRequest (s : State) (r : Remote) : State :=
  let slot := keySlot r.ctx
  let s := s.updFab fun f => { f with sent := s.requestPacket slot r.pa :: f.sent }
  if r.window then s.homeStore 0 r.pa r.bytes else s.engineWrite slot r.pa r.bytes

/-- The held requests of a context are released in order, before any of its copies goes on (R226, R229, step 6); those for a device to
which no plane is up stay held. -/
def State.releaseHeld (s : State) (n : Nat) : State :=
  let mine := fun (r : Remote) => r.held && decide (r.ctx.toNat = n) && !(s.planesTo (devOf r.pa)).isEmpty
  let l := s.fab.remotes.filter mine
  l.foldl (fun s r => s.releaseRequest r) (s.updFab fun f => { f with remotes := f.remotes.filter fun r => !mine r })

/-! ### Copy units (R223, R345) -/

def CopyCmd.record (c : CopyCmd) (status : BitVec 8) : CopyRecord :=
  let (lo, hi) := c.dst.range c.size.toNat
  { word := status.zeroExtend 64 <<< 32 ||| c.id.zeroExtend 64, mem := c.dst.inMemory, dev := if c.dst.kind = 3#2 then c.dev else none,
    lo, hi, region := c.dst.region, scope := c.scope, line := (c.blockPa + 0x28) / 64,
    lineRid := c.blockRid }

/-- A copy ends: its progress word, its plates, its record in e1 and its pending interrupt; the next waiting command starts. -/
def State.endCopy (s : State) (k i : Nat) (c : CopyCmd) (status : BitVec 8) : State :=
  let x := s.cluster k
  let s := ((s.setCluster k { x with copies := x.copies.eraseIdx i }).unpinAll c.pins).writeProgress c
  let s := s.updHartN c.hart fun h =>
    { h with e1 := h.e1 ++ [c.record status], latch := h.latch ||| 1#7,
             pendingUser := if c.irq && c.handler != 0#64 then h.pendingUser ++ [.copyDone c.id c.handler] else h.pendingUser }
  let s := c.filling.foldl (fun s p => s.endFill p (status == 0#8)) s
  (c.drained.foldl (fun s d => s.drainCheck d.2) s).after [(.copyStart, copyMsg k)]

/-- Keep what a command has done. After 256 bytes its turn is over, and it comes after the other active commands (R223). -/
def State.putCopy (s : State) (k i : Nat) (c : CopyCmd) : State :=
  let (s, c) := s.repin c
  let x := s.cluster k
  if c.served * c.size.toNat < 256 then s.setCluster k { x with copies := x.copies.set i c }
  else
    let l := x.copies.eraseIdx i
    s.setCluster k { x with copies := l.filter (·.active) ++ [{ c with served := 0 }] ++ l.filter (!·.active) }

/-- Keep a command that cannot go on now; one that waits below the caches is met again. -/
def State.holdCopy (s : State) (k i : Nat) (c : CopyCmd) (r : CopyRes) : State × Bool :=
  let s := s.putCopy k i c
  (if r = .waits then s.after [(.copyComplete, copyMsg k)] else s, false)

/-- A command has failed at element j: the elements below it are performed, those above it only where a free choice says so. One of the
elements below may fail first, or hold the end back. -/
def State.failCopy (s s0 : State) (k i : Nat) (c : CopyCmd) (j : Nat) (st : BitVec 8) : State × Bool :=
  let f := s.copyFlush { c with buffer := c.buffer.filter fun x => decide (x.1 < j), progress := j } true
  let rest := fun (s : State) (n : Nat) => if c.ordered then s else State.copyRest s0 c ((List.range c.src.total).filter fun x => decide (n < x)) s
  match f.stop with
  | some (n, .failed st') => ((rest f.s n).endCopy k i { c with progress := n, buffer := [] } st', true)
  | some (_, r) => f.s.holdCopy k i { c with buffer := f.left, progress := j } r
  | none => ((rest f.s j).endCopy k i { c with progress := j, buffer := [] } st, true)

/-- One active command of a running context goes on, to the end of its turn or to an element that a free choice takes: whether the step is
taken. -/
def State.runCopy (s : State) (k i : Nat) (c : CopyCmd) : State × Bool :=
  match s.ctxRuns c.ctx.toNat (k / 16), c.failed with
  | false, _ => (s, false)
  | true, some st => (s.endCopy k i c st, true)
  | true, none =>
    match s.copyBegin c with
    | none => (s, false)
    | some (s, c) =>
      let most := min (c.src.total - c.progress) (256 / max c.size.toNat 1 - c.served)
      let part := if most = 0 then 0 else (Config.freeWord s.free).toNat % most + 1
      let s : State := { s with free := s.free + 1 }
      let s0 := s
      let (s, c, stop) := State.copyRun s ((List.range part).map (c.progress + ·)) s c
      match stop with
      | some (j, .failed st) => s.failCopy s0 k i c j st
      | some (_, r) => s.holdCopy k i c r
      | none =>
        if c.progress < c.src.total then ((s.putCopy k i c).after [(.copyComplete, copyMsg k)], true)
        else
          let f := s.copyFlush c true
          match f.stop with
          | some (j, .failed st) => f.s.failCopy s0 k i { c with buffer := f.left } j st
          | some (_, r) => f.s.holdCopy k i { c with buffer := f.left } r
          | none => (f.s.endCopy k i { c with buffer := [] } 0#8, true)

/-- The first active command that can go on, from the indices given; one that is held back is passed over and keeps its place. -/
def State.copyFirst (k : Nat) : List Nat → State → State
  | [], s => s
  | i :: l, s =>
    match (s.cluster k).copies[i]? with
    | none => s
    | some c =>
      if c.active then
        match s.runCopy k i c with
        | (s, true) => s
        | (s, false) => State.copyFirst k l s
      else State.copyFirst k l s

/-- The cluster that a message names. -/
def copyUnit (g : State → Nat → State) : M Unit := do
  let s ← get
  if s.msg.unit.toNat < 16 then set (g s (s.msg.die.toNat * 16 + s.msg.unit.toNat)) else badMsg

/-- A command starts where fewer than 16 are active. -/
def State.startCopy (s : State) (k : Nat) : State :=
  let x := s.cluster k
  match (if (x.copies.filter (·.active)).length < 16 then x.copies.findIdx? (!·.active) else none) with
  | none => s
  | some i => (s.setCluster k { x with copies := x.copies.modify i fun c => { c with active := true } }).after [(.copyComplete, copyMsg k)]

def execCopyStart (s : State) : Host.Outcome State Fault Refusal := finishEvent (copyUnit fun s k => s.startCopy k) s
def execCopyComplete (s : State) : Host.Outcome State Fault Refusal :=
  finishEvent (copyUnit fun s k => State.copyFirst k (List.range (s.cluster k).copies.length) s) s

/-- A plate whose drain set is empty is re-attached (R87). -/
def execPlateReattach (s : State) : Host.Outcome State Fault Refusal :=
  finishEvent (modify fun s => s.reattach (s.msg.die.toNat * 128 + s.msg.unit.toNat % 128)) s

end Sys2Proof.Machine
end

