-- ==== Sys2Proof/Machine/Hbm.lean ====
section
/-! DEFINITION. The channel controllers of HBM as agents: issue and return of the requests that slices queue, rate switches,
refresh and activation alerts, the patrol scrub and the key slots (spec/02 R51 to R65, spec/21 R469, R476). -/
namespace Sys2Proof.Machine
set_option Elab.async false

/-- The channel that a message names, numbered die × 32 + channel. -/
def Msg.channel (m : Msg) : Nat := m.die.toNat * 32 + m.chan.toNat
/-- A message that names a channel. -/
def chanMsg (key : Nat) : Msg := { die := chanDie key, chan := chanCh key }
def bankMsg (key bank : Nat) : Msg := { die := chanDie key, chan := chanCh key, bank := BitVec.ofNat 5 bank }

def State.updChannel (s : State) (key : Nat) (g : Channel → Channel) : State := s.setChannel key (g (s.channel key))
def Channel.bank (c : Channel) (b : Nat) : Bank := c.banks.get .reset b
def Channel.updBank (c : Channel) (b : Nat) (g : Bank → Bank) : Channel := { c with banks := c.banks.set b (g (c.bank b)) }

/-- A 20-bit count that saturates (R55). -/
def satCount (n : BitVec 20) : BitVec 20 := if n = 0xFFFFF#20 then n else n + 1#20

/-! ### Issue (R52, R53) -/

def HbmReq.bank (r : HbmReq) : Nat := bankOf r.la
def HbmReq.row (r : HbmReq) : Nat := rowOf r.la
def HbmReq.line (r : HbmReq) : Nat := r.la / 64

/-- A queued request may be issued, given those queued before it: its bank is not blocked and has no alert to serve, no load of its
key slot is awaited, no earlier request to its line is under way, and no aged request to its bank stands before it. -/
def Channel.mayIssue (c : Channel) (before : List HbmReq) (r : HbmReq) : Bool :=
  !r.late && !(c.bank r.bank).blocked && decide ((c.bank r.bank).alerts = 0) &&
  !((before ++ c.inFlight ++ c.retry).any fun x => decide (x.line = r.line)) &&
  !(before.any fun x => x.aged && decide (x.bank = r.bank))

/-- The queued requests that may be issued, oldest first. -/
def Channel.ready (c : Channel) : List HbmReq := go [] c.queue
where
  go (before : List HbmReq) : List HbmReq → List HbmReq
    | [] => []
    | r :: l => if c.mayIssue before r then r :: go (before ++ [r]) l else go (before ++ [r]) l

/-- A request meets its row open. -/
def Channel.rowHit (c : Channel) (r : HbmReq) : Bool := (c.bank r.bank).openRow == some r.row

/-- Row hits first, then oldest first. -/
def Channel.choice (c : Channel) : Option HbmReq :=
  if c.busy then none else (c.ready.find? c.rowHit).orElse fun _ => c.ready.head?

/-- Block a bank for a refresh; its row closes, and the end of the block follows. -/
def State.blockBank (s : State) (key b : Nat) : State :=
  (s.updChannel key fun c => c.updBank b fun x => { x with blocked := true, openRow := none }).after [(.bankBlockEnd, bankMsg key b)]

/-- Issue one owed refresh of a bank. -/
def State.payOne (s : State) (key b : Nat) : State :=
  (s.updChannel key fun c => c.updBank b fun x => { x with owed := x.owed - 1 }).blockBank key b

/-- Issue the request chosen. A bank with 8 refreshes owed is refreshed first (R59). -/
def State.hbmIssue (s : State) (key : Nat) : State :=
  let c := s.channel key
  match c.choice with
  | none => s
  | some r =>
    if 8 ≤ (c.bank r.bank).owed then s.payOne key r.bank
    else
      s.updChannel key fun c =>
        { c.updBank r.bank fun x => { x with openRow := some r.row } with
          queue := c.queue.erase r
          inFlight := c.inFlight ++ [r] }

/-- A row closes where no queued request names it. -/
def State.closeRow (s : State) (key b : Nat) : State :=
  s.updChannel key fun c =>
    if c.queue.any fun r => decide (r.bank = b) && (c.bank b).openRow == some r.row then c
    else c.updBank b fun x => { x with openRow := none }

/-- The oldest request to a line becomes aged. -/
def ageFirst (ln : Nat) : List HbmReq → List HbmReq
  | [] => []
  | r :: l => if r.line = ln then { r with aged := true } :: l else r :: ageFirst ln l

/-! ### Sparing (spec/21 R476) -/

/-- A lane identifier. -/
def laneId (cls stack chan lane : Nat) : Word :=
  BitVec.ofNat 64 (cls % 4 * 2 ^ 14 + stack % 8 * 2 ^ 11 + chan % 32 * 2 ^ 6 + lane % 64)

/-- Entries of a lane's log within a time. -/
def logOf (l : List (Nat × Nat)) (lane now span : Nat) : Nat := (l.filter fun x => decide (x.1 = lane) && decide (now < x.2 + span)).length

/-- A lane is spared where its corrected errors within 1 s reach 32 or its transient reads within 24 h reach 2, while a spare is
left. -/
def State.spareCheck (s : State) (key lane : Nat) : State :=
  let c := s.channel key
  if (32 ≤ logOf c.corrLog lane s.time 1000000000 ∨ 2 ≤ logOf c.transLog lane s.time 86400000000000) ∧ c.spared.length < 2 then
    let keep := fun (l : List (Nat × Nat)) => l.filter fun x => decide (x.1 ≠ lane)
    (s.updChannel key fun c => { c with spared := c.spared ++ [lane], corrLog := keep c.corrLog, transLog := keep c.transLog }).postEvent
      (key / 32) 8#8 (laneId 0 (key / 32) (key % 32) lane) 0#16 0#8 0#27
  else s

/-- A read corrected on its first decode is counted, and attributed to a lane. -/
def State.countCorrected (s : State) (key lane : Nat) : State :=
  (s.updChannel key fun c => { c with corr := satCount c.corr, corrLog := (lane, s.time) :: c.corrLog }).spareCheck key lane
def State.countTransient (s : State) (key lane : Nat) : State :=
  (s.updChannel key fun c => { c with trans := satCount c.trans, transLog := (lane, s.time) :: c.transLog }).spareCheck key lane

/-! ### Data returns (R61, R62) -/

/-- The fill of a home line ends: its words are valid. -/
def SliceLine.filled (x : SliceLine) (psn : Bool) : SliceLine := { x with fill := false, wv := 0xFFFF#16, psn := x.psn || psn }
/-- The fill of an RLC line ends with the words that its die keeps; a stale one installs nothing (spec/05 R124, R147). -/
def SliceLine.rlcFilled (x : SliceLine) (keep : BitVec 16) (d : List Byte) (psn : Bool) : SliceLine :=
  if x.stale then { x with fill := false, stale := false }
  else { x with fill := false, wv := x.wv ||| keep, psn := x.psn || psn, data := mergeWords (keep &&& ~~~x.wv) d x.data }
/-- RLC lines that wait for a home line are filled from it, and the requests that wait at their slices are met again. -/
def State.endRlcFill (s : State) (slot ln : Nat) : State :=
  let (d, p) := s.pointLine slot (dieOf (laOf (ln * 64))) ln
  let waits := fun (x : SliceLine) => decide (x.line = ln) && x.fill && x.rlc
  let ended := (s.m.slices.filter fun t => t.2.lines.any waits).map (·.1)
  let s := s.updMem fun m => { m with slices := m.slices.map fun t =>
    (t.1, { t.2 with lines := t.2.lines.map fun x => if waits x then x.rlcFilled (s.rlcKeep (t.1 / 16) ln) d p else x }) }
  ended.foldl (·.retryWaiting) s
/-- A read or a write of a line is done: the home slice's fill ends, with the RLC lines that wait for it, and the requests that wait
there are met again. -/
def State.endFetch (s : State) (pa slot : Nat) : State :=
  let ln := pa / 64
  let k := s.homeKey pa
  let s := if (sliceFind ln false (s.slice k).lines).any (·.fill) then s.mergeUnder ln else s
  let t := s.slice k
  let s := s.setSlice k { t with lines := t.lines.map fun x =>
    if x.line = ln ∧ x.fill = true ∧ x.rlc = false then x.filled (s.isPoisoned ln) else x }
  (s.endRlcFill slot ln).retryWaiting k

/-- Every command that a channel has issued is finished: reads, writes, retries, and the refreshes that block banks. -/
def Channel.quiet (c : Channel) : Bool := c.inFlight.isEmpty && c.retry.isEmpty && !c.banks.any fun b => b.2.blocked
/-- Once a rate switch has its last command finished, it goes on (R56). -/
def State.switchGoes (s : State) (key : Nat) : State :=
  let c := s.channel key
  if c.busy && c.quiet then s.after [(.rateSwitchComplete, chanMsg key)] else s

/-- Physical address of an HBM request of this device. -/
def State.hbmPa (s : State) (la : Nat) : Nat := s.fab.dev.toNat * 2 ^ 42 + la

/-- The first request in flight ends: 0 its data are clean, 1 corrected, 2 its decode fails, and the read is issued again. -/
def State.hbmReturn (s : State) (key dec lane : Nat) : State :=
  match (s.channel key).inFlight with
  | [] => s
  | r :: l =>
    let s := s.updChannel key fun c => { c with inFlight := l }
    let pa := s.hbmPa r.la
    if r.write || s.isPoisoned (pa / 64) || dec = 0 then (s.endFetch pa r.slot).switchGoes key
    else if dec = 1 then ((s.countCorrected key lane).endFetch pa r.slot).switchGoes key
    else s.updChannel key fun c => { c with retry := c.retry ++ [r] }

/-- The retry of a read: it succeeds and is counted as transient, or the line is poisoned (R62). It waits while its bank is blocked, and
a bank that owes 8 refreshes is refreshed first (R59, R60). A line that has been poisoned meanwhile is returned so. -/
def State.hbmRetry (s : State) (key dec lane : Nat) : State :=
  match (s.channel key).retry with
  | [] => s
  | r :: l =>
    let b := (s.channel key).bank r.bank
    if b.blocked || (!(s.channel key).busy && decide (0 < b.alerts)) then s.after [(.hbmReadRetry, s.msg)]
    else if 8 ≤ b.owed then (s.payOne key r.bank).after [(.hbmReadRetry, s.msg)]
    else if s.isPoisoned ((s.hbmPa r.la) / 64) then
      ((s.updChannel key fun c => { c with retry := l }).endFetch (s.hbmPa r.la) r.slot).switchGoes key
    else
    let s := s.updChannel key fun c => { c.updBank r.bank fun x => { x with openRow := some r.row } with retry := l }
    let pa := s.hbmPa r.la
    let s := if dec < 2 then s.countTransient key lane else s.lastingFault pa
    (s.endFetch pa r.slot).switchGoes key

/-! ### Rate switches (R54 to R57) -/

def State.limitChange (s : State) (key : Nat) (v : BitVec 2) : State :=
  (s.updChannel key fun c => { c with limit := v }).rateCheck key

/-- Step 1: BUSY; commands already issued are finished. -/
def State.rateSwitch (s : State) (key : Nat) : State :=
  let c := s.channel key
  if c.busy ∨ c.wanted = c.cur then s
  else
    (s.updChannel key fun c => { c with busy := true, goal := c.wanted }).switchGoes key

/-- Serve one alert of a bank (R60). -/
def State.serveAlert (s : State) (key b : Nat) : State :=
  (s.updChannel key fun c =>
    { c.updBank b fun x => { x with owed := if 8 ≤ x.owed then 0 else x.owed, alerts := x.alerts - 1 } with alerts := c.alerts + 1#32 }).blockBank key b

/-- Steps 2 to 6: the owed refreshes are paid, every bank closes, and the new rate holds; then the latched alerts, then the next change
where there is one (R57). -/
def State.rateDone (s : State) (key : Nat) : State :=
  let c := s.channel key
  if c.busy && c.quiet then
    let s := s.updChannel key fun c =>
      { c with busy := false, cur := c.goal, banks := c.banks.map fun b => (b.1, { b.2 with owed := 0, openRow := none }) }
    let s := ((s.channel key).banks.filter fun b => decide (0 < b.2.alerts)).foldl (fun s b => s.serveAlert key b.1) s
    s.rateCheck key
  else s

/-! ### Refresh and alerts (R59, R60) -/

/-- A request to a bank is queued. -/
def Channel.wants (c : Channel) (b : Nat) : Bool := c.queue.any fun r => decide (r.bank = b)

/-- The mean time between refreshes of a bank of a die, in ns (R59). -/
def State.refreshInterval (s : State) (die : Nat) : Nat := if s.m.hot.get false die then 1950 else 3900

/-- A bank's refresh falls due: it is postponed while requests for the bank are queued, at most 8 at once. In self-refresh the
stack refreshes itself; one that falls due before a rate switch has reached it is owed, and paid in step 2. A refresh that can neither be postponed nor issued yet comes again. -/
def State.refreshDue (s : State) (key b : Nat) : State :=
  let c := s.channel key
  let x := c.bank b
  if (c.busy || c.wants b || x.blocked) && decide (x.owed < 8) then s.updChannel key fun c => c.updBank b fun x => { x with owed := x.owed + 1 }
  else if c.busy || x.blocked then s.after [(.refreshDue, bankMsg key b)]
  else s.blockBank key b

/-- A bank that falls idle is given its postponed refreshes. -/
def State.payOwed (s : State) (key b : Nat) : State :=
  let c := s.channel key
  if c.busy || c.wants b || (c.bank b).blocked || decide ((c.bank b).owed = 0) then s
  else (s.updChannel key fun c => c.updBank b fun x => { x with owed := 0 }).blockBank key b

/-- An alert is latched, and served at once unless the channel is stalled or the bank blocked. -/
def State.alert (s : State) (key b : Nat) : State :=
  let c := s.channel key
  let s := s.updChannel key fun c => c.updBank b fun x => { x with alerts := x.alerts + 1 }
  if c.busy || (c.bank b).blocked then s else s.serveAlert key b

/-- A block ends, and an alert that came meanwhile is served; a rate switch that waited for it goes on. -/
def State.blockEnd (s : State) (key b : Nat) : State :=
  let s := s.updChannel key fun c => c.updBank b fun x => { x with blocked := false }
  if (s.channel key).busy then s.switchGoes key
  else if ((s.channel key).bank b).alerts = 0 then s else s.serveAlert key b

/-- The patrol scrub may read a line now: the channel is idle, no earlier request of the line is under way (R53), and its bank neither is
blocked nor has an alert or 8 refreshes to serve first. -/
def Channel.mayScrub (c : Channel) (la : Nat) : Bool :=
  let b := c.bank (bankOf la)
  !c.busy && c.queue.isEmpty && !((c.inFlight ++ c.retry).any fun r => decide (r.line = la / 64)) && !b.blocked &&
    decide (b.alerts = 0) && decide (b.owed < 8)
/-- A line that the scrub finds lost is poisoned in HBM: words that its home slice holds stay good there (R63, spec/03 R73). -/
def State.scrubFault (s : State) (pa : Nat) : State :=
  let ln := pa / 64
  let t := s.lastingFault pa
  if (sliceFind ln false (s.slice (s.homeKey pa)).lines).any fun x => x.wv != 0#16 then
    let u := t.m.under.get { cells := lineCells ln t.m.mem, key := s.lineKey ln, psn := true } ln
    t.updMem fun m => { m with poisoned := s.m.poisoned, under := m.under.set ln { u with psn := true } }
  else t

/-- The patrol scrub reads a line in an idle slot (R63): a corrected line is counted, a failed one is read again and then
poisoned. -/
def State.scrubRead (s : State) (la dec lane : Nat) (again : Bool) : State :=
  let key := dieOf la * 32 + channelOf la
  let c := s.channel key
  let pa := s.hbmPa la
  if !c.mayScrub la || s.isPoisoned (pa / 64) || s.underPoison (pa / 64) || dec = 0 then s
  else if dec = 1 then s.countCorrected key lane
  else if again then s.countTransient key lane
  else s.scrubFault pa

/-! ### Key slots (R65, spec/21 R469) -/

/-- Some request at a channel names a key slot and does not wait for its load. -/
def Channel.names (c : Channel) (slot : Nat) : Bool := (c.queue ++ c.inFlight ++ c.retry).any fun r => decide (r.slot = slot) && !r.late
/-- The requests that have waited for the load of a key slot are performed under the new key. -/
def Channel.loaded (c : Channel) (slot : Nat) : Channel :=
  { c with queue := c.queue.map fun r => if r.slot = slot then { r with late := false } else r }

/-- Every controller has acknowledged: the mailbox command ends. A load counts for the context's create (spec/08 R214). -/
def State.keyDone (s : State) (slot : Nat) : State :=
  let load := decide ((s.trust.cmd.extractLsb' 0 8).toNat = 3)
  (s.setCtx (slot - 1) { s.ctx (slot - 1) with keyLoaded := (s.ctx (slot - 1)).keyLoaded || load }).mbDone 0#8 []

/-- A controller loads a key slot; it waits for the requests that named it before. The mailbox command that waits for every controller ends
with the last. -/
def State.keyLoad (s : State) (key slot : Nat) : State :=
  if (s.channel key).names slot then s.after [(.keySlotLoad, { chanMsg key with station := BitVec.ofNat 4 slot })]
  else
    let s := (s.updChannel key (·.loaded slot)).updMem fun m => { m with chanKeys := m.chanKeys.filter fun x => decide (x.1 ≠ key * 16 + slot) }
    let cmd := (s.trust.cmd.extractLsb' 0 8).toNat
    if s.trust.busy && (decide (cmd = 3) || decide (cmd = 4)) && !(s.m.chanKeys.any fun x => decide (x.1 % 16 = slot)) then s.keyDone slot
    else s

/-! ### The steps -/

/-- A step on the channel that a message names. -/
def chanStep (g : State → Nat → State) : M Unit := modify fun s => g s s.msg.channel

def execHbmIssue (s : State) : Host.Outcome State Fault Refusal := finishEvent (chanStep fun s k => s.hbmIssue k) s
def execHbmDataReturn (s : State) : Host.Outcome State Fault Refusal :=
  finishEvent (chanStep fun s k => s.hbmReturn k s.msg.kind.toNat s.msg.unit.toNat) s
def execHbmReadRetry (s : State) : Host.Outcome State Fault Refusal :=
  finishEvent (chanStep fun s k => s.hbmRetry k s.msg.kind.toNat s.msg.unit.toNat) s
def execRowCloseTimeout (s : State) : Host.Outcome State Fault Refusal := finishEvent (chanStep fun s k => s.closeRow k s.msg.bank.toNat) s
def execRequestAgeExpiry (s : State) : Host.Outcome State Fault Refusal :=
  finishEvent (chanStep fun s k => s.updChannel k fun c => { c with queue := ageFirst (s.msg.addr.toNat / 64) c.queue }) s
def execHcrateCeilWrite (s : State) : Host.Outcome State Fault Refusal :=
  finishEvent (chanStep fun s k => s.ceilWrite k (s.msg.value.setWidth 2)) s
def execRateLimitChange (s : State) : Host.Outcome State Fault Refusal :=
  finishEvent (do
    let s ← get
    if 3 ≤ s.msg.value.toNat then badMsg else chanStep fun s k => s.limitChange k (s.msg.value.setWidth 2)) s
def execRateSwitch (s : State) : Host.Outcome State Fault Refusal := finishEvent (chanStep fun s k => s.rateSwitch k) s
def execRateSwitchComplete (s : State) : Host.Outcome State Fault Refusal := finishEvent (chanStep fun s k => s.rateDone k) s
def execRefreshDue (s : State) : Host.Outcome State Fault Refusal := finishEvent (chanStep fun s k => s.refreshDue k s.msg.bank.toNat) s
def execOwedRefreshPaid (s : State) : Host.Outcome State Fault Refusal := finishEvent (chanStep fun s k => s.payOwed k s.msg.bank.toNat) s
def execTemperatureReport (s : State) : Host.Outcome State Fault Refusal :=
  finishEvent (modify fun s => s.updMem fun m => { m with hot := m.hot.set s.msg.die.toNat s.msg.flag }) s
def execActivationAlert (s : State) : Host.Outcome State Fault Refusal := finishEvent (chanStep fun s k => s.alert k s.msg.bank.toNat) s
def execBankBlockEnd (s : State) : Host.Outcome State Fault Refusal := finishEvent (chanStep fun s k => s.blockEnd k s.msg.bank.toNat) s
def execPatrolScrubRead (s : State) : Host.Outcome State Fault Refusal :=
  finishEvent (do
    let s ← get
    if isHbm s.msg.addr.toNat then
      modify fun s => s.scrubRead s.msg.addr.toNat s.msg.kind.toNat s.msg.unit.toNat s.msg.flag
    else badMsg) s
def execKeySlotLoad (s : State) : Host.Outcome State Fault Refusal := finishEvent (chanStep fun s k => s.keyLoad k s.msg.station.toNat) s

end Sys2Proof.Machine
end

