-- ==== Sys2Proof/Machine/Protocol.lean ====
section
/-! DEFINITION. The messages of coherence, as they reach caches, points and home slices (spec/05 R120 to R137, spec/03 R69 to R77),
the requests that slices serve (spec/04 R97 to R101), and accesses to on-chip windows (spec/01 R25). -/
namespace Sys2Proof.Machine
set_option Elab.async false

/-- The word mask that a message names. -/
def Msg.words16 (m : Msg) : BitVec 16 := m.mask.setWidth 16
/-- The key slot of the context slot that a message names. -/
def Msg.key (m : Msg) : Nat := keySlot m.slot

/-- A step on the HBM line that a message names. -/
def msgLine (g : State → Nat → State) : M Unit := do
  let s ← get
  let pa := s.msg.addr.toNat
  if pa < 2 ^ 52 ∧ isHbm (laOf pa) = true then set (g s (pa / 64)) else badMsg

/-- The same where the step is a request of a die under a key slot: it is met again where it waits below the caches (spec/02 R52 to R65,
spec/03 R77). -/
def homeLine (i : Instr) (slot die : State → Nat) (g : State → Nat → State) : M Unit :=
  msgLine fun s ln => if s.homeWaits (slot s) (die s) (ln * 64) then s.after [(i, s.msg)] else g s ln

/-- What a request is answered with. -/
def State.reply (s : State) (bytes : List Byte) (poisoned : Bool) : State :=
  s.updFab fun f => { f with answer := { bytes, poisoned, refused := false } }
def State.refuse (s : State) : State := s.updFab fun f => { f with answer := { bytes := [], poisoned := false, refused := true } }

/-- The words of a line under a mask from a function, as 64 bytes, and their poison. -/
def gatherWords (m : BitVec 16) (f : Nat → List Byte × Bool) : List Byte × Bool :=
  let ws := words16.map fun i => if bitAt m i then f i else (List.replicate 4 0#8, false)
  (ws.flatMap (·.1), ws.any (·.2))

/-! ### Fills, write-backs and evictions -/

/-- An error of a die's on-chip arrays that has been corrected, or that a repeated access did not meet again, is counted (spec/03 R79). -/
def State.countArray (s : State) (die : Nat) (trans : Bool) : State :=
  s.updMem fun m =>
    if trans then { m with arrayTrans := m.arrayTrans.set die (m.arrayTrans.get 0 die + 1) }
    else { m with arrayCorr := m.arrayCorr.set die (m.arrayCorr.get 0 die + 1) }

/-- An uncorrectable error in 8 bytes of a plate or of a register, tile or accumulator file marks the elements there (spec/03 R79, spec/09
R246). -/
def State.storageError (s : State) (la : Nat) : State :=
  match laKind la with
  | .plate .. | .vreg .. | .tile .. | .acc .. => (List.range 64).foldl (fun s i => s.markBit (8 * s.ownPa (la / 8 * 8) + i)) s
  | _ => s

/-- An error met in an array of a core or a cluster as a fill arrives (spec/03 R79): 1 one that is corrected, 2 an uncorrectable one in
words of the line in the L1D or the cluster cache, 3 one of the L1I, which drops the line, 4 an uncorrectable one in on-chip storage. An
uncorrectable error in words neither dirty nor owned drops the line, whose other dirty and owned words leave as at an eviction; in other words
it poisons the line, with an event (spec/21 R475). -/
def State.cacheError (s : State) (slot h ln : Nat) (toL1 : Bool) (kind : Nat) (words : BitVec 16) (la : Nat) : State :=
  let die := dieOfHart h
  let hit := fun (l : CacheLine) => words &&& l.wv
  let held := fun (l : CacheLine) => hit l &&& (l.wd ||| l.wo)
  if kind = 1 then s.countArray die false
  else if kind = 2 then
    match (if toL1 then s.l1Line (coreOf h) ln else s.ccLine (clusterOf h) ln) with
    | none => s
    | some l =>
      if hit l = 0#16 then s
      else if held l ≠ 0#16 then
        (if toL1 then s.mapL1 (coreOf h) ln fun x => { x with psn := true }
          else s.mapCC (clusterOf h) ln fun x => { x with psn := true }).lastingEvent die
      else (if toL1 then s.evictL1 slot (coreOf h) ln else s.evictCC slot (clusterOf h) ln).countArray die true
  else if kind = 3 then
    let c := s.core (coreOf h)
    s.setCore (coreOf h) { c with l1i := c.l1i.filter fun x => decide (x.line ≠ ln) }
  else if kind = 4 then (s.storageError la).lastingEvent die
  else s

/-- A fill arrives (R124): it delivers the line to the access that requested it, and a stale one is not installed. -/
def State.fillReturn (s : State) (slot h ln : Nat) (rid : BitVec 4) (toL1 stale : Bool) : State :=
  let (d, p) := s.pointLine slot (dieOfHart h) ln
  let s := s.reply d p
  if stale then s
  else if toL1 then s.l1Fill slot (coreOf h) ln rid 0xFFFF#16
  else s.ccFill slot (clusterOf h) ln rid 0xFFFF#16

def execCacheFillReturn (s : State) : Host.Outcome State Fault Refusal :=
  finishEvent (homeLine .cacheFillReturn (fun s => keySlot (s.getHart s.msg.hart.toNat).ctx) (fun s => dieOfHart s.msg.hart.toNat) fun s ln =>
    let h := s.msg.hart.toNat
    let slot := keySlot (s.getHart h).ctx
    (s.cacheError slot h ln s.msg.flag s.msg.kind.toNat (s.msg.value.setWidth 16) s.msg.mask.toNat).fillReturn slot h ln s.msg.region s.msg.flag s.msg.flag2) s

/-- Words written back arrive on their way home (R69, R122). -/
def execWriteBack (s : State) : Host.Outcome State Fault Refusal :=
  finishEvent (do
    let s ← get
    if s.msg.bytes.length = 64 then
      homeLine .writeBack (·.msg.key) (·.msg.die.toNat) fun s ln => s.writeBack s.msg.key s.msg.die.toNat ln s.msg.words16 s.msg.bytes s.msg.flag
    else badMsg) s

/-! ### Registration, revocation and forwarding (R74, R75, R120 to R127) -/

/-- A registration reaches its point for hart `h` of a device (R74, R120). Its acknowledgement goes back: to another device as a message
over UALink. -/
def State.registration (s : State) (dev : BitVec 10) (h : Nat) (scope : BitVec 2) (ln slot : Nat) (m : BitVec 16) : State :=
  let s := s.registerWords slot (s.ownerKey dev h) scope ln m
  if dev = s.fab.dev then
    (s.updHartN h fun x => { x with acks := { x.acks with reg := x.acks.reg + 1 } }).after [(.registrationAck, { hart := BitVec.ofNat 11 h })]
  else s.tell dev.toNat ln h .registrationAck m

/-- The device that a message comes from: this one, or, with `flag2`, the one it names. -/
def Msg.source (s : State) (m : Msg) : BitVec 10 := if m.flag2 then m.dev else s.fab.dev

/-- The key slot of a message's sender: of the hart's context, or, from another device, the slot to which the I/O die has mapped its
tag (spec/02 R64). -/
def State.senderSlot (s : State) (m : Msg) : Nat :=
  if Msg.source s m = s.fab.dev then keySlot (s.getHart m.hart.toNat).ctx else m.key

def execRegistration (s : State) : Host.Outcome State Fault Refusal :=
  finishEvent (msgLine fun s ln =>
    s.registration (Msg.source s s.msg) s.msg.hart.toNat s.msg.scope ln (s.senderSlot s.msg) s.msg.words16) s

def Hart.ackReg (h : Hart) : Hart := { h with acks := { h.acks with reg := h.acks.reg - 1 } }
def Hart.ackAcq (h : Hart) : Hart := { h with acks := { h.acks with acq := h.acks.acq - 1 } }

def execRegistrationAck (s : State) : Host.Outcome State Fault Refusal := finishEvent (msgHart fun s h => s.updHartN h (·.ackReg)) s

def execRevocation (s : State) : Host.Outcome State Fault Refusal :=
  finishEvent (msgLine fun s ln => s.revoke s.msg.hart.toNat ln s.msg.words16) s

/-- A revocation with write-back; `flag` where the point that sent it is the RLC slice of the hart's die. -/
def execRevocationWithWriteBack (s : State) : Host.Outcome State Fault Refusal :=
  finishEvent (msgLine fun s ln =>
    let h := s.msg.hart.toNat
    s.revokeWB (keySlot (s.getHart h).ctx) (if s.msg.flag then (s.rlcKey (dieOfHart h) (ln * 64)).getD (s.homeKey (ln * 64)) else s.homeKey (ln * 64))
      h ln s.msg.words16 s.msg.flag) s

/-- A read forwarded to an owner: the words it holds are answered, and the others go back to the point that forwarded it: the RLC slice
of the hart's die, or home (R126). -/
def State.forwarded (s : State) (h ln : Nat) (m : BitVec 16) (rlc : Bool) : State :=
  let (got, d, p) := s.ownerWords h ln m
  let lost := m &&& ~~~got
  let s := s.reply d p
  if lost = 0#16 then s
  else s.after [(.forwardUnanswered, { slot := (s.getHart h).ctx, die := BitVec.ofNat 3 (dieOfHart h), flag := rlc,
                                       addr := BitVec.ofNat 64 (ln * 64), mask := lost.zeroExtend 64 })]

def execForwardedRead (s : State) : Host.Outcome State Fault Refusal :=
  finishEvent (msgLine fun s ln => s.forwarded s.msg.hart.toNat ln s.msg.words16 s.msg.flag) s

/-- A forward that comes back unanswered: the point serves the read again under the entry that stands there, or from its own data
(R126, R147). -/
def execForwardUnanswered (s : State) : Host.Outcome State Fault Refusal :=
  finishEvent (msgLine fun s ln =>
    let (d, p) := gatherWords s.msg.words16 fun i =>
      if s.msg.flag then s.pointWord s.msg.key s.msg.die.toNat ln i else s.homeWord s.msg.key ln i
    s.reply d p) s

/-! ### Accesses at home (R134, R135) -/

/-- A far atomic at its home slice; a write to protected text is refused (spec/21 R473). -/
def State.atomicMsg (s : State) (slot pa : Nat) (op : AtomicOp) (wide : Bool) (v c : Word) : State :=
  if s.isProtected pa (if wide then 8 else 4) then s.refuse
  else
    let (s, a) := s.atomicHome slot pa op wide v c
    s.reply (toBytes (if wide then 8 else 4) a.old.toNat) a.poisoned

def execFarAtomicAtHome (s : State) : Host.Outcome State Fault Refusal :=
  finishEvent (do
    let s ← get
    let pa := s.msg.addr.toNat
    match atomicOfCode s.msg.station.toNat with
    | some op =>
      if pa < 2 ^ 52 ∧ isHbm (laOf pa) = true ∧ pa % (if s.msg.flag then 8 else 4) = 0 then
        if s.homeWaits s.msg.key (dieOf (laOf pa)) pa then set (s.after [(.farAtomicAtHome, s.msg)])
        else set (s.atomicMsg s.msg.key pa op s.msg.flag s.msg.value s.msg.value2)
      else badMsg
    | none => badMsg) s

/-- An SY access at its home slice. -/
def State.syMsg (s : State) (slot pa n : Nat) (wr : Bool) (v : Word) : State :=
  if wr then
    if s.isProtected pa n then s.refuse else (((s.homeTake slot pa n).1).homePut slot pa (toBytes n v.toNat)).reply [] false
  else
    let (s, b, p) := s.homeTake slot pa n
    s.reply b p

def execSyAccessAtHome (s : State) : Host.Outcome State Fault Refusal :=
  finishEvent (do
    let s ← get
    let pa := s.msg.addr.toNat
    let n := 2 ^ s.msg.size.toNat
    if pa < 2 ^ 52 ∧ isHbm (laOf pa) = true ∧ pa % n = 0 then
      if s.homeWaits s.msg.key (dieOf (laOf pa)) pa then set (s.after [(.syAccessAtHome, s.msg)])
      else set (s.syMsg s.msg.key pa n s.msg.flag s.msg.value)
    else badMsg) s

/-! ### Watches (R137) -/

/-- An update of a word at home: its watches leave the table, and each sends its hit. -/
def State.watchMsg (s : State) (pa : Nat) : State :=
  let s := s.fireAgents pa 8
  let k := s.homeKey pa
  let t := s.slice k
  let hit := t.watches.filter fun w => watchHit pa 8 w.1
  let s := (hit.filter fun w => decide (2048 ≤ w.2)).foldl (fun s w => s.tell (s.ownerDev w.2).toNat (pa / 64) (ownerHart w.2) .wake 0#16)
    (s.setSlice k { t with watches := t.watches.filter fun w => !watchHit pa 8 w.1 })
  s.after ((hit.filter fun w => decide (w.2 < 2048)).map fun w => (.watchHitArrival, { hart := BitVec.ofNat 11 w.2 }))

def execWatchHit (s : State) : Host.Outcome State Fault Refusal := finishEvent (msgWord fun s pa => s.watchMsg pa) s
def execWatchHitArrival (s : State) : Host.Outcome State Fault Refusal := finishEvent (msgHart fun s h => s.updHartN h (·.watchArrival)) s

/-! ### Acquires at the RLC (R123, R124) -/

def execRlcAcquireInvalidation (s : State) : Host.Outcome State Fault Refusal :=
  finishEvent (msgHart fun s h =>
    ((s.clearRlc (s.msg.die.toNat * 16 + s.msg.slice.toNat) fun _ => true).updHartN h fun x => { x with acks := { x.acks with acq := x.acks.acq + 1 } }).after
      [(.acquireAcknowledgement, { hart := s.msg.hart })]) s

def execAcquireAcknowledgement (s : State) : Host.Outcome State Fault Refusal := finishEvent (msgHart fun s h => s.updHartN h (·.ackAcq)) s

/-! ### Requests at a slice (R72 to R77) -/

/-- Queue a request of a line at its channel controller; one that names a key slot whose load is awaited waits for the new key (spec/02
R65). -/
def State.hbmQueue (s : State) (slot la : Nat) (write : Bool) : State :=
  let key := dieOf la * 32 + channelOf la
  let c := s.channel key
  let late := s.m.chanKeys.any fun x => decide (x.1 = key * 16 + slot)
  s.setChannel key { c with queue := c.queue ++ [{ la := la / 64 * 64, write, slot, aged := false, late }] }

/-- The key slot of the context that wrote a line last (spec/02 R64). -/
def State.lineSlot (s : State) (slot ln : Nat) : Nat :=
  ((List.range 9).find? fun i => decide (s.keyAt i (ln * 64) = (s.lineKey ln).key)).getD slot

/-- The dirty words of a home line that is evicted go to HBM as one burst under its own context's slot, after a read where some words are
not valid. -/
def State.burst (s : State) (slot : Nat) (v : SliceLine) : State :=
  if v.rlc || v.wd == 0#16 then s
  else
    let la := laOf (v.line * 64)
    let slot := s.lineSlot slot v.line
    (if v.wv = 0xFFFF#16 then s else s.hbmQueue slot la false).hbmQueue slot la true

/-- Fetch what a line lacks: from HBM at home, from the home slice for an RLC line. -/
def State.fetchFor (s : State) (slot la : Nat) (rlc : Bool) : State :=
  if rlc then
    s.after [(.sliceRequest, { die := BitVec.ofNat 3 (dieOf la), slice := BitVec.ofNat 4 (sliceOf la), slot := BitVec.ofNat 3 (slot - 1),
                               addr := BitVec.ofNat 64 (la / 64 * 64), mask := 0xFFFF#64 })]
  else s.hbmQueue slot la false

/-- The lines of an address that a slice holds are poisoned. -/
def State.setSlicePsn (s : State) (k ln : Nat) : State :=
  let t := s.slice k
  s.setSlice k { t with lines := t.lines.map fun y => if y.line = ln then { y with psn := true } else y }

/-- An error met in an array of a slice as it serves a request of a line (spec/03 R79): 1 one that is corrected, 2 an uncorrectable one
in words of the line, 3 one in a registration entry of the line. Clean words drop the line, and the access is repeated from below; dirty
words are poisoned. A registration entry revokes its owner with write-back, and the words come back poisoned. -/
def State.sliceError (s : State) (slot k ln : Nat) (rlc : Bool) (kind : Nat) (words : BitVec 16) : State :=
  let t := s.slice k
  if kind = 1 then s.countArray (k / 16) false
  else if kind = 2 then
    match sliceFind ln rlc t.lines with
    | none => s
    | some x =>
      if words &&& x.wv = 0#16 then s
      else if words &&& x.wv &&& x.wd ≠ 0#16 then
        let s := s.setSlice k { t with lines := t.lines.map fun y => if y.line = ln ∧ y.rlc = rlc then { y with psn := true } else y }
        (if rlc then s else s.addPoison ln).lastingEvent (k / 16)
      else
        (((s.burst slot x).homeLeft x).sliceDrop k x).countArray (k / 16) true
  else if kind = 3 then
    match t.regs.find? fun e => decide (e.line = ln) with
    | none => s
    | some e => ((s.takeFrom slot k ln e.mask (none : Option Nat) e.mask).addPoison ln).setSlicePsn k ln |>.lastingEvent (k / 16)
  else s

/-- Words written to a slice: a home line's stand at home at once; an RLC slice takes dirty words and sends them on (R122). -/
def State.sliceWrite (s : State) (slot k ln : Nat) (rlc : Bool) (m : BitVec 16) (data : List Byte) (psn : Bool) : State :=
  if rlc then (s.dropOwners k ln m).writeHome slot ln m data psn else s.writeHome slot ln m data psn

/-- A request that waits at a slice: an error that it met has been dealt with, and a pin that it has taken is not taken again. -/
def State.waitAt (s : State) (k : Nat) (q : Msg) (pinned : Bool) : State :=
  let t := s.slice k
  s.setSlice k { t with waiting := t.waiting ++ [{ q with kind := 0#8, flag2 := q.flag2 && !pinned }] }

/-- A request of a line at slice `k` of a die: a write of some words, or a read; a pin from an engine. A line that cannot be
allocated, or pinned, waits with its request, as does one that meets the line's fill (spec/02 R62). A read that the slice can serve is answered
with the words asked for; one that finds words missing is answered when they have come. -/
def State.sliceServe (s : State) (k la : Nat) (rlc : Bool) (q : Msg) : State :=
  let ln := s.ownPa la / 64
  let (slot, write, pin, m) := (q.key, q.flag, q.flag2, q.words16)
  let data := (q.bytes ++ List.replicate 64 0#8).take 64
  let t := s.slice k
  let n := if pin then 1 else 0
  let answer := fun (s : State) =>
    if write then s else
      let (d, p) := gatherWords m fun i => if rlc then s.pointWord slot (k / 16) ln i else s.homeWord slot ln i
      s.reply d p
  match sliceFind ln rlc t.lines with
  | some x =>
    if x.fill || (pin && decide (x.pin = 0) && decide (8 ≤ t.pinned ln)) then s.waitAt k q false
    else
      let lacks := !write && m &&& ~~~x.wv != 0#16
      let y := { x with wv := if write then x.wv ||| m else x.wv, wd := if write && !rlc then x.wd ||| m else x.wd,
                        psn := if write then mergePsn m x.psn q.flag3 else x.psn,
                        data := if write && rlc then mergeWords m data x.data else x.data,
                        pin := min 8 (x.pin + n), fill := lacks }
      let s := s.setSlice k { t with lines := slicePut y t.lines }
      let s := if write then s.sliceWrite slot k ln rlc m data q.flag3 else s
      if lacks then (s.fetchFor slot la rlc).waitAt k q true else answer (if rlc then s else s.endRlcFill slot ln)
  | none =>
    match t.victim (sliceSet la) rlc with
    | some none => s.waitAt k q false
    | v =>
      if pin && decide (8 ≤ t.pinned ln) then s.waitAt k q false
      else
        let s := ((v.bind id).elim s fun x => s.burst slot x).sliceAlloc slot k
          { SliceLine.plain ln rlc (if write then m else 0#16) (if write && !rlc then m else 0#16)
              (if write then q.flag3 else s.isPoisoned ln) (if write then data else List.replicate 64 0#8) with pin := n, fill := !write }
        if write then s.sliceWrite slot k ln rlc m data q.flag3 else (s.fetchFor slot la rlc).waitAt k q true

/-- The slice and the LA that a request names: the LA is HBM, and the slice is the line's. -/
def msgSlice (g : State → Nat → Nat → State) : M Unit := do
  let s ← get
  let la := s.msg.addr.toNat
  if isHbm la = true ∧ sliceOf la = s.msg.slice.toNat then set (g s (s.msg.die.toNat * 16 + s.msg.slice.toNat) la) else badMsg

def execSliceRequest (s : State) : Host.Outcome State Fault Refusal :=
  finishEvent (msgSlice fun s k la =>
    let rlc := decide (dieOf la ≠ k / 16)
    (s.sliceError s.msg.key k (s.ownPa la / 64) rlc s.msg.kind.toNat (s.msg.value.setWidth 16)).sliceServe k la rlc s.msg) s

/-- A pin of a line ends, and the requests that wait are met again (R77). -/
def State.unpin (s : State) (k ln : Nat) : State :=
  let t := s.slice k
  (s.setSlice k { t with lines := t.lines.map fun x => if x.line = ln then { x with pin := x.pin - 1 } else x }).retryWaiting k

def execSlicePinRelease (s : State) : Host.Outcome State Fault Refusal :=
  finishEvent (msgSlice fun s k la => s.unpin k (s.ownPa la / 64)) s

/-- One line request with its word mask: the values at the point, forwarded from owners (R97, R101). -/
def execLineRequest (s : State) : Host.Outcome State Fault Refusal :=
  finishEvent (homeLine .lineRequest (·.msg.key) (·.msg.die.toNat) fun s ln =>
    let (d, p) := gatherWords s.msg.words16 fun i => s.pointWord s.msg.key s.msg.die.toNat ln i
    (s.homeTouch s.msg.key ln 0#16).reply d p) s

/-! ### Vector headers (R98 to R101) -/

/-- A header's fields, and its mask flits (R98). -/
structure VHead where
  op : Nat
  rid : Nat
  key : Nat
  pa : Nat
  stride : Int
  count : Nat
  row0 : Nat
  col0 : Nat
  pitch : Int
  len : Nat
  width : Nat
  masked : Bool
  slices : BitVec 16
  dev : Nat
  die : Nat
  cluster : Nat
  hart : Nat
  tag : Nat
  masks : List Word
  deriving DecidableEq, Repr

/-- The fields of the flits of a header (R98); none where a fixed field is not as it must be. -/
def vhead : List Word → Option VHead
  | f0 :: f1 :: f2 :: f3 :: ms =>
    let op := (f0.extractLsb' 60 4).toNat
    if op = 0 ∨ 3 < op ∨ 5 < (f2.extractLsb' 7 3).toNat ∨ f2.getLsbD 23 = true ∨ f2.extractLsb' 1 6 ≠ 0#6 ∨ f3.extractLsb' 16 11 ≠ 0#11 then none
    else
      some { op, rid := (f0.extractLsb' 56 4).toNat, key := (f0.extractLsb' 52 4).toNat, pa := (f0.extractLsb' 0 52).toNat,
             stride := (f1.extractLsb' 32 32).toInt, count := (f1.extractLsb' 16 16).toNat, row0 := (f1.extractLsb' 13 3).toNat,
             col0 := (f1.extractLsb' 0 13).toNat, pitch := (f2.extractLsb' 24 40).toInt, len := (f2.extractLsb' 10 13).toNat,
             width := 2 ^ ((f2.extractLsb' 7 3).toNat + 1), masked := f2.getLsbD 0, slices := f3.extractLsb' 48 16,
             dev := (f3.extractLsb' 38 10).toNat, die := (f3.extractLsb' 35 3).toNat, cluster := (f3.extractLsb' 31 4).toNat,
             hart := (f3.extractLsb' 27 4).toNat, tag := (f3.extractLsb' 0 16).toNat, masks := ms }
  | _ => none

/-- The flits of a header (R98). -/
def VHead.flits (h : VHead) : List Word :=
  let code := (List.range 6).find? fun c => decide (2 ^ (c + 1) = h.width)
  [BitVec.ofNat 4 h.op ++ BitVec.ofNat 4 h.rid ++ BitVec.ofNat 4 h.key ++ BitVec.ofNat 52 h.pa,
   BitVec.ofInt 32 h.stride ++ BitVec.ofNat 16 h.count ++ BitVec.ofNat 3 h.row0 ++ BitVec.ofNat 13 h.col0,
   BitVec.ofInt 40 h.pitch ++ 0#1 ++ BitVec.ofNat 13 h.len ++ BitVec.ofNat 3 (code.getD 0) ++ 0#6 ++ BitVec.ofBool h.masked,
   h.slices ++ BitVec.ofNat 10 h.dev ++ BitVec.ofNat 3 h.die ++ BitVec.ofNat 4 h.cluster ++ BitVec.ofNat 4 h.hart ++ 0#11 ++ BitVec.ofNat 16 h.tag] ++
  (if h.masked then h.masks else [])

/-- The bit address of position j (R99): a row of elements below 8 bits is packed, and its first element may lie within a byte (spec/15
R383). -/
def VHead.bitAddr (h : VHead) (j : Nat) : Nat :=
  let k := h.col0 + j
  let row : Int := (k / (h.len + 1) : Nat)
  let col : Int := ((k % (h.len + 1) : Nat) : Int) - h.col0
  let a := 8 * ((h.pa : Int) + row * h.pitch)
  (if h.width < 8 then a + (h.col0 * h.width % 8 : Nat) + col * h.width else a + 8 * col * h.stride).toNat

/-- Position j is active. -/
def VHead.active (h : VHead) (j : Nat) : Bool := !h.masked || (h.masks.getD (j / 64) 0#64).getLsbD (j % 64)

/-- Mask flits that select positions. -/
def maskFlits (count : Nat) (active : Nat → Bool) : List Word :=
  (List.range (count / 64 + 1)).map fun q =>
    (List.range 64).foldl (fun (w : Word) i => if active (64 * q + i) && decide (64 * q + i ≤ count) then w ||| 1#64 <<< i else w) 0#64

/-- The lines that a segment's active positions touch. -/
def VHead.lines (h : VHead) : List Nat :=
  (((List.range (h.count + 1)).filter h.active).map fun j => h.bitAddr j / 512).eraseDups

/-- The header of a segment whose active positions a cluster knows (R97 to R99): MK where a masked element lies among them, and SLICES from
the hash for a segment of at most 64 lines. -/
def VHead.compose (h : VHead) (active : Nat → Bool) : VHead :=
  let mk := (List.range (h.count + 1)).any fun j => !active j
  let h := { h with masked := mk, masks := if mk then maskFlits h.count active else [] }
  { h with slices := if h.lines.length ≤ 64 then h.lines.foldl (fun m l => m ||| 1#16 <<< sliceOf (laOf (64 * l))) 0#16 else 0xFFFF#16 }

/-- The messages by which a header reaches every slice of a die whose SLICES bit is set, the first of them opening the segment (R99). -/
def VHead.multicast (h : VHead) (die : Nat) (data : List Byte) : List (Instr × Msg) :=
  ((List.range 16).filter fun i => bitAt h.slices i).zipIdx.map fun x =>
    (.vectorHeader, { die := BitVec.ofNat 3 die, slice := BitVec.ofNat 4 x.1, words := h.flits, bytes := data, flag := x.2 == 0 })

/-- The active positions homed at a slice index, in ascending order, with their physical addresses. -/
def VHead.mine (h : VHead) (dev slice : Nat) : List (Nat × Nat) :=
  ((List.range (h.count + 1)).filter h.active).filterMap fun j =>
    let pa := h.bitAddr j / 8
    if devOf pa = dev ∧ isHbm (laOf pa) = true ∧ sliceOf (laOf pa) = slice then some (j, pa) else none

/-- The code of an element in its bytes, and the bytes with another code. -/
def VHead.code (h : VHead) (j : Nat) (bs : List Byte) : Nat := leNat bs / 2 ^ (h.bitAddr j % 8) % 2 ^ h.width
def VHead.recode (h : VHead) (j : Nat) (bs : List Byte) (v : Nat) : List Byte :=
  if h.width < 8 then
    let sh := 2 ^ (h.bitAddr j % 8)
    let o := leNat bs
    toBytes bs.length (o - o / sh % 2 ^ h.width * sh + v % 2 ^ h.width * sh)
  else toBytes bs.length v
def VHead.bytes (h : VHead) : Nat := (h.width + 7) / 8

/-- Codes packed at element width. -/
def packCodes (w : Nat) (l : List Nat) : List Byte :=
  toBytes ((w * l.length + 7) / 8) (l.foldr (fun v n => v % 2 ^ w + 2 ^ w * n) 0)

/-- A slice of a die serves a position of a read itself: it is the home, or each word is valid in its RLC line or registered at the
RLC (R101, spec/03 R74). -/
def State.servesRead (s : State) (h : VHead) (die slice pa : Nat) : Bool :=
  let t := s.slice (die * 16 + slice)
  let valid := (sliceFind (pa / 64) true t.lines).elim 0#16 (·.wv)
  decide (dieOf (laOf pa) = die) || (wordMask (pa % 64) h.bytes &&& ~~~(valid ||| t.maskOf (pa / 64) fun _ => true)) == 0#16

/-- Read positions: their codes and their poison. -/
def State.headRead (s : State) (h : VHead) (die : Nat) (l : List (Nat × Nat)) : List Byte × Bool :=
  let r := l.map fun x =>
    let (b, p) := s.engineReads h.key die x.2 h.bytes
    (h.code x.1 b, p)
  (packCodes h.width (r.map (·.1)), r.any (·.2))

/-- Write positions from the beats that follow the header, packed in their order. -/
def State.headWrite (s : State) (h : VHead) (die : Nat) (data : List Byte) (l : List (Nat × Nat × Nat)) : State :=
  l.foldl (fun s x =>
    let old := (s.engineReads h.key die x.2.2 h.bytes).1
    s.engineWrites h.key x.2.2 (h.recode x.2.1 old (leNat data / 2 ^ (h.width * x.1)))) s

/-- The header that a slice sends on for the positions it does not serve, to the slice of its index on the home die (R101). -/
def VHead.forward (h : VHead) (slice : Nat) (rest : List Nat) : VHead :=
  { h with masked := true, masks := maskFlits h.count rest.contains, slices := 1#16 <<< slice }

/-- A header at a slice of a die: the positions it serves are performed, the others go to the home die, and a completion beat ends
it. -/
def State.headServe (s : State) (h : VHead) (die slice : Nat) (data : List Byte) : State :=
  let l := h.mine s.fab.dev.toNat slice
  let num : List (Nat × Nat × Nat) := l.zipIdx.map fun x => (x.2, x.1.1, x.1.2)
  let here : List (Nat × Nat × Nat) := num.filter fun x => if h.op = 1 then s.servesRead h die slice x.2.2 else decide (dieOf (laOf x.2.2) = die)
  let away : List (Nat × Nat × Nat) := num.filter fun x => !(here.contains x)
  let s := if h.op = 1 then (let (b, p) := s.headRead h die (here.map fun y => y.2); s.reply b p)
    else (s.headWrite h die data here).reply [] false
  let s := (match away with
    | [] => s
    | x :: _ => s.after [(.vectorHeader,
        { die := BitVec.ofNat 3 (dieOf (laOf x.2.2)), slice := BitVec.ofNat 4 slice, words := (h.forward slice (away.map fun (y : Nat × Nat × Nat) => y.2.1)).flits,
          bytes := packCodes h.width (away.map fun (y : Nat × Nat × Nat) => leNat data / 2 ^ (h.width * y.1)) })])
  s.after [(.segmentCompletionBeat,
    { die := BitVec.ofNat 3 h.die, unit := BitVec.ofNat 32 h.cluster, value := BitVec.ofNat 64 h.tag, value2 := BitVec.ofNat 64 here.length })]

/-- The requester counts the active positions of a segment as its first header leaves. -/
def State.openSegment (s : State) (h : VHead) : State :=
  if h.dev = s.fab.dev.toNat then
    let k := h.die * 16 + h.cluster
    let c := s.cluster k
    s.setCluster k { c with segments := (h.tag, ((List.range (h.count + 1)).filter h.active).length) :: c.segments }
  else s

/-- Some line of the active positions that a header finds at a slice makes it wait below the caches. -/
def State.headWaits (s : State) (h : VHead) (die slice : Nat) : Bool :=
  (h.mine s.fab.dev.toNat slice).any fun x => s.homeWaits h.key die x.2

/-- The active positions of a segment homed on another device, in ascending order, with their physical addresses. -/
def VHead.places (h : VHead) : List (Nat × Nat) := ((List.range (h.count + 1)).filter h.active).map fun j => (j, h.bitAddr j / 8)

/-- A segment homed on another device goes to the requester's I/O die, which expands it into UALink reads of whole lines, or writes with byte
enables, one for each line that holds an active position (R101). -/
def State.remoteServe (s : State) (h : VHead) (die : Nat) (data : List Byte) : State :=
  let l := h.places
  let s := h.lines.foldl (fun s ln => s.answerRemote h.key ln) s
  let s := if h.op = 1 then (let (b, p) := s.headRead h die l; s.reply b p)
    else (s.headWrite h die data (l.zipIdx.map fun x => (x.2, x.1.1, x.1.2))).reply [] false
  s.after [(.segmentCompletionBeat,
    { die := BitVec.ofNat 3 h.die, unit := BitVec.ofNat 32 h.cluster, value := BitVec.ofNat 64 h.tag, value2 := BitVec.ofNat 64 l.length })]

/-- A header reaches a slice whose SLICES bit is set, or, of a segment homed on another device, the requester's I/O die. One that names a reserved key slot is refused as an access fault (spec/02 R64). -/
def execVectorHeader (s : State) : Host.Outcome State Fault Refusal :=
  finishEvent (do
    let s ← get
    match vhead s.msg.words with
    | none => badMsg
    | some h =>
      if !bitAt h.slices s.msg.slice.toNat then badMsg
      else if 8 < h.key then set s.refuse
      else if s.isRemote h.pa then
        if h.dev ≠ s.fab.dev.toNat then badMsg
        else if h.lines.any fun ln => s.homeWaits h.key s.msg.die.toNat (ln * 64) then set (s.after [(.vectorHeader, s.msg)])
        else set ((s.openSegment h).remoteServe h s.msg.die.toNat s.msg.bytes)
      else if s.headWaits h s.msg.die.toNat s.msg.slice.toNat then set (s.after [(.vectorHeader, s.msg)])
      else
        let s := if s.msg.flag then s.openSegment h else s
        set (s.headServe h s.msg.die.toNat s.msg.slice.toNat s.msg.bytes)) s

/-- A completion beat: the segment is complete when its counts add up (R99). -/
def State.beat (s : State) (k tag n : Nat) : State :=
  let c := s.cluster k
  s.setCluster k { c with segments := (c.segments.map fun x => if x.1 = tag then (x.1, x.2 - n) else x).filter fun x => decide (0 < x.2) }

def execSegmentCompletionBeat (s : State) : Host.Outcome State Fault Refusal :=
  finishEvent (copyUnit fun s k => s.beat k (s.msg.value.toNat % 65536) s.msg.value2.toNat) s

/-! ### Window accesses (spec/01 R23, R25, spec/03 R82) -/

/-- An access of a hart to on-chip storage of this device reaches its target: it is checked against the hart's context, and performed,
refused, or met again where the plate's state refuses it. -/
def State.windowAccess (s : State) (h la n : Nat) (wr : Bool) (v : Word) : State :=
  let x := s.getHart h
  let pa := s.ownPa la
  let perform := fun (s : State) =>
    if wr then (s.homeStore 0 pa (toBytes n v.toNat)).reply [] false
    else s.reply (s.homeBytes 0 pa n) (natAny (8 * pa) (8 * n) s.m.marks)
  match s.target x.ctx x.sup pa n with
  | .plate p _ => if (s.plate p).admits wr then perform s else s.after [(.windowAccessArrival, s.msg)]
  | .window => perform s
  | _ => s.refuse

def execWindowAccessArrival (s : State) : Host.Outcome State Fault Refusal :=
  finishEvent (do
    let s ← get
    let la := s.msg.addr.toNat
    let n := 2 ^ s.msg.size.toNat
    match (if la < 2 ^ 42 ∧ la % n = 0 then laKind la else .reserved) with
    | .plate .. | .vreg .. | .tile .. | .acc .. => set (s.windowAccess s.msg.hart.toNat la n s.msg.flag s.msg.value)
    | _ => badMsg) s

end Sys2Proof.Machine
end

