-- ==== Sys2Proof/Machine/Matrix.lean ====
section
/-! DEFINITION. Matrix instructions: shapes and checks, tiles and accumulators as storage, tile memory, products and moves (spec/17
R412 to R423, spec/09 R245, spec/10 R275). -/
namespace Sys2Proof.Machine
set_option Elab.async false

/-! ### Storage (spec/01 R23) -/

def tileCode (r : Reg) : BitVec 3 := r.extractLsb' 0 3
def accCode (r : Reg) : Nat := (r.extractLsb' 0 2).toNat

/-- Offset in its cluster's window of tile t, and of accumulator k, of the executing hart. -/
def Grant.tileOfs (g : Grant) (t : Reg) : Nat := 0x80000 + (g.tbase.toNat + (tileCode t).toNat) * 0x4000
def Grant.accOfs (g : Grant) (k : Reg) : Nat := 0x100000 + (g.abase.toNat + accCode k) * 0x8000

/-- Bit addresses of element (m, n) of a tile of width w, and of an accumulator. -/
def State.tileAt (s : State) (t : Reg) (m n w : Nat) : Nat :=
  s.clusterBit (clusterOf s.cur) (s.hart.grant.tileOfs t) + m * 1024 + n * w
def State.accAt (s : State) (k : Reg) (m n : Nat) : Nat :=
  s.clusterBit (clusterOf s.cur) (s.hart.grant.accOfs k) + m * 2048 + n * 32

def State.tile (s : State) (t : Reg) (m n w : Nat) : Nat := s.getBits (s.tileAt t m n w) w
def State.tileMarked (s : State) (t : Reg) (m n w : Nat) : Bool := s.marked (s.tileAt t m n w) w
def State.acc (s : State) (k : Reg) (m n : Nat) : Nat := s.getBits (s.accAt k m n) 32
def State.accMarked (s : State) (k : Reg) (m n : Nat) : Bool := s.marked (s.accAt k m n) 32
def State.putAcc (s : State) (k : Reg) (m n c : Nat) : State := s.putBits (s.accAt k m n) 32 c

/-- Set `n` bytes of a cluster's window to zero, marks included. -/
def State.zeroWindow (s : State) (ofs n : Nat) : State :=
  let pa := s.clusterBit (clusterOf s.cur) ofs / 8
  s.updMem fun m => { m with mem := Mem.drop pa n m.mem, marks := natDrop (8 * pa) (8 * n) m.marks }

/-! ### Checks before the queue (R182, R412, R418 to R420) -/

/-- K and N of a product agree with its operands. -/
def mopShapes (q : QEntry) (a b : Reg) : Bool :=
  match q.shape (tileCode a), q.shape (tileCode b) with
  | some x, some y => x.ty == y.ty && y.rows == x.cols && decide (y.cols ≤ 64)
  | _, _ => false
/-- `mops`: the rows are VL − K + 1. -/
def mopsShapes (q : QEntry) (a b : Reg) : Bool :=
  match q.shape (tileCode b) with
  | some y => q.vec.ty a.toNat == y.ty && decide (y.rows ≤ q.vec.len) && decide (q.vec.len + 1 - y.rows ≤ 128) && decide (y.cols ≤ 64)
  | none => false
/-- `mop.m`: the columns are VL. -/
def mopmShapes (q : QEntry) (a : Reg) : Bool :=
  match q.shape (tileCode a) with
  | some x => decide (1 ≤ q.vec.len) && decide (q.vec.len ≤ 64) && decide (q.vec.len * x.ty.width ≤ 1024)
  | none => false

/-- The configuration and the shapes allow a matrix instruction. -/
def matrixShapes (q : QEntry) : Bool :=
  match q.instr with
  | .tld d _ | .tst d _ => (q.shape (tileCode d)).isSome
  | .mop _ a b => mopShapes q a b
  | .mops _ a b => q.vec.admits (vuse q.instr) && mopsShapes q a b
  | .mopM _ a _ => mopmShapes q a
  | .accx .. | .acci .. => q.vec.admits (vuse q.instr)
  | _ => true

/-- Tiles and accumulators that an instruction names (R182). -/
def matrixNames : Instr → List Reg × List Reg
  | .tld d _ | .tst d _ => ([d], [])
  | .mop d a b => ([a, b], [d])
  | .mops d _ b => ([b], [d])
  | .mopM d a _ => ([a], [d])
  | .mclr d => ([], [d])
  | .accx _ a _ => ([], [a])
  | .acci d _ _ => ([], [d])
  | _ => ([], [])

def Grant.holds (g : Grant) (n : List Reg × List Reg) : Bool :=
  n.1.all (fun t => decide (t.toNat < g.tcnt.toNat)) && n.2.all fun k => decide (k.toNat < g.acnt.toNat)

/-- The checks in the order of R239. -/
def matrixCheck (i : Instr) : M Unit := do
  let s ← get
  if !matrixShapes (s.qentry i) then raise tcVconfig (instrWord i)
  else if !s.hart.grant.holds (matrixNames i) then raise tcGrant (instrWord i)
  else pure ()

/-! ### Memory (R416, R417) -/

/-- What stops an access at an element, with the fault-list entries of its window. -/
structure RowStop where
  e : VElem
  stop : Stop
  faults : List PageFault

/-- The stop at an element that the pre-translator found at fault. -/
def earlyRow (w : Window) (e : VElem) (p : VPlace) : RowStop :=
  match p with
  | .misaligned => { e, stop := .trap tcMisaligned e.va, faults := [] }
  | .bound => { e, stop := .trap tcBound e.va, faults := [] }
  | _ => { e, stop := .trap tcPageFault e.va, faults := w.faults }

/-- Check elements window by window: those before the first that fails, and what stops there. -/
def gather (q : QEntry) (acc : Acc) (chk : VElem → VPlace → M VLoc) : Nat → List Span → List VElem → List (VElem × VLoc) → M (List (VElem × VLoc) × Option RowStop)
  | 0, _, _, done => return (done, none)
  | fuel + 1, spans, elems, done =>
    match elems with
    | [] => return (done, none)
    | _ => do
      let s ← get
      let w := s.windowFor acc q.pwb spans elems
      set w.s
      let items := w.items.reverse
      let pre := items.takeWhile fun x => !x.2.early
      let (ok, bad, _) ← untilFailure chk pre
      match bad, items.drop pre.length with
      | some (e, stop), _ => return (done ++ ok, some { e, stop, faults := [] })
      | none, (e, p) :: _ => return (done ++ ok, some (earlyRow w e p))
      | none, [] => gather q acc chk fuel [] w.rest (done ++ ok)

/-- Record the fault list and stop. -/
def stopRow {α : Type} (acc : Acc) (r : RowStop) (faults : List PageFault) : M α := do
  if faults.isEmpty then pure () else modify fun s => s.recordFaults acc faults
  throw r.stop

/-- All the elements, or the stop at the first that fails. -/
def gatherAll (q : QEntry) (acc : Acc) (chk : VElem → VPlace → M VLoc) (elems : List VElem) : M (List (VElem × VLoc)) := do
  let (l, bad) ← gather q acc chk (elems.length + 1) q.spans elems []
  match bad with
  | some r => stopRow acc r r.faults
  | none => return l

/-- Read elements in order. -/
def readElems (mode : VMode) : List (VElem × VLoc) → M (List (VElem × Nat × Bool))
  | [] => return []
  | (e, loc) :: l => do
    let (c, p) ← readElem mode e loc
    let r ← readElems mode l
    return (e, c, p) :: r

def writeElems (mode : VMode) : List ((VElem × VLoc) × Nat) → M Unit
  | [] => pure ()
  | ((e, loc), c) :: l => do
    writeElem mode e c loc
    writeElems mode l

def tldRun (q : QEntry) (d : Reg) : M Unit := do
  match q.shape (tileCode d) with
  | none => pure ()
  | some sh =>
    let mode : VMode := { store := false }
    let l ← gatherAll q .load (locate q false) (tileElems q.vec q.xa sh.ty 0 sh.rows sh.cols)
    allocateLines mode l
    let cs ← readElems mode l
    modify fun s => s.zeroWindow (s.hart.grant.tileOfs d) 0x4000
    modify fun s => cs.foldl (fun s x =>
      let at' := s.tileAt d x.1.k x.1.i sh.ty.width
      let s := s.putBits at' sh.ty.width x.2.1
      if x.2.2 then s.mark at' sh.ty.width else s) s

def tstRun (q : QEntry) (d : Reg) : M Unit := do
  match q.shape (tileCode d) with
  | none => pure ()
  | some sh =>
    let mode : VMode := { store := true }
    let w := sh.ty.width
    let l ← gatherAll q .store (fun e p => do
      let loc ← locate q true e p
      let s ← get
      if s.tileMarked d e.k e.i w then raise tcPoison e.va else return loc) (tileElems q.vec q.xa sh.ty 0 sh.rows sh.cols)
    let s ← get
    writeElems mode (l.map fun x => (x, s.tile d x.1.k x.1.i w))

/-! ### Products (R275, R418 to R420) -/

/-- One step of an accumulator element. -/
def macStep (t : Ty) (a b c : Nat) : Nat × Exc :=
  match t with
  | .fl f => fmt32.fma .rn (f.decode a) (f.decode b) (fmt32.decode c)
  | .int w sg => (narrow false 32 true (intVal w sg a * intVal w sg b + intVal 32 true c), {})

/-- Steps in order on one accumulator element, with their exceptions. -/
def macSteps (t : Ty) (c : Nat × Exc) (l : List (Nat × Nat)) : Nat × Exc :=
  l.foldl (fun r ab => let (v, x) := macStep t ab.1 ab.2 r.1; (v, r.2.or x)) c

/-- Steps `k0` to `k1 - 1` of a product of M × N elements into an accumulator. -/
def State.product (s : State) (d : Reg) (t : Ty) (m n k0 k1 : Nat) (a b : Nat → Nat → Nat) : State :=
  let ks := (List.range k1).filter (k0 ≤ ·)
  let rows := (List.range m).map fun i => (i, ks.map (a i))
  let cols := (List.range n).map fun j => (j, ks.map fun k => b k j)
  let cells := rows.flatMap fun r => cols.map fun c => ((r.1, c.1), macSteps t (s.acc d r.1 c.1, {}) (r.2.zip c.2))
  cells.foldl (fun s c => (s.putAcc d c.1.1 c.1.2 c.2.1).vflags c.2.2) s

/-- The marks that a product of M × N elements consumes, K step by K step: those of A and of B, and of the accumulator. -/
def State.productMarks (s : State) (d : Reg) (m n k0 k1 : Nat) (a : Nat → Nat → (Nat × Nat) × Bool) (b : Nat → Nat → (Nat × Nat) × Bool) :
    List ((Nat × Nat) × Bool) :=
  (((List.range k1).filter (k0 ≤ ·)).flatMap fun k => (List.range m).map (fun i => a i k) ++ (List.range n).map (fun j => b k j)) ++
  (List.range m).flatMap fun i => (List.range n).map fun j => ((i, j), s.accMarked d i j)

def mopRun (q : QEntry) (d a b : Reg) : M Unit := do
  match q.shape (tileCode a), q.shape (tileCode b) with
  | some x, some y =>
    let s ← get
    let w := x.ty.width
    consume (s.productMarks d x.rows y.cols 0 x.cols (fun i k => ((i, k), s.tileMarked a i k w)) (fun k j => ((k, j), s.tileMarked b k j w)))
    set (s.product d x.ty x.rows y.cols 0 x.cols (fun i k => s.tile a i k w) (fun k j => s.tile b k j w))
  | _, _ => pure ()

def mopsRun (q : QEntry) (d a b : Reg) : M Unit := do
  match q.shape (tileCode b) with
  | some y =>
    let s ← get
    let w := y.ty.width
    let m := q.vec.len + 1 - y.rows
    consume (s.productMarks d m y.cols 0 y.rows (fun i k => ((0, i + k), s.velMarked q.vec a.toNat (i + k))) (fun k j => ((k, j), s.tileMarked b k j w)))
    set (s.product d y.ty m y.cols 0 y.rows (fun i k => s.vel q.vec a.toNat (i + k)) (fun k j => s.tile b k j w))
  | none => pure ()

/-- The K steps of `mop.m` in order, from the located elements of B. -/
def streamSteps (d a : Reg) (sh : Shape) (n : Nat) (l : List (VElem × VLoc)) : List Nat → M Unit
  | [] => pure ()
  | k :: ks => do
    let cs ← readElems { store := false } (l.filter fun x => decide (x.1.k = k))
    match cs.find? (·.2.2) with
    | some x =>
      modify fun s => s.updUser fun u => { u with mstart := BitVec.ofNat 10 k }
      raise tcPoison x.1.va
    | none =>
      modify fun s => s.product d sh.ty sh.rows n k (k + 1) (fun i k => s.tile a i k sh.ty.width) (fun _ j => (cs[j]?).elim 0 (·.2.1))
      streamSteps d a sh n l ks

/-- `mop.m` (R420, R245): steps from MSTART; a faulting row stops it there. -/
def mopmRun (q : QEntry) (d a : Reg) : M Unit := do
  match q.shape (tileCode a) with
  | none => pure ()
  | some sh =>
    let s ← get
    let k0 := s.hart.user.mstart.toNat
    let n := q.vec.len
    let w := sh.ty.width
    consume (s.productMarks d sh.rows n k0 sh.cols (fun i k => ((i, k), s.tileMarked a i k w)) (fun k j => ((k, j), false)))
    let elems := tileElems q.vec q.xb sh.ty k0 sh.cols n
    let (l, bad) ← gather q .load (locate q false) (elems.length + 1) q.spans elems []
    let kEnd := bad.elim sh.cols (·.e.k)
    allocateLines { store := false } (l.filter fun x => decide (x.1.k < kEnd))
    streamSteps d a sh n l ((List.range kEnd).filter (k0 ≤ ·))
    match bad with
    | some r =>
      modify fun s => s.updUser fun u => { u with mstart := BitVec.ofNat 10 r.e.k }
      stopRow .load r (r.faults.map fun f => { f with row := 0, elem := f.row })
    | none => modify fun s => s.updUser fun u => { u with mstart := 0#10 }

/-! ### Moves (R421, R422) -/

def mclrRun (d : Reg) : M Unit := modify fun s => s.zeroWindow (s.hart.grant.accOfs d) 0x8000

/-- The positions that `accx` and `acci` move: (k, i) of the group and the accumulator's row. -/
def State.accGrid (s : State) (v : VecRegs) (r0 : Nat) : List (Nat × Nat) :=
  (s.activeGrid v).filter fun (k, i) => decide (r0 + k < 128) && decide (i < 64)

/-- An accumulator element as an element of a type (R270, R422). -/
def accValue (t : Ty) (c : Nat) : Nat × Exc :=
  match t with
  | .fl _ => (Ty.fl fmt32).operand false t c
  | .int .. => (Ty.int 32 true).cvt true t c
/-- An element as it enters an accumulator. -/
def accEntry (t : Ty) (c : Nat) : Nat × Exc :=
  match t with
  | .fl _ => t.operand false (.fl fmt32) c
  | .int .. => t.cvt true (.int 32 true) c

def accxRun (q : QEntry) (d a : Reg) : M Unit := do
  let s ← get
  let v := q.vec
  let r0 := q.xb.toNat
  let l := s.accGrid v r0
  consume (l.map fun (k, i) => ((r0 + k, i), s.accMarked a (r0 + k) i))
  set (s.putElems v d (l.map fun (k, i) => ((k, i), accValue (v.ty (d.toNat + k)) (s.acc a (r0 + k) i))))

def acciRun (q : QEntry) (d a : Reg) : M Unit := do
  let s ← get
  let v := q.vec
  let r0 := q.xb.toNat
  let l := s.accGrid v r0
  consume (l.map fun (k, i) => ((k, i), s.velMarked v (a.toNat + k) i))
  set (l.foldl (fun t (k, i) =>
    let (c, x) := accEntry (v.ty (a.toNat + k)) (s.vel v (a.toNat + k) i)
    (t.putAcc d (r0 + k) i c).vflags x) s)

end Sys2Proof.Machine
end

