-- ==== Sys2Proof/Machine/Special.lean ====
section
/-! DEFINITION. The five special functions (spec/10 R276, R277, spec/15 R395): the internal format E, the constants from their exact
formulas, and the algorithm. -/
namespace Sys2Proof.Machine
set_option Elab.async false

/-! ### The format E (R277): exact values rounded to a 64-bit significand, to nearest-even -/

/-- A finite value rounded to `p` significant bits. -/
def roundTo (p : Nat) : FVal → FVal
  | .fin n m e => if bitLen m ≤ p then .fin n m e else .fin n (roundShift .rn n m (bitLen m - p)).1 (e + (bitLen m - p : Nat))
  | v => v
def eRnd (v : FVal) : FVal := roundTo 64 v
def eMul (a b : FVal) : FVal := eRnd (a.mul b).1
def eAdd (a b : FVal) : FVal := eRnd (a.add .rn b).1
def eFma (a b c : FVal) : FVal := eRnd (a.fma .rn b c).1
def eDiv (a b : FVal) : FVal := eRnd (a.div 68 b).1
/-- Scaling by a power of two is exact. -/
def eScale (v : FVal) (k : Int) : FVal :=
  match v with
  | .fin n m e => .fin n m (e + k)
  | w => w
def eNat (n : Nat) : FVal := .fin false n 0
/-- p/q with a sticky bit below 80 bits. -/
def eRatio (neg : Bool) (p q : Nat) : FVal := ((FVal.fin neg p 0).div 80 (eNat q)).1

/-- e with |v| = m × 2^e and m in [1, 2), for a nonzero v, and m. -/
def eExp : FVal → Int
  | .fin _ m e => e + bitLen m - 1
  | _ => 0
def eSig : FVal → FVal
  | .fin _ m _ => .fin false m (1 - (bitLen m : Int))
  | v => v
/-- floor((m − base/den) × scale) of a value. -/
def eFloor (v : FVal) : Int :=
  match v with
  | .fin n m e => if 0 ≤ e then qInt n (m * 2 ^ e.toNat) else qInt n m / 2 ^ (-e).toNat
  | _ => 0

/-! ### Constants -/

/-- 2 × Σ (a/b)^(2i+1) / (2i+1) in units of 2^−256: the logarithm of (b + a)/(b − a). -/
def logSeries (a b : Nat) : Nat → Nat
  | 0 => 0
  | n + 1 => logSeries a b n + 2 ^ 257 * a ^ (2 * n + 1) / ((2 * n + 1) * b ^ (2 * n + 1))
/-- ln 2 in units of 2^−256. -/
def ln2Fix : Nat := logSeries 1 3 85
/-- A constant in units of 2^−256, rounded to E. -/
def eFix (neg : Bool) (v : Nat) : FVal := eRnd (.fin neg v (-256))

/-- (ln 2)^k in units of 2^−256. -/
def ln2Pow : Nat → Nat
  | 0 => 2 ^ 256
  | k + 1 => ln2Pow k * ln2Fix / 2 ^ 256
def fact : Nat → Nat
  | 0 => 1
  | n + 1 => (n + 1) * fact n

/-- c(k) of the exponential core. -/
def exCoef (k : Nat) : FVal := eFix false (ln2Pow k / fact k)
/-- T = 2^(j/64), rounded to E. -/
def exTable (j : Nat) : FVal :=
  if j = 0 then eNat 1
  else eRnd (.fin false (2 * isqrt (isqrt (isqrt (isqrt (isqrt (isqrt (2 ^ (j + 64 * 80))))))) + 1) (-81))
/-- c(k) of vlog2. -/
def lgCoef (k : Nat) : FVal := eRnd (eRatio (k % 2 = 0) (2 ^ 256) (k * ln2Fix))
/-- −log2 of a 12-bit seed r, rounded to E. -/
def lgTable (r : FVal) : FVal :=
  match r with
  | .fin _ m e =>
    -- r = p/q
    let p := m * 2 ^ e.toNat
    let q := 2 ^ (-e).toNat
    if p = q then .fin false 0 0
    else if p < q then eRnd (eRatio false (logSeries (q - p) (q + p) 70) ln2Fix)
    else eRnd (eRatio true (logSeries (p - q) (p + q) 70) ln2Fix)
  | v => v
/-- λ = log2(e), rounded to E. -/
def log2e : FVal := eRnd (eRatio false (2 ^ 256) ln2Fix)

/-- Σ x(i) × y(n − i) over rationals, as a fraction. -/
def convolve : List (Int × Nat) → List (Int × Nat) → Int × Nat
  | (a, b) :: xs, (c, d) :: ys =>
    let (p, q) := convolve xs ys
    let n := a * c * q + p * (b * d : Nat)
    let m := b * d * q
    let g := Nat.gcd n.natAbs m
    (n / g, m / g)
  | _, _ => (0, 1)

/-- The Taylor coefficients of tanh, the last first: b(0) = 1 and (2k + 1) b(k) = −Σ b(i) b(k − 1 − i). -/
def tanhCoefs : Nat → List (Int × Nat)
  | 0 => [(1, 1)]
  | k + 1 =>
    let l := tanhCoefs k
    let (p, q) := convolve l l.reverse
    (-p, q * (2 * k + 3)) :: l

/-! ### The algorithm -/

/-- Newton steps of vrcp. -/
def rcpSteps (m y : FVal) : Nat → FVal
  | 0 => y
  | s + 1 => rcpSteps m (eFma y (eFma m.negate y (eNat 1)) y) s

def eRcp (steps : Nat) (x : FVal) : FVal :=
  let m := eSig x
  let i := (eFloor (eScale (m.add .rn (eNat 1).negate).1 8)).toNat
  let y := roundTo 12 (eRatio false 512 (513 + 2 * i))
  let r := eScale (rcpSteps m y steps) (-(eExp x))
  if x.neg? then r.negate else r

def rsqrtSteps (m y : FVal) : Nat → FVal
  | 0 => y
  | s + 1 =>
    let h := eMul y y
    rsqrtSteps m (eFma (eScale y (-1)) (eFma m.negate h (eNat 1)) y) s

/-- 1/√(q/256) rounded to 12 bits. -/
def rsqrtSeed (q : Nat) : FVal :=
  let t := 2 ^ 168 / q
  let r := isqrt t
  roundTo 12 (.fin false (2 * r + 1) (-81))

def eRsqrt (steps : Nat) (x : FVal) : FVal :=
  let e := eExp x
  let odd := e % 2 ≠ 0
  let e := if odd then e - 1 else e
  let m := if odd then eScale (eSig x) 1 else eSig x
  let i := (eFloor (eScale (m.add .rn (eNat 1).negate).1 7)).toNat
  eScale (rsqrtSteps m (rsqrtSeed (257 + 2 * i)) steps) (-(e / 2))

/-- s := fma(s, f, c(k)) for k from D − 1 down to 1. -/
def horner (c : Nat → FVal) (f s : FVal) : Nat → FVal
  | 0 => s
  | k + 1 => horner c f (eFma s f (c (k + 1))) k

def eEx2 (deg : Nat) (u : FVal) : FVal :=
  let n := ((eScale u 6).toInt .rn).elim 0 (·.1)
  let f := (u.add .rn (eScale (.ofInt n) (-6)).negate).1
  let q := n / 64
  let t := exTable (n % 64).toNat
  let s := eMul (horner exCoef f (exCoef deg) (deg - 1)) f
  eScale (eFma t s t) q

/-- Order of values that are not NaN. -/
def FVal.lt (a b : FVal) : Bool := (a.cmp b).1

def eLog2 (nearDeg tabDeg : Nat) (x : FVal) : FVal :=
  let m0 := eSig x
  let big := !(m0.lt (.fin false 3 (-1)))
  let e := if big then eExp x + 1 else eExp x
  let m := if big then eScale m0 (-1) else m0
  let z0 := (m.add .rn (eNat 1).negate).1
  let mag := if z0.neg? then z0.negate else z0
  if mag.lt (.fin false 1 (-7)) then
    let s := horner lgCoef z0 (lgCoef nearDeg) (nearDeg - 1)
    eAdd (.ofInt e) (eMul s z0)
  else
    let i := (eFloor (eScale (m.add .rn (.fin true 3 (-2))).1 8)).toNat
    let r := roundTo 12 (eRatio false 512 (385 + 2 * i))
    let z := eFma m r (eNat 1).negate
    let s := horner lgCoef z (lgCoef tabDeg) (tabDeg - 1)
    eAdd (eAdd (.ofInt e) (lgTable r)) (eMul s z)

/-- The odd polynomial of vtanh: coefficients from the last but one down. -/
def tanhPoly (w s : FVal) : List (Int × Nat) → FVal
  | [] => s
  | (p, q) :: l => tanhPoly w (eFma s w (eRnd (eRatio (p < 0) p.natAbs q))) l

def eTanh (deg terms threshold : Nat) (x : FVal) : FVal :=
  let a := if x.neg? then x.negate else x
  let t :=
    if !(a.lt (eNat threshold)) then eNat 1
    else if a.lt (.fin false 1 (-1)) then
      let w := eMul a a
      match tanhCoefs (terms - 1) with
      | (p, q) :: l => eMul (tanhPoly w (eRnd (eRatio (p < 0) p.natAbs q)) l) a
      | [] => a
    else
      let g := eEx2 deg (eMul (eScale a 1) log2e)
      eAdd (eNat 1) (eDiv (eNat 2) (eAdd g (eNat 1))).negate
  if x.neg? then t.negate else t

/-! ### The instructions (R276, R395) -/

inductive SFun where
  | rcp | rsqrt | exp2 | log2 | tanh
  deriving DecidableEq, Repr

/-- The special cases of R276; none where the algorithm computes. -/
def SFun.special (g : SFun) (x : FVal) : Option (FVal × Exc) :=
  match x with
  | .nan s => some (nanResult s)
  | .inf n =>
    match g with
    | .rcp => some (.fin n 0 0, {})
    | .rsqrt => some (if n then invalidResult else (.fin false 0 0, {}))
    | .exp2 => some (if n then .fin false 0 0 else .inf false, {})
    | .log2 => some (if n then invalidResult else (.inf false, {}))
    | .tanh => some (.fin n 1 0, {})
  | .fin n m _ =>
    if m = 0 then
      match g with
      | .rcp | .rsqrt => some (.inf n, {})
      | .exp2 => some (.fin false 1 0, {})
      | .log2 => some (.inf true, {})
      | .tanh => some (.fin n 0 0, {})
    else if n && (g == .rsqrt || g == .log2) then some invalidResult
    else none

/-- The algorithm on the path of the operand: P64 for f64, P32 otherwise (R277). -/
def SFun.compute (g : SFun) (p64 : Bool) (x : FVal) : FVal :=
  match g with
  | .rcp => eRcp (if p64 then 3 else 2) x
  | .rsqrt => eRsqrt (if p64 then 3 else 2) x
  | .exp2 => eEx2 (if p64 then 10 else 6) x
  | .log2 => eLog2 (if p64 then 14 else 7) (if p64 then 10 else 5) x
  | .tanh => eTanh (if p64 then 10 else 6) (if p64 then 20 else 8) (if p64 then 22 else 10) x

/-- A special function of a code of a float format, rounded once to it. -/
def SFun.apply (g : SFun) (f : Fmt) (c : Nat) : Nat × Exc :=
  let x := f.decode c
  let (v, e) := (g.special x).getD (g.compute (f = fmt64) x, {})
  let (r, y) := f.encode .rn v
  (r, e.or y)

/-- One element: computed in f64 for an f64 operand, otherwise in f32 (R395). -/
def SFun.element (g : SFun) (ta td : Ty) (c : Nat) : Nat × Exc :=
  let f := if ta = .fl fmt64 then fmt64 else fmt32
  let (a, x0) := ta.cvt false (.fl f) c
  let (r, x1) := g.apply f a
  let (r, x2) := (Ty.fl f).cvt false td r
  (r, (x0.or x1).or x2)

def specialRun (q : QEntry) (g : SFun) (d a : Reg) : M Unit := do
  let s ← get
  let v := q.vec
  let act := s.activeGrid v
  consume (act.map fun (k, i) => ((k, i), s.velMarked v (a.toNat + k) i))
  set (s.putElems v d (act.map fun (k, i) => ((k, i), g.element (v.ty (a.toNat + k)) (v.ty (d.toNat + k)) (s.vel v (a.toNat + k) i))))

end Sys2Proof.Machine
end

