-- ==== Sys2Proof/Machine/VecPerm.lean ====
section
/-! DEFINITION. Permutes, reductions, scans, dot products, bit strings and predicate logic (spec/16, spec/10 R273, R274). -/
namespace Sys2Proof.Machine
set_option Elab.async false

/-! ### Permutes (R399 to R403) -/

/-- The value of a fill code in a type; none for `.keep` (R400). -/
def fillValue (t : Ty) (c : BitVec 3) : Option Nat :=
  match c.toNat, t with
  | 0, _ => some 0
  | 1, .fl f => some (f.encode .rn (.ofInt 1)).1
  | 1, .int .. => some 1
  | 2, .fl f => some (f.inf false)
  | 2, .int w sg => some (narrow false w sg (intMax w sg))
  | 3, .fl f => some (f.inf true)
  | 3, .int w sg => some (narrow false w sg (intMin w sg))
  | _, _ => none

/-- What a destination position receives: an element of the source row, a code of vd's type, or nothing. -/
inductive Move where
  | elem (j : Nat)
  | code (c : Nat)
  | keep
  deriving DecidableEq, Repr

/-- Move elements of va's rows to positions of vd's rows, converted between the tags (R400, R401). -/
def moveRun (q : QEntry) (d a : Reg) (sat : Bool) (l : List ((Nat × Nat) × Move)) : M Unit := do
  let s ← get
  let v := q.vec
  consume (l.filterMap fun ((k, _), m) => match m with | .elem j => some ((k, j), s.velMarked v (a.toNat + k) j) | _ => none)
  set (s.putElems v d (l.filterMap fun ((k, i), m) =>
    match m with
    | .elem j => some ((k, i), (v.ty (a.toNat + k)).cvt sat (v.ty (d.toNat + k)) (s.vel v (a.toNat + k) j))
    | .code c => some ((k, i), (c, {}))
    | .keep => none))

def fillMove (t : Ty) (c : BitVec 3) : Move :=
  match fillValue t c with
  | some v => .code v
  | none => .keep

def slideUpRun (q : QEntry) (d a : Reg) (l : BitVec 3) : M Unit := do
  let s ← get
  moveRun q d a false ((s.activeGrid q.vec).map fun (k, i) =>
    ((k, i), if q.xb.toNat ≤ i then .elem (i - q.xb.toNat) else fillMove (q.vec.ty (d.toNat + k)) l))

def slideDownRun (q : QEntry) (d a : Reg) (l : BitVec 3) : M Unit := do
  let s ← get
  moveRun q d a false ((s.activeGrid q.vec).map fun (k, i) =>
    ((k, i), if q.xb.toNat < q.vec.len - i then .elem (i + q.xb.toNat) else fillMove (q.vec.ty (d.toNat + k)) l))

def permRun (q : QEntry) (d a b : Reg) : M Unit := do
  let s ← get
  let v := q.vec
  let act := s.activeGrid v
  consume (act.map fun (k, i) => ((k, i), s.velMarked v (b.toNat + k) i))
  moveRun q d a false (act.map fun (k, i) =>
    let j := s.index v (b.toNat + k) i
    ((k, i), if 0 ≤ j ∧ j < v.len then .elem j.toNat else .code 0))

def compressRun (q : QEntry) (d a : Reg) : M Unit := do
  let s ← get
  let v := q.vec
  moveRun q d a false ((List.range v.rows).flatMap fun k => (s.activeCols v).zipIdx.map fun (j, i) => ((k, i), .elem j))

def convertRun (q : QEntry) (d a : Reg) (sat : BitVec 1) : M Unit := do
  let s ← get
  moveRun q d a (sat = 1#1) ((s.activeGrid q.vec).map fun (k, i) => ((k, i), .elem i))

/-- A scalar in the element's own float format is copied bit by bit: a NaN keeps its payload, and a signalling one sets no flag (DESIGN CHOICE,
unsafe: log entry 153). -/
def broadcastRun (q : QEntry) (d : Reg) : M Unit := do
  let s ← get
  let v := q.vec
  set (s.putElems v d ((s.activeGrid v).map fun (k, i) => ((k, i), scalarCode (v.ty (d.toNat + k)) false q.xb q.fb)))

/-- Row and element of a position word (R403). -/
def posRow (w : Word) : Nat := (w.extractLsb' 16 16).toNat
def posElem (w : Word) : Nat := (w.extractLsb' 0 16).toNat

/-- The scalar as `broadcastRun` copies it (DESIGN CHOICE, unsafe: log entry 153). -/
def insertRun (q : QEntry) (d : Reg) : M Unit := do
  let v := q.vec
  let k := posRow q.xb
  let i := posElem q.xb
  if k < v.rows ∧ i < v.len then
    modify fun s => s.putElems v d [((k, i), scalarCode (v.ty (d.toNat + k)) false q.xa q.fa)]
  else pure ()

/-! ### Reductions and scans (R404, R405) -/

/-- A value on its way through a tree, with the exceptions of everything below it. -/
abbrev Term := Nat × Exc

/-- One level of the tree of R273. -/
def pairUp {α : Type} (g : α → α → α) : List α → List α
  | a :: b :: l => g a b :: pairUp g l
  | l => l

/-- The tree of R273 over 2^n positions. -/
def treeSum {α : Type} (z : α) (g : α → α → α) : Nat → List α → α
  | 0, l => l.headD z
  | n + 1, l => treeSum z g n (pairUp g l)

/-- Exclusive prefixes of adjacent pairs from those of their sums (the down-sweep of R274). -/
def spread (g : Term → Term → Term) : List Term → List Term → List Term
  | e :: es, a :: _ :: l => e :: g a e :: spread g es l
  | _, _ => []

/-- The sweeps of R274 over 2^n positions: the exclusive prefixes, and the exceptions of the up-sweep. -/
def treeScan (g : Term → Term → Term) (ident : Nat) : Nat → List Term → List Term × Exc
  | 0, l => ([(ident, {})], (l.headD (0, {})).2)
  | n + 1, l =>
    let (es, x) := treeScan g ident n (pairUp g l)
    (spread g es l, x)

/-- log2 of P, the smallest power of two not below max(VL, 1) (R273). -/
def treeDepth (n : Nat) : Nat := if n ≤ 1 then 0 else Nat.log2 (n - 1) + 1

inductive RedOp where
  | sum | min | max | and | or
  deriving DecidableEq, Repr

/-- The operation type of a reduction over a tag; integer sums are formed modulo 2^64, read as the tag is signed (R405, R273). -/
def RedOp.type (op : RedOp) : Ty → Ty
  | .fl f => .fl (if f = fmt64 then fmt64 else fmt32)
  | .int w sg => if op = .sum then .int 64 sg else .int w sg

/-- The identity (R273). -/
def RedOp.identity (op : RedOp) (t : Ty) : Nat :=
  match op, t with
  | .min, .fl f => f.inf false
  | .max, .fl f => f.inf true
  | .min, .int w sg => narrow false w sg (intMax w sg)
  | .max, .int w sg => narrow false w sg (intMin w sg)
  | .and, t => 2 ^ t.width - 1
  | _, _ => 0

def RedOp.vop : RedOp → VOp
  | .sum => .add | .min => .min | .max => .max | .and => .and | .or => .or

/-- One node of the tree. -/
def RedOp.node (op : RedOp) (t : Ty) (a b : Term) : Term :=
  let (r, x) := op.vop.apply t false a.1 b.1 0
  (r, (a.2.or b.2).or x)

/-- The terms of a row, padded to 2^n positions. -/
def padTerms {α : Type} (n : Nat) (ident : α) (l : List α) : List α := l ++ List.replicate (2 ^ n - l.length) ident

/-- The terms of row k of a reduction. -/
def State.redTerms (s : State) (v : VecRegs) (op : RedOp) (a : Reg) (k : Nat) : List Term :=
  let ta := v.ty (a.toNat + k)
  let t := op.type ta
  v.cols.map fun i => if s.isActive v i then ta.operand false t (s.vel v (a.toNat + k) i) else (op.identity t, {})

/-- `vred` (R405). -/
def reduceRun (q : QEntry) (op : RedOp) (d a : Reg) : M Unit := do
  let s ← get
  let v := q.vec
  if v.len = 0 then pure ()
  else
    consume ((s.activeGrid v).map fun (k, i) => ((k, i), s.velMarked v (a.toNat + k) i))
    let n := treeDepth v.len
    set (s.putElems v d ((List.range v.rows).map fun k =>
      let t := op.type (v.ty (a.toNat + k))
      let (r, x) := treeSum (op.identity t, {}) (op.node t) n (padTerms n (op.identity t, {}) (s.redTerms v op a k))
      let (c, y) := t.cvt false (v.ty (d.toNat + k)) r
      ((k, 0), (c, x.or y))))

/-- The exceptions of every node of the two sweeps, also of those whose values no position below VL receives (DESIGN CHOICE, unsafe: log entry
152). -/
def sweepFlags (es : List Term) (up : Exc) : Exc := es.foldl (fun x e => x.or e.2) up

/-- `vscan` (R405). -/
def scanRun (q : QEntry) (op : RedOp) (d a : Reg) : M Unit := do
  let s ← get
  let v := q.vec
  if v.len = 0 then pure ()
  else
    consume ((s.activeGrid v).map fun (k, i) => ((k, i), s.velMarked v (a.toNat + k) i))
    let n := treeDepth v.len
    set (s.putElems v d ((List.range v.rows).flatMap fun k =>
      let t := op.type (v.ty (a.toNat + k))
      let xs := s.redTerms v op a k
      let (es, up) := treeScan (op.node t) (op.identity t) n (padTerms n (op.identity t, {}) xs)
      (List.zipWith (op.node t) es xs).zipIdx.map fun (y, i) =>
        let (c, z) := t.cvt false (v.ty (d.toNat + k)) y.1
        ((k, i), (c, (y.2.or z).or (sweepFlags es up)))))

/-- The operation type of `vdot` (R405). -/
def dotType (a b : Ty) : Ty :=
  match opTy a b with
  | .fl f => .fl (if f = fmt64 then fmt64 else fmt32)
  | t => t

/-- A float value on its way through the tree of `vdot`, with the exceptions of everything below it. -/
abbrev FTerm := FVal × Exc

/-- A value rounded once to a format. -/
def Fmt.rounded (f : Fmt) (v : FTerm) : FTerm :=
  let (c, x) := f.encode .rn v.1
  (f.decode c, v.2.or x)

/-- A float term of `vdot`: the product rounded to T, or, of two operands narrower than f32, exact (R273). -/
def dotFloat (ta tb : Ty) (f : Fmt) (a b : Nat) : FTerm :=
  let (x, e1) := ta.cvt false (.fl f) a
  let (y, e2) := tb.cvt false (.fl f) b
  let (p, e3) := (f.decode x).mul (f.decode y)
  let r : FTerm := (p, (e1.or e2).or e3)
  if ta.isFloat && tb.isFloat && decide (ta.width < 32) && decide (tb.width < 32) then r else f.rounded r
/-- A node of the tree: the sum in T, rounded once. -/
def Fmt.dotNode (f : Fmt) (a b : FTerm) : FTerm :=
  let (v, x) := a.1.add .rn b.1
  f.rounded (v, (a.2.or b.2).or x)
/-- A value converted to a tag (R270). -/
def Ty.ofVal (t : Ty) (v : FVal) : Nat × Exc :=
  match t with
  | .fl g => g.encode .rn v
  | .int w sg =>
    let (n, x) := v.toRange .rn (intMin w sg) (intMax w sg)
    (narrow false w sg n, x)

/-- An integer term of `vdot`: the product modulo 2^64 (R273). -/
def dotInt (ta tb : Ty) (w : Nat) (sg : Bool) (a b : Nat) : Term :=
  let t : Ty := .int w sg
  (narrow false 64 sg (intVal w sg (ta.cvt false t a).1 * intVal w sg (tb.cvt false t b).1), {})

/-- The result of a row of `vdot` in vd's tag, from the operands of its active positions. -/
def dotRow (ta tb td : Ty) (n : Nat) (l : List (Option (Nat × Nat))) : Term :=
  match dotType ta tb with
  | .fl f =>
    let zero : FTerm := (.fin false 0 0, {})
    let (v, x) := treeSum zero f.dotNode n (padTerms n zero (l.map fun p => p.elim zero fun ab => dotFloat ta tb f ab.1 ab.2))
    let (c, y) := td.ofVal v
    (c, x.or y)
  | .int w sg =>
    let t : Ty := .int 64 sg
    let (r, x) := treeSum (0, {}) (RedOp.sum.node t) n (padTerms n (0, {}) (l.map fun p => p.elim (0, {}) fun ab => dotInt ta tb w sg ab.1 ab.2))
    let (c, y) := t.cvt false td r
    (c, x.or y)

def dotRun (q : QEntry) (d a b : Reg) : M Unit := do
  let s ← get
  let v := q.vec
  if v.len = 0 then pure ()
  else
    consume ((s.activeGrid v).map fun (k, i) => ((k, i), s.velMarked v (a.toNat + k) i || s.velMarked v (b.toNat + k) i))
    set (s.putElems v d ((List.range v.rows).map fun k =>
      ((k, 0), dotRow (v.ty (a.toNat + k)) (v.ty (b.toNat + k)) (v.ty (d.toNat + k)) (treeDepth v.len) (v.cols.map fun i =>
        if s.isActive v i then some (s.vel v (a.toNat + k) i, s.vel v (b.toNat + k) i) else none))))

/-! ### Bit strings (R406, R407) -/

/-- The string of the first VL elements of a register. -/
def State.bitString (s : State) (v : VecRegs) (r : Nat) : Nat :=
  v.cols.foldl (fun t i => t + s.vel v r i * 2 ^ ((v.ty r).width * i)) 0

/-- A bit-string operation: the result string from n, s, A and D. -/
def stringRun (q : QEntry) (d a : Reg) (readsD : Bool) (g : (n s a d : Nat) → Nat) : M Unit := do
  let s ← get
  let v := q.vec
  consume (v.grid.map fun (k, i) => ((k, i), s.velMarked v (a.toNat + k) i || (readsD && s.velMarked v (d.toNat + k) i)))
  set (s.putElems v d ((List.range v.rows).flatMap fun k =>
    let w := (v.ty (a.toNat + k)).width
    let r := g (v.len * w) q.xb.toNat (s.bitString v (a.toNat + k)) (s.bitString v (d.toNat + k))
    v.cols.map fun i => ((k, i), (r / 2 ^ (w * i) % 2 ^ w, {}))))

def shiftLeftString (n s a _d : Nat) : Nat := if n ≤ s then 0 else a * 2 ^ s % 2 ^ n
def shiftRightString (n s a _d : Nat) : Nat := if n ≤ s then 0 else a / 2 ^ s
def funnelString (n s a d : Nat) : Nat := if 2 * n ≤ s then 0 else (d * 2 ^ n + a) / 2 ^ s % 2 ^ n

/-- The number of 1 bits among the low n. -/
def popNat (a : Nat) : Nat → Nat
  | 0 => 0
  | n + 1 => (a.testBit n).toNat + popNat a n

def popcountRun (q : QEntry) (d a : Reg) : M Unit := do
  let s ← get
  let v := q.vec
  if v.len = 0 then pure ()
  else
    consume (v.grid.map fun (k, i) => ((k, i), s.velMarked v (a.toNat + k) i))
    set (s.putElems v d ((List.range v.rows).map fun k =>
      let w := (v.ty (a.toNat + k)).width
      let c := (v.cols.map fun i => popNat (s.vel v (a.toNat + k) i) w).sum
      ((k, 0), ((Ty.int 64 true).cvt true (v.ty (d.toNat + k)) c |>.1, {}))))

/-! ### Predicates (R408) -/

/-- A predicate operation on two source groups. -/
def predRun (q : QEntry) (d a b : Reg) (g : Bool → Bool → Bool) : M Unit := do
  let s ← get
  let v := q.vec
  consume (v.grid.map fun (k, i) => ((k, i), s.pMarked v (a.toNat + k) i || s.pMarked v (b.toNat + k) i))
  set (s.putPbits v d (v.grid.map fun (k, i) => ((k, i), g (s.pbit v (a.toNat + k) i) (s.pbit v (b.toNat + k) i))))

def pnotRun (q : QEntry) (d a : Reg) : M Unit := predRun q d a a fun x _ => !x
def pmvRun (q : QEntry) (d a : Reg) : M Unit := predRun q d a a fun x _ => x

def psetRun (q : QEntry) (d : Reg) : M Unit :=
  modify fun s => s.putPbits q.vec d (q.vec.grid.map fun (k, i) => ((k, i), decide (i < q.xa.toNat)))

def pfirstRun (q : QEntry) (d a : Reg) : M Unit := do
  let s ← get
  let v := q.vec
  consume (v.grid.map fun (k, i) => ((k, i), s.pMarked v (a.toNat + k) i))
  set (s.putPbits v d ((List.range v.rows).flatMap fun k =>
    let first := v.cols.find? fun i => s.pbit v (a.toNat + k) i
    v.cols.map fun i => ((k, i), first == some i)))

end Sys2Proof.Machine
end

