-- ==== Sys2Proof/Machine/Queue.lean ====
section
/-! DEFINITION. The vector and the matrix queue: what an entry does, what it waits for, and how an instruction enters (spec/07
R178, spec/09 R236 to R242, spec/15 R373, R380, spec/16 R398, spec/17 R415). -/
namespace Sys2Proof.Machine
set_option Elab.async false

/-- The effect of a queued instruction. -/
def queueRun (q : QEntry) : M Unit :=
  match q.instr with
  | .vld d _ n o => vldRun q d n o false
  | .vst d _ n o => vstRun q d n o
  | .vldx d _ b n o => vldxRun q d b n o
  | .vstx d _ b n o => vstxRun q d b n o
  | .vldT d _ n o => vldRun q d n o true
  | .vstN d _ _ _ o => vstnRun q d o
  | .vpush a _ => vpushRun q a
  | .vpushT d a _ => vpushtRun q d a
  | .vadd d a b sat x => binaryRun q .add d a b sat x
  | .vsub d a b sat x => binaryRun q .sub d a b sat x
  | .vmul d a b sat x => binaryRun q .mul d a b sat x
  | .vfma d a b sat x => binaryRun q .fma d a b sat x
  | .vfms d a b sat x => binaryRun q .fms d a b sat x
  | .vdiv d a b sat x => binaryRun q .div d a b sat x
  | .vsqrt d a sat => unaryRun q .sqrt d a sat
  | .vmin d a b sat x => binaryRun q .min d a b sat x
  | .vmax d a b sat x => binaryRun q .max d a b sat x
  | .vabs d a sat => unaryRun q .abs d a sat
  | .vneg d a sat => unaryRun q .neg d a sat
  | .vand d a b sat x => binaryRun q .and d a b sat x
  | .vor d a b sat x => binaryRun q .or d a b sat x
  | .vxor d a b sat x => binaryRun q .xor d a b sat x
  | .vshl d a b sat x => binaryRun q .shl d a b sat x
  | .vshr d a b sat x => binaryRun q .shr d a b sat x
  | .vmulh d a b sat x => binaryRun q .mulh d a b sat x
  | .vsel d a b sat x => selectRun q d a b sat x
  | .vcmpEq d a b x => compareRun q .eq d a b x
  | .vcmpNe d a b x => compareRun q .ne d a b x
  | .vcmpLt d a b x => compareRun q .lt d a b x
  | .vcmpLe d a b x => compareRun q .le d a b x
  | .vcmpGt d a b x => compareRun q .gt d a b x
  | .vcmpGe d a b x => compareRun q .ge d a b x
  | .vcmpUn d a b x => compareRun q .un d a b x
  | .vrcp d a => specialRun q .rcp d a
  | .vrsqrt d a => specialRun q .rsqrt d a
  | .vexp2 d a => specialRun q .exp2 d a
  | .vlog2 d a => specialRun q .log2 d a
  | .vtanh d a => specialRun q .tanh d a
  | .vslup d a _ l => slideUpRun q d a l
  | .vsldn d a _ l => slideDownRun q d a l
  | .vperm d a b => permRun q d a b
  | .vcomp d a => compressRun q d a
  | .vbcast d _ => broadcastRun q d
  | .vins d _ _ => insertRun q d
  | .vcvt d a sat => convertRun q d a sat
  | .vredSum d a => reduceRun q .sum d a
  | .vredMin d a => reduceRun q .min d a
  | .vredMax d a => reduceRun q .max d a
  | .vredAnd d a => reduceRun q .and d a
  | .vredOr d a => reduceRun q .or d a
  | .vscanSum d a => scanRun q .sum d a
  | .vscanMin d a => scanRun q .min d a
  | .vscanMax d a => scanRun q .max d a
  | .vdot d a b => dotRun q d a b
  | .vbsl d a _ => stringRun q d a false shiftLeftString
  | .vbsr d a _ => stringRun q d a false shiftRightString
  | .vbfun d a _ => stringRun q d a true funnelString
  | .vbpopc d a => popcountRun q d a
  | .pand d a b => predRun q d a b (· && ·)
  | .por d a b => predRun q d a b (· || ·)
  | .pxor d a b => predRun q d a b (xor · ·)
  | .pandn d a b => predRun q d a b fun x y => x && !y
  | .pnot d a => pnotRun q d a
  | .pset d _ => psetRun q d
  | .pfirst d a => pfirstRun q d a
  | .pmv d a => pmvRun q d a
  | .tld d _ => tldRun q d
  | .tst d _ => tstRun q d
  | .mop d a b => mopRun q d a b
  | .mops d a b => mopsRun q d a b
  | .mopM d a _ => mopmRun q d a
  | .mclr d => mclrRun d
  | .accx d a _ => accxRun q d a
  | .acci d a _ => acciRun q d a
  | _ => stall

/-- The effect with the mailboxes it reads (R379, R415). -/
def runEntry (q : QEntry) : M Unit := withMailboxes q (queueRun q)

/-! ### Slices (spec/08 R221, spec/15 R396, spec/16 R410) -/

/-- A vector instruction whose accesses or pushes follow its slices, in the memory pipeline. -/
def Instr.isPipelined : Instr → Bool
  | .vld .. | .vst .. | .vldx .. | .vstx .. | .vldT .. | .vstN .. | .vpush .. | .vpushT .. => true
  | _ => false
/-- A combine slice follows the others. -/
def Instr.combines : Instr → Bool
  | .vredSum .. | .vredMin .. | .vredMax .. | .vredAnd .. | .vredOr .. | .vscanSum .. | .vscanMin .. | .vscanMax .. | .vdot .. => true
  | _ => false
/-- Lane-group cycles for 128 bits of work. -/
def Instr.workFactor : Instr → Nat
  | .vdiv .. | .vsqrt .. => 8
  | .vrcp .. | .vrsqrt .. | .vexp2 .. | .vlog2 .. | .vtanh .. => 4
  | .vperm .. | .vcomp .. | .vscanSum .. | .vscanMin .. | .vscanMax .. => 2
  | _ => 1
/-- The operation type of registers: of the first two, then with the third (R269). -/
def VecRegs.typeOf (v : VecRegs) : List Reg → Ty
  | [] => .int 0 false
  | a :: l => l.foldl (fun t r => opTy t (v.ty r.toNat)) (v.ty a.toNat)
/-- The type in which a reduction's tree is computed: float tags below f64 in f32, integer sums modulo 2^64 (R405). -/
def Ty.summed (t : Ty) (sum : Bool) : Ty :=
  match t with
  | .fl f => .fl (if f = fmt64 then fmt64 else fmt32)
  | .int w sg => if sum then .int 64 sg else .int w sg
/-- The type T of an instruction's first row, or the data tag of a memory instruction or a push (R396). -/
def VecRegs.workType (v : VecRegs) (i : Instr) : Ty :=
  match i with
  | .vldx d .. | .vstx d .. => v.ty d.toNat
  | .vfma d a b _ x | .vfms d a b _ x => v.typeOf (a :: srcB b x ++ [d])
  | .vsqrt _ a _ => (v.ty a.toNat).floatOnly
  | .vrcp _ a | .vrsqrt _ a | .vexp2 _ a | .vlog2 _ a | .vtanh _ a => .fl (if v.ty a.toNat = .fl fmt64 then fmt64 else fmt32)
  | .vredSum _ a | .vscanSum _ a => (v.ty a.toNat).summed true
  | .vredMin _ a | .vredMax _ a | .vredAnd _ a | .vredOr _ a | .vscanMin _ a | .vscanMax _ a => (v.ty a.toNat).summed false
  | .vdot _ a b => (v.typeOf [a, b]).summed true
  | .vperm _ a _ => v.ty a.toNat
  | .vbfun _ a _ => v.ty a.toNat
  | _ => v.typeOf (if (vuse i).vr.isEmpty then (vuse i).vw else (vuse i).vr)

/-- The work of an entry in lane-group cycles; a predicate instruction has its own count. -/
def QEntry.work (q : QEntry) : Nat :=
  let v := q.vec
  let u := vuse q.instr
  if u.vr.isEmpty && u.vw.isEmpty then v.rows * ((v.len + 2047) / 2048)
  else (v.len * v.rows * (v.workType q.instr).width + 127) / 128 * Instr.workFactor q.instr
/-- Its slices of 16 lane-group cycles, the combine slice among them. -/
def QEntry.sliceCount (q : QEntry) : Nat := max 1 ((q.work + 15) / 16) + (if Instr.combines q.instr then 1 else 0)
/-- All slices of an entry have been given to lane groups. -/
def QEntry.sliced (q : QEntry) : Bool := decide (q.sliceCount ≤ q.slices)

/-! ### What an entry waits for in the other queue (R164, R165, R415, R380) -/

/-- Instructions of the matrix queue. -/
def Instr.isMatrix : Instr → Bool
  | .tld .. | .tst .. | .mop .. | .mops .. | .mopM .. | .mclr .. | .accx .. | .acci .. => true
  | _ => false
def Instr.isAccx : Instr → Bool
  | .accx .. => true
  | _ => false
/-- Matrix instructions that use VL. -/
def Instr.usesVl : Instr → Bool
  | .mops .. | .mopM .. | .accx .. | .acci .. => true
  | _ => false

/-- Two entries access overlapping bytes, one of them storing, or the windows of one cluster (spec/01 R24), or both access SY pages. -/
def State.conflict (s : State) (q e : QEntry) : Bool :=
  let (l, st) := s.accesses q
  (l.any fun x =>
    match s.peekPa q.pwb q.drain x.va with
    | some a => s.entryTouches e a x.n st || (s.windowOf a).any (s.entryWindow e)
    | none => false) || (s.entrySy q && s.entrySy e)

/-- A matrix entry waits for earlier writers of the groups it reads or, for `accx`, writes; for the vector loads that may shorten
VL; and for conflicting accesses. -/
def State.matBlocked (s : State) (q : QEntry) : Bool :=
  let u := vuse q.instr
  let need := u.reads q.vec ++ (if Instr.isAccx q.instr then u.writes q.vec else [])
  (s.hart.vq.filter fun e => decide (e.seq < q.seq)).any fun e =>
    ((vuse e.instr).writes e.vec).any (need.contains ·) || (Instr.usesVl q.instr && Instr.isVecLoad e.instr) || s.conflict q e

/-- A vector entry waits for earlier `accx` of a group it reads or writes, for earlier readers of a group it writes, and for
conflicting accesses. -/
def State.vecBlocked (s : State) (q : QEntry) : Bool :=
  let u := vuse q.instr
  (s.hart.mq.filter fun e => decide (e.seq < q.seq)).any fun e =>
    let w := vuse e.instr
    (w.writes e.vec).any ((u.reads q.vec ++ u.writes q.vec).contains ·) || (w.reads e.vec).any ((u.writes q.vec).contains ·) ||
      s.conflict q e

/-! ### The head of a queue (R237, R242) -/

/-- The head leaves its queue, and what it held of plates given away is released (spec/03 R87). -/
def State.retireHead (s : State) (qk : BitVec 2) (q : QEntry) : State :=
  let s := s.updHart fun h => h.dropHead qk
  q.drain.foldl (fun s d => s.drainCheck d.2) s

/-- Mark the entry that raised a trap: its restart translates again (spec/01 R40), and its place in program order is kept (R238). -/
def Hart.markFaulted (h : Hart) (q : QEntry) : Hart :=
  let mark := fun (e : QEntry) => if e.seq = q.seq then { e with faulted := true, spans := [] } else e
  { h with vq := h.vq.map mark, mq := h.mq.map mark, trapFrom := if h.sup then h.trapFrom else some (q.pc, q.seq) }

/-- VSTART returns to 0 when a vector instruction completes (spec/01 R40). -/
def State.clearStart (s : State) : State := s.updVec fun v => { v with vstart := 0#32 }

/-- An entry waits for the other queue. -/
def State.blocked (s : State) (mat : Bool) (q : QEntry) : Bool := if mat then s.matBlocked q else s.vecBlocked q

/-- A queue's QK (R234). -/
def queueKind (mat : Bool) : BitVec 2 := if mat then 2#2 else 1#2

/-- The head of a queue. -/
def State.headOf (s : State) (mat : Bool) : Option QEntry := if mat then s.hart.mq.head? else s.hart.vq.head?

/-- The trap of a queue's entry. -/
def State.entryTrap (s : State) (mat : Bool) (q : QEntry) (c : BitVec 8) (a : Word) : State :=
  (s.updHart (·.markFaulted q)).takeTrap c a (queueKind mat) q.pc

/-- The state after the trap of the head of a queue, where it comes before an entry in program order and meets one (R261). -/
def State.earlierTrap (s : State) (mat : Bool) (seq : Nat) : Option State :=
  match s.headOf mat with
  | none => none
  | some q =>
    if seq ≤ q.seq ∨ s.blocked mat q = true then none
    else
      match runEntry q s with
      | .error (.trap c a) t => some (t.entryTrap mat q c a)
      | _ => none

/-- Perform an entry that stands at the head of its queue: whether it completed or trapped. One that waits leaves the step to others.
Where the heads of both queues meet a trap, the earlier one's is taken (R261). -/
def State.attemptEntry (s : State) (mat : Bool) (q : QEntry) : State × Bool :=
  if s.blocked mat q then (s, false)
  else
    match runEntry q s with
    | .ok _ t => ((if mat then t else t.clearStart).retireHead (queueKind mat) q, true)
    | .error (.trap c a) t => ((s.earlierTrap (!mat) q.seq).getD (t.entryTrap mat q c a), true)
    | .error _ t => (t, false)

/-- Attempt the head of a queue. -/
def State.attemptHead (s : State) (mat : Bool) : State × Bool :=
  match (if mat then s.hart.mq else s.hart.vq) with
  | [] => (s, false)
  | q :: _ => s.attemptEntry mat q

/-- The head of the vector queue is given one more slice. -/
def Hart.sliceHead (h : Hart) : Hart :=
  match h.vq with
  | [] => h
  | q :: l => { h with vq := { q with slices := q.slices + 1 } :: l }

/-- A lane group takes the next slice of the head of the vector queue. The last slice of an instruction that does not access memory
performs it. -/
def State.takeSlice (s : State) : State :=
  match s.headOf false with
  | none => s
  | some q => if Instr.isPipelined q.instr || decide (q.slices + 1 < q.sliceCount) then s.updHart (·.sliceHead) else (s.attemptHead false).1

/-- A vector instruction of which a lane group has taken a slice, and which does not access memory, runs to its end, in a queue that a trap has
frozen too (spec/08 R225, spec/09 R248, spec/16 R411). -/
def State.finishFlight (s : State) : State :=
  match (s.headOf false).filter fun q => decide (0 < q.slices) && !Instr.isPipelined q.instr && !q.faulted with
  | none => s
  | some q =>
    if !s.hart.frozen && !s.hart.sup then (s.attemptHead false).1
    else if s.blocked false q then s
    else
      match runEntry q s with
      | .ok _ t => t.retireHead 1#2 q
      | _ => s

/-! ### Entering a queue -/

/-- Destination or data group and index group overlap (R244). -/
def indexOverlap (q : QEntry) : Bool :=
  match q.instr with
  | .vldx d _ b _ _ | .vstx d _ b _ _ => (groupRegs q.vec.rows d).any ((groupRegs q.vec.rows b).contains ·)
  | _ => false

/-- The operation type of a shift or of `vmulh` is a float (R373). -/
def floatShift (v : VecRegs) (a b : Reg) (x : BitVec 1) : Bool :=
  !(v.rowTys a (if x = 1#1 then a else b) fun ta tb => !(opTy ta tb).isFloat)

/-- The other conditions of R373 and R398 on tags. -/
def tagsBad (q : QEntry) : Bool :=
  let v := q.vec
  match q.instr with
  | .vshl _ a b _ x | .vshr _ a b _ x | .vmulh _ a b _ x => floatShift v a b x
  | .vldx _ _ b _ _ | .vstx _ _ b _ _ | .vperm _ _ b => !v.noFloat b
  | .vredAnd _ a | .vredOr _ a => !v.noFloat a
  | .vbsl d a _ | .vbsr d a _ | .vbfun d a _ => !v.noFloat a || !v.rowTys d a fun td ta => td.width == ta.width
  | .vbpopc d _ => !v.rowTys d d fun td _ => !(td.isFloat && decide (td.width < 32))
  | _ => false

/-- The checks made before a vector instruction enters its queue, in the order of R239. -/
def vecCheck (i : Instr) : M Unit := do
  let s ← get
  let q := s.qentry i
  if indexOverlap q then illegal i
  else if !q.vec.admits (vuse i) || tagsBad q then raise tcVconfig (instrWord i)
  else
    match i with
    | .vpush .. | .vpushT .. => discard (needHart q.xb)
    | _ => pure ()

/-- The entries in the matrix queue of the executing hart's core (R178, R179). -/
def State.coreMatrixCount (s : State) : Nat :=
  s.hart.mq.length + (s.getHart (if s.cur % 2 = 0 then s.cur + 1 else s.cur - 1)).mq.length

/-- Room for one more entry. -/
def State.queueRoom (s : State) (mat : Bool) : Bool :=
  if mat then decide (s.coreMatrixCount < 8) else decide (s.hart.vq.length < 16)

def Hart.pushEntry (h : Hart) (mat : Bool) (q : QEntry) : Hart :=
  if mat then { h with mq := h.mq ++ [q] } else { h with vq := h.vq ++ [q] }

/-- Put an instruction that passed its checks into its queue and go on. -/
def State.enqueue (s : State) (mat : Bool) (q : QEntry) : State := (s.updHart fun h => h.pushEntry mat q).advance

/-- A supervisor's vector or matrix instruction completes before the next one issues (R240). -/
def runDirect (mat : Bool) (q : QEntry) : M Unit := do
  runEntry q
  modify fun s => if mat then s else s.clearStart

/-- Issue a vector or matrix instruction. -/
def issue (mat : Bool) (chk : M Unit) (i : Instr) (s : State) : Host.Outcome State Fault Refusal :=
  match chk s with
  | .ok _ t =>
    let q := t.qentry i
    if t.hart.sup then finish (runDirect mat q) t
    else if t.queueRoom mat then .next (t.enqueue mat q)
    else .next t
  | .error (.trap c a) t => .next (t.takeTrap c a 0#2 t.hart.pc)
  | .error _ t => .next t

def issueVec (i : Instr) (s : State) : Host.Outcome State Fault Refusal := issue false (vecCheck i) i s
def issueMat (i : Instr) (s : State) : Host.Outcome State Fault Refusal := issue true (matrixCheck i) i s

/-- `mwait` (R423). -/
def execMwait (s : State) : Host.Outcome State Fault Refusal := finish (waitEntries fun q => Instr.isMatrix q.instr) s

def execVld (d : Reg) (a : Reg) (n : BitVec 1) (o : BitVec 1) (s : State) : Host.Outcome State Fault Refusal := issueVec (.vld d a n o) s
def execVst (d : Reg) (a : Reg) (n : BitVec 1) (o : BitVec 1) (s : State) : Host.Outcome State Fault Refusal := issueVec (.vst d a n o) s
def execVldx (d : Reg) (a : Reg) (b : Reg) (n : BitVec 1) (o : BitVec 1) (s : State) : Host.Outcome State Fault Refusal := issueVec (.vldx d a b n o) s
def execVstx (d : Reg) (a : Reg) (b : Reg) (n : BitVec 1) (o : BitVec 1) (s : State) : Host.Outcome State Fault Refusal := issueVec (.vstx d a b n o) s
def execVldT (d : Reg) (a : Reg) (n : BitVec 1) (o : BitVec 1) (s : State) : Host.Outcome State Fault Refusal := issueVec (.vldT d a n o) s
def execVstN (d : Reg) (a : Reg) (b : Reg) (n : BitVec 1) (o : BitVec 1) (s : State) : Host.Outcome State Fault Refusal := issueVec (.vstN d a b n o) s
def execVpush (a : Reg) (b : Reg) (s : State) : Host.Outcome State Fault Refusal := issueVec (.vpush a b) s
def execVpushT (d : Reg) (a : Reg) (b : Reg) (s : State) : Host.Outcome State Fault Refusal := issueVec (.vpushT d a b) s
def execVadd (d : Reg) (a : Reg) (b : Reg) (sat : BitVec 1) (x : BitVec 1) (s : State) : Host.Outcome State Fault Refusal := issueVec (.vadd d a b sat x) s
def execVsub (d : Reg) (a : Reg) (b : Reg) (sat : BitVec 1) (x : BitVec 1) (s : State) : Host.Outcome State Fault Refusal := issueVec (.vsub d a b sat x) s
def execVmul (d : Reg) (a : Reg) (b : Reg) (sat : BitVec 1) (x : BitVec 1) (s : State) : Host.Outcome State Fault Refusal := issueVec (.vmul d a b sat x) s
def execVfma (d : Reg) (a : Reg) (b : Reg) (sat : BitVec 1) (x : BitVec 1) (s : State) : Host.Outcome State Fault Refusal := issueVec (.vfma d a b sat x) s
def execVfms (d : Reg) (a : Reg) (b : Reg) (sat : BitVec 1) (x : BitVec 1) (s : State) : Host.Outcome State Fault Refusal := issueVec (.vfms d a b sat x) s
def execVdiv (d : Reg) (a : Reg) (b : Reg) (sat : BitVec 1) (x : BitVec 1) (s : State) : Host.Outcome State Fault Refusal := issueVec (.vdiv d a b sat x) s
def execVsqrt (d : Reg) (a : Reg) (sat : BitVec 1) (s : State) : Host.Outcome State Fault Refusal := issueVec (.vsqrt d a sat) s
def execVmin (d : Reg) (a : Reg) (b : Reg) (sat : BitVec 1) (x : BitVec 1) (s : State) : Host.Outcome State Fault Refusal := issueVec (.vmin d a b sat x) s
def execVmax (d : Reg) (a : Reg) (b : Reg) (sat : BitVec 1) (x : BitVec 1) (s : State) : Host.Outcome State Fault Refusal := issueVec (.vmax d a b sat x) s
def execVabs (d : Reg) (a : Reg) (sat : BitVec 1) (s : State) : Host.Outcome State Fault Refusal := issueVec (.vabs d a sat) s
def execVneg (d : Reg) (a : Reg) (sat : BitVec 1) (s : State) : Host.Outcome State Fault Refusal := issueVec (.vneg d a sat) s
def execVand (d : Reg) (a : Reg) (b : Reg) (sat : BitVec 1) (x : BitVec 1) (s : State) : Host.Outcome State Fault Refusal := issueVec (.vand d a b sat x) s
def execVor (d : Reg) (a : Reg) (b : Reg) (sat : BitVec 1) (x : BitVec 1) (s : State) : Host.Outcome State Fault Refusal := issueVec (.vor d a b sat x) s
def execVxor (d : Reg) (a : Reg) (b : Reg) (sat : BitVec 1) (x : BitVec 1) (s : State) : Host.Outcome State Fault Refusal := issueVec (.vxor d a b sat x) s
def execVshl (d : Reg) (a : Reg) (b : Reg) (sat : BitVec 1) (x : BitVec 1) (s : State) : Host.Outcome State Fault Refusal := issueVec (.vshl d a b sat x) s
def execVshr (d : Reg) (a : Reg) (b : Reg) (sat : BitVec 1) (x : BitVec 1) (s : State) : Host.Outcome State Fault Refusal := issueVec (.vshr d a b sat x) s
def execVmulh (d : Reg) (a : Reg) (b : Reg) (sat : BitVec 1) (x : BitVec 1) (s : State) : Host.Outcome State Fault Refusal := issueVec (.vmulh d a b sat x) s
def execVsel (d : Reg) (a : Reg) (b : Reg) (sat : BitVec 1) (x : BitVec 1) (s : State) : Host.Outcome State Fault Refusal := issueVec (.vsel d a b sat x) s
def execVcmpEq (d : Reg) (a : Reg) (b : Reg) (x : BitVec 1) (s : State) : Host.Outcome State Fault Refusal := issueVec (.vcmpEq d a b x) s
def execVcmpNe (d : Reg) (a : Reg) (b : Reg) (x : BitVec 1) (s : State) : Host.Outcome State Fault Refusal := issueVec (.vcmpNe d a b x) s
def execVcmpLt (d : Reg) (a : Reg) (b : Reg) (x : BitVec 1) (s : State) : Host.Outcome State Fault Refusal := issueVec (.vcmpLt d a b x) s
def execVcmpLe (d : Reg) (a : Reg) (b : Reg) (x : BitVec 1) (s : State) : Host.Outcome State Fault Refusal := issueVec (.vcmpLe d a b x) s
def execVcmpGt (d : Reg) (a : Reg) (b : Reg) (x : BitVec 1) (s : State) : Host.Outcome State Fault Refusal := issueVec (.vcmpGt d a b x) s
def execVcmpGe (d : Reg) (a : Reg) (b : Reg) (x : BitVec 1) (s : State) : Host.Outcome State Fault Refusal := issueVec (.vcmpGe d a b x) s
def execVcmpUn (d : Reg) (a : Reg) (b : Reg) (x : BitVec 1) (s : State) : Host.Outcome State Fault Refusal := issueVec (.vcmpUn d a b x) s
def execVrcp (d : Reg) (a : Reg) (s : State) : Host.Outcome State Fault Refusal := issueVec (.vrcp d a) s
def execVrsqrt (d : Reg) (a : Reg) (s : State) : Host.Outcome State Fault Refusal := issueVec (.vrsqrt d a) s
def execVexp2 (d : Reg) (a : Reg) (s : State) : Host.Outcome State Fault Refusal := issueVec (.vexp2 d a) s
def execVlog2 (d : Reg) (a : Reg) (s : State) : Host.Outcome State Fault Refusal := issueVec (.vlog2 d a) s
def execVtanh (d : Reg) (a : Reg) (s : State) : Host.Outcome State Fault Refusal := issueVec (.vtanh d a) s
def execVslup (d : Reg) (a : Reg) (b : Reg) (l : BitVec 3) (s : State) : Host.Outcome State Fault Refusal := issueVec (.vslup d a b l) s
def execVsldn (d : Reg) (a : Reg) (b : Reg) (l : BitVec 3) (s : State) : Host.Outcome State Fault Refusal := issueVec (.vsldn d a b l) s
def execVperm (d : Reg) (a : Reg) (b : Reg) (s : State) : Host.Outcome State Fault Refusal := issueVec (.vperm d a b) s
def execVcomp (d : Reg) (a : Reg) (s : State) : Host.Outcome State Fault Refusal := issueVec (.vcomp d a) s
def execVbcast (d : Reg) (b : Reg) (s : State) : Host.Outcome State Fault Refusal := issueVec (.vbcast d b) s
def execVins (d : Reg) (a : Reg) (b : Reg) (s : State) : Host.Outcome State Fault Refusal := issueVec (.vins d a b) s
def execVcvt (d : Reg) (a : Reg) (sat : BitVec 1) (s : State) : Host.Outcome State Fault Refusal := issueVec (.vcvt d a sat) s
def execVredSum (d : Reg) (a : Reg) (s : State) : Host.Outcome State Fault Refusal := issueVec (.vredSum d a) s
def execVredMin (d : Reg) (a : Reg) (s : State) : Host.Outcome State Fault Refusal := issueVec (.vredMin d a) s
def execVredMax (d : Reg) (a : Reg) (s : State) : Host.Outcome State Fault Refusal := issueVec (.vredMax d a) s
def execVredAnd (d : Reg) (a : Reg) (s : State) : Host.Outcome State Fault Refusal := issueVec (.vredAnd d a) s
def execVredOr (d : Reg) (a : Reg) (s : State) : Host.Outcome State Fault Refusal := issueVec (.vredOr d a) s
def execVscanSum (d : Reg) (a : Reg) (s : State) : Host.Outcome State Fault Refusal := issueVec (.vscanSum d a) s
def execVscanMin (d : Reg) (a : Reg) (s : State) : Host.Outcome State Fault Refusal := issueVec (.vscanMin d a) s
def execVscanMax (d : Reg) (a : Reg) (s : State) : Host.Outcome State Fault Refusal := issueVec (.vscanMax d a) s
def execVdot (d : Reg) (a : Reg) (b : Reg) (s : State) : Host.Outcome State Fault Refusal := issueVec (.vdot d a b) s
def execVbsl (d : Reg) (a : Reg) (b : Reg) (s : State) : Host.Outcome State Fault Refusal := issueVec (.vbsl d a b) s
def execVbsr (d : Reg) (a : Reg) (b : Reg) (s : State) : Host.Outcome State Fault Refusal := issueVec (.vbsr d a b) s
def execVbfun (d : Reg) (a : Reg) (b : Reg) (s : State) : Host.Outcome State Fault Refusal := issueVec (.vbfun d a b) s
def execVbpopc (d : Reg) (a : Reg) (s : State) : Host.Outcome State Fault Refusal := issueVec (.vbpopc d a) s
def execPand (d : Reg) (a : Reg) (b : Reg) (s : State) : Host.Outcome State Fault Refusal := issueVec (.pand d a b) s
def execPor (d : Reg) (a : Reg) (b : Reg) (s : State) : Host.Outcome State Fault Refusal := issueVec (.por d a b) s
def execPxor (d : Reg) (a : Reg) (b : Reg) (s : State) : Host.Outcome State Fault Refusal := issueVec (.pxor d a b) s
def execPandn (d : Reg) (a : Reg) (b : Reg) (s : State) : Host.Outcome State Fault Refusal := issueVec (.pandn d a b) s
def execPnot (d : Reg) (a : Reg) (s : State) : Host.Outcome State Fault Refusal := issueVec (.pnot d a) s
def execPset (d : Reg) (a : Reg) (s : State) : Host.Outcome State Fault Refusal := issueVec (.pset d a) s
def execPfirst (d : Reg) (a : Reg) (s : State) : Host.Outcome State Fault Refusal := issueVec (.pfirst d a) s
def execPmv (d : Reg) (a : Reg) (s : State) : Host.Outcome State Fault Refusal := issueVec (.pmv d a) s
def execTld (d : Reg) (a : Reg) (s : State) : Host.Outcome State Fault Refusal := issueMat (.tld d a) s
def execTst (d : Reg) (a : Reg) (s : State) : Host.Outcome State Fault Refusal := issueMat (.tst d a) s
def execMop (d : Reg) (a : Reg) (b : Reg) (s : State) : Host.Outcome State Fault Refusal := issueMat (.mop d a b) s
def execMops (d : Reg) (a : Reg) (b : Reg) (s : State) : Host.Outcome State Fault Refusal := issueMat (.mops d a b) s
def execMopM (d : Reg) (a : Reg) (b : Reg) (s : State) : Host.Outcome State Fault Refusal := issueMat (.mopM d a b) s
def execMclr (d : Reg) (s : State) : Host.Outcome State Fault Refusal := issueMat (.mclr d) s
def execAccx (d : Reg) (a : Reg) (b : Reg) (s : State) : Host.Outcome State Fault Refusal := issueMat (.accx d a b) s
def execAcci (d : Reg) (a : Reg) (b : Reg) (s : State) : Host.Outcome State Fault Refusal := issueMat (.acci d a b) s

end Sys2Proof.Machine
end

