-- ==== Sys2Proof/Machine/System.lean ====
section
/-! DEFINITION. System instructions and the translation invalidation (spec/13 R347, R348, spec/09 R238, R252, spec/07 R192, spec/01
R45, R46). -/
namespace Sys2Proof.Machine
set_option Elab.async false

/-! ### ecall, ebreak, sret, uret -/

def execEcall (s : State) : Host.Outcome State Fault Refusal := finish (raise tcEcall 0#64) s
def execEbreak (s : State) : Host.Outcome State Fault Refusal := finish (raise tcEbreak 0#64) s

/-- A remote store that timed out is performed again at its home (R238, QK = 3 with SKIP = 0). -/
def State.sendAgain (s : State) : State :=
  let t := s.hart.trap
  match (if t.qk = 3#2 then s.hart.resend.find? fun r => r.1 == t.trpc else none) with
  | some r =>
    let s := s.updHart fun h => { h with resend := h.resend.erase r }
    if t.skip then s else s.engineWrite (keySlot s.hart.ctx) r.2.1 r.2.2
  | none => s

/-- The return from a trap: a faulted entry goes on with its operands as they stand now (R243), and entries that leave a queue release
what they held (spec/03 R87). -/
def State.returnFromTrap (s : State) : State :=
  let s := s.sendAgain
  let s := if s.hart.trap.prior then s else s.updHart fun h => { h with vq := h.vq.map s.requeue, mq := h.mq.map s.requeue }
  let before := s.hart.vq ++ s.hart.mq
  let s := s.updHart (·.sret)
  let after := s.hart.vq ++ s.hart.mq
  s.releaseDrains (before.filter fun q => !(after.any fun r => r.seq == q.seq))

def sretBody : M Unit := do
  needSup .sret
  modify (·.returnFromTrap)

def execSret (s : State) : Host.Outcome State Fault Refusal := finishPc sretBody s

/-- The running orbit and station whose task a hart runs (spec/07 R206). -/
def State.taskOf (s : State) (h : Nat) : Option (Nat × Nat) :=
  (s.disp.orbits.filterMap fun o =>
    if o.2.state = 2#2 ∧ o.2.ctx = (s.getHart h).ctx then (o.2.stations.findIdx? fun t => decide (t.hart = h) && t.task).map fun k => (o.1, k) else none).head?

/-- x4 to x6 as they were kept aside (R252). -/
def Hart.backTask (h : Hart) : Hart := ((h.setX 4#5 h.irq.keep4).setX 5#5 h.irq.keep5).setX 6#5 h.irq.keep6

/-- The return from a user handler (R252). -/
def State.returnFromHandler (s : State) : State :=
  let s := if s.hart.irq.cause = 3#4 then
      let s := s.updHart (·.backTask)
      (s.taskOf s.cur).elim s fun t => s.taskEnded t.1 t.2
    else s
  s.updHart fun h => { h with irq := { h.irq with inh := false }, pc := h.irq.xepc }

def uretBody : M Unit := do
  let s ← get
  if s.hart.sup || !s.hart.irq.inh then illegal .uret else set s.returnFromHandler

def execUret (s : State) : Host.Outcome State Fault Refusal := finishPc uretBody s

/-! ### halt (R192) -/

/-- A hart is a station of a running orbit of its context. -/
def State.inOrbit (s : State) (h : Nat) : Bool :=
  s.disp.orbits.any fun o => o.2.state == 2#2 && o.2.ctx == (s.getHart h).ctx && o.2.stations.any fun t => decide (t.hart = h)
/-- Copies that a hart pushed and that have not ended. -/
def State.copying (s : State) (h : Nat) : Bool := (s.cluster (clusterOf h)).copies.any fun c => decide (c.hart = h)

/-- Hart `n` of a launch, by its logical number, has retired: the launch counts it, and the last one completes the launch (R193). -/
def State.countHalt (s : State) (l : Option Nat) (n : Nat) : State :=
  match l.bind fun l => s.disp.launches.find? fun x => decide (x.1 = l) with
  | none => s
  | some (k, r) =>
    let r := { r with done := n :: r.done }
    let s := s.updDisp fun d => { d with launches := d.launches.set k r }
    if r.allDone then s.after [(.launchComplete, { unit := BitVec.ofNat 32 k })] else s

/-- The retirement of the executing hart, once it has drained (R192, steps 3 to 6). -/
def State.retireHart (s : State) : State :=
  let h := s.cur
  let (l, n) := (s.hart.launch, s.hart.logical)
  let s := ((s.release h 3#2 0xFFFE#16).flushPrivate h fun _ => true).disownAll h
  (s.freeHart h).countHalt l n

def haltBody : M Unit := do
  waitQueues
  let s ← get
  if s.copying s.cur || s.inOrbit s.cur then stall else set s.retireHart

def execHalt (s : State) : Host.Outcome State Fault Refusal := finishPc haltBody s

/-! ### icinv (R348) -/

def execIcinv (s : State) : Host.Outcome State Fault Refusal :=
  finish (modify fun s => s.setCore (coreOf s.cur) { s.core (coreOf s.cur) with l1i := [] }) s

/-! ### tlbinv (R45, R46) -/

/-- A leaf maps an address. -/
def TlbEntry.maps (e : TlbEntry) (va : Word) : Bool := e.vpn == ((va.extractLsb' 12 52) >>> (9 * e.level) <<< (9 * e.level))

/-- An entry that an invalidation drops; sequencer TLBs make no exception for global entries. -/
def TlbEntry.dropped (e : TlbEntry) (seq : Bool) (kind : Nat) (ctx : BitVec 16) (va : Word) : Bool :=
  if kind = 0 then canonical va && e.maps va && (e.ctx == ctx || (!seq && e.attr.g))
  else if kind = 1 then e.ctx == ctx && (seq || !e.attr.g)
  else if kind = 2 then e.ctx == ctx || (!seq && e.attr.g)
  else true

/-- A pointer entry stands on a context's walk of an address. -/
def WalkEntry.serves (e : WalkEntry) (ctx : BitVec 16) (va : Word) : Bool := e.ctx == ctx && e.index == (va >>> (12 + 9 * e.level)).setWidth 9
/-- The tables that the entries of a walk cache give for the walk of an address, from a table at a level down, with their levels. -/
def walkTables (l : List WalkEntry) (ctx : BitVec 16) (va : Word) : Nat → Nat → List (Nat × Nat)
  | 0, table => [(0, table)]
  | n + 1, table => (n + 1, table) :: (l.find? fun e => e.serves ctx va && decide (e.level = n + 1) && decide (e.table = table)).elim []
      fun e => walkTables l ctx va n (e.next.toNat * 4096)
/-- A pointer entry that an invalidation drops: for a page, those of its walk from the table `root`; below a table whose pointer is not cached,
all those at the indices of the walk (log entry 80). -/
def WalkEntry.dropped (e : WalkEntry) (l : List WalkEntry) (kind : Nat) (ctx : BitVec 16) (va : Word) (root : Nat) : Bool :=
  if kind = 0 then canonical va && e.serves ctx va &&
    (match (walkTables l ctx va 3 root).find? fun t => decide (t.1 = e.level) with
      | some t => decide (t.2 = e.table)
      | none => true)
  else true

/-- Drop what an invalidation names in the structures of a die and of its I/O die. -/
def State.tlbDrop (s : State) (die kind : Nat) (ctx : BitVec 16) (va : Word) (root : Nat) : State :=
  let keep := fun (l : List TlbEntry) => l.filter fun e => !e.dropped false kind ctx va
  let iod := iodOf die
  s.updMem fun m =>
    { m with
      cores := m.cores.map fun c => if c.1 / 128 = die then (c.1, { c.2 with itlb := keep c.2.itlb, dtlb := keep c.2.dtlb }) else c
      clusters := m.clusters.map fun c => if c.1 / 16 = die then (c.1, { c.2 with pre := keep c.2.pre }) else c
      walkCache := m.walkCache.map fun w => if w.1 = iod then (w.1, w.2.filter fun e => !e.dropped w.2 kind ctx va root) else w
      seqTlb := m.seqTlb.map fun w => if w.1 = iod then (w.1, w.2.filter fun e => !e.dropped true kind ctx va) else w }

/-- The messages of a `tlbinv`, one for each die reached. -/
def State.tlbMessages (s : State) (va sel : Word) : List (Instr × Msg) :=
  let kind := sel.extractLsb' 0 2
  (if kind = 3#2 then List.range 8 else (s.ctx s.hart.ctx.toNat).dies).map fun d =>
    (.tlbInvalidateMsg, { die := BitVec.ofNat 3 d, kind := kind.zeroExtend 8, addr := va, value := zext s.hart.ctxid, value2 := s.hart.sregs.sptb, hart := BitVec.ofNat 11 s.cur })

/-- Retire once every acknowledgement has arrived. -/
def tlbWait : M Unit := do
  let s ← get
  if s.hart.acks.tlb = 0 then set (s.updHart (·.release)) else stall

def tlbinvBody (a b : Reg) : M Unit := do
  let s ← get
  let sel := s.xr b
  if sel.extractLsb' 2 62 ≠ 0#62 then illegal (.tlbinv a b)
  else
    needSup (.tlbinv a b)
    match s.hart.heldHere with
    | some .tlbinv => tlbWait
    | _ =>
      doRelease 2#2 0xFFFE#16
      let s ← get
      let l := s.tlbMessages (s.xr a) sel
      set ((s.updHart fun h => { h.keep .tlbinv with acks := { h.acks with tlb := h.acks.tlb + l.length } }).after l)
      tlbWait

def execTlbinv (a b : Reg) (s : State) : Host.Outcome State Fault Refusal := finish (tlbinvBody a b) s

/-- A hart of a die has an access translated through a leaf that an invalidation drops, which is still to be performed (R46, step 4). -/
def State.translated (s : State) (die kind : Nat) (ctx : BitVec 16) (va : Word) : Bool :=
  s.hartIds.any fun h =>
    let x := s.getHart h
    decide (dieOfHart h = die) && x.phase != .idle && (((x.vq ++ x.mq).flatMap (·.spans)) ++ x.window).any fun p => p.leaf.any fun e => e.dropped false kind ctx va

/-- The recipients of a die drop the matching entries (R46, step 3), and its clusters acknowledge once every access translated through a
dropped entry is performed (step 4); `flag` marks a message whose entries have been dropped. -/
def State.tlbRecipient (s : State) (m : Msg) : State :=
  let (die, kind, ctx) := (m.die.toNat, m.kind.toNat % 4, m.value.setWidth 16)
  let s := if m.flag then s else s.tlbDrop die kind ctx m.addr ((m.value2.extractLsb' 16 40).toNat * 4096)
  if s.translated die kind ctx m.addr then s.after [(.tlbInvalidateMsg, { m with flag := true })]
  else s.after [(.tlbInvalidateAck, { hart := m.hart })]

def execTlbInvalidateMsg (s : State) : Host.Outcome State Fault Refusal := finishEvent (modify fun s => s.tlbRecipient s.msg) s

/-- An acknowledgement arrives (R46, step 5). -/
def execTlbInvalidateAck (s : State) : Host.Outcome State Fault Refusal :=
  finishEvent (msgHart fun s h => s.updHartN h fun x => { x with acks := { x.acks with tlb := x.acks.tlb - 1 } }) s

end Sys2Proof.Machine
end

