-- ==== Sys2Proof/Machine/Klaunch.lean ====
section
/-! DEFINITION. Launch queues as the agents and `klaunch` read them, and `klaunch` (spec/08 R215, spec/13 R349, R350). -/
namespace Sys2Proof.Machine
set_option Elab.async false

/-! ### Queue-table entries (R215) -/

/-- An entry of the queue table: disabled, malformed, or a ring with its control block's physical address and VA. -/
inductive QueueEntry where
  | disabled
  | malformed
  | ready (ring : Word) (size ctrl : Nat) (ctrlVa : Word)
  deriving DecidableEq, Repr

/-- A power of two from 1 to 65,536. -/
def ringSizes : List Nat := [1, 2, 4, 8, 16, 32, 64, 128, 256, 512, 1024, 2048, 4096, 8192, 16384, 32768, 65536]

/-- The physical address of queue-table entry q. -/
def QueueView.entryPa (v : QueueView) (q : Nat) : Nat := (v.qtab.extractLsb' 11 41).toNat * 2048 + 32 * q

/-- Read queue-table entry q. The VAs of a queue that is disabled by its size are not translated. A poisoned entry is malformed, and a DCQTAB
that names no local HBM disables every queue (DESIGN CHOICE, unsafe: log entry 157). -/
def State.queueEntry (s : State) (v : QueueView) (q : Nat) : State × QueueEntry :=
  let pa := v.entryPa q
  if !v.qtab.getLsbD 0 || !isHbm (laOf pa) || decide (devOf pa ≠ v.dev) then (s, .disabled)
  else
    let (b, psn) := s.engineRead v.slot (dieOf (laOf pa)) pa 32
    let size := leNat ((b.drop 8).take 4)
    let ring : Word := BitVec.ofNat 64 (leNat (b.take 8))
    let ctrl : Word := BitVec.ofNat 64 (leNat ((b.drop 16).take 8))
    if psn || (size != 0 && !ringSizes.contains size) || ring.extractLsb' 0 8 != 0#8 || ctrl.extractLsb' 0 5 != 0#5 ||
        leNat ((b.drop 12).take 4) != 0 || leNat (b.drop 24) != 0 then (s, .malformed)
    else if size = 0 then (s, .disabled)
    else
      match s.seqTranslate v ring with
      | (s, none) => (s, .malformed)
      | (s, some _) =>
        match s.seqHbm v ctrl with
        | (s, some (pa, attr)) => (s, if attr.sy then .ready ring size pa ctrl else .malformed)
        | (s, none) => (s, .malformed)

/-- The VA of record k of a ring. -/
def recordVa (ring : Word) (size : Nat) (k : Word) : Word := ring + BitVec.ofNat 64 (256 * (k.toNat % size))

/-- An agent's read of HBM by VA waits: for a walk, or at the line's home. -/
def State.seqWaits (s : State) (v : QueueView) (va : Word) : Bool :=
  s.walkHeld { ctx := v.ctx, slot := v.slot, sptb := v.ptb, sup := true, iod := v.iod } v.iod .sequencer .load va ||
    (s.seqHbm v va).2.any fun x => s.homeWaits v.slot (dieOf (laOf x.1)) x.1

/-- An agent's read of a queue's entry, its control block or its head record waits (spec/02 R53 to R60, spec/21 R477). -/
def State.queueWaits (s : State) (v : QueueView) (q : Nat) : Bool :=
  let pa := v.entryPa q
  (v.qtab.getLsbD 0 && isHbm (laOf pa) && s.homeWaits v.slot (dieOf (laOf pa)) pa) ||
    match s.queueEntry v q with
    | (s, .ready ring size ctrl ctrlVa) => s.seqWaits v ctrlVa || s.seqWaits v (recordVa ring size (BitVec.ofNat 64 (s.syRead v.slot ctrl).2.1))
    | _ => false

/-! ### klaunch (R349, R350) -/

/-- The result of `klaunch`. -/
def klaunchResult (k : Word) (status : Nat) : Word := k <<< 8 ||| BitVec.ofNat 64 status

/-- A 64-bit SY write at home. -/
def State.syWrite (s : State) (slot pa : Nat) (v : Word) : State := ((s.homeTake slot pa 8).1).homePut slot pa (toBytes 8 v.toNat)

/-- The key slot under which a hart's kept `klaunch` acts: its context's, in whose place another device uses its own (spec/02 R64). -/
def State.klaunchSlot (s : State) (h : Nat) : Nat := keySlot (s.getHart h).ctx

/-- Steps 5 to 7 as far as they go now for a kept `klaunch` of hart h. -/
def State.klaunchSteps (s : State) (h : Nat) (k : Word) (ctrl slotPa : Nat) (image : List Byte) (stage : Nat) (parked : Bool) : State × Kept :=
  let key := s.klaunchSlot h
  let (s, stage) := (if stage = 0 then
      let (s, w, _) := s.syRead key (slotPa + 0x78)
      if w = 1 then (s, 0) else (s.engineWrites key slotPa (putBytes image 0x78 (List.replicate 8 0#8)), 1)
    else (s, stage))
  if stage ≠ 1 then (s, .klaunch k ctrl slotPa image stage parked)
  else
    let pa := ctrl + 8
    let (s, w, _) := s.syRead key pa
    let home := s.homeKey pa
    let mine := fun (p : Park) => decide (p.pa = pa) && decide (p.hart = h) && p.launch
    if BitVec.ofNat 64 w = k then
      let s := s.syWrite key pa (k + 1#64)
      let x := s.slice home
      let x := { x with parks := x.parks.filter fun p => !mine p }
      let s := s.setSlice home x
      let s := match x.parks.find? fun p => decide (p.pa = pa) && p.launch && p.ticket == k + 1#64 with
        | some p => s.after [(.klaunchPoll, { hart := BitVec.ofNat 11 p.hart })]
        | none => s
      (s, .klaunch k ctrl slotPa image 2 false)
    else
      let x := s.slice home
      if parked || x.parks.any mine then (s, .klaunch k ctrl slotPa image 1 true)
      else if x.parkFull then (s, .klaunch k ctrl slotPa image 1 false)
      else (s.setSlice home { x with parks := x.parks ++ [{ pa, ticket := k, hart := h, launch := true }] }, .klaunch k ctrl slotPa image 1 true)

/-- A poll of the kept `klaunch` records of a hart. -/
def State.pollLaunches (s : State) (h : Nat) : State :=
  (s.getHart h).held.foldl (fun s y =>
    match y.kept with
    | .klaunch k ctrl slotPa image stage parked =>
      let (s, n) := s.klaunchSteps h k ctrl slotPa image stage parked
      s.updHartN h fun x => { x with held := x.held.map fun z => if z = y then { z with kept := n } else z }
    | _ => s) s

/-- The end of a `klaunch` whose record is accepted. -/
def klaunchWait (d : Reg) : M Unit := do
  modify fun s => s.pollLaunches s.cur
  let s ← get
  match s.hart.heldHere with
  | some (.klaunch k _ _ _ 2 _) => set ((s.updHart (·.release)).setX d (klaunchResult k 0))
  | _ => stall

/-- The template's lines as a load finds them. -/
def templatePlaces (va : Word) : Nat → M (List Place)
  | 0 => return []
  | n + 1 => do
    let p ← accessCheck .load va 64
    let r ← templatePlaces (va + 64#64) n
    return p :: r

/-- The queue table that a selector names: none where its coordinate is refused or the context is not on that device. -/
def State.klaunchView (s : State) (sel : Word) : Option QueueView :=
  let q := (sel.extractLsb' 0 6).toNat
  let own := s.queueView s.hart.ctx.toNat q
  if !sel.getLsbD 6 then some own
  else
    match s.routeDevice s.hart.ctx.toNat s.hart.sregs.srtb (sel.extractLsb' 16 16) with
    | none => none
    | some dev =>
      if dev = s.fab.dev.toNat then some own
      else if !s.isMember dev then none
      else (s.fab.remoteCtxs.find? fun r => decide (r.dev = dev) && r.tag == (s.ctx s.hart.ctx.toNat).dtag).map fun r =>
        { dev, slot := keySlot s.hart.ctx, ctx := r.slot.zeroExtend 16, iod := q / 32, qtab := r.qtab, ptb := r.ptb }

/-- Steps 3 and 4: the status, or the record that the hart keeps from then on. -/
def State.klaunchReserve (s : State) (sel : Word) (image : List Byte) : State × Except Nat Kept :=
  match s.klaunchView sel with
  | none => (s, .error 3)
  | some v =>
    match s.queueEntry v (sel.extractLsb' 0 6).toNat with
    | (s, .ready ring size ctrl _) =>
      let (s, hd, _) := s.syRead v.slot ctrl
      let (s, rs, _) := s.syRead v.slot (ctrl + 16)
      let k : Word := BitVec.ofNat 64 rs
      if size ≤ (k - BitVec.ofNat 64 hd).toNat then (s, .error 1)
      else
        match s.seqHbm v (recordVa ring size k) with
        | (s, some (pa, _)) => (s.syWrite v.slot (ctrl + 16) (k + 1#64), .ok (.klaunch k ctrl pa image 0 false))
        | (s, none) => (s, .error 2)
    | (s, _) => (s, .error 2)

def klaunchBody (i : Instr) (d a b : Reg) : M Unit := do
  let s ← get
  let sel := s.xr b
  let va := s.xr a
  if sel.extractLsb' 32 32 ≠ 0#32 ∨ sel.extractLsb' 7 9 ≠ 0#9 then illegal i
  else
    match s.hart.heldHere with
    | some (.klaunch ..) => klaunchWait d
    | _ =>
      if va.toNat % 64 ≠ 0 then raise tcMisaligned va
      else
        let places ← templatePlaces va 4
        doRelease 3#2 0xFFFE#16
        let image ← blockRead va places
        let s ← get
        if (s.klaunchView sel).any fun v => s.queueWaits v (sel.extractLsb' 0 6).toNat then stall else
        match s.klaunchReserve sel image with
        | (s, .error st) => set (s.setX d (klaunchResult 0#64 st))
        | (s, .ok k) =>
          set (s.updHart (·.keep k))
          klaunchWait d

def execKlaunch (d a b : Reg) (s : State) : Host.Outcome State Fault Refusal := finish (klaunchBody (.klaunch d a b) d a b) s

/-- A poll of a hart's `klaunch` in steps 5 to 7 (R350). -/
def execKlaunchPoll (s : State) : Host.Outcome State Fault Refusal := finishEvent (msgHart fun s h => s.pollLaunches h) s

end Sys2Proof.Machine
end

