-- ==== Sys2Proof/Machine/Schedule.lean ====
section
/-! DEFINITION. Contexts, launch queues, placement and the life of a launch (spec/07 R184 to R193, spec/08 R212 to R220). -/
namespace Sys2Proof.Machine
set_option Elab.async false

/-! ### The registry (spec/21 R472, R474) -/

/-- The registry index that a handle names, where its entry is live and the handle current. -/
def State.objectOf (s : State) (handle : Word) : Option Nat :=
  let i := (handle.extractLsb' 0 8).toNat
  let o := s.trust.objects.get .reset i
  if handle.extractLsb' 32 32 = 0#32 ∧ handle.extractLsb' 8 8 = 0#8 ∧ o.live = true ∧ handle.extractLsb' 16 16 = o.gen then some i else none

/-- Retire a registry entry (R474): it is freed, its generation advances, and its text is no longer write-protected. -/
def State.retireEntry (s : State) (i : Nat) : State :=
  s.updTrust fun t =>
    let o := t.objects.get .reset i
    { t with objects := t.objects.set i { RegObj.reset with gen := o.gen + 1#16 } }

/-- The live entries of a slot. -/
def State.objectsOf (s : State) (n : Nat) : List Nat :=
  (s.trust.objects.filter fun o => o.2.live && decide (o.2.slot.toNat = n)).map (·.1)

/-- Retire every entry of a slot. -/
def State.retireSlot (s : State) (n : Nat) : State := (s.objectsOf n).foldl (fun s i => s.retireEntry i) s

/-! ### Launch records (R186 to R188) -/

/-- A level of the loop table. -/
structure Level where
  ext : Nat
  mark : Nat
  reserved : Nat
  deriving DecidableEq, Repr

def recLevel (b : List Byte) (l : Nat) : Level :=
  let w := blkNat b (0x20 + 8 * l) 8
  { ext := w % 2 ^ 32, mark := w / 2 ^ 32 % 4, reserved := w / 2 ^ 34 }
def recLevels (b : List Byte) : List Level := (List.range 4).map (recLevel b)
/-- The product of the extents of a mark. -/
def recExtent (b : List Byte) (mark : Nat) : Nat := ((recLevels b).filter fun l => l.mark == mark).foldl (fun n l => n * l.ext) 1
def recDext (b : List Byte) : Nat := recExtent b 3
def recCext (b : List Byte) : Nat := recExtent b 2
def recWord (b : List Byte) (ofs : Nat) : Word := BitVec.ofNat 64 (blkNat b ofs 8)
def recOrb (b : List Byte) : Bool := blkNat b 0x18 4 / 4 % 2 == 1

/-- A level breaks R187, its reserved bits among the limits (DEDUCED, unsafe: log entry 83). -/
def Level.bad (l : Level) : Bool := decide (l.reserved ≠ 0) || (if l.mark = 0 then decide (l.ext ≠ 0) else decide (l.ext = 0))

/-- The first field that breaks its limits, by its offset (R186, R188). Reserved bits of the flags count (DEDUCED, unsafe: log entry 127). -/
def State.recordFault (s : State) (n : Nat) (b : List Byte) : Option Nat :=
  let obj := (s.objectOf (recWord b 0)).filter fun i => decide ((s.trust.objects.get .reset i).slot.toNat = n)
  let o := obj.elim RegObj.reset fun i => s.trust.objects.get .reset i
  let entry := blkNat b 8 8
  let checks : List (Nat × Bool) :=
    [(0x00, obj.isNone), (0x08, decide (entry % 4 ≠ 0) || decide (entry < o.textOfs) || decide (o.textOfs + o.size ≤ entry)),
     (0x18, decide (blkNat b 0x18 4 / 8 ≠ 0)), (0x1C, decide (blkNat b 0x1C 4 ≠ 0)),
     (0x20, (recLevels b).any (·.bad)), (0x20, decide ((s.ctx n).dies.length < recDext b) || decide (256 < recCext b)),
     (0x40, decide (524288 < blkNat b 0x40 4)), (0x44, decide (blkNat b 0x40 4 < blkNat b 0x44 4)),
     (0x48, decide (8 < blkNat b 0x48 1)), (0x49, decide (4 < blkNat b 0x49 1)),
     (0x4A, decide ((if recOrb b then 14 else 16) < blkNat b 0x4A 1)),
     (0x4B, decide (15 < blkNat b 0x4B 1)), (0x4C, decide (15 < blkNat b 0x4C 1)), (0x4D, decide (blkNat b 0x4D 3 ≠ 0)),
     (0x50, decide (blkNat b 0x50 8 % 8 ≠ 0)), (0x60, decide (blkNat b 0x60 8 % 8 ≠ 0)), (0x68, decide (blkNat b 0x68 8 % 16 ≠ 0)),
     (0x70, decide (blkNat b 0x70 4 % 16 ≠ 0)), (0x74, decide (blkNat b 0x74 4 ≠ 0)), (0x78, decide (blkNat b 0x78 8 ≠ 0)),
     (0x80, decide (blkNat b 0x80 128 ≠ 0))]
  (checks.find? (·.2)).map (·.1)

/-! ### The queue agents (R215 to R217) -/

def Ctx.queue (c : Ctx) (q : Nat) : QueueState := c.queues.get .reset q
def State.updCtx (s : State) (n : Nat) (g : Ctx → Ctx) : State := s.setCtx n (g (s.ctx n))
def State.updQueue (s : State) (n q : Nat) (g : QueueState → QueueState) : State :=
  s.updCtx n fun c => { c with queues := c.queues.set q (g (c.queue q)) }
def State.ctxidOf (s : State) (n : Nat) : BitVec 16 := (s.ctx n).gen ++ BitVec.ofNat 3 n

/-- An event of a queue or of a launch record, raised by the I/O die. -/
def State.queueEvent (s : State) (n iod : Nat) (kind : BitVec 8) (detail : Word) (fofs : Nat) : State :=
  s.postEvent (8 + iod) kind detail (s.ctxidOf n) (BitVec.ofNat 8 fofs) 0#27

/-- The message that names a queue. -/
def queueMsg (n q : Nat) : Msg := { slot := BitVec.ofNat 3 n, queue := BitVec.ofNat 6 q }

/-- An agent's watch on a word, kept once. -/
def State.agentWatch (s : State) (w : AgentWatch) : State :=
  s.updMem fun m => { m with agentWatches := if m.agentWatches.contains w then m.agentWatches else w :: m.agentWatches }

/-- The head record of a queue is done with: HEAD advances by an SY store, and the queue is examined again. -/
def State.skipHead (s : State) (v : QueueView) (n q ctrl : Nat) (head : Word) : State :=
  ((s.syWrite v.slot ctrl (head + 1#64)).updQueue n q fun x => { x with ready := none }).after [(.dependenceWatchHit, queueMsg n q)]

/-- The head record fails (R188): its state word is written as 3 where it can be, and an event names it. -/
def State.failHead (s : State) (v : QueueView) (n q ctrl : Nat) (head va : Word) (pa : Option Nat) (fofs : Nat) : State :=
  let s := match pa with
    | some pa => if fofs = 0x78 then s else s.syWrite v.slot (pa + 0x78) 3#64
    | none => s
  (s.queueEvent n v.iod 3#8 va fofs).skipHead v n q ctrl head

/-- Read the record at a VA: its physical address and its bytes. -/
def State.readRecord (s : State) (v : QueueView) (va : Word) : State × Option (Nat × List Byte) :=
  match s.seqHbm v va with
  | (s, some (pa, _)) =>
    let (b, psn) := s.engineReads v.slot (dieOf (laOf pa)) pa 256
    (s, if psn then none else some (pa, b))
  | (s, none) => (s, none)

/-- Examine the head of a queue that holds records. -/
def State.examineHead (s : State) (v : QueueView) (n q : Nat) (ring : Word) (size ctrl : Nat) (head : Word) : State :=
  let va := recordVa ring size head
  match s.readRecord v va with
  | (s, none) => s.failHead v n q ctrl head va none 0xFC
  | (s, some (pa, b)) =>
    match s.recordFault n b with
    | some ofs => s.failHead v n q ctrl head va (some pa) ofs
    | none =>
      let prio := BitVec.ofNat 2 (blkNat b 0x18 4)
      let ready := fun (s : State) => (s.updQueue n q fun x => { x with ready := some (va, prio) }).after [(.placementChoice, {})]
      if blkNat b 0x50 8 = 0 then ready s
      else
        match s.seqHbm v (recWord b 0x50) with
        | (s, none) => s.failHead v n q ctrl head va (some pa) 0x50
        | (s, some (dep, _)) =>
          let s := s.agentWatch { pa := dep, slot := BitVec.ofNat 3 n, queue := BitVec.ofNat 6 q, dep := true }
          let (s, w, _) := s.syRead v.slot dep
          if blkNat b 0x58 8 ≤ w then ready s else s.updQueue n q fun x => { x with ready := none }

/-- The bytes of queue-table entry q. -/
def State.entryBytes (s : State) (v : QueueView) (q : Nat) : List Byte := (s.engineRead v.slot (dieOf (laOf (v.entryPa q))) (v.entryPa q) 32).1

/-- Examine queue q of context n; `tail` where TAIL has been written. A malformed entry is reported once, and again once it or DCQTAB has
been rewritten (R215). The agent of an I/O die that is held in reset examines nothing (spec/21 R477), nor is a queue examined whose context does
not run; a TAIL written meanwhile ends an overrun all the same (R216). What waits below is met again. -/
def State.examine (s : State) (n q : Nat) (tail : Bool) : State :=
  let c := s.ctx n
  let v := s.queueView n q
  if c.state ≠ 1#2 ∨ v.qtab.getLsbD 0 = false ∨ s.dieHeld (8 + v.iod) = true then
    if tail && (c.queue q).overrun then s.updQueue n q fun x => { x with overrun := false } else s
  else if s.queueWaits v q then s.after [(if tail then .queueTailWatchHit else .dependenceWatchHit, queueMsg n q)]
  else
    let b := s.entryBytes v q
    let bad := (c.queue q).badPosted.filter fun x => decide (x = b)
    match s.queueEntry v q with
    | (s, .disabled) => s.updQueue n q fun x => { x with badPosted := bad, ready := none }
    | (s, .malformed) =>
      let s := if (c.queue q).badPosted = some b then s else s.queueEvent n v.iod 6#8 (BitVec.ofNat 64 (v.entryPa q) ||| 1#64) 0
      s.updQueue n q fun x => { x with badPosted := some b, ready := none }
    | (s, .ready ring size ctrl ctrlVa) =>
      let s := s.agentWatch { pa := ctrl + 8, slot := BitVec.ofNat 3 n, queue := BitVec.ofNat 6 q, dep := false }
      let (s, hd, _) := s.syRead v.slot ctrl
      let (s, tl, _) := s.syRead v.slot (ctrl + 8)
      let head : Word := BitVec.ofNat 64 hd
      let count := (BitVec.ofNat 64 tl - head).toNat
      if size < count then
        let s := if (c.queue q).overrun && !tail then s else s.queueEvent n v.iod 6#8 ctrlVa 0
        s.updQueue n q fun x => { x with badPosted := bad, overrun := true, ready := none }
      else
        let stop := (c.queue q).overrun && !tail
        let s := s.updQueue n q fun x => { x with badPosted := bad, overrun := stop, ready := if stop || count == 0 then none else x.ready }
        if stop || count == 0 then s else s.examineHead v n q ring size ctrl head

/-- A queue scan takes a new DCQTAB, and its queues are met anew (R214, R215). -/
def Ctx.scanned (c : Ctx) : Ctx := { c with table := c.qtab, fresh := false, queues := [] }

/-- The scan of an I/O die: its 32 queues of every context. -/
def State.scanQueues (s : State) (iod : Nat) : State :=
  let s := (List.range 8).foldl (fun s n => if (s.ctx n).fresh then s.updCtx n (·.scanned) else s) s
  (List.range 8).foldl (fun s n => (List.range 32).foldl (fun s i => s.examine n (iod * 32 + i) false) s) s

/-- Ask both agents to scan. -/
def scanMsgs : List (Instr × Msg) := [(.queueBackstopScan, { unit := 0#32 }), (.queueBackstopScan, { unit := 1#32 })]

def execQueueTailWatchHit (s : State) : Host.Outcome State Fault Refusal :=
  finishEvent (modify fun s => s.examine s.msg.slot.toNat s.msg.queue.toNat true) s
def execQueueBackstopScan (s : State) : Host.Outcome State Fault Refusal :=
  finishEvent (modify fun s => s.scanQueues (s.msg.unit.toNat % 2)) s
def execDependenceWatchHit (s : State) : Host.Outcome State Fault Refusal :=
  finishEvent (modify fun s => s.examine s.msg.slot.toNat s.msg.queue.toNat false) s

/-! ### Placement (R189, R190, R181) -/

/-- Whether a range of n units from o is free of the ranges given. -/
def rangeFree (o n : Nat) (used : List (Nat × Nat)) : Bool := used.all fun u => decide (o + n ≤ u.1) || decide (u.1 + u.2 ≤ o) || decide (u.2 = 0) || decide (n = 0)

/-- A free range of n units below a limit, by a rule that picks one of the offsets that fit. -/
def fit (pick : List Nat → Option Nat) (n limit : Nat) (used : List (Nat × Nat)) : Option Nat :=
  pick ((List.range (limit + 1)).filter fun o => decide (o + n ≤ limit) && rangeFree o n used)

/-- What a launch asks for each hart: share in KiB, tiles, accumulators, plate slots, weights, and the orbit flag. -/
structure Ask where
  want : Nat
  least : Nat
  tiles : Nat
  accs : Nat
  plates : Nat
  vw : Nat
  mw : Nat
  orb : Bool
  deriving DecidableEq, Repr

def recAsk (b : List Byte) : Ask :=
  { want := (blkNat b 0x40 4 + 1023) / 1024, least := (blkNat b 0x44 4 + 1023) / 1024, tiles := blkNat b 0x48 1, accs := blkNat b 0x49 1,
    plates := blkNat b 0x4A 1, vw := blkNat b 0x4B 1, mw := blkNat b 0x4C 1, orb := recOrb b }

/-- Grants for k harts of one cluster beside the grants in use, with a share of `share` KiB each. -/
def grantMany (pick : Nat → List Nat → Option Nat) (a : Ask) (share : Nat) : Nat → List Grant → Option (List Grant)
  | 0, _ => some []
  | k + 1, used =>
    match fit (pick (3 * k)) share 512 (used.map fun g => (g.voff.toNat, g.vsz.toNat)),
          fit (pick (3 * k + 1)) a.tiles 32 (used.map fun g => (g.tbase.toNat, g.tcnt.toNat)),
          fit (pick (3 * k + 2)) a.accs 16 (used.map fun g => (g.abase.toNat, g.acnt.toNat)) with
    | some vo, some ti, some ao =>
      let g : Grant :=
        { voff := BitVec.ofNat 9 vo, vsz := BitVec.ofNat 10 share, tbase := BitVec.ofNat 5 ti, tcnt := BitVec.ofNat 4 a.tiles,
          abase := BitVec.ofNat 4 ao, acnt := BitVec.ofNat 3 a.accs, pln := BitVec.ofNat 5 a.plates, vw := BitVec.ofNat 4 a.vw,
          mw := BitVec.ofNat 4 a.mw, orb := a.orb }
      (grantMany pick a share k (g :: used)).map (g :: ·)
    | _, _, _ => none

/-- The grants in use in a cluster. -/
def State.grantsIn (s : State) (k : Nat) : List Grant :=
  ((List.range 16).filter fun i => (s.getHart (k * 16 + i)).phase ≠ .idle).map fun i => (s.getHart (k * 16 + i)).grant

/-- The pick of the i-th offset of cluster k: a free choice, the spec does not say which of those that fit. -/
def State.pickOffset (s : State) (k i : Nat) (l : List Nat) : Option Nat := l[(Config.freeWord (s.free + 256 * k + i)).toNat % l.length]?

/-- Grants for n harts of cluster k with one share: freely placed, or from the lowest offsets up where that placing leaves no room. -/
def State.grantShare (s : State) (a : Ask) (k share n : Nat) : Option (List Grant) :=
  (grantMany (s.pickOffset k) a share n (s.grantsIn k)).orElse fun _ => grantMany (fun _ l => l.head?) a share n (s.grantsIn k)

/-- Grants for the harts of one cluster (R190): the wanted share where it fits for all of them, otherwise the minimum. -/
def State.clusterGrants (s : State) (a : Ask) (k : Nat) (harts : List Nat) : Option (List (Nat × Grant)) :=
  ((s.grantShare a k a.want harts.length).orElse fun _ => s.grantShare a k a.least harts.length).map harts.zip

/-- Grants for harts of several clusters. -/
def State.grantAll (s : State) (a : Ask) (harts : List Nat) : List Nat → Option (List (Nat × Grant))
  | [] => some []
  | k :: ks =>
    match s.clusterGrants a k (harts.filter fun h => decide (clusterOf h = k)), s.grantAll a harts ks with
    | some l, some r => some (l ++ r)
    | _, _ => none

/-- The outcome of planning a launch: it fails at a field, it waits, or it has its harts by number with their grants. -/
inductive Plan where
  | fails (fofs : Nat)
  | waits
  | goes (harts : List Nat) (grants : List (Nat × Grant))
  deriving DecidableEq, Repr

/-- The physical harts of the positions in order of number; none where one is invalid or named twice. -/
def State.positions (s : State) (n : Nat) (sctb : Word) (dext cext : Nat) : Option (List Nat) :=
  let l := (List.range (dext * cext)).map fun i => s.placeOf n sctb (i / cext) (i % cext)
  if l.all (·.isSome) && decide ((l.filterMap id).eraseDups.length = l.length) then some (l.filterMap id) else none

/-- Each die's pool holds plates for its harts. -/
def State.platesSuffice (s : State) (n plates : Nat) (harts : List Nat) : Bool :=
  (harts.map dieOfHart).eraseDups.all fun d =>
    decide (plates * (harts.filter fun h => decide (dieOfHart h = d)).length ≤ (s.pool d (BitVec.ofNat 3 n)).length)

/-- Plan a launch (R190). A hart on a die that is held in reset is not free (spec/21 R464). -/
def State.planLaunch (s : State) (n : Nat) (sctb : Word) (b : List Byte) : Plan :=
  match s.positions n sctb (recDext b) (recCext b) with
  | none => .fails 0x20
  | some harts =>
    let a := recAsk b
    if !(harts.all fun h => (s.getHart h).phase == .idle && !s.dieHeld (dieOfHart h)) || !s.platesSuffice n a.plates harts then .waits
    else
      match s.grantAll a harts ((harts.map clusterOf).eraseDups) with
      | some g => .goes harts g
      | none => .waits

/-! ### The supervisor start block (R213) -/

/-- The eight words of the block; zeros where DCSUPT.EN is 0; none where the block is refused, a poisoned one with them (DESIGN CHOICE,
unsafe: log entry 156). -/
def State.startBlock (s : State) (n : Nat) : Option (List Word) :=
  let d := (s.ctx n).supt
  if !d.getLsbD 0 then some (List.replicate 8 0#64)
  else
    let pa := (d.extractLsb' 6 46).toNat * 64
    if !isHbm (laOf pa) || decide (devOf pa ≠ s.fab.dev.toNat) then none
    else
      let (b, psn) := s.engineRead (n + 1) (dieOf (laOf pa)) pa 64
      let w := (List.range 8).map fun i => BitVec.ofNat 64 (leNat ((b.drop (8 * i)).take 8))
      let at' := fun (i : Nat) => w.getD i 0#64
      if psn || at' 0 &&& 0xFFE#64 != 0#64 || at' 3 &&& 0xFFF0_0000_0000_03FE#64 != 0#64 || at' 4 &&& 0xFFF0_0000_0000_0FFE#64 != 0#64 ||
          at' 5 &&& 0xFFF0_0000_0000_0000#64 != 0#64 || at' 6 &&& 0xFFFF_FFFF_0000_0000#64 != 0#64 || at' 7 != 0#64 then none
      else some w

/-! ### Starting a hart (R191, R213, R152) -/

/-- The scalar registers at a hart's first instruction: idx and extents of the levels (R189). -/
def startIndices (b : List Byte) (n : Nat) : List Word :=
  let d := n / recCext b
  let c := n % recCext b
  let go := fun (r : Nat × Nat × List Word) (l : Level) =>
    if l.mark = 3 then (r.1 / l.ext, r.2.1, BitVec.ofNat 64 (r.1 % l.ext) :: r.2.2)
    else if l.mark = 2 then (r.1, r.2.1 / l.ext, BitVec.ofNat 64 (r.2.1 % l.ext) :: r.2.2)
    else (r.1, r.2.1, 0#64 :: r.2.2)
  ((recLevels b).reverse.foldl go (d, c, [])).2.2

def startX (b : List Byte) (n : Nat) : List Word :=
  let stack := recWord b 0x68 + BitVec.ofNat 64 ((n + 1) * blkNat b 0x70 4)
  [0#64, 0#64, stack, BitVec.ofNat 64 n] ++ startIndices b n ++ ((recLevels b).map fun l => BitVec.ofNat 64 l.ext) ++ [recWord b 0x10]

/-- A hart as the sequencer starts it. -/
def startHart (c : Ctx) (n l i : Nat) (b : List Byte) (blk : List Word) (g : Grant) (base : Word) : Hart :=
  let xs := startX b i
  let w := fun (k : Nat) => blk.getD k 0#64
  { Hart.reset with
    pc := base + recWord b 8
    regs := { x := Vector.ofFn fun (r : Fin 32) => xs.getD r.val 0#64, f := Vector.replicate 32 0#64 }
    trap := { TrapRegs.reset with trentry := w 0, trspare := w 1 + BitVec.ofNat 64 i * w 2 }
    sregs := { sptb := onlyBits c.ptb 63 1 ||| onlyBits c.ptb 16 40,
               sfpa := onlyBits (w 3 + BitVec.ofNat 64 (i * 1024)) 10 42 ||| onlyBits (w 3) 0 1, sfpn := 0#7, sctb := w 4, srtb := w 5,
               snotice := (w 6).setWidth 32 }
    grant := g, ctx := BitVec.ofNat 3 n, gen := c.gen, phase := .running, launch := some l, logical := i }

/-- The acquire and the invalidation with which a hart begins. -/
def State.beginHart (s : State) (h : Nat) : State :=
  let s := s.acquire h 3#2 0xFFFE#16
  s.setCore (coreOf h) { s.core (coreOf h) with l1i := [] }

/-- Attach plates of the pool to the first slots of a hart. -/
def State.attachPlates (s : State) (h : Nat) : Nat → Nat → State
  | _, 0 => s
  | k, m + 1 =>
    match s.pickOne (s.pool (dieOfHart h) (s.getHart h).ctx) with
    | (s, none) => s
    | (s, some p) =>
      let s := s.setPlate p { s.plate p with state := 0#2, attach := 2#2, target := h % 256 * 16 + k }
      State.attachPlates (s.updHartN h fun x => x.setSlot k (.attached (p % 128))) h (k + 1) m

/-! ### Committing a record (R219) and choosing one (R218) -/

/-- The lowest number that no running launch has. -/
def State.freeLaunch (s : State) : Option Nat := (List.range 128).find? fun i => !(s.disp.launches.any fun l => decide (l.1 = i))

/-- Start a launch whose record has been swapped to 1. -/
def State.startLaunch (s : State) (n l : Nat) (va : Word) (b : List Byte) (blk : List Word) (harts : List Nat) (grants : List (Nat × Grant)) : State :=
  let c := s.ctx n
  let base := ((s.objectOf (recWord b 0)).map fun i => (s.trust.objects.get .reset i).base).getD 0#64
  let a := recAsk b
  let r : Launch :=
    { slot := BitVec.ofNat 3 n, record := va, handle := recWord b 0, compVa := recWord b 0x60, dext := recDext b,
      cext := recCext b, harts, done := [], want := a.want, least := a.least }
  let s : State := { s.updDisp fun d => { d with launches := d.launches.set l r } with free := s.free + 256 * 128 }
  harts.zipIdx.foldl (fun s h =>
    let g := ((grants.find? fun x => decide (x.1 = h.1)).map (·.2)).getD .reset
    ((s.setHart h.1 (startHart c n l h.2 b blk g base)).attachPlates h.1 0 a.plates).beginHart h.1) s

/-- The round-robin pointer of a priority (R218). -/
def State.rrOf (s : State) (p : Nat) : Nat := s.disp.rr.get 0 p

/-- The pointer moves past a queue whose head is committed (R218). -/
def State.rrPast (s : State) (q : Nat) (p : BitVec 2) : State := s.updDisp fun d => { d with rr := d.rr.set p.toNat ((q + 1) % 64) }

/-- A context whose heads are placed: it runs, and no cut of it is in progress (R217, R225). -/
def State.places (s : State) (n : Nat) : Bool := s.fab.devValid && (s.ctx n).state == 1#2 && !s.cutting n

/-- The read of the start block waits. -/
def State.blockWaits (s : State) (n : Nat) : Bool :=
  let d := (s.ctx n).supt
  let pa := (d.extractLsb' 6 46).toNat * 64
  d.getLsbD 0 && s.homeWaits (n + 1) (dieOf (laOf pa)) pa

/-- Commit the head of a queue: a record that no longer stands ready, or that cannot be placed, is left as it is. One whose reads wait is met
again. -/
def State.commitRecord (s : State) (n q : Nat) : State :=
  let v := s.queueView n q
  if s.places n && ((s.ctx n).queue q).ready.isSome && (s.queueWaits v q || s.blockWaits n) then s.after [(.recordCommit, queueMsg n q)] else
  match s.places n, ((s.ctx n).queue q).ready, s.queueEntry v q with
  | true, some (va, prio), (s, .ready _ _ ctrl _) =>
    let (s, hd, _) := s.syRead v.slot ctrl
    let head : Word := BitVec.ofNat 64 hd
    let past := s.rrPast q prio
    match s.readRecord v va with
    | (_, none) => past.failHead v n q ctrl head va none 0xFC
    | (s, some (pa, b)) =>
      let past := s.rrPast q prio
      match s.recordFault n b, s.startBlock n with
      | some ofs, _ => past.failHead v n q ctrl head va (some pa) ofs
      | none, none => past.failHead v n q ctrl head va (some pa) 0xFE
      | none, some blk =>
        match s.planLaunch n (blk.getD 4 0#64) b, s.freeLaunch with
        | .fails ofs, _ => past.failHead v n q ctrl head va (some pa) ofs
        | .waits, _ => s
        | .goes .., none => s
        | .goes harts grants, some l =>
          match past.casWord v.slot (pa + 0x78) 0#64 1#64 with
          | (s, false) => s.failHead v n q ctrl head va (some pa) 0x78
          | (s, true) => (s.skipHead v n q ctrl head).startLaunch n l va b blk harts grants
  | _, _, (s, _) => s

/-- The record at a ready head can be placed now; its agent is not held in reset. -/
def State.placeable (s : State) (n q : Nat) (va : Word) : Bool :=
  !s.dieHeld (8 + (s.queueView n q).iod) &&
  match s.readRecord (s.queueView n q) va with
  | (s, some (_, b)) =>
    match s.planLaunch n (((s.startBlock n).getD []).getD 4 0#64) b with
    | .waits => false
    | _ => true
  | (_, none) => true

/-- The queues in the order of a pointer. -/
def rotated (r : Nat) : List Nat := (List.range 64).map fun i => (r + i) % 64

/-- The ready head that a choice finds: its priority, queue and record. -/
def State.bestHead (s : State) (n : Nat) : List Nat → Option (Nat × Nat × Word)
  | [] => none
  | p :: ps =>
    let at' := fun (q : Nat) => ((s.ctx n).queue q).ready.filter fun r => decide (r.2.toNat = p)
    match (rotated (s.rrOf p)).find? fun q => (at' q).isSome with
    | some q => (at' q).map fun r => (p, q, r.1)
    | none => State.bestHead s n ps

/-- A choice for a context has been made and its record is not committed yet. -/
def State.commitWaits (s : State) (n : Nat) : Bool := s.inbox.any fun x => x.1 == .recordCommit && decide (x.2.slot.toNat = n)

/-- The queue that a choice takes for a context: that of its best head, where it can be placed and fewer than 128 launches run. -/
def State.chooseFor (s : State) (n : Nat) : Option Nat :=
  match (if s.places n && !s.commitWaits n then s.bestHead n [3, 2, 1, 0] else none) with
  | some (_, q, va) => if s.placeable n q va && decide (s.disp.launches.length < 128) then some q else none
  | none => none

/-- One choice of the placement engine (R218), for one of the contexts that run and have a head to place. -/
def State.placementChoice (s : State) : State :=
  match s.pickOne ((List.range 8).filter fun n => (s.chooseFor n).isSome) with
  | (s, none) => s
  | (s, some n) => (s.chooseFor n).elim s fun q => s.after [(.recordCommit, queueMsg n q), (.placementChoice, {})]

def execPlacementChoice (s : State) : Host.Outcome State Fault Refusal := finishEvent (modify (·.placementChoice)) s
def execRecordCommit (s : State) : Host.Outcome State Fault Refusal :=
  finishEvent (modify fun s => s.commitRecord s.msg.slot.toNat s.msg.queue.toNat) s

/-! ### Completion (R193) -/

/-- Every hart of a launch has retired: the state word becomes 2 and the completion event word counts it at home. A completion VA that
cannot be used fails the launch as R188 gives: the state word becomes 3, and the event names field 0x60; IOD0, whose placement engine
keeps the running table, posts it (DEDUCED, unsafe: log entry 128). -/
def State.completeLaunch (s : State) (l : Nat) : State :=
  match s.disp.launches.find? fun x => decide (x.1 = l) with
  | none => s
  | some (_, r) =>
    if !r.allDone then s
    else
      let n := r.slot.toNat
      let v := s.queueView n 0
      if s.seqWaits v (r.record + 0x78#64) || (r.compVa != 0#64 && s.seqWaits v r.compVa) then
        s.after [(.launchComplete, { unit := BitVec.ofNat 32 l })]
      else
      let s := (match (if r.compVa = 0#64 then (s, none) else s.seqHbm v r.compVa) with
        | (s, some (pa, _)) =>
          match s.endWord r 2#64 with
          | (s, true) => (s.atomicHome v.slot pa .add true 1#64 0#64).1
          | (s, false) => s
        | (s, none) =>
          if r.compVa = 0#64 then (s.endWord r 2#64).1
          else
            match s.endWord r 3#64 with
            | (s, true) => s.queueEvent n 0 3#8 r.record 0x60
            | (s, false) => s)
      let s := (s.orbitsOf l).foldl (fun s o => s.endOrbit o) s
      (s.updDisp fun d => { d with launches := d.launches.filter fun x => decide (x.1 ≠ l) }).placeAgain

def execLaunchComplete (s : State) : Host.Outcome State Fault Refusal :=
  finishEvent (modify fun s => s.completeLaunch (s.msg.unit.toNat % 128)) s

/-! ### DCCTL commands on contexts (R212, R214, R220) -/

/-- What keeps BUSY at 1: a cut, or a command that has not been performed. -/
def State.stillBusy (s : State) (n : Nat) : Bool := s.cutting n || s.commandWaits n

/-- A command ends; a refused one sets CMDERR and changes nothing else. -/
def State.dcDone (s : State) (n : Nat) (ok : Bool) : State := s.updCtx n fun c => { c with busy := s.stillBusy n, cmderr := c.cmderr || !ok }

/-- Set up a context's plate pool on the dies where it has not run (R214, R80): zeroed plates, EMPTY. -/
def State.setupPool (s : State) (n : Nat) : State :=
  let c := s.ctx n
  let newDies := c.dies.filter fun d => !c.ranOn.getLsbD d
  let s := newDies.foldl (fun s d =>
    (List.range c.plates).foldl (fun s _ =>
      match s.pickOne (((List.range 128).map (d * 128 + ·)).filter fun p => (s.plate p).attach == 0#2) with
      | (s, none) => s
      | (s, some p) =>
        let a := s.ownPa (plateLa d (p % 128) 0)
        (s.setPlate p { Plate.reset with attach := 1#2, ctx := BitVec.ofNat 3 n }).updMem fun m =>
          { m with mem := Mem.drop a 0x40000 m.mem, marks := natDrop (8 * a) (8 * 0x40000) m.marks }) s) s
  s.updCtx n fun c => { c with ranOn := c.dies.foldl (fun m d => m ||| (1#8 <<< d)) c.ranOn }

/-- The dies that running contexts hold, but one. -/
def State.heldDies (s : State) (but : Nat) : List Nat :=
  ((List.range 8).filter fun m => decide (m ≠ but) && (s.ctx m).state == 1#2).flatMap fun m => (s.ctx m).dies
/-- The dies that the switch in progress will give to the context that it resumes. -/
def State.promisedDies (s : State) : List Nat :=
  let w := s.disp.switch
  if w.phase = 2#2 ∧ w.park = false then (s.ctx w.target.toNat).dies else []

/-- A valid save area (R212). -/
def State.saveOk (s : State) (n : Nat) : Bool := (s.ctx n).save.getLsbD 0 && decide (s.needOf n ≤ ((s.ctx n).save.extractLsb' 9 12).toNat)

/-- The conditions of create. -/
def State.createOk (s : State) (n : Nat) : Bool :=
  let c := s.ctx n
  c.state == 0#2 && c.dtag != 0#16 && ((List.range 8).all fun m => decide (m = n) || (s.ctx m).state == 0#2 || (s.ctx m).dtag != c.dtag) &&
    !c.dies.isEmpty && decide (c.plates ≤ 128) && c.ptb.getLsbD 63 && c.keyLoaded

/-- Drop every leaf of a context in the sequencer TLBs: at its removal, and as its generation advances (spec/01 R35). -/
def State.dropSequencer (s : State) (ctx : BitVec 16) : State :=
  s.updMem fun m => { m with seqTlb := m.seqTlb.map fun w => (w.1, w.2.filter fun e => e.ctx != ctx) }

def State.createContext (s : State) (n : Nat) : State :=
  let runs := !((s.ctx n).dies.any (s.heldDies n ++ s.promisedDies).contains)
  if !s.createOk n || (!runs && !s.saveOk n) then s.dcDone n false
  else
    let s := ((s.dropSequencer (s.ctxidOf n)).retireSlot n).updCtx n fun c => { c with gen := c.gen + 1#13, ranOn := 0#8, queues := [], epoch := 0#8, moves := [] }
    let s := s.updDisp fun d => { d with saved := d.saved.filter fun x => decide (x.1 ≠ n) }
    if runs then (((s.setupPool n).updCtx n fun c => { c with state := 1#2 }).dcDone n true).after scanMsgs
    else (s.updCtx n fun c => { c with state := 2#2 }).dcDone n true

/-- Drop the translations of a context that leaves residency (R184): its global leaves stay in the TLBs and the pre-translators. -/
def State.dropTranslations (s : State) (ctx : BitVec 16) : State :=
  let keep := fun (l : List TlbEntry) => l.filter fun e => !(e.ctx == ctx && !e.attr.g)
  (s.dropSequencer ctx).updMem fun m =>
    { m with
      cores := m.cores.map fun c => (c.1, { c.2 with itlb := keep c.2.itlb, dtlb := keep c.2.dtlb })
      clusters := m.clusters.map fun c => (c.1, { c.2 with pre := keep c.2.pre })
      walkCache := m.walkCache.map fun w => (w.1, w.2.filter fun e => e.ctx != ctx) }

def State.removeContext (s : State) (n : Nat) : State :=
  if (s.ctx n).state ≠ 2#2 ∨ s.runCount n ≠ 0 then s.dcDone n false
  else
    let s := ((s.dropTranslations (s.ctxidOf n)).retireSlot n).updDisp fun d => { d with saved := d.saved.filter fun x => decide (x.1 ≠ n) }
    let s := s.updMem fun m =>
      { m with
        agentWatches := m.agentWatches.filter fun w => decide (w.slot.toNat ≠ n)
        plates := m.plates.map fun p => if p.2.attach ≠ 0#2 ∧ p.2.ctx.toNat = n then (p.1, Plate.reset) else p }
    (s.updCtx n fun c => { c with state := 0#2, keyLoaded := false, table := c.qtab, fresh := false, queues := [] }).dcDone n true

/-- End the launch whose record VA the command has taken from DCARG. -/
def State.endLaunchCmd (s : State) (n : Nat) (record : Word) : State :=
  match s.disp.launches.find? fun l => decide (l.2.slot.toNat = n) && l.2.record == record with
  | none => s.dcDone n false
  | some (l, _) => (s.failLaunch l).dcDone n true

/-- The slot that a command names. -/
def slotStep (g : State → Nat → State) : M Unit := modify fun s => g s s.msg.slot.toNat

def execCreateContext (s : State) : Host.Outcome State Fault Refusal := finishEvent (slotStep fun s n => s.createContext n) s
def execRemoveContext (s : State) : Host.Outcome State Fault Refusal := finishEvent (slotStep fun s n => s.removeContext n) s
def execEndLaunch (s : State) : Host.Outcome State Fault Refusal := finishEvent (slotStep fun s n => s.endLaunchCmd n s.msg.value) s

end Sys2Proof.Machine
end

