-- ==== Sys2Proof/Machine/Switch.lean ====
section
/-! DEFINITION. Cuts, quiescence, saving and resuming a context, and the gang switch (spec/08 R224 to R231, spec/07 R197, R211,
spec/09 R253, R254, spec/05 R148). -/
namespace Sys2Proof.Machine
set_option Elab.async false

/-! ### The image of a context (R229, step 4) -/

/-- The listed bytes of a range, by offset. -/
def State.cellsIn (s : State) (a n : Nat) : List (Nat × Byte) :=
  (s.m.mem.filter fun c => decide (a ≤ c.1) && decide (c.1 < a + n)).map fun c => (c.1 - a, c.2)
/-- The poison marks of a range of bytes, as bit offsets. -/
def State.marksIn (s : State) (a n : Nat) : List Nat :=
  (s.m.marks.filter fun k => decide (8 * a ≤ k) && decide (k < 8 * (a + n))).map (· - 8 * a)

/-- Replace a range of on-chip storage: bytes and marks by offset, zero elsewhere. -/
def State.putCells (s : State) (a n : Nat) (cells : List (Nat × Byte)) (marks : List Nat) : State :=
  s.updMem fun m =>
    { m with
      mem := cells.foldl (fun m c => if c.1 < n then Mem.write (a + c.1) c.2 m else m) (Mem.drop a n m.mem)
      marks := marks.foldl (fun l k => if k < 8 * n then natInsert (8 * a + k) l else l) (natDrop (8 * a) (8 * n) m.marks) }

/-- Where a grant's vector share, tiles and accumulators lie, with their sizes. -/
def State.shareAt (s : State) (h : Nat) (g : Grant) : Nat × Nat := (s.ownPa (clusterLa (clusterOf h) (g.voff.toNat * 1024)), g.vsz.toNat * 1024)
def State.tilesAt (s : State) (h : Nat) (g : Grant) : Nat × Nat := (s.ownPa (clusterLa (clusterOf h) (0x80000 + g.tbase.toNat * 0x4000)), g.tcnt.toNat * 0x4000)
def State.accsAt (s : State) (h : Nat) (g : Grant) : Nat × Nat := (s.ownPa (clusterLa (clusterOf h) (0x100000 + g.abase.toNat * 0x8000)), g.acnt.toNat * 0x8000)

def State.saveHart (s : State) (h : Nat) : SavedHart :=
  let x := s.getHart h
  let (v, t, a) := (s.shareAt h x.grant, s.tilesAt h x.grant, s.accsAt h x.grant)
  { launch := x.launch.getD 128, pos := x.logical, phys := h, hart := x, vregs := s.cellsIn v.1 v.2, tiles := s.cellsIn t.1 t.2,
    accs := s.cellsIn a.1 a.2, vmarks := s.marksIn v.1 v.2, tmarks := s.marksIn t.1 t.2, amarks := s.marksIn a.1 a.2 }

/-- The plates of a context. -/
def State.platesOf (s : State) (n : Nat) : List Nat := (s.m.plates.filter fun p => p.2.attach ≠ 0#2 && decide (p.2.ctx.toNat = n)).map (·.1)

def State.savePlate (s : State) (p : Nat) : SavedPlate :=
  let a := s.ownPa (plateLa (p / 128) (p % 128) 0)
  { die := p / 128, plate := p % 128, record := s.plate p, bytes := s.cellsIn a 0x40000, marks := s.marksIn a 0x40000 }

/-- The image of a context as it stands. -/
def State.imageOf (s : State) (n : Nat) : SavedCtx :=
  let hs := s.placedHarts n
  { harts := hs.map s.saveHart, plates := (s.platesOf n).map s.savePlate,
    parks := s.m.slices.flatMap fun t => t.2.parks.filter fun p => hs.contains p.hart
    copies := s.m.clusters.flatMap fun c => (c.2.copies.filter fun x => decide (x.ctx.toNat = n)).map fun x => (c.1, x)
    held := s.fab.remotes.filter fun r => decide (r.ctx.toNat = n), base := 0, size := 0, stamp := 0 }

/-- Take a context off the device: its harts, plates, park entries, watches, copies and the requests of its tables. -/
def State.clearContext (s : State) (n : Nat) : State :=
  let hs := s.placedHarts n
  let s := hs.foldl (fun s h => (((s.unwatch h).unpark h).setHart h .reset)) s
  let s := (s.platesOf n).foldl (fun s p => s.setPlate p .reset) s
  let s := s.updFab fun f => { f with remotes := f.remotes.filter fun r => decide (r.ctx.toNat ≠ n) }
  s.updMem fun m => { m with clusters := m.clusters.map fun c => (c.1, { c.2 with copies := c.2.copies.filter fun x => decide (x.ctx.toNat ≠ n) }) }

/-- The save area of a context as physical address and size, for the bytes that it needs: the one that DCSAVE named when the cut began. -/
def State.saveArea (s : State) (n : Nat) : Nat × Nat := (((s.ctx n).saveNow.extractLsb' 21 31).toNat * 2 ^ 21, s.needOf n * 2 ^ 21)

/-- The bytes that a placed hart takes in the save area (R212). -/
def Grant.savedSize (g : Grant) : Nat := 4096 + g.vsz.toNat * 1024 + g.tcnt.toNat * 16384 + g.acnt.toNat * 32768

/-- The vector record of a hart, in the layout of a `vsave` (spec/09 R255, R256, spec/19 R452); what it takes from the free values is counted. -/
def State.vectorRecord (s : State) (h : Nat) : State × List Byte :=
  let v := (s.getHart h).vec
  match (if v.ill then pure [] else saveItems v v.items 0 : M (List (List (Nat × Bool)))) (s.switchTo h) with
  | .ok items t =>
    let (data, psn) := v.saveData items
    ({ s with free := t.free }, v.saveHeader psn data.length ++ data)
  | .error _ _ => (s, [])

/-- The vector records of harts stand in the area from a place on: each in its hart's bytes, from the last 256 of the 4 KiB before its vector
share (DESIGN CHOICE, unsafe: log entry 88). -/
def State.writeRecords : List Nat → Nat → State → State
  | [], _, s => s
  | h :: l, a, s =>
    let (s, bs) := s.vectorRecord h
    let size := (s.getHart h).grant.savedSize
    State.writeRecords l (a + size) (s.updMem fun m => { m with mem := Mem.writes (a + 3840) (bs.take (size - 3840)) m.mem })

/-- The bytes of a save area are written under the context's key. Beside the vector records, what stands at each place the spec does not say. -/
def State.writeArea (s : State) (n : Nat) (img : SavedCtx) : State × SavedCtx :=
  let (a, size) := s.saveArea n
  let stamp := (s.free + 1) * 2 ^ 64
  let inside := fun (ln : Nat) => decide (a / 64 ≤ ln) && decide (ln < (a + size) / 64)
  if !isHbm (laOf a) then (s, img)
  else
    let s := ({ s with free := s.free + 1 } : State).updMem fun m =>
      { m with
        mem := Mem.drop a size m.mem
        lineKeys := m.lineKeys.filter fun l => !inside l.1
        poisoned := m.poisoned.filter fun l => !inside l
        under := m.under.filter fun l => !inside l.1
        areas := (a / 64, size / 64, { key := s.keyAt (n + 1) a, own := stamp, seen := stamp + 1 }) :: m.areas }
    (State.writeRecords (img.harts.map (·.phys)) (a + 0x100000) s, { img with base := a, size, stamp })

/-- A save area stands as it was written: no line of it has been written, poisoned or scrubbed since, and its key is the same. -/
def State.areaIntact (s : State) (n : Nat) (img : SavedCtx) : Bool :=
  let (lo, hi) := (img.base / 64, (img.base + img.size) / 64)
  let inside := fun (ln : Nat) => decide (lo ≤ ln) && decide (ln < hi)
  decide (img.size = 0) ||
    (!(s.m.lineKeys.any fun l => inside l.1) && !s.m.poisoned.any inside && !(s.m.under.any fun l => inside l.1) &&
      (s.m.areas.find? fun a => decide (a.1 < hi) && decide (lo < a.1 + a.2.1)).any fun a =>
        decide (a.2.2.own = img.stamp) && decide (a.2.2.key = s.keyAt (n + 1) img.base))

/-- n free bytes, by offset, from the k-th free word on. -/
def freeCells (k n : Nat) : List (Nat × Byte) := (List.range n).map fun i => (i, (Config.freeWord (k + i)).setWidth 8)

/-- A hart's saved state read from a save area that no longer stands as it was written: its program counter, its registers, and its vector, tile
and accumulator bytes are free values. -/
def SavedHart.garbled (x : SavedHart) (k : Nat) : SavedHart :=
  let g := x.hart.grant
  { x with
    hart := { x.hart with
      pc := Config.freeWord k &&& ~~~3#64
      regs := { x := Vector.ofFn fun (r : Fin 32) => Config.freeWord (k + 1 + r.val), f := Vector.ofFn fun (r : Fin 32) => Config.freeWord (k + 33 + r.val) } }
    vregs := freeCells (k + 0x100) (g.vsz.toNat * 1024), tiles := freeCells (k + 0x100000) (g.tcnt.toNat * 0x4000)
    accs := freeCells (k + 0x200000) (g.acnt.toNat * 0x8000) }

/-- What a resume reads from a save area that has been overwritten, poisoned or scrubbed: which part of the state each of its bytes holds is not
said, so every register and every stored byte is a free value (DESIGN CHOICE, safe: log entry 88). -/
def SavedCtx.garbled (img : SavedCtx) (k : Nat) : SavedCtx :=
  { img with
    harts := img.harts.zipIdx.map fun x => x.1.garbled (k + x.2 * 2 ^ 24)
    plates := img.plates.zipIdx.map fun x => { x.1 with bytes := freeCells (k + (2048 + x.2) * 2 ^ 24) 0x40000 } }

/-- Save a context and park it. -/
def State.parkContext (s : State) (n : Nat) : State :=
  let (s, img) := s.writeArea n (s.imageOf n)
  let s := (s.clearContext n).updDisp fun d => { d with saved := d.saved.set n img }
  s.updCtx n fun c => { c with state := 2#2, busy := s.commandWaits n }

/-! ### Placement at resume (R229, step 5; R190, R197) -/

/-- New places by old ones. -/
abbrev Moves := List (Nat × Nat)
def Moves.at (m : Moves) (n : Nat) : Nat := ((m.find? fun x => decide (x.1 = n)).map (·.2)).getD n

/-- Where each hart of a context goes: its position through its core table, or where it was if the table gives none or its launch has
ended. -/
def State.hartMoves (s : State) (n : Nat) (img : SavedCtx) : Moves :=
  img.harts.map fun h =>
    (h.phys, ((s.disp.launches.find? fun l => decide (l.1 = h.launch)).bind fun l =>
      s.placeOf n h.hart.sregs.sctb (h.pos / l.2.cext) (h.pos % l.2.cext)).getD h.phys)

/-- The die to which a plate goes: with the hart that holds it, or as the harts of its die go. -/
def plateDie (fh : Moves) (p : SavedPlate) : Nat :=
  if p.record.attach = 2#2 then dieOfHart (fh.at (p.die * 256 + p.record.target / 16))
  else ((fh.find? fun m => decide (dieOfHart m.1 = p.die)).map fun m => dieOfHart m.2).getD p.die

/-- Where each plate goes: the same number where it is free on that die. -/
def State.plateMoves (s : State) (fh : Moves) : List SavedPlate → Moves → Moves
  | [], m => m
  | p :: l, m =>
    let d := plateDie fh p
    let free := fun (q : Nat) => (s.plate q).attach == 0#2 && !(m.any fun x => decide (x.2 = q))
    let want := d * 128 + p.plate
    let q := if free want then want else (((List.range 128).map (d * 128 + ·)).find? free).getD want
    State.plateMoves s fh l ((p.die * 128 + p.plate, q) :: m)

def HandTo.moved (fh : Moves) : HandTo → HandTo
  | .pool => .pool
  | .slot h k give => .slot (fh.at h) k give
  | .station h k n => .station (fh.at h) k n

/-- A plate's record with its TARGET where the core table now puts it: at a hart, or at the cluster of the executor of its station, `home` by its
old number (R91). -/
def Plate.moved (p : Plate) (die : Nat) (home : Option Nat) (fh : Moves) : Plate :=
  { p with
    target := if p.attach = 2#2 then (let h := fh.at (die * 256 + p.target / 16); h % 256 * 16 + p.target % 16)
      else if p.attach = 3#2 then (home.elim p.target fun h => fh.at h / 16 % 16 * 256 + p.target % 256) else p.target
    hand := p.hand.map (·.moved fh) }

/-- The executor of the station at which a plate's tile stands. -/
def State.stationOf (s : State) (p : Nat) : Option Nat :=
  s.disp.orbits.findSome? fun o => (o.2.stations.find? fun t => (t.pro :: t.retro :: (t.inPro ++ t.inRetro)).any fun x => x.plate == some p).map (·.hart)

def State.restorePlate (s : State) (fh fp : Moves) (p : SavedPlate) : State :=
  let q := fp.at (p.die * 128 + p.plate)
  (s.setPlate q (p.record.moved p.die (s.stationOf (p.die * 128 + p.plate)) fh)).putCells (s.ownPa (plateLa (q / 128) (q % 128) 0)) 0x40000 p.bytes p.marks

/-- A configuration under another share: the register length of its request, with VL at most the new VCAP (spec/09 R254). -/
def VecRegs.under (v : VecRegs) (vsz : Nat) : VecRegs :=
  let b := if v.ill then v.b else registerLength vsz (zext v.request)
  { v with b, vl := if v.len ≤ b / v.width then v.vl else BitVec.ofNat 14 (b / v.width) }

/-- A queued entry at its hart's new place: the plates it drains into, and its configuration under the new share. -/
def QEntry.moved (q : QEntry) (fp : Moves) (vsz : Nat) : QEntry :=
  { q with drain := q.drain.map fun d => (d.1, fp.at d.2), since := none, spans := [], vec := q.vec.under vsz }

/-- A hart's slots and queues with its plates where they are now, under a share. -/
def Hart.moved (h : Hart) (die : Nat) (fp : Moves) (vsz : Nat) : Hart :=
  { h with
    slots := h.slots.map fun x => match x with | .attached p => .attached (fp.at (die * 128 + p) % 128) | y => y
    vq := h.vq.map (·.moved fp vsz), mq := h.mq.map (·.moved fp vsz), pushSince := none, window := [], latch := h.latch ||| latchResume }

def CopyCmd.moved (c : CopyCmd) (fh fp : Moves) : CopyCmd :=
  { c with hart := fh.at c.hart, drained := c.drained.map fun d => (d.1, fp.at d.2), filling := c.filling.map fp.at }

def OTile.moved (t : OTile) (fp : Moves) : OTile := { t with plate := t.plate.map fp.at }
def Orbit.moved (o : Orbit) (fh fp : Moves) : Orbit :=
  { o with
    owner := fh.at o.owner
    stations := o.stations.map fun t =>
      { t with hart := fh.at t.hart, pro := t.pro.moved fp, retro := t.retro.moved fp, inPro := t.inPro.map (·.moved fp),
               inRetro := t.inRetro.map (·.moved fp) } }

/-! ### Register lengths (R254) -/

/-- A new register length for a saved configuration, with whether the hart is resized. With ILL = 1 there is no resize. -/
def VecRegs.resize (v : VecRegs) (vsz : Nat) : VecRegs × Bool :=
  let b := registerLength vsz (zext v.request)
  if v.ill then ({ v with b }, false)
  else
    let cap := b / v.width
    if b = 0 then ({ v with b := 0, vl := 0#14, resized := true, ill := true }, true)
    else if v.len ≤ cap then ({ v with b }, false)
    else ({ v with b, vl := BitVec.ofNat 14 cap, resized := true }, true)

/-- The bit of the saved share from which a bit of the share under a new register length comes: each register and each predicate keeps its first
VCAP elements (R254); none where the new bit holds none of them. -/
def VecRegs.fromBit (v w : VecRegs) (x : Nat) : Option Nat :=
  if x < w.nregs * w.b then
    let (j, e) := (x / w.b, x % w.b)
    if e < w.vcap * v.saveWidth j ∧ e < v.b then some (j * v.b + e) else none
  else
    let y := x - w.nregs * w.b
    if w.vcap ≠ 0 ∧ y / w.vcap < 32 ∧ y % w.vcap < v.vcap then some (v.nregs * v.b + y / w.vcap * v.vcap + y % w.vcap) else none

/-- The bit of bytes by offset. -/
def cellBit (l : List (Nat × Byte)) (x : Nat) : Bool := (l.find? fun c => decide (c.1 = x / 8)).any fun c => c.2.getLsbD (x % 8)

/-- Put the saved vector share into a hart's new one. Under a new register length the elements that are lost, and what no element holds, are free
values. -/
def State.restoreShare (s : State) (a n : Nat) (x : SavedHart) (v : VecRegs) : State :=
  if x.hart.vec.b = v.b then s.putCells a n x.vregs x.vmarks
  else
    let from' := x.hart.vec.fromBit v
    let byte := fun (i : Nat) => (List.range 8).foldl (fun (b : Byte) j =>
      if ((from' (8 * i + j)).elim (Config.freeBool (s.free + 8 * i + j)) (cellBit x.vregs)) then b ||| (1#8 <<< j) else b) 0#8
    let t : State := { s with free := s.free + 8 * n }
    t.putCells a n ((List.range n).map fun i => (i, byte i)) ((List.range (8 * n)).filter fun k => (from' k).any x.vmarks.contains)

/-- A watch that was armed is installed again (spec/05 R136, R137); one whose VA no longer leads to HBM is given up (DEDUCED, unsafe: log
entry 126). -/
def State.rearm (s : State) (h : Nat) : State :=
  let x := s.getHart h
  let off := fun (s : State) => s.updHartN h fun x => { x with user := { x.user with watchEn := false } }
  if !x.user.watchEn then s
  else
    let va := ((x.user.watchVa).extractLsb' 0 48).signExtend 64
    match s.lookup (s.walkerOf h) h .data .load va with
    | (s, .fault ..) => off s
    | (s, .leaf e) =>
      let pa := e.pa va
      let t := s.slice (s.homeKey pa)
      if !isHbm (laOf pa) then off s
      else if t.watchFull then (off s).updHartN h (·.setLatch latchWatch)
      else s.setSlice (s.homeKey pa) { t with watches := t.watches ++ [(pa, h)] }

/-- Put a saved hart at its new place under a new grant. -/
def State.restoreHart (s : State) (fh fp : Moves) (x : SavedHart) (g : Grant) : State :=
  let h := fh.at x.phys
  let (v, hit) := x.hart.vec.resize g.vsz.toNat
  let y := { x.hart.moved (dieOfHart x.phys) fp g.vsz.toNat with grant := g, vec := v, resizePending := x.hart.resizePending || hit }
  let s := s.setHart h y
  let (sh, t, a) := (s.shareAt h g, s.tilesAt h g, s.accsAt h g)
  let s := s.restoreShare sh.1 sh.2 x v
  ((s.putCells t.1 t.2 x.tiles x.tmarks).putCells a.1 a.2 x.accs x.amarks).rearm h

/-- A grant that holds nothing of a cluster's files. -/
def Grant.empty (g : Grant) : Grant := { g with voff := 0#9, vsz := 0#10, tbase := 0#5, tcnt := 0#4, abase := 0#4, acnt := 0#3 }

/-- Put the saved harts of one launch back, with grants computed again. Where its harts no longer fit beside the others, they get none of the
files; of two positions that the core table gives one hart, the later stands (DESIGN CHOICE, unsafe: log entry 160). -/
def State.restoreLaunch (s : State) (fh fp : Moves) (l : List SavedHart) : State :=
  match l with
  | [] => s
  | x :: _ =>
    let g := x.hart.grant
    let r := (s.disp.launches.find? fun r => decide (r.1 = x.launch)).map (·.2)
    let a : Ask :=
      { want := (r.map (·.want)).getD g.vsz.toNat, least := (r.map (·.least)).getD g.vsz.toNat, tiles := g.tcnt.toNat, accs := g.acnt.toNat,
        plates := g.pln.toNat, vw := g.vw.toNat, mw := g.mw.toNat, orb := g.orb }
    let harts := l.map fun y => fh.at y.phys
    let gs := (s.grantAll a harts (harts.map clusterOf).eraseDups).getD []
    let s : State := { s with free := s.free + 256 * 128 }
    l.foldl (fun s y => s.restoreHart fh fp y (((gs.find? fun z => decide (z.1 = fh.at y.phys)).map (·.2)).getD y.hart.grant.empty)) s

/-! ### What goes on at a resume -/

/-- Steps of units that a resumed context's state holds: copies, drains, orbits, `klaunch` polls and queue scans. -/
def State.resumeSteps (s : State) (n : Nat) : State :=
  let orbits := (s.disp.orbits.filter fun o => decide (o.1 / 64 = n) && o.2.state == 2#2).flatMap fun o =>
    ((List.range o.2.size).flatMap fun k =>
      [(Instr.orbitRound, orbitMsg o.1 k 0 false), (.orbitRoundEdge, orbitMsg o.1 k 0 false), (.orbitMarker, orbitMsg o.1 k 1 false)]) ++
    [(.orbitLapEnd, orbitMsg o.1 0 0 false), (.orbitComplete, orbitMsg o.1 0 0 false)]
  let polls := (s.placedHarts n).map fun h => (Instr.klaunchPoll, ({ hart := BitVec.ofNat 11 h } : Msg))
  let starts := (s.m.clusters.filter fun c => !c.2.copies.isEmpty).map fun c => (Instr.copyStart, copyMsg c.1)
  let s := (s.platesOf n).foldl (fun s p => s.drainCheck p) s
  (s.copyRetry).after (starts ++ polls ++ orbits ++ scanMsgs)

/-- Restore a context from its image. -/
def State.restoreContext (s : State) (n : Nat) (img : SavedCtx) : State :=
  let fh := s.hartMoves n img
  let fp := s.plateMoves fh img.plates []
  let s := img.plates.foldl (fun s p => s.restorePlate fh fp p) s
  let ls := (img.harts.map (·.launch)).eraseDups
  let s := ls.foldl (fun s l => s.restoreLaunch fh fp (img.harts.filter fun x => decide (x.launch = l))) s
  let s := s.updDisp fun d =>
    { d with
      launches := d.launches.map fun l => if l.2.slot.toNat = n then (l.1, { l.2 with harts := l.2.harts.map fh.at }) else l
      orbits := d.orbits.map fun o => if o.1 / 64 = n then (o.1, o.2.moved fh fp) else o
      saved := d.saved.filter fun x => decide (x.1 ≠ n) }
  let s := img.parks.foldl (fun s p =>
    let k := s.homeKey p.pa
    let t := s.slice k
    s.setSlice k { t with parks := t.parks ++ [{ p with hart := fh.at p.hart }] }) s
  let s := img.copies.foldl (fun s c =>
    let y := c.2.moved fh fp
    let x := s.cluster (clusterOf y.hart)
    s.setCluster (clusterOf y.hart) { x with copies := x.copies ++ [y] }) s
  let s := s.updFab fun f => { f with remotes := f.remotes ++ img.held.map fun r => { r with hart := fh.at r.hart } }
  s.updCtx n fun c => { c with moves := fp }

/-- Held requests are released, and the context's harts meet no copy of a word that is older than the cut (spec/06 R174): the clean words
of its dies' RLC lines go. -/
def State.goOn (s : State) (n : Nat) : State :=
  let s := (s.ctx n).dies.foldl (fun s d => s.acquireRlc d fun _ => true) (s.releaseHeld n)
  (s.updCtx n fun c => { c with state := 1#2 }).resumeSteps n

/-- Resume a parked context (R229, steps 5 to 7); one that has never run gets its pool. -/
def State.resumeContext (s : State) (n : Nat) : State :=
  let s := match s.disp.saved.find? fun x => decide (x.1 = n) with
    | some (_, img) =>
      if s.areaIntact n img then s.restoreContext n img
      else ({ s with free := s.free + 2 ^ 40 } : State).restoreContext n (img.garbled s.free)
    | none => s
  (s.setupPool n).goOn n

/-! ### Cuts (R224 to R226) -/

/-- A hart's switch-out steps (R148). -/
def State.switchOut (s : State) (h : Nat) : State := ((s.release h 3#2 0xFFFE#16).flushPrivate h fun _ => true).disownAll h

/-- Invalidate the L1D of a core and a cluster cache, after what they still hold has gone home. -/
def State.emptyL1 (s : State) (slot c : Nat) : State := (s.core c).l1d.foldl (fun s l => s.evictL1 slot c l.line) s
def State.emptyCC (s : State) (slot k : Nat) : State := (s.cluster k).cc.foldl (fun s l => s.evictCC slot k l.line) s

/-- A hart at a cut: a pending notice is discarded (spec/09 R253), and what its queued accesses had translated is given up. -/
def Hart.cut (h : Hart) : Hart :=
  let drop := fun (q : QEntry) => { q with spans := [] }
  { h with noticePending := false, vq := h.vq.map drop, mq := h.mq.map drop, window := [] }

/-- The harts that a context has used on a die: those placed, and those that have halted or whose launch has failed. -/
def State.usedHarts (s : State) (n die : Nat) : List Nat :=
  s.hartIds.filter fun h => decide (dieOfHart h = die) && decide ((s.getHart h).ctx.toNat = n)

/-- The drain of a context on a die (R226, R148): its copies stop, its harts and those it has used give up what they own, and the caches
of the die, which hold lines of no other context, are emptied. -/
def State.drainDie (s : State) (n die : Nat) : State :=
  let hs := s.usedHarts n die
  let s := (s.placedHarts n).foldl (fun s h => if dieOfHart h = die then s.onHart h (·.finishFlight) else s) s
  let s := s.stopCopies n die
  let s := s.staleFills fun m => decide (dieOfHart m.hart.toNat = die)
  let s := hs.foldl (fun s h => (s.updHartN h (·.cut)).switchOut h) s
  let s := ((s.m.cores.map (·.1)).filter fun c => decide (c / 128 = die)).foldl (fun s c => s.emptyL1 (n + 1) c) s
  ((s.m.clusters.map (·.1)).filter fun k => decide (k / 16 = die)).foldl (fun s k => s.emptyCC (n + 1) k) s

/-- The devices of a context's route table, but this one (R226). -/
def State.peers (s : State) (n : Nat) : List Nat :=
  let srtb := ((s.placedHarts n).head?).elim (((s.startBlock n).getD []).getD 5 0#64) fun h => (s.getHart h).sregs.srtb
  ((List.range 1024).filterMap fun i => s.routeDevice n srtb (BitVec.ofNat 16 i)).eraseDups.filter fun d => decide (d ≠ s.fab.dev.toNat)

/-- The channels of a context to other devices: each of its peers, on every plane that is up (R224). -/
def State.channels (s : State) (n : Nat) : List (Nat × Nat) := (s.peers n).flatMap fun d => s.planesUp.map fun p => (d, p)

/-- The UCIe links between the units of a device: compute dies 0 to 7, I/O dies 8 and 9 (spec/00 R2). -/
def unitLinks : List (Nat × Nat) :=
  [(0, 1), (1, 2), (2, 3), (4, 5), (5, 6), (6, 7), (0, 4), (1, 5), (2, 6), (3, 7), (8, 0), (8, 4), (9, 3), (9, 7)]
def unitPeers (u : Nat) : List Nat := unitLinks.filterMap fun l => if l.1 = u then some l.2 else if l.2 = u then some l.1 else none

def State.cutOf (s : State) (n : Nat) : Option Cut := s.disp.cuts.find? fun c => decide (c.slot = n)
def State.updCut (s : State) (n : Nat) (g : Cut → Cut) : State :=
  s.updDisp fun d => { d with cuts := d.cuts.map fun c => if c.slot = n then g c else c }
def State.endCut (s : State) (n : Nat) : State := s.updDisp fun d => { d with cuts := d.cuts.filter fun c => decide (c.slot ≠ n) }

/-- The message by which a unit of the device begins the cut of a context: a marker on a UCIe link, with the CTXID and the epoch (R224). -/
def unitMarker (ctxid : BitVec 16) (u : Nat) (epoch : BitVec 8) : Instr × Msg :=
  (.cutBegin, { kind := 2#8, unit := BitVec.ofNat 32 u, value := epoch.zeroExtend 64, value2 := ctxid.zeroExtend 64 })

/-- Every unit of the device has begun the cut. -/
def Cut.everywhere (c : Cut) : Bool := (List.range 10).all c.begun.contains

/-- The device's markers of a context's cut go out on every channel (R226, step 4). -/
def State.sendMarkers (s : State) (n : Nat) (epoch : BitVec 8) : State :=
  let l := (s.channels n).map fun c => Packet.marker c.2 c.1 (s.ctxidOf n) (s.ctx n).dtag epoch
  s.updFab fun f => { f with sent := l.reverse ++ f.sent }

/-- A unit begins the cut of a context: it stops and drains what the context does there, and sends markers to the units it is linked to; the
last one lets the device's own markers go (R225, R226). -/
def State.beginUnit (s : State) (n u : Nat) : State :=
  match s.cutOf n with
  | none => s
  | some c =>
    if c.begun.contains u || decide (10 ≤ u) then s
    else
      let s := s.updCut n fun c => { c with begun := u :: c.begun }
      let s := if u < 8 then s.drainDie n u else s
      let s := s.after ((unitPeers u).map fun v => unitMarker (s.ctxidOf n) v c.epoch)
      if (s.cutOf n).any (·.everywhere) then (s.sendMarkers n c.epoch).after [(.cutComplete, { slot := BitVec.ofNat 3 n })] else s

/-- A cut of a context begins at some units of the device. -/
def State.startCut (s : State) (n : Nat) (epoch : BitVec 8) (quiesce : Bool) (units : List Nat) : State :=
  let c : Cut := { slot := n, epoch, quiesce, begun := [], markers := [], complete := false }
  let s := s.updDisp fun d => { d with cuts := c :: d.cuts.filter fun x => decide (x.slot ≠ n) }
  units.foldl (fun s u => s.beginUnit n u) (s.updCtx n fun c => { c with busy := true, epoch })

/-- The contexts that stand on the device: running or quiesced. -/
def State.stands (s : State) (m : Nat) : Bool := (s.ctx m).state == 1#2 || (s.ctx m).state == 3#2

/-- The contexts that a switch to a target parks: every running one where none is resumed, otherwise those that hold its dies, running or
quiesced (spec/07 R185). -/
def State.outgoing (s : State) (all : Bool) (target : Nat) : List Nat :=
  (List.range 8).filter fun m =>
    if all then (s.ctx m).state == 1#2 else s.stands m && decide (m ≠ target) && (s.ctx m).dies.any (s.ctx target).dies.contains

/-- A switch is refused on the device (R231). -/
def State.refuseSwitch (s : State) : State :=
  (s.postEvent 8 4#8 s.disp.switch.latched 0#16 0#8 0#27).updSwitch fun w => { w with refused := true, phase := 0#2 }

/-- A switch takes the save area that DCSAVE names as it begins (R214). -/
def State.takeSave (s : State) (n : Nat) : State := s.updCtx n fun c => { c with saveNow := c.save }

/-- An outgoing context is cut: one that is quiesced, or being quiesced, has its cut already. Each unit's own count reaches T (R225). -/
def State.cutOutgoing (s : State) (n : Nat) : State :=
  let s := s.takeSave n
  if s.cutting n then s.updCut n fun c => { c with quiesce := false }
  else if (s.ctx n).state = 3#2 then
    let c : Cut := { slot := n, epoch := (s.ctx n).epoch, quiesce := false, begun := List.range 10, markers := [], complete := true }
    ((s.updDisp fun d => { d with cuts := c :: d.cuts }).updCtx n fun c => { c with busy := true }).after [(.contextSaved, {})]
  else s.startCut n ((s.ctx n).epoch + 1#8) false (List.range 10)

/-- T has come: the cuts of the armed switch begin; without valid save areas it is refused. -/
def State.switchCut (s : State) : State :=
  let w := s.disp.switch
  let out := s.outgoing w.park w.target.toNat
  if !(out.all s.saveOk) then s.refuseSwitch
  else
    let s := s.updSwitch fun w => { w with phase := 2#2, begun := true }
    (out.foldl (fun s n => s.cutOutgoing n) s).after [(.contextResumed, {})]

/-- A marker of a new epoch begins the cut of the context that it names at unit `u`. A device left unarmed parks the context and resumes
nothing (R228). -/
def State.markerCut (s : State) (n u : Nat) (epoch : BitVec 8) : State :=
  let w := s.disp.switch
  let armed := w.phase == 1#2 && (s.outgoing w.park w.target.toNat).contains n
  if !s.saveOk n then (if armed || w.phase == 0#2 then s.refuseSwitch else s.updSwitch fun w => { w with refused := true })
  else
    let s := if armed then s.updSwitch fun w => { w with phase := 2#2 }
      else if w.phase = 0#2 then s.updSwitch fun w => { w with phase := 2#2, park := true, begun := true, latched := BitVec.ofNat 64 s.time }
      else s
    (s.takeSave n).startCut n epoch false [u]

/-- The beginning of a cut at T (kind 0), or at a unit that a marker of the device reaches (kind 2). -/
def State.cutBegin (s : State) (m : Msg) : State :=
  if m.kind = 0#8 then
    let w := s.disp.switch
    if w.phase ≠ 0#2 ∧ w.begun = false ∧ w.latched.toNat ≤ s.time then s.switchCut else s
  else
    let n := (m.value2.extractLsb' 0 3).toNat
    if s.ctxidOf n = m.value2.setWidth 16 ∧ (s.cutOf n).any (fun c => c.epoch == m.value.setWidth 8) = true then s.beginUnit n m.unit.toNat else s

/-- The I/O die that a plane's port belongs to, as a unit (spec/04 R105). -/
def planeUnit (p : Nat) : Nat := if p < 8 then 8 else 9

/-- A marker of an epoch of a context's cut arrives on a plane from a device; one of a new epoch begins the cut at the I/O die it reaches. -/
def State.marker (s : State) (n src plane : Nat) (epoch : BitVec 8) : State :=
  let s := if !s.cutting n && (s.ctx n).state == 1#2 && epoch != (s.ctx n).epoch then s.markerCut n (planeUnit plane) epoch
    else if (s.cutOf n).any fun c => c.epoch == epoch then s.beginUnit n (planeUnit plane) else s
  if (s.cutOf n).any fun c => c.epoch == epoch then
    (s.updCut n fun c => { c with markers := (src, plane) :: c.markers }).after [(.cutComplete, { slot := BitVec.ofNat 3 n })]
  else s

/-- A port of the host link (spec/04 R105): ports 4 to 7 of IOD0 on the host device. -/
def isHostPort (host : Bool) (p : Nat) : Bool := host && decide (4 ≤ p) && decide (p < 8)
/-- A port with its link up: a host link, or a UALink port whose plane is in use (spec/04 R108). -/
def Port.bringUp (x : Port) (link : Bool) : Port := { x with mode := if link then 2#4 else 1#4, inuse := !link, failed := false }

/-- Failed ports, and planes that are down at another device's end, may come back between a cut and the resume, a free choice each; requests that
waited for a plane then go out (R226, spec/04 R108). -/
def State.bringBack (s : State) : State :=
  let up := fun (i : Nat) (p : Nat × Port) =>
    if p.2.failed && Config.freeBool (s.free + i) && !s.dieHeld (8 + p.1 / 8) then (p.1, p.2.bringUp (isHostPort s.fab.hostDev p.1)) else p
  let t : State := { s with free := s.free + 16 + s.fab.peerDown.length }
  (t.updFab fun f =>
    { f with ports := f.ports.map fun p => up p.1 p
             peerDown := (f.peerDown.zipIdx.filter fun x => !Config.freeBool (s.free + 16 + x.2)).map (·.1) }).resendRemotes

/-- The cut of a context is complete once every unit has begun it and a marker of every peer is held on every plane that is up (R226): a
quiesced context stands where it is (R227). -/
def State.cutComplete (s : State) (n : Nat) : State :=
  match s.cutOf n with
  | none => s
  | some c =>
    if c.complete || !c.everywhere || !((s.channels n).all c.markers.contains) then s
    else
      let s := s.bringBack
      if c.quiesce then (s.endCut n).updCtx n fun x => { x with state := 3#2, busy := s.commandWaits n }
      else (s.updCut n fun c => { c with complete := true }).after [(.contextSaved, {})]

/-- The outgoing contexts whose cuts are complete are saved and park. -/
def State.contextSaved (s : State) : State :=
  let l := s.disp.cuts.filter fun c => c.complete && !c.quiesce
  if l.isEmpty then s else (l.foldl (fun s c => (s.parkContext c.slot).endCut c.slot) s).after [(.contextResumed, {})]

/-- Duration of a switch in ns; saturates. -/
def switchDuration (t : Word) (time : Nat) : BitVec 32 := BitVec.ofNat 32 (min (time - t.toNat) 0xFFFFFFFF)

/-- The incoming context resumes once the outgoing ones are parked, and the switch ends. While another context runs on one of its dies it stays
parked (spec/07 R185; DESIGN CHOICE, unsafe: log entry 162). -/
def State.contextResumed (s : State) : State :=
  let w := s.disp.switch
  if w.phase ≠ 2#2 ∨ w.begun = false ∨ s.disp.cuts.any (fun c => !c.quiesce) = true then s
  else
    let n := w.target.toNat
    let s := if w.park || (s.ctx n).state != 2#2 || (s.ctx n).dies.any (s.heldDies n).contains then s else s.resumeContext n
    s.updSwitch fun w => { w with phase := 0#2, dur := switchDuration w.latched s.time }

/-! ### Commands (R212, R227, R228) -/

/-- DCCTL 1. -/
def State.quiesce (s : State) (n : Nat) : State :=
  if (s.ctx n).state ≠ 1#2 ∨ s.cutting n = true ∨ s.disp.switch.phase = 2#2 then s.dcDone n false
  else s.startCut n ((s.ctx n).epoch + 1#8) true [8]

/-- DCCTL 2: held requests are released and issue resumes; harts that the tables now place elsewhere move. While a running context holds
its dies it stays quiesced (spec/07 R185). -/
def State.endQuiesce (s : State) (n : Nat) : State :=
  if (s.ctx n).state ≠ 3#2 ∨ s.cutting n = true ∨ (s.ctx n).dies.any (s.heldDies n).contains = true then s.dcDone n false
  else
    let img := s.imageOf n
    let same := (s.hartMoves n img).all fun m => decide (m.1 = m.2)
    let s := if same then (img.harts.foldl (fun s h => s.updHartN h.phys (·.setLatch latchResume)) s).updCtx n fun c => { c with moves := [] }
      else (s.clearContext n).restoreContext n img
    (s.dcDone n true).goOn n

/-- The moment of a hart's notice: LEAD ns before the T of the armed switch that parks its context (R229, step 1). -/
def State.noticeDue (s : State) (h : Nat) : Bool :=
  let x := s.getHart h
  let w := s.disp.switch
  w.phase == 1#2 && !x.noticed && x.phase != .idle && s.hartRuns h && (s.outgoing w.park w.target.toNat).contains x.ctx.toNat &&
    x.sregs.snotice != 0#32 && decide (w.latched.toNat ≤ s.time + x.sregs.snotice.toNat)

/-- A hart's notice becomes pending where it takes notices at that moment (R253). -/
def Hart.notice (h : Hart) : Hart := { h with noticed := true, noticePending := h.noticePending || (h.irq.xnot != 0#64 && h.irq.nte) }

/-- The notices that are due. -/
def State.notices (s : State) : State := (s.hartIds.filter s.noticeDue).foldl (fun s h => s.updHartN h (·.notice)) s

def execQuiesce (s : State) : Host.Outcome State Fault Refusal := finishEvent (slotStep fun s n => s.quiesce n) s
def execEndQuiesce (s : State) : Host.Outcome State Fault Refusal := finishEvent (slotStep fun s n => s.endQuiesce n) s
def execSwitchArm (s : State) : Host.Outcome State Fault Refusal := finishEvent (modify fun s => s.armSwitch false s.msg.slot) s
def execSwitchArmPark (s : State) : Host.Outcome State Fault Refusal := finishEvent (modify fun s => s.armSwitch true s.msg.slot) s
def execNotice (s : State) : Host.Outcome State Fault Refusal := finishEvent (modify (·.notices)) s
def execCutBegin (s : State) : Host.Outcome State Fault Refusal := finishEvent (modify fun s => s.cutBegin s.msg) s

/-- The resident slot that holds a domain context tag here (spec/01 R21, spec/02 R64). -/
def State.slotOfTag (s : State) (tag : BitVec 16) : Option Nat :=
  (List.range 8).find? fun n => decide ((s.ctx n).state ≠ 0#2) && (s.ctx n).dtag == tag && tag != 0#16

def execMarker (s : State) : Host.Outcome State Fault Refusal :=
  finishEvent (modify fun s =>
    (s.slotOfTag (s.msg.value2.setWidth 16)).elim s fun n => s.marker n s.msg.dev.toNat (s.msg.unit.toNat % 16) s.msg.kind) s
def execCutComplete (s : State) : Host.Outcome State Fault Refusal := finishEvent (modify fun s => s.cutComplete s.msg.slot.toNat) s
def execContextSaved (s : State) : Host.Outcome State Fault Refusal := finishEvent (modify (·.contextSaved)) s
def execContextResumed (s : State) : Host.Outcome State Fault Refusal := finishEvent (modify (·.contextResumed)) s

/-! ### User boundaries (R251, R254) -/

/-- A resize takes effect (R254). -/
def State.applyResize (s : State) : State :=
  let x := s.hart
  if x.irq.xres ≠ 0#64 then
    let queued := x.vq ++ x.mq
    (s.updHart fun h =>
      { h with vq := [], mq := [], resizePending := false, pc := h.irq.xres, vec := { h.vec with vstart := 0#32 },
               user := { h.user with mstart := 0#10 } }).releaseDrains queued
  else s.updHart fun h => { h with resizePending := false, vec := { h.vec with ill := true } }

/-- A hart stands at a boundary at which a resize takes effect. -/
def Hart.resizes (h : Hart) : Bool := h.resizePending && !h.sup && !h.irq.inh

/-- The item that is delivered first at a user boundary: a notice, an orbit task, a copy done (R251). -/
inductive Delivery where
  | notice
  | item (i : UserItem) (rest : List UserItem)
  deriving DecidableEq, Repr

def UserItem.isTask : UserItem → Bool
  | .orbitTask .. => true
  | .copyDone .. => false

/-- The first item that satisfies a test, with the others. -/
def takeItem (p : UserItem → Bool) (l : List UserItem) : Option (UserItem × List UserItem) :=
  (l.find? p).map fun i => (i, l.eraseP p)

def Hart.delivery (h : Hart) : Option Delivery :=
  if h.sup || h.irq.inh then none
  else if h.noticePending && h.irq.nte then some .notice
  else
    match (if h.irq.ore then takeItem (·.isTask) h.pendingUser else none) with
    | some (i, r) => some (.item i r)
    | none => (if h.irq.cde then takeItem (fun i => !i.isTask) h.pendingUser else none).map fun x => .item x.1 x.2

/-- Deliver a user interrupt (R251); a `wait` that sleeps ends first, by its UINT bit. A copy's handler is entered at the VA that its command gives,
which no rule aligns (R343): one with bits [1:0] set is fetched as it stands (DESIGN CHOICE, unsafe: log entry 163). -/
def Hart.deliver (h : Hart) (d : Delivery) : Hart :=
  let enter := fun (h : Hart) (c : BitVec 4) (target : Word) =>
    { h with irq := { h.irq with xepc := h.pc, inh := true, cause := c }, pc := target, phase := .running }
  match d with
  | .notice => enter { h with noticePending := false } 2#4 h.irq.xnot
  | .item (.orbitTask _ _ target x4 x5 x6) r =>
    let keep := { h with pendingUser := r, irq := { h.irq with keep4 := h.regs.x[4], keep5 := h.regs.x[5], keep6 := h.regs.x[6] } }
    enter (((keep.setX 4#5 x4).setX 5#5 x5).setX 6#5 x6) 3#4 target
  | .item (.copyDone id target) r => enter { h with pendingUser := r, irq := { h.irq with xid := id } } 1#4 target

def execResize (s : State) : Host.Outcome State Fault Refusal :=
  finishEvent (msgHart fun s h => s.onHart h fun s => if s.hart.resizes then s.applyResize else s) s
def execUserInterruptDelivery (s : State) : Host.Outcome State Fault Refusal :=
  finishEvent (msgHart fun s h =>
    s.updHartN h fun x => if x.phase = .running && s.hartRuns h then (x.delivery).elim x x.deliver else x) s

/-- A trap of a hart is taken (R237): cause, TRARG, and where it stands; the trapping instruction is the one at the pc, or the head of
the queue that QK names. -/
def State.trapEntry (s : State) (code : BitVec 8) (arg : Word) (qk : BitVec 2) : State :=
  let q := if qk = 1#2 then s.hart.vq.head? else if qk = 2#2 then s.hart.mq.head? else none
  let s := (q.elim s fun e => s.updHart (·.markFaulted e))
  s.takeTrap code arg qk ((q.map (·.pc)).getD s.hart.pc)

/-- A hart that can take a trap: placed, and not stopped. -/
def Hart.placed (h : Hart) : Bool := match h.phase with
  | .idle | .stopped _ => false
  | _ => true

/-- A cause of R233. -/
def isCause (c : BitVec 8) : Bool := decide (1 ≤ c.toNat) && decide (c.toNat ≤ 0x10)

def execTrapEntry (s : State) : Host.Outcome State Fault Refusal :=
  finishEvent (do
    let s ← get
    if isCause s.msg.kind then set (s.onHart s.msg.hart.toNat fun s => if s.hart.placed then s.trapEntry s.msg.kind s.msg.value s.msg.size else s) else badMsg) s

end Sys2Proof.Machine
end

