-- ==== Sys2Proof/Machine/Units.lean ====
section
/-! DEFINITION. Steps of a hart's own units without an encoding: writes of WATCH and VL, the page walker, the pre-translator, the memory
pipeline, pushes, and the two arbiters (spec/05 R136, spec/13 R330, spec/00 R16, spec/01 R28, R39, spec/09 R249, spec/15 R389, spec/08
R221, R222). -/
namespace Sys2Proof.Machine
set_option Elab.async false

/-- Run a part as the hart that the message names, where it is placed; a trap is that hart's. A part that waits comes again. -/
def hartPart (i : Instr) (m : M Unit) : M Unit := modify fun s =>
  s.onHart s.msg.hart.toNat fun s =>
    if !s.hart.placed then s
    else
      match m s with
      | .ok _ t => t
      | .error (.trap c a) t => t.takeTrap c a 0#2 t.hart.pc
      | .error .stall t => t.after [(i, s.msg)]

/-! ### Register writes with a behaviour of their own -/

def execWatchArm (s : State) : Host.Outcome State Fault Refusal :=
  finishEvent (hartPart .watchArm (cregWrite 0x041#16 (s.msg.value ||| 1#64))) s
def execWatchDisarm (s : State) : Host.Outcome State Fault Refusal :=
  finishEvent (hartPart .watchDisarm (do
    let s ← get
    cregWrite 0x041#16 (s.hart.user.watchVa &&& ~~~1#64))) s

/-- A user write of VL waits for the loads that may shorten it, then clamps it to VCAP (R329, R330). -/
def vlWriteBody (v : Word) : M Unit := do
  let s ← get
  if s.hart.sup then pure () else cregWait 0#16
  cregWrite 0#16 v

def execVlWrite (s : State) : Host.Outcome State Fault Refusal := finishEvent (hartPart .vlWrite (vlWriteBody s.msg.value)) s

/-- A write of a 64-bit register of control space by the host or the supervisor (R16). -/
def execRegisterWrite (s : State) : Host.Outcome State Fault Refusal :=
  finishEvent (do
    let s ← get
    let la := s.msg.addr.toNat
    if laKind la = .control ∧ la % 8 = 0 then set (s.ctlWrite la s.msg.value s.msg.value) else badMsg) s

/-! ### Translation -/

/-- The kind of access of a code (spec/01 R42). -/
def accOfCode (c : BitVec 2) : Acc := if c = 0#2 then .load else if c = 1#2 then .store else if c = 2#2 then .fetch else .rmw

/-- A page walker serves a missed translation of a hart: the tables are walked and the leaf is installed. -/
def State.walkFor (s : State) (h : Nat) (va : Word) (acc : Acc) : State :=
  let w := s.walkerOf h
  if !canonical va || !w.sptb.getLsbD 63 then s
  else if s.walkWaits w va then s.after [(.tableWalk, s.msg)]
  else
    match s.walk w acc va 3 ((w.sptb.extractLsb' 16 40).toNat * 4096) with
    | (s, .leaf e) => s.tlbInstall h (if acc = .fetch then .instr else .data) e
    | (s, .fault ..) => s

def execTableWalk (s : State) : Host.Outcome State Fault Refusal :=
  finishEvent (msgHart fun s h => s.walkFor h s.msg.value (accOfCode s.msg.size)) s

/-- The pre-translator forms the next window of the head's access and translates its pages (R39), of a frozen queue too, in user mode, in which
every queued instruction was issued (DEDUCED, unsafe: log entry 123). -/
def State.pretranslate (s : State) (mat : Bool) : State :=
  match s.headOf mat with
  | none => s
  | some q =>
    let sup := s.hart.sup
    let s := s.updHart fun h => { h with sup := false }
    let (l, store) := s.accesses q
    let w := s.windowFor (if store then .store else .load) q.pwb q.spans (l.filter (fromStart s.hart.vec.vstart))
    w.s.updHart fun h => { h.keepSpans q.seq w.spans with sup := sup }

def execPretranslateWindow (s : State) : Host.Outcome State Fault Refusal :=
  finishEvent (msgHart fun s h => s.onHart h fun s => s.pretranslate s.msg.flag) s

/-- The queues of the executing hart go on: its context runs, and they are not frozen or set aside. -/
def State.serves (s : State) : Bool := s.hartRuns s.cur && s.hart.placed && !s.hart.frozen && !s.hart.sup

/-- The head of a queue that goes on is attempted: whether it completed or trapped. -/
def State.performHead (s : State) (mat : Bool) (p : QEntry → Bool) : State × Bool :=
  if s.serves && (s.headOf mat).any p then s.attemptHead mat else (s, false)

/-- A vector memory instruction, or a push, to which no slice is left. -/
def QEntry.inPipeline (q : QEntry) : Bool := Instr.isPipelined q.instr && q.sliced

def Instr.isMopM : Instr → Bool
  | .mopM .. => true
  | _ => false

/-! ### Pushes (R249, R389) -/

def QEntry.isPush (q : QEntry) : Bool :=
  match q.instr with
  | .vpush .. | .vpushT .. => true
  | _ => false

def execVpushDelivery (s : State) : Host.Outcome State Fault Refusal :=
  finishEvent (msgHart fun s h => s.onHart h fun s => (s.performHead false fun q => q.isPush && q.sliced).1) s

/-- A `vpush` whose wait has reached PUSHLIM. -/
def QEntry.pushExpired (s : State) (q : QEntry) : Bool :=
  q.isPush && q.since.any fun t => decide (s.hart.user.pushlim.toNat ≤ s.cyclesSince t)

def execPushTimeout (s : State) : Host.Outcome State Fault Refusal :=
  finishEvent (msgHart fun s h => s.onHart h fun s => (s.performHead false (QEntry.pushExpired s)).1) s

/-! ### The arbiters (R221, R222) -/

/-- A candidate: its index, weight and counter. -/
structure Cand where
  idx : Nat
  w : Nat
  c : Int
  deriving DecidableEq, Repr

/-- The candidate with the largest counter, the lowest index on a tie. -/
def largest : List Cand → Option Cand
  | [] => none
  | a :: l =>
    match largest l with
    | none => some a
    | some b => if b.c ≤ a.c then some a else some b

/-- One choice: the chosen index and the counters of the weighted candidates after it. -/
def arbitrate (l : List Cand) (last : Nat) : Option (Nat × List (Nat × Int)) :=
  let r := (l.filter fun x => decide (0 < x.w)).map fun x => { x with c := x.c + x.w }
  match largest r with
  | some g =>
    let total : Int := (r.map fun x => (x.w : Int)).foldl (· + ·) 0
    some (g.idx, r.map fun x => (x.idx, if x.idx = g.idx then x.c - total else x.c))
  | none =>
    (((l.filter fun x => decide (last < x.idx)) ++ l).head?).map fun x => (x.idx, [])

/-- A hart is ready for the vector arbiter: the head of its vector queue has a slice left, it waits for nothing in the other queue, and
its operands are available. -/
def State.vectorReady (s : State) (h : Nat) : Bool :=
  let t := s.switchTo h
  t.serves && (t.headOf false).any fun q => !q.sliced && !t.blocked false q && t.available q

/-- A free lane group of a cluster is given to a ready hart's next slice: whether there was one. -/
def State.vectorChoice (s : State) (k : Nat) : State × Bool :=
  let l := ((List.range 16).filter fun i => s.vectorReady (k * 16 + i)).map fun i =>
    let x := s.getHart (k * 16 + i)
    ({ idx := i, w := x.grant.vw.toNat, c := x.arb } : Cand)
  match arbitrate l (s.cluster k).lastV with
  | none => (s, false)
  | some (g, cs) =>
    let s := cs.foldl (fun s x => s.updHartN (k * 16 + x.1) fun h => { h with arb := x.2 }) s
    let s := if cs.isEmpty then s.setCluster k { s.cluster k with lastV := g } else s
    (s.onHart (k * 16 + g) (·.takeSlice), true)

def execVectorSliceEnd (s : State) : Host.Outcome State Fault Refusal := finishEvent (copyUnit fun s k => (s.vectorChoice k).1) s

/-- The hart whose entry stands at the head of a core's matrix queue: the earliest of those that go on. -/
def State.matrixHead (s : State) (c : Nat) : Option Nat :=
  let order := fun (h : Nat) => ((s.getHart h).mq.head?).elim 0 (·.seq)
  match [2 * c, 2 * c + 1].filter fun h => (s.switchTo h).serves && !(s.getHart h).mq.isEmpty with
  | [a, b] => some (if order b < order a then b else a)
  | a :: _ => some a
  | [] => none

/-- The operation at the head of the core queue, where it is the executing hart's, waits for memory without the engine: what it has translated
and requested stays, and nothing of it is performed before the engine takes it (spec/08 R222). -/
def State.matrixMemory (s : State) : State :=
  match s.headOf true with
  | none => s
  | some q =>
    if s.matrixHead (coreOf s.cur) != some s.cur || s.blocked true q || Instr.isMopM q.instr then s
    else
      match runEntry q s with
      | .error .stall t => t
      | _ => s

/-- A window whose pages all have a translation or a fault enters the memory pipeline: of a vector instruction whose slices are out, or of
an operation of the matrix queue (`flag`). -/
def execWindowEnterPipeline (s : State) : Host.Outcome State Fault Refusal :=
  finishEvent (msgHart fun s h => s.onHart h fun s => if s.msg.flag then s.matrixMemory else (s.performHead false (·.inPipeline)).1) s

/-- The operation of a hart at the head of a core queue is ready: it waits for nothing in the vector queue, and, but for `mop.m`, not for
memory. -/
def State.matrixReady (s : State) (h : Nat) : Bool :=
  let t := s.switchTo h
  (t.headOf true).any fun q => !t.blocked true q && t.available q &&
    (Instr.isMopM q.instr || (match runEntry q t with | .error .stall _ => false | _ => true))

/-- The head of a hart's matrix queue is `mop.m`, and its queues go on. -/
def State.streams (s : State) (h : Nat) : Bool := (s.switchTo h).serves && ((s.switchTo h).headOf true).any fun q => Instr.isMopM q.instr

/-- The engine performs the operation of a hart; a `mop.m` that waits for memory holds the engine. -/
def State.operate (s : State) (k h : Nat) : State :=
  let me := s.cur
  let (t, done) := (s.switchTo h).attemptHead true
  let t := t.switchTo me
  t.setCluster k { t.cluster k with engine := if !done && t.streams h then some h else none }

/-- The matrix engine of a cluster takes the next operation among the heads of the core queues: whether it took one. -/
def State.matrixChoice (s : State) (k : Nat) : State × Bool :=
  match (s.cluster k).engine.filter s.streams with
  | some h => (s.operate k h, true)
  | none =>
    let l := (List.range 8).filterMap fun i => ((s.matrixHead (k * 8 + i)).filter s.matrixReady).map fun h =>
      ({ idx := i, w := (s.getHart h).grant.mw.toNat, c := (s.core (k * 8 + i)).marb } : Cand)
    match arbitrate l (s.cluster k).lastM with
    | none => (s, false)
    | some (g, cs) =>
      let s := cs.foldl (fun s x => s.setCore (k * 8 + x.1) { s.core (k * 8 + x.1) with marb := x.2 }) s
      let s := if cs.isEmpty then s.setCluster k { s.cluster k with lastM := g } else s
      ((s.matrixHead (k * 8 + g)).elim s (s.operate k), true)

def execMatrixOperationEnd (s : State) : Host.Outcome State Fault Refusal := finishEvent (copyUnit fun s k => (s.matrixChoice k).1) s

/-- The queues of the executing hart's cluster go on in one place: its own memory pipeline, a slice, or an operation of the matrix engine,
the first or the last of these first by free choice. Whether something was performed. -/
def State.runQueues (s : State) : State × Bool :=
  let k := clusterOf s.cur
  let t : State := { s with free := s.free + 1 }
  let vector := fun (s : State) =>
    match s.performHead false (·.inPipeline) with
    | (s, true) => (s, true)
    | (s, false) => s.vectorChoice k
  let matrix := fun (s : State) => s.matrixMemory.matrixChoice k
  let (a, b) := if Config.freeBool s.free then (matrix, vector) else (vector, matrix)
  match a t with
  | (u, true) => (u, true)
  | (u, false) => b u

end Sys2Proof.Machine
end

