-- ==== Sys2Proof/Machine/Fabric.lean ====
section
/-! DEFINITION. Ports, planes and remote requests, the domain, the host bridge, meridian time and the event queues as agents (spec/04
R102 to R117, spec/21 R475, R476, spec/09 R259, R260). -/
namespace Sys2Proof.Machine
set_option Elab.async false

/-! ### Ports and planes (R107, R108) -/

/-- A port goes down, with the event of a lasting fault where it was up: requests outstanding on its plane are sent again over the planes that
stay up, with their tags. Its plane is measured no longer (R115). -/
def State.portDown (s : State) (p : Nat) : State :=
  let x := s.fab.ports.get .reset p
  let t := (s.updFab fun f =>
    { f with ports := f.ports.set p { x with mode := 0#4, inuse := false, streak := 0, failed := x.failed || x.mode != 0#4 }
             clock := { f.clock with rtt := f.clock.rtt.filter fun c => decide (c.1 ≠ p) } }).resendRemotes
  if x.mode = 0#4 then t else t.lastingEvent (8 + p / 8)

/-- A plane goes down at another device's end (R107): requests outstanding there on it are sent again over another. -/
def State.peerPlaneDown (s : State) (dev p : Nat) : State :=
  if s.fab.peerDown.contains (dev, p) then s else (s.updFab fun f => { f with peerDown := (dev, p) :: f.peerDown }).resendRemotes

/-- A step on the port that a message names. -/
def portStep (g : State → Nat → State) : M Unit := do
  let s ← get
  if s.msg.unit.toNat < 16 then set (g s s.msg.unit.toNat) else badMsg

/-- A port of this device, or (`flag`) the plane of a port at another device's end. -/
def execPortDown (s : State) : Host.Outcome State Fault Refusal :=
  finishEvent (portStep fun s p => if s.msg.flag then s.peerPlaneDown s.msg.dev.toNat p else s.portDown p) s

/-- A flit is retried: the count saturates, and a retry that fails (`fails`) lengthens the row of failed ones. -/
def Port.retried (p : Port) (fails : Bool) : Port :=
  { p with retry := if p.retry = 0xFFFFFF#24 then p.retry else p.retry + 1#24, streak := if fails then p.streak + 1 else 0 }

/-- After 16 failed retries in a row the port goes down (R108, spec/21 R475). -/
def State.flitRetry (s : State) (p : Nat) (fails : Bool) : State :=
  let x := (s.fab.ports.get .reset p).retried fails
  let s := s.updFab fun f => { f with ports := f.ports.set p x }
  if 16 ≤ x.streak then s.portDown p else s

def execUalinkFlitRetry (s : State) : Host.Outcome State Fault Refusal := finishEvent (portStep fun s p => s.flitRetry p s.msg.flag) s

/-- A step on a die-to-die link, numbered in the order of spec/00 R2's table. -/
def linkStep (g : State → Nat → State) : M Unit := do
  let s ← get
  if s.msg.unit.toNat < 14 then set (g s s.msg.unit.toNat) else badMsg

def State.updLink (s : State) (k : Nat) (g : Link → Link) : State :=
  s.updFab fun f => { f with links := f.links.set k (g (f.links.get .reset k)) }

def execUcieFlitRetry (s : State) : Host.Outcome State Fault Refusal :=
  finishEvent (linkStep fun s k => s.updLink k fun l => { l with retry := l.retry + 1 }) s

/-- Lanes repaired in a direction of a link. -/
def Link.repaired (l : Link) (away : Bool) : Nat := if away then l.outward else l.inward
def Link.repair (l : Link) (away : Bool) : Link := if away then { l with outward := l.outward + 1 } else { l with inward := l.inward + 1 }

/-- A direction of a link repairs a lane, up to 4; beyond, the link runs at half width (spec/21 R476). -/
def State.laneRepair (s : State) (k : Nat) (away : Bool) (lane : Nat) : State :=
  let l := s.fab.links.get .reset k
  if l.half then s
  else if l.repaired away < 4 then
    (s.updLink k (·.repair away)).postEvent 8 8#8 (laneId 1 0 k lane) 0#16 0#8 0#27
  else (s.updLink k fun l => { l with half := true }).postEvent 8 8#8 (laneId 2 0 k lane) 0#16 0#8 0#27

/-- The link, its direction (`flag`) and the lane from 0 to 63. -/
def execUcieLaneRepair (s : State) : Host.Outcome State Fault Refusal :=
  finishEvent (linkStep fun s k => s.laneRepair k s.msg.flag (s.msg.value.toNat % 64)) s

/-! ### Remote requests -/

/-- The trap registers' place in program order is that of a store that has retired (spec/09 R236, R238); a trap of the supervisor leaves that of
the trap it serves. -/
def Hart.resends (h : Hart) (pa : Nat) (bs : List Byte) (pc : Word) (seq : Nat) : Hart :=
  { h with resend := (pc &&& ~~~3#64, pa, bs) :: h.resend, trapFrom := if h.sup then h.trapFrom else some (pc, seq) }

/-- The element, or the K step of a tile instruction, at which the head of a queue is to go on (spec/09 R243). -/
def State.failedAt (s : State) (mat : Bool) (k : Nat) : State :=
  if mat then s.updUser fun u => { u with mstart := BitVec.ofNat 10 k } else s.updVec fun v => { v with vstart := BitVec.ofNat 32 k }

/-- A remote request of the executing hart has not been answered within 1 ms (R108): a scalar access (0) or the access at the head of a queue
(2) raises ACCESS_FAULT, an element of the queued access with VSTART at it; a store that retired (1) raises it with QK = 3 and may be sent
again (spec/09 R236, R238). The message names the address: of a request of the hart that is outstanding, or of a store to another device. -/
def State.remoteTimeout (s : State) (m : Msg) : State :=
  let out := fun (r : Remote) => decide (r.hart = s.cur) && !r.held && decide (r.pa / 64 = m.addr.toNat / 64)
  if (if m.kind = 1#8 then !s.isRemote m.addr.toNat else !s.fab.remotes.any out) then s else
  let s := if m.kind = 1#8 then s else s.updFab fun f => { f with remotes := f.remotes.filter fun r => !out r }
  if m.kind = 1#8 then
    (s.updHart (·.resends m.addr.toNat m.bytes m.value2 m.mask.toNat)).takeTrap tcAccessFault m.value 3#2 m.value2
  else if m.kind = 2#8 then (s.failedAt m.flag m.unit.toNat).trapEntry tcAccessFault m.value (queueKind m.flag)
  else s.takeTrap tcAccessFault m.value 0#2 s.hart.pc

/-- An element of a command lies on another device: in its source or its destination. -/
def State.copyRemote (s : State) (c : CopyCmd) : Bool :=
  let off := fun (p : CopyPlace) => match p with
    | .hbm pa | .window pa => decide (devOf pa ≠ s.fab.dev.toNat)
    | .plate .. => false
  (List.range c.src.total).any fun j =>
    (match (s.copyPlace c false (c.src.addr j)).2 with
      | .ok p => off p
      | .error _ => false) || (s.remoteDest c j).isSome

/-- A copy whose remote request has timed out ends with status 5, its progress at the first element that is not performed (spec/13 R345). -/
def State.copyTimeout (s : State) (h : Nat) : State :=
  let k := clusterOf h
  match (s.cluster k).copies.findIdx? fun c => decide (c.hart = h) && c.active && s.copyRemote c with
  | none => s
  | some i => ((s.cluster k).copies[i]?).elim s fun c =>
      (s.failCopy s k i { c with buffer := [] } c.counted.progress 5#8).1

def execRemoteTimeout (s : State) : Host.Outcome State Fault Refusal :=
  finishEvent (do
    let s ← get
    let h := s.msg.hart.toNat
    if s.msg.kind = 3#8 then set (s.copyTimeout h)
    else if 3 < s.msg.kind.toNat then badMsg
    else set (s.onHart h fun s => if s.hart.placed then s.remoteTimeout s.msg else s)) s

/-! ### Requests of other devices -/

/-- An answered request within the last 1 ms. -/
def State.savedAnswer (s : State) (src : BitVec 10) (rtag : BitVec 16) : Option Saved :=
  s.fab.saved.find? fun r => r.src == src && r.rtag == rtag && decide (s.time < r.time + 1000000)

/-- Write the bytes that byte enables name, as an engine does: all of them at once where none is left out, else the words that are named in full
each at once (spec/05 R127), and the other bytes. -/
def State.enabledWrite (s : State) (slot pa : Nat) (mask : Word) (bs : List Byte) : State :=
  if (List.range bs.length).all mask.getLsbD then s.engineWrite slot pa bs
  else (List.range 16).foldl (fun s w =>
    if pa % 4 = 0 ∧ 4 * w + 4 ≤ bs.length ∧ (List.range 4).all (fun i => mask.getLsbD (4 * w + i)) = true then
      s.engineWrite slot (pa + 4 * w) ((bs.drop (4 * w)).take 4)
    else (List.range 4).foldl (fun s i =>
      if mask.getLsbD (4 * w + i) then s.engineWrite slot (pa + (4 * w + i)) ((bs.drop (4 * w + i)).take 1) else s) s) s

/-- The bytes of the on-chip line that byte enables name. -/
def State.enabledStore (s : State) (pa : Nat) (mask : Word) (bs : List Byte) : State :=
  (List.range 64).foldl (fun s i => if mask.getLsbD i then s.homeStore 0 (pa + i) ((bs.drop i).take 1) else s) s

/-- Some enabled byte lies in protected text. -/
def State.enabledProtected (s : State) (pa : Nat) (mask : Word) : Bool :=
  (List.range 64).any fun i => mask.getLsbD i && s.isProtected (pa + i) 1

/-- Perform a request of another device for a context's slot: 0 a read of a line, 1 a write with byte enables, 2 an atomic. A plate is
open to the other device's copy units (spec/01 R24, R25). -/
def State.ingressPerform (s : State) (n : Nat) (kind la : Nat) (m : Msg) : State :=
  let slot := n + 1
  let pa := s.ownPa la
  match laKind la with
  | .hbm =>
    if kind = 0 then
      let (b, p) := s.engineReads slot (dieOf la) pa 64
      s.reply b p
    else if kind = 1 then if s.enabledProtected pa m.mask then s.refuse else (s.enabledWrite slot pa m.mask m.bytes).reply [] false
    else
      match atomicOfCode m.station.toNat with
      | some op => s.atomicMsg slot pa op m.flag (m.words.getD 0 0#64) (m.words.getD 1 0#64)
      | none => s.refuse
  | .plate d p _ =>
    if !(m.flag2 && (s.plate (d * 128 + p)).belongs (BitVec.ofNat 3 n)) || decide (kind = 2) then s.refuse
    else if kind = 0 then s.reply (s.homeBytes 0 pa 64) (natAny (8 * pa) 512 s.m.marks)
    else (s.enabledStore pa m.mask m.bytes).reply [] false
  | _ => s.refuse

/-- A copy's request that was held at a cut, for a plate window, goes to the plate that now holds that plate's contents (spec/08 R226). -/
def State.redirected (s : State) (n la : Nat) : Nat :=
  match laKind la with
  | .plate d p o => (((s.ctx n).moves.find? fun m => decide (m.1 = d * 128 + p)).map fun m => plateLa (m.2 / 128) (m.2 % 128) o).getD la
  | _ => la

/-- A request of another device for a context's slot waits: a released one until the context's restore is complete (spec/08 R229, step 6), any
other below the caches, or for the state of the plate that it names (spec/03 R82). -/
def State.ingressWaits (s : State) (n la : Nat) (m : Msg) : Bool :=
  (m.flag3 && (s.cutting n || (s.ctx n).state == 2#2)) ||
  match laKind la with
  | .hbm => s.engineWaits (n + 1) (dieOf la) (s.ownPa la)
  | .plate d p _ => m.flag2 && (s.plate (d * 128 + p)).belongs (BitVec.ofNat 3 n) && !(s.plate (d * 128 + p)).admits (m.kind == 1#8)
  | _ => false

/-- A step that waits is met again, before any step of its kind that has come after it. -/
def State.againInOrder (s : State) (p : Instr → Bool) (x : Instr × Msg) : State :=
  { s with inbox := s.inbox.filter (fun y => !p y.1) ++ x :: s.inbox.filter fun y => p y.1 }

/-- What a request of another device was answered with is kept for 1 ms (R108). -/
def State.keepAnswer (s : State) (src : BitVec 10) (rtag : BitVec 16) : State :=
  let a := s.fab.answer
  let r : Saved := { src, rtag, answer := BitVec.ofNat 512 (leNat a.bytes), poisoned := a.poisoned, refused := a.refused, time := s.time }
  s.updFab fun f => { f with saved := r :: f.saved.filter fun x => decide (s.time < x.time + 1000000) }

/-- A request arrives over UALink: one that was performed already gets its saved answer; a tag that no resident slot holds is refused. -/
def State.ingress (s : State) (m : Msg) : State :=
  let rtag : BitVec 16 := m.unit.setWidth 16
  match s.savedAnswer m.dev rtag with
  | some r => s.updFab fun f => { f with answer := { bytes := toBytes 64 r.answer.toNat, poisoned := r.poisoned, refused := r.refused } }
  | none =>
    match (if s.isMember m.dev.toNat then s.slotOfTag (m.value2.setWidth 16) else none) with
    | none => s.refuse.keepAnswer m.dev rtag
    | some n =>
      let la := if m.flag3 then s.redirected n m.addr.toNat else m.addr.toNat
      if s.ingressWaits n la m then s.againInOrder (· == .ualinkRequestIngress) (.ualinkRequestIngress, m)
      else (s.ingressPerform n m.kind.toNat la m).keepAnswer m.dev rtag

def execUalinkRequestIngress (s : State) : Host.Outcome State Fault Refusal :=
  finishEvent (do
    let s ← get
    let la := s.msg.addr.toNat
    let ok := decide (la < 2 ^ 42) && (if s.msg.kind = 2#8 then decide (la % (if s.msg.flag then 8 else 4) = 0) else decide (la % 64 = 0)) &&
      decide (s.msg.kind.toNat < 3) && (decide (s.msg.kind ≠ 1#8) || decide (s.msg.bytes.length = 64))
    if ok then set (s.ingress s.msg) else badMsg) s

/-! ### The domain (R109) -/

/-- At bring-up the ports come up that have a link; on the host device four of them are its host link (R11, R105). -/
def State.bringUp (s : State) (host cxl : Bool) (links : Word) : State :=
  s.updFab fun f =>
    { f with hostDev := host, cxl := host && cxl
             ports := (List.range 16).foldl (fun l p =>
               if links.getLsbD p then l.set p ((l.get .reset p).bringUp (isHostPort host p)) else l) f.ports }

/-- Fabric management names the device and a word of the membership; contexts do not run meanwhile. The first time the device is brought
up, which a device in recovery is not: its I/O dies stay in reset (spec/21 R462, R463). -/
def State.domainConfig (s : State) (dev : BitVec 10) (k : Nat) (mem : Word) (host cxl : Bool) (links : Word) : State :=
  let s := if s.fab.devValid then s else s.bringUp host cxl links
  s.updFab fun f => { f with devValid := true, dev := if f.devValid then f.dev else dev, members := f.members.set k mem }

def execDomainConfig (s : State) : Host.Outcome State Fault Refusal :=
  finishEvent (do
    let s ← get
    if !s.trust.booted || ((List.range 8).any fun n => (s.ctx n).state == 1#2) then badMsg
    else set (s.domainConfig s.msg.dev s.msg.station.toNat s.msg.value s.msg.flag s.msg.flag2 s.msg.mask)) s

/-! ### The host bridge (R112 to R114) -/

/-- What an aperture shows at an offset from its base: the physical address with its key slot, where the slot has a context, on another
device one that holds the context too. -/
def State.apertureTarget (s : State) (a : Aperture) (ofs : Nat) : Option (Nat × Nat) :=
  let pa := a.tgt.toNat + ofs
  let n := a.key.toNat - 1
  if isHbm (laOf pa) && decide ((s.ctx n).state ≠ 0#2) && (decide (devOf pa = s.fab.dev.toNat) || s.remoteOk (BitVec.ofNat 3 n) (devOf pa)) then
    some (pa, a.key.toNat)
  else none

/-- The enabled aperture that holds `n` bytes at an offset of BAR2, the lowest where registers written after its enabling let two overlap
(DEDUCED, unsafe: log entry 125). -/
def State.apertureAt (s : State) (ofs n : Nat) : Option (Nat × Nat) :=
  match s.fab.apertures.find? fun a => a.2.enabled && decide (a.2.base.toNat ≤ ofs) && decide (ofs + n ≤ a.2.base.toNat + a.2.size.toNat) with
  | none => none
  | some (_, a) => s.apertureTarget a (ofs - a.base.toNat)

/-- The line of host-managed device memory at a host physical address: what the enabled aperture of its decoder shows there (R112). -/
def State.hdmAt (s : State) (hpa : Nat) : Option (Nat × Nat) :=
  match s.fab.hdm.find? fun d => decide (d.2.base.toNat ≤ hpa) && decide (hpa + 64 ≤ d.2.base.toNat + d.2.size.toNat) with
  | none => none
  | some (_, d) =>
    let a := s.fab.apertures.get .reset d.aperture.toNat
    if a.enabled && decide (hpa - d.base.toNat + 64 ≤ a.size.toNat) then s.apertureTarget a (hpa - d.base.toNat) else none

/-- An Unsupported Request; a read returns all ones. -/
def State.unsupported (s : State) (n : Nat) : State :=
  s.updFab fun f => { f with answer := { bytes := List.replicate n 0xFF#8, poisoned := false, refused := true } }

/-- A step of the host. -/
def isHostAccess (i : Instr) : Bool := i == .hostRead || i == .hostWrite

/-- A host access goes to its place; one that waits there is met again before any later one of the host (R114). -/
def State.hostPlace (s : State) (i : Instr) (n : Nat) (x : Option (Nat × Nat)) (g : Nat → Nat → State) : State :=
  match x with
  | none => s.unsupported n
  | some (pa, slot) => if s.engineWaits slot (dieOf (laOf pa)) pa then s.againInOrder isHostAccess (i, s.msg) else g slot pa

def State.hostRead (s : State) (n : Nat) (x : Option (Nat × Nat)) : State :=
  s.hostPlace .hostRead n x fun slot pa =>
    let (b, p) := s.engineReads slot (dieOf (laOf pa)) pa n
    (s.answerRemote slot (pa / 64)).reply b p

/-- A host write of the bytes of a line, or of fewer, that byte enables name. -/
def State.hostWrite (s : State) (n : Nat) (mask : Word) (bs : List Byte) (x : Option (Nat × Nat)) : State :=
  s.hostPlace .hostWrite n x fun slot pa =>
    if s.enabledProtected pa mask then s.unsupported n else (s.enabledWrite slot pa mask bs).reply [] false

/-- LA of the domain blocks, through which BAR0 is a window. -/
def bar0La (ofs : Nat) : Nat := 0x30008000000 + ofs

/-- A read of the host: BAR0 (`flag`), BAR2, or, of kind 1, a line of host-managed device memory. -/
def execHostRead (s : State) : Host.Outcome State Fault Refusal :=
  finishEvent (do
    let s ← get
    let ofs := s.msg.addr.toNat
    let n := 2 ^ s.msg.size.toNat
    if !s.fab.hostDev then badMsg
    else if s.msg.kind = 1#8 then if s.fab.cxl && decide (ofs % 64 = 0) then set (s.hostRead 64 (s.hdmAt ofs)) else badMsg
    else if ofs % n ≠ 0 then badMsg
    else if s.msg.flag then if ofs < 0x4000000 then set (s.reply (s.ctlBytes (bar0La ofs) n) false) else badMsg
    else if ofs < 2 ^ 44 then set (s.hostRead n (s.apertureAt ofs n)) else badMsg) s

/-- The host programs a decoder of host-managed device memory (R112). -/
def State.setHdm (s : State) (k : Nat) (base size : Word) (aperture : BitVec 5) : State :=
  s.updFab fun f => { f with hdm := f.hdm.set k { base, size, aperture } }

/-- A write of the host: BAR0 (`flag`), BAR2, or, of kind 1, a line of host-managed device memory with byte enables; of kind 2, a
decoder. -/
def execHostWrite (s : State) : Host.Outcome State Fault Refusal :=
  finishEvent (do
    let s ← get
    let ofs := s.msg.addr.toNat
    let n := 2 ^ s.msg.size.toNat
    if !s.fab.hostDev then badMsg
    else if s.msg.kind = 1#8 then
      if s.fab.cxl && decide (ofs % 64 = 0) && decide (s.msg.bytes.length = 64) then set (s.hostWrite 64 s.msg.mask s.msg.bytes (s.hdmAt ofs))
      else badMsg
    else if s.msg.kind = 2#8 then
      if s.fab.cxl && decide (s.msg.unit.toNat < 8) then
        set (s.setHdm s.msg.unit.toNat s.msg.value s.msg.value2 s.msg.bank)
      else badMsg
    else if ofs % n ≠ 0 then badMsg
    else if s.msg.flag then if ofs < 0x4000000 then set ((s.ctlStore (bar0La ofs) (toBytes n s.msg.value.toNat)).reply [] false) else badMsg
    else if ofs < 2 ^ 44 then set (s.hostWrite n (BitVec.ofNat 64 (2 ^ n - 1)) (toBytes n s.msg.value.toNat) (s.apertureAt ofs n)) else badMsg) s

def execHapctlWrite (s : State) : Host.Outcome State Fault Refusal :=
  finishEvent (modify fun s => s.hapctlWrite (s.msg.unit.toNat % 32) s.msg.value s.msg.value) s

/-! ### Meridian time (R115, R116) -/

def State.updClock (s : State) (g : Clock → Clock) : State := s.updFab fun f => { f with clock := g f.clock }

/-- The plane with the least measured round trip, the lowest on a tie. -/
def bestPlane (l : SMap (BitVec 32)) : Option Nat :=
  (l.foldl (fun (b : Option (Nat × BitVec 32)) x => match b with
    | some y => if x.2 < y.2 then some x else some y
    | none => some x) none).map (·.1)

/-- No context has been created yet: the device is being brought up (R116). -/
def State.inBringUp (s : State) : Bool := (List.range 8).all fun n => (s.ctx n).gen == 0#13 && (s.ctx n).state == 0#2

/-- A SYNC message on the plane with the least round trip gives the offset from the master; the count is slewed. At bring-up it steps
forward to the master's. The offset is the master's time, with half the round trip added, less this device's own (DESIGN CHOICE, unsafe: log
entry 164). -/
def State.sync (s : State) (plane : Nat) (t : Word) : State :=
  let c := s.fab.clock
  if c.master || bestPlane c.rtt ≠ some plane then s
  else
    let d : Int := (t.toNat : Int) + ((c.rtt.get 0#32 plane).toNat / 2 : Nat) - s.time
    let s : State := if s.inBringUp then { s with time := s.time + d.toNat } else s
    s.updClock fun c =>
      { c with offset := BitVec.ofInt 32 d, lock := decide (-20 ≤ d) && decide (d ≤ 20), hold := false, lastSync := s.time }

/-- No SYNC has been accepted for 10 ms. -/
def State.syncHold (s : State) : State :=
  let c := s.fab.clock
  if c.master || c.hold || decide (s.time < c.lastSync + 10000000) then s
  else (s.updClock fun c => { c with hold := true }).postEvent 8 5#8 0#64 0#16 0#8 0#27

/-- The time master's SYNC message, with its meridian time, on every plane that is up. -/
def State.sendSync (s : State) : State :=
  if s.fab.clock.master then
    (s.updClock fun c => { c with sent := c.sent + 1 }).updFab fun f =>
      { f with sent := (s.planesUp.map fun p => .sync p (BitVec.ofNat 64 s.time)).reverse ++ f.sent }
  else s

def execMeridianSyncSend (s : State) : Host.Outcome State Fault Refusal := finishEvent (modify (·.sendSync)) s
def execMeridianSync (s : State) : Host.Outcome State Fault Refusal :=
  finishEvent (portStep fun s p => s.sync p s.msg.value) s
def execDelayExchange (s : State) : Host.Outcome State Fault Refusal :=
  finishEvent (portStep fun s p => s.updClock fun c => { c with rtt := c.rtt.set p (s.msg.value.setWidth 32) }) s
def execMeridianHold (s : State) : Host.Outcome State Fault Refusal := finishEvent (modify (·.syncHold)) s
def execTimeMasterNamed (s : State) : Host.Outcome State Fault Refusal :=
  finishEvent (modify fun s => s.updClock fun c => { c with masterDev := some s.msg.dev, master := s.msg.dev == s.fab.dev }) s

/-! ### Event queues -/

/-- A source's next record enters its queue; what follows it comes next while the queue has room (spec/09 R260). -/
def State.acceptNext (s : State) (src : Nat) : State :=
  let s := s.eventAccept src
  if (s.evSource src).hold.isEmpty || (s.evQueue (iodOfSource src)).full || s.dieHeld (8 + iodOfSource src) then s
  else s.after [(.eventAccept, { unit := BitVec.ofNat 32 src })]

def execEventAccept (s : State) : Host.Outcome State Fault Refusal :=
  finishEvent (do
    let s ← get
    if s.msg.unit.toNat < 10 then set (s.acceptNext s.msg.unit.toNat) else badMsg) s
def execEqheadWrite (s : State) : Host.Outcome State Fault Refusal :=
  finishEvent (do
    let s ← get
    if s.msg.unit.toNat < 2 then set (s.eqheadWrite s.msg.unit.toNat s.msg.value) else badMsg) s

end Sys2Proof.Machine
end

