-- ==== Sys2Proof/Machine/Crypto.lean ====
section
/-! DEFINITION. The signatures of the trust die (spec/00 R10, spec/21 R465, R468): SHA-384 as FIPS 180-4 gives it, and the verification of an
ECDSA signature over the curve brainpoolP384r1 of RFC 5639 (PRESUMED from those standards: log entry 8). -/
namespace Sys2Proof.Machine
set_option Elab.async false

/-! ### SHA-384 -/

/-- The round constants: the first 64 bits of the fractional parts of the cube roots of the first 80 primes. -/
def sha384K : List Word :=
  [0x428a2f98d728ae22#64, 0x7137449123ef65cd#64, 0xb5c0fbcfec4d3b2f#64, 0xe9b5dba58189dbbc#64] ++
  [0x3956c25bf348b538#64, 0x59f111f1b605d019#64, 0x923f82a4af194f9b#64, 0xab1c5ed5da6d8118#64] ++
  [0xd807aa98a3030242#64, 0x12835b0145706fbe#64, 0x243185be4ee4b28c#64, 0x550c7dc3d5ffb4e2#64] ++
  [0x72be5d74f27b896f#64, 0x80deb1fe3b1696b1#64, 0x9bdc06a725c71235#64, 0xc19bf174cf692694#64] ++
  [0xe49b69c19ef14ad2#64, 0xefbe4786384f25e3#64, 0x0fc19dc68b8cd5b5#64, 0x240ca1cc77ac9c65#64] ++
  [0x2de92c6f592b0275#64, 0x4a7484aa6ea6e483#64, 0x5cb0a9dcbd41fbd4#64, 0x76f988da831153b5#64] ++
  [0x983e5152ee66dfab#64, 0xa831c66d2db43210#64, 0xb00327c898fb213f#64, 0xbf597fc7beef0ee4#64] ++
  [0xc6e00bf33da88fc2#64, 0xd5a79147930aa725#64, 0x06ca6351e003826f#64, 0x142929670a0e6e70#64] ++
  [0x27b70a8546d22ffc#64, 0x2e1b21385c26c926#64, 0x4d2c6dfc5ac42aed#64, 0x53380d139d95b3df#64] ++
  [0x650a73548baf63de#64, 0x766a0abb3c77b2a8#64, 0x81c2c92e47edaee6#64, 0x92722c851482353b#64] ++
  [0xa2bfe8a14cf10364#64, 0xa81a664bbc423001#64, 0xc24b8b70d0f89791#64, 0xc76c51a30654be30#64] ++
  [0xd192e819d6ef5218#64, 0xd69906245565a910#64, 0xf40e35855771202a#64, 0x106aa07032bbd1b8#64] ++
  [0x19a4c116b8d2d0c8#64, 0x1e376c085141ab53#64, 0x2748774cdf8eeb99#64, 0x34b0bcb5e19b48a8#64] ++
  [0x391c0cb3c5c95a63#64, 0x4ed8aa4ae3418acb#64, 0x5b9cca4f7763e373#64, 0x682e6ff3d6b2b8a3#64] ++
  [0x748f82ee5defb2fc#64, 0x78a5636f43172f60#64, 0x84c87814a1f0ab72#64, 0x8cc702081a6439ec#64] ++
  [0x90befffa23631e28#64, 0xa4506cebde82bde9#64, 0xbef9a3f7b2c67915#64, 0xc67178f2e372532b#64] ++
  [0xca273eceea26619c#64, 0xd186b8c721c0c207#64, 0xeada7dd6cde0eb1e#64, 0xf57d4f7fee6ed178#64] ++
  [0x06f067aa72176fba#64, 0x0a637dc5a2c898a6#64, 0x113f9804bef90dae#64, 0x1b710b35131c471b#64] ++
  [0x28db77f523047d84#64, 0x32caab7b40c72493#64, 0x3c9ebe0a15c9bebc#64, 0x431d67c49c100d4c#64] ++
  [0x4cc5d4becb3e42b6#64, 0x597f299cfc657e2a#64, 0x5fcb6fab3ad6faec#64, 0x6c44198c4a475817#64]

/-- The initial hash value. -/
def sha384H : List Word :=
  [0xcbbb9d5dc1059ed8#64, 0x629a292a367cd507#64, 0x9159015a3070dd17#64, 0x152fecd8f70e5939#64] ++
  [0x67332667ffc00b31#64, 0x8eb44a8768581511#64, 0xdb0c2e0d64f98fa7#64, 0x47b5481dbefa4fa4#64]

/-- A byte string as a big-endian number. -/
def beNat (l : List Byte) : Nat := l.foldl (fun n b => n * 256 + b.toNat) 0

/-- The message padded to whole blocks of 128 bytes. -/
def sha384Pad (l : List Byte) : List Byte :=
  l ++ [0x80#8] ++ List.replicate ((239 - l.length % 128) % 128) 0#8 ++ (List.range 16).map fun i => BitVec.ofNat 8 (8 * l.length / 256 ^ (15 - i))

/-- The message schedule, the latest word first: sixteen words of the block, each further one from those before it. -/
def sha384Schedule (block : List Byte) : List Word :=
  (List.range 64).foldl (fun w _ =>
      let a := w.getD 1 0#64
      let b := w.getD 14 0#64
      let s1 := a.rotateRight 19 ^^^ a.rotateRight 61 ^^^ (a >>> 6)
      let s0 := b.rotateRight 1 ^^^ b.rotateRight 8 ^^^ (b >>> 7)
      (s1 + w.getD 6 0#64 + s0 + w.getD 15 0#64) :: w)
    ((List.range 16).map fun i => BitVec.ofNat 64 (beNat ((block.drop (8 * i)).take 8))).reverse

/-- One round on the eight working variables. -/
def sha384Round (v : List Word) (kw : Word × Word) : List Word :=
  match v with
  | [a, b, c, d, e, f, g, h] =>
    let s1 := e.rotateRight 14 ^^^ e.rotateRight 18 ^^^ e.rotateRight 41
    let t1 := h + s1 + ((e &&& f) ^^^ (~~~e &&& g)) + kw.1 + kw.2
    let s0 := a.rotateRight 28 ^^^ a.rotateRight 34 ^^^ a.rotateRight 39
    let t2 := s0 + ((a &&& b) ^^^ (a &&& c) ^^^ (b &&& c))
    [t1 + t2, a, b, c, d + t1, e, f, g]
  | l => l

/-- The hash value after one more block. -/
def sha384Block (h : List Word) (block : List Byte) : List Word :=
  List.zipWith (· + ·) h ((sha384K.zip (sha384Schedule block).reverse).foldl sha384Round h)

/-- SHA-384: the digest of a byte string, its first byte in the most significant place. -/
@[irreducible] def sha384 (l : List Byte) : BitVec 384 :=
  let p := sha384Pad l
  let h := (List.range (p.length / 128)).foldl (fun h i => sha384Block h ((p.drop (128 * i)).take 128)) sha384H
  BitVec.ofNat 384 ((h.take 6).foldl (fun n w => n * 2 ^ 64 + w.toNat) 0)

/-! ### ECDSA over brainpoolP384r1 -/

/-- The prime of the field, the coefficients of the curve, its base point and the order of that point. -/
def curveP : Nat := 0x8CB91E82A3386D280F5D6F7E50E641DF152F7109ED5456B412B1DA197FB71123ACD3A729901D1A71874700133107EC53
def curveA : Nat := 0x7BC382C63D8C150C3C72080ACE05AFA0C2BEA28E4FB22787139165EFBA91F90F8AA5814A503AD4EB04A8C7DD22CE2826
def curveB : Nat := 0x4A8C7DD22CE28268B39B55416F0447C2FB77DE107DCD2A62E880EA53EEB62D57CB4390295DBC9943AB78696FA504C11
def baseX : Nat := 0x1D1C64F068CF45FFA2A63A81B7C13F6B8847A3E77EF14FE3DB7FCAFE0CBD10E8E826E03436D646AAEF87B2E247D4AF1E
def baseY : Nat := 0x8ABE1D7520F9C2A45CB1EB8E95CFD55262B70B29FEEC5864E19C054FF99129280E4646217791811142820341263C5315
def curveQ : Nat := 0x8CB91E82A3386D280F5D6F7E50E641DF152F7109ED5456B31F166E6CAC0425A7CF3AB6AF6B7FC3103B883202E9046565

/-- The bits of a 384-bit number, the most significant first. -/
def bits384 (n : Nat) : List Bool := (List.range 384).map fun i => n.testBit (383 - i)

/-- A power modulo m, by squaring. -/
def powMod (a e m : Nat) : Nat := (bits384 e).foldl (fun r b => if b then r * r % m * a % m else r * r % m) 1
/-- The inverse modulo a prime. -/
def invMod (a m : Nat) : Nat := powMod (a % m) (m - 2) m
/-- A difference modulo the field's prime. -/
def subP (a b : Nat) : Nat := (a + curveP - b % curveP) % curveP

/-- The third point on the line of slope l through two points, reflected. -/
def onSlope (l : Nat) (p q : Nat × Nat) : Nat × Nat :=
  let x := subP (l * l) (p.1 + q.1)
  (x, subP (l * subP p.1 x) p.2)

/-- The sum of two points of the curve; none is the point at infinity. -/
def pointAdd : Option (Nat × Nat) → Option (Nat × Nat) → Option (Nat × Nat)
  | none, q => q
  | p, none => p
  | some p, some q =>
    if p.1 ≠ q.1 then some (onSlope (subP q.2 p.2 * invMod (subP q.1 p.1) curveP) p q)
    else if (p.2 + q.2) % curveP = 0 then none
    else some (onSlope ((3 * p.1 * p.1 + curveA) * invMod (2 * p.2) curveP) p q)

/-- A multiple of a point. -/
def pointMul (k : Nat) (p : Option (Nat × Nat)) : Option (Nat × Nat) :=
  (bits384 k).foldl (fun r b => if b then pointAdd (pointAdd r r) p else pointAdd r r) none

/-- A point of the curve from its 97 bytes: 4 and the two coordinates, big-endian. -/
def pointOf (l : List Byte) : Option (Nat × Nat) :=
  let x := beNat ((l.drop 1).take 48)
  let y := beNat ((l.drop 49).take 48)
  if l.length = 97 ∧ l.head? = some 4#8 ∧ x < curveP ∧ y < curveP ∧ y * y % curveP = (x * x * x + curveA * x + curveB) % curveP then some (x, y)
  else none

/-- A 96-byte signature, two 48-byte big-endian numbers, over a digest verifies under a 97-byte public point. -/
@[irreducible] def signatureVerifies (point : List Byte) (digest : BitVec 384) (sig : List Byte) : Bool :=
  let r := beNat (sig.take 48)
  let s := beNat ((sig.drop 48).take 48)
  match pointOf point with
  | none => false
  | some key =>
    if sig.length ≠ 96 ∨ r = 0 ∨ curveQ ≤ r ∨ s = 0 ∨ curveQ ≤ s then false
    else
      let w := invMod s curveQ
      match pointAdd (pointMul (digest.toNat * w % curveQ) (some (baseX, baseY))) (pointMul (r * w % curveQ) (some key)) with
      | none => false
      | some v => decide (v.1 % curveQ = r)

end Sys2Proof.Machine
end

