-- ==== Sys2Proof/Machine/Trust.lean ====
section
/-! DEFINITION. The trust die: boot and resets, the die-lost protocol, and the commands of the mailbox (spec/21 R462 to R478). -/
namespace Sys2Proof.Machine
set_option Elab.async false

/-! ### Measurements (R462, R471) -/

/-- Measurement 1 to 6: of the images that run. -/
def State.imageDigest (s : State) (i : Nat) : BitVec 384 := s.trust.measurements.get (Config.measured i) i

/-- Bytes of a digest, the first byte first. -/
def digestBytes (d : BitVec 384) : List Byte := (toBytes 48 d.toNat).reverse

/-- The owner keys of the eight slots. -/
def Trust.ownerList (t : Trust) : List (Option (List Byte × Word)) :=
  (List.range 8).map fun i => (t.ownerKeys.find? fun k => decide (k.1 = i)).map (·.2)

/-- Measurement 1 to 8; 7 and 8 are computed when they are asked for. -/
def State.measurement (s : State) (i : Nat) : BitVec 384 :=
  if i = 7 then sha384 (Config.keysBytes s.trust.ownerList)
  else if i = 8 then sha384 ((s.trust.objects.filter (·.2.live)).flatMap fun o => digestBytes o.2.digest)
  else s.imageDigest i

/-! ### Keys of the device (R465) -/

/-- The device identity key, for the device's life. -/
def identityKey : BitVec 384 := Config.deriveIdentity Config.deviceSecret
/-- The alias key of this boot. -/
def State.aliasKey (s : State) : BitVec 384 := Config.deriveAlias identityKey (s.measurement 1) (s.measurement 2)
/-- The certificate chain, which is SPDM certificate slot 0. -/
def State.certChain (s : State) : List Byte := Config.certificates identityKey s.aliasKey

/-! ### Cold boot and recovery (R462, R463) -/

/-- An image verifies: the key that it carries is the fused firmware key, its signature is that key's over its digest, and its version is not
below the fused minimum (R462 step 1). -/
def Firmware.good (f : Firmware) : Bool :=
  sha384 f.key == Config.firmwareKeyDigest && signatureVerifies f.key f.digest f.sig && decide (Config.minVersion ≤ f.version)

/-- The measurements 2 to 6 whose image fails its verification: a replaced image by its own check; of the images that the module was built with,
those that `orig` names. -/
def Trust.badImages (t : Trust) (orig : List Nat) : List Nat :=
  [2, 3, 4, 5, 6].filter fun i => match t.firmware.find? fun f => decide (f.1 = i) with
    | some f => !f.2.good
    | none => orig.contains i

/-- What the trust die keeps over a cold reset: the owner keys and the images in the non-volatile store. The images are verified again; a
measurement that fails reports zero. -/
def Trust.coldBoot (t : Trust) (orig : List Nat) : Trust :=
  let bad := t.badImages orig
  { Trust.reset with
    ownerKeys := t.ownerKeys
    firmware := t.firmware
    recovery := !bad.isEmpty
    booted := bad.isEmpty
    bad
    measurements := bad.foldl (fun l i => SMap.set i 0#384 l) (t.firmware.map fun f => (f.1, f.2.digest)) }

/-- Power-up or cold reset: everything is as after reset and what was under way is gone, spares apply again, the stacks are scrubbed, and no
earlier key is used again. A failed verification leaves the device in recovery. -/
def State.coldBoot (s : State) (orig : List Nat) : State :=
  let z := State.reset
  let z := z.updMem fun m =>
    { m with
      channels := s.m.channels.map fun c => (c.1, { Channel.reset with spared := c.2.spared })
      scrubs := (List.range 8).foldl (fun l d => l.set (s.fab.dev.toNat * 64 + d) (s.m.scrubs.get 0 (s.fab.dev.toNat * 64 + d) + 1)) s.m.scrubs
      nextKey := s.m.nextKey + 9
      slotKeys := (List.range 9).map fun i => (i, s.m.nextKey + i) }
  { z with trust := s.trust.coldBoot orig, time := s.time, msg := s.msg, turns := s.turns, tick := s.tick, free := s.free }

/-- The images that a mask names, by measurement. -/
def imagesOf (m : Word) : List Nat := [2, 3, 4, 5, 6].filter (m.getLsbD ·)

/-- The message names those of the module's own images that do not verify; it is the outside world's (log entry 9). -/
def execColdBoot (s : State) : Host.Outcome State Fault Refusal :=
  finishEvent (modify fun s => s.coldBoot (imagesOf s.msg.mask)) s

/-- A firmware image over SPDM for measurement `i`: one that verifies is stored; a device in recovery then performs a cold reset, at which the
images that the module was built with fail or pass as before. -/
def State.firmwareImage (s : State) (i : Nat) (f : Firmware) : State :=
  if !f.good || !decide (2 ≤ i ∧ i ≤ 6) then s.refuse
  else
    let again : Msg := { mask := s.trust.bad.foldl (fun m i => m ||| BitVec.twoPow 64 i) 0#64 }
    let s := (s.updTrust fun t => { t with firmware := t.firmware.set i f, staged := true }).reply [] false
    if s.trust.recovery then s.after [(.coldBoot, again)] else s

/-- The image that a message carries: its digest, version, and the 97 bytes of the key with the 96 of the signature. -/
def Msg.firmware (m : Msg) : Firmware := { digest := m.digest, version := m.value, key := m.bytes.take 97, sig := m.bytes.drop 97 }

def execRecoveryFirmwareImage (s : State) : Host.Outcome State Fault Refusal :=
  finishEvent (modify fun s => s.firmwareImage s.msg.kind.toNat s.msg.firmware) s

/-! ### Die lost (R478) -/

/-- The hart that a registration, watch, park entry or ticket names lies on a die of a device. -/
def State.goneHart (s : State) (dev : BitVec 10) (die h : Nat) : Bool := s.ownerDev h == dev && decide (dieOfHart (ownerHart h) = die)

/-- What a slice holds of the harts of a lost die goes; tickets they had drawn are marked. -/
def SliceState.dropDie (t : SliceState) (gone : Nat → Bool) : SliceState :=
  { t with
    regs := t.regs.filter fun e => !gone e.hart
    watches := t.watches.filter fun w => !gone w.2
    parks := t.parks.filter fun p => !gone p.hart
    tickets := t.tickets.map fun x => if gone x.hart then { x with lost := true } else x }

/-- Tickets of harts that are gone are passed where now-serving stands at them. -/
def State.passLost (s : State) : State :=
  let l := s.m.slices.flatMap fun t => t.2.tickets.filter (·.lost)
  l.foldl (fun s t =>
    let n := nowServing (s.homeReadNat t.slot t.pa 8)
    if (s.slice (s.homeKey t.pa)).tickets.any fun x => decide (x.pa = t.pa) && x.ticket == n && x.lost then s.serve t.slot t.pa n n else s) s

/-- A die-lost message reaches the dies of this device, which acknowledge it: each die but the lost one to the I/O die of this device, all ten
to that of another. -/
def State.dieLost (s : State) (dev : BitVec 10) (die : Nat) : State :=
  let s := (s.updMem fun m => { m with slices := m.slices.map fun t => (t.1, t.2.dropDie (s.goneHart dev die)) }).passLost
  if dev = s.fab.dev then s.after (List.replicate 9 (.dieLostAck, { die := BitVec.ofNat 3 die }))
  else (List.range 10).foldl (fun s _ => s.tellAll dev.toNat (.dieLostAck die)) s

/-- The other members of the domain. -/
def State.otherMembers (s : State) : List Nat := (List.range 1024).filter fun d => decide (d ≠ s.fab.dev.toNat) && s.isMember d

/-- The die-lost message of a die of this device goes to its other dies and to every other member (R478). -/
def State.sendDieLost (s : State) (die : Nat) : State :=
  (s.otherMembers.foldl (fun s d => s.tellAll d (.dieLost die)) s).after [(.dieLost, { dev := s.fab.dev, die := BitVec.ofNat 3 die })]

/-- An acknowledgement; with the last one the die leaves reset. A die whose image failed its check awaits none and stays. -/
def ackDie (die : Nat) (d : Nat × Nat) : Option (Nat × Nat) :=
  if d.1 ≠ die ∨ d.2 = 0 then some d else if d.2 = 1 then none else some (d.1, d.2 - 1)
def State.dieLostAck (s : State) (die : Nat) : State := s.updFab fun f => { f with lostDies := f.lostDies.filterMap (ackDie die) }

def execDieLost (s : State) : Host.Outcome State Fault Refusal := finishEvent (modify fun s => s.dieLost s.msg.dev s.msg.die.toNat) s
def execDieLostAck (s : State) : Host.Outcome State Fault Refusal := finishEvent (modify fun s => s.dieLostAck s.msg.die.toNat) s

/-- Acknowledgements that a die-lost message of this device awaits: the other compute dies and the I/O dies here, ten dies on every
other member. -/
def State.ackCount (s : State) : Nat := 9 + 10 * s.otherMembers.length

/-! ### Warm resets (R464, R477) -/

/-- The LA of on-chip storage of a die. -/
def windowOfDie (die la : Nat) : Bool :=
  match laKind la with
  | .plate d .. => decide (d = die)
  | .vreg c _ | .tile c _ | .acc c _ => decide (c / 16 = die)
  | _ => false

/-- What HBM holds of a home line is what is read at home: the words that its slice alone held are lost. -/
def State.loseLine (s : State) (ln : Nat) (u : Under) : State :=
  s.updMem fun m =>
    { m with
      mem := u.cells.foldl (fun l c => Mem.write c.1 c.2 l) (Mem.drop (ln * 64) 64 m.mem)
      lineKeys := m.lineKeys.set ln u.key
      poisoned := if u.psn then natInsert ln m.poisoned else m.poisoned.erase ln
      under := m.under.filter fun x => decide (x.1 ≠ ln) }

/-- Words held dirty in home lines of a die's slices read their HBM values (R477). -/
def State.loseDirty (s : State) (die : Nat) : State :=
  (s.m.under.filter fun u => decide (devOf (u.1 * 64) = s.fab.dev.toNat) && decide (dieOf (laOf (u.1 * 64)) = die)).foldl
    (fun s u => s.loseLine u.1 u.2) s

/-- The harts, caches, registrations and on-chip storage of a die are as after reset; its plates are in the pool, EMPTY. -/
def State.clearDie (s : State) (die : Nat) : State :=
  let s := s.loseDirty die
  let own := fun (pa : Nat) => decide (devOf pa = s.fab.dev.toNat) && windowOfDie die (laOf pa)
  let s := { s with hart := (if dieOfHart s.cur = die then .reset else s.hart), others := s.others.filter fun h => decide (dieOfHart h.1 ≠ die) }
  s.updMem fun m =>
    { m with
      mem := m.mem.filter fun c => !own c.1
      marks := m.marks.filter fun b => !own (b / 8)
      cores := m.cores.filter fun c => decide (c.1 / 128 ≠ die)
      clusters := m.clusters.filter fun c => decide (c.1 / 16 ≠ die)
      slices := m.slices.filter fun t => !(decide (t.1 < 1024) && decide (t.1 / 16 = die))
      plates := m.plates.map fun p =>
        if p.1 / 128 = die ∧ p.2.attach ≠ 0#2 then (p.1, { Plate.reset with attach := 1#2, ctx := p.2.ctx }) else p }

/-- A stack is trained and scrubbed again: its contents are lost. -/
def State.scrubStack (s : State) (die : Nat) : State :=
  let k := s.fab.dev.toNat * 64 + die
  s.updMem fun m =>
    { m with
      mem := m.mem.filter fun c => !(decide (c.1 / 2 ^ 36 = k) && isHbm (laOf c.1))
      lineKeys := m.lineKeys.filter fun l => !(decide (l.1 * 64 / 2 ^ 36 = k) && isHbm (laOf (l.1 * 64)))
      areas := m.areas.filter fun a => decide (a.1 * 64 / 2 ^ 36 ≠ k)
      poisoned := m.poisoned.filter fun l => !(decide (l * 64 / 2 ^ 36 = k) && isHbm (laOf (l * 64)))
      under := m.under.filter fun u => decide (u.1 * 64 / 2 ^ 36 ≠ k)
      scrubs := m.scrubs.set k (m.scrubs.get 0 k + 1) }

/-- The launches that had harts on a die; the harts of a parked context stand on none. -/
def State.launchesOn (s : State) (die : Nat) : List Nat :=
  (s.disp.launches.filter fun l => (s.ctx l.2.slot.toNat).state != 2#2 && l.2.harts.any fun h => decide (dieOfHart h = die)).map (·.1)

/-- A warm reset of a compute die: its launches fail once, its state is lost, the die-lost message goes out, and its stack is trained
again where its restore fails. The agents read every TAIL and dependence word again (spec/08 R220). With another image the die stays in reset and the device enters recovery. -/
def State.warmCompute (s : State) (die : Nat) (image : BitVec 384) (restored : Bool) : State :=
  let s := (s.launchesOn die).foldl (fun s l => s.failLaunch l) s
  let s := s.clearDie die
  let s := if restored then s else (s.scrubStack die).postEvent 8 8#8 (laneId 0 die 0 63) 0#16 0#8 0#27
  let good := image == s.imageDigest 4
  let s := s.updFab fun f => { f with lostDies := (die, if good then s.ackCount else 0) :: f.lostDies.filter fun d => decide (d.1 ≠ die) }
  let s := if good then s else s.updTrust fun t => { t with recovery := true }
  (s.sendDieLost die).after scanMsgs

def execWarmResetComputeDie (s : State) : Host.Outcome State Fault Refusal :=
  finishEvent (modify fun s => s.warmCompute s.msg.die.toNat s.msg.digest s.msg.flag) s

/-- A warm reset of an I/O die: its planes leave, its translations go, and its agent scans every queue again. With another image the die
stays in reset, where it serves nothing, and the device enters recovery. -/
def State.warmIo (s : State) (i : Nat) (image : BitVec 384) : State :=
  let s := (List.range 8).foldl (fun s p => s.portDown (i * 8 + p)) s
  let s := s.updMem fun m =>
    { m with
      walkCache := m.walkCache.filter fun w => decide (w.1 ≠ i)
      seqTlb := m.seqTlb.filter fun w => decide (w.1 ≠ i)
      agentWatches := [] }
  let good := image == s.imageDigest 3
  let s := s.updFab fun f =>
    let rest := f.lostDies.filter fun d => decide (d.1 ≠ 8 + i)
    { f with lostDies := if good then rest else (8 + i, 0) :: rest }
  let s := if good then s else s.updTrust fun t => { t with recovery := true }
  s.after scanMsgs

def execWarmResetIoDie (s : State) : Host.Outcome State Fault Refusal :=
  finishEvent (do
    let s ← get
    if s.msg.unit.toNat < 2 then set (s.warmIo s.msg.unit.toNat s.msg.digest) else badMsg) s

/-- A warm reset of the trust die: keys, owner keys and the registry survive; the mailbox and the sessions do not. -/
def Trust.warm (t : Trust) : Trust :=
  { t with request := [], response := [], cmd := 0#64, rlen := 0#16, tag := 0#16, result := 0#8, err := false, done := false, busy := false,
           sessions := [], version := false, caps := false, algos := false, chunk := none }

def execTrustDieWarmReset (s : State) : Host.Outcome State Fault Refusal := finishEvent (modify fun s => s.updTrust (·.warm)) s

/-! ### Mailbox requests (R467, R468) -/

def State.reqBytes (s : State) (ofs n : Nat) : List Byte := (List.range n).map fun i => s.trust.request.get 0#8 (ofs + i)
def State.reqWord (s : State) (ofs : Nat) : Word := BitVec.ofNat 64 (leNat (s.reqBytes ofs 8))
/-- LEN of the command. -/
def State.reqLen (s : State) : Nat := (s.trust.cmd.extractLsb' 24 16).toNat

/-- A mailbox command runs only while BUSY. -/
def mailbox (g : State → State) : M Unit := modify fun s => if s.trust.busy then g s else s

/-! ### VERIFY_OBJECT and RETIRE_OBJECT (R472 to R474) -/

/-- The header of a code object. -/
structure ObjHead where
  bytes : List Byte
  deriving DecidableEq, Repr

def ObjHead.nat (h : ObjHead) (ofs n : Nat) : Nat := leNat ((h.bytes.drop ofs).take n)

/-- The limits of the header. -/
def ObjHead.ok (h : ObjHead) (len : Nat) : Bool :=
  decide (h.nat 0 4 = 0x314F4A48) && decide (h.nat 4 4 = 1) && decide (h.nat 8 8 = len) && decide (1 ≤ h.nat 0x10 4) && decide (h.nat 0x10 4 ≤ 64) &&
  decide (h.nat 0x14 4 < 8) && decide (h.nat 0x28 8 % 4096 = 0) && decide (h.nat 0x30 8 % 4096 = 0) && decide (0 < h.nat 0x30 8) &&
  decide (h.nat 0x28 8 + h.nat 0x30 8 ≤ len) && decide (h.nat 0x38 8 % 64 = 0) && decide (h.nat 0x40 8 = len - 4096) && decide (h.nat 0x48 184 = 0)

/-- The request names an object that lies in local HBM. -/
def State.objRangeOk (s : State) (pa len slot : Nat) : Bool :=
  decide (slot < 8) && decide (pa % 4096 = 0) && decide (len % 4096 = 0) && decide (4096 < len) && decide (len ≤ 2 ^ 30) &&
  decide (devOf pa = s.fab.dev.toNat) && decide (laOf pa + len ≤ 0x8000000000)

/-- A free entry of the registry, which holds 256 and at most 64 of one slot. -/
def State.freeEntry (s : State) (slot : Nat) : Option Nat :=
  if 64 ≤ (s.objectsOf slot).length then none
  else (List.range 256).find? fun i => !(s.trust.objects.get .reset i).live

def State.verifyObject (s : State) : State :=
  let pa := (s.reqWord 0).toNat
  let len := (s.reqWord 8).toNat
  let slot := (s.reqWord 0x10).toNat
  if s.reqLen < 0x18 || !s.objRangeOk pa len slot then s.mbDone 2#8 []
  else
    let (obj, psn) := s.engineReads (slot + 1) (dieOf (laOf pa)) pa len
    let h : ObjHead := { bytes := obj.take 256 }
    if psn || !h.ok len then s.mbDone 2#8 []
    else
      let digest := sha384 (obj.take (len - 4096))
      let sig := (obj.drop (len - 4096)).take 96
      match s.trust.ownerKeys.find? fun k => decide (k.1 = h.nat 0x14 4) with
      | none => s.mbDone 3#8 []
      | some (_, point, least) =>
        if !signatureVerifies point digest sig then s.mbDone 3#8 []
        else if h.nat 0x18 8 < least.toNat then s.mbDone 5#8 []
        else
          match s.freeEntry slot with
          | none => s.mbDone 4#8 []
          | some i =>
            let gen := (s.trust.objects.get .reset i).gen
            let handle : Word := BitVec.ofNat 64 (gen.toNat * 65536 + i)
            let o : RegObj :=
              { live := true, slot := BitVec.ofNat 3 slot, gen, textPa := pa + h.nat 0x28 8, size := h.nat 0x30 8, textOfs := h.nat 0x28 8,
                base := Config.objectBase handle, digest := sha384 ((obj.drop (h.nat 0x28 8)).take (h.nat 0x30 8)),
                owner := BitVec.ofNat 3 (h.nat 0x14 4) }
            (s.updTrust fun t => { t with objects := t.objects.set i o }).mbDone 0#8 (toBytes 8 handle.toNat)

def execVerifyObject (s : State) : Host.Outcome State Fault Refusal := finishEvent (mailbox (·.verifyObject)) s

/-- A running launch names a handle. -/
def State.handleRuns (s : State) (handle : Word) : Bool := s.disp.launches.any fun l => l.2.handle == handle

/-- Retire an entry; the command waits for the launches that name it, and drops the context's translations as KIND 2 of `tlbinv` does. -/
def State.retireObject (s : State) : State :=
  let handle := s.reqWord 0
  match s.objectOf handle with
  | none => s.mbDone 2#8 []
  | some i =>
    if s.handleRuns handle then s.after [(.retireObject, s.msg)]
    else
      let n := (s.trust.objects.get .reset i).slot.toNat
      (((List.range 8).foldl (fun s d => s.tlbDrop d 2 (s.ctxidOf n) 0#64 0) s).retireEntry i).mbDone 0#8 []

def execRetireObject (s : State) : Host.Outcome State Fault Refusal := finishEvent (mailbox (·.retireObject)) s

/-! ### Context keys (R469) -/

/-- Give a context's key slot a fresh key: controllers that still have requests naming the slot load it later. -/
def State.newKey (s : State) (slot : Nat) : State :=
  let old := s.m.slotKeys.get 0 slot
  let late := ((s.m.channels.filter fun c => c.2.names slot).map (·.1)).filter fun k => decide (k < 256)
  let s := s.updMem fun m =>
    { m with
      slotKeys := m.slotKeys.set slot m.nextKey
      nextKey := m.nextKey + 1
      chanKeys := late.foldl (fun l k => l.set (k * 16 + slot) old) (m.chanKeys.filter fun x => decide (x.1 % 16 ≠ slot)) }
  if late.isEmpty then s.keyDone slot
  else s.after (late.map fun k => (.keySlotLoad, { chanMsg k with station := BitVec.ofNat 4 slot }))

/-- LOAD_CONTEXT_KEY and CLEAR_CONTEXT_KEY. -/
def State.contextKey (s : State) : State :=
  let n := (s.reqWord 0).toNat
  if s.reqLen < 8 ∨ 8 ≤ n then s.mbDone 2#8 []
  else if (s.ctx n).state ≠ 0#2 then s.mbDone 5#8 []
  else s.newKey (n + 1)

def execLoadContextKey (s : State) : Host.Outcome State Fault Refusal := finishEvent (mailbox (·.contextKey)) s
def execClearContextKey (s : State) : Host.Outcome State Fault Refusal := finishEvent (mailbox (·.contextKey)) s

/-! ### Owner keys (R466) -/

def Trust.ownerKey (t : Trust) (i : Nat) : Option (List Byte) := ((t.ownerKeys.find? fun k => decide (k.1 = i)).map (·.2)).map (·.1)

/-- A signature over the first `n` request bytes verifies under a key. -/
def State.signedBy (s : State) (key : Option (List Byte)) (n : Nat) : Bool :=
  key.any fun p => signatureVerifies p (sha384 (Config.signedHead s.fab.dev (s.trust.cmd.extractLsb' 0 8) ++ s.reqBytes 0 n)) (s.reqBytes n 96)

def State.ownerInstall (s : State) : State :=
  let i := (s.reqWord 0).toNat
  let point := s.reqBytes 0x10 97
  if s.reqLen < 0xD8 ∨ 8 ≤ i then s.mbDone 2#8 []
  else if i = 0 ∧ s.trust.ownerKeys ≠ [] then s.mbDone 5#8 []
  else if !s.signedBy (if i = 0 then some point else s.trust.ownerKey 0) 0x78 then s.mbDone 3#8 []
  else (s.updTrust fun t => { t with ownerKeys := t.ownerKeys.set i (point, s.reqWord 8) }).mbDone 0#8 []

/-- The registry holds an object verified under a slot; slot 0 stands for all. -/
def State.ownerInUse (s : State) (i : Nat) : Bool :=
  s.trust.objects.any fun o => o.2.live && (decide (i = 0) || decide (o.2.owner.toNat = i))

def State.ownerClear (s : State) : State :=
  let i := (s.reqWord 0).toNat
  if s.reqLen < 0x68 ∨ 8 ≤ i then s.mbDone 2#8 []
  else if !s.signedBy (s.trust.ownerKey 0) 8 then s.mbDone 3#8 []
  else if s.ownerInUse i then s.mbDone 5#8 []
  else (s.updTrust fun t => { t with ownerKeys := if i = 0 then [] else t.ownerKeys.filter fun k => decide (k.1 ≠ i) }).mbDone 0#8 []

def execOwnerKeyInstall (s : State) : Host.Outcome State Fault Refusal := finishEvent (mailbox (·.ownerInstall)) s
def execOwnerKeyClear (s : State) : Host.Outcome State Fault Refusal := finishEvent (mailbox (·.ownerClear)) s

/-! ### The other commands -/

def execGetMeasurements (s : State) : Host.Outcome State Fault Refusal :=
  finishEvent (mailbox fun s => s.mbDone 0#8 ((List.range 8).flatMap fun i => digestBytes (s.measurement (i + 1)))) s

/-- SPARE_STATUS: spares used per channel of each stack, then the links. -/
def State.spareBytes (s : State) : List Byte :=
  ((List.range 8).flatMap fun d =>
    toBytes 8 ((List.range 32).foldl (fun n c => n + min 3 (s.channel (d * 32 + c)).spared.length * 4 ^ c) 0)) ++
  (List.range 14).map fun k =>
    let l := s.fab.links.get .reset k
    BitVec.ofNat 8 ((l.inward + l.outward) % 16 + if l.half then 16 else 0)

def execSpareStatus (s : State) : Host.Outcome State Fault Refusal := finishEvent (mailbox fun s => s.mbDone 0#8 s.spareBytes) s

def execMbcmdWhileBusy (s : State) : Host.Outcome State Fault Refusal :=
  finishEvent (mailbox fun s => s.updTrust fun t => { t with err := true }) s

/-- A command of no code, or with reserved bits set. -/
def execMailboxUnknownCommand (s : State) : Host.Outcome State Fault Refusal :=
  finishEvent (mailbox fun s => s.mbDone (if s.msg.value.extractLsb' 40 24 = 0#24 then 1#8 else 2#8) []) s

end Sys2Proof.Machine
end

