-- ==== Sys2Proof/Machine/Spdm.lean ====
section
/-! DEFINITION. The SPDM responder of the trust die (spec/21 R471). The layout of its messages is that of DMTF's SPDM 1.3, which spec/00 R10
names (PRESUMED: log entry 97). What a response carries beyond the bytes that the two state is a free value. -/
namespace Sys2Proof.Machine
set_option Elab.async false

/-- A response that ends with its known bytes. -/
def State.spdmAck (s : State) (l : List Byte) : State := s.reply l false

/-- A response: version 1.3, its code, the bytes known, then bytes that are free. -/
def State.spdmReply (s : State) (code : Byte) (known : List Byte) : State :=
  let n := s.free
  ({ s with free := n + 1 } : State).reply ([0x13#8, code] ++ known ++ (List.range (Config.spdmLength n).toNat).map (Config.spdmByte n)) false

/-- An error response: version 1.3, ERROR, the code and its data. -/
def State.spdmError (s : State) (code data : Byte) : State :=
  s.updFab fun f => { f with answer := { bytes := [0x13#8, 0x7F#8, code, data], poisoned := false, refused := true } }

def errInvalidRequest : Byte := 0x01#8
def errInvalidSession : Byte := 0x02#8
def errBusy : Byte := 0x03#8
def errUnsupported : Byte := 0x07#8

def spdm (g : State → State) (s : State) : Host.Outcome State Fault Refusal := finishEvent (modify g) s

/-! ### Connection -/

def execSpdmGetVersion (s : State) : Host.Outcome State Fault Refusal :=
  spdm (fun s => (s.updTrust fun t => { t with version := true, caps := false, algos := false, chunk := none }).spdmAck
    [0x10#8, 0x04#8, 0#8, 0#8, 0#8, 1#8, 0#8, 0x13#8]) s
def execSpdmGetCapabilities (s : State) : Host.Outcome State Fault Refusal :=
  spdm (fun s => (s.updTrust fun t => { t with caps := true }).spdmReply 0x61#8 [0#8, 0#8]) s
/-- The flag says that the request offers the one set of algorithms that the responder supports. -/
def execSpdmNegotiateAlgorithms (s : State) : Host.Outcome State Fault Refusal :=
  spdm (fun s => if s.msg.flag then (s.updTrust fun t => { t with algos := true }).spdmReply 0x63#8 [] else s.spdmError errUnsupported 0xE3#8) s

/-! ### Certificates -/

/-- The digest of the one chain; slot 0 is supported and provisioned. -/
def execSpdmGetDigests (s : State) : Host.Outcome State Fault Refusal :=
  spdm (fun s => s.spdmAck ([0x13#8, 0x01#8, 1#8, 1#8] ++ digestBytes (sha384 s.certChain))) s

/-- A part of the certificate chain from an offset, of at most a number of bytes, with the number of bytes that remain. -/
def State.spdmCertificate (s : State) (ofs len : Nat) : State :=
  let chain := s.certChain
  let part := (chain.drop ofs).take len
  if chain.length ≤ ofs then s.spdmError errInvalidRequest 0#8
  else s.spdmAck ([0x13#8, 0x02#8, 0#8, 0#8] ++ toBytes 2 part.length ++ toBytes 2 (chain.length - ofs - part.length) ++ part)

/-- Only certificate slot 0 is present. -/
def execSpdmGetCertificate (s : State) : Host.Outcome State Fault Refusal :=
  spdm (fun s => if s.msg.kind = 0#8 then s.spdmCertificate (s.msg.value.toNat % 65536) (s.msg.value2.toNat % 65536)
    else s.spdmError errInvalidRequest 0#8) s
def execSpdmChallenge (s : State) : Host.Outcome State Fault Refusal :=
  spdm (fun s => if s.msg.kind = 0#8 then s.spdmReply 0x03#8 [0#8, 1#8] else s.spdmError errInvalidRequest 0#8) s

/-! ### Measurements -/

/-- A measurement block: its index, the measurement with its type and size, and the digest. The type is a free value. -/
def State.spdmBlock (s : State) (i : Nat) : List Byte :=
  [BitVec.ofNat 8 i, 1#8, 51#8, 0#8, Config.spdmByte s.free (2 ^ 16 + i), 48#8, 0#8] ++ digestBytes (s.measurement i)

/-- The response with the blocks of some measurements. -/
def State.spdmBlocks (s : State) (l : List Nat) : State :=
  s.spdmReply 0x60#8 ([0#8, 0#8, BitVec.ofNat 8 l.length] ++ toBytes 3 (55 * l.length) ++ l.flatMap s.spdmBlock)

/-- The measurement blocks asked for: their number (0), one block (1 to 8) or all of them (255); other blocks are not present. -/
def State.spdmMeasure (s : State) (index : Nat) : State :=
  if index = 0 then s.spdmReply 0x60#8 [8#8, 0#8, 0#8, 0#8, 0#8, 0#8]
  else if index ≤ 8 then s.spdmBlocks [index]
  else if index = 255 then s.spdmBlocks [1, 2, 3, 4, 5, 6, 7, 8]
  else s.spdmError errInvalidRequest 0#8

def execSpdmGetMeasurements (s : State) : Host.Outcome State Fault Refusal := spdm (fun s => s.spdmMeasure s.msg.kind.toNat) s

/-! ### Sessions -/

/-- The responder's half of a session's number: the lowest that no open session uses. -/
def Trust.freeSession (t : Trust) : Nat :=
  ((List.range 5).find? fun n => !(t.sessions.any fun x => decide ((x.id.extractLsb' 0 16).toNat = n))).getD 0

/-- A session is opened, unless four are open or mutual authentication is asked for. -/
def State.keyExchange (s : State) (req : BitVec 16) (mutualAuth : Bool) : State :=
  if mutualAuth then s.spdmError errUnsupported 0xE4#8
  else if 4 ≤ s.trust.sessions.length then s.spdmError errBusy 0#8
  else
    let x : Session := { id := req ++ BitVec.ofNat 16 s.trust.freeSession, mutualAuth := false, established := false, updates := 0 }
    (s.updTrust fun t => { t with sessions := t.sessions ++ [x] }).spdmReply 0x64#8 []

def execSpdmKeyExchange (s : State) : Host.Outcome State Fault Refusal := spdm (fun s => s.keyExchange (s.msg.unit.setWidth 16) s.msg.flag) s

/-- Act on an open session; established, where the request needs it. -/
def State.onSession (s : State) (id : BitVec 32) (est : Bool) (g : List Session → List Session) (r : State → State) : State :=
  if s.trust.sessions.any fun x => x.id == id && (!est || x.established) then
    r (s.updTrust fun t => { t with sessions := g t.sessions })
  else s.spdmError errInvalidSession 0#8

def mapSession (id : BitVec 32) (g : Session → Session) (l : List Session) : List Session := l.map fun x => if x.id = id then g x else x

def execSpdmFinish (s : State) : Host.Outcome State Fault Refusal :=
  spdm (fun s => s.onSession s.msg.unit false (mapSession s.msg.unit fun x => { x with established := true }) (·.spdmReply 0x65#8 [0#8, 0#8])) s
def execSpdmHeartbeat (s : State) : Host.Outcome State Fault Refusal := spdm (fun s => s.onSession s.msg.unit true id (·.spdmAck [0x13#8, 0x68#8, 0#8, 0#8])) s
/-- Operations 1 and 2 replace the keys of one or both directions, 3 verifies new ones; the tag comes back. -/
def execSpdmKeyUpdate (s : State) : Host.Outcome State Fault Refusal :=
  spdm (fun s =>
    let k := s.msg.kind
    if k = 0#8 ∨ 3 < k.toNat then s.spdmError errInvalidRequest 0#8
    else s.onSession s.msg.unit true (mapSession s.msg.unit fun x => if k = 3#8 then x else { x with updates := x.updates + 1 })
      (·.spdmAck [0x13#8, 0x69#8, k, s.msg.value.setWidth 8])) s
def execSpdmEndSession (s : State) : Host.Outcome State Fault Refusal :=
  spdm (fun s => s.onSession s.msg.unit true (fun l => l.filter fun x => decide (x.id ≠ s.msg.unit)) (·.spdmAck [0x13#8, 0x6C#8, 0#8, 0#8])) s

/-! ### Chunks -/

/-- A chunk of a large request: the first has number 0, and each next one follows the last of its handle. -/
def State.chunkSend (s : State) (handle : BitVec 8) (seq : BitVec 16) (last : Bool) : State :=
  let expected := s.trust.chunk.elim (seq == 0#16) fun c => c.1 == handle && c.2 == seq
  if expected then (s.updTrust fun t => { t with chunk := if last then none else some (handle, seq + 1#16) }).spdmReply 0x05#8 ([0#8, handle] ++ toBytes 2 seq.toNat)
  else s.spdmError errInvalidRequest 0#8

def execSpdmChunkSend (s : State) : Host.Outcome State Fault Refusal :=
  spdm (fun s => s.chunkSend s.msg.kind (s.msg.value.setWidth 16) s.msg.flag) s
def execSpdmChunkGet (s : State) : Host.Outcome State Fault Refusal := spdm (·.spdmReply 0x06#8 []) s

/-- A request that is not supported (R471). -/
def execSpdmUnsupportedRequest (s : State) : Host.Outcome State Fault Refusal := spdm (fun s => s.spdmError errUnsupported s.msg.kind) s

end Sys2Proof.Machine
end

