-- ==== Sys2Proof/Machine/Dispatch.lean ====
section
/-! DEFINITION. The one match that gives every instruction its meaning. -/
namespace Sys2Proof.Machine

def exec (i : Instr) (s : State) : Host.Outcome State Fault Refusal :=
  match i with
  | .add d a b => Sys2Proof.Machine.execAdd d a b s
  | .sub d a b => Sys2Proof.Machine.execSub d a b s
  | .and d a b => Sys2Proof.Machine.execAnd d a b s
  | .or d a b => Sys2Proof.Machine.execOr d a b s
  | .xor d a b => Sys2Proof.Machine.execXor d a b s
  | .andn d a b => Sys2Proof.Machine.execAndn d a b s
  | .sll d a b => Sys2Proof.Machine.execSll d a b s
  | .srl d a b => Sys2Proof.Machine.execSrl d a b s
  | .sra d a b => Sys2Proof.Machine.execSra d a b s
  | .rol d a b => Sys2Proof.Machine.execRol d a b s
  | .slt d a b => Sys2Proof.Machine.execSlt d a b s
  | .sltu d a b => Sys2Proof.Machine.execSltu d a b s
  | .min d a b => Sys2Proof.Machine.execMin d a b s
  | .max d a b => Sys2Proof.Machine.execMax d a b s
  | .minu d a b => Sys2Proof.Machine.execMinu d a b s
  | .maxu d a b => Sys2Proof.Machine.execMaxu d a b s
  | .clz d a => Sys2Proof.Machine.execClz d a s
  | .ctz d a => Sys2Proof.Machine.execCtz d a s
  | .popc d a => Sys2Proof.Machine.execPopc d a s
  | .addi d a im => Sys2Proof.Machine.execAddi d a im s
  | .andi d a im => Sys2Proof.Machine.execAndi d a im s
  | .ori d a im => Sys2Proof.Machine.execOri d a im s
  | .xori d a im => Sys2Proof.Machine.execXori d a im s
  | .slli d a n => Sys2Proof.Machine.execSlli d a n s
  | .srli d a n => Sys2Proof.Machine.execSrli d a n s
  | .srai d a n => Sys2Proof.Machine.execSrai d a n s
  | .slti d a im => Sys2Proof.Machine.execSlti d a im s
  | .sltiu d a im => Sys2Proof.Machine.execSltiu d a im s
  | .lih d im => Sys2Proof.Machine.execLih d im s
  | .pcrel d im => Sys2Proof.Machine.execPcrel d im s
  | .ldB d a o => Sys2Proof.Machine.execLdB d a o s
  | .ldBu d a o => Sys2Proof.Machine.execLdBu d a o s
  | .ldH d a o => Sys2Proof.Machine.execLdH d a o s
  | .ldHu d a o => Sys2Proof.Machine.execLdHu d a o s
  | .ldW d a o => Sys2Proof.Machine.execLdW d a o s
  | .ldWu d a o => Sys2Proof.Machine.execLdWu d a o s
  | .ldD d a o => Sys2Proof.Machine.execLdD d a o s
  | .stB d a o => Sys2Proof.Machine.execStB d a o s
  | .stH d a o => Sys2Proof.Machine.execStH d a o s
  | .stW d a o => Sys2Proof.Machine.execStW d a o s
  | .stD d a o => Sys2Proof.Machine.execStD d a o s
  | .ldaW d a sc o => Sys2Proof.Machine.execLdaW d a sc o s
  | .ldaD d a sc o => Sys2Proof.Machine.execLdaD d a sc o s
  | .stlW d a sc o => Sys2Proof.Machine.execStlW d a sc o s
  | .stlD d a sc o => Sys2Proof.Machine.execStlD d a sc o s
  | .fldH d a o => Sys2Proof.Machine.execFldH d a o s
  | .fldW d a o => Sys2Proof.Machine.execFldW d a o s
  | .fldD d a o => Sys2Proof.Machine.execFldD d a o s
  | .fstH d a o => Sys2Proof.Machine.execFstH d a o s
  | .fstW d a o => Sys2Proof.Machine.execFstW d a o s
  | .fstD d a o => Sys2Proof.Machine.execFstD d a o s
  | .beq a b o => Sys2Proof.Machine.execBeq a b o s
  | .bne a b o => Sys2Proof.Machine.execBne a b o s
  | .blt a b o => Sys2Proof.Machine.execBlt a b o s
  | .bge a b o => Sys2Proof.Machine.execBge a b o s
  | .bltu a b o => Sys2Proof.Machine.execBltu a b o s
  | .bgeu a b o => Sys2Proof.Machine.execBgeu a b o s
  | .bpAny a o => Sys2Proof.Machine.execBpAny a o s
  | .bpNone a o => Sys2Proof.Machine.execBpNone a o s
  | .bpAll a o => Sys2Proof.Machine.execBpAll a o s
  | .bpFirst a o => Sys2Proof.Machine.execBpFirst a o s
  | .jal d o => Sys2Proof.Machine.execJal d o s
  | .jalr d a im => Sys2Proof.Machine.execJalr d a im s
  | .mul d a b => Sys2Proof.Machine.execMul d a b s
  | .mulh d a b => Sys2Proof.Machine.execMulh d a b s
  | .mulhu d a b => Sys2Proof.Machine.execMulhu d a b s
  | .mulhsu d a b => Sys2Proof.Machine.execMulhsu d a b s
  | .div d a b => Sys2Proof.Machine.execDiv d a b s
  | .divu d a b => Sys2Proof.Machine.execDivu d a b s
  | .rem d a b => Sys2Proof.Machine.execRem d a b s
  | .remu d a b => Sys2Proof.Machine.execRemu d a b s
  | .fadd d a b p r => Sys2Proof.Machine.execFadd d a b p r s
  | .fsub d a b p r => Sys2Proof.Machine.execFsub d a b p r s
  | .fmul d a b p r => Sys2Proof.Machine.execFmul d a b p r s
  | .fdiv d a b p r => Sys2Proof.Machine.execFdiv d a b p r s
  | .fsqrt d a p r => Sys2Proof.Machine.execFsqrt d a p r s
  | .fmin d a b p => Sys2Proof.Machine.execFmin d a b p s
  | .fmax d a b p => Sys2Proof.Machine.execFmax d a b p s
  | .fsgnC d a b p => Sys2Proof.Machine.execFsgnC d a b p s
  | .fsgnN d a b p => Sys2Proof.Machine.execFsgnN d a b p s
  | .fsgnX d a b p => Sys2Proof.Machine.execFsgnX d a b p s
  | .feq d a b p => Sys2Proof.Machine.execFeq d a b p s
  | .flt d a b p => Sys2Proof.Machine.execFlt d a b p s
  | .fle d a b p => Sys2Proof.Machine.execFle d a b p s
  | .fclass d a p => Sys2Proof.Machine.execFclass d a p s
  | .fcvtFX d a p r => Sys2Proof.Machine.execFcvtFX d a p r s
  | .fcvtFXu d a p r => Sys2Proof.Machine.execFcvtFXu d a p r s
  | .fcvtXF d a p r => Sys2Proof.Machine.execFcvtXF d a p r s
  | .fcvtXuF d a p r => Sys2Proof.Machine.execFcvtXuF d a p r s
  | .fcvtFF d a w p r => Sys2Proof.Machine.execFcvtFF d a w p r s
  | .fmvXF d a p => Sys2Proof.Machine.execFmvXF d a p s
  | .fmvFX d a p => Sys2Proof.Machine.execFmvFX d a p s
  | .fma d a b p r c => Sys2Proof.Machine.execFma d a b p r c s
  | .fms d a b p r c => Sys2Proof.Machine.execFms d a b p r c s
  | .fnma d a b p r c => Sys2Proof.Machine.execFnma d a b p r c s
  | .fnms d a b p r c => Sys2Proof.Machine.execFnms d a b p r c s
  | .aadd d a b sc w => Sys2Proof.Machine.execAadd d a b sc w s
  | .aand d a b sc w => Sys2Proof.Machine.execAand d a b sc w s
  | .aor d a b sc w => Sys2Proof.Machine.execAor d a b sc w s
  | .axor d a b sc w => Sys2Proof.Machine.execAxor d a b sc w s
  | .amin d a b sc w => Sys2Proof.Machine.execAmin d a b sc w s
  | .amax d a b sc w => Sys2Proof.Machine.execAmax d a b sc w s
  | .aminu d a b sc w => Sys2Proof.Machine.execAminu d a b sc w s
  | .amaxu d a b sc w => Sys2Proof.Machine.execAmaxu d a b sc w s
  | .aswp d a b sc w => Sys2Proof.Machine.execAswp d a b sc w s
  | .acas d a b sc w => Sys2Proof.Machine.execAcas d a b sc w s
  | .afadd d a b sc w => Sys2Proof.Machine.execAfadd d a b sc w s
  | .acq sc g => Sys2Proof.Machine.execAcq sc g s
  | .rel sc g => Sys2Proof.Machine.execRel sc g s
  | .fence sc g => Sys2Proof.Machine.execFence sc g s
  | .own a sc g => Sys2Proof.Machine.execOwn a sc g s
  | .disown a sc g => Sys2Proof.Machine.execDisown a sc g s
  | .qlock d a sc g => Sys2Proof.Machine.execQlock d a sc g s
  | .qunlock a sc g => Sys2Proof.Machine.execQunlock a sc g s
  | .wait d a => Sys2Proof.Machine.execWait d a s
  | .wake a => Sys2Proof.Machine.execWake a s
  | .crr d n => Sys2Proof.Machine.execCrr d n s
  | .crw d a n => Sys2Proof.Machine.execCrw d a n s
  | .crs d a n => Sys2Proof.Machine.execCrs d a n s
  | .crc d a n => Sys2Proof.Machine.execCrc d a n s
  | .vcfg d a => Sys2Proof.Machine.execVcfg d a s
  | .vsetl d a => Sys2Proof.Machine.execVsetl d a s
  | .vsetrows d a => Sys2Proof.Machine.execVsetrows d a s
  | .vtag d a => Sys2Proof.Machine.execVtag d a s
  | .vsave d a => Sys2Proof.Machine.execVsave d a s
  | .vrest d a => Sys2Proof.Machine.execVrest d a s
  | .vld d a n o => Sys2Proof.Machine.execVld d a n o s
  | .vst d a n o => Sys2Proof.Machine.execVst d a n o s
  | .vldx d a b n o => Sys2Proof.Machine.execVldx d a b n o s
  | .vstx d a b n o => Sys2Proof.Machine.execVstx d a b n o s
  | .vldT d a n o => Sys2Proof.Machine.execVldT d a n o s
  | .vstN d a b n o => Sys2Proof.Machine.execVstN d a b n o s
  | .vpush a b => Sys2Proof.Machine.execVpush a b s
  | .vpushT d a b => Sys2Proof.Machine.execVpushT d a b s
  | .vadd d a b sc x => Sys2Proof.Machine.execVadd d a b sc x s
  | .vsub d a b sc x => Sys2Proof.Machine.execVsub d a b sc x s
  | .vmul d a b sc x => Sys2Proof.Machine.execVmul d a b sc x s
  | .vfma d a b sc x => Sys2Proof.Machine.execVfma d a b sc x s
  | .vfms d a b sc x => Sys2Proof.Machine.execVfms d a b sc x s
  | .vdiv d a b sc x => Sys2Proof.Machine.execVdiv d a b sc x s
  | .vsqrt d a sc => Sys2Proof.Machine.execVsqrt d a sc s
  | .vmin d a b sc x => Sys2Proof.Machine.execVmin d a b sc x s
  | .vmax d a b sc x => Sys2Proof.Machine.execVmax d a b sc x s
  | .vabs d a sc => Sys2Proof.Machine.execVabs d a sc s
  | .vneg d a sc => Sys2Proof.Machine.execVneg d a sc s
  | .vand d a b sc x => Sys2Proof.Machine.execVand d a b sc x s
  | .vor d a b sc x => Sys2Proof.Machine.execVor d a b sc x s
  | .vxor d a b sc x => Sys2Proof.Machine.execVxor d a b sc x s
  | .vshl d a b sc x => Sys2Proof.Machine.execVshl d a b sc x s
  | .vshr d a b sc x => Sys2Proof.Machine.execVshr d a b sc x s
  | .vmulh d a b sc x => Sys2Proof.Machine.execVmulh d a b sc x s
  | .vsel d a b sc x => Sys2Proof.Machine.execVsel d a b sc x s
  | .vcmpEq d a b x => Sys2Proof.Machine.execVcmpEq d a b x s
  | .vcmpNe d a b x => Sys2Proof.Machine.execVcmpNe d a b x s
  | .vcmpLt d a b x => Sys2Proof.Machine.execVcmpLt d a b x s
  | .vcmpLe d a b x => Sys2Proof.Machine.execVcmpLe d a b x s
  | .vcmpGt d a b x => Sys2Proof.Machine.execVcmpGt d a b x s
  | .vcmpGe d a b x => Sys2Proof.Machine.execVcmpGe d a b x s
  | .vcmpUn d a b x => Sys2Proof.Machine.execVcmpUn d a b x s
  | .vrcp d a => Sys2Proof.Machine.execVrcp d a s
  | .vrsqrt d a => Sys2Proof.Machine.execVrsqrt d a s
  | .vexp2 d a => Sys2Proof.Machine.execVexp2 d a s
  | .vlog2 d a => Sys2Proof.Machine.execVlog2 d a s
  | .vtanh d a => Sys2Proof.Machine.execVtanh d a s
  | .vslup d a b l => Sys2Proof.Machine.execVslup d a b l s
  | .vsldn d a b l => Sys2Proof.Machine.execVsldn d a b l s
  | .vperm d a b => Sys2Proof.Machine.execVperm d a b s
  | .vcomp d a => Sys2Proof.Machine.execVcomp d a s
  | .vbcast d b => Sys2Proof.Machine.execVbcast d b s
  | .vext d a b => Sys2Proof.Machine.execVext d a b s
  | .vins d a b => Sys2Proof.Machine.execVins d a b s
  | .vcvt d a sc => Sys2Proof.Machine.execVcvt d a sc s
  | .vredSum d a => Sys2Proof.Machine.execVredSum d a s
  | .vredMin d a => Sys2Proof.Machine.execVredMin d a s
  | .vredMax d a => Sys2Proof.Machine.execVredMax d a s
  | .vredAnd d a => Sys2Proof.Machine.execVredAnd d a s
  | .vredOr d a => Sys2Proof.Machine.execVredOr d a s
  | .vscanSum d a => Sys2Proof.Machine.execVscanSum d a s
  | .vscanMin d a => Sys2Proof.Machine.execVscanMin d a s
  | .vscanMax d a => Sys2Proof.Machine.execVscanMax d a s
  | .vdot d a b => Sys2Proof.Machine.execVdot d a b s
  | .vbsl d a b => Sys2Proof.Machine.execVbsl d a b s
  | .vbsr d a b => Sys2Proof.Machine.execVbsr d a b s
  | .vbfun d a b => Sys2Proof.Machine.execVbfun d a b s
  | .vbpopc d a => Sys2Proof.Machine.execVbpopc d a s
  | .pand d a b => Sys2Proof.Machine.execPand d a b s
  | .por d a b => Sys2Proof.Machine.execPor d a b s
  | .pxor d a b => Sys2Proof.Machine.execPxor d a b s
  | .pandn d a b => Sys2Proof.Machine.execPandn d a b s
  | .pnot d a => Sys2Proof.Machine.execPnot d a s
  | .pset d a => Sys2Proof.Machine.execPset d a s
  | .pfirst d a => Sys2Proof.Machine.execPfirst d a s
  | .pcnt d a => Sys2Proof.Machine.execPcnt d a s
  | .pmv d a => Sys2Proof.Machine.execPmv d a s
  | .tld d a => Sys2Proof.Machine.execTld d a s
  | .tst d a => Sys2Proof.Machine.execTst d a s
  | .mop d a b => Sys2Proof.Machine.execMop d a b s
  | .mops d a b => Sys2Proof.Machine.execMops d a b s
  | .mopM d a b => Sys2Proof.Machine.execMopM d a b s
  | .mclr d => Sys2Proof.Machine.execMclr d s
  | .accx d a b => Sys2Proof.Machine.execAccx d a b s
  | .acci d a b => Sys2Proof.Machine.execAcci d a b s
  | .mwait => Sys2Proof.Machine.execMwait s
  | .epush d a => Sys2Proof.Machine.execEpush d a s
  | .epop d a => Sys2Proof.Machine.execEpop d a s
  | .epeek d a => Sys2Proof.Machine.execEpeek d a s
  | .pclaim d a => Sys2Proof.Machine.execPclaim d a s
  | .prel d a => Sys2Proof.Machine.execPrel d a s
  | .pgive d a b => Sys2Proof.Machine.execPgive d a b s
  | .pstat d a => Sys2Proof.Machine.execPstat d a s
  | .pmark d a b => Sys2Proof.Machine.execPmark d a b s
  | .orbdef d a => Sys2Proof.Machine.execOrbdef d a s
  | .orbin d a b => Sys2Proof.Machine.execOrbin d a b s
  | .orbgo d a => Sys2Proof.Machine.execOrbgo d a s
  | .orbout d a b => Sys2Proof.Machine.execOrbout d a b s
  | .orbstat d a => Sys2Proof.Machine.execOrbstat d a s
  | .qnum d a => Sys2Proof.Machine.execQnum d a s
  | .qden d a => Sys2Proof.Machine.execQden d a s
  | .qmk d a b r => Sys2Proof.Machine.execQmk d a b r s
  | .qmed d a b r => Sys2Proof.Machine.execQmed d a b r s
  | .qcf d a b => Sys2Proof.Machine.execQcf d a b s
  | .qfloor d a => Sys2Proof.Machine.execQfloor d a s
  | .ecall => Sys2Proof.Machine.execEcall s
  | .ebreak => Sys2Proof.Machine.execEbreak s
  | .sret => Sys2Proof.Machine.execSret s
  | .uret => Sys2Proof.Machine.execUret s
  | .halt => Sys2Proof.Machine.execHalt s
  | .tlbinv a b => Sys2Proof.Machine.execTlbinv a b s
  | .icinv => Sys2Proof.Machine.execIcinv s
  | .klaunch d a b => Sys2Proof.Machine.execKlaunch d a b s
  | .watchArm => Sys2Proof.Machine.execWatchArm s
  | .watchDisarm => Sys2Proof.Machine.execWatchDisarm s
  | .vlWrite => Sys2Proof.Machine.execVlWrite s
  | .registerWrite => Sys2Proof.Machine.execRegisterWrite s
  | .tableWalk => Sys2Proof.Machine.execTableWalk s
  | .pretranslateWindow => Sys2Proof.Machine.execPretranslateWindow s
  | .windowEnterPipeline => Sys2Proof.Machine.execWindowEnterPipeline s
  | .tlbInvalidateMsg => Sys2Proof.Machine.execTlbInvalidateMsg s
  | .tlbInvalidateAck => Sys2Proof.Machine.execTlbInvalidateAck s
  | .hbmIssue => Sys2Proof.Machine.execHbmIssue s
  | .hbmDataReturn => Sys2Proof.Machine.execHbmDataReturn s
  | .hbmReadRetry => Sys2Proof.Machine.execHbmReadRetry s
  | .rowCloseTimeout => Sys2Proof.Machine.execRowCloseTimeout s
  | .requestAgeExpiry => Sys2Proof.Machine.execRequestAgeExpiry s
  | .hcrateCeilWrite => Sys2Proof.Machine.execHcrateCeilWrite s
  | .rateLimitChange => Sys2Proof.Machine.execRateLimitChange s
  | .rateSwitch => Sys2Proof.Machine.execRateSwitch s
  | .rateSwitchComplete => Sys2Proof.Machine.execRateSwitchComplete s
  | .refreshDue => Sys2Proof.Machine.execRefreshDue s
  | .owedRefreshPaid => Sys2Proof.Machine.execOwedRefreshPaid s
  | .temperatureReport => Sys2Proof.Machine.execTemperatureReport s
  | .activationAlert => Sys2Proof.Machine.execActivationAlert s
  | .bankBlockEnd => Sys2Proof.Machine.execBankBlockEnd s
  | .patrolScrubRead => Sys2Proof.Machine.execPatrolScrubRead s
  | .keySlotLoad => Sys2Proof.Machine.execKeySlotLoad s
  | .vectorHeader => Sys2Proof.Machine.execVectorHeader s
  | .segmentCompletionBeat => Sys2Proof.Machine.execSegmentCompletionBeat s
  | .lineRequest => Sys2Proof.Machine.execLineRequest s
  | .sliceRequest => Sys2Proof.Machine.execSliceRequest s
  | .slicePinRelease => Sys2Proof.Machine.execSlicePinRelease s
  | .cacheFillReturn => Sys2Proof.Machine.execCacheFillReturn s
  | .writeBack => Sys2Proof.Machine.execWriteBack s
  | .registration => Sys2Proof.Machine.execRegistration s
  | .registrationAck => Sys2Proof.Machine.execRegistrationAck s
  | .revocation => Sys2Proof.Machine.execRevocation s
  | .revocationWithWriteBack => Sys2Proof.Machine.execRevocationWithWriteBack s
  | .forwardedRead => Sys2Proof.Machine.execForwardedRead s
  | .forwardUnanswered => Sys2Proof.Machine.execForwardUnanswered s
  | .farAtomicAtHome => Sys2Proof.Machine.execFarAtomicAtHome s
  | .syAccessAtHome => Sys2Proof.Machine.execSyAccessAtHome s
  | .watchHit => Sys2Proof.Machine.execWatchHit s
  | .watchHitArrival => Sys2Proof.Machine.execWatchHitArrival s
  | .qlockTicketDraw => Sys2Proof.Machine.execQlockTicketDraw s
  | .qunlockIncrement => Sys2Proof.Machine.execQunlockIncrement s
  | .grant => Sys2Proof.Machine.execGrant s
  | .pollRead => Sys2Proof.Machine.execPollRead s
  | .copyStart => Sys2Proof.Machine.execCopyStart s
  | .copyComplete => Sys2Proof.Machine.execCopyComplete s
  | .plateReattach => Sys2Proof.Machine.execPlateReattach s
  | .vpushDelivery => Sys2Proof.Machine.execVpushDelivery s
  | .wakeArrival => Sys2Proof.Machine.execWakeArrival s
  | .waitTimeout => Sys2Proof.Machine.execWaitTimeout s
  | .pushTimeout => Sys2Proof.Machine.execPushTimeout s
  | .portDown => Sys2Proof.Machine.execPortDown s
  | .remoteTimeout => Sys2Proof.Machine.execRemoteTimeout s
  | .ualinkRequestIngress => Sys2Proof.Machine.execUalinkRequestIngress s
  | .ualinkFlitRetry => Sys2Proof.Machine.execUalinkFlitRetry s
  | .ucieFlitRetry => Sys2Proof.Machine.execUcieFlitRetry s
  | .ucieLaneRepair => Sys2Proof.Machine.execUcieLaneRepair s
  | .domainConfig => Sys2Proof.Machine.execDomainConfig s
  | .hostRead => Sys2Proof.Machine.execHostRead s
  | .hostWrite => Sys2Proof.Machine.execHostWrite s
  | .hapctlWrite => Sys2Proof.Machine.execHapctlWrite s
  | .meridianSyncSend => Sys2Proof.Machine.execMeridianSyncSend s
  | .meridianSync => Sys2Proof.Machine.execMeridianSync s
  | .delayExchange => Sys2Proof.Machine.execDelayExchange s
  | .meridianHold => Sys2Proof.Machine.execMeridianHold s
  | .queueTailWatchHit => Sys2Proof.Machine.execQueueTailWatchHit s
  | .queueBackstopScan => Sys2Proof.Machine.execQueueBackstopScan s
  | .dependenceWatchHit => Sys2Proof.Machine.execDependenceWatchHit s
  | .placementChoice => Sys2Proof.Machine.execPlacementChoice s
  | .recordCommit => Sys2Proof.Machine.execRecordCommit s
  | .launchComplete => Sys2Proof.Machine.execLaunchComplete s
  | .quiesce => Sys2Proof.Machine.execQuiesce s
  | .endQuiesce => Sys2Proof.Machine.execEndQuiesce s
  | .endLaunch => Sys2Proof.Machine.execEndLaunch s
  | .createContext => Sys2Proof.Machine.execCreateContext s
  | .removeContext => Sys2Proof.Machine.execRemoveContext s
  | .switchArm => Sys2Proof.Machine.execSwitchArm s
  | .switchArmPark => Sys2Proof.Machine.execSwitchArmPark s
  | .notice => Sys2Proof.Machine.execNotice s
  | .cutBegin => Sys2Proof.Machine.execCutBegin s
  | .marker => Sys2Proof.Machine.execMarker s
  | .cutComplete => Sys2Proof.Machine.execCutComplete s
  | .contextSaved => Sys2Proof.Machine.execContextSaved s
  | .contextResumed => Sys2Proof.Machine.execContextResumed s
  | .resize => Sys2Proof.Machine.execResize s
  | .trapEntry => Sys2Proof.Machine.execTrapEntry s
  | .userInterruptDelivery => Sys2Proof.Machine.execUserInterruptDelivery s
  | .eventAccept => Sys2Proof.Machine.execEventAccept s
  | .eqheadWrite => Sys2Proof.Machine.execEqheadWrite s
  | .orbitRound => Sys2Proof.Machine.execOrbitRound s
  | .orbitRoundEdge => Sys2Proof.Machine.execOrbitRoundEdge s
  | .orbitMarker => Sys2Proof.Machine.execOrbitMarker s
  | .orbitLapEnd => Sys2Proof.Machine.execOrbitLapEnd s
  | .orbitComplete => Sys2Proof.Machine.execOrbitComplete s
  | .coldBoot => Sys2Proof.Machine.execColdBoot s
  | .recoveryFirmwareImage => Sys2Proof.Machine.execRecoveryFirmwareImage s
  | .warmResetComputeDie => Sys2Proof.Machine.execWarmResetComputeDie s
  | .warmResetIoDie => Sys2Proof.Machine.execWarmResetIoDie s
  | .trustDieWarmReset => Sys2Proof.Machine.execTrustDieWarmReset s
  | .dieLost => Sys2Proof.Machine.execDieLost s
  | .dieLostAck => Sys2Proof.Machine.execDieLostAck s
  | .verifyObject => Sys2Proof.Machine.execVerifyObject s
  | .retireObject => Sys2Proof.Machine.execRetireObject s
  | .loadContextKey => Sys2Proof.Machine.execLoadContextKey s
  | .clearContextKey => Sys2Proof.Machine.execClearContextKey s
  | .ownerKeyInstall => Sys2Proof.Machine.execOwnerKeyInstall s
  | .ownerKeyClear => Sys2Proof.Machine.execOwnerKeyClear s
  | .getMeasurements => Sys2Proof.Machine.execGetMeasurements s
  | .spareStatus => Sys2Proof.Machine.execSpareStatus s
  | .mbcmdWhileBusy => Sys2Proof.Machine.execMbcmdWhileBusy s
  | .spdmGetVersion => Sys2Proof.Machine.execSpdmGetVersion s
  | .spdmGetCapabilities => Sys2Proof.Machine.execSpdmGetCapabilities s
  | .spdmNegotiateAlgorithms => Sys2Proof.Machine.execSpdmNegotiateAlgorithms s
  | .spdmGetDigests => Sys2Proof.Machine.execSpdmGetDigests s
  | .spdmGetCertificate => Sys2Proof.Machine.execSpdmGetCertificate s
  | .spdmChallenge => Sys2Proof.Machine.execSpdmChallenge s
  | .spdmGetMeasurements => Sys2Proof.Machine.execSpdmGetMeasurements s
  | .spdmKeyExchange => Sys2Proof.Machine.execSpdmKeyExchange s
  | .spdmFinish => Sys2Proof.Machine.execSpdmFinish s
  | .spdmHeartbeat => Sys2Proof.Machine.execSpdmHeartbeat s
  | .spdmKeyUpdate => Sys2Proof.Machine.execSpdmKeyUpdate s
  | .spdmEndSession => Sys2Proof.Machine.execSpdmEndSession s
  | .spdmChunkSend => Sys2Proof.Machine.execSpdmChunkSend s
  | .spdmChunkGet => Sys2Proof.Machine.execSpdmChunkGet s
  | .spdmUnsupportedRequest => Sys2Proof.Machine.execSpdmUnsupportedRequest s
  | .windowAccessArrival => Sys2Proof.Machine.execWindowAccessArrival s
  | .rlcAcquireInvalidation => Sys2Proof.Machine.execRlcAcquireInvalidation s
  | .acquireAcknowledgement => Sys2Proof.Machine.execAcquireAcknowledgement s
  | .klaunchPoll => Sys2Proof.Machine.execKlaunchPoll s
  | .vectorSliceEnd => Sys2Proof.Machine.execVectorSliceEnd s
  | .matrixOperationEnd => Sys2Proof.Machine.execMatrixOperationEnd s
  | .timeMasterNamed => Sys2Proof.Machine.execTimeMasterNamed s
  | .mailboxUnknownCommand => Sys2Proof.Machine.execMailboxUnknownCommand s

end Sys2Proof.Machine
end

