-- ==== Sys2Proof/Machine/Fetch.lean ====
section
/-! DEFINITION. Fetching an instruction (spec/01 R26, R31, R44, spec/03 R71). -/
namespace Sys2Proof.Machine
set_option Elab.async false

/-- The line of an L1I that holds an address, moved to the front. -/
def CoreState.fetchHit (c : CoreState) (ln : Nat) : Option (CoreState × List Byte) :=
  (touchFirst (fun l => decide (l.line = ln)) id c.l1i).map fun r => ({ c with l1i := r.2 }, r.1.data)

/-- Install a line in an L1I of 128 sets of 4 ways. -/
def CoreState.fetchInstall (c : CoreState) (ln : Nat) (data : List Byte) : CoreState :=
  { c with l1i := keepFirst (fun l => decide (l.line % 128 = ln % 128)) 4 ({ line := ln, data } :: c.l1i.filter fun l => decide (l.line ≠ ln)) }

/-- A fetch miss is served through the cluster cache like a scalar load, whatever region the line has there. -/
def State.fetchMiss (s : State) (ln : Nat) (rid : BitVec 4) : State × List Byte × Bool :=
  let k := clusterOf s.cur
  let rid := (s.ccLine k ln).elim rid (·.rid)
  let s := s.ccFill (keySlot s.hart.ctx) k ln rid 0xFFFF#16
  match s.ccLine k ln with
  | some l =>
    let ws := words16.map fun i => s.ccWord (coreOf s.cur) ln l i
    (s, ws.flatMap (·.1), ws.any (·.2))
  | none => (s, List.replicate 64 0#8, false)

/-- The bytes of a line of code; poisoned code is consumed by the fetch (spec/09 R245). -/
def fetchLine (va : Word) (ln : Nat) (rid : BitVec 4) : M (List Byte) := do
  let s ← get
  let c := coreOf s.cur
  match (s.core c).fetchHit ln with
  | some (x, d) =>
    set (s.setCore c x)
    return d
  | none =>
    match s.fetchMiss ln rid with
    | (s, _, true) =>
      set s
      raise tcPoison va
    | (s, d, false) =>
      set (s.setCore c ((s.core c).fetchInstall ln d))
      return d

/-- The word at the pc (R286: an instruction is 4 bytes, little-endian, and the pc is a multiple of 4). A VA in the plate-slot window is
translated by the page tables, as any other (DEDUCED, unsafe: log entry 121). -/
def fetchWord : M (BitVec 32) := do
  let s ← get
  let va := s.hart.pc
  let (pa, attr) ← translate .instr .fetch va
  let s ← get
  if s.edgeClosed pa || (((s.core (coreOf s.cur)).fetchHit (pa / 64)).isNone && s.accessWaits s.cur (pa / 64 * 64) 64) then stallAt pa
  else
    let d ← fetchLine va (pa / 64) attr.rid
    return BitVec.ofNat 32 (leNat ((d.drop (pa % 64)).take 4))

end Sys2Proof.Machine
end

