-- ==== Sys2Proof/Machine/Run.lean ====
section
/-! DEFINITION. What a step of the device consists of: a step of a hart, a step of another agent, and the passing of time (spec/07 R198,
R199, spec/09 R241, R251, R254, spec/08 R228). -/
namespace Sys2Proof.Machine
set_option Elab.async false

/-! ### A hart -/

/-- A fetch that does not deliver: at the entry of a trap it stops the hart (R241), elsewhere it is a trap of its own. -/
def State.fetchTrap (s : State) (code : BitVec 8) (arg : Word) : State :=
  if s.hart.entering then s.stopHart else s.takeTrap code arg 0#2 s.hart.pc

/-- Issue the instruction at the pc. A word that is no instruction is illegal (R233, R290). -/
def State.issueNext (s : State) : Host.Outcome State Fault Refusal :=
  match fetchWord s with
  | .ok w t =>
    let t := t.updHart fun h => { h with entering := false }
    match decode w with
    | some i => exec i t
    | none => .next (t.takeTrap tcIllegal (w.zeroExtend 64) 0#2 t.hart.pc)
  | .error (.trap c a) t => .next (t.fetchTrap c a)
  | .error .stall t => .next t

/-- Something stands in a queue of the hart. -/
def Hart.queued (h : Hart) : Bool := !h.vq.isEmpty || !h.mq.isEmpty

/-- Whether the queues come before the next instruction is open: a free choice where there is something in them. -/
def State.issueStep (s : State) : Host.Outcome State Fault Refusal :=
  if s.hart.queued then
    let t : State := { s with free := s.free + 1 }
    if Config.freeBool s.free then
      match t.runQueues with
      | (t, true) => .next t
      | (t, false) => t.issueNext
    else t.issueNext
  else s.issueNext

/-- A user interrupt becomes deliverable while a `wait` is in progress (R198). -/
def Hart.noteUint (h : Hart) : Hart := if h.delivery.isSome then h.setLatch latchUint else h

/-- A hart asleep in `wait`: it ends where its latch or its records say so, and its queues go on meanwhile. -/
def State.sleepStep (s : State) (d : Reg) : State :=
  let s := s.updHart fun h => (h.timedOut s.time).noteUint
  if s.hart.wakes then (s.endWait d).advance else s.runQueues.1

/-- A boundary between instructions: a resize, then a user interrupt, then the next instruction (R251, R254). -/
def State.boundary (s : State) : Host.Outcome State Fault Refusal :=
  let me : Msg := { hart := BitVec.ofNat 11 s.cur }
  if s.hart.resizes then exec .resize { s with msg := me }
  else if s.hart.delivery.isSome then exec .userInterruptDelivery { s with msg := me }
  else s.issueStep

/-- One step of the executing hart: nothing where its context does not run (R225) or it is not placed. -/
def State.hartStep (s : State) : Host.Outcome State Fault Refusal :=
  if !s.hartRuns s.cur then .next s
  else
    match s.hart.phase with
    | .idle => .next s
    | .stopped _ => .next s
    | .waiting _ d => .next (s.sleepStep d)
    | .running => s.boundary

/-! ### Another agent -/

/-- Records that wait at their sources. -/
def State.waitingEvents (s : State) : Nat := (s.disp.evs.map fun e => e.2.waiting.length).sum

/-- A step that would raise an event at a die whose spill page is full waits behind the others (spec/09 R260). -/
def State.orWaits (s : State) (l : List (Instr × Msg)) (x : Instr × Msg) : Host.Outcome State Fault Refusal → Host.Outcome State Fault Refusal
  | .next t => if s.waitingEvents < t.waitingEvents then .next { s with inbox := l ++ [x] } else .next t
  | r => r

/-- The next step of another agent. -/
def State.agentStep (s : State) : Host.Outcome State Fault Refusal :=
  match s.inbox with
  | [] => .next s
  | (i, m) :: l => if isEncoded i then .next { s with inbox := l } else s.orWaits l (i, m) (exec i { s with inbox := l, msg := m })

/-! ### Time -/

/-- A step of a kind waits in the inbox. -/
def State.awaits (s : State) (i : Instr) : Bool := s.inbox.any fun x => x.1 == i

/-- An armed switch gives each hart its notice LEAD ns before T, and begins its cut at T (R228, spec/09 R253). -/
def State.switchTimers (s : State) : State :=
  let w := s.disp.switch
  if w.phase = 0#2 then s
  else
    let s := if s.hartIds.any s.noticeDue && !s.awaits .notice then s.after [(.notice, {})] else s
    if !w.begun && decide (w.latched.toNat ≤ s.time) && !s.awaits .cutBegin then s.after [(.cutBegin, {})] else s

/-- The queues of a running context are watched. -/
def State.watched (s : State) : Bool := (List.range 8).any fun n => (s.ctx n).state == 1#2 && ((s.ctx n).qtab ||| (s.ctx n).table).getLsbD 0

/-- The agents read every TAIL word every 10 µs (spec/08 R217). -/
def State.scanTimer (s : State) (before : Nat) : State :=
  if s.watched && decide (before / 10000 ≠ s.time / 10000) && !s.awaits .queueBackstopScan then s.after scanMsgs else s

/-- Time passes with a step, which began at a time. -/
def State.tickOver (s : State) (before : Nat) : State :=
  (({ s with time := s.time + Config.elapsed s.tick, tick := s.tick + 1 } : State).switchTimers).scanTimer before

/-- The end of a step that began at a time. -/
def endStep (before : Nat) : Host.Outcome State Fault Refusal → Host.Outcome State Fault Refusal
  | .next t => .next (t.tickOver before)
  | .fault r => .fault r
  | .refused r => .refused r

/-- A hart takes its step. What goes from die to die takes time: a hart of another die finds the count greater (spec/04 R117). -/
def State.turnOf (s : State) (h : Nat) : Host.Outcome State Fault Refusal :=
  let s := if dieOfHart h = dieOfHart s.cur then s else { s with time := s.time + 1 }
  (s.switchTo h).hartStep

/-- Who takes the next step: the schedule says it where it says anything. Where it says nothing, it is a free choice among the harts and
the agents whose steps wait. -/
def State.turn (s : State) : Host.Outcome State Fault Refusal :=
  match s.turns with
  | n :: l => if n < 2048 then ({ s with turns := l } : State).turnOf n else ({ s with turns := l } : State).agentStep
  | [] =>
    if s.inbox.isEmpty && s.others.isEmpty then s.hartStep
    else
      let hs := s.hartIds
      let k := (Config.freeWord s.free).toNat % (hs.length + (if s.inbox.isEmpty then 0 else 1))
      let s : State := { s with free := s.free + 1 }
      (hs[k]?).elim s.agentStep s.turnOf

/-! ### Placing one instruction to be fetched next -/

/-- The physical page of the placed instruction. -/
def fetchPage (s : State) : Nat := s.fab.dev.toNat * 2 ^ 42 + 0x100000

/-- The leaf under which the placed instruction is fetched. -/
def fetchLeaf (s : State) (pc : Word) : TlbEntry :=
  { vpn := pc.extractLsb' 12 52, level := 0, ppn := BitVec.ofNat 40 (fetchPage s / 4096), attr := if s.hart.sup then 0x25#13 else 0x2D#13, ctx := s.hart.ctxid }

/-- The executing hart, placed and running at a boundary with nothing pending, its translation enabled. -/
def Hart.ready (h : Hart) (pc : Word) : Hart :=
  { h with pc, phase := .running, entering := false, vq := [], mq := [], pendingUser := [], noticePending := false, resizePending := false,
           sregs := { h.sregs with sptb := h.sregs.sptb ||| 0x8000000000000000#64 } }

/-- The word `w` stands in HBM and in the L1I at the place where the executing hart fetches next, with its page in the hart's
instruction TLB, as after a first fetch there. -/
def State.placeWord (s : State) (w : Nat) : State :=
  let pc : Word := if canonical s.hart.pc then s.hart.pc &&& ~~~3#64 else 0#64
  let pa := fetchPage s + pc.toNat % 4096
  let n := s.hart.ctx.toNat
  let c := coreOf s.cur
  let s := { s with hart := s.hart.ready pc, inbox := [], turns := [] }
  let s := (s.setCtx n { s.ctx n with state := 1#2 }).updDisp fun d => { d with cuts := [] }
  let s := s.updFab fun f => { f with lostDies := [], devValid := true }
  let s := s.homeStore (keySlot s.hart.ctx) pa (toBytes 4 w)
  let line := putBytes (List.replicate 64 0#8) (pa % 64) (toBytes 4 w)
  s.setCore c { s.core c with l1i := { line := pa / 64, data := line } :: (s.core c).l1i, itlb := fetchLeaf s pc :: (s.core c).itlb }

end Sys2Proof.Machine
end

