-- ==== Sys2Proof/Machine/Step.lean ====
section
/-! DEFINITION. One step of the device. -/
namespace Sys2Proof.Machine
set_option Elab.async false

/-- One step: a hart issues an instruction or another agent takes its step, and time passes. -/
def step (s : State) : Host.Outcome State Fault Refusal := endStep s.time s.turn

/-- The state with the instruction whose bits are `w` where the next step fetches. Every instruction is one 32-bit word (spec/11 R286). -/
def State.withFetchWord (s : State) (_nbits w : Nat) : State := s.placeWord w

end Sys2Proof.Machine
end

