-- ==== Sys2Proof/Safety.lean ====
section
/-! DEFINITION. What counts as a safe run: one that neither faults nor meets an instruction without a meaning. -/
namespace Sys2Proof.Machine
set_option Elab.async false

/-- The outcome is a next state. -/
def Completes (o : Host.Outcome State Fault Refusal) : Prop := ∃ t, o = .next t

/-- `n` steps from a state all answer a next state. -/
def SafeFor : Nat → State → Prop
  | 0, _ => True
  | n + 1, s => ∃ t, step s = .next t ∧ SafeFor n t

/-- A state from which every number of steps is safe. -/
def Safe (s : State) : Prop := ∀ n, SafeFor n s

end Sys2Proof.Machine
end

