-- ==== Sys2Proof/Certificates/Slice0/Obligations.lean ====
section
/-! DEFINITION. The statements for the provers, each with the rule of spec/ it formalises. -/
namespace Sys2Proof.Machine

/-! ### The terms of the statements -/

/-- `t` is `s` after an instruction that writes `v` to x[d] and moves to the next instruction: a write of x0 is discarded, every
other register keeps its value, and nothing else of the state changes: no f register, flag, special register, no byte of memory. -/
def WritesX (s t : State) (d : Reg) (v : Word) : Prop :=
  t.xr d = (if d = 0#5 then 0#64 else v) ∧ (∀ r, r ≠ d → t.xr r = s.xr r) ∧ (∀ a, Mem.read t.m.mem a = Mem.read s.m.mem a) ∧
  ∃ x, t = { s with hart := { s.hart with regs := { s.hart.regs with x := x }, pc := s.hart.pc + 4#64 } }

/-- The instruction completes with such a write. -/
def Yields (i : Instr) (s : State) (d : Reg) (v : Word) : Prop := ∃ t, exec i s = .next t ∧ WritesX s t d v

/-- The same with exceptions ORed into FFLAGS. -/
def YieldsXFlags (i : Instr) (s : State) (d : Reg) (v : Word) (e : Exc) : Prop :=
  ∃ t, exec i s = .next t ∧ t.xr d = (if d = 0#5 then 0#64 else v) ∧ (∀ r, r ≠ d → t.xr r = s.xr r) ∧
  (∀ a, Mem.read t.m.mem a = Mem.read s.m.mem a) ∧
  ∃ x, t = { s with hart := { s.hart with regs := { s.hart.regs with x := x }, pc := s.hart.pc + 4#64,
                                          user := { s.hart.user with fflags := s.hart.user.fflags ||| e.bits } } }

/-- The instruction completes with `v` in f[d] and exceptions ORed into FFLAGS, and changes nothing else but the pc. -/
def YieldsF (i : Instr) (s : State) (d : Reg) (v : Word) (e : Exc) : Prop :=
  ∃ t, exec i s = .next t ∧ t.fr d = v ∧ (∀ r, r ≠ d → t.fr r = s.fr r) ∧ (∀ a, Mem.read t.m.mem a = Mem.read s.m.mem a) ∧
  ∃ f, t = { s with hart := { s.hart with regs := { s.hart.regs with f := f }, pc := s.hart.pc + 4#64,
                                          user := { s.hart.user with fflags := s.hart.user.fflags ||| e.bits } } }

/-- A trap of the executing hart with its queues empty and TRENTRY enabled (spec/09 R235, R237): the trap registers, the privilege
and the pc, and nothing else. -/
def TrapsTo (s t : State) (code : BitVec 8) (arg : Word) : Prop :=
  t = { s with hart := { s.hart with
    trap := { s.hart.trap with trpc := s.hart.pc &&& ~~~3#64, trnext := s.hart.pc &&& ~~~3#64, trcode := code, trarg := arg,
                               prior := s.hart.sup, qk := 0#2, skip := (code == tcEcall), frz := false },
    phase := .running, sup := true, entering := true, window := [], trapFrom := if s.hart.sup then s.hart.trapFrom else none,
    pc := (s.hart.trap.trentry &&& ~~~0xFFF#64) + (if s.hart.sup then 0x800#64 else 0#64) + (code.zeroExtend 64 <<< 6) } }

/-- The executing hart has nothing in its queues, and its trap entry is enabled. -/
def Settled (s : State) : Prop := s.hart.vq = [] ∧ s.hart.mq = [] ∧ s.hart.trap.trentry.getLsbD 0 = true

/-- A register operation: function code, instruction and the value it gives. -/
structure RegOp where
  fn : BitVec 11
  op : Reg → Reg → Reg → Instr
  value : Word → Word → Word

/-- The smaller and the larger of two words by an order. -/
def pick (lt : Prop) [Decidable lt] (a b : Word) : Word := if lt then a else b

/-- The table of spec/12 R310 with two operands. -/
def regOps : List RegOp :=
  [ ⟨0x000#11, .add, fun a b => BitVec.ofNat 64 (a.toNat + b.toNat)⟩,
    ⟨0x001#11, .sub, fun a b => BitVec.ofInt 64 ((a.toNat : Int) - b.toNat)⟩,
    ⟨0x002#11, .and, fun a b => a &&& b⟩,
    ⟨0x003#11, .or, fun a b => a ||| b⟩,
    ⟨0x004#11, .xor, fun a b => a ^^^ b⟩,
    ⟨0x005#11, .andn, fun a b => a &&& ~~~b⟩,
    ⟨0x006#11, .sll, fun a b => BitVec.ofNat 64 (a.toNat * 2 ^ (b.toNat % 64))⟩,
    ⟨0x007#11, .srl, fun a b => BitVec.ofNat 64 (a.toNat / 2 ^ (b.toNat % 64))⟩,
    ⟨0x008#11, .sra, fun a b => BitVec.ofInt 64 (a.toInt / 2 ^ (b.toNat % 64))⟩,
    ⟨0x009#11, .rol, fun a b => a.rotateLeft (b.toNat % 64)⟩,
    ⟨0x00A#11, .slt, fun a b => if a.toInt < b.toInt then 1#64 else 0#64⟩,
    ⟨0x00B#11, .sltu, fun a b => if a.toNat < b.toNat then 1#64 else 0#64⟩,
    ⟨0x00C#11, .min, fun a b => pick (a.toInt ≤ b.toInt) a b⟩,
    ⟨0x00D#11, .max, fun a b => pick (b.toInt ≤ a.toInt) a b⟩,
    ⟨0x00E#11, .minu, fun a b => pick (a.toNat ≤ b.toNat) a b⟩,
    ⟨0x00F#11, .maxu, fun a b => pick (b.toNat ≤ a.toNat) a b⟩ ]

/-- A count operation of R310. -/
structure CountOp where
  fn : BitVec 11
  op : Reg → Reg → Instr
  count : Word → Nat

/-- The counts of spec/12 R310: leading zero bits, trailing zero bits, 1 bits. -/
def countOps : List CountOp :=
  [ ⟨0x010#11, .clz, fun a => ((List.range 64).takeWhile fun i => !a.getLsbD (63 - i)).length⟩,
    ⟨0x011#11, .ctz, fun a => ((List.range 64).takeWhile fun i => !a.getLsbD i).length⟩,
    ⟨0x012#11, .popc, fun a => ((List.range 64).filter fun i => a.getLsbD i).length⟩ ]

/-- An immediate operation: major opcode, instruction and the value it gives. -/
structure ImmOp where
  major : BitVec 6
  op : Reg → Reg → BitVec 16 → Instr
  value : Word → BitVec 16 → Word

/-- The table of spec/12 R312. -/
def immOps : List ImmOp :=
  [ ⟨0x02#6, .addi, fun a i => BitVec.ofInt 64 (a.toInt + i.toInt)⟩,
    ⟨0x03#6, .andi, fun a i => a &&& BitVec.ofNat 64 i.toNat⟩,
    ⟨0x04#6, .ori, fun a i => a ||| BitVec.ofNat 64 i.toNat⟩,
    ⟨0x05#6, .xori, fun a i => a ^^^ BitVec.ofNat 64 i.toNat⟩,
    ⟨0x07#6, .slti, fun a i => if a.toInt < i.toInt then 1#64 else 0#64⟩,
    ⟨0x08#6, .sltiu, fun a i => if a.toNat < (BitVec.ofInt 64 i.toInt).toNat then 1#64 else 0#64⟩ ]

/-- A conditional branch: major opcode, instruction and condition. -/
structure BranchOp where
  major : BitVec 6
  op : Reg → Reg → BitVec 16 → Instr
  cond : Word → Word → Prop

/-- The table of spec/12 R324. -/
def branchOps : List BranchOp :=
  [ ⟨0x11#6, .beq, fun a b => a = b⟩,
    ⟨0x12#6, .bne, fun a b => a ≠ b⟩,
    ⟨0x13#6, .blt, fun a b => a.toInt < b.toInt⟩,
    ⟨0x14#6, .bge, fun a b => b.toInt ≤ a.toInt⟩,
    ⟨0x15#6, .bltu, fun a b => a.toNat < b.toNat⟩,
    ⟨0x16#6, .bgeu, fun a b => b.toNat ≤ a.toNat⟩ ]

/-- `s` with another pc. -/
def atPc (s : State) (pc : Word) : State := { s with hart := { s.hart with pc := pc } }

/-- Nothing stands in the queues of the executing hart, and no acknowledgement is awaited. -/
def Idle (s : State) : Prop := s.hart.vq = [] ∧ s.hart.mq = [] ∧ s.hart.acks.reg = 0 ∧ s.hart.acks.acq = 0

/-- The `n` bytes at `va` lie in the enabled plate window, in a slot of the executing hart that holds plate `p` of its die, within
the plate, aligned; the plate is READY and nothing else stands in the way (spec/03 R82, R83, R85, R86). -/
def PlateAccess (s : State) (va : Word) (n p : Nat) : Prop :=
  s.cur < 2048 ∧ Idle s ∧ s.m.marks = [] ∧ va.toNat % n = 0 ∧ inPlateWindow s.hart.user.pwb va = true ∧
  s.hart.slots[(plateSlotOf va).toNat]'(plateSlotOf va).isLt = .attached p ∧ p < 128 ∧ plateOfs va + n ≤ 0x40000 ∧
  (s.plate (dieOfHart s.cur * 128 + p)).state = 2#2

/-- The physical address of that access. -/
def platePhys (s : State) (va : Word) (p : Nat) : Nat := s.fab.dev.toNat * 2 ^ 42 + plateLa (dieOfHart s.cur) p (plateOfs va)

/-- The number in `n` bytes of on-chip storage, read byte by byte, the lowest address least significant (spec/00 R13). -/
def storedNat (s : State) (pa n : Nat) : Nat := ((List.range n).map fun i => ((Mem.read s.m.mem (pa + i)).getD 0#8).toNat * 256 ^ i).sum

/-- `t` is `s` after a store of the low `n` bytes of `v` at `pa` in memory, and the move to the next instruction. -/
def StoresAt (s t : State) (pa n : Nat) (v : Nat) : Prop :=
  (∀ x, Mem.read t.m.mem x = if pa ≤ x ∧ x < pa + n then some (BitVec.ofNat 8 (v / 256 ^ (x - pa))) else Mem.read s.m.mem x) ∧
  ∃ mem, t = { s with hart := { s.hart with pc := s.hart.pc + 4#64 }, m := { s.m with mem := mem } }

/-- A scalar load: instruction, bytes, and the extension of the value read. -/
structure LoadOp where
  op : Reg → Reg → BitVec 13 → Instr
  n : Nat
  ext : Nat → Word

/-- The loads of spec/12 R317. -/
def loadOps : List LoadOp :=
  [ ⟨.ldB, 1, fun v => (BitVec.ofNat 8 v).signExtend 64⟩, ⟨.ldBu, 1, fun v => BitVec.ofNat 64 v⟩,
    ⟨.ldH, 2, fun v => (BitVec.ofNat 16 v).signExtend 64⟩, ⟨.ldHu, 2, fun v => BitVec.ofNat 64 v⟩,
    ⟨.ldW, 4, fun v => (BitVec.ofNat 32 v).signExtend 64⟩, ⟨.ldWu, 4, fun v => BitVec.ofNat 64 v⟩, ⟨.ldD, 8, fun v => BitVec.ofNat 64 v⟩ ]

/-- A scalar store: instruction, bytes, and the register value it stores (from x or f). -/
structure StoreOp where
  op : Reg → Reg → BitVec 13 → Instr
  n : Nat
  value : State → Reg → Nat

/-- The stores of R317, and the float stores of a word and a double word (spec/14 R358). -/
def storeOps : List StoreOp :=
  [ ⟨.stB, 1, fun s d => (s.xr d).toNat⟩, ⟨.stH, 2, fun s d => (s.xr d).toNat⟩, ⟨.stW, 4, fun s d => (s.xr d).toNat⟩,
    ⟨.stD, 8, fun s d => (s.xr d).toNat⟩, ⟨.fstW, 4, fun s d => (s.fr d).toNat⟩, ⟨.fstD, 8, fun s d => (s.fr d).toNat⟩ ]

/-- The `n` bytes at `va` are served by line `l` of the core's L1D through the cached leaf `e`: the leaf admits the access, the target
is HBM that is cached, and the words are valid and not poisoned (spec/01 R35, R36, spec/03 R66, R68, spec/12 R319). -/
def CachedAccess (s : State) (acc : Acc) (va : Word) (n : Nat) (e : TlbEntry) (l : CacheLine) : Prop :=
  Idle s ∧ va.toNat % n = 0 ∧ inPlateWindow s.hart.user.pwb va = false ∧ canonical va = true ∧ s.hart.sregs.sptb.getLsbD 63 = true ∧
  ((s.core (coreOf s.cur)).dtlb.find? fun x => x.hits s.hart.ctxid va && x.admits s.hart.sup acc) = some e ∧ e.attr.sy = false ∧
  s.target s.hart.ctx s.hart.sup (e.pa va) n = .hbm ∧ s.edgeClosed (e.pa va) = false ∧
  (acc = .store → s.isProtected (e.pa va) n = false) ∧
  s.l1Line (coreOf s.cur) (e.pa va / 64) = some l ∧ l.rid = e.attr.rid ∧ wordMask (e.pa va % 64) n &&& ~~~l.wv = 0#16 ∧
  l.psn = false ∧ l.data.length = 64

/-- The executing core's L1D with a line in front, in place of the one at its address. -/
def withLine (s : State) (l : CacheLine) : State :=
  let c := s.core (coreOf s.cur)
  let c' : CoreState := { c with l1d := l :: c.l1d.filter fun y => !(decide (y.line = l.line)) }
  { s with m := { s.m with cores := s.m.cores.set (coreOf s.cur) c' } }

/-- A rounding operation of the scalar float unit: its instruction, and its binary and rational results in a mode. -/
structure FloatOp where
  op : Reg → Reg → Reg → BitVec 1 → BitVec 3 → Instr
  bin : Fmt → Rnd → Nat → Nat → Nat × Exc
  rat : QVal → QVal → QVal × Exc

/-- The two-operand operations of spec/14 R354 and R356. -/
def floatOps : List FloatOp :=
  [ ⟨.fadd, Fmt.add, QVal.add⟩, ⟨.fsub, Fmt.sub, fun a b => a.add b.negate⟩, ⟨.fmul, Fmt.mul, QVal.mul⟩, ⟨.fdiv, Fmt.div, QVal.div⟩ ]

/-- A fused operation: the signs of the product and of the addend. -/
structure FusedOp where
  op : Reg → Reg → Reg → BitVec 1 → BitVec 3 → Reg → Instr
  negProd : Bool
  negAdd : Bool

/-- The fused operations of spec/14 R357. -/
def fusedOps : List FusedOp := [⟨.fma, false, false⟩, ⟨.fms, false, true⟩, ⟨.fnma, true, true⟩, ⟨.fnms, true, false⟩]

/-- A far atomic: its instruction, its operation, and the new memory value of n bits from the old value, the operand and the
compare value (spec/13 R331). -/
structure AtomOp where
  ins : Reg → Reg → Reg → BitVec 2 → BitVec 1 → Instr
  op : AtomicOp
  new : (n : Nat) → BitVec n → BitVec n → BitVec n → BitVec n

/-- The table of spec/13 R331. -/
def atomOps : List AtomOp :=
  [ ⟨.aadd, .add, fun _ m v _ => m + v⟩, ⟨.aand, .and, fun _ m v _ => m &&& v⟩, ⟨.aor, .or, fun _ m v _ => m ||| v⟩,
    ⟨.axor, .xor, fun _ m v _ => m ^^^ v⟩, ⟨.amin, .min, fun _ m v _ => if m.toInt ≤ v.toInt then m else v⟩,
    ⟨.amax, .max, fun _ m v _ => if v.toInt ≤ m.toInt then m else v⟩, ⟨.aminu, .minu, fun _ m v _ => if m.toNat ≤ v.toNat then m else v⟩,
    ⟨.amaxu, .maxu, fun _ m v _ => if v.toNat ≤ m.toNat then m else v⟩, ⟨.aswp, .swp, fun _ _ v _ => v⟩,
    ⟨.acas, .cas, fun _ m v c => if m = c then v else m⟩,
    ⟨.afadd, .fadd, fun n m v _ => BitVec.ofNat n ((if n = 32 then fmt32 else fmt64).add .rn m.toNat v.toNat).1⟩ ]

/-- The line at `pa` of this device is quiet at its home: its slice holds no line or watch, no slice holds a registration, no queue agent
watches, its last writer's key is the one `slot` names, and it is neither poisoned nor protected text. -/
def QuietHome (s : State) (slot pa : Nat) : Prop :=
  Mem.wf s.m.mem = true ∧ isHbm (laOf pa) = true ∧ devOf pa = s.fab.dev.toNat ∧ (s.lineKey (pa / 64)).key = s.keyAt slot pa ∧
  (s.slice (s.homeKey pa)).lines = [] ∧ (∀ k, k < 128 → (s.slice k).regs = []) ∧ (s.slice (s.homeKey pa)).watches = [] ∧
  s.m.agentWatches = [] ∧ s.isPoisoned (pa / 64) = false ∧ s.protectedWords (pa / 64) = 0#16

/-- Nothing of the hart but what the update says changes, in the hart of a physical number. -/
def OnlyHart (s t : State) (n : Nat) (g : Hart → Hart) : Prop := t = s.updHartN n g

/-- A 64-bit lock word at home: next-ticket below, now-serving above (spec/05 R138). -/
def lockWord (s : State) (slot pa : Nat) : BitVec 32 × BitVec 32 :=
  (BitVec.ofNat 32 (leNat (s.homeBytes slot pa 8)), BitVec.ofNat 32 (leNat (s.homeBytes slot pa 8) / 2 ^ 32))

/-- A control register that software reads back as it wrote it, but for the bits its layout leaves out (spec/11 R295 to R297). -/
structure PlainReg where
  n : BitVec 16
  kept : Word → Word

/-- The registers whose written fields are read back unchanged, with their fields: user registers, then supervisor registers. -/
def plainRegs : List PlainReg :=
  [ ⟨0x004#16, (· &&& 0xFFFFFFFF#64)⟩, ⟨0x005#16, fun v => (v.extractLsb' 0 40).signExtend 64⟩, ⟨0x006#16, (· &&& 0x1F#64)⟩,
    ⟨0x007#16, (· &&& 0xFFFFFFFF#64)⟩, ⟨0x00A#16, (· &&& 3#64)⟩, ⟨0x00C#16, id⟩, ⟨0x00D#16, id⟩, ⟨0x010#16, (· &&& 0xF#64)⟩,
    ⟨0x011#16, (· &&& 0x1F#64)⟩, ⟨0x018#16, (· &&& 0x3FF#64)⟩, ⟨0x020#16, (· &&& 0xFFFFF#64)⟩, ⟨0x021#16, (· &&& 0xFFFFF#64)⟩,
    ⟨0x022#16, (· &&& 0xFFFFF#64)⟩, ⟨0x023#16, (· &&& 0xFFFFF#64)⟩, ⟨0x024#16, (· &&& 0xFFFFF#64)⟩, ⟨0x025#16, (· &&& 0xFFFFF#64)⟩,
    ⟨0x026#16, (· &&& 0xFFFFF#64)⟩, ⟨0x027#16, (· &&& 0xFFFFF#64)⟩, ⟨0x031#16, (· &&& ~~~3#64)⟩, ⟨0x033#16, (· &&& ~~~3#64)⟩,
    ⟨0x034#16, (· &&& ~~~3#64)⟩, ⟨0x038#16, (· &&& 0x0000FFFFFF800001#64)⟩, ⟨0x040#16, (· &&& 0xFFFE#64)⟩, ⟨0x048#16, (· &&& 0xFFFFFFFF#64)⟩,
    ⟨0x106#16, (· &&& 0x80FFFFFFFFFF0000#64)⟩, ⟨0x107#16, (· &&& 0x000FFFFFFFFFFC01#64)⟩, ⟨0x108#16, (· &&& 0x7F#64)⟩,
    ⟨0x109#16, (· &&& 0x000FFFFFFFFFF001#64)⟩, ⟨0x10A#16, (· &&& 0x000FFFFFFFFFFFFF#64)⟩, ⟨0x10C#16, (· &&& 0xFFFFFFFF#64)⟩,
    ⟨0x121#16, (· &&& ~~~3#64)⟩, ⟨0x122#16, (· &&& ~~~3#64)⟩, ⟨0x123#16, (· &&& 0xFF#64)⟩, ⟨0x124#16, id⟩,
    ⟨0x125#16, (· &&& 0xFFFFFFFFFFFFF001#64)⟩, ⟨0x126#16, id⟩ ]

/-- The vector instructions that read and write registers and predicates alone (spec/15 R391 to R394, spec/16 R396 to R409), the
names by constructor. -/
def isVectorRegister : Instr → Bool
  | .vadd .. | .vsub .. | .vmul .. | .vfma .. | .vfms .. | .vdiv .. | .vsqrt .. | .vmin .. | .vmax .. | .vabs .. | .vneg .. => true
  | .vand .. | .vor .. | .vxor .. | .vshl .. | .vshr .. | .vmulh .. | .vsel .. => true
  | .vcmpEq .. | .vcmpNe .. | .vcmpLt .. | .vcmpLe .. | .vcmpGt .. | .vcmpGe .. | .vcmpUn .. => true
  | .vrcp .. | .vrsqrt .. | .vexp2 .. | .vlog2 .. | .vtanh .. => true
  | .vslup .. | .vsldn .. | .vperm .. | .vcomp .. | .vbcast .. | .vins .. | .vcvt .. => true
  | .vredSum .. | .vredMin .. | .vredMax .. | .vredAnd .. | .vredOr .. | .vscanSum .. | .vscanMin .. | .vscanMax .. | .vdot .. => true
  | .vbsl .. | .vbsr .. | .vbfun .. | .vbpopc .. => true
  | .pand .. | .por .. | .pxor .. | .pandn .. | .pnot .. | .pset .. | .pfirst .. | .pmv .. => true
  | _ => false

/-- The vector memory and mailbox instructions (spec/15 R381 to R390). -/
def isVectorMemory : Instr → Bool
  | .vld .. | .vst .. | .vldx .. | .vstx .. | .vldT .. | .vstN .. | .vpush .. | .vpushT .. => true
  | _ => false

/-- The instructions of the matrix queue (spec/17 R414 to R422). -/
def isMatrixQueue : Instr → Bool
  | .tld .. | .tst .. | .mop .. | .mops .. | .mopM .. | .mclr .. | .accx .. | .acci .. => true
  | _ => false

/-- The executing hart's configuration fits its share, as `vcfg` leaves it (spec/07 R183): VL within VCAP, the registers and the 32
predicates within the share, and the share within its cluster's storage. -/
def VecFits (s : State) : Prop :=
  let v := s.hart.vec
  s.cur < 2048 ∧ v.vl.toNat ≤ v.vcap ∧ v.b ≤ 16384 ∧ v.b % 128 = 0 ∧ v.vrows.toNat ≤ 8 ∧
  v.nregs * v.b + 32 * v.vcap ≤ 8192 * s.hart.grant.vsz.toNat ∧ s.hart.grant.voff.toNat + s.hart.grant.vsz.toNat ≤ 512

/-- A supervisor's hart with that configuration, whose registers hold no poison mark and no mailbox, and an instruction that passes
the checks of spec/09 R239. -/
def VecReady (s : State) (i : Instr) : Prop :=
  s.hart.sup = true ∧ s.m.marks = [] ∧ s.hart.vec.mbx = 0#32 ∧ VecFits s ∧ vecCheck i s = .ok () s

/-- An address outside the vector share of the executing hart. -/
def OutsideShare (s : State) (x : Nat) : Prop :=
  let lo := s.shareBit s.cur / 8
  x < lo ∨ lo + 1024 * s.hart.grant.vsz.toNat ≤ x

/-- A two-operand vector operation. -/
structure VecOp where
  ins : Reg → Reg → Reg → BitVec 1 → BitVec 1 → Instr
  op : VOp

/-- The operations of spec/15 R392 with two or three operands. -/
def vecOps : List VecOp :=
  [ ⟨.vadd, .add⟩, ⟨.vsub, .sub⟩, ⟨.vmul, .mul⟩, ⟨.vfma, .fma⟩, ⟨.vfms, .fms⟩, ⟨.vdiv, .div⟩, ⟨.vmin, .min⟩, ⟨.vmax, .max⟩,
    ⟨.vand, .and⟩, ⟨.vor, .or⟩, ⟨.vxor, .xor⟩, ⟨.vshl, .shl⟩, ⟨.vshr, .shr⟩, ⟨.vmulh, .mulh⟩ ]


/-- The step or instruction ends in a next state of which `p` holds. -/
def Ends (i : Instr) (s : State) (p : State → Prop) : Prop := ∃ t, exec i s = .next t ∧ p t

/-- x[d] receives `v` (a write of x0 is discarded), and the other registers keep their values. -/
def Gets (s t : State) (d : Reg) (v : Word) : Prop := t.xr d = (if d = 0#5 then 0#64 else v) ∧ ∀ r, r ≠ d → t.xr r = s.xr r

/-- Nothing of any hart changes. -/
def SameHarts (s t : State) : Prop := t.cur = s.cur ∧ t.hart = s.hart ∧ t.others = s.others

/-- Every byte of memory, on chip and off, reads as before. -/
def SameBytes (s t : State) : Prop := ∀ a, Mem.read t.m.mem a = Mem.read s.m.mem a

/-- The executing hart holds plate `n` of its die in slot `k`, from which nothing of its own is queued or copying, and no access of
any hart still resolves to it as it drains. -/
def HoldsQuietly (s : State) (k p : Nat) : Prop :=
  s.hart.slotAt k = .attached p ∧ p < 128 ∧ s.hart.vq = [] ∧ s.hart.mq = [] ∧ (s.cluster (clusterOf s.cur)).copies = [] ∧
  s.plateUsed (s.die * 128 + p) = false ∧ s.cur < 2048

/-- A plate as a hand-over leaves it that begins while nothing fills it (spec/03 R87). -/
def leaving (x : Plate) (dest : HandTo) : Plate := { x with state := 3#2, held := x.state, hand := some dest }

/-- Of the harts only one changes, as the update says. -/
def HartsOnly (s t : State) (h : Nat) (g : Hart → Hart) : Prop := ∀ n, t.getHart n = if n = h then g (s.getHart h) else s.getHart n

/-- A hart after taking a trap with its entry enabled (spec/09 R235, R237), the trapping instruction at `at'`. -/
def trapped (x : Hart) (code : BitVec 8) (arg : Word) (qk : BitVec 2) (at' : Word) : Hart :=
  let frz := !x.vq.isEmpty || !x.mq.isEmpty
  { x with
    trap := { x.trap with trpc := at' &&& ~~~3#64, trnext := (if qk = 0#2 then at' else x.pc) &&& ~~~3#64, trcode := code, trarg := arg,
                          prior := x.sup, qk := qk, skip := (code == tcEcall), frz := frz }
    frozen := x.frozen || frz
    phase := .running
    sup := true
    entering := true
    window := []
    vq := x.vq.map fun q => { q with spans := [] }
    mq := x.mq.map fun q => { q with spans := [] }
    trapFrom := if qk = 0#2 && !x.sup then none else x.trapFrom
    pc := (x.trap.trentry &&& ~~~0xFFF#64) + (if x.sup then 0x800#64 else 0#64) + (code.zeroExtend 64 <<< 6) }

/-- A hart whose queues may be served: placed, of a running context, in user mode, its queues not frozen. -/
def Serves (s : State) (h : Nat) : Prop :=
  let x := s.getHart h
  x.phase = .running ∧ s.hartRuns h = true ∧ x.sup = false ∧ x.frozen = false

/-- The step attempts the head of a queue of hart `h`, and does nothing else. -/
def AttemptsHead (i : Instr) (s : State) (h : Nat) (mat : Bool) : Prop :=
  exec i s = .next (((s.switchTo h).attemptHead mat).1.switchTo s.cur)


/-- The same after an update that the arbiter makes. -/
def AttemptsAfter (i : Instr) (s t : State) (h : Nat) (mat : Bool) : Prop :=
  exec i s = .next (((t.switchTo h).attemptHead mat).1.switchTo t.cur)


/-- The matrix engine of cluster `k` takes the operation of hart `h` in `t`: the head of its queue is attempted, and a `mop.m` that does not
complete holds the engine (spec/08 R222). -/
def Operates (s t : State) (k h : Nat) : Prop :=
  let r := (t.switchTo h).attemptHead true
  let u := r.1.switchTo t.cur
  exec .matrixOperationEnd s = .next (u.setCluster k { u.cluster k with engine := if r.2 = false ∧ u.streams h = true then some h else none })

/-- A mailbox command completes with a result and a response (spec/21 R467). -/
def Answers (s t : State) (result : BitVec 8) (resp : List Byte) : Prop :=
  t.trust.result = result ∧ t.trust.done = true ∧ t.trust.busy = false ∧ t.trust.rlen = BitVec.ofNat 16 resp.length ∧
  t.trust.tag = s.trust.tag ∧ ∀ i, t.trust.response.get 0#8 i = resp.getD i 0#8

/-! ### Vector state -/

/-- The element width of a request (spec/07 R183). -/
def elemWidth (r : Nat) : Nat := [2, 4, 8, 16, 32, 64].getD (r / 4) 1

/-- The register length B of a request in a share of `vsz` KiB; none where it is unsupported or gives B below 128 (R183). -/
def lengthOf (vsz r : Nat) : Option Nat :=
  let nregs := [4, 8, 16, 32].getD (r % 4) 0
  let q := vsz * 1024 * 8 * elemWidth r / (nregs * elemWidth r + 32)
  let b := min (q - q % 128) 16384
  if r < 24 ∧ 128 ≤ b then some b else none

/-- The save area of the executing hart with no poison (spec/09 R255, R256): header words, elements below VL packed by the width of their
tag, predicates p1 to p31. -/
def savedArea (s : State) : List Byte :=
  let v := s.hart.vec
  let regs := (List.range v.nregs).flatMap fun k =>
    packed (v.saveWidth k) ((List.range v.vl.toNat).map fun e => s.getBits (s.velAt v k e (v.saveWidth k)) (v.saveWidth k))
  let preds := (List.range 31).flatMap fun j => packed 1 ((List.range v.vl.toNat).map fun e => s.getBits (s.pbitAt v (j + 1) e) 1)
  let data := if v.ill then [] else regs ++ preds
  ([v.request.toNat, v.vl.toNat, v.vrows.toNat, v.vstr.toNat, (v.vpitch.signExtend 64).toNat, v.vmsel.toNat, v.vstart.toNat,
    v.vtaglo.toNat, v.vtaghi.toNat, v.b, v.mbx.toNat, v.full.toNat, v.vtype.toNat, 2 * v.ovf.toNat + v.inv.toNat, 1, data.length] ++
   List.replicate 16 0).flatMap (toBytes 8) ++ data

/-- A word of a header. -/
def hdrWord (hdr : List Byte) (ofs : Nat) : Nat := leNat ((hdr.drop ofs).take 8)

/-- A header that `vrest` accepts (spec/15 R377): version 1, its reserved fields and flags zero, and a supported request unless it was saved
with ILL set. -/
def acceptedHeader (vsz : Nat) (hdr : List Byte) : Prop :=
  hdrWord hdr 0x70 % 2 ^ 32 = 1 ∧ hdrWord hdr 0x70 / 2 ^ 33 = 0 ∧ hdrWord hdr 0 < 32 ∧ (∀ b ∈ hdr.drop 0x80, b = 0#8) ∧
  ((hdrWord hdr 0x60).testBit 5 = true ∨ (lengthOf vsz (hdrWord hdr 0)).isSome = true)

/-- The vector registers of control as an accepted header restores them (R377), VL apart. -/
def savedRegs (v : VecRegs) (vsz : Nat) (hdr : List Byte) : VecRegs :=
  let w := fun (n ofs : Nat) => BitVec.ofNat n (hdrWord hdr ofs)
  { v with
    request := w 5 0, resized := false, ill := (lengthOf vsz (hdrWord hdr 0)).isNone, b := (lengthOf vsz (hdrWord hdr 0)).getD 0
    vrows := BitVec.ofNat 4 (max 1 (min (hdrWord hdr 0x10 % 16) 8)), vstr := w 32 0x18, vpitch := w 40 0x20, vmsel := w 5 0x28
    vstart := w 32 0x30, vtaglo := w 64 0x38, vtaghi := w 64 0x40, mbx := w 32 0x50, full := w 32 0x58
    ovf := (hdrWord hdr 0x68).testBit 1, inv := (hdrWord hdr 0x68).testBit 0 }

/-! ### Vector values -/

/-- The instruction completes with the pc moved by 4 and no scalar register changed, leaves in each element below VL of the group of vd the
value that `val` names for its row and position (where it names none, the element keeps its value), and changes no byte outside the share. -/
def VecLeaves (i : Instr) (s : State) (d : Reg) (val : Nat → Nat → Option Nat) : Prop :=
  let v := s.hart.vec
  VecReady s i → Mem.wf s.m.mem = true → ∃ t, exec i s = .next t ∧ t.hart.pc = s.hart.pc + 4#64 ∧ t.hart.regs = s.hart.regs ∧
    (∀ x, OutsideShare s x → Mem.read t.m.mem x = Mem.read s.m.mem x) ∧
    ∀ k e, k < v.vrows.toNat → e < v.vl.toNat →
      t.vel v (d.toNat + k) e = ((val k e).getD (s.vel v (d.toNat + k) e)) % 2 ^ (v.ty (d.toNat + k)).width

/-- The same of the bits below VL of a group of predicates; p0 stays all true. -/
def PredLeaves (i : Instr) (s : State) (d : Reg) (bit : Nat → Nat → Option Bool) : Prop :=
  let v := s.hart.vec
  VecReady s i → Mem.wf s.m.mem = true → ∃ t, exec i s = .next t ∧ t.hart.pc = s.hart.pc + 4#64 ∧ t.hart.regs = s.hart.regs ∧
    (∀ x, OutsideShare s x → Mem.read t.m.mem x = Mem.read s.m.mem x) ∧
    ∀ k e, k < v.vrows.toNat → e < v.vl.toNat →
      t.pbit v (d.toNat + k) e = (decide (d.toNat + k = 0) || (bit k e).getD (s.pbit v (d.toNat + k) e))

/-- The balanced tree of spec/10 R273 over 2^n positions. -/
def treeOf {α : Type} (g : α → α → α) : Nat → (Nat → α) → α
  | 0, x => x 0
  | n + 1, x => g (treeOf g n x) (treeOf g n fun i => x (2 ^ n + i))

/-- What the down-sweep of spec/10 R274 leaves at a position: the value handed down, combined with the left halves passed by. -/
def sumBefore {α : Type} (g : α → α → α) : Nat → (Nat → α) → α → Nat → α
  | 0, _, e, _ => e
  | n + 1, x, e, i => if i < 2 ^ n then sumBefore g n x e i else sumBefore g n (fun j => x (2 ^ n + j)) (g (treeOf g n x) e) (i - 2 ^ n)

/-- The comparisons of spec/15 R394. -/
structure CompareOp where
  ins : Reg → Reg → Reg → BitVec 1 → Instr
  cond : Cond

def compareOps : List CompareOp :=
  [⟨.vcmpEq, .eq⟩, ⟨.vcmpNe, .ne⟩, ⟨.vcmpLt, .lt⟩, ⟨.vcmpLe, .le⟩, ⟨.vcmpGt, .gt⟩, ⟨.vcmpGe, .ge⟩, ⟨.vcmpUn, .un⟩]

/-- The special functions of spec/15 R395. -/
structure FunctionOp where
  ins : Reg → Reg → Instr
  fn : SFun

def functionOps : List FunctionOp := [⟨.vrcp, .rcp⟩, ⟨.vrsqrt, .rsqrt⟩, ⟨.vexp2, .exp2⟩, ⟨.vlog2, .log2⟩, ⟨.vtanh, .tanh⟩]

/-- The reductions and the scans of spec/16 R404. -/
structure ReduceOp where
  ins : Reg → Reg → Instr
  op : RedOp

def reduceOps : List ReduceOp := [⟨.vredSum, .sum⟩, ⟨.vredMin, .min⟩, ⟨.vredMax, .max⟩, ⟨.vredAnd, .and⟩, ⟨.vredOr, .or⟩]
def scanOps : List ReduceOp := [⟨.vscanSum, .sum⟩, ⟨.vscanMin, .min⟩, ⟨.vscanMax, .max⟩]

/-- The predicate operations of spec/16 R408 with two operands. -/
structure PredicateOp where
  ins : Reg → Reg → Reg → Instr
  fn : Bool → Bool → Bool

def predicateOps : List PredicateOp :=
  [⟨.pand, fun a b => a && b⟩, ⟨.por, fun a b => a || b⟩, ⟨.pxor, fun a b => a != b⟩, ⟨.pandn, fun a b => a && !b⟩]

/-- The first byte and the bit in it of element e of row k of a strided access (spec/15 R382, R383). -/
def stridedPlace (v : VecRegs) (base : Word) (w k e : Nat) : Word × Nat :=
  let row : Int := base.toNat + k * v.vpitch.toInt
  if w < 8 then (BitVec.ofInt 64 (row + (e * w / 8 : Nat)), e * w % 8)
  else (BitVec.ofInt 64 (row + e * (if v.vstr = 0#32 then 1 else v.vstr.toInt) * (w / 8 : Nat)), 0)

/-- The same of an indexed access. -/
def indexedPlace (base : Word) (index : Int) : Word × Nat := (BitVec.ofInt 64 (base.toNat + index), 0)

/-- An element of w bits at a place lies, aligned, in a READY plate `p` of a slot of the executing hart (spec/03 R82, R85, R86). -/
def InPlate (s : State) (x : Word × Nat) (w p : Nat) : Prop :=
  x.1.toNat % max (w / 8) 1 = 0 ∧ inPlateWindow s.hart.user.pwb x.1 = true ∧
  s.hart.slots[(plateSlotOf x.1).toNat]'(plateSlotOf x.1).isLt = .attached p ∧ p < 128 ∧ plateOfs x.1 + max (w / 8) 1 ≤ 0x40000 ∧
  (s.plate (dieOfHart s.cur * 128 + p)).state = 2#2

/-- Its bit address. -/
def plateBit (s : State) (x : Word × Nat) (p : Nat) : Nat := 8 * platePhys s x.1 p + x.2

/-- Elements stored by their position: where each lies (its first bit and its width) and what it receives; of the bytes in which they lie,
every other bit, and every other byte of memory, is as it was. -/
def StoresElems (s t : State) (on : Nat → Nat → Prop) (at' width val : Nat → Nat → Nat) : Prop :=
  (∀ k e, on k e → t.getBits (at' k e) (width k e) = val k e) ∧
  (∀ k e b, on k e → b / 8 = at' k e / 8 → (∀ l f, on l f → ¬ (at' l f ≤ b ∧ b < at' l f + width l f)) → t.getBits b 1 = s.getBits b 1) ∧
  (∀ y, (∀ k e, on k e → ¬ (at' k e < 8 * y + 8 ∧ 8 * y < at' k e + width k e)) → Mem.read t.m.mem y = Mem.read s.m.mem y)

/-- No two elements share a bit. -/
def ElemsApart (on : Nat → Nat → Prop) (at' width : Nat → Nat → Nat) : Prop :=
  ∀ k e l f, on k e → on l f → (k, e) ≠ (l, f) → at' k e + width k e ≤ at' l f ∨ at' l f + width l f ≤ at' k e

/-- A supervisor's hart whose matrix instruction passes its checks, with its tiles and accumulators inside its cluster and no poison mark and
no mailbox. -/
def MatReady (s : State) (i : Instr) : Prop :=
  s.hart.sup = true ∧ s.m.marks = [] ∧ s.hart.vec.mbx = 0#32 ∧ VecFits s ∧ matrixCheck i s = .ok () s ∧ Mem.wf s.m.mem = true ∧
  s.hart.grant.tbase.toNat + s.hart.grant.tcnt.toNat ≤ 32 ∧ s.hart.grant.abase.toNat + s.hart.grant.acnt.toNat ≤ 16

/-- The shape of tile t: element width, rows and columns (spec/17 R412). -/
def ShapeIs (s : State) (t : Reg) (ty : Ty) (rows cols : Nat) : Prop :=
  shapeOf (s.hart.user.tshape[(t.extractLsb' 0 3).toNat]'(t.extractLsb' 0 3).isLt) = some ⟨ty, rows, cols⟩

/-- A product into accumulator d: each element of the first M rows and N columns receives its K steps in order on its old value, every other
element of the accumulator and every byte outside it is as it was, and the pc moves by 4 (spec/17 R418 to R420). -/
def Multiplies (s : State) (i : Instr) (d : Reg) (ty : Ty) (m n k : Nat) (a b : Nat → Nat → Nat) : Prop :=
  let lo := s.accAt d 0 0 / 8
  ∃ t, exec i s = .next t ∧ t.hart.pc = s.hart.pc + 4#64 ∧ t.hart.regs = s.hart.regs ∧
    (∀ x y, x < 128 → y < 64 → t.acc d x y =
      if x < m ∧ y < n then (List.range k).foldl (fun c j => (macStep ty (a x j) (b j y) c).1) (s.acc d x y) else s.acc d x y) ∧
    ∀ z, z < lo ∨ lo + 0x8000 ≤ z → Mem.read t.m.mem z = Mem.read s.m.mem z

end Sys2Proof.Machine

open Sys2Proof Sys2Proof.Machine

/-- For every instruction that has a word (every constructor but the events, which no word encodes) and whose fields lie in their
ranges, the decoder reads the encoder's word back as the instruction, with every operand at every value that the encoding
admits. (R287, R288, R289, R291, R292, R293) -/
def Obligations.CodingRoundTrip : Prop :=
  ∀ i : Instr, isEncoded i = true → WellFormed i → decode (encode i) = some i

/-- Every 32-bit word that the decoder accepts is the encoding of the instruction it gives: no bit of the word is ignored,
reserved bits included, and the instruction has a word and is well formed. Two words never decode to one instruction. (R287,
R289, R291, R292, R293) -/
def Obligations.WordsHaveOneReading : Prop :=
  ∀ (w : BitVec 32) (i : Instr), decode w = some i → encode i = w ∧ isEncoded i = true ∧ WellFormed i

/-- Words that the spec writes out, under R287, R289 and R326 and in the programs worked from R287: register and immediate
operations, a load, a store and an acquire load, branches and jumps, control registers, scalar and vector arithmetic, atomics
and releases, queue locks, plates, orbits, tiles, engine ports and system instructions, each with its operands. (R287, R289,
R291, R326) -/
def Obligations.WordsOfTheSpec : Prop :=
  decode 0x04C74001#32 = some (.sub 6#5 7#5 8#5) ∧ decode 0x18A50083#32 = some (.srai 5#5 5#5 3#6) ∧
  decode 0x28A00003#32 = some (.pcrel 5#5 3#21) ∧ decode 0x2D223FF8#32 = some (.ldBu 9#5 2#5 (-8#13)) ∧
  decode 0x314CC018#32 = some (.stD 10#5 12#5 24#13) ∧ decode 0x6C853005#32 = some (.divu 4#5 5#5 6#5) ∧
  decode 0x5464FFFE#32 = some (.bltu 3#5 4#5 (-2#16)) ∧ decode 0x60200040#32 = some (.jal 1#5 64#21) ∧
  decode 0x64010000#32 = some (.jalr 0#5 1#5 0#16) ∧ decode 0x84050000#32 = some (.crw 0#5 5#5 0#16) ∧
  decode 0x80E00050#32 = some (.crr 7#5 0x50#16) ∧ decode 0x34A6D808#32 = some (.ldaD 5#5 6#5 3#2 8#11) ∧
  decode 0x4422FFFD#32 = some (.beq 1#5 2#5 (-3#16)) ∧ decode 0x7C000053#32 = some (.rel 1#2 3#4) ∧
  decode 0x7E8E0174#32 = some (.qlock 20#5 14#5 3#2 4#4) ∧ decode 0xB8221802#32 = some (.mop 1#5 2#5 3#5) ∧
  decode 0xBC0A0000#32 = some (.epush 0#5 10#5) ∧ decode 0xC1F27004#32 = some (.pmark 15#5 18#5 14#5) ∧
  decode 0xC60B0000#32 = some (.orbdef 16#5 11#5) ∧ decode 0xC5F00002#32 = some (.orbgo 15#5 16#5) ∧
  decode 0x90C50000#32 = some (.vcfg 6#5 5#5) ∧ decode 0xCC000003#32 = some .uret ∧ decode 0xCC000004#32 = some .halt

/-- Where the schedule names a hart, or no other hart and no agent could take the step, the hart runs, nothing is due before its
next instruction and its fetch gives the word w, the step is exec of the instruction that w decodes to, at the state that the
fetch leaves, and Meridian time then passes; where w does not decode, the step raises ILLEGAL with the word in TRARG. Where
the schedule names the agents, the step is exec of the first step that waits, with its message, and one that would raise an
event at a die whose spill page is full waits behind the others instead; where it names nothing, a hart or an agent is chosen
(the schedule is the model's own, log entry 6; that a hart of another die finds the count greater by one, and how much time a
step takes, are log entry 7). A fetch through a leaf of the instruction TLB from a line of the L1I gives the four bytes at the
pc, the lowest address least significant, and changes no register and no memory. Time passing changes nothing else while no
switch is armed and no queue is watched; at the T of an armed switch its cut begins. (Where the rules leave it open it rests
on the model's choices, log entries 7.) (R26, R71, R117, R217, R225, R229, R233, R236, R260, R286, R293) -/
def Obligations.StepsRunTheDecodedInstruction : Prop :=
  (∀ (s : State) (h : Nat) (l : List Nat), s.turns = h :: l → h < 2048 →
    let v : State := { s with turns := l, time := if dieOfHart h = dieOfHart s.cur then s.time else s.time + 1 }
    let v := v.switchTo h
    v.hartRuns h = true → v.hart.phase = .running → v.hart.resizes = false → v.hart.delivery = none → v.hart.vq = [] → v.hart.mq = [] →
    ∀ w t, fetchWord v = .ok w t →
      let u : State := { t with hart := { t.hart with entering := false } }
      (∀ i, decode w = some i → step s = endStep s.time (exec i u)) ∧
      (decode w = none → step s = endStep s.time (.next (u.takeTrap tcIllegal (w.zeroExtend 64) 0#2 u.hart.pc)))) ∧
  (∀ s : State, s.turns = [] → s.inbox = [] → s.others = [] → s.hartRuns s.cur = true → s.hart.phase = .running → s.hart.resizes = false →
    s.hart.delivery = none → s.hart.vq = [] → s.hart.mq = [] → ∀ w t, fetchWord s = .ok w t →
      let u : State := { t with hart := { t.hart with entering := false } }
      (∀ i, decode w = some i → step s = endStep s.time (exec i u)) ∧
      (decode w = none → step s = endStep s.time (.next (u.takeTrap tcIllegal (w.zeroExtend 64) 0#2 u.hart.pc)))) ∧
  (∀ (s : State) (n : Nat) (l : List Nat) (i : Instr) (m : Msg) (r : List (Instr × Msg)), s.turns = n :: l → 2048 ≤ n → s.inbox = (i, m) :: r →
    isEncoded i = false →
      let o := exec i { s with turns := l, inbox := r, msg := m }
      ((∀ t, o = .next t → t.waitingEvents ≤ s.waitingEvents) → step s = endStep s.time o) ∧
      (∀ t, o = .next t → s.waitingEvents < t.waitingEvents → step s = endStep s.time (.next { s with turns := l, inbox := r ++ [(i, m)] }))) ∧
  (∀ s : State, s.turns = [] → step s = endStep s.time s.hartStep ∨ step s = endStep s.time ({ s with free := s.free + 1 } : State).agentStep ∨
    ∃ h ∈ s.hartIds, step s = endStep s.time (({ s with free := s.free + 1 } : State).turnOf h)) ∧
  (∀ (s : State) (e : TlbEntry) (data : List Byte), let va := s.hart.pc; let k := coreOf s.cur
    canonical va = true → va.toNat % 4 = 0 → s.hart.sregs.sptb.getLsbD 63 = true → data.length = 64 →
    (s.core k).itlb.find? (fun x => x.hits s.hart.ctxid va && x.admits s.hart.sup .fetch) = some e →
    s.edgeClosed (e.pa va) = false →
    (s.core k).l1i.find? (fun l => decide (l.line = e.pa va / 64)) = some { line := e.pa va / 64, data } →
    ∃ t, fetchWord s = .ok (BitVec.ofNat 32 (leNat ((data.drop (e.pa va % 64)).take 4))) t ∧ t.hart = s.hart ∧ t.others = s.others ∧ SameBytes s t) ∧
  (∀ (t : State) (n : Nat), endStep n (.next t) = .next (t.tickOver n) ∧
    (t.disp.switch.phase = 0#2 → t.watched = false → t.tickOver n = { t with time := t.time + Config.elapsed t.tick, tick := t.tick + 1 }) ∧
    (t.disp.switch.phase ≠ 0#2 → t.disp.switch.begun = false → t.disp.switch.latched.toNat ≤ t.time + Config.elapsed t.tick →
      (∀ x ∈ t.inbox, x.1 ≠ .cutBegin) → (Instr.cutBegin, ({} : Msg)) ∈ (t.tickOver n).inbox))

/-- State.reset: every hart is idle in user mode, and its control registers hold the values that their tables give: VTYPE has ILL
set, VROWS is 1, PUSHLIM 0x100000, and VL, the request of VTYPE, VREGB, VSTR, VPITCH, VMSEL, VSTART, VMBX, VFLAGS, VTAG,
FMODE, FFLAGS, PWB, AQRM, WATCH, MSTART, TSHAPE, USTAT, XEPC, XID, XRES, XNOT, SPTB, SFPA, SFPN, SCTB, SRTB, SNOTICE and the
trap registers (QK, SKIP, PRIOR and FRZ among them) are 0. Queues, ports, slots and latch are empty, every resident slot is
empty, the switch is idle, no step of another agent waits, and memory lists no byte, which is its canonical form. (That x and
f registers hold 0 there is the model's choice, log entry 2.) (R26, R41, R132, R136, R195, R196, R228, R234, R250, R272, R369,
R412) -/
def Obligations.ResetValues : Prop :=
  (∀ h, let x := State.reset.getHart h; let v := x.vec; let u := x.user; let q := x.irq; let t := x.trap; let p := x.sregs
    x.phase = .idle ∧ x.sup = false ∧ x.launch = none ∧ x.vq = [] ∧ x.mq = [] ∧ x.e1 = [] ∧ x.e2 = [] ∧ x.latch = 0#7 ∧
    (∀ k, x.slotAt k = .empty) ∧ (∀ r : Fin 32, x.regs.x[r] = 0#64 ∧ x.regs.f[r] = 0#64) ∧
    v.ill = true ∧ v.resized = false ∧ v.request = 0#5 ∧ v.b = 0 ∧ v.vl = 0#14 ∧ v.vrows = 1#4 ∧ v.vstr = 0#32 ∧ v.vpitch = 0#40 ∧
    v.vmsel = 0#5 ∧ v.vstart = 0#32 ∧ v.mbx = 0#32 ∧ v.full = 0#32 ∧ v.ovf = false ∧ v.inv = false ∧ v.vtaglo = 0#64 ∧ v.vtaghi = 0#64 ∧
    u.drm = 0#3 ∧ u.rat = false ∧ u.fflags = 0#5 ∧ u.pwb = 0#64 ∧ u.aqrm = 0#16 ∧ u.watchVa = 0#64 ∧ u.watchEn = false ∧
    u.mstart = 0#10 ∧ u.pushlim = 0x100000#32 ∧ (∀ k : Fin 8, u.tshape[k] = 0#20) ∧
    q.cause = 0#4 ∧ q.inh = false ∧ q.ore = false ∧ q.nte = false ∧ q.cde = false ∧ q.xepc = 0#64 ∧ q.xid = 0#32 ∧ q.xres = 0#64 ∧ q.xnot = 0#64 ∧
    t.trpc = 0#64 ∧ t.trnext = 0#64 ∧ t.trcode = 0#8 ∧ t.trarg = 0#64 ∧ t.trentry = 0#64 ∧ t.trspare = 0#64 ∧
    t.qk = 0#2 ∧ t.skip = false ∧ t.prior = false ∧ t.frz = false ∧
    p.sptb = 0#64 ∧ p.sfpa = 0#64 ∧ p.sfpn = 0#7 ∧ p.sctb = 0#64 ∧ p.srtb = 0#64 ∧ p.snotice = 0#32) ∧
  (∀ n, (State.reset.ctx n).state = 0#2 ∧ (State.reset.ctx n).qtab = 0#64 ∧ (State.reset.ctx n).dgrant = 0#64) ∧
  State.reset.disp.switch.phase = 0#2 ∧ State.reset.disp.launches = [] ∧ State.reset.inbox = [] ∧ State.reset.m.mem = [] ∧
  Mem.wf State.reset.m.mem = true

/-- Where the listed bytes of memory stand with strictly rising addresses, none of them equal to what an unlisted address reads
as, and a step answers a next state, they stand so there too. (R13) -/
def Obligations.MemoryStaysCanonical : Prop :=
  ∀ s t : State, Mem.wf s.m.mem = true → step s = .next t → Mem.wf t.m.mem = true

/-- Every operation of the table of R310 decodes from its function code, completes in every state with the value the table gives
in x[d] (wrapping modulo 2^64; shift amounts are bits [5:0] of x[b]; clz, ctz and popc count bits, with 64, 64 and 0 for a
zero operand), moves the pc by 4 and changes no other register, flag or byte of memory. A function code from 0x013 up and a
nonzero b field of clz, ctz, popc decode to no instruction, which is how a word raises ILLEGAL. (R310, R311) -/
def Obligations.RegisterOperationResults : Prop :=
  (∀ e ∈ regOps, ∀ d a b : Reg, decode (0x01#6 ++ d ++ a ++ b ++ e.fn) = some (e.op d a b) ∧
    ∀ s : State, Yields (e.op d a b) s d (e.value (s.xr a) (s.xr b))) ∧
  (∀ e ∈ countOps, ∀ d a : Reg, decode (0x01#6 ++ d ++ a ++ 0#5 ++ e.fn) = some (e.op d a) ∧
    (∀ b : Reg, b ≠ 0#5 → decode (0x01#6 ++ d ++ a ++ b ++ e.fn) = none) ∧
    ∀ s : State, Yields (e.op d a) s d (BitVec.ofNat 64 (e.count (s.xr a)))) ∧
  (∀ (fn : BitVec 11) (d a b : Reg), 0x013 ≤ fn.toNat → decode (0x01#6 ++ d ++ a ++ b ++ fn) = none)

/-- addi, andi, ori, xori, slti and sltiu (R312), slli, srli and srai (R313) and lih and pcrel (R314) decode from the words the
rules lay out, complete in every state with the value of the table in x[d], move the pc by 4 and change nothing else; a
nonzero imm[15:8] or selector 3 of major 0x06 decodes to no instruction. (R312, R313, R314) -/
def Obligations.ImmediateOperationResults : Prop :=
  (∀ e ∈ immOps, ∀ (d a : Reg) (i : BitVec 16), decode (e.major ++ d ++ a ++ i) = some (e.op d a i) ∧
    ∀ s : State, Yields (e.op d a i) s d (e.value (s.xr a) i)) ∧
  (∀ (d a : Reg) (n : BitVec 6), decode (0x06#6 ++ d ++ a ++ 0#8 ++ 0#2 ++ n) = some (.slli d a n) ∧
    decode (0x06#6 ++ d ++ a ++ 0#8 ++ 1#2 ++ n) = some (.srli d a n) ∧ decode (0x06#6 ++ d ++ a ++ 0#8 ++ 2#2 ++ n) = some (.srai d a n) ∧
    (∀ (h : BitVec 8) (sel : BitVec 2), h ≠ 0#8 ∨ sel = 3#2 → decode (0x06#6 ++ d ++ a ++ h ++ sel ++ n) = none) ∧
    ∀ s : State, Yields (.slli d a n) s d (BitVec.ofNat 64 ((s.xr a).toNat * 2 ^ n.toNat)) ∧
      Yields (.srli d a n) s d (BitVec.ofNat 64 ((s.xr a).toNat / 2 ^ n.toNat)) ∧
      Yields (.srai d a n) s d (BitVec.ofInt 64 ((s.xr a).toInt / 2 ^ n.toNat))) ∧
  (∀ (d : Reg) (i : BitVec 21), decode (0x09#6 ++ d ++ i) = some (.lih d i) ∧ decode (0x0A#6 ++ d ++ i) = some (.pcrel d i) ∧
    ∀ s : State, Yields (.lih d i) s d (BitVec.ofInt 64 (i.toInt * 65536)) ∧
      Yields (.pcrel d i) s d (BitVec.ofInt 64 (s.hart.pc.toInt + i.toInt * 65536)))

/-- mul, mulh, mulhu, mulhsu, div, divu, rem and remu decode from function codes 0 to 7 of major 0x1B (codes from 8 up are no
instruction) and complete in every state: the low and high halves of the exact product under each reading of the operands; the
quotient rounded toward zero and its remainder; all ones and x[a] for a zero divisor; the remaining edge case follows from
wrapping. Nothing else changes but the pc. (R315) -/
def Obligations.MultiplyDivideResults : Prop :=
  (∀ (d a b : Reg) (fn : BitVec 11), 8 ≤ fn.toNat → decode (0x1B#6 ++ d ++ a ++ b ++ fn) = none) ∧
  ∀ d a b : Reg,
    decode (0x1B#6 ++ d ++ a ++ b ++ 0#11) = some (.mul d a b) ∧ decode (0x1B#6 ++ d ++ a ++ b ++ 1#11) = some (.mulh d a b) ∧
    decode (0x1B#6 ++ d ++ a ++ b ++ 2#11) = some (.mulhu d a b) ∧ decode (0x1B#6 ++ d ++ a ++ b ++ 3#11) = some (.mulhsu d a b) ∧
    decode (0x1B#6 ++ d ++ a ++ b ++ 4#11) = some (.div d a b) ∧ decode (0x1B#6 ++ d ++ a ++ b ++ 5#11) = some (.divu d a b) ∧
    decode (0x1B#6 ++ d ++ a ++ b ++ 6#11) = some (.rem d a b) ∧ decode (0x1B#6 ++ d ++ a ++ b ++ 7#11) = some (.remu d a b) ∧
    ∀ s : State, let x := s.xr a; let y := s.xr b
      Yields (.mul d a b) s d (BitVec.ofNat 64 (x.toNat * y.toNat)) ∧
      Yields (.mulh d a b) s d (BitVec.ofInt 64 (x.toInt * y.toInt / 2 ^ 64)) ∧
      Yields (.mulhu d a b) s d (BitVec.ofNat 64 (x.toNat * y.toNat / 2 ^ 64)) ∧
      Yields (.mulhsu d a b) s d (BitVec.ofInt 64 (x.toInt * y.toNat / 2 ^ 64)) ∧
      Yields (.div d a b) s d (if y = 0#64 then BitVec.allOnes 64 else BitVec.ofInt 64 (x.toInt.tdiv y.toInt)) ∧
      Yields (.divu d a b) s d (if y = 0#64 then BitVec.allOnes 64 else BitVec.ofNat 64 (x.toNat / y.toNat)) ∧
      Yields (.rem d a b) s d (if y = 0#64 then x else BitVec.ofInt 64 (x.toInt.tmod y.toInt)) ∧
      Yields (.remu d a b) s d (if y = 0#64 then x else BitVec.ofNat 64 (x.toNat % y.toNat))

/-- beq, bne, blt, bge, bltu and bgeu decode from their majors and complete in every state: where the condition of the table of
R324 holds the pc becomes pc + 4 × the sign-extended offset, elsewhere pc + 4, and the rest of the state is unchanged. jal
sets x[d] to the next pc and the pc to pc + 4 × its sign-extended offset. jalr reads x[a] before it writes x[d], and goes to
x[a] + its sign-extended immediate where that is a multiple of 4; otherwise it raises MISALIGNED with that address in TRARG
and writes no register (stated for a hart with empty queues and an enabled trap entry). Nothing else changes. Where the
configuration admits the predicate, no vector instruction is queued and no bit is poisoned, bp.any, bp.none, bp.all and
bp.first complete: the pc becomes the target exactly when some, no, every tested bit is 1, or VL is at least 1 and bit 0 is 1,
and pc + 4 elsewhere; nothing else changes. With VTYPE.ILL = 1 they raise VCONFIG with the instruction word in TRARG. (R324,
R325, R326, R327) -/
def Obligations.BranchesAndJumps : Prop :=
  ((∀ e ∈ branchOps, ∀ (a b : Reg) (o : BitVec 16), decode (e.major ++ a ++ b ++ o) = some (e.op a b o) ∧
    ∀ s : State,
      (e.cond (s.xr a) (s.xr b) → exec (e.op a b o) s = .next (atPc s (BitVec.ofInt 64 (s.hart.pc.toInt + 4 * o.toInt)))) ∧
      (¬ e.cond (s.xr a) (s.xr b) → exec (e.op a b o) s = .next (atPc s (s.hart.pc + 4#64)))) ∧
  ((∀ (d : Reg) (o : BitVec 21), decode (0x18#6 ++ d ++ o) = some (.jal d o) ∧ ∀ s : State, ∃ t, exec (.jal d o) s = .next t ∧
    WritesX s (atPc t (s.hart.pc + 4#64)) d (s.hart.pc + 4#64) ∧ t.hart.pc = BitVec.ofInt 64 (s.hart.pc.toInt + 4 * o.toInt) ∧
    (s.hart.pc.toNat % 4 = 0 → t.hart.pc.toNat % 4 = 0)) ∧
  (∀ (a b : Reg) (o : BitVec 16) (s : State), s.hart.pc.toNat % 4 = 0 → ∀ e ∈ branchOps, ∃ t, exec (e.op a b o) s = .next t ∧
    t.hart.pc.toNat % 4 = 0) ∧
  (∀ (d a : Reg) (i : BitVec 16), decode (0x19#6 ++ d ++ a ++ i) = some (.jalr d a i) ∧ ∀ s : State,
    let target := BitVec.ofInt 64 ((s.xr a).toInt + i.toInt)
    (target.toNat % 4 = 0 → ∃ t, exec (.jalr d a i) s = .next t ∧ WritesX s (atPc t (s.hart.pc + 4#64)) d (s.hart.pc + 4#64) ∧
      t.hart.pc = target) ∧
    (target.toNat % 4 ≠ 0 → Settled s → ∃ t, exec (.jalr d a i) s = .next t ∧ TrapsTo s t tcMisaligned target)))) ∧
  (∀ (p : Reg) (o : BitVec 16) (s : State),
    let bit := fun e => s.pbit s.hart.vec p.toNat e = true
    let goes := fun (i : Instr) (c : Prop) =>
      (c → exec i s = .next (atPc s (BitVec.ofInt 64 (s.hart.pc.toInt + 4 * o.toInt)))) ∧ (¬ c → exec i s = .next (atPc s (s.hart.pc + 4#64)))
    (Idle s → s.m.marks = [] → s.hart.vec.ill = false → p.toNat + 1 ≤ 32 →
      goes (.bpAny p o) (∃ e < s.hart.vec.vl.toNat, bit e) ∧ goes (.bpNone p o) (∀ e < s.hart.vec.vl.toNat, ¬ bit e) ∧
      goes (.bpAll p o) (∀ e < s.hart.vec.vl.toNat, bit e) ∧ goes (.bpFirst p o) (1 ≤ s.hart.vec.vl.toNat ∧ bit 0)) ∧
    (Settled s → s.hart.vec.ill = true → ∀ i ∈ [Instr.bpAny p o, .bpNone p o, .bpAll p o, .bpFirst p o],
      ∃ t, exec i s = .next t ∧ TrapsTo s t tcVconfig ((encode i).zeroExtend 64)))

/-- For each of ld.b, ld.bu, ld.h, ld.hu, ld.w, ld.wu, ld.d and each state in which the aligned bytes at x[a] + sext(off13) lie in
a READY plate of a slot of the hart, the load completes with the little-endian value of those bytes, sign- or zero-extended,
in x[d] (discarded for x0). fld.w and fld.d write f[d], fld.h the binary32 of the binary16 read, with its flags. No other
register and no byte of memory changes. For st.b, st.h, st.w, st.d, fst.w and fst.d, where the aligned bytes at x[a] +
sext(off13) lie in a READY plate of a slot of the hart, the store completes, the bytes from the address of that plate and
offset hold the low bytes of the register, every other byte of memory reads as before, and no register or flag changes. fst.h
stores the binary16 of the binary32 in f[d] and ORs its exceptions into FFLAGS. Memory is in its canonical form, which every
step keeps. (R82, R85, R317, R318, R358) -/
def Obligations.PlateWindowAccesses : Prop :=
  (∀ (s : State) (a d : Reg) (o : BitVec 13) (p : Nat),
    let va := s.xr a + o.signExtend 64
    (∀ e ∈ loadOps, PlateAccess s va e.n p → Yields (e.op d a o) s d (e.ext (storedNat s (platePhys s va p) e.n))) ∧
    (PlateAccess s va 2 p →
      let r := fmt32.encode .rn (fmt16.decode (storedNat s (platePhys s va p) 2))
      YieldsF (.fldH d a o) s d (BitVec.ofNat 64 r.1) r.2) ∧
    (PlateAccess s va 4 p → YieldsF (.fldW d a o) s d (BitVec.ofNat 64 (storedNat s (platePhys s va p) 4)) {}) ∧
    (PlateAccess s va 8 p → YieldsF (.fldD d a o) s d (BitVec.ofNat 64 (storedNat s (platePhys s va p) 8)) {})) ∧
  (∀ (s : State) (a d : Reg) (o : BitVec 13) (p : Nat), Mem.wf s.m.mem = true →
    let va := s.xr a + o.signExtend 64
    (∀ e ∈ storeOps, PlateAccess s va e.n p → ∃ t, exec (e.op d a o) s = .next t ∧ StoresAt s t (platePhys s va p) e.n (e.value s d)) ∧
    (PlateAccess s va 2 p →
      let r := fmt16.encode .rn (fmt32.decode ((s.fr d).toNat % 2 ^ 32))
      ∃ t, exec (.fstH d a o) s = .next t ∧ t.hart.user.fflags = s.hart.user.fflags ||| r.2.bits ∧
        StoresAt s { t with hart := { t.hart with user := s.hart.user } } (platePhys s va p) 2 r.1))

/-- Where a cached leaf admits the access and the line stands in the L1D of the core with the words valid, every scalar load
returns the bytes of the line at its offset and moves the line to the front; every scalar store replaces exactly its bytes of
the line and marks their words valid and dirty. Main memory, every other line, register and flag stay as they were; a store
leaves every byte at home as it was until the line is written back. (R318, R319, R66, R68, R358) -/
def Obligations.CachedLoadsAndStores : Prop :=
  ∀ (s : State) (a d : Reg) (o : BitVec 13) (e : TlbEntry) (l : CacheLine),
    let va := s.xr a + o.signExtend 64
    let ofs := e.pa va % 64
    let value := fun n => leNat ((l.data.drop ofs).take n)
    (∀ x ∈ loadOps, CachedAccess s .load va x.n e l → ∃ t, exec (x.op d a o) s = .next t ∧ WritesX (withLine s l) t d (x.ext (value x.n))) ∧
    (CachedAccess s .load va 4 e l → ∃ t, exec (.fldW d a o) s = .next t ∧ t.fr d = BitVec.ofNat 64 (value 4) ∧
      (∀ r, r ≠ d → t.fr r = s.fr r) ∧ (∀ r, t.xr r = s.xr r) ∧ t.m = (withLine s l).m ∧ t.hart.pc = s.hart.pc + 4#64) ∧
    (CachedAccess s .load va 8 e l → ∃ t, exec (.fldD d a o) s = .next t ∧ t.fr d = BitVec.ofNat 64 (value 8) ∧
      (∀ r, r ≠ d → t.fr r = s.fr r) ∧ (∀ r, t.xr r = s.xr r) ∧ t.m = (withLine s l).m ∧ t.hart.pc = s.hart.pc + 4#64) ∧
    (∀ x ∈ storeOps, CachedAccess s .store va x.n e l →
      let m := wordMask ofs x.n
      let l' := { l with wv := l.wv ||| m, wd := l.wd ||| m, data := putBytes l.data ofs (toBytes x.n (x.value s d)) }
      exec (x.op d a o) s = .next (atPc (withLine s l') (s.hart.pc + 4#64)))

/-- With the queues of the hart empty and its trap entry enabled, every scalar load and store whose address is no multiple of its
size raises MISALIGNED with the address in TRARG; an aligned one in the plate window that runs past the 256 KiB of a plate
raises BOUND, and one within it whose slot holds no plate raises DETACHED. Nothing but the trap registers, the privilege and
the pc changes: no register is written and no byte stored. A load from a plate that is not READY waits: the state is
unchanged. (R318, R85, R237, R239) -/
def Obligations.ScalarAccessTraps : Prop :=
  ∀ (s : State) (a d : Reg) (o : BitVec 13) (op : Reg → Reg → BitVec 13 → Instr) (n : Nat),
    ((∃ e ∈ loadOps, op = e.op ∧ n = e.n) ∨ (∃ e ∈ storeOps, op = e.op ∧ n = e.n) ∨ (op = .fldH ∧ n = 2) ∨ (op = .fldW ∧ n = 4) ∨
      (op = .fldD ∧ n = 8) ∨ (op = .fstH ∧ n = 2)) → Settled s →
    let va := s.xr a + o.signExtend 64
    (va.toNat % n ≠ 0 → ∃ t, exec (op d a o) s = .next t ∧ TrapsTo s t tcMisaligned va) ∧
    (va.toNat % n = 0 → inPlateWindow s.hart.user.pwb va = true →
      (0x40000 < plateOfs va + n → ∃ t, exec (op d a o) s = .next t ∧ TrapsTo s t tcBound va) ∧
      (plateOfs va + n ≤ 0x40000 → (∀ p, s.hart.slots[(plateSlotOf va).toNat]'(plateSlotOf va).isLt ≠ .attached p) →
        ∃ t, exec (op d a o) s = .next t ∧ TrapsTo s t tcDetached va) ∧
      (∀ p, plateOfs va + n ≤ 0x40000 → s.hart.slots[(plateSlotOf va).toNat]'(plateSlotOf va).isLt = .attached p →
        (s.plate (dieOfHart s.cur * 128 + p)).state ≠ 2#2 → (∃ e ∈ loadOps, op = e.op) → exec (op d a o) s = .next s))

/-- Where the load of R318 delivers and no acquire is left of it, lda.w and lda.d acquire at their scope over the AQRM regions as
they stood when the instruction issued and retire with the value (sign-extended for .w) in x[d]. Where acknowledgements are
awaited only the acquire is left: x[d] stays as it was until the instruction is met again and its acquire is performed. Where
the checks of the store pass, no registration is awaited and no release waits for another device, stl.w and stl.d release at
their scope over the AQRM regions and then perform the store. On a READY plate lda gives the bytes there, and stl, with no
line to release, writes exactly its bytes. (Where the rules leave it open it rests on the model's choices, log entries 129.)
(R323, R132, R120, R121, R123, R124, R332) -/
def Obligations.AcquireLoadsReleaseStores : Prop :=
  ∀ (s : State) (a d : Reg) (o : BitVec 11) (sc : BitVec 2), s.hart.vq = [] → s.hart.mq = [] →
    let va := s.xr a + o.signExtend 64
    let fresh := ∀ g r v f, s.hart.heldHere ≠ some (.acquire g r v f)
    let word := fun bs => (BitVec.ofNat 32 (leNat bs)).signExtend 64
    let double := fun bs => (BitVec.ofNat 64 (leNat bs) : Word)
    (fresh → ∀ bs t, loadBytes va 4 s = .ok bs t → Idle t → exec (.ldaW d a sc o) s = .next (((t.acquire t.cur sc s.aqrm).setX d (word bs)).advance)) ∧
    (fresh → ∀ bs t, loadBytes va 8 s = .ok bs t → Idle t → exec (.ldaD d a sc o) s = .next (((t.acquire t.cur sc s.aqrm).setX d (double bs)).advance)) ∧
    (fresh → ∀ bs t, loadBytes va 4 s = .ok bs t → t.hart.acks.acq ≠ 0 →
      exec (.ldaW d a sc o) s = .next (t.updHart (·.keep (.acquire s.aqrm d (word bs) 0#5)))) ∧
    (fresh → ∀ bs t, loadBytes va 8 s = .ok bs t → t.hart.acks.acq ≠ 0 →
      exec (.ldaD d a sc o) s = .next (t.updHart (·.keep (.acquire s.aqrm d (double bs) 0#5)))) ∧
    (∀ g r v f, s.hart.heldHere = some (.acquire g r v f) → ∀ i ∈ [Instr.ldaW d a sc o, .ldaD d a sc o],
      (s.hart.acks.acq ≠ 0 → exec i s = .next s) ∧
      (s.hart.acks.acq = 0 → ∃ t, exec i s = .next t ∧ t.xr r = (if r = 0#5 then 0#64 else v) ∧ (∀ x, x ≠ r → t.xr x = s.xr x) ∧
        t.hart.regs.f = s.hart.regs.f ∧ t.hart.pc = s.hart.pc + 4#64 ∧ t.m = (s.acquire s.cur sc g).m ∧
        t.hart.held = s.hart.held.filter fun k => !s.hart.isHere k)) ∧
    (fresh → ∀ p, PlateAccess s va 4 p → exec (.ldaW d a sc o) s =
      .next (((s.acquire s.cur sc s.aqrm).setX d ((BitVec.ofNat 32 (storedNat s (platePhys s va p) 4)).signExtend 64)).advance)) ∧
    (fresh → ∀ p, PlateAccess s va 8 p → exec (.ldaD d a sc o) s =
      .next (((s.acquire s.cur sc s.aqrm).setX d (BitVec.ofNat 64 (storedNat s (platePhys s va p) 8))).advance)) ∧
    (∀ p t u, accessCheck .store va 4 s = .ok p t → t.hart.vq = [] → t.hart.mq = [] → t.hart.acks.reg = 0 → t.releaseWaits t.cur sc t.aqrm = none →
      storeTo (toBytes 4 (s.xr d).toNat) p (t.release t.cur sc t.aqrm) = .ok () u → exec (.stlW d a sc o) s = .next u.advance) ∧
    (∀ p t u, accessCheck .store va 8 s = .ok p t → t.hart.vq = [] → t.hart.mq = [] → t.hart.acks.reg = 0 → t.releaseWaits t.cur sc t.aqrm = none →
      storeTo (toBytes 8 (s.xr d).toNat) p (t.release t.cur sc t.aqrm) = .ok () u → exec (.stlD d a sc o) s = .next u.advance) ∧
    (∀ p, Mem.wf s.m.mem = true → s.releaseLines s.cur = [] →
      (PlateAccess s va 4 p → ∃ t, exec (.stlW d a sc o) s = .next t ∧ StoresAt s t (platePhys s va p) 4 (s.xr d).toNat) ∧
      (PlateAccess s va 8 p → ∃ t, exec (.stlD d a sc o) s = .next t ∧ StoresAt s t (platePhys s va p) 8 (s.xr d).toNat))

/-- For a rounding field that names a mode m (7 takes FMODE.DRM), fadd, fsub, fmul, fdiv, the fused operations, fsqrt and the
conversions from integers complete: outside rational mode f[d] holds the binary32 (.s) or binary64 (.d) result of the operands
rounded in m, in rational mode a .d form holds the FS64 result rounded in m; the exceptions are ORed into FFLAGS; nothing else
changes but the pc. fsqrt in rational mode raises RATIONAL_OP. Where the rounding field (or FMODE.DRM for code 7) names no
mode, or names RM outside a .d form in rational mode, fadd, fsub, fmul, fdiv, fsqrt, the fused operations, the rounding
conversions, qmk and qmed raise ILLEGAL with the instruction word in TRARG; no register or flag is written. (R237, R272, R292,
R293, R354, R356, R357, R366) -/
def Obligations.FloatingArithmeticResults : Prop :=
  (∀ (s : State) (d a b c : Reg) (p : BitVec 1) (r : BitVec 3) (m : Rnd), s.rounding p r = some m →
    let f := precFmt p
    let bin := fun (i : Instr) (v : Nat × Exc) => s.rational p = false → YieldsF i s d (BitVec.ofNat 64 v.1) v.2
    let rat := fun (i : Instr) (v : QVal × Exc) => s.rational p = true →
      YieldsF i s d (v.1.encode m).1 (v.2.or (v.1.encode m).2)
    (∀ e ∈ floatOps, bin (e.op d a b p r) (e.bin f m (s.fcode p a) (s.fcode p b)) ∧ rat (e.op d a b p r) (e.rat (s.qval a) (s.qval b))) ∧
    (∀ e ∈ fusedOps,
      bin (e.op d a b p r c) (f.fma m (if e.negProd then (f.decode (s.fcode p a)).negate else f.decode (s.fcode p a)) (f.decode (s.fcode p b))
        (if e.negAdd then (f.decode (s.fcode p c)).negate else f.decode (s.fcode p c))) ∧
      rat (e.op d a b p r c) ((if e.negProd then (s.qval a).negate else s.qval a).fma (s.qval b)
        (if e.negAdd then (s.qval c).negate else s.qval c))) ∧
    bin (.fsqrt d a p r) (f.sqrt m (s.fcode p a)) ∧
    (s.rational p = true → Settled s → ∃ t, exec (.fsqrt d a p r) s = .next t ∧ TrapsTo s t tcRationalOp ((encode (.fsqrt d a p r)).zeroExtend 64)) ∧
    bin (.fcvtFX d a p r) (f.encode m (.ofInt (s.xr a).toInt)) ∧ rat (.fcvtFX d a p r) (.ofInt (s.xr a).toInt 1, {}) ∧
    bin (.fcvtFXu d a p r) (f.encode m (.ofInt (s.xr a).toNat)) ∧ rat (.fcvtFXu d a p r) (.ofInt (s.xr a).toNat 1, {})) ∧
  (∀ (s : State) (d a b c : Reg) (w p : BitVec 1) (r : BitVec 3), Settled s → s.rounding p r = none →
    let bad := fun (i : Instr) => ∃ t, exec i s = .next t ∧ TrapsTo s t tcIllegal ((encode i).zeroExtend 64)
    (∀ e ∈ floatOps, bad (e.op d a b p r)) ∧ (∀ e ∈ fusedOps, bad (e.op d a b p r c)) ∧ bad (.fsqrt d a p r) ∧ bad (.fcvtFX d a p r) ∧
    bad (.fcvtFXu d a p r) ∧ bad (.fcvtXF d a p r) ∧ bad (.fcvtXuF d a p r) ∧ bad (.fcvtFF d a w p r) ∧
    (p = 1#1 → bad (.qmk d a b r) ∧ bad (.qmed d a b r)))

/-- fcvt to a signed or unsigned integer rounds in the mode and saturates, fcvt.f.f converts between binary32 and binary64, or in
rational mode between FS64 and a binary format (a 64-bit partner outside rational mode is ILLEGAL); fmv copies bits; fsgn
gives the magnitude of f[a] a sign; fmin, fmax choose; feq, flt, fle compare, 0 for a NaN; fclass gives the class word. Each
completes with its value and flags and changes nothing else but the pc. (Where the rules leave it open it rests on the model's
choices, log entries 40.) (R353, R354, R355, R356) -/
def Obligations.FloatConversionsAndMoves : Prop :=
  ∀ (s : State) (d a b : Reg) (w p : BitVec 1) (r : BitVec 3),
    let f := precFmt p
    let x := f.decode (s.fcode p a)
    let y := f.decode (s.fcode p b)
    let rat := s.rational p
    (∀ m, s.rounding p r = some m →
      (let v := if rat then (s.qval a).toRange m (-(2 ^ 63)) (2 ^ 63 - 1) else x.toRange m (-(2 ^ 63)) (2 ^ 63 - 1)
       YieldsXFlags (.fcvtXF d a p r) s d (BitVec.ofInt 64 v.1) v.2) ∧
      (let v := if rat then (s.qval a).toRange m 0 (2 ^ 64 - 1) else x.toRange m 0 (2 ^ 64 - 1)
       YieldsXFlags (.fcvtXuF d a p r) s d (BitVec.ofInt 64 v.1) v.2) ∧
      (s.hart.user.rat = true → p = 1#1 →
        let v := fsOfBinary m ((precFmt w).decode (s.fcode w a)); YieldsF (.fcvtFF d a w p r) s d v.1 v.2) ∧
      (s.hart.user.rat = true → p = 0#1 →
        let v := (precFmt w).ofRational m (s.qval a); YieldsF (.fcvtFF d a w p r) s d (BitVec.ofNat 64 v.1) v.2) ∧
      (s.hart.user.rat = false → w = 1#1 → Settled s →
        ∃ t, exec (.fcvtFF d a w p r) s = .next t ∧ TrapsTo s t tcIllegal ((encode (.fcvtFF d a w p r)).zeroExtend 64)) ∧
      (s.hart.user.rat = false → w = 0#1 → p = 1#1 →
        let v := fmt64.encode m (fmt32.decode (s.fcode 0#1 a)); YieldsF (.fcvtFF d a w p r) s d (BitVec.ofNat 64 v.1) v.2) ∧
      (s.hart.user.rat = false → w = 0#1 → p = 0#1 →
        let v := fmt32.encode m (fmt64.decode (s.fcode 1#1 a)); YieldsF (.fcvtFF d a w p r) s d (BitVec.ofNat 64 v.1) v.2)) ∧
    Yields (.fmvXF d a p) s d (if p = 1#1 then s.fr a else ((s.fr a).extractLsb' 0 32).signExtend 64) ∧
    YieldsF (.fmvFX d a p) s d (if p = 1#1 then s.xr a else ((s.xr a).extractLsb' 0 32).zeroExtend 64) {} ∧
    (rat = false → ∀ i ∈ [(Instr.fsgnC d a b p, s.signBit p b), (.fsgnN d a b p, !s.signBit p b), (.fsgnX d a b p, s.signBit p a != s.signBit p b)],
      ∃ v, YieldsF i.1 s d v {} ∧ v.getLsbD (if p = 1#1 then 63 else 31) = i.2 ∧
        (∀ k, k < 64 → k ≠ (if p = 1#1 then 63 else 31) → v.getLsbD k = (decide (k < (if p = 1#1 then 63 else 31)) && (s.fr a).getLsbD k))) ∧
    (rat = true → ∀ i ∈ [(Instr.fsgnC d a b p, s.signBit p b), (.fsgnN d a b p, !s.signBit p b), (.fsgnX d a b p, s.signBit p a != s.signBit p b)],
      YieldsF i.1 s d ((s.qval a).withSign i.2) { nv := (s.qval a).nv || (s.qval b).nv }) ∧
    (rat = false → (let v := f.minmax false (s.fcode p a) (s.fcode p b); YieldsF (.fmin d a b p) s d (BitVec.ofNat 64 v.1) v.2) ∧
      (let v := f.minmax true (s.fcode p a) (s.fcode p b); YieldsF (.fmax d a b p) s d (BitVec.ofNat 64 v.1) v.2)) ∧
    (rat = true → (let v := qMinmax false (s.qval a) (s.qval b); YieldsF (.fmin d a b p) s d v.1 v.2) ∧
      (let v := qMinmax true (s.qval a) (s.qval b); YieldsF (.fmax d a b p) s d v.1 v.2)) ∧
    (rat = false → (x.isNan || y.isNan) = true → YieldsXFlags (.feq d a b p) s d 0#64 { nv := x.isSnan || y.isSnan } ∧
      YieldsXFlags (.flt d a b p) s d 0#64 { nv := true } ∧ YieldsXFlags (.fle d a b p) s d 0#64 { nv := true }) ∧
    (rat = false → (x.isNan || y.isNan) = false → YieldsXFlags (.feq d a b p) s d (if (x.cmp y).2 then 1#64 else 0#64) {} ∧
      YieldsXFlags (.flt d a b p) s d (if (x.cmp y).1 then 1#64 else 0#64) {} ∧
      YieldsXFlags (.fle d a b p) s d (if (x.cmp y).1 || (x.cmp y).2 then 1#64 else 0#64) {}) ∧
    (rat = true → ((s.qval a).isNan || (s.qval b).isNan) = true →
      YieldsXFlags (.feq d a b p) s d 0#64 { nv := (s.qval a).nv || (s.qval b).nv } ∧
      YieldsXFlags (.flt d a b p) s d 0#64 { nv := true } ∧ YieldsXFlags (.fle d a b p) s d 0#64 { nv := true }) ∧
    (rat = true → ((s.qval a).isNan || (s.qval b).isNan) = false → let c := (s.qval a).cmp (s.qval b)
      YieldsXFlags (.feq d a b p) s d (if c.2 then 1#64 else 0#64) {} ∧ YieldsXFlags (.flt d a b p) s d (if c.1 then 1#64 else 0#64) {} ∧
      YieldsXFlags (.fle d a b p) s d (if c.1 || c.2 then 1#64 else 0#64) {}) ∧
    Yields (.fclass d a p) s d (BitVec.ofNat 64 (if rat then (if fsNonCanonical (s.fr a) then 16 else 0) + (if s.signBit p a then 8 else 0) + fsKind (s.fr a)
      else (if s.signBit p a then 8 else 0) + f.kind (s.fcode p a)))

/-- For binary16, bfloat16, binary32 and binary64 and every code below the width that is neither a NaN nor an infinity, encoding
its value in any rounding mode returns the same code and raises no exception: the formats hold their own values exactly. For
the f8 format the same holds of every code but its NaN 0x80. In binary16, bfloat16, binary32 and binary64, whatever the
operands and the mode, where the result of an addition, subtraction, multiplication, division, square root or fused operation
decodes to a NaN it is the canonical quiet NaN of the format. (R262, R265, R266, R267, R271, R354) -/
def Obligations.FormatsAndNans : Prop :=
  (∀ (m : Rnd) (c : Nat),
    (∀ f ∈ [fmt16, fmtBf, fmt32, fmt64], c < 2 ^ f.width → (f.decode c).isNan = false → (f.decode c).isInf = false →
      f.encode m (f.decode c) = (c, {})) ∧
    (c < 256 → c ≠ 0x80 → fmt8.encode m (fmt8.decode c) = (c, {}))) ∧
  (∀ f ∈ [fmt16, fmtBf, fmt32, fmt64], ∀ (m : Rnd) (a b : Nat) (c : FVal),
    ∀ r ∈ [(f.add m a b).1, (f.sub m a b).1, (f.mul m a b).1, (f.div m a b).1, (f.sqrt m a).1, (f.fma m (f.decode a) (f.decode b) c).1],
      (f.decode r).isNan = true → r = f.nan)

/-- On a finite operand ±n/d: qnum gives ±n, qden d, qcf the x[b]-th partial quotient, qfloor the FS64 word of the floor. qmk of
two integers rounds their quotient in the mode, with DZ and an infinity for a zero divisor and NV and NaN for 0/0; qmed rounds
the mediant, in lowest terms, of finite operands of one sign or with a zero, takes ∞ as 1/0, gives two zeros +0, zero and ±∞
±1 and two infinities of one sign that infinity; nonzero operands of opposite signs give NaN with NV. A NaN operand gives NaN
with NV only for L 58 to 63 in qmed and qfloor; qnum, qden and qcf of it give 0 with NV. Each completes with its flags and
changes nothing else but the pc. A fraction in lowest terms that is representable decodes from its word exactly. (R359, R360,
R361, R362, R363, R364, R278, R279, R280) -/
def Obligations.RationalInstructionResults : Prop :=
  (∀ (neg : Bool) (n d : Nat), 0 < n → 0 < d → Nat.gcd n d = 1 → fsRep n d = true →
    QVal.decode (fsWord neg n d) = .fin neg n d ∧ ∀ m, fsRound m neg n d = (fsWord neg n d, {})) ∧
  ∀ (s : State) (d a b : Reg) (r : BitVec 3),
    (∀ neg n q, s.qval a = .fin neg n q →
      YieldsXFlags (.qnum d a) s d (BitVec.ofInt 64 (if neg then -(n : Int) else n)) {} ∧ YieldsXFlags (.qden d a) s d (BitVec.ofNat 64 q) {} ∧
      YieldsXFlags (.qcf d a b) s d (BitVec.ofNat 64 (partialQuotient n q 128 (s.xr b).toNat)) {} ∧
      YieldsF (.qfloor d a) s d (fsWord neg (if neg then (n + q - 1) / q else n / q) 1) {}) ∧
    (∀ neg, s.qval a = .inf neg →
      YieldsXFlags (.qnum d a) s d (if neg then BitVec.allOnes 64 else 1#64) {} ∧ YieldsXFlags (.qden d a) s d 0#64 {} ∧
      YieldsXFlags (.qcf d a b) s d (if s.xr b = 0#64 then BitVec.allOnes 64 else 0#64) {} ∧ YieldsF (.qfloor d a) s d (fsInf neg) {}) ∧
    (∀ nv, s.qval a = .nan nv → YieldsXFlags (.qnum d a) s d 0#64 { nv := true } ∧ YieldsXFlags (.qden d a) s d 0#64 { nv := true } ∧
      YieldsXFlags (.qcf d a b) s d 0#64 { nv := true } ∧ YieldsF (.qfloor d a) s d fsNan { nv := nv }) ∧
    (∀ m, s.rounding 1#1 r = some m →
      let x := (s.xr a).toInt; let y := (s.xr b).toInt
      (y = 0 → x = 0 → YieldsF (.qmk d a b r) s d fsNan { nv := true }) ∧
      (y = 0 → x ≠ 0 → YieldsF (.qmk d a b r) s d (fsInf (x < 0)) { dz := true }) ∧
      (y ≠ 0 → x = 0 → YieldsF (.qmk d a b r) s d 0#64 {}) ∧
      (y ≠ 0 → x ≠ 0 → let g := Nat.gcd x.natAbs y.natAbs
        let v := fsRound m (decide (x < 0) != decide (y < 0)) (x.natAbs / g) (y.natAbs / g); YieldsF (.qmk d a b r) s d v.1 v.2) ∧
      (∀ neg n q n' q', s.qval a = .fin neg n q → s.qval b = .fin neg n' q' → 0 < n → 0 < n' → 0 < q → 0 < q' →
        let g := Nat.gcd (n + n') (q + q')
        let v := fsRound m neg ((n + n') / g) ((q + q') / g); YieldsF (.qmed d a b r) s d v.1 v.2) ∧
      (let med := fun (v : Word × Exc) => YieldsF (.qmed d a b r) s d v.1 v.2
       (((s.qval a).isNan || (s.qval b).isNan) = true → med (fsNan, { nv := (s.qval a).nv || (s.qval b).nv })) ∧
       (∀ neg n q n' q', s.qval a = .fin neg n q → s.qval b = .fin (!neg) n' q' → 0 < n → 0 < n' → med (fsNan, { nv := true })) ∧
       (∀ z z', s.qval a = .fin z 0 1 → s.qval b = .fin z' 0 1 → med (0#64, {})) ∧
       (∀ z neg n q, 0 < n → 0 < q → (s.qval a = .fin z 0 1 ∧ s.qval b = .fin neg n q ∨ s.qval a = .fin neg n q ∧ s.qval b = .fin z 0 1) →
         med (fsRound m neg (n / Nat.gcd n (q + 1)) ((q + 1) / Nat.gcd n (q + 1)))) ∧
       (∀ z neg, (s.qval a = .fin z 0 1 ∧ s.qval b = .inf neg ∨ s.qval a = .inf neg ∧ s.qval b = .fin z 0 1) → med (fsWord neg 1 1, {})) ∧
       (∀ neg, s.qval a = .inf neg → (s.qval b = .inf neg → med (fsInf neg, {})) ∧ (s.qval b = .inf (!neg) → med (fsNan, { nv := true }))) ∧
       (∀ neg n q, 0 < n → 0 < q → (s.qval a = .inf neg ∧ s.qval b = .fin neg n q ∨ s.qval a = .fin neg n q ∧ s.qval b = .inf neg) →
         med (fsRound m neg ((n + 1) / Nat.gcd (n + 1) q) (q / Nat.gcd (n + 1) q))) ∧
       (∀ neg n q, 0 < n → (s.qval a = .inf neg ∧ s.qval b = .fin (!neg) n q ∨ s.qval a = .fin (!neg) n q ∧ s.qval b = .inf neg) →
         med (fsNan, { nv := true }))))

/-- At a home slice that holds nothing for the line, for each of the eleven operations in both widths on an aligned address under
the key that wrote the line: the old value is returned (sign-extended for .w), the bytes at the address hold the new value of
R331, and every other byte reads under that key slot as before. On a poisoned line nothing is written and the answer says
poisoned. (R331, R332, R135, R62) -/
def Obligations.FarAtomicAtItsHome : Prop :=
  ∀ e ∈ atomOps, ∀ (s : State) (slot pa : Nat) (v c : Word),
    (pa % 8 = 0 → QuietHome s slot pa →
      let old := BitVec.ofNat 64 (leNat (s.homeBytes slot pa 8))
      let r := s.atomicHome slot pa e.op true v c
      r.2.old = old ∧ r.2.poisoned = false ∧ r.1.homeBytes slot pa 8 = toBytes 8 (e.new 64 old v c).toNat ∧
      ∀ x, x < pa ∨ pa + 8 ≤ x → r.1.homeByte slot x = s.homeByte slot x) ∧
    (pa % 4 = 0 → QuietHome s slot pa →
      let old := BitVec.ofNat 32 (leNat (s.homeBytes slot pa 4))
      let r := s.atomicHome slot pa e.op false v c
      r.2.old = old.signExtend 64 ∧ r.2.poisoned = false ∧
      r.1.homeBytes slot pa 4 = toBytes 4 (e.new 32 old (v.setWidth 32) (c.setWidth 32)).toNat ∧
      ∀ x, x < pa ∨ pa + 4 ≤ x → r.1.homeByte slot x = s.homeByte slot x) ∧
    (∀ wide, isHbm (laOf pa) = true → devOf pa = s.fab.dev.toNat → (∀ k, k < 128 → (s.slice k).regs = []) →
      (s.slice (s.homeKey pa)).lines = [] → s.isPoisoned (pa / 64) = true →
      (s.atomicHome slot pa e.op wide v c).2.poisoned = true ∧ (s.atomicHome slot pa e.op wide v c).1.m.mem = s.m.mem)

/-- Where the checks of R332 pass and nothing is queued or awaited, each of the eleven far atomics at each width completes, unless
the old value is poisoned: after a release at its scope over the AQRM regions, the operation at the home slice with x[b] and
x[d] as read before, and an acquire, it retires: x[d] receives the old value and afadd ORs its exceptions into FFLAGS. Where
acknowledgements of an earlier acquire are awaited, the operation has been performed and only the acquire is left; x[d] and
FFLAGS stay as they were until the instruction is met again and its acquire is performed. A misaligned address raises
MISALIGNED with nothing done, a plate-window address ACCESS_FAULT. (Where the rules leave it open it rests on the model's
choices, log entries 11, 67, 68 and 129.) (R331, R332, R134, R135, R152) -/
def Obligations.FarAtomicInstructions : Prop :=
  ∀ e ∈ atomOps, ∀ (s : State) (d a b : Reg) (sc : BitVec 2) (w : BitVec 1),
    let n := if w = 0#1 then 4 else 8
    let fresh := ∀ g r v f, s.hart.heldHere ≠ some (.acquire g r v f)
    (fresh → ∀ pa attr t, homeCheck (s.xr a) n s = .ok (pa, attr) t → t.hart.vq = [] → t.hart.mq = [] → t.hart.acks.reg = 0 →
      t.releaseWaits t.cur sc s.aqrm = none →
      let u := t.release t.cur sc s.aqrm
      let slot := keySlot u.hart.ctx
      let r := (u.pushHome slot u.cur (pa / 64) (wordMask (pa % 64) n)).atomicHome slot pa e.op (w == 1#1) (s.xr b) (s.xr d)
      let v := r.1
      r.2.poisoned = false → v.hart.vq = [] → v.hart.mq = [] →
      (v.hart.acks.acq = 0 → exec (e.ins d a b sc w) s = .next (((v.acquire v.cur sc s.aqrm).setX d r.2.old).orFflags r.2.exc.bits).advance) ∧
      (v.hart.acks.acq ≠ 0 → exec (e.ins d a b sc w) s = .next (v.updHart (·.keep (.acquire s.aqrm d r.2.old r.2.exc.bits))))) ∧
    (∀ g r v f, s.hart.heldHere = some (.acquire g r v f) → s.hart.vq = [] → s.hart.mq = [] → s.hart.acks.acq = 0 →
      ∃ t, exec (e.ins d a b sc w) s = .next t ∧ t.xr r = (if r = 0#5 then 0#64 else v) ∧ (∀ x, x ≠ r → t.xr x = s.xr x) ∧
        t.hart.user.fflags = s.hart.user.fflags ||| f ∧ t.hart.pc = s.hart.pc + 4#64 ∧ t.m = (s.acquire s.cur sc g).m ∧
        t.hart.held = s.hart.held.filter fun k => !s.hart.isHere k) ∧
    (fresh → Settled s → (s.xr a).toNat % n ≠ 0 → ∃ t, exec (e.ins d a b sc w) s = .next t ∧ TrapsTo s t tcMisaligned (s.xr a)) ∧
    (fresh → Settled s → (s.xr a).toNat % n = 0 → inPlateWindow s.hart.user.pwb (s.xr a) = true →
      ∃ t, exec (e.ins d a b sc w) s = .next t ∧ TrapsTo s t tcAccessFault (s.xr a))

/-- With nothing queued or awaited, acq completes: in the L1D of the core no line of the regions keeps a valid word that is
neither dirty nor owned, and from a wider scope than the core the same holds of the cluster cache; dirty and owned words and
lines of other regions stay; no register, and no byte of main memory, changes. Where no line of another device waits for its
registration to be acknowledged, fence completes as the release followed by that acquire and rel as the release; with no line
to release rel changes nothing but the pc. Where the address of own or disown translates to HBM that may be written, the
instruction completes: on a page with a region other than 0, not SY, and of the region named (0 names any), own takes the
whole line at its scope and disown gives up the words of it that the hart owns there; on any other page nothing but the pc
changes. A plate-window address raises ACCESS_FAULT. (Where the rules leave it open it rests on the model's choices, log
entries 14, 67 and 70.) (R123, R124, R130, R131, R336, R337) -/
def Obligations.AcquireReleaseOwnAndDisown : Prop :=
  (∀ (s : State) (sc : BitVec 2) (g : BitVec 4), Idle s →
    (∃ t, exec (.acq sc g) s = .next t ∧ t.hart = { s.hart with pc := s.hart.pc + 4#64 } ∧ t.others = s.others ∧ t.m.mem = s.m.mem ∧
      (∀ l ∈ (t.core (coreOf s.cur)).l1d, inRegions (regionMask g) l.rid = true → l.wv &&& ~~~(l.wd ||| l.wo) = 0#16) ∧
      (∀ l ∈ (s.core (coreOf s.cur)).l1d, inRegions (regionMask g) l.rid = true → l.wv &&& (l.wd ||| l.wo) ≠ 0#16 →
        { l with wv := l.wv &&& (l.wd ||| l.wo) } ∈ (t.core (coreOf s.cur)).l1d) ∧
      (∀ l ∈ (s.core (coreOf s.cur)).l1d, inRegions (regionMask g) l.rid = false → l.wv ≠ 0#16 → l ∈ (t.core (coreOf s.cur)).l1d) ∧
      (sc ≠ 0#2 → ∀ l ∈ (t.cluster (clusterOf s.cur)).cc, inRegions (regionMask g) l.rid = true → l.wv &&& ~~~(l.wd ||| l.wo) = 0#16)) ∧
    (s.releaseWaits s.cur sc (regionMask g) = none → exec (.rel sc g) s = .next (s.release s.cur sc (regionMask g)).advance) ∧
    (s.releaseLines s.cur = [] → exec (.rel sc g) s = .next (atPc s (s.hart.pc + 4#64))) ∧
    (let u := s.release s.cur sc (regionMask g)
     s.releaseWaits s.cur sc (regionMask g) = none → Idle u → exec (.fence sc g) s = .next (u.acquire u.cur sc (regionMask g)).advance)) ∧
  (∀ (s : State) (a : Reg) (sc : BitVec 2) (g : BitVec 4),
    (∀ pa attr t, homeAddr (s.xr a) s = .ok (pa, attr) t →
      let applies := attr.rid ≠ 0#4 ∧ attr.sy = false ∧ (g = 0#4 ∨ g = attr.rid)
      (applies → exec (.own a sc g) s = .next (t.ownLine (keySlot t.hart.ctx) t.cur sc (pa / 64) attr.rid).advance ∧
        exec (.disown a sc g) s = .next (t.disownLine (keySlot t.hart.ctx) t.cur sc (pa / 64)).advance) ∧
      (¬ applies → exec (.own a sc g) s = .next t.advance ∧ exec (.disown a sc g) s = .next t.advance)) ∧
    (Settled s → inPlateWindow s.hart.user.pwb (s.xr a) = true → ∀ i ∈ [Instr.own a sc g, .disown a sc g],
      ∃ t, exec i s = .next t ∧ TrapsTo s t tcAccessFault (s.xr a)))

/-- A hart that stands at a qlock whose ticket is granted completes it: x[d] receives the ticket, zero-extended, the kept record
is gone, and an acquire follows. qunlock, where the lock word passes the checks and is not poisoned, completes with a release
and the increment of now-serving at home. At a quiet home line with an aligned lock word: QLOCK_TICKET_DRAW leaves next-ticket
+ 1 and now-serving as they stand, and the hart keeps a record of the ticket it drew, granted at once exactly where it equals
now-serving, else parked while the 256 park entries have room and polling where they have not. QUNLOCK_INCREMENT leaves
now-serving + 1, next-ticket as it was, and sends GRANT to the waiter parked for it. A draw for a hart of another device is
answered with a message that grants its turn. GRANT and a matching POLL_READ mark the record granted. None of these steps
changes any other hart. (Where the rules leave it open it rests on the model's choices, log entries 67, 69 and 71.) (R138,
R139, R140, R338) -/
def Obligations.QueueLocks : Prop :=
  (∀ (s : State) (d a : Reg) (sc : BitVec 2) (g : BitVec 4), Idle s →
    (∀ pa t poll rest, s.hart.held = { pc := s.hart.pc, sup := s.hart.sup, inh := s.hart.irq.inh, kept := .qlock pa t poll true } :: rest →
      (∀ k ∈ rest, ∀ p u gr, k.kept ≠ .qlock p u true gr) →
      ∃ v, exec (.qlock d a sc g) s = .next v ∧ v.xr d = (if d = 0#5 then 0#64 else t.zeroExtend 64) ∧ (∀ r, r ≠ d → v.xr r = s.xr r) ∧
        v.hart.pc = s.hart.pc + 4#64 ∧ v.m.mem = s.m.mem ∧ (∀ k ∈ v.hart.held, k ∈ rest ∧ s.hart.isHere k = false) ∧
        (∀ l ∈ (v.core (coreOf s.cur)).l1d, inRegions (regionMask g) l.rid = true → l.wv &&& ~~~(l.wd ||| l.wo) = 0#16)) ∧
    (∀ pa t, lockCheck (s.xr a) s = .ok pa t → Idle t →
      let u := t.release t.cur sc (regionMask g)
      t.releaseWaits t.cur sc (regionMask g) = none → (u.advanceServing (keySlot u.hart.ctx) pa).2 = true →
      exec (.qunlock a sc g) s = .next (u.advanceServing (keySlot u.hart.ctx) pa).1.advance)) ∧
  (∀ (s : State), let h := s.msg.hart.toNat; let pa := s.msg.addr.toNat
    pa < 2 ^ 52 → pa % 8 = 0 → isHbm (laOf pa) = true →
    let others := fun (t : State) => ∀ n, n ≠ h → t.getHart n = s.getHart n
    let free := fun slot => QuietHome s slot pa ∧ s.homeWaits slot (dieOf (laOf pa)) pa = false
    (let slot := keySlot (s.getHart h).ctx
     s.msg.flag = false → free slot → ∃ t, exec .qlockTicketDraw s = .next t ∧ others t ∧
      lockWord t slot pa = ((lockWord s slot pa).1 + 1#32, (lockWord s slot pa).2) ∧
      (let ticket := (lockWord s slot pa).1
       let mine := ticket = (lockWord s slot pa).2
       let full := 256 ≤ (s.slice (s.homeKey pa)).parks.length
       ∃ r, (t.getHart h).held = r :: (s.getHart h).held.filter (fun k => !(s.getHart h).isHere k) ∧
        r.pc = (s.getHart h).pc ∧ r.kept = .qlock pa ticket (!decide mine && decide full) (decide mine) ∧
        ((¬ mine ∧ ¬ full) ↔ { pa := pa, ticket := ticket.zeroExtend 64, hart := h, launch := false } ∈ (t.slice (s.homeKey pa)).parks.drop (s.slice (s.homeKey pa)).parks.length))) ∧
    (let slot := keySlot s.msg.slot
     s.msg.flag = true → s.msg.dev ≠ s.fab.dev → free slot → ∃ t, exec .qlockTicketDraw s = .next t ∧ SameHarts s t ∧
      lockWord t slot pa = ((lockWord s slot pa).1 + 1#32, (lockWord s slot pa).2) ∧
      ((lockWord s slot pa).1 = (lockWord s slot pa).2 → ∃ p, t.fab.sent.head? =
        some (.message p s.fab.dev.toNat s.msg.dev.toNat (.lockGrant (lockWord s slot pa).1) (pa / 64) h 0#16))) ∧
    (let slot := keySlot s.msg.slot
     free slot → (s.slice (s.homeKey pa)).tickets = [] → ∃ t, exec .qunlockIncrement s = .next t ∧ SameHarts s t ∧
      lockWord t slot pa = ((lockWord s slot pa).1, (lockWord s slot pa).2 + 1#32) ∧
      (∀ p, (s.slice (s.homeKey pa)).parks = [p] → p.pa = pa → p.launch = false → p.hart < 2048 →
        p.ticket = ((lockWord s slot pa).2 + 1#32).zeroExtend 64 → (t.slice (s.homeKey pa)).parks = [] ∧
        t.inbox = s.inbox ++ [(.grant, { hart := BitVec.ofNat 11 p.hart, addr := BitVec.ofNat 64 pa, value := p.ticket })])) ∧
    (∃ t, exec .grant s = .next t ∧ OnlyHart s t h (·.granted s.fab.dev.toNat pa (s.msg.value.setWidth 32))) ∧
    (∀ k ticket, (s.getHart h).held = [k] → k.kept = .qlock pa ticket true false → (lockWord s (keySlot (s.getHart h).ctx) pa).2 = ticket →
      QuietHome s (keySlot (s.getHart h).ctx) pa →
      ∃ t, exec .pollRead s = .next t ∧ others t ∧ (t.getHart h).held = [{ k with kept := .qlock pa ticket true true }] ∧
        lockWord t (keySlot (s.getHart h).ctx) pa = lockWord s (keySlot (s.getHart h).ctx) pa))

/-- wait completes where the latch is not 0, a completion record stands, or x[a] is a time that has passed: x[d] receives the
latch (with the port bit for a record, the timeout bit for the time) and the latch is cleared; otherwise the hart sleeps. wake
to a logical hart of the launch completes and sends WAKE_ARRIVAL, which sets the wake bit of a placed hart of that launch and
leaves any other; to a hart that has halted it sends nothing; WAIT_TIMEOUT sets the timeout bit of a hart asleep past its time
and of no other. (Where the rules leave it open it rests on the model's choices, log entries 72 and 144.) (R198, R199, R339,
R197) -/
def Obligations.WaitAndWake : Prop :=
  (∀ (s : State) (d a : Reg),
    let late := s.xr a ≠ 0#64 ∧ (s.xr a).toNat ≤ s.time
    let rec' := s.hart.hasRecord = true
    let bits := s.hart.latch ||| (if s.xr a ≠ 0#64 ∧ (s.xr a).toNat ≤ s.time then 0b0100000#7 else 0#7)
    (s.hart.latch ≠ 0#7 ∨ rec' ∨ late → ∃ t, exec (.wait d a) s = .next t ∧
      t.xr d = (if d = 0#5 then 0#64 else (bits ||| (if s.hart.hasRecord then 0b0000001#7 else 0#7)).zeroExtend 64) ∧
      (∀ r, r ≠ d → t.xr r = s.xr r) ∧ t.hart.latch = 0#7 ∧ t.hart.phase = .running ∧ t.hart.pc = s.hart.pc + 4#64 ∧ t.m = s.m) ∧
    (s.hart.latch = 0#7 → ¬ rec' → ¬ late → exec (.wait d a) s = .next { s with hart := { s.hart with phase := .waiting (s.xr a) d } }) ∧
    (∀ h, s.logicalHart (s.xr a) = some h → s.hasRetired h = false → exec (.wake a) s =
      .next { atPc s (s.hart.pc + 4#64) with inbox := s.inbox ++
        [(.wakeArrival, { hart := BitVec.ofNat 11 h, unit := BitVec.ofNat 32 (s.hart.launch.getD 128) })] }) ∧
    (∀ h, s.logicalHart (s.xr a) = some h → s.hasRetired h = true → exec (.wake a) s = .next (atPc s (s.hart.pc + 4#64))) ∧
    (s.logicalHart (s.xr a) = none → Settled s → ∃ t, exec (.wake a) s = .next t ∧ TrapsTo s t tcAccessFault (s.xr a))) ∧
  (∀ s : State, let h := s.msg.hart.toNat
    let there := (s.getHart h).phase ≠ .idle ∧ (s.getHart h).launch.getD 128 = s.msg.unit.toNat
    (there → ∃ t, exec .wakeArrival s = .next t ∧ OnlyHart s t h fun x => { x with latch := x.latch ||| 0b0000010#7 }) ∧
    (¬ there → exec .wakeArrival s = .next s) ∧
    (∀ u d, (s.getHart h).phase = .waiting u d → u ≠ 0#64 → u.toNat ≤ s.time →
      ∃ t, exec .waitTimeout s = .next t ∧ OnlyHart s t h fun x => { x with latch := x.latch ||| 0b0100000#7 }) ∧
    (∀ u d, (s.getHart h).phase = .waiting u d → (u = 0#64 ∨ s.time < u.toNat) →
      ∃ t, exec .waitTimeout s = .next t ∧ OnlyHart s t h id))

/-- For every assigned register other than WATCH, with nothing queued and, from number 0x100 up, in supervisor mode: crr writes
the value to x[d] and changes nothing else; crw, crs and crc write x[a], old OR x[a], old AND NOT x[a] as the register keeps
it, then x[d] gets the old value. In user mode a supervisor register raises PRIVILEGED; an unassigned number raises ILLEGAL.
Neither writes anything. (R328, R295, R296, R329, R330) -/
def Obligations.ControlRegisterAccess : Prop :=
  ∀ (s : State) (d a : Reg) (n : BitVec 16),
    (∀ old, s.creg n = some old → Idle s → (s.hart.sup = true ∨ n.toNat < 0x100) →
      Yields (.crr d n) s d old ∧
      (n ≠ 0x041#16 → exec (.crw d a n) s = .next (((s.setCreg n (s.xr a)).setX d old).advance) ∧
        exec (.crs d a n) s = .next (((s.setCreg n (old ||| s.xr a)).setX d old).advance) ∧
        exec (.crc d a n) s = .next (((s.setCreg n (old &&& ~~~ s.xr a)).setX d old).advance))) ∧
    (Settled s → s.creg n ≠ none → s.hart.sup = false → 0x100 ≤ n.toNat → ∀ i ∈ [Instr.crr d n, .crw d a n, .crs d a n, .crc d a n],
      ∃ t, exec i s = .next t ∧ TrapsTo s t tcPrivileged ((encode i).zeroExtend 64)) ∧
    (Settled s → s.creg n = none → ∀ i ∈ [Instr.crr d n, .crw d a n, .crs d a n, .crc d a n],
      ∃ t, exec i s = .next t ∧ TrapsTo s t tcIllegal ((encode i).zeroExtend 64))

/-- For each register of the list (the vector, mode, tile-shape, user-interrupt, window, region and limit registers; the
translation, table and trap registers), a read after a write gives the written fields; the bits outside them read as zero,
those of VPITCH above bit 39 as copies of it. VL reads back at most VCAP, and VROWS 1 for 0 and 8 above 8; VMBX keeps the FULL
bits of registers that stay mailboxes; USTAT and TRSTAT take their writable bits and keep the others. A write of any control
register number leaves every other register number as it read, writes no x or f register, no memory and no other part of the
state. (R295, R296, R297, R369, R412, R26, R195, R196, R228, R234, R235, R250) -/
def Obligations.ControlRegistersKeepTheirFields : Prop :=
  (∀ e ∈ plainRegs, ∀ (s : State) (v : Word), (s.setCreg e.n v).creg e.n = some (e.kept v)) ∧
  (∀ (s : State) (v : Word),
    (s.setCreg 0x000#16 v).creg 0x000#16 = some (BitVec.ofNat 64 (min (v.toNat % 2 ^ 14) s.hart.vec.vcap)) ∧
    (s.setCreg 0x003#16 v).creg 0x003#16 = some (if v.toNat % 16 = 0 then 1#64 else if 8 < v.toNat % 16 then 8#64 else v &&& 0xF#64) ∧
    (s.setCreg 0x009#16 v).creg 0x009#16 =
      some ((s.hart.vec.full &&& v.setWidth 32).zeroExtend 64 <<< 32 ||| (v.setWidth 32).zeroExtend 64) ∧
    (∀ old, s.creg 0x030#16 = some old → (s.setCreg 0x030#16 v).creg 0x030#16 = some (old &&& ~~~7#64 ||| v &&& 7#64)) ∧
    (∀ old, s.creg 0x120#16 = some old → (s.setCreg 0x120#16 v).creg 0x120#16 = some (old &&& ~~~0xE1#64 ||| v &&& 0xE1#64))) ∧
  (∀ (s : State) (n k : BitVec 16) (v : Word), k ≠ n → (s.setCreg n v).creg k = s.creg k) ∧
  (∀ (s : State) (n : BitVec 16) (v : Word), ∃ vec user irq sregs trap,
    s.setCreg n v = { s with hart := { s.hart with vec := vec, user := user, irq := irq, sregs := sregs, trap := trap } })

/-- With empty queues and an enabled trap entry, ecall raises ECALL and ebreak EBREAK, each with TRARG 0: TRPC is the pc, SKIP is
set for ecall alone, PRIOR the old privilege, and the pc the entry of the cause. In supervisor mode with QK = 0 and empty
queues sret sets the pc to TRPC, or TRPC + 4 where SKIP is set, the privilege to PRIOR, and unfreezes the queues unless PRIOR
is supervisor; in user mode it raises PRIVILEGED. No register, and no byte of memory, changes. After an ecall at an aligned pc
of a user, sret goes on at the next instruction in user mode. (Where the rules leave it open it rests on the model's choices,
log entries 21 and 22.) (R233, R234, R237, R238, R347) -/
def Obligations.SystemCallsTrapAndReturn : Prop :=
  ∀ s : State,
    (Settled s → (∃ t, exec .ecall s = .next t ∧ TrapsTo s t tcEcall 0#64) ∧ (∃ t, exec .ebreak s = .next t ∧ TrapsTo s t tcEbreak 0#64) ∧
      (s.hart.sup = false → ∃ t, exec .sret s = .next t ∧ TrapsTo s t tcPrivileged ((encode .sret).zeroExtend 64)) ∧
      (s.hart.sup = false → s.hart.pc.toNat % 4 = 0 → s.hart.frozen = false → s.hart.trap.frz = false →
        ∃ t u, exec .ecall s = .next t ∧ exec .sret t = .next u ∧ u.hart.pc = s.hart.pc + 4#64 ∧ u.hart.sup = false ∧
          u.hart.regs = s.hart.regs ∧ u.m = s.m)) ∧
    (s.hart.vq = [] → s.hart.mq = [] → s.hart.sup = true → s.hart.trap.qk = 0#2 →
      exec .sret s = .next { s with hart := { s.hart with
        pc := s.hart.trap.trpc + (if s.hart.trap.skip then 4#64 else 0#64), sup := s.hart.trap.prior,
        frozen := s.hart.frozen && s.hart.trap.prior, trap := { s.hart.trap with frz := s.hart.trap.frz && s.hart.trap.prior },
        trapFrom := if s.hart.trap.prior then s.hart.trapFrom else none } }) ∧
    (∀ q rest, s.hart.vq = q :: rest → s.hart.mq = [] → s.hart.sup = true → s.hart.trap.qk = 1#2 → s.hart.trap.prior = false →
      q.drain = [] → (∀ r ∈ rest, r.seq ≠ q.seq) →
      ∃ t, exec .sret s = .next t ∧ t.hart.pc = s.hart.trap.trnext ∧ t.hart.sup = false ∧ t.hart.frozen = false ∧ t.m = s.m ∧
        t.hart.regs = s.hart.regs ∧
        t.hart.vq.map (·.instr) = (if s.hart.trap.skip then rest.map (·.instr) else q.instr :: rest.map (·.instr)))

/-- In a user handler uret clears INH and goes to XEPC; out of an orbit task (CAUSE 3) it also gives x4 to x6 back as they were
kept and counts the task. Outside a handler, or in supervisor mode, it raises ILLEGAL. halt, with nothing queued, no copy
outstanding and no running orbit, leaves the hart unplaced, with no launch. icinv empties the L1I of the core and nothing
else. tlbinv in supervisor mode completes once its acknowledgements are in; a reserved bit of its selector is ILLEGAL in
either mode, and elsewhere it is PRIVILEGED in user mode. TLB_INVALIDATE_MSG leaves no entry in the die that its selector
names and sends an acknowledgement, once no hart of the die has an access translated through a dropped entry left to perform;
till then it comes again. The acknowledgement counts one down. (Where the rules leave it open it rests on the model's choices,
log entries 71, 80, 81 and 111.) (R192, R206, R239, R252, R348, R45, R46) -/
def Obligations.HandlersHaltsAndInvalidations : Prop :=
  (∀ s : State,
    (s.hart.sup = false → s.hart.irq.inh = true → s.hart.irq.cause ≠ 3#4 →
      exec .uret s = .next { s with hart := { s.hart with pc := s.hart.irq.xepc, irq := { s.hart.irq with inh := false } } }) ∧
    (s.hart.sup = false → s.hart.irq.inh = true → s.hart.irq.cause = 3#4 → ∃ t, exec .uret s = .next t ∧
      t.hart.pc = s.hart.irq.xepc ∧ t.hart.irq = { s.hart.irq with inh := false } ∧ t.xr 4#5 = s.hart.irq.keep4 ∧
      t.xr 5#5 = s.hart.irq.keep5 ∧ t.xr 6#5 = s.hart.irq.keep6 ∧ (∀ r, r ≠ 4#5 → r ≠ 5#5 → r ≠ 6#5 → t.xr r = s.xr r) ∧
      t.hart.regs.f = s.hart.regs.f ∧ t.m = s.m ∧ t.others = s.others ∧
      (s.taskOf s.cur = none → t.disp = s.disp) ∧
      (∀ n k st, s.taskOf s.cur = some (n, k) → (s.orbit n).stations[k]? = some st → st.task = true →
        (t.orbit n).dcount = (s.orbit n).dcount + 1 ∧ (t.orbit n).stations[k]? = some { st with task := false })) ∧
    (Settled s → (s.hart.sup = true ∨ s.hart.irq.inh = false) →
      ∃ t, exec .uret s = .next t ∧ TrapsTo s t tcIllegal ((encode .uret).zeroExtend 64)) ∧
    (Idle s → s.hart.phase = .running → s.copying s.cur = false → s.inOrbit s.cur = false →
      ∃ t, exec .halt s = .next t ∧ t.cur = s.cur ∧ t.hart.phase = .idle ∧ t.hart.launch = none ∧ t.hart.vq = [] ∧ t.hart.mq = []) ∧
    (∃ t, exec .icinv s = .next t ∧ t.hart = { s.hart with pc := s.hart.pc + 4#64 } ∧ (t.core (coreOf s.cur)).l1i = [] ∧
      (t.core (coreOf s.cur)).l1d = (s.core (coreOf s.cur)).l1d ∧ (∀ c, c ≠ coreOf s.cur → t.core c = s.core c) ∧ t.m.mem = s.m.mem) ∧
    (∀ (a b : Reg), (Settled s → 4 ≤ (s.xr b).toNat → ∃ t, exec (.tlbinv a b) s = .next t ∧
        TrapsTo s t tcIllegal ((encode (.tlbinv a b)).zeroExtend 64)) ∧
      (Settled s → (s.xr b).toNat < 4 → s.hart.sup = false → ∃ t, exec (.tlbinv a b) s = .next t ∧
        TrapsTo s t tcPrivileged ((encode (.tlbinv a b)).zeroExtend 64)) ∧
      (s.hart.sup = true → (s.xr b).toNat < 4 → s.hart.heldHere = some .tlbinv → s.hart.acks.tlb = 0 →
        exec (.tlbinv a b) s = .next { s with hart := { s.hart with pc := s.hart.pc + 4#64, held := s.hart.held.filter fun k => !s.hart.isHere k } }) ∧
      (s.hart.sup = true → (s.xr b).toNat < 4 → s.hart.heldHere = none → Idle s → s.hart.acks.tlb = 0 → s.releaseLines s.cur = [] →
        (s.ctx s.hart.ctx.toNat).dies.length ≠ 0 →
        ∃ t, exec (.tlbinv a b) s = .next t ∧ t.hart.pc = s.hart.pc ∧
          t.hart.acks.tlb = (if (s.xr b).extractLsb' 0 2 = 3#2 then 8 else (s.ctx s.hart.ctx.toNat).dies.length) ∧
          t.inbox.length = s.inbox.length + t.hart.acks.tlb))) ∧
  (∀ s : State, let k := s.msg.kind.toNat % 4; let c : BitVec 16 := s.msg.value.setWidth 16
    (s.msg.flag = false → ∃ t, exec .tlbInvalidateMsg s = .next t ∧ t.m.mem = s.m.mem ∧ t.hart = s.hart ∧
      t.inbox = s.inbox ++ [if s.translated s.msg.die.toNat k c s.msg.addr then (.tlbInvalidateMsg, { s.msg with flag := true })
        else (.tlbInvalidateAck, { hart := s.msg.hart })] ∧
      (∀ x ∈ t.m.cores, x.1 / 128 = s.msg.die.toNat → ∀ e ∈ x.2.itlb ++ x.2.dtlb, e.dropped false k c s.msg.addr = false) ∧
      (∀ x ∈ t.m.clusters, x.1 / 16 = s.msg.die.toNat → ∀ e ∈ x.2.pre, e.dropped false k c s.msg.addr = false) ∧
      (∀ x ∈ s.m.cores, x.1 / 128 ≠ s.msg.die.toNat → x ∈ t.m.cores)) ∧
    (s.msg.flag = true → s.translated s.msg.die.toNat k c s.msg.addr = false →
      exec .tlbInvalidateMsg s = .next { s with inbox := s.inbox ++ [(.tlbInvalidateAck, { hart := s.msg.hart })] }) ∧
    (∃ t, exec .tlbInvalidateAck s = .next t ∧
      OnlyHart s t s.msg.hart.toNat fun x => { x with acks := { x.acks with tlb := x.acks.tlb - 1 } }))

/-- vcfg, once nothing is queued, takes its request: VL, VSTART and RESIZED become 0; where the request is supported (bits above 4
zero, WIDTH at most 5) and the B that R183 computes from it and VSHARE is at least 128, ILL becomes 0, VREGB that B and x[d] B
/ width; for every other request ILL becomes 1 and VREGB and x[d] 0; nothing else changes, no byte of memory among it. vsetl
sets VL and x[d] to x[a] or VCAP, the smaller, and raises VCONFIG where VTYPE.ILL is set. vsetrows sets VROWS and x[d] to x[a]
held between 1 and 8. vtag gives its tag to the registers of its group and to no other. Each moves the pc by 4 and changes no
float register and no memory. With nothing queued, no poison mark and an admitted configuration, pcnt writes the number of set
bits of the predicate below VL, and vext the element at (row, element) of x[b], converted for its register file, or 0 for
every position outside the group, to the register file of the tag. vsave and vrest refuse an address that is no multiple of 64
with MISALIGNED; Where the area lies in a READY plate, vsave completes: its bytes hold the header and the elements and
predicates below VL, packed by the widths of the tags, x[d] their length, and nothing else changes; and vrest completes: a
header that is not acceptable sets VTYPE.ILL, clears VL and writes 0; a record saved with ILL set writes 256; any other sets
the registers of the header, VL := min(saved VL, VCAP), RESIZED where the saved VL is larger, ILL := 0, each element and
predicate bit below VL as saved, x[d] := the bytes read, and changes nothing outside the share. Elsewhere both do so where
their loads and stores succeed. (Where the rules leave it open it rests on the model's choices, log entries 48.) (R183, R239,
R255, R256, R371, R372, R374, R375, R376, R377, R403, R409) -/
def Obligations.VectorConfigurationAndState : Prop :=
  (∀ (s : State) (d a : Reg), Idle s →
    (let r := (s.xr a).toNat
     let b := (lengthOf s.hart.grant.vsz.toNat r).getD 0
     let cap := b / elemWidth r
     let vec := { s.hart.vec with request := (s.xr a).extractLsb' 0 5, resized := false, ill := (lengthOf s.hart.grant.vsz.toNat r).isNone, b := b, vl := 0#14, vstart := 0#32 }
     ∃ t x, exec (.vcfg d a) s = .next t ∧ Gets s t d (BitVec.ofNat 64 cap) ∧
       t = { s with hart := { s.hart with vec := vec, regs := { s.hart.regs with x := x }, pc := s.hart.pc + 4#64 } }) ∧
    (s.hart.vec.ill = false → s.hart.vec.vcap < 2 ^ 14 → ∃ t, exec (.vsetl d a) s = .next t ∧
      t.hart.vec = { s.hart.vec with vl := BitVec.ofNat 14 (min (s.xr a).toNat s.hart.vec.vcap) } ∧
      t.xr d = (if d = 0#5 then 0#64 else BitVec.ofNat 64 (min (s.xr a).toNat s.hart.vec.vcap)) ∧ (∀ r, r ≠ d → t.xr r = s.xr r) ∧
      t.m = s.m ∧ t.hart.pc = s.hart.pc + 4#64) ∧
    (s.hart.vec.ill = true → Settled s → ∃ t, exec (.vsetl d a) s = .next t ∧ TrapsTo s t tcVconfig ((encode (.vsetl d a)).zeroExtend 64)) ∧
    (∃ t, exec (.vsetrows d a) s = .next t ∧ t.hart.vec = { s.hart.vec with vrows := BitVec.ofNat 4 (max 1 (min (s.xr a).toNat 8)) } ∧
      t.xr d = (if d = 0#5 then 0#64 else BitVec.ofNat 64 (max 1 (min (s.xr a).toNat 8))) ∧ (∀ r, r ≠ d → t.xr r = s.xr r) ∧
      t.m = s.m ∧ t.hart.pc = s.hart.pc + 4#64) ∧
    (∃ t, exec (.vtag d a) s = .next t ∧ t.hart.regs = s.hart.regs ∧ t.m = s.m ∧ t.hart.pc = s.hart.pc + 4#64 ∧
      (∀ k, k < 32 → t.hart.vec.tag k =
        if d.toNat ≤ k ∧ k < d.toNat + s.hart.vec.vrows.toNat then (s.xr a).extractLsb' 0 4 else s.hart.vec.tag k) ∧
      t.hart.vec.vl = s.hart.vec.vl ∧ t.hart.vec.b = s.hart.vec.b ∧ t.hart.vec.ill = s.hart.vec.ill)) ∧
  (∀ (s : State) (d a b : Reg), Idle s →
    (s.m.marks = [] → s.hart.vec.admits (vuse (.pcnt d a)) = true →
      Yields (.pcnt d a) s d (BitVec.ofNat 64 ((List.range s.hart.vec.vl.toNat).filter fun e => s.pbit s.hart.vec a.toNat e).length)) ∧
    (s.m.marks = [] → s.hart.vec.mbx = 0#32 → s.hart.vec.admits (vuse (.vext d a b)) = true →
      let v := s.hart.vec
      let k := ((s.xr b).extractLsb' 16 16).toNat
      let e := ((s.xr b).extractLsb' 0 16).toNat
      (k < v.vrows.toNat → e < v.vl.toNat →
        ((v.ty (a.toNat + k)).isFloat = false → Yields (.vext d a b) s d (extValue (v.ty (a.toNat + k)) (s.vel v (a.toNat + k) e))) ∧
        ((v.ty (a.toNat + k)).isFloat = true → YieldsF (.vext d a b) s d (extValue (v.ty (a.toNat + k)) (s.vel v (a.toNat + k) e)) {})) ∧
      (¬ (k < v.vrows.toNat ∧ e < v.vl.toNat) →
        let ty := v.ty (a.toNat + if k < v.vrows.toNat then k else 0)
        (ty.isFloat = false → Yields (.vext d a b) s d 0#64) ∧ (ty.isFloat = true → YieldsF (.vext d a b) s d 0#64 {}))) ∧
    (Settled s → (s.xr a).toNat % 64 ≠ 0 → ∀ i ∈ [Instr.vsave d a, .vrest d a], ∃ t, exec i s = .next t ∧ TrapsTo s t tcMisaligned (s.xr a)) ∧
    ((s.xr a).toNat % 64 = 0 →
      let v := s.hart.vec
      (v.ill = true → ∀ t, storeWords (s.xr a) 32 (v.saveHeader false 0) s = .ok () t →
        exec (.vsave d a) s = .next ((t.setX d 256#64).advance)) ∧
      (v.ill = false → ∀ items t u, saveItems v v.items 0 s = .ok items t →
        let bs := v.saveHeader (v.saveData items).2 (v.saveData items).1.length ++ (v.saveData items).1
        storeWords (s.xr a) (bs.length / 8) bs t = .ok () u → exec (.vsave d a) s = .next ((u.setX d (BitVec.ofNat 64 bs.length)).advance)) ∧
      (∀ hdr t, loadWords (s.xr a) 32 s = .ok hdr t →
        (headerOk hdr t.hart.grant.vsz.toNat = false → ∃ u, exec (.vrest d a) s = .next u ∧ u.hart.vec.ill = true ∧ u.hart.vec.vl = 0#14 ∧
          u.xr d = 0#64 ∧ u.m = t.m ∧ u.hart.pc = t.hart.pc + 4#64) ∧
        (headerOk hdr t.hart.grant.vsz.toNat = true → (headerWord hdr 0x60).getLsbD 5 = true →
          ∃ u, exec (.vrest d a) s = .next u ∧ u.hart.vec.ill = true ∧ u.hart.vec.vl = 0#14 ∧
          u.xr d = (if d = 0#5 then 0#64 else 256#64) ∧ u.hart.vec.vtaglo = headerWord hdr 0x38 ∧ u.hart.vec.vtaghi = headerWord hdr 0x40 ∧
          u.m = t.m))) ∧
    (∀ p, PlateAccess s (s.xr a) 8 p → (s.xr a).toNat % 64 = 0 → Mem.wf s.m.mem = true →
      let v := s.hart.vec
      let pa := platePhys s (s.xr a) p
      let bs := savedArea s
      let vsz := s.hart.grant.vsz.toNat
      let hdr := (List.range 256).map fun i => (Mem.read s.m.mem (pa + i)).getD 0#8
      let saved := savedRegs v vsz hdr
      ((v.ill = false → ∀ k, k < v.nregs → v.vl.toNat * v.saveWidth k ≤ v.b) → plateOfs (s.xr a) + bs.length ≤ 0x40000 →
        ∃ t mem x, exec (.vsave d a) s = .next t ∧ Gets s t d (BitVec.ofNat 64 bs.length) ∧
          t = { s with hart := { s.hart with regs := { s.hart.regs with x := x }, pc := s.hart.pc + 4#64 }, m := { s.m with mem := mem } } ∧
          ∀ y, Mem.read mem y = if pa ≤ y ∧ y < pa + bs.length then some (bs.getD (y - pa) 0#8) else Mem.read s.m.mem y) ∧
      (plateOfs (s.xr a) + 256 ≤ 0x40000 →
        (¬ acceptedHeader vsz hdr → ∃ t x, exec (.vrest d a) s = .next t ∧ Gets s t d 0#64 ∧
          t = { s with hart := { s.hart with vec := { v with ill := true, vl := 0#14 }, regs := { s.hart.regs with x := x }, pc := s.hart.pc + 4#64 } }) ∧
        (acceptedHeader vsz hdr → (hdrWord hdr 0x60).testBit 5 = true → ∃ t x, exec (.vrest d a) s = .next t ∧ Gets s t d 256#64 ∧
          t = { s with hart := { s.hart with vec := { saved with ill := true, vl := 0#14 }, regs := { s.hart.regs with x := x }, pc := s.hart.pc + 4#64 } })) ∧
      (acceptedHeader vsz hdr → (hdrWord hdr 0x60).testBit 5 = false → (hdrWord hdr 0x70).testBit 32 = false →
        s.hart.grant.voff.toNat + vsz ≤ 512 →
        let svl := hdrWord hdr 0x08
        let n := min svl saved.vcap
        let wd := saved.itemWidth
        let ofs := fun (j : Nat) => 256 + 8 * ((List.range j).map fun i => (svl * wd i + 63) / 64).sum
        let item := fun (j e : Nat) => storedNat s (pa + ofs j) (8 * ((svl * wd j + 63) / 64)) / 2 ^ (e * wd j) % 2 ^ wd j
        plateOfs (s.xr a) + ofs saved.items ≤ 0x40000 →
        ∃ t mem x, exec (.vrest d a) s = .next t ∧ Gets s t d (BitVec.ofNat 64 (ofs saved.items)) ∧
          t = { s with hart := { s.hart with vec := { saved with ill := false, vl := BitVec.ofNat 14 n, resized := decide (saved.vcap < svl) }, regs := { s.hart.regs with x := x }, pc := s.hart.pc + 4#64 }, m := { s.m with mem := mem } } ∧
          (∀ k e, k < saved.nregs → e < n → (e + 1) * wd k ≤ saved.b → t.getBits (t.velAt saved k e (wd k)) (wd k) = item k e) ∧
          (∀ j e, 1 ≤ j → j < 32 → e < n → t.pbit saved j e = decide (item (saved.nregs + j - 1) e = 1)) ∧
          ∀ y, OutsideShare s y → Mem.read mem y = Mem.read s.m.mem y)))

/-- In supervisor mode with a configuration that fits the share, no poison mark and no mailbox, every vector instruction that
works on registers and predicates alone completes once its checks pass: the pc moves by 4, VSTART becomes 0, no scalar
register changes, of the vector registers of control only VSTART and the sticky flags (which only gain bits) may change, no
byte of memory outside the share of the hart changes (main memory, plates, tiles, accumulators and the shares of other harts
among them), and no other hart changes. (R25, R181, R183, R239, R240, R391, R398, R268) -/
def Obligations.VectorInstructionsStayInTheirShare : Prop :=
  ∀ (s : State) (i : Instr), isVectorRegister i = true → VecReady s i →
    ∃ t, exec i s = .next t ∧ t.hart.pc = s.hart.pc + 4#64 ∧ t.hart.regs = s.hart.regs ∧ t.others = s.others ∧
      t.hart = { s.hart with pc := s.hart.pc + 4#64, vec := { s.hart.vec with vstart := 0#32, ovf := t.hart.vec.ovf, inv := t.hart.vec.inv } } ∧
      (s.hart.vec.ovf = true → t.hart.vec.ovf = true) ∧ (s.hart.vec.inv = true → t.hart.vec.inv = true) ∧
      (∀ x, OutsideShare s x → Mem.read t.m.mem x = Mem.read s.m.mem x) ∧
      t.fab = s.fab ∧ t.disp = s.disp ∧ t.trust = s.trust ∧ t.m.plates = s.m.plates ∧ t.m.cores = s.m.cores ∧ t.m.slices = s.m.slices

/-- In the states of VectorInstructionsStayInTheirShare with memory in canonical form, each of the fourteen two- and three-operand
operations leaves in every active element of vd the operation, in the operation type, of the elements of va and vb (or the
scalar of an .x form) and, for the fused ones, of vd as they stood, converted to the type of vd; every inactive element below
VL keeps its value. vsqrt, vabs and vneg do the same with one operand. (Where the rules leave it open it rests on the model's
choices, log entries 29 and 141.) (R267, R269, R378, R391, R392, R393) -/
def Obligations.VectorArithmeticByElement : Prop :=
  ∀ (s : State) (d a b : Reg) (sat x : BitVec 1), Mem.wf s.m.mem = true →
    let v := s.hart.vec
    let q := fun (i : Instr) => s.qentry i
    let inactive := fun (t : State) => ∀ k e, k < v.vrows.toNat → e < v.vl.toNat → s.pbit v v.vmsel.toNat e = false →
      t.vel v (d.toNat + k) e = s.vel v (d.toNat + k) e
    (∀ o ∈ vecOps, VecReady s (o.ins d a b sat x) → ∃ t, exec (o.ins d a b sat x) s = .next t ∧ inactive t ∧
      ∀ k e, k < v.vrows.toNat → e < v.vl.toNat → s.pbit v v.vmsel.toNat e = true →
        t.vel v (d.toNat + k) e =
          (o.op.element (sat = 1#1) (v.ty (a.toNat + k)) (tyB v a b x k) (v.ty (d.toNat + k)) (s.vel v (a.toNat + k) e)
            (operandB s (q (o.ins d a b sat x)) a b (sat = 1#1) x k e).1 (s.vel v (d.toNat + k) e)).1 % 2 ^ (v.ty (d.toNat + k)).width) ∧
    (∀ o ∈ [(Instr.vsqrt d a sat, VOp.sqrt), (.vabs d a sat, .abs), (.vneg d a sat, .neg)], VecReady s o.1 →
      ∃ t, exec o.1 s = .next t ∧ inactive t ∧
      ∀ k e, k < v.vrows.toNat → e < v.vl.toNat → s.pbit v v.vmsel.toNat e = true →
        let c := s.vel v (a.toNat + k) e
        t.vel v (d.toNat + k) e = (o.2.element (sat = 1#1) (v.ty (a.toNat + k)) (v.ty (a.toNat + k)) (v.ty (d.toNat + k)) c c c).1
          % 2 ^ (v.ty (d.toNat + k)).width)

/-- In user mode with room in the queue (16 entries of the vector queue, 8 of the matrix queue of the core), a vector instruction
that passes the checks of R239, or a matrix instruction, moves the pc by 4 and stands at the end of its queue with the scalar
operands, the configuration and PWB as they were, and nothing else changes. With no room it waits, and nothing changes. An
entry at the head of its queue that waits for nothing in the other queue: where its effect completes, the entry leaves the
queue, and VSTART becomes 0 for the vector queue; where its effect traps with cause c and the head of the other queue is not
earlier in program order, the entry stays, marked, TRCODE is c, QK names the queue, TRPC the instruction, PRIOR user, and the
queues are frozen; where the other head is earlier, is not held back and traps too, its trap is taken. In supervisor mode the
same effect is the whole instruction: it completes with the pc moved by 4, or traps with QK = 0. (Where the rules leave it
open it rests on the model's choices, log entries 38, 42 and 142.) (R40, R178, R236, R237, R239, R240, R242, R261, R298) -/
def Obligations.QueuedInstructions : Prop :=
  (∀ (s : State) (i : Instr) (mat : Bool),
    ((mat = false ∧ (isVectorRegister i = true ∨ isVectorMemory i = true) ∧ vecCheck i s = .ok () s) ∨
     (mat = true ∧ isMatrixQueue i = true ∧ matrixCheck i s = .ok () s)) → s.hart.sup = false →
    let room := if mat then s.hart.mq.length + (s.getHart (if s.cur % 2 = 0 then s.cur + 1 else s.cur - 1)).mq.length < 8 else s.hart.vq.length < 16
    let entered : State := { s with hart := { s.hart with
      pc := s.hart.pc + 4#64, vq := if mat then s.hart.vq else s.hart.vq ++ [s.qentry i], mq := if mat then s.hart.mq ++ [s.qentry i] else s.hart.mq } }
    (room → exec i s = .next entered) ∧
    (¬ room → exec i s = .next s)) ∧
  ((∀ (s : State) (mat : Bool) (q : QEntry) (rest : List QEntry), (if mat then s.hart.mq else s.hart.vq) = q :: rest →
    (if mat then s.matBlocked q else s.vecBlocked q) = false →
    (∀ t, runEntry q s = .ok () t → q.drain = [] → ∃ u, s.attemptHead mat = (u, true) ∧
      (u.hart = { t.hart with vq := if mat then t.hart.vq else t.hart.vq.tail, mq := if mat then t.hart.mq.tail else t.hart.mq,
                              vec := { t.hart.vec with vstart := if mat then t.hart.vec.vstart else 0#32 } }) ∧ u.m = t.m) ∧
    (∀ c x t e r c' x' t', runEntry q s = .error (.trap c x) t → (if mat then s.hart.vq else s.hart.mq) = e :: r → e.seq < q.seq →
      s.blocked (!mat) e = false → runEntry e s = .error (.trap c' x') t' → s.attemptHead mat = (t'.entryTrap (!mat) e c' x', true)) ∧
    (∀ c x t, runEntry q s = .error (.trap c x) t → (∀ e ∈ (if mat then s.hart.vq else s.hart.mq).head?, q.seq ≤ e.seq) →
      t.hart.trap.trentry.getLsbD 0 = true → t.hart.vq ++ t.hart.mq ≠ [] → ∃ u, s.attemptHead mat = (u, true) ∧ u.hart.trap.trcode = c ∧ u.hart.trap.trarg = x ∧ u.hart.trap.qk = (if mat then 2#2 else 1#2) ∧
        u.hart.trap.trpc = q.pc &&& ~~~3#64 ∧ u.hart.trap.trnext = t.hart.pc &&& ~~~3#64 ∧ u.hart.trap.prior = t.hart.sup ∧ u.hart.sup = true ∧
        u.hart.frozen = true ∧ u.hart.vq.length = t.hart.vq.length ∧ u.hart.mq.length = t.hart.mq.length ∧ u.m = t.m)) ∧
  (∀ (s : State) (i : Instr), s.hart.sup = true →
    ((isVectorRegister i = true ∨ isVectorMemory i = true) → vecCheck i s = .ok () s →
      (∀ t, runEntry (s.qentry i) s = .ok () t → exec i s = .next (atPc { t with hart := { t.hart with vec := { t.hart.vec with vstart := 0#32 } } } (t.hart.pc + 4#64))) ∧
      (∀ c x t, runEntry (s.qentry i) s = .error (.trap c x) t → exec i s = .next (t.takeTrap c x 0#2 t.hart.pc))) ∧
    (isMatrixQueue i = true → matrixCheck i s = .ok () s →
      (∀ t, runEntry (s.qentry i) s = .ok () t → exec i s = .next (atPc t (t.hart.pc + 4#64))) ∧
      (∀ c x t, runEntry (s.qentry i) s = .error (.trap c x) t → exec i s = .next (t.takeTrap c x 0#2 t.hart.pc)))))

/-- In supervisor mode with VL = 0, vld, vst, vldx, vstx, vld.t and vst.n that pass their checks complete: VSTART becomes 0, the
pc moves by 4 and nothing else changes. mclr of an accumulator of the grant completes with every byte of it 0 and every other
byte unchanged. mwait completes, changing only the pc, in supervisor mode and where no matrix instruction of the hart is
queued, and otherwise waits. (Where the rules leave it open it rests on the model's choices, log entries 33.) (R378, R381,
R415, R423, R240) -/
def Obligations.EmptyVectorsAccessNothing : Prop :=
  ∀ s : State,
    (∀ i, (∃ d a b n o, i = .vld d a n o ∨ i = .vst d a n o ∨ i = .vldx d a b n o ∨ i = .vstx d a b n o ∨ i = .vldT d a n o ∨ i = .vstN d a b n o) →
      s.hart.sup = true → s.hart.vec.vl = 0#14 → s.m.marks = [] → vecCheck i s = .ok () s →
      exec i s = .next { s with hart := { s.hart with pc := s.hart.pc + 4#64, vec := { s.hart.vec with vstart := 0#32 },
                                                      window := match i with | .vstN .. => s.hart.window | _ => [] } }) ∧
    (∀ d : Reg, d.toNat < 4 → s.hart.sup = true → s.hart.vec.mbx = 0#32 → s.m.marks = [] → s.cur < 2048 → Mem.wf s.m.mem = true →
      d.toNat < s.hart.grant.acnt.toNat → s.hart.grant.abase.toNat + s.hart.grant.acnt.toNat ≤ 16 →
      let lo := s.fab.dev.toNat * 2 ^ 42 + clusterLa (clusterOf s.cur) (0x100000 + (s.hart.grant.abase.toNat + d.toNat) * 0x8000)
      ∃ t, exec (.mclr d) s = .next t ∧ t.hart = { s.hart with pc := s.hart.pc + 4#64 } ∧ (∀ x, lo ≤ x → x < lo + 0x8000 → Mem.read t.m.mem x = some 0#8) ∧
        (∀ x, x < lo ∨ lo + 0x8000 ≤ x → Mem.read t.m.mem x = Mem.read s.m.mem x)) ∧
    ((s.hart.sup = true ∨ s.hart.vq ++ s.hart.mq = []) → exec .mwait s = .next (atPc s (s.hart.pc + 4#64))) ∧
    (∀ q ∈ s.hart.mq, isMatrixQueue q.instr = true → s.hart.sup = false → exec .mwait s = .next s)

/-- In the states of VectorInstructionsStayInTheirShare with memory in canonical form, each of these instructions completes with
the pc moved by 4 and nothing changed outside the share. A compare writes each active bit of pd with the comparison of the
operands converted to the operation type; inactive bits stay. vsel writes every element from a or b as the mask says; the
special functions, vcvt, vbcast, the slides with their fill values, and vperm write the active elements; vcomp packs the
active elements of each row in ascending order and leaves the later ones; vins writes the one element that x[b] names. Every
source is read as it stood before, converted to the tag of vd, and bits are copied where the tags agree. (vbcast and vins of a
NaN scalar in its own format: log entry 153.) (Where the rules leave it open it rests on the model's choices, log entries
153.) (R269, R270, R276, R379, R392, R394, R395, R400, R401, R402, R403, R267) -/
def Obligations.VectorValuesByPosition : Prop :=
  ∀ (s : State) (d a b : Reg) (sat x : BitVec 1) (l : BitVec 3),
    let v := s.hart.vec
    let ty := fun (r : Reg) (k : Nat) => v.ty (r.toNat + k)
    let el := fun (r : Reg) (k e : Nat) => s.vel v (r.toNat + k) e
    let on := fun (e : Nat) => s.pbit v v.vmsel.toNat e
    let moved := fun (k e : Nat) => some ((ty a k).cvt false (ty d k) (el a k e)).1
    let opB := fun (i : Instr) (sat : Bool) (k e : Nat) => (operandB s (s.qentry i) a b sat x k e).1
    let n := (s.xr b).toNat
    (∀ o ∈ compareOps, PredLeaves (o.ins d a b x) s d fun k e =>
      if on e then
        let t := opTy (ty a k) (tyB v a b x k)
        some (o.cond.apply t ((ty a k).cvt false t (el a k e)).1 ((tyB v a b x k).cvt false t (opB (o.ins d a b x) false k e)).1).1
      else none) ∧
    VecLeaves (.vsel d a b sat x) s d (fun k e =>
      let t := opTy (ty a k) (tyB v a b x k)
      let c := if on e then ((ty a k).operand (sat = 1#1) t (el a k e)).1
        else ((tyB v a b x k).operand (sat = 1#1) t (opB (.vsel d a b sat x) (sat = 1#1) k e)).1
      some (t.cvt (sat = 1#1) (ty d k) c).1) ∧
    (∀ o ∈ functionOps, VecLeaves (o.ins d a) s d fun k e => if on e then some (o.fn.element (ty a k) (ty d k) (el a k e)).1 else none) ∧
    VecLeaves (.vcvt d a sat) s d (fun k e => if on e then some ((ty a k).cvt (sat = 1#1) (ty d k) (el a k e)).1 else none) ∧
    VecLeaves (.vslup d a b l) s d (fun k e => if on e then (if n ≤ e then moved k (e - n) else fillValue (ty d k) l) else none) ∧
    VecLeaves (.vsldn d a b l) s d (fun k e => if on e then (if n < v.vl.toNat - e then moved k (e + n) else fillValue (ty d k) l) else none) ∧
    VecLeaves (.vperm d a b) s d (fun k e =>
      let j := s.index v (b.toNat + k) e
      if on e then (if 0 ≤ j ∧ j < v.vl.toNat then moved k j.toNat else some 0) else none) ∧
    VecLeaves (.vcomp d a) s d (fun k e => (((List.range v.vl.toNat).filter fun j => on j)[e]?).bind fun j => moved k j) ∧
    VecLeaves (.vbcast d b) s d (fun k e => if on e then some (scalarCode (ty d k) false (s.xr b) (s.fr b)).1 else none) ∧
    VecLeaves (.vins d a b) s d (fun k e =>
      if k = n / 65536 % 65536 ∧ e = n % 65536 then some (scalarCode (ty d k) false (s.xr a) (s.fr a)).1 else none)

/-- In the states of VectorInstructionsStayInTheirShare with memory in canonical form. vred and vdot write element 0 of each row
with the balanced tree of R273 over the smallest power of two of positions that holds VL: an active position gives its element
in the operation type (for vdot its product), an inactive one the identity; vscan writes every position below VL with the
exclusive value of the down-sweep of R274 combined with its term. vbsl, vbsr and vbfun write every element below VL with the
shifted string of n = VL times w bits, vbpopc element 0 with the count of its 1 bits. The predicate operations, pset and
pfirst write every bit below VL; p0 stays all true. Nothing changes outside the share. (R273, R274, R405, R407, R408, R270,
R285, R178) -/
def Obligations.ReductionsStringsAndPredicates : Prop :=
  ∀ (s : State) (d a b : Reg) (n : Nat),
    let v := s.hart.vec
    let vl := v.vl.toNat
    let ty := fun (r : Reg) (k : Nat) => v.ty (r.toNat + k)
    let el := fun (r : Reg) (k e : Nat) => s.vel v (r.toNat + k) e
    let on := fun (e : Nat) => s.pbit v v.vmsel.toNat e
    let pr := fun (r : Reg) (k e : Nat) => s.pbit v (r.toNat + k) e
    let node := fun (o : RedOp) (k x y : Nat) => (o.vop.apply (o.type (ty a k)) false x y 0).1
    let term := fun (o : RedOp) (k e : Nat) =>
      if e < vl ∧ on e = true then ((ty a k).operand false (o.type (ty a k)) (el a k e)).1 else o.identity (o.type (ty a k))
    let str := fun (r : Reg) (k : Nat) => ((List.range vl).map fun e => el r k e * 2 ^ ((ty r k).width * e)).sum
    let part := fun (w e r : Nat) => some (r / 2 ^ (w * e) % 2 ^ w)
    let m := (s.xr b).toNat
    (vl ≤ 2 ^ n → (n = 0 ∨ 2 ^ (n - 1) < vl) →
      (∀ o ∈ reduceOps, VecLeaves (o.ins d a) s d fun k e =>
        if e = 0 then some ((o.op.type (ty a k)).cvt false (ty d k) (treeOf (node o.op k) n (term o.op k))).1 else none) ∧
      (∀ o ∈ scanOps, VecLeaves (o.ins d a) s d fun k e =>
        some ((o.op.type (ty a k)).cvt false (ty d k)
          (node o.op k (sumBefore (node o.op k) n (term o.op k) (o.op.identity (o.op.type (ty a k))) e) (term o.op k e))).1) ∧
      VecLeaves (.vdot d a b) s d (fun k e =>
        if e ≠ 0 then none
        else match dotType (ty a k) (ty b k) with
          | .fl f =>
            let g := fun (x y : FVal) => (f.dotNode (x, {}) (y, {})).1
            some ((ty d k).ofVal (treeOf g n fun i =>
              if i < vl ∧ on i = true then (dotFloat (ty a k) (ty b k) f (el a k i) (el b k i)).1 else .fin false 0 0)).1
          | .int w sg =>
            some ((Ty.int 64 sg).cvt false (ty d k) (treeOf (fun x y => (x + y) % 2 ^ 64) n fun i =>
              if i < vl ∧ on i = true then (dotInt (ty a k) (ty b k) w sg (el a k i) (el b k i)).1 else 0)).1)) ∧
    VecLeaves (.vbsl d a b) s d (fun k e =>
      let w := (ty a k).width
      part w e (str a k * 2 ^ m % 2 ^ (vl * w))) ∧
    VecLeaves (.vbsr d a b) s d (fun k e => part (ty a k).width e (str a k / 2 ^ m)) ∧
    VecLeaves (.vbfun d a b) s d (fun k e =>
      let w := (ty a k).width
      part w e ((str d k * 2 ^ (vl * w) + str a k) / 2 ^ m)) ∧
    VecLeaves (.vbpopc d a) s d (fun k e =>
      if e = 0 then some ((Ty.int 64 true).cvt true (ty d k) ((List.range (vl * (ty a k).width)).filter fun i => (str a k).testBit i).length).1
      else none) ∧
    (∀ o ∈ predicateOps, PredLeaves (o.ins d a b) s d fun k e => some (o.fn (pr a k e) (pr b k e))) ∧
    PredLeaves (.pnot d a) s d (fun k e => some (!pr a k e)) ∧
    PredLeaves (.pmv d a) s d (fun k e => some (pr a k e)) ∧
    PredLeaves (.pset d a) s d (fun _ e => some (decide (e < (s.xr a).toNat))) ∧
    PredLeaves (.pfirst d a) s d (fun k e => some (pr a k e && (List.range e).all fun j => !pr a k j))

/-- In the states of VectorInstructionsStayInTheirShare with VSTART = 0 and memory in canonical form, where every active element
lies aligned in a READY plate of a slot of the hart (a sub-byte tag at unit stride): vld, vld.t and vldx complete with each
active element of vd the bits at its address (x[a] + k * VPITCH + i * stride * w / 8, or x[a] plus the index), the inactive
ones and every byte outside the share as they were. vst, vst.n and vstx, where no two elements share a bit, leave at each
address the bits of the element of vd and change no other bit; vst.n, whose progress word lies on an SY page at a quiet home,
also leaves there the count VROWS * VL. (R382, R383, R384, R387, R388, R40, R82, R85, R23) -/
def Obligations.VectorLoadsAndStores : Prop :=
  ∀ (s : State) (d a b : Reg) (n o : BitVec 1) (p : Nat → Nat → Nat), Mem.wf s.m.mem = true → s.hart.vec.vstart = 0#32 →
    let v := s.hart.vec
    let w := fun (k _e : Nat) => (v.ty (d.toNat + k)).width
    let act := fun (k e : Nat) => k < v.vrows.toNat ∧ e < v.vl.toNat ∧ s.pbit v v.vmsel.toNat e = true
    let at1 := fun (k e : Nat) => stridedPlace v (s.xr a) (w k e) k e
    let at2 := fun (k e : Nat) => indexedPlace (s.xr a) (s.index v (b.toNat + k) e)
    let lies := fun (pl : Nat → Nat → Word × Nat) => ∀ k e, act k e → InPlate s (pl k e) (w k e) (p k e)
    let bit := fun (pl : Nat → Nat → Word × Nat) (k e : Nat) => plateBit s (pl k e) (p k e)
    let loads := fun (i : Instr) (pl : Nat → Nat → Word × Nat) => VecLeaves i s d fun k e =>
      if s.pbit v v.vmsel.toNat e then some (s.getBits (bit pl k e) (w k e)) else none
    let stored := fun (t : State) (pl : Nat → Nat → Word × Nat) => StoresElems s t act (bit pl) w fun k e => s.vel v (d.toNat + k) e
    let stores := fun (i : Instr) (pl : Nat → Nat → Word × Nat) => VecReady s i → ElemsApart act (bit pl) w →
      ∃ t, exec i s = .next t ∧ t.hart.pc = s.hart.pc + 4#64 ∧ t.hart.regs = s.hart.regs ∧ stored t pl
    ((∀ k, k < v.vrows.toNat → w k 0 < 8 → v.vstr = 0#32 ∨ v.vstr = 1#32) → lies at1 →
      loads (.vld d a n o) at1 ∧ loads (.vldT d a n o) at1 ∧ stores (.vst d a n o) at1 ∧
      (∀ pa, VecReady s (.vstN d a b n o) → ElemsApart act (bit at1) w → 0 < v.vl.toNat → progressWord s.hart.user.pwb (s.xr b) s = .ok pa s →
        pa % 8 = 0 → QuietHome s (keySlot s.hart.ctx) pa →
        ∃ t, exec (.vstN d a b n o) s = .next t ∧ t.hart.pc = s.hart.pc + 4#64 ∧ t.hart.regs = s.hart.regs ∧
          t.homeBytes (keySlot s.hart.ctx) pa 8 = toBytes 8 (v.vrows.toNat * v.vl.toNat) ∧
          ∀ k e, act k e → t.getBits (bit at1 k e) (w k e) = s.vel v (d.toNat + k) e)) ∧
    ((∀ k, k < v.vrows.toNat → 8 ≤ w k 0) → lies at2 → loads (.vldx d a b n o) at2 ∧ stores (.vstx d a b n o) at2)

/-- In the states of VectorInstructionsStayInTheirShare with memory in canonical form, where x[b] names another hart of the
launch: where every register of its group is a mailbox that is empty, within its registers and long enough, vpush completes
with elements 0 to VL - 1 of each row in them, active or not, their tags those of the sender and their FULL bits set, and no
other register, hart or byte outside the share of the target changed; where one is not ready it waits and nothing is
delivered, until PUSHLIM core cycles have passed: then it raises PUSH_TIMEOUT. vpush.t delivers the same where the group is
ready and not otherwise, completes in both cases, and writes bits 0 to VL - 1 of pd with whether it delivered. (R389, R390,
R379, R249, R196, R197) -/
def Obligations.VectorPushes : Prop :=
  ∀ (s : State) (d a b : Reg) (u : Nat), Mem.wf s.m.mem = true → s.logicalHart (s.xr b) = some u → u ≠ s.cur → u < 2048 →
    let v := s.hart.vec
    let h := s.getHart u
    let rows := v.vrows.toNat
    let lo := s.shareBit u / 8
    let fits := h.vec.nregs * h.vec.b ≤ 8192 * h.grant.vsz.toNat ∧ h.grant.voff.toNat + h.grant.vsz.toNat ≤ 512
    let ready := h.vec.ill = false ∧ ∀ k, a.toNat ≤ k → k < a.toNat + rows →
      h.vec.mbx.getLsbD k = true ∧ h.vec.full.getLsbD k = false ∧ k < h.vec.nregs ∧ v.vl.toNat ≤ h.vec.b / (v.ty k).width
    let group := fun (r : Nat) => a.toNat ≤ r ∧ r < a.toNat + rows
    let delivered := fun (t : State) =>
      (∀ k e, k < rows → e < v.vl.toNat →
        t.getBits (s.shareBit u + (a.toNat + k) * h.vec.b + e * (v.ty (a.toNat + k)).width) (v.ty (a.toNat + k)).width = s.vel v (a.toNat + k) e) ∧
      (∀ r, r < 32 → (t.getHart u).vec.full.getLsbD r = (h.vec.full.getLsbD r || decide (group r)) ∧
        (t.getHart u).vec.tag r = if group r then v.tag r else h.vec.tag r) ∧
      (t.getHart u).regs = h.regs ∧ (t.getHart u).pc = h.pc ∧ ∀ m, m ≠ u → m ≠ s.cur → t.getHart m = s.getHart m
    (VecReady s (.vpush a b) → fits → ready → ∃ t, exec (.vpush a b) s = .next t ∧ t.hart.pc = s.hart.pc + 4#64 ∧ t.hart.regs = s.hart.regs ∧
      delivered t ∧ ∀ x, x < lo ∨ lo + 1024 * h.grant.vsz.toNat ≤ x → Mem.read t.m.mem x = Mem.read s.m.mem x) ∧
    (VecReady s (.vpush a b) → 0 < rows → ¬ ready →
      let since := s.hart.pushSince.getD s.time
      (4 * (s.time - since) < s.hart.user.pushlim.toNat → exec (.vpush a b) s = .next { s with hart := { s.hart with pushSince := some since } }) ∧
      (s.hart.user.pushlim.toNat ≤ 4 * (s.time - since) → Settled s → ∃ t, exec (.vpush a b) s = .next t ∧
        TrapsTo { s with hart := { s.hart with pushSince := none } } t tcPushTimeout (s.xr b))) ∧
    (VecReady s (.vpushT d a b) → fits → 0 < rows →
      (clusterOf u ≠ clusterOf s.cur ∨ h.grant.voff.toNat + h.grant.vsz.toNat ≤ s.hart.grant.voff.toNat ∨
        s.hart.grant.voff.toNat + s.hart.grant.vsz.toNat ≤ h.grant.voff.toNat) →
      ∃ t, exec (.vpushT d a b) s = .next t ∧ t.hart.pc = s.hart.pc + 4#64 ∧ t.hart.regs = s.hart.regs ∧ (ready → delivered t) ∧
        (¬ ready → t.others = s.others ∧ ∀ x, OutsideShare s x → Mem.read t.m.mem x = Mem.read s.m.mem x) ∧
        ∀ e, e < v.vl.toNat → (d ≠ 0#5 → (ready → t.pbit v d.toNat e = true) ∧ (¬ ready → t.pbit v d.toNat e = false)))

/-- In supervisor mode, where the checks of a matrix instruction pass and no poison mark or mailbox stands in its way, it
completes. tld of a shape that lies in READY plates leaves each element of the shape in the tile and zero in every other bit
of it; tst stores each element of the shape at its address, and no other bit. mop adds the product of the tiles to the
accumulator, K steps in order on each element (one rounding a step, or modulo 2^32); mops takes row i of A from elements i to
i + K - 1 of va; mop.m takes row k of B from memory at x[b] + k * VPITCH and leaves MSTART 0. accx writes the active elements
of vd with row x[b] + k of the accumulator, acci that row with the active elements of va, each converted. No other element of
the accumulator and no byte outside it changes. (R412, R416, R417, R418, R419, R420, R421, R422, R275, R270, R23) -/
def Obligations.TilesAndProducts : Prop :=
  ∀ (s : State) (d a b : Reg) (ty : Ty) (rows cols : Nat) (p : Nat → Nat → Nat),
    let v := s.hart.vec
    let w := ty.width
    let row := fun (base : Word) (k e : Nat) =>
      ((BitVec.ofInt 64 (base.toNat + k * v.vpitch.toInt + (e * w / 8 : Nat)), e * w % 8) : Word × Nat)
    let shape := fun (k e : Nat) => k < rows ∧ e < cols
    let lo := s.tileAt d 0 0 w / 8
    let bit := fun (k e : Nat) => plateBit s (row (s.xr a) k e) (p k e)
    let r0 := (s.xr b).toNat
    let on := fun (e : Nat) => s.pbit v v.vmsel.toNat e
    (ShapeIs s d ty rows cols → (∀ k e, shape k e → InPlate s (row (s.xr a) k e) w (p k e)) →
      (MatReady s (.tld d a) → ∃ t, exec (.tld d a) s = .next t ∧ t.hart.pc = s.hart.pc + 4#64 ∧ t.hart.regs = s.hart.regs ∧
        (∀ k e, shape k e → t.tile d k e w = s.getBits (bit k e) w) ∧
        (∀ k j, k < 128 → j < 1024 → ¬ (k < rows ∧ j < cols * w) → t.getBits (s.tileAt d 0 0 w + k * 1024 + j) 1 = 0) ∧
        ∀ x, x < lo ∨ lo + 0x4000 ≤ x → Mem.read t.m.mem x = Mem.read s.m.mem x) ∧
      (MatReady s (.tst d a) → ElemsApart shape bit (fun _ _ => w) → ∃ t, exec (.tst d a) s = .next t ∧ t.hart.pc = s.hart.pc + 4#64 ∧
        t.hart.regs = s.hart.regs ∧ StoresElems s t shape bit (fun _ _ => w) fun k e => s.tile d k e w)) ∧
    (∀ kk nn, ShapeIs s a ty rows kk → ShapeIs s b ty kk nn → MatReady s (.mop d a b) →
      Multiplies s (.mop d a b) d ty rows nn kk (fun i k => s.tile a i k w) fun k j => s.tile b k j w) ∧
    (∀ kk nn, ShapeIs s b ty kk nn → MatReady s (.mops d a b) →
      Multiplies s (.mops d a b) d ty (v.vl.toNat + 1 - kk) nn kk (fun i k => s.vel v a.toNat (i + k)) fun k j => s.tile b k j w) ∧
    (∀ kk, ShapeIs s a ty rows kk → MatReady s (.mopM d a b) → s.hart.user.mstart = 0#10 →
      (∀ k e, k < kk → e < v.vl.toNat → InPlate s (row (s.xr b) k e) w (p k e)) →
      Multiplies s (.mopM d a b) d ty rows v.vl.toNat kk (fun i k => s.tile a i k w)
        fun k j => s.getBits (plateBit s (row (s.xr b) k j) (p k j)) w) ∧
    (MatReady s (.accx d a b) → ∃ t, exec (.accx d a b) s = .next t ∧ t.hart.pc = s.hart.pc + 4#64 ∧ t.hart.regs = s.hart.regs ∧
      (∀ x, OutsideShare s x → Mem.read t.m.mem x = Mem.read s.m.mem x) ∧
      ∀ k e, k < v.vrows.toNat → e < v.vl.toNat → t.vel v (d.toNat + k) e =
        if on e = true ∧ r0 + k < 128 ∧ e < 64 then (accValue (v.ty (d.toNat + k)) (s.acc a (r0 + k) e)).1 % 2 ^ (v.ty (d.toNat + k)).width
        else s.vel v (d.toNat + k) e) ∧
    (MatReady s (.acci d a b) → ∃ t, exec (.acci d a b) s = .next t ∧ t.hart.pc = s.hart.pc + 4#64 ∧ t.hart.regs = s.hart.regs ∧
      (∀ x y, x < 128 → y < 64 → t.acc d x y =
        if r0 ≤ x ∧ x < r0 + v.vrows.toNat ∧ y < v.vl.toNat ∧ on y = true
        then (accEntry (v.ty (a.toNat + (x - r0))) (s.vel v (a.toNat + (x - r0)) y)).1 % 2 ^ 32 else s.acc d x y) ∧
      ∀ z, z < s.accAt d 0 0 / 8 ∨ s.accAt d 0 0 / 8 + 0x8000 ≤ z → Mem.read t.m.mem z = Mem.read s.m.mem z)

/-- A slot number of 16 and up gives status 7 to all but pstat; slots 14 and 15 of an orbit executor raise GRANT. pclaim on a free
slot attaches the lowest plate of the pool, EMPTY, and gives 2 or 3 where the slot is taken or the pool empty. prel and pgive,
from a hart with nothing queued or copying, leave the plate DRAINING with its state in HELD and its goal recorded, the slot
free or the target slot reserved; they give 1 without a plate, pgive 7, 5 and 4 as the table says. pmark sets EMPTY or READY,
gives 6 for another code or while FILLING, 1 without a plate. pstat reads the slot or the pool count. A refused instruction
changes x[d] and the pc alone. PLATE_REATTACH of a DRAINING plate to which no access resolves any more: the state in HELD
returns, and the plate is in the pool, or attached to the slot that is reserved for it, whose hart has the plate bit of its
event latch set where the plate was given to it; a goal whose slot is no longer reserved, as of a hart that has retired, gives
it to the pool. A plate that is not draining, or still used, stays as it is. No byte of a plate changes. (Where the rules
leave it open it rests on the model's choices, log entries 52, 53, 55 and 111.) (R80, R81, R87, R425, R426, R427, R428, R429) -/
def Obligations.PlatesAndTheirHandOvers : Prop :=
  (∀ (s : State) (d a b : Reg), let x := s.xr a; let k := x.toNat; let h := s.hart
    (16 ≤ k → ∀ i ∈ [Instr.pclaim d a, .prel d a, .pgive d a b, .pmark d a b], Yields i s d 7#64) ∧
    (k < 16 → 14 ≤ k → h.grant.orb = true → Settled s →
      ∀ i ∈ [Instr.pclaim d a, .prel d a, .pgive d a b, .pmark d a b], Ends i s fun t => TrapsTo s t tcGrant ((encode i).zeroExtend 64)) ∧
    (k < 16 → ¬ (h.grant.orb = true ∧ 14 ≤ k) →
      (h.slotAt k ≠ .empty → Yields (.pclaim d a) s d 2#64) ∧
      (h.slotAt k = .empty → s.pool s.die h.ctx = [] → Yields (.pclaim d a) s d 3#64) ∧
      (∀ p ∈ s.pool s.die h.ctx, h.slotAt k = .empty → (∀ q ∈ s.pool s.die h.ctx, p ≤ q) → Ends (.pclaim d a) s fun t =>
        t.plate p = { s.plate p with state := 0#2, attach := 2#2, target := s.cur % 256 * 16 + k } ∧ (∀ q, q ≠ p → t.plate q = s.plate q) ∧
        t.hart.slotAt k = .attached (p % 128) ∧ (∀ j, j ≠ k → t.hart.slotAt j = h.slotAt j) ∧ Gets s t d 0#64 ∧
        t.m.mem = s.m.mem ∧ t.others = s.others) ∧
      ((∀ p, h.slotAt k ≠ .attached p) → Yields (.prel d a) s d 1#64 ∧ Yields (.pmark d a b) s d 1#64) ∧
      (∀ p, HoldsQuietly s k p → let n := s.die * 128 + p
        ((s.plate n).state = 0#2 ∨ (s.plate n).state = 2#2 → Ends (.prel d a) s fun t =>
          Gets s t d 0#64 ∧ t.plate n = leaving (s.plate n) .pool ∧ (∀ q, q ≠ n → t.plate q = s.plate q) ∧ t.hart.slotAt k = .empty ∧
          (∀ j, j ≠ k → t.hart.slotAt j = h.slotAt j) ∧ t.m.mem = s.m.mem ∧
          t.inbox = s.inbox ++ [(.plateReattach, { die := BitVec.ofNat 3 s.die, unit := BitVec.ofNat 32 p })]) ∧
        (((s.xr b ≠ 0#64 ∧ s.xr b ≠ 2#64) ∨ (s.plate n).state = 1#2) → Yields (.pmark d a b) s d 6#64) ∧
        ((s.xr b = 0#64 ∨ s.xr b = 2#64) → (s.plate n).state ≠ 1#2 → Ends (.pmark d a b) s fun t =>
          Gets s t d 0#64 ∧ t.plate n = { s.plate n with state := (s.xr b).setWidth 2 } ∧ (∀ q, q ≠ n → t.plate q = s.plate q) ∧
          t.hart.slots = h.slots ∧ t.m.mem = s.m.mem)) ∧
      ((s.xr b).toNat / 2 ^ 20 ≠ 0 → Yields (.pgive d a b) s d 7#64) ∧
      ((s.xr b).toNat / 2 ^ 20 = 0 → s.logicalHart ((s.xr b) &&& 0xFFFF#64) = none → Settled s →
        Ends (.pgive d a b) s fun t => TrapsTo s t tcAccessFault ((s.xr b) &&& 0xFFFF#64)) ∧
      (∀ g, (s.xr b).toNat / 2 ^ 20 = 0 → s.logicalHart ((s.xr b) &&& 0xFFFF#64) = some g → let j := (s.xr b).toNat / 2 ^ 16
        ((∀ p, h.slotAt k ≠ .attached p) → Yields (.pgive d a b) s d 1#64) ∧
        (∀ p, HoldsQuietly s k p → let n := s.die * 128 + p
          (s.hasRetired g = true → Yields (.pgive d a b) s d 5#64) ∧
          (s.hasRetired g = false → (dieOfHart g ≠ s.die ∨ ((s.getHart g).grant.orb = true ∧ 14 ≤ j) ∨
            ((s.getHart g).slotAt j ≠ .empty ∧ ¬ (g = s.cur ∧ j = k))) → Yields (.pgive d a b) s d 4#64) ∧
          (s.hasRetired g = false → dieOfHart g = s.die → ¬ ((s.getHart g).grant.orb = true ∧ 14 ≤ j) →
            ((s.getHart g).slotAt j = .empty ∨ (g = s.cur ∧ j = k)) → ((s.plate n).state = 0#2 ∨ (s.plate n).state = 2#2) →
            Ends (.pgive d a b) s fun t => Gets s t d 0#64 ∧ t.plate n = leaving (s.plate n) (.slot g j true) ∧
              (t.getHart g).slotAt j = .pending ∧ (¬ (g = s.cur ∧ j = k) → t.hart.slotAt k = .empty) ∧ t.m.mem = s.m.mem)))) ∧
    Yields (.pstat d a) s d
      (if k = 16 then BitVec.ofNat 64 (s.pool s.die h.ctx).length
       else match h.slotAt k with
         | .empty => 0#64
         | .attached p => let r := s.plate (s.die * 128 + p)
           BitVec.ofNat 64 (p % 128) <<< 16 ||| 0x10#64 ||| r.held.zeroExtend 64 <<< 2 ||| r.state.zeroExtend 64
         | .pending => match s.incoming s.cur k with
           | none => 0x20#64
           | some n => let r := s.plate n
             BitVec.ofNat 64 (n % 128) <<< 16 ||| 0x20#64 ||| r.held.zeroExtend 64 <<< 2 ||| r.state.zeroExtend 64)) ∧
  (∀ s : State, let n := s.msg.die.toNat * 128 + s.msg.unit.toNat % 128; let x := s.plate n
    (x.hand = none ∨ x.state ≠ 3#2 ∨ s.plateUsed n = true → exec .plateReattach s = .next s) ∧
    (x.state = 3#2 → s.plateUsed n = false →
      (x.hand = some .pool ∨ (∃ h k g, x.hand = some (.slot h k g) ∧ (s.getHart h).slotAt k ≠ .pending) → Ends .plateReattach s fun t =>
        t.plate n = { x with state := x.held, attach := 1#2, target := 0, hand := none } ∧ (∀ q, q ≠ n → t.plate q = s.plate q) ∧
        SameHarts s t ∧ t.m.mem = s.m.mem) ∧
      (∀ h k give, x.hand = some (.slot h k give) → (s.getHart h).slotAt k = .pending → k < 16 → Ends .plateReattach s fun t =>
        t.plate n = { x with state := x.held, attach := 2#2, target := h % 256 * 16 + k, hand := none } ∧
        (∀ q, q ≠ n → t.plate q = s.plate q) ∧ (t.getHart h).slotAt k = .attached (n % 128) ∧
        (t.getHart h).latch = (if give then (s.getHart h).latch ||| 0b0001000#7 else (s.getHart h).latch) ∧ (∀ g, g ≠ h → t.getHart g = s.getHart g) ∧ t.m.mem = s.m.mem)))

/-- orbdef with a well-formed record whose stations satisfy R202 takes the lowest FREE orbit of the die: it is DEFINED with the
fields of the record, and x[d] gets handle and status 0; with none free, status 3. orbin places a tile on a station of a
DEFINED orbit without one of that family and starts the hand-over of its plate; orbgo reads its tables and makes the orbit
RUNNING in lap 1 with F and D at the entries already fired; orbout with FREE set frees the COMPLETE orbit that x[a] and its
descriptor both name. Handles that name no orbit of the launch in the state asked for give 1, malformed descriptors 5. orbstat
reads the counters. The order of the status checks and the choice of the lowest orbit are the model's (log entries 62 and
119). (R430, R431, R432, R433, R434, R435, R202, R204, R210) -/
def Obligations.OrbitInstructionResults : Prop :=
  (∀ (s : State) (d a : Reg) (r : List Word) (t : State) (harts : List Nat),
    (s.xr a).toNat % 64 = 0 → loadDwords (s.xr a) 8 s = .ok r t → recordBad r = false → recByte r 0x14 < 16 →
    (∀ i, i < 10 → recByte r (0x16 + i) = 0) → (∀ k, recByte r 0x12 ≤ k → k < 16 → recHalf r (0x20 + 2 * k) = 0) →
    needHarts ((List.range (recByte r 0x12)).map fun k => recHalf r (0x20 + 2 * k)) t = .ok harts t → t.executorsOk harts = true →
    let base := t.hart.ctx.toNat * 64
    (∀ i, i / 8 = t.die → (t.orbit (base + i)).state = 0#2 → (∀ j, j < i → j / 8 = t.die → (t.orbit (base + j)).state ≠ 0#2) →
      Ends (.orbdef d a) s fun u => Gets t u d (BitVec.ofNat 64 (i * 256)) ∧
        (let o := u.orbit (base + i)
         o.state = 1#2 ∧ o.launch = t.hart.launch ∧ o.ephVa = r.getD 0 0#64 ∧ o.taskVa = r.getD 1 0#64 ∧ o.entries = recHalf r 0x10 ∧
         o.lapLimit = (if recByte r 0x13 = 0 then 2 else recByte r 0x13) ∧ o.taskCount = recByte r 0x15 ∧ o.stations.map (·.hart) = harts ∧
         (∀ x ∈ o.stations, x.pro.plate = none ∧ x.retro.plate = none)) ∧
        (∀ n, n ≠ base + i → u.orbit n = t.orbit n) ∧ u.m = t.m) ∧
    ((∀ j, j / 8 = t.die → (t.orbit (base + j)).state ≠ 0#2) → Ends (.orbdef d a) s fun u => Gets t u d 3#64 ∧ u.disp = t.disp)) ∧
  (∀ (s : State) (d a : Reg), (s.xr a).toNat % 64 ≠ 0 → Settled s → Ends (.orbdef d a) s fun t => TrapsTo s t tcMisaligned (s.xr a)) ∧
  (∀ (s : State) (d a b : Reg), let y := s.xr b
    ((descBad y = true ∨ y.getLsbD 15 = true ∨ 16 ≤ (s.xr a).toNat) → Yields (.orbin d a b) s d 5#64) ∧
    (descBad y = true → Yields (.orbout d a b) s d 5#64) ∧
    (descBad y = false → (∀ h n, h = s.xr a ∨ h = descHandle y → s.ownOrbit h = some n → (s.orbit n).state ≠ 3#2) →
      Ends (.orbout d a b) s fun t => Gets s t d 1#64 ∧ t.disp = s.disp ∧ t.m = s.m) ∧
    (∀ n, descBad y = false → s.xr a = descHandle y → s.ownOrbit (descHandle y) = some n → (s.orbit n).state = 3#2 → y.getLsbD 15 = true →
      Ends (.orbout d a b) s fun t => Gets s t d 0#64 ∧ (t.orbit n).state = 0#2 ∧ (∀ q, q ≠ n → t.orbit q = s.orbit q) ∧ t.m.mem = s.m.mem) ∧
    (descBad y = false → y.getLsbD 15 = false → (s.xr a).toNat < 16 →
      ((∀ n, s.ownOrbit (descHandle y) = some n → (s.orbit n).state ≠ 1#2) → Yields (.orbin d a b) s d 1#64) ∧
      (∀ n t p, s.ownOrbit (descHandle y) = some n → (s.orbit n).state = 1#2 → (s.orbit n).stations[descStation y]? = some t →
        HoldsQuietly s (s.xr a).toNat p → ((s.plate (s.die * 128 + p)).state = 0#2 ∨ (s.plate (s.die * 128 + p)).state = 2#2) →
        (if descRetro y then t.retro else t.pro).plate = none → y.extractLsb' 16 12 ≠ 0xFFF#12 →
        (∀ x ∈ (s.orbit n).stations, (if descRetro y then x.retro else x.pro).id ≠ y.extractLsb' 16 12) →
        (s.getHart t.hart).slotAt (if descRetro y then 15 else 14) = .empty → t.hart ≠ s.cur →
        Ends (.orbin d a b) s fun u => Gets s u d 0#64 ∧
          (let tile : OTile := { id := y.extractLsb' 16 12, plate := some (s.die * 128 + p) }
           (u.orbit n).stations = (s.orbit n).stations.set (descStation y) (if descRetro y then { t with retro := tile } else { t with pro := tile })) ∧
          u.plate (s.die * 128 + p) = leaving (s.plate (s.die * 128 + p)) (.station t.hart (if descRetro y then 15 else 14) n) ∧
          (u.getHart t.hart).slotAt (if descRetro y then 15 else 14) = .pending ∧ u.hart.slotAt (s.xr a).toNat = .empty))) ∧
  (∀ (s : State) (d a : Reg),
    ((∀ n, s.ownOrbit (s.xr a) = some n → (s.orbit n).state ≠ 1#2) → Yields (.orbgo d a) s d 1#64) ∧
    (∀ n, s.ownOrbit (s.xr a) = some n → (s.orbit n).state = 1#2 → 4 ≤ s.orbitsStarted → Yields (.orbgo d a) s d 3#64) ∧
    (∀ n t u w handlers es, s.ownOrbit (s.xr a) = some n → (s.orbit n).state = 1#2 → s.orbitsStarted < 4 → doRelease 3#2 (regionMask 0#4) s = .ok () t →
      let o := s.orbit n
      loadDwords o.taskVa o.taskCount t = .ok handlers u → loadEphemeris o.ephVa o.entries u = .ok es w →
      (∀ x ∈ handlers, x.toNat % 4 = 0) → (∀ e ∈ es, e.2 = false ∧ e.1.task.toNat < o.taskCount) →
      let f := ((es.map (·.1)).filter (·.fired)).length
      f ≠ o.entries → (∀ x ∈ o.stations, w.hasRetired x.hart = false ∧ (w.getHart x.hart).grant.orb = true ∧
        clusterOf x.hart ∉ w.busyClusters s.hart.ctx (some n)) → w.hart = s.hart → w.disp = s.disp →
      Ends (.orbgo d a) s fun v => Gets s v d 0#64 ∧
        (v.orbit n).state = 2#2 ∧ (v.orbit n).laps = 1 ∧ (v.orbit n).fcount = f ∧ (v.orbit n).dcount = f ∧ (v.orbit n).handlers = handlers ∧
        (v.orbit n).eph = es.map (·.1) ∧ (v.orbit n).stations = o.stations ∧
        v.inbox = w.inbox ++ (List.range o.stations.length).map fun k => (.orbitRound, orbitMsg n k 0 false)) ∧
    (s.ownOrbit (s.xr a) = none → Yields (.orbstat d a) s d 0#64) ∧
    (∀ n, s.ownOrbit (s.xr a) = some n → let o := s.orbit n
      o.laps < 16 → o.dcount < 8192 → o.fcount < 8192 → o.entries < 8192 →
      Yields (.orbstat d a) s d (BitVec.ofNat 64 (o.state.toNat * 2 ^ 56 + o.laps * 2 ^ 48 + o.dcount * 2 ^ 32 + o.fcount * 2 ^ 16 + o.entries))))

/-- ORBIT_ROUND at a station that holds its tiles marks the pair looked up; where an unfired entry names the pair of two tiles,
the lowest one is fired and counted and its task is pending at the executor with its handler, index and argument, else the
round may end. ORBIT_ROUND_EDGE ends the round without a hand-over at the last round of a lap; at any other it gives the
prograde tile to the next station and the retrograde tile, but at the dwell edge, to the previous one, begins their hand-overs
and sends the markers. ORBIT_MARKER counts the marker from its side. ORBIT_LAP_END completes the orbit at the lap limit, and
below it begins another lap. ORBIT_COMPLETE with every tile attached, at its station or beside the one that the station holds,
makes the orbit COMPLETE and places the record of R433 in e2 of its owner, if the hart that ran orbgo still stands in its
launch there. Out of a running orbit these steps do nothing, but that ORBIT_MARKER still counts the marker that arrives; it
moves no station onward. (Where the rules leave it open it rests on the model's choices, log entries 9, 59 and 60.) (R206,
R207, R208, R210) -/
def Obligations.OrbitRoundsAndLaps : Prop :=
  ∀ s : State, let n := s.msg.unit.toNat; let k := s.msg.station.toNat; let o := s.orbit n
    n < 512 →
    (s.orbitRuns n = false → exec .orbitRound s = .next s ∧ exec .orbitRoundEdge s = .next s ∧ exec .orbitLapEnd s = .next s ∧
      exec .orbitComplete s = .next s ∧ (o.stations[k]? = none ∨ s.msg.kind = 1#8 → exec .orbitMarker s = .next s) ∧
      (∀ t, o.stations[k]? = some t → s.msg.kind ≠ 1#8 → Ends .orbitMarker s fun u => SameHarts s u ∧ u.m = s.m ∧ u.inbox = s.inbox ∧
        u.orbit n = { o with stations := o.stations.set k (if s.msg.flag then { t with markPrev := t.markPrev + 1 } else { t with markNext := t.markNext + 1 }) })) ∧
    (s.orbitRuns n = true →
      (∀ t, o.stations[k]? = some t → o.complete = false → t.looked = false → t.ended = false → s.holdsTile t.hart 14 t.pro = true →
        s.holdsTile t.hart 15 t.retro = true →
        ((t.pro.id = 0xFFF#12 ∨ t.retro.id = 0xFFF#12 ∨ ∀ e ∈ o.eph, e.pro ≠ t.pro.id ∨ e.retro ≠ t.retro.id ∨ e.fired = true) →
          Ends .orbitRound s fun u => (u.orbit n).stations[k]? = some { t with looked := true } ∧ (u.orbit n).eph = o.eph ∧
            (u.orbit n).fcount = o.fcount ∧ u.inbox = s.inbox ++ [(.orbitRoundEdge, orbitMsg n k 0 false)] ∧ SameHarts s u) ∧
        (∀ i e, o.eph[i]? = some e → t.pro.id ≠ 0xFFF#12 → t.retro.id ≠ 0xFFF#12 → e.pro = t.pro.id → e.retro = t.retro.id → e.fired = false →
          (∀ j, j < i → ∀ g, o.eph[j]? = some g → g.pro ≠ t.pro.id ∨ g.retro ≠ t.retro.id ∨ g.fired = true) →
          Ends .orbitRound s fun u => (u.orbit n).stations[k]? = some { t with looked := true, task := true } ∧
            (u.orbit n).eph = o.eph.set i { e with fired := true } ∧ (u.orbit n).fcount = o.fcount + 1 ∧
            (u.getHart t.hart).pendingUser = (s.getHart t.hart).pendingUser ++ [.orbitTask n k (o.handlers.getD e.task.toNat 0#64)
              (BitVec.ofNat 64 i) ((e.arg.setWidth 32).zeroExtend 64) ((e.arg >>> 32))] ∧ u.m = s.m)) ∧
      (∀ t, o.stations[k]? = some t → t.looked = true → t.task = false → t.ended = false → o.complete = true ∨ o.lastRound t.round = true →
        Ends .orbitRoundEdge s fun u => (u.orbit n).stations[k]? = some { t with ended := true } ∧ SameHarts s u ∧ u.m = s.m) ∧
      (∀ t, o.stations[k]? = some t → t.looked = true → t.task = false → t.ended = false → o.complete = false → o.lastRound t.round = false →
        2 ≤ o.stations.length → Ends .orbitRoundEdge s fun u =>
          let stay := o.dwell t.round
          (u.orbit n).stations[k]? = some { t with pro := nullTile, retro := if stay then t.retro else nullTile, ended := true, looked := false } ∧
          (∀ x, o.stations[o.next k]? = some x → (stay = true ∨ o.next k ≠ o.prev k) →
            (u.orbit n).stations[o.next k]? = some { x with inPro := x.inPro ++ [t.pro] }) ∧
          (∀ x, o.stations[o.prev k]? = some x → stay = false → o.next k ≠ o.prev k →
            (u.orbit n).stations[o.prev k]? = some { x with inRetro := x.inRetro ++ [t.retro] }) ∧
          (∀ x p, o.stations[o.next k]? = some x → t.pro.plate = some p → (stay = true ∨ t.retro.plate ≠ some p) →
            (u.plate p).hand = some (.station x.hart 14 n)) ∧
          (∀ x p, o.stations[o.prev k]? = some x → t.retro.plate = some p → stay = false → (u.plate p).hand = some (.station x.hart 15 n)) ∧
          (∃ l, u.inbox = s.inbox ++ l ++ [(.orbitMarker, orbitMsg n (o.next k) 0 true), (.orbitMarker, orbitMsg n (o.prev k) 0 false),
            (.orbitMarker, orbitMsg n k 1 false)]) ∧ u.m.mem = s.m.mem) ∧
      (∀ t, o.stations[k]? = some t → t.looked = false → t.ended = false → s.msg.kind ≠ 1#8 → Ends .orbitMarker s fun u =>
        (u.orbit n).stations[k]? = some (if s.msg.flag then { t with markPrev := t.markPrev + 1 } else { t with markNext := t.markNext + 1 }) ∧
        SameHarts s u ∧ u.m = s.m) ∧
      (o.complete = false → o.lapEnded = true → o.lapLimit ≤ o.laps → Ends .orbitLapEnd s fun u =>
        (u.orbit n) = { o with complete := true } ∧ u.inbox = s.inbox ++ [(.orbitComplete, orbitMsg n 0 0 false)] ∧ SameHarts s u ∧ u.m = s.m) ∧
      (o.complete = false → o.lapEnded = true → o.laps < o.lapLimit → Ends .orbitLapEnd s fun u =>
        (u.orbit n).laps = o.laps + 1 ∧ (u.orbit n).complete = false ∧ u.m.mem = s.m.mem) ∧
      (o.complete = true → (∀ t ∈ o.stations.map Station.settle, (∀ p ∈ t.beside, (s.plate p).hand = none) ∧
          s.holdsTile t.hart 14 t.pro = true ∧ s.holdsTile t.hart 15 t.retro = true) → o.laps < 256 → o.fcount ≤ o.entries → o.entries < 65536 → Ends .orbitComplete s fun u =>
        let h := s.getHart o.owner
        let stands := h.launch = o.launch ∧ h.ctx = o.ctx
        u.orbit n = { o with state := 3#2, stations := o.stations.map Station.settle } ∧
        (stands → (u.getHart o.owner).latch.getLsbD 0 = true ∧ (u.getHart o.owner).e2.map (·.word) = h.e2.map (·.word) ++
          [BitVec.ofNat 64 (o.laps * 2 ^ 24 + (o.entries - o.fcount) * 2 ^ 8 + n % 64)]) ∧
        (¬ stands → (u.getHart o.owner).e2 = h.e2) ∧
        (o.eph = [] → u.m = s.m ∧ (stands → (u.getHart o.owner).latch = h.latch ||| 1#7) ∧ (¬ stands → SameHarts s u))))

/-- epeek gives the copies outstanding, the records in e1 or the records in e2, and changes nothing else. epop with nothing queued
takes the oldest record of e1, and one copy less is outstanding, or of e2; an empty port raises ENGINE_PORT with the port.
epush of an aligned block with fewer than 16 outstanding, whose lines are read as loads, performs a release, and the copy unit
of the cluster has one command more, made from the block; a misaligned block raises MISALIGNED, a 17th copy ENGINE_PORT. Port
codes 3 to 7, and codes an instruction does not take, raise ENGINE_PORT with the code; 8 and up are ILLEGAL. (Where the rules
leave it open it rests on the model's choices, log entries 76 and 77.) (R340, R341, R342, R143, R144, R346) -/
def Obligations.EnginePortInstructions : Prop :=
  ∀ (s : State) (d a : Reg),
    (a.toNat < 3 → Yields (.epeek d a) s d (BitVec.ofNat 64
      (if a = 0#5 then s.hart.outstanding else if a = 1#5 then s.hart.e1.length else s.hart.e2.length))) ∧
    (Settled s → 8 ≤ a.toNat → (Ends (.epeek d a) s fun t => TrapsTo s t tcIllegal ((encode (.epeek d a)).zeroExtend 64)) ∧
      (Ends (.epop d a) s fun t => TrapsTo s t tcIllegal ((encode (.epop d a)).zeroExtend 64)) ∧
      (Ends (.epush a d) s fun t => TrapsTo s t tcIllegal ((encode (.epush a d)).zeroExtend 64))) ∧
    (Settled s → 3 ≤ a.toNat → a.toNat < 8 → Ends (.epeek d a) s fun t => TrapsTo s t tcEnginePort (a.zeroExtend 64)) ∧
    (Settled s → a.toNat < 8 → a ≠ 1#5 → a ≠ 2#5 → Ends (.epop d a) s fun t => TrapsTo s t tcEnginePort (a.zeroExtend 64)) ∧
    (Settled s → a.toNat < 8 → a ≠ 0#5 → Ends (.epush a d) s fun t => TrapsTo s t tcEnginePort (a.zeroExtend 64)) ∧
    (Settled s → s.hart.e1 = [] → Ends (.epop d 1#5) s fun t => TrapsTo s t tcEnginePort 1#64) ∧
    (Settled s → s.hart.e2 = [] → Ends (.epop d 2#5) s fun t => TrapsTo s t tcEnginePort 2#64) ∧
    (∀ r l, Idle s → s.hart.e1 = r :: l → Ends (.epop d 1#5) s fun t =>
      Gets s t d r.word ∧ t.hart.e1 = l ∧ t.hart.e2 = s.hart.e2 ∧ t.hart.outstanding = s.hart.outstanding - 1 ∧
      t.hart.pc = s.hart.pc + 4#64 ∧ t.m.mem = s.m.mem) ∧
    (∀ r l, Idle s → s.hart.e2 = r :: l → Ends (.epop d 2#5) s fun t =>
      Gets s t d r.word ∧ t.hart.e2 = l ∧ t.hart.e1 = s.hart.e1 ∧ t.hart.pc = s.hart.pc + 4#64 ∧ t.m.mem = s.m.mem) ∧
    (Settled s → (s.xr a).toNat % 64 ≠ 0 → Ends (.epush 0#5 a) s fun t => TrapsTo s t tcMisaligned (s.xr a)) ∧
    (Settled s → (s.xr a).toNat % 64 = 0 → 16 ≤ s.hart.outstanding → Ends (.epush 0#5 a) s fun t => TrapsTo s t tcEnginePort 0#64) ∧
    (∀ p ps t b u w, (s.xr a).toNat % 64 = 0 → s.hart.outstanding < 16 → blockPlaces (s.xr a) 7 (s.xr a) s = .ok (p :: ps) t → Idle t →
      blockRead (s.xr a) (p :: ps) t = .ok b u → doRelease (u.copyOf b p).scope 0xFFFE#16 u = .ok () w →
      Ends (.epush 0#5 a) s fun v =>
        v.hart.outstanding = w.hart.outstanding + 1 ∧ v.hart.pc = w.hart.pc + 4#64 ∧
        (v.cluster (clusterOf w.cur)).copies = (w.cluster (clusterOf w.cur)).copies ++ [u.copyOf b p])

/-- COPY_START makes the first waiting command of a cluster active where fewer than 16 are, and does nothing where none waits.
COPY_COMPLETE of a running context's first active command ends it where its block was refused, or where its last element is
performed: the command leaves the unit, its hart has one record more in e1 with the status over the ID, the port bit of its
latch is set, a copy-done item is pending where the block asks for one and names a handler, and, its block lying at a quiet
home, the progress word of the block holds the elements performed. A copy of one element between two plates of its hart thus
ends with the bytes of the source plate in the destination plate, that plate READY and 1 in the progress word. (Where the
rules leave it open it rests on the model's choices, log entries 65.) (R141, R223, R341, R345, R346) -/
def Obligations.CopiesStartAndComplete : Prop :=
  ∀ s : State, let k := s.msg.die.toNat * 16 + s.msg.unit.toNat; let x := s.cluster k
    s.msg.unit.toNat < 16 →
    (16 ≤ (x.copies.filter (·.active)).length ∨ (∀ c ∈ x.copies, c.active = true) → exec .copyStart s = .next s) ∧
    (∀ l c r, (x.copies.filter (·.active)).length < 16 → x.copies = l ++ c :: r → (∀ y ∈ l, y.active = true) → c.active = false →
      Ends .copyStart s fun t => t.cluster k = { x with copies := l ++ { c with active := true } :: r } ∧ SameHarts s t ∧ t.m.mem = s.m.mem ∧
        t.inbox = s.inbox ++ [(.copyComplete, copyMsg k)]) ∧
    (∀ c r, x.copies = c :: r → c.active = true → s.ctxRuns c.ctx.toNat (k / 16) = true →
      let quiet := fun (y : State) (c : CopyCmd) => (c.blockPa + 0x28) % 8 = 0 ∧ QuietHome y (keySlot c.ctx) (c.blockPa + 0x28)
      let item := if c.irq = true ∧ c.handler ≠ 0#64 then [UserItem.copyDone c.id c.handler] else []
      (∀ st, c.failed = some st → Ends .copyComplete s fun t =>
        (t.cluster k).copies = r ∧ (t.getHart c.hart).e1.map (·.word) = (s.getHart c.hart).e1.map (·.word) ++ [st.zeroExtend 64 <<< 32 ||| c.id.zeroExtend 64] ∧
        (t.getHart c.hart).latch.getLsbD 0 = true ∧ (t.getHart c.hart).pendingUser = (s.getHart c.hart).pendingUser ++ item ∧
        (quiet s c → t.homeBytes (keySlot c.ctx) (c.blockPa + 0x28) 8 = toBytes 8 c.progress)) ∧
      (∀ p q, let a := c.src.addr 0
        let b := c.dst.addr 0
        let n := c.size.toNat
        let plateOf := fun (i : Nat) => dieOfHart c.hart * 128 + i
        c.failed = none → c.progress = 0 → c.buffer = [] → c.served = 0 → c.filling = [] → c.drained = [] → n ∈ [1, 2, 4, 8] →
        c.src.total = 1 → c.dst.total = 1 → c.src.kind = 1#2 → c.dst.kind = 1#2 → a.toNat % n = 0 → b.toNat % n = 0 →
        inPlateWindow c.pwb a = true → inPlateWindow c.pwb b = true → plateOfs a + n ≤ 0x40000 → plateOfs b + n ≤ 0x40000 →
        c.hart < 2048 → p < 128 → q < 128 → p ≠ q → (s.getHart c.hart).slotAt (plateSlotOf a).toNat = .attached p →
        (s.getHart c.hart).slotAt (plateSlotOf b).toNat = .attached q → (s.plate (plateOf p)).state = 2#2 →
        (s.plate (plateOf q)).state = 0#2 ∨ (s.plate (plateOf q)).state = 2#2 → (s.plate (plateOf q)).hand = none → s.m.marks = [] → quiet s c →
        Ends .copyComplete s fun t => (t.cluster k).copies = r ∧
          (t.getHart c.hart).e1.map (·.word) = (s.getHart c.hart).e1.map (·.word) ++ [c.id.zeroExtend 64] ∧
          (t.getHart c.hart).latch.getLsbD 0 = true ∧ (t.getHart c.hart).pendingUser = (s.getHart c.hart).pendingUser ++ item ∧
          (t.plate (plateOf q)).state = 2#2 ∧ (∀ i, i < n → (Mem.read t.m.mem (platePa s (plateOf q) (plateOfs b) + i)).getD 0#8 =
            (Mem.read s.m.mem (platePa s (plateOf p) (plateOfs a) + i)).getD 0#8) ∧
          t.homeBytes (keySlot c.ctx) (c.blockPa + 0x28) 8 = toBytes 8 1) ∧
      (∀ u c' v c'', c.failed = none → s.copyBegin c = some (u, c') → c'.progress + 1 = c'.src.total → c'.served < 256 / max c'.size.toNat 1 →
        State.copyRun { u with free := u.free + 1 } [c'.progress] { u with free := u.free + 1 } c' = (v, c'', none) →
        (v.copyFlush c'' true).stop = none → let z := (v.copyFlush c'' true).s
        Ends .copyComplete s fun t =>
          (t.cluster k).copies = (z.cluster k).copies.eraseIdx 0 ∧
          (t.getHart c.hart).e1.map (·.word) = (z.getHart c.hart).e1.map (·.word) ++ [c.id.zeroExtend 64] ∧
          (t.getHart c.hart).latch.getLsbD 0 = true ∧ (t.getHart c.hart).pendingUser = (z.getHart c.hart).pendingUser ++ item ∧
          (quiet z c → t.homeBytes (keySlot c.ctx) (c.blockPa + 0x28) 8 = toBytes 8 c'.src.total)))

/-- A selector with a reserved bit set raises ILLEGAL and a misaligned template MISALIGNED. Where the reservation is refused x[d]
gets the status alone, after the release and the read of the template. A hart that stands at a klaunch whose record is
published completes it: x[d] gets the record index << 8 and the record is kept no longer. KLAUNCH_POLL for a record that is
written and whose index is TAIL sets TAIL to the next index at home and marks the record published; where TAIL is another,
TAIL stays. (Where the rules leave it open it rests on the model's choices, log entries 82.) (R349, R350) -/
def Obligations.KernelLaunch : Prop :=
  ∀ (s : State) (d a b : Reg), let sel := s.xr b; let good := sel.toNat / 2 ^ 32 = 0 ∧ sel.toNat / 2 ^ 7 % 2 ^ 9 = 0
    (¬ good → Settled s → Ends (.klaunch d a b) s fun t => TrapsTo s t tcIllegal ((encode (.klaunch d a b)).zeroExtend 64)) ∧
    (good → s.hart.heldHere = none → (s.xr a).toNat % 64 ≠ 0 → Settled s → Ends (.klaunch d a b) s fun t => TrapsTo s t tcMisaligned (s.xr a)) ∧
    (∀ ps t u image w v st, good → s.hart.heldHere = none → (s.xr a).toNat % 64 = 0 → templatePlaces (s.xr a) 4 s = .ok ps t →
      doRelease 3#2 0xFFFE#16 t = .ok () u → blockRead (s.xr a) ps u = .ok image w →
      (w.klaunchView sel).any (fun x => w.queueWaits x (sel.toNat % 64)) = false → w.klaunchReserve sel image = (v, .error st) → st < 256 →
      Ends (.klaunch d a b) s fun x => Gets v x d (BitVec.ofNat 64 st) ∧ x.hart.pc = v.hart.pc + 4#64 ∧ x.m = v.m) ∧
    (∀ k ctrl slot image p, good → s.hart.held = [{ pc := s.hart.pc, sup := s.hart.sup, inh := s.hart.irq.inh, kept := .klaunch k ctrl slot image 2 p }] →
      Ends (.klaunch d a b) s fun t => Gets s t d (k <<< 8) ∧ t.hart.held = [] ∧ t.hart.pc = s.hart.pc + 4#64 ∧ t.m = s.m) ∧
    (∀ r k ctrl slot image, let h := s.msg.hart.toNat; let key := s.klaunchSlot h
      (s.getHart h).held = [r] → r.kept = .klaunch k ctrl slot image 1 true → (ctrl + 8) % 8 = 0 → ctrl + 8 < 2 ^ 52 → QuietHome s key (ctrl + 8) →
      (s.slice (s.homeKey (ctrl + 8))).parks = [] →
      (s.homeRead64 key (ctrl + 8) = k → Ends .klaunchPoll s fun t => t.homeRead64 key (ctrl + 8) = k + 1#64 ∧
        (t.getHart h).held = [{ r with kept := .klaunch k ctrl slot image 2 false }]) ∧
      (s.homeRead64 key (ctrl + 8) ≠ k → Ends .klaunchPoll s fun t => t.homeRead64 key (ctrl + 8) = s.homeRead64 key (ctrl + 8) ∧
        (t.getHart h).held = [r]))

/-- For a placed hart: WATCH_DISARM leaves no watch of it anywhere and EN 0. Where its address translates to HBM, WATCH_ARM leaves
its one watch at the home slice of the word, with WATCH.EN set; where 256 watches of others stand there it sets the watch bit
of the latch and EN stays 0 (that it gives up its earlier watch all the same is the model's, log entry 47). WATCH_HIT removes
the watches of the word and sends one arrival per hart of this device; WATCH_HIT_ARRIVAL sets the watch bit and clears EN, in
that hart alone. VL_WRITE of a supervisor's hart sets VL to the value, at most VCAP. (Where the rules leave it open it rests
on the model's choices, log entries 9, 45 and 47.) (R136, R137, R330, R369) -/
def Obligations.WatchesArmAndFire : Prop :=
  (∀ s : State, let h := s.msg.hart.toNat; let x := s.getHart h
    x.phase = .running →
    (Ends .watchDisarm s fun t => (∀ n, ∀ w ∈ (t.slice n).watches, w.2 ≠ h) ∧ t.m.mem = s.m.mem ∧
      HartsOnly s t h fun x => { x with user := { x.user with watchEn := false, watchVa := onlyBits x.user.watchVa 3 45 } }) ∧
    (∀ pa attr t, let va := ((onlyBits s.msg.value 3 45).extractLsb' 0 48).signExtend 64
      inPlateWindow x.user.pwb va = false → translate .data .load va (s.switchTo h) = .ok (pa, attr) t →
      t.target t.hart.ctx t.hart.sup pa 8 = .hbm → t.cur = h →
      let others := ((t.slice (t.homeKey pa)).watches.filter fun w => decide (w.2 ≠ h))
      (others.length < 256 → Ends .watchArm s fun u => (u.slice (t.homeKey pa)).watches = others ++ [(pa, h)] ∧
        (u.getHart h).user.watchEn = true ∧ (u.getHart h).user.watchVa = onlyBits s.msg.value 3 45 ∧ (u.getHart h).latch = t.hart.latch) ∧
      (256 ≤ others.length → Ends .watchArm s fun u => (u.slice (t.homeKey pa)).watches = others ∧ (u.getHart h).user.watchEn = false ∧
        (u.getHart h).latch = t.hart.latch ||| 0b0000100#7)) ∧
    (x.sup = true → Ends .vlWrite s fun t => t.m = s.m ∧
      HartsOnly s t h fun x => { x with vec := { x.vec with vl := BitVec.ofNat 14 (min (s.msg.value.toNat % 2 ^ 14) x.vec.vcap) } })) ∧
  (∀ s : State, let pa := s.msg.addr.toNat
    pa < 2 ^ 52 → isHbm (laOf pa) = true → pa % 8 = 0 → s.m.agentWatches = [] →
    Ends .watchHit s fun t => (t.slice (s.homeKey pa)).watches = (s.slice (s.homeKey pa)).watches.filter (fun w => !watchHit pa 8 w.1) ∧
      t.inbox = s.inbox ++ (((s.slice (s.homeKey pa)).watches.filter fun w => watchHit pa 8 w.1 && decide (w.2 < 2048)).map fun w =>
        (.watchHitArrival, { hart := BitVec.ofNat 11 w.2 })) ∧ SameHarts s t ∧ t.m.mem = s.m.mem) ∧
  (∀ s : State, Ends .watchHitArrival s fun t =>
    OnlyHart s t s.msg.hart.toNat fun x => { x with latch := x.latch ||| 0b0000100#7, user := { x.user with watchEn := false } })

/-- HBM_ISSUE with requests that may go takes the first that hits its open row, or the first where none does; its row is open and
it is in flight, unless its bank owes 8 refreshes, one of which comes first. HBM_DATA_RETURN ends the first request in flight,
and the slice's wait for the line: a corrected read is counted, a read that fails to decode is issued again, a write or a read
of a poisoned line just ends. HBM_READ_RETRY waits while its bank is blocked or has an alert to serve, and 8 owed refreshes
come first; else it counts a transient, or poisons the line, sets HCPOIS to it and counts LAST. ROW_CLOSE_TIMEOUT closes a row
that no queued request names. REQUEST_AGE_EXPIRY ages the first request of a line. (Where the rules leave it open it rests on
the model's choices, log entries 9, 93, 94 and 95.) (R52, R53, R61, R62) -/
def Obligations.ChannelRequests : Prop :=
  ∀ s : State, let key := s.msg.die.toNat * 32 + s.msg.chan.toNat; let c := s.channel key
    (c.busy = true ∨ c.ready = [] → exec .hbmIssue s = .next s) ∧
    (∀ r l m, c.busy = false → c.ready = l ++ r :: m → ((∀ x ∈ l, c.rowHit x = false) ∧ c.rowHit r = true ∨ (l = [] ∧ ∀ x ∈ c.ready, c.rowHit x = false)) →
      ((c.bank r.bank).owed < 8 → Ends .hbmIssue s fun t => SameHarts s t ∧ t.m.mem = s.m.mem ∧
        (t.channel key).queue = c.queue.erase r ∧ (t.channel key).inFlight = c.inFlight ++ [r] ∧
        (t.channel key).bank r.bank = { c.bank r.bank with openRow := some r.row }) ∧
      (8 ≤ (c.bank r.bank).owed → Ends .hbmIssue s fun t => (t.channel key).queue = c.queue ∧
        (t.channel key).bank r.bank = { c.bank r.bank with owed := (c.bank r.bank).owed - 1, blocked := true, openRow := none })) ∧
    (∀ r l, c.inFlight = r :: l → let ln := (s.hbmPa r.la) / 64
      (r.write = true ∨ s.isPoisoned ln = true ∨ s.msg.kind = 0#8 → Ends .hbmDataReturn s fun t =>
        t.channel key = { c with inFlight := l } ∧ (∀ k, ∀ x ∈ (t.slice k).lines, x.line = ln → (k = s.homeKey (s.hbmPa r.la) ∨ x.rlc = true) → x.fill = false) ∧ t.m.mem = s.m.mem) ∧
      (r.write = false → s.isPoisoned ln = false → s.msg.kind = 1#8 → Ends .hbmDataReturn s fun t =>
        (t.channel key).inFlight = l ∧ (t.channel key).corr = satCount c.corr ∧ (t.channel key).trans = c.trans ∧
        (∀ k, ∀ x ∈ (t.slice k).lines, x.line = ln → (k = s.homeKey (s.hbmPa r.la) ∨ x.rlc = true) → x.fill = false) ∧ t.m.mem = s.m.mem) ∧
      (r.write = false → s.isPoisoned ln = false → 2 ≤ s.msg.kind.toNat → Ends .hbmDataReturn s fun t =>
        t = s.setChannel key { c with inFlight := l, retry := c.retry ++ [r] })) ∧
    (∀ r l, c.retry = r :: l → (c.bank r.bank).blocked = false → (c.busy = true ∨ (c.bank r.bank).alerts = 0) → (c.bank r.bank).owed < 8 →
      s.isPoisoned ((s.hbmPa r.la) / 64) = false → s.underPoison ((s.hbmPa r.la) / 64) = false → let ln := (s.hbmPa r.la) / 64
      (s.msg.kind.toNat < 2 → Ends .hbmReadRetry s fun t => (t.channel key).retry = l ∧ (t.channel key).trans = satCount c.trans ∧
        (t.channel key).corr = c.corr ∧ t.m.poisoned = s.m.poisoned ∧ t.m.mem = s.m.mem) ∧
      (2 ≤ s.msg.kind.toNat → dieOf (laOf (s.hbmPa r.la)) * 32 + channelOf (laOf (s.hbmPa r.la)) = key → Ends .hbmReadRetry s fun t =>
        (t.channel key).retry = l ∧ (t.channel key).last = satCount c.last ∧ (t.channel key).poisValid = true ∧
        (t.channel key).poisLine = BitVec.ofNat 36 (laOf (s.hbmPa r.la) / 64) ∧ t.isPoisoned ln = true ∧ t.m.mem = s.m.mem)) ∧
    (∀ r l, c.retry = r :: l →
      (((c.bank r.bank).blocked = true ∨ (c.busy = false ∧ (c.bank r.bank).alerts ≠ 0)) →
        exec .hbmReadRetry s = .next (s.after [(.hbmReadRetry, s.msg)])) ∧
      ((c.bank r.bank).blocked = false → (c.busy = true ∨ (c.bank r.bank).alerts = 0) → 8 ≤ (c.bank r.bank).owed → Ends .hbmReadRetry s fun t =>
        (t.channel key).retry = c.retry ∧ (t.channel key).bank r.bank =
          { c.bank r.bank with owed := (c.bank r.bank).owed - 1, blocked := true, openRow := none } ∧
        t.inbox = s.inbox ++ [(.bankBlockEnd, bankMsg key r.bank), (.hbmReadRetry, s.msg)])) ∧
    (let b := s.msg.bank.toNat
     ((∃ r ∈ c.queue, r.bank = b ∧ (c.bank b).openRow = some r.row) → Ends .rowCloseTimeout s fun t => (t.channel key) = c) ∧
     ((∀ r ∈ c.queue, ¬ (r.bank = b ∧ (c.bank b).openRow = some r.row)) → Ends .rowCloseTimeout s fun t =>
       (t.channel key).bank b = { c.bank b with openRow := none } ∧ (t.channel key).queue = c.queue ∧ (∀ k, k ≠ b → (t.channel key).bank k = c.bank k))) ∧
    (∀ l r m, c.queue = l ++ r :: m → r.line = s.msg.addr.toNat / 64 → (∀ x ∈ l, x.line ≠ s.msg.addr.toNat / 64) → Ends .requestAgeExpiry s fun t =>
      t = s.setChannel key { c with queue := l ++ { r with aged := true } :: m })

/-- HCRATE_CEIL_WRITE sets CEIL, 3 leaves it; RATE_LIMIT_CHANGE sets LIMIT; a wanted rate that differs is followed by RATE_SWITCH,
which sets BUSY and waits for the commands that are under way; RATE_SWITCH_COMPLETE once they are finished pays the owed
refreshes, closes the banks, sets the rate and clears BUSY. REFRESH_DUE is postponed while a switch is in progress, the bank
is blocked or requests for it wait, at most 8 times, else it blocks the bank, as soon as it can; OWED_REFRESH_PAID blocks an
idle bank that owes; ACTIVATION_ALERT is latched under a stall or a block, else served: counted, the bank blocked.
BANK_BLOCK_END frees the bank. TEMPERATURE_REPORT sets the die's report. A scrub counts a corrected line, and poisons one that
fails twice and that no slice holds. KEY_SLOT_LOAD takes the new key once no request that came before it names the slot.
(Where the rules leave it open it rests on the model's choices, log entries 9, 94 and 110.) (R54, R55, R56, R57, R59, R60,
R63, R65, R469) -/
def Obligations.RatesRefreshesAndAlerts : Prop :=
  ∀ s : State, let key := s.msg.die.toNat * 32 + s.msg.chan.toNat; let c := s.channel key; let b := s.msg.bank.toNat; let x := c.bank b
    (s.msg.value.toNat % 4 = 3 → exec .hcrateCeilWrite s = .next s) ∧
    (s.msg.value.toNat % 4 ≠ 3 → Ends .hcrateCeilWrite s fun t => t.channel key = { c with ceil := s.msg.value.setWidth 2 } ∧ SameHarts s t ∧
      t.m.mem = s.m.mem ∧ t.inbox = s.inbox ++ (if (t.channel key).wanted ≠ c.cur ∧ c.busy = false then [(.rateSwitch, chanMsg key)] else [])) ∧
    (s.msg.value.toNat < 3 → Ends .rateLimitChange s fun t => t.channel key = { c with limit := s.msg.value.setWidth 2 } ∧ SameHarts s t ∧
      t.m.mem = s.m.mem ∧ t.inbox = s.inbox ++ (if (t.channel key).wanted ≠ c.cur ∧ c.busy = false then [(.rateSwitch, chanMsg key)] else [])) ∧
    (3 ≤ s.msg.value.toNat → exec .rateLimitChange s = .next s) ∧
    (c.busy = true ∨ c.wanted = c.cur → exec .rateSwitch s = .next s) ∧
    (c.busy = false → c.wanted ≠ c.cur → Ends .rateSwitch s fun t => (t.channel key).busy = true ∧ (t.channel key).cur = c.cur ∧
      (t.channel key).goal = c.wanted ∧ (t.channel key).banks = c.banks ∧ (t.channel key).queue = c.queue ∧
      t.inbox = s.inbox ++ (if c.quiet = true then [(.rateSwitchComplete, chanMsg key)] else [])) ∧
    (c.busy = true → c.inFlight = [] → c.retry = [] → (∀ k ∈ c.banks, k.2.alerts = 0 ∧ k.2.blocked = false) → Ends .rateSwitchComplete s fun t =>
      t.channel key = { c with busy := false, cur := c.goal, banks := c.banks.map fun k => (k.1, { k.2 with owed := 0, openRow := none }) } ∧
      t.inbox = s.inbox ++ (if c.wanted ≠ c.goal then [(.rateSwitch, chanMsg key)] else [])) ∧
    (c.busy = true → c.quiet = false → exec .rateSwitchComplete s = .next s) ∧
    ((c.busy = true ∨ c.wants b = true ∨ x.blocked = true) → x.owed < 8 → Ends .refreshDue s fun t =>
      (t.channel key).bank b = { x with owed := x.owed + 1 } ∧ t.inbox = s.inbox) ∧
    ((c.busy = true ∨ x.blocked = true) → 8 ≤ x.owed → exec .refreshDue s = .next (s.after [(.refreshDue, bankMsg key b)])) ∧
    (c.busy = false → x.blocked = false → (c.wants b = false ∨ 8 ≤ x.owed) → Ends .refreshDue s fun t =>
      (t.channel key).bank b = { x with blocked := true, openRow := none } ∧ t.inbox = s.inbox ++ [(.bankBlockEnd, bankMsg key b)]) ∧
    (c.busy = false → c.wants b = false → x.blocked = false → x.owed ≠ 0 → Ends .owedRefreshPaid s fun t =>
      (t.channel key).bank b = { x with owed := 0, blocked := true, openRow := none } ∧ t.inbox = s.inbox ++ [(.bankBlockEnd, bankMsg key b)]) ∧
    (c.busy = true ∨ x.blocked = true → Ends .activationAlert s fun t => (t.channel key).bank b = { x with alerts := x.alerts + 1 } ∧
      (t.channel key).alerts = c.alerts) ∧
    (c.busy = false → x.blocked = false → Ends .activationAlert s fun t => (t.channel key).alerts = c.alerts + 1#32 ∧
      (t.channel key).bank b = { x with owed := if 8 ≤ x.owed then 0 else x.owed, blocked := true, openRow := none }) ∧
    (c.busy = false → x.alerts = 0 → Ends .bankBlockEnd s fun t => (t.channel key).bank b = { x with blocked := false } ∧ t.inbox = s.inbox) ∧
    (c.busy = true → Ends .bankBlockEnd s fun t => (t.channel key).bank b = { x with blocked := false } ∧
      t.inbox = s.inbox ++ (if (t.channel key).quiet = true then [(.rateSwitchComplete, chanMsg key)] else [])) ∧
    (c.busy = false → x.alerts ≠ 0 → Ends .bankBlockEnd s fun t => (t.channel key).alerts = c.alerts + 1#32 ∧
      (t.channel key).bank b = { x with owed := (if 8 ≤ x.owed then 0 else x.owed), alerts := x.alerts - 1, blocked := true, openRow := none } ∧
      t.inbox = s.inbox ++ [(.bankBlockEnd, bankMsg key b)]) ∧
    (Ends .temperatureReport s fun t => t.m.hot.get false s.msg.die.toNat = s.msg.flag ∧
      ∀ d, d ≠ s.msg.die.toNat → t.m.hot.get false d = s.m.hot.get false d) ∧
    (∀ la, la = s.msg.addr.toNat → isHbm la = true → let k := dieOf la * 32 + channelOf la
      (s.channel k).mayScrub la = true → s.isPoisoned (s.hbmPa la / 64) = false → s.underPoison (s.hbmPa la / 64) = false →
      (s.msg.kind = 0#8 → exec .patrolScrubRead s = .next s) ∧
      (s.msg.kind = 1#8 → Ends .patrolScrubRead s fun t => (t.channel k).corr = satCount (s.channel k).corr ∧ t.m.mem = s.m.mem) ∧
      (2 ≤ s.msg.kind.toNat → s.msg.flag = true → Ends .patrolScrubRead s fun t => (t.channel k).trans = satCount (s.channel k).trans ∧ t.m.mem = s.m.mem) ∧
      (2 ≤ s.msg.kind.toNat → s.msg.flag = false → sliceFind (s.hbmPa la / 64) false (s.slice (s.homeKey (s.hbmPa la))).lines = none →
        Ends .patrolScrubRead s fun t => t.isPoisoned (s.hbmPa la / 64) = true ∧ t.m.mem = s.m.mem)) ∧
    (let slot := s.msg.station.toNat
     (c.names slot = true → exec .keySlotLoad s = .next (s.after [(.keySlotLoad, { chanMsg key with station := s.msg.station })])) ∧
     (c.names slot = false → (s.trust.busy = false ∨ ∃ y ∈ s.m.chanKeys, y.1 % 16 = slot ∧ y.1 ≠ key * 16 + slot) → Ends .keySlotLoad s fun t => (∀ y ∈ t.m.chanKeys, y.1 ≠ key * 16 + slot) ∧
       (∀ y ∈ s.m.chanKeys, y.1 ≠ key * 16 + slot → y ∈ t.m.chanKeys) ∧ SameHarts s t ∧ t.m.mem = s.m.mem))

/-- SLICE_REQUEST at an empty slice allocates the line: a write marks its words valid, dirty at home, and leaves the bytes at
home; a read fetches it, from HBM at home by a request queued at the line's channel, through the home slice for an RLC line. A
read of a whole line keeps it, fetches nothing and is answered with the words asked for as they stand there; a read that meets
the line's fill, or finds words missing, which it fetches, waits; an engine's pin is counted; where 8 lines of the set are
pinned another pin waits with its request. A corrected error of the slice's arrays is counted. SLICE_PIN_RELEASE takes one pin
off and sends what waits again. LINE_REQUEST answers the words asked for as they stand at a quiet home. Of an LA that is not
HBM or not of the slice nothing comes. (Where the rules leave it open it rests on the model's choices, log entries 9, 12, 13
and 108.) (R72, R73, R76, R77, R79, R97, R101) -/
def Obligations.SlicesServeTheirRequests : Prop :=
  ∀ s : State, let la := s.msg.addr.toNat; let k := s.msg.die.toNat * 16 + s.msg.slice.toNat; let rlc := decide (dieOf la ≠ s.msg.die.toNat)
    let ln := s.ownPa la / 64; let slot := keySlot s.msg.slot; let m : BitVec 16 := s.msg.mask.setWidth 16
    let data := (s.msg.bytes ++ List.replicate 64 0#8).take 64
    let word := fun i => if rlc = true then s.pointWord slot s.msg.die.toNat ln i else s.homeWord slot ln i
    ((isHbm la = false ∨ sliceOf la ≠ s.msg.slice.toNat) → exec .sliceRequest s = .next s ∧ exec .slicePinRelease s = .next s) ∧
    (isHbm la = true → sliceOf la = s.msg.slice.toNat →
      (s.msg.kind = 1#8 → Ends .sliceRequest s fun t => t.m.arrayCorr.get 0 s.msg.die.toNat = s.m.arrayCorr.get 0 s.msg.die.toNat + 1) ∧
      (s.msg.kind = 0#8 → (s.slice k).lines = [] →
        (s.msg.flag = true → s.m.agentWatches = [] → Mem.wf s.m.mem = true → s.protectedWords ln = 0#16 → Ends .sliceRequest s fun t => (t.slice k).lines =
            [{ line := ln, rlc := rlc, wv := m, wd := if rlc = true then 0#16 else m, psn := s.msg.flag3, pin := if s.msg.flag2 then 1 else 0, fill := false, stale := false, data := data }] ∧
          (∀ i, i < 16 → m.getLsbD i = true → t.homeBytes slot (ln * 64 + 4 * i) 4 = (data.drop (4 * i)).take 4) ∧
          t.inbox = s.inbox ∧ t.m.channels = s.m.channels) ∧
        (s.msg.flag = false → Ends .sliceRequest s fun t => (∃ x, (t.slice k).lines = [x] ∧ x.line = ln ∧ x.rlc = rlc ∧ x.wv = 0#16 ∧ x.fill = true) ∧
          (t.slice k).waiting = (s.slice k).waiting ++ [{ s.msg with flag2 := false }] ∧
          (rlc = false → (t.channel (dieOf la * 32 + channelOf la)).queue = (s.channel (dieOf la * 32 + channelOf la)).queue ++
            [{ la := la / 64 * 64, write := false, slot := slot, aged := false, late := s.m.chanKeys.any fun y => decide (y.1 = (dieOf la * 32 + channelOf la) * 16 + slot) }] ∧ t.inbox = s.inbox) ∧
          (rlc = true → t.m.channels = s.m.channels ∧ t.inbox = s.inbox ++ [(.sliceRequest,
            { die := BitVec.ofNat 3 (dieOf la), slice := s.msg.slice, slot := s.msg.slot, addr := BitVec.ofNat 64 (la / 64 * 64), mask := 0xFFFF#64 })]))) ∧
      (∀ x, s.msg.kind = 0#8 → sliceFind ln rlc (s.slice k).lines = some x → s.msg.flag = false → x.wv = 0xFFFF#16 →
        (x.fill = true → Ends .sliceRequest s fun t => t = s.setSlice k { s.slice k with waiting := (s.slice k).waiting ++ [s.msg] }) ∧
        (s.msg.flag2 = false → x.fill = false → Ends .sliceRequest s fun t => t.m.channels = s.m.channels ∧
          (rlc = true → t.inbox = s.inbox) ∧ sliceFind ln rlc (t.slice k).lines = some { x with pin := min 8 x.pin } ∧
          t.fab.answer.refused = false ∧ ((∀ i, i < 16 → (word i).1.length = 4) → ∀ i, i < 16 → m.getLsbD i = true →
            (t.fab.answer.bytes.drop (4 * i)).take 4 = (word i).1)) ∧
        (s.msg.flag2 = true → x.pin = 0 → 8 ≤ (s.slice k).pinned ln → Ends .sliceRequest s fun t =>
          t = s.setSlice k { s.slice k with waiting := (s.slice k).waiting ++ [s.msg] }) ∧
        (s.msg.flag2 = true → x.fill = false → (x.pin ≠ 0 ∨ (s.slice k).pinned ln < 8) → Ends .sliceRequest s fun t =>
          sliceFind ln rlc (t.slice k).lines = some { x with pin := min 8 (x.pin + 1) })) ∧
      (∀ x, s.msg.kind = 0#8 → sliceFind ln rlc (s.slice k).lines = some x → s.msg.flag = false → s.msg.flag2 = false → x.fill = false → m &&& ~~~x.wv ≠ 0#16 →
        Ends .sliceRequest s fun t => sliceFind ln rlc (t.slice k).lines = some { x with pin := min 8 x.pin, fill := true } ∧
          (t.slice k).waiting = (s.slice k).waiting ++ [s.msg] ∧ (rlc = false → t.inbox = s.inbox) ∧ (rlc = true → t.m.channels = s.m.channels)) ∧
      (Ends .slicePinRelease s fun t => (t.slice k).waiting = [] ∧
        (t.slice k).lines = (s.slice k).lines.map (fun x => if x.line = ln then { x with pin := x.pin - 1 } else x) ∧
        t.inbox = s.inbox ++ (s.slice k).waiting.map (fun w => (.sliceRequest, w)) ∧ t.m.mem = s.m.mem)) ∧
    (∀ l, l = s.msg.addr.toNat / 64 → s.msg.addr.toNat < 2 ^ 52 → QuietHome s slot (l * 64) → s.rlcKey s.msg.die.toNat (l * 64) = none → s.homeWaits slot s.msg.die.toNat (l * 64) = false → Ends .lineRequest s fun t =>
      t.fab.answer.refused = false ∧ t.fab.answer.poisoned = false ∧ t.fab.answer.bytes.length = 64 ∧
      ∀ i, i < 16 → (t.fab.answer.bytes.drop (4 * i)).take 4 = (if m.getLsbD i then s.homeBytes slot (l * 64 + 4 * i) 4 else List.replicate 4 0#8))

/-- Of a header whose fixed fields are wrong, or at a slice that its SLICES does not name, nothing comes; one that names a
reserved key slot is refused. A read header, all of whose positions at this slice are homed on this die, is answered with
their codes packed at element width in ascending order, and one completion beat with their number goes to the requesting
cluster. The first header of a segment opens it with the number of its active positions. A read of a segment homed on another
device is served at once for all its active positions, and ended by one beat. A header whose lines wait below the caches comes
again. SEGMENT_COMPLETION_BEAT takes the number off the segment of its tag, which is complete at zero. (Where the rules leave
it open it rests on the model's choices, log entries 9 and 96.) (R64, R98, R99, R100, R101) -/
def Obligations.VectorHeadersAndBeats : Prop :=
  (∀ s : State, vhead s.msg.words = none → exec .vectorHeader s = .next s) ∧
  (∀ (s : State) (h : VHead), vhead s.msg.words = some h → bitAt h.slices s.msg.slice.toNat = false → exec .vectorHeader s = .next s) ∧
  (∀ (s : State) (h : VHead), vhead s.msg.words = some h → bitAt h.slices s.msg.slice.toNat = true → 8 < h.key → Ends .vectorHeader s fun t =>
    t.fab.answer = { bytes := [], poisoned := false, refused := true } ∧ t.m = s.m ∧ t.inbox = s.inbox ∧ SameHarts s t) ∧
  (∀ (s : State) (h : VHead), vhead s.msg.words = some h → bitAt h.slices s.msg.slice.toNat = true → h.key ≤ 8 → h.op = 1 → s.isRemote h.pa = false →
    let die := s.msg.die.toNat; let l := h.mine s.fab.dev.toNat s.msg.slice.toNat
    s.headWaits h die s.msg.slice.toNat = false → (∀ x ∈ l, dieOf (laOf x.2) = die) → s.msg.flag = false → Ends .vectorHeader s fun t =>
      t.fab.answer.bytes = packCodes h.width (l.map fun x => h.code x.1 (s.engineReads h.key die x.2 h.bytes).1) ∧
      t.inbox = s.inbox ++ [(.segmentCompletionBeat,
        { die := BitVec.ofNat 3 h.die, unit := BitVec.ofNat 32 h.cluster, value := BitVec.ofNat 64 h.tag, value2 := BitVec.ofNat 64 l.length })] ∧
      t.m = s.m ∧ SameHarts s t) ∧
  (∀ (s : State) (h : VHead), vhead s.msg.words = some h → bitAt h.slices s.msg.slice.toNat = true → h.key ≤ 8 → h.op = 1 → s.msg.flag = true → h.dev = s.fab.dev.toNat →
    s.isRemote h.pa = false → h.mine s.fab.dev.toNat s.msg.slice.toNat = [] → Ends .vectorHeader s fun t =>
      (t.cluster (h.die * 16 + h.cluster)).segments =
        (h.tag, ((List.range (h.count + 1)).filter fun j => !h.masked || (h.masks.getD (j / 64) 0#64).getLsbD (j % 64)).length) ::
          (s.cluster (h.die * 16 + h.cluster)).segments) ∧
  (∀ (s : State) (h : VHead), vhead s.msg.words = some h → bitAt h.slices s.msg.slice.toNat = true → h.key ≤ 8 → h.op = 1 → s.isRemote h.pa = true →
    (h.dev ≠ s.fab.dev.toNat → exec .vectorHeader s = .next s) ∧
    (h.dev = s.fab.dev.toNat → (∃ ln ∈ h.lines, s.homeWaits h.key s.msg.die.toNat (ln * 64) = true) →
      exec .vectorHeader s = .next (s.after [(.vectorHeader, s.msg)])) ∧
    (h.dev = s.fab.dev.toNat → (∀ ln ∈ h.lines, s.homeWaits h.key s.msg.die.toNat (ln * 64) = false) → Ends .vectorHeader s fun t =>
      t.inbox = s.inbox ++ [(.segmentCompletionBeat,
        { die := BitVec.ofNat 3 h.die, unit := BitVec.ofNat 32 h.cluster, value := BitVec.ofNat 64 h.tag, value2 := BitVec.ofNat 64 h.places.length })] ∧
      (t.cluster (h.die * 16 + h.cluster)).segments = (h.tag, h.places.length) :: (s.cluster (h.die * 16 + h.cluster)).segments ∧
      t.fab.answer.refused = false ∧ t.m = s.m ∧ SameHarts s t)) ∧
  (∀ (s : State) (h : VHead), vhead s.msg.words = some h → bitAt h.slices s.msg.slice.toNat = true → h.key ≤ 8 → s.isRemote h.pa = false →
    s.headWaits h s.msg.die.toNat s.msg.slice.toNat = true → exec .vectorHeader s = .next (s.after [(.vectorHeader, s.msg)])) ∧
  (∀ (s : State) (tag n : Nat), s.msg.unit.toNat < 16 → let k := s.msg.die.toNat * 16 + s.msg.unit.toNat
    (s.cluster k).segments = [(tag, n)] → s.msg.value.toNat % 65536 = tag → Ends .segmentCompletionBeat s fun t =>
      (t.cluster k).segments = (if s.msg.value2.toNat < n then [(tag, n - s.msg.value2.toNat)] else []) ∧
      (t.cluster k).cc = (s.cluster k).cc ∧ t.m.mem = s.m.mem ∧ SameHarts s t)

/-- REGISTRATION at a home with no registrations of the slice enters the words for the hart, counts an acknowledgement and sends
it; its arrival counts one down. REVOCATION clears the words in the L1D and the cluster cache of the hart and nothing else;
with write-back the owner's values stand at a quiet home afterwards. WRITE_BACK puts the words of its mask home and no others.
CACHE_FILL_RETURN of a stale fill answers the access and installs nothing; a corrected array error is counted, an error in the
L1I drops its line; into empty caches it makes the line valid with the bytes at home. A forwarded read is answered with the
owner's words, and what it no longer holds goes back to the point, which serves it again. RLC_ACQUIRE_INVALIDATION drops the
clean words of the RLC lines of its slice, marks their fills stale, and is acknowledged. A fill whose line waits below the
caches comes again. (Where the rules leave it open it rests on the model's choices, log entries 9, 106, 108 and 116.) (R69,
R74, R75, R79, R121, R122, R123, R124, R126, R127, R128) -/
def Obligations.CoherenceMessages : Prop :=
  (∀ s : State, let h := s.msg.hart.toNat; let pa := s.msg.addr.toNat; let ln := pa / 64; let m : BitVec 16 := s.msg.mask.setWidth 16
    let slot := keySlot (s.getHart h).ctx
    pa < 2 ^ 52 → isHbm (laOf pa) = true →
    (s.msg.flag2 = false → s.rlcKey (dieOfHart h) (ln * 64) = none → QuietHome s slot (ln * 64) → Ends .registration s fun t =>
      (t.slice (s.homeKey (ln * 64))).regs = [{ line := ln, dev := s.fab.dev, hart := h, mask := m, slot := slot }] ∧
      (t.getHart h).acks.reg = (s.getHart h).acks.reg + 1 ∧ t.inbox = s.inbox ++ [(.registrationAck, { hart := s.msg.hart })] ∧ t.m.mem = s.m.mem) ∧
    (Ends .revocation s fun t => SameHarts s t ∧ t.m.mem = s.m.mem ∧
      (∀ l ∈ (t.core (coreOf h)).l1d ++ (t.cluster (clusterOf h)).cc, l.line = ln → (l.wv ||| l.wd ||| l.wo) &&& m = 0#16) ∧
      (∀ l ∈ (s.core (coreOf h)).l1d, l.line ≠ ln → l ∈ (t.core (coreOf h)).l1d) ∧ (∀ c, c ≠ coreOf h → t.core c = s.core c)) ∧
    (s.msg.flag = false → QuietHome s slot (ln * 64) → (∀ j v q, s.ownerWord h ln j = some (v, q) → v.length = 4) → Ends .revocationWithWriteBack s fun t =>
      (∀ l ∈ (t.core (coreOf h)).l1d ++ (t.cluster (clusterOf h)).cc, l.line = ln → (l.wv ||| l.wd ||| l.wo) &&& m = 0#16) ∧
      (∀ i, i < 16 → m.getLsbD i = true → ∀ w p, s.ownerWord h ln i = some (w, p) → t.homeBytes slot (ln * 64 + 4 * i) 4 = w) ∧
      (∀ i, i < 16 → m.getLsbD i = false → t.homeBytes slot (ln * 64 + 4 * i) 4 = s.homeBytes slot (ln * 64 + 4 * i) 4)) ∧
    (∀ key, key = keySlot s.msg.slot → s.msg.bytes.length = 64 → s.rlcKey s.msg.die.toNat (ln * 64) = none → QuietHome s key (ln * 64) →
      s.homeWaits key s.msg.die.toNat (ln * 64) = false → Ends .writeBack s fun t => ∀ i, i < 16 → t.homeBytes key (ln * 64 + 4 * i) 4 =
        (if m.getLsbD i then (s.msg.bytes.drop (4 * i)).take 4 else s.homeBytes key (ln * 64 + 4 * i) 4)) ∧
    (s.msg.bytes.length ≠ 64 → exec .writeBack s = .next s) ∧
    (s.homeWaits slot (dieOfHart h) (ln * 64) = true → exec .cacheFillReturn s = .next (s.after [(.cacheFillReturn, s.msg)])) ∧
    (s.homeWaits slot (dieOfHart h) (ln * 64) = false → s.msg.kind = 0#8 → s.msg.flag2 = true → Ends .cacheFillReturn s fun t => t.m = s.m ∧ SameHarts s t ∧ t.inbox = s.inbox ∧
      t.fab.answer.bytes = (s.pointLine slot (dieOfHart h) ln).1 ∧ t.fab.answer.refused = false) ∧
    (s.homeWaits slot (dieOfHart h) (ln * 64) = false → s.msg.kind = 1#8 → Ends .cacheFillReturn s fun t => t.m.arrayCorr.get 0 (dieOfHart h) = s.m.arrayCorr.get 0 (dieOfHart h) + 1) ∧
    (s.homeWaits slot (dieOfHart h) (ln * 64) = false → s.msg.kind = 3#8 → Ends .cacheFillReturn s fun t => ∀ x ∈ (t.core (coreOf h)).l1i, x.line ≠ ln) ∧
    (s.msg.kind = 0#8 → s.msg.flag2 = false → s.msg.flag = true → (s.core (coreOf h)).l1d = [] → (s.cluster (clusterOf h)).cc = [] → QuietHome s slot (ln * 64) →
      s.rlcKey (dieOfHart h) (ln * 64) = none → s.homeWaits slot (dieOfHart h) (ln * 64) = false → Ends .cacheFillReturn s fun t => ∃ l, (t.core (coreOf h)).l1d = [l] ∧ l.line = ln ∧
        l.rid = s.msg.region ∧ l.wv = 0xFFFF#16 ∧ l.wd = 0#16 ∧ l.wo = 0#16 ∧ l.data = s.homeBytes slot (ln * 64) 64 ∧ l.psn = false) ∧
    ((∀ i, i < 16 → m.getLsbD i = true → (s.ownerWord h ln i).isSome = true) → Ends .forwardedRead s fun t =>
      t.inbox = s.inbox ∧ t.m = s.m ∧ SameHarts s t ∧ ∀ i w p, i < 16 → m.getLsbD i = true → (∀ j v q, s.ownerWord h ln j = some (v, q) → v.length = 4) →
        s.ownerWord h ln i = some (w, p) → (t.fab.answer.bytes.drop (4 * i)).take 4 = w) ∧
    ((∀ i, i < 16 → m.getLsbD i = true → s.ownerWord h ln i = none) → m ≠ 0#16 → Ends .forwardedRead s fun t =>
      t.inbox = s.inbox ++ [(.forwardUnanswered, { slot := (s.getHart h).ctx, die := BitVec.ofNat 3 (dieOfHart h), flag := s.msg.flag, addr := BitVec.ofNat 64 (ln * 64), mask := m.zeroExtend 64 })]) ∧
    (∀ key, key = keySlot s.msg.slot → s.msg.flag = true → (∀ i, i < 16 → (s.pointWord key s.msg.die.toNat ln i).1.length = 4) → Ends .forwardUnanswered s fun t =>
      ∀ i, i < 16 → m.getLsbD i = true → (t.fab.answer.bytes.drop (4 * i)).take 4 = (s.pointWord key s.msg.die.toNat ln i).1) ∧
    (∀ key, key = keySlot s.msg.slot → s.msg.flag = false → QuietHome s key (ln * 64) → Ends .forwardUnanswered s fun t =>
      ∀ i, i < 16 → m.getLsbD i = true → (t.fab.answer.bytes.drop (4 * i)).take 4 = s.homeBytes key (ln * 64 + 4 * i) 4)) ∧
  (∀ s : State,
    (Ends .registrationAck s fun t => OnlyHart s t s.msg.hart.toNat fun x => { x with acks := { x.acks with reg := x.acks.reg - 1 } }) ∧
    (Ends .acquireAcknowledgement s fun t => OnlyHart s t s.msg.hart.toNat fun x => { x with acks := { x.acks with acq := x.acks.acq - 1 } }) ∧
    (let k := s.msg.die.toNat * 16 + s.msg.slice.toNat
     Ends .rlcAcquireInvalidation s fun t => (t.slice k).lines = (s.slice k).lines.map (fun x => if x.rlc then { x with wv := x.wv &&& x.wd, psn := x.psn && x.wv &&& x.wd != 0#16, stale := x.stale || x.fill } else x) ∧
      (t.slice k).regs = (s.slice k).regs ∧ (∀ n, n ≠ k → t.slice n = s.slice n) ∧
      (t.getHart s.msg.hart.toNat).acks.acq = (s.getHart s.msg.hart.toNat).acks.acq + 1 ∧
      t.inbox = s.inbox ++ [(.acquireAcknowledgement, { hart := s.msg.hart })] ∧ t.m.mem = s.m.mem))

/-- FAR_ATOMIC_AT_HOME at a quiet home answers the old value and leaves the new value of its operation, every other byte
unchanged. SY_ACCESS_AT_HOME at a quiet home answers a read with the bytes there and performs a write on exactly them; a write
to protected text is refused and writes nothing. WINDOW_ACCESS_ARRIVAL to storage granted to the hart's context is answered
with the bytes, or stored; to storage that is not it is refused. Misaligned and out-of-range addresses are no messages; one
that waits below the caches comes again. (Where the rules leave it open it rests on the model's choices, log entries 9 and
106.) (R134, R135, R331, R473, R23, R25, R82) -/
def Obligations.SynchronisedAndWindowAccesses : Prop :=
  (∀ s : State, let pa := s.msg.addr.toNat; let n := 2 ^ s.msg.size.toNat; let slot := keySlot s.msg.slot
    (¬ (pa < 2 ^ 52 ∧ isHbm (laOf pa) = true ∧ pa % n = 0) → exec .syAccessAtHome s = .next s) ∧
    (pa < 2 ^ 52 → isHbm (laOf pa) = true → pa % n = 0 → s.homeWaits slot (dieOf (laOf pa)) pa = true →
      exec .syAccessAtHome s = .next (s.after [(.syAccessAtHome, s.msg)])) ∧
    (pa < 2 ^ 52 → isHbm (laOf pa) = true → pa % n = 0 → s.homeWaits slot (dieOf (laOf pa)) pa = false → s.msg.flag = true → s.isProtected pa n = true →
      Ends .syAccessAtHome s fun t => t.fab.answer.refused = true ∧ t.m = s.m ∧ SameHarts s t) ∧
    (pa < 2 ^ 52 → isHbm (laOf pa) = true → pa % n = 0 → s.homeWaits slot (dieOf (laOf pa)) pa = false → QuietHome s slot pa →
      (s.msg.flag = false → Ends .syAccessAtHome s fun t => t.fab.answer = { bytes := s.homeBytes slot pa n, poisoned := false, refused := false } ∧
        t.m.mem = s.m.mem ∧ SameHarts s t) ∧
      (s.msg.flag = true → s.isProtected pa n = false → Ends .syAccessAtHome s fun t => t.fab.answer.refused = false ∧
        t.homeBytes slot pa n = toBytes n s.msg.value.toNat ∧ SameHarts s t ∧
        ∀ a, ¬ (pa ≤ a ∧ a < pa + n) → Mem.read t.m.mem a = Mem.read s.m.mem a))) ∧
  (∀ s : State, ∀ e ∈ atomOps, let pa := s.msg.addr.toNat; let n := if s.msg.flag then 8 else 4; let slot := keySlot s.msg.slot
    atomicOfCode s.msg.station.toNat = some e.op →
    (¬ (pa < 2 ^ 52 ∧ isHbm (laOf pa) = true ∧ pa % n = 0) → exec .farAtomicAtHome s = .next s) ∧
    (pa < 2 ^ 52 → isHbm (laOf pa) = true → pa % n = 0 → s.homeWaits slot (dieOf (laOf pa)) pa = true →
      exec .farAtomicAtHome s = .next (s.after [(.farAtomicAtHome, s.msg)])) ∧
    (pa < 2 ^ 52 → isHbm (laOf pa) = true → pa % n = 0 → s.homeWaits slot (dieOf (laOf pa)) pa = false →
      (s.isProtected pa n = true → Ends .farAtomicAtHome s fun t => t.fab.answer.refused = true ∧ t.m = s.m ∧ SameHarts s t) ∧
      (s.isProtected pa n = false → QuietHome s slot pa → Ends .farAtomicAtHome s fun t =>
        t.fab.answer = { bytes := s.homeBytes slot pa n, poisoned := false, refused := false } ∧ SameHarts s t ∧
        t.homeBytes slot pa n = toBytes n (e.new (8 * n) (BitVec.ofNat (8 * n) (leNat (s.homeBytes slot pa n))) (s.msg.value.setWidth (8 * n)) (s.msg.value2.setWidth (8 * n))).toNat ∧
        ∀ a, ¬ (pa ≤ a ∧ a < pa + n) → t.homeByte slot a = s.homeByte slot a))) ∧
  (∀ s : State, let la := s.msg.addr.toNat; let n := 2 ^ s.msg.size.toNat; let x := s.getHart s.msg.hart.toNat; let pa := s.ownPa la
    la < 2 ^ 42 → la % n = 0 → ((∃ c o, laKind la = .vreg c o) ∨ (∃ c o, laKind la = .tile c o) ∨ (∃ c o, laKind la = .acc c o)) →
    (s.target x.ctx x.sup pa n = .window →
      (s.msg.flag = false → s.m.marks = [] → Ends .windowAccessArrival s fun t => t.fab.answer.bytes = s.homeBytes 0 pa n ∧
        t.fab.answer.refused = false ∧ t.m = s.m ∧ SameHarts s t) ∧
      (s.msg.flag = true → Mem.wf s.m.mem = true → Ends .windowAccessArrival s fun t => t.fab.answer.refused = false ∧
        t.homeBytes 0 pa n = toBytes n s.msg.value.toNat ∧ SameHarts s t ∧
        ∀ a, ¬ (pa ≤ a ∧ a < pa + n) → Mem.read t.m.mem a = Mem.read s.m.mem a)) ∧
    (s.target x.ctx x.sup pa n = .refused → Ends .windowAccessArrival s fun t => t.fab.answer.refused = true ∧ t.m = s.m ∧ SameHarts s t))

/-- PORT_DOWN clears MODE and INUSE of the port, its plane is measured no longer, and a request outstanding on it keeps its tag,
takes a plane that is up and is sent again. Flit retries count up, and saturate on UALink, whose port goes down at the
sixteenth failed one in a row. UCIE_LANE_REPAIR repairs up to four lanes of a direction and then halves the link, with one
event. REMOTE_TIMEOUT of an outstanding scalar access traps with ACCESS_FAULT and its VA; of a retired store with QK = 3, the
store kept for sret; of an element of a queued access with VSTART at it; an ordered copy with a place on another device ends
with status 5. A SYNC on the plane of the least round trip sets the offset, the lock and the time of its acceptance, and at
bring-up steps TIME forward; a SYNC on another plane, or at the master, changes nothing. DELAY_EXCHANGE records the round
trip, MERIDIAN_HOLD sets HOLD after 10 ms, the time master sends its time on every plane that is up. (Where the rules leave it
open it rests on the model's choices, log entries 9, 103, 105, 128, 161 and 164.) (R107, R108, R115, R116, R476, R236) -/
def Obligations.FabricAndClockMessages : Prop :=
  (∀ s : State, let p := s.msg.unit.toNat; let r := s.fab.ports.get .reset p
    (16 ≤ p → exec .portDown s = .next s ∧ exec .ualinkFlitRetry s = .next s) ∧
    (p < 16 →
      (s.msg.flag = false → Ends .portDown s fun t =>
        t.fab.ports.get .reset p = { r with mode := 0#4, inuse := false, streak := 0, failed := r.failed || r.mode != 0#4 } ∧
        (∀ q, q ≠ p → t.fab.ports.get .reset q = s.fab.ports.get .reset q) ∧ t.fab.remotes.map (·.tag) = s.fab.remotes.map (·.tag) ∧
        (∀ x ∈ t.fab.remotes, x ∈ s.fab.remotes ∨ t.planesTo (devOf x.pa) = [] ∨ x.plane ∈ t.planesTo (devOf x.pa)) ∧
        ((s.fab.ports.map (·.1)).Pairwise (· < ·) → p ∉ t.planesUp ∧ ∀ x ∈ s.fab.remotes, x.plane = p → x.held = false → t.planesTo (devOf x.pa) ≠ [] →
          Packet.request (t.planeFor x.pa) (x.pa / 64) (s.ctx x.ctx.toNat).dtag x.tag ∈ t.fab.sent) ∧
        bestPlane t.fab.clock.rtt ≠ some p ∧ SameHarts s t ∧ t.m = s.m) ∧
      (s.msg.flag = true → Ends .portDown s fun t => t.fab.ports = s.fab.ports ∧ p ∉ t.planesTo s.msg.dev.toNat ∧
        t.fab.remotes.map (·.tag) = s.fab.remotes.map (·.tag) ∧ SameHarts s t ∧ t.m = s.m) ∧
      (let n := if r.retry = 0xFFFFFF#24 then r.retry else r.retry + 1#24
       ((s.msg.flag = false ∨ r.streak < 15) → Ends .ualinkFlitRetry s fun t => SameHarts s t ∧ t.m = s.m ∧
         t.fab.ports.get .reset p = { r with retry := n, streak := if s.msg.flag then r.streak + 1 else 0 }) ∧
       (s.msg.flag = true → 15 ≤ r.streak → Ends .ualinkFlitRetry s fun t => SameHarts s t ∧ t.m = s.m ∧
         t.fab.ports.get .reset p = { r with retry := n, mode := 0#4, inuse := false, streak := 0, failed := r.failed || r.mode != 0#4 })) ∧
      (Ends .delayExchange s fun t => t.fab.clock.rtt.get 0#32 p = s.msg.value.setWidth 32 ∧ SameHarts s t ∧ t.m = s.m) ∧
      (s.fab.clock.master = true ∨ bestPlane s.fab.clock.rtt ≠ some p → exec .meridianSync s = .next s) ∧
      (s.fab.clock.master = false → bestPlane s.fab.clock.rtt = some p →
        let d : Int := (s.msg.value.toNat : Int) + ((s.fab.clock.rtt.get 0#32 p).toNat / 2 : Nat) - s.time
        let now := if s.inBringUp = true then s.time + d.toNat else s.time
        Ends .meridianSync s fun t => t = { s with time := now, fab := { s.fab with clock := { s.fab.clock with
          offset := BitVec.ofInt 32 d, lock := decide (d.natAbs ≤ 20), hold := false, lastSync := now } } }))) ∧
  (∀ s : State, let k := s.msg.unit.toNat; let l := s.fab.links.get .reset k
    k < 14 → (Ends .ucieFlitRetry s fun t => t.fab.links.get .reset k = { l with retry := l.retry + 1 } ∧ SameHarts s t ∧ t.m = s.m) ∧
      (l.half = true → exec .ucieLaneRepair s = .next s) ∧
      (let away := s.msg.flag; let lane := s.msg.value.toNat % 64; let link := fun (x : Link) => s.updFab fun f => { f with links := f.links.set k x }
       (l.half = false → l.repaired away < 4 → Ends .ucieLaneRepair s fun t =>
         t = (link (if away then { l with outward := l.outward + 1 } else { l with inward := l.inward + 1 })).postEvent 8 8#8 (laneId 1 0 k lane) 0#16 0#8 0#27) ∧
       (l.half = false → 4 ≤ l.repaired away → Ends .ucieLaneRepair s fun t =>
         t = (link { l with half := true }).postEvent 8 8#8 (laneId 2 0 k lane) 0#16 0#8 0#27))) ∧
  (∀ s : State, let h := s.msg.hart.toNat; let x := s.getHart h
    (4 ≤ s.msg.kind.toNat → exec .remoteTimeout s = .next s) ∧
    (x.phase = .running → x.trap.trentry.getLsbD 0 = true →
      let out := fun (r : Remote) => decide (r.hart = h) && !r.held && decide (r.pa / 64 = s.msg.addr.toNat / 64)
      ((s.msg.kind = 0#8 ∨ s.msg.kind = 2#8) → s.fab.remotes.any out = false → Ends .remoteTimeout s fun t => t.m = s.m ∧ HartsOnly s t h id) ∧
      (s.msg.kind = 0#8 → s.fab.remotes.any out = true → Ends .remoteTimeout s fun t => t.fab.remotes = s.fab.remotes.filter (fun r => !out r) ∧ t.m = s.m ∧ HartsOnly s t h fun x => trapped x tcAccessFault s.msg.value 0#2 x.pc) ∧
      (s.msg.kind = 1#8 → s.isRemote s.msg.addr.toNat = true → Ends .remoteTimeout s fun t => t.m = s.m ∧ HartsOnly s t h fun x =>
        trapped { x with resend := (s.msg.value2 &&& ~~~3#64, s.msg.addr.toNat, s.msg.bytes) :: x.resend, trapFrom := if x.sup then x.trapFrom else some (s.msg.value2, s.msg.mask.toNat) }
          tcAccessFault s.msg.value 3#2 s.msg.value2) ∧
      (∀ q l, x.vq = q :: l → s.msg.kind = 2#8 → s.fab.remotes.any out = true → s.msg.flag = false → Ends .remoteTimeout s fun t => t.m = s.m ∧ let y := t.getHart h
        y.vec.vstart = BitVec.ofNat 32 s.msg.unit.toNat ∧ y.trap.trcode = tcAccessFault ∧ y.trap.trarg = s.msg.value ∧ y.trap.qk = 1#2 ∧
        y.trap.trpc = q.pc &&& ~~~3#64 ∧ y.sup = true ∧ y.frozen = true)) ∧
    (let k := clusterOf h
     ((s.cluster k).copies = [] → s.msg.kind = 3#8 → exec .remoteTimeout s = .next s) ∧
     (∀ c, (s.cluster k).copies = [c] → s.msg.kind = 3#8 → c.hart = h → c.active = true → c.ordered = true → s.copyRemote c = true → Ends .remoteTimeout s fun t =>
       (t.cluster k).copies = [] ∧ (t.getHart h).latch.getLsbD 0 = true ∧
       (t.getHart h).e1.map (·.word) = x.e1.map (·.word) ++ [5#64 <<< 32 ||| c.id.zeroExtend 64]))) ∧
  (∀ s : State,
    (s.fab.clock.master = false → exec .meridianSyncSend s = .next s) ∧
    (s.fab.clock.master = true → Ends .meridianSyncSend s fun t => t.fab.clock.sent = s.fab.clock.sent + 1 ∧
      t.fab.sent = (s.planesUp.map fun p => Packet.sync p (BitVec.ofNat 64 s.time)).reverse ++ s.fab.sent ∧ SameHarts s t ∧ t.m = s.m) ∧
    (s.fab.clock.master = true ∨ s.fab.clock.hold = true ∨ s.time < s.fab.clock.lastSync + 10000000 → exec .meridianHold s = .next s) ∧
    (s.fab.clock.master = false → s.fab.clock.hold = false → s.fab.clock.lastSync + 10000000 ≤ s.time → Ends .meridianHold s fun t =>
      t.fab.clock = { s.fab.clock with hold := true } ∧ t.m = s.m) ∧
    (Ends .timeMasterNamed s fun t => t.fab.clock = { s.fab.clock with masterDev := some s.msg.dev, master := s.msg.dev == s.fab.dev } ∧
      SameHarts s t ∧ t.m = s.m))

/-- On the host device HOST_READ through an enabled aperture answers the bytes of the target, outside one all ones and a refusal;
HOST_WRITE writes them at a quiet home, or is refused outside an aperture and in protected text; what waits below the caches
is met again in order. A UALink request that was performed already is answered again as saved; one of a device or tag that
this device does not hold is refused; a read of a line is answered and kept, or waits. HAPCTL_WRITE sets KEY and SYNC where
the conditions of R113 hold, else ERR alone. DOMAIN_CONFIG sets a membership word, and the first time the device number, the
host device and the ports, while no context runs and the device is not in recovery from boot. EVENT_ACCEPT moves the oldest
held record to the queue and frees the hart that it stopped; EQHEAD_WRITE moves HEAD, unless past TAIL, and lets held records
enter. REGISTER_WRITE writes a register, here HCCORR. (Where the rules leave it open it rests on the model's choices, log
entries 9, 104, 115, 132, 136, 140 and 155.) (R108, R109, R111, R112, R113, R114, R16, R259, R260, R473) -/
def Obligations.HostAndRemoteRequests : Prop :=
  (∀ s : State, let ofs := s.msg.addr.toNat; let n := 2 ^ s.msg.size.toNat
    (s.fab.hostDev = false → exec .hostRead s = .next s ∧ exec .hostWrite s = .next s) ∧
    (s.msg.kind = 0#8 → ofs % n ≠ 0 → exec .hostRead s = .next s ∧ exec .hostWrite s = .next s) ∧
    (s.fab.hostDev = true → s.msg.kind = 0#8 → ofs % n = 0 → ofs < 2 ^ 44 → s.msg.flag = false →
      (s.apertureAt ofs n = none →
        (Ends .hostRead s fun t => t.fab.answer = { bytes := List.replicate n 0xFF#8, poisoned := false, refused := true } ∧ t.m = s.m ∧ SameHarts s t) ∧
        (Ends .hostWrite s fun t => t.fab.answer.refused = true ∧ t.m = s.m ∧ SameHarts s t)) ∧
      (∀ pa slot, s.apertureAt ofs n = some (pa, slot) → s.engineWaits slot (dieOf (laOf pa)) pa = true →
        exec .hostRead s = .next (s.againInOrder isHostAccess (.hostRead, s.msg)) ∧
        exec .hostWrite s = .next (s.againInOrder isHostAccess (.hostWrite, s.msg))) ∧
      (∀ pa slot, s.apertureAt ofs n = some (pa, slot) → s.engineWaits slot (dieOf (laOf pa)) pa = false → (∃ i, i < n ∧ s.isProtected (pa + i) 1 = true) →
        Ends .hostWrite s fun t => t.fab.answer.refused = true ∧ t.m = s.m ∧ SameHarts s t) ∧
      (∀ pa slot, s.apertureAt ofs n = some (pa, slot) → s.engineWaits slot (dieOf (laOf pa)) pa = false → QuietHome s slot pa → pa % 64 + n ≤ 64 →
        (Ends .hostRead s fun t => t.fab.answer = { bytes := s.homeBytes slot pa n, poisoned := false, refused := false } ∧ t.m = s.m ∧ SameHarts s t) ∧
        ((∀ i, i < n → s.isProtected (pa + i) 1 = false) → Ends .hostWrite s fun t => t.fab.answer.refused = false ∧
          t.homeBytes slot pa n = toBytes n s.msg.value.toNat ∧ SameHarts s t ∧
          ∀ a, ¬ (pa ≤ a ∧ a < pa + n) → Mem.read t.m.mem a = Mem.read s.m.mem a)))) ∧
  (∀ s : State, let la := s.msg.addr.toNat; let tag : BitVec 16 := s.msg.unit.setWidth 16
    la < 2 ^ 42 → la % 64 = 0 → s.msg.kind = 0#8 →
    (∀ r, s.savedAnswer s.msg.dev tag = some r → Ends .ualinkRequestIngress s fun t =>
      t.fab.answer = { bytes := toBytes 64 r.answer.toNat, poisoned := r.poisoned, refused := r.refused } ∧ t.m = s.m ∧ SameHarts s t) ∧
    (s.savedAnswer s.msg.dev tag = none → (s.isMember s.msg.dev.toNat = false ∨ s.slotOfTag (s.msg.value2.setWidth 16) = none) →
      Ends .ualinkRequestIngress s fun t => t.fab.answer.refused = true ∧ t.m = s.m ∧ SameHarts s t) ∧
    (∀ n, s.savedAnswer s.msg.dev tag = none → s.isMember s.msg.dev.toNat = true → s.slotOfTag (s.msg.value2.setWidth 16) = some n → isHbm la = true →
      s.msg.flag3 = false → s.ingressWaits n la s.msg = true →
        exec .ualinkRequestIngress s = .next (s.againInOrder (· == .ualinkRequestIngress) (.ualinkRequestIngress, s.msg))) ∧
    (∀ n, s.savedAnswer s.msg.dev tag = none → s.isMember s.msg.dev.toNat = true → s.slotOfTag (s.msg.value2.setWidth 16) = some n → isHbm la = true →
      s.msg.flag3 = false → s.ingressWaits n la s.msg = false → QuietHome s (n + 1) (s.ownPa la) → Ends .ualinkRequestIngress s fun t =>
        t.fab.answer = { bytes := s.homeBytes (n + 1) (s.ownPa la) 64, poisoned := false, refused := false } ∧ t.m = s.m ∧ SameHarts s t ∧
        (t.savedAnswer s.msg.dev tag).map (·.time) = some s.time)) ∧
  (∀ s : State, let n := s.msg.unit.toNat % 32; let a := s.fab.apertures.get .reset n
    let b : Aperture := { a with err := a.err && !s.msg.value.getLsbD 7, sync := s.msg.value.getLsbD 4, key := s.msg.value.setWidth 4 }
    (s.apertureOk n b = true → Ends .hapctlWrite s fun t => t.fab.apertures.get .reset n = b ∧
      (∀ m, m ≠ n → t.fab.apertures.get .reset m = s.fab.apertures.get .reset m) ∧ t.m = s.m) ∧
    (s.apertureOk n b = false → Ends .hapctlWrite s fun t => t.fab.apertures.get .reset n = { a with err := true } ∧
      (∀ m, m ≠ n → t.fab.apertures.get .reset m = s.fab.apertures.get .reset m) ∧ t.m = s.m)) ∧
  (∀ s : State,
    ((s.trust.booted = false ∨ ∃ n, n < 8 ∧ (s.ctx n).state = 1#2) → exec .domainConfig s = .next s) ∧
    (s.trust.booted = true → (∀ n, n < 8 → (s.ctx n).state ≠ 1#2) → Ends .domainConfig s fun t => t.fab.devValid = true ∧
      t.fab.dev = (if s.fab.devValid then s.fab.dev else s.msg.dev) ∧ t.fab.members.get 0#64 s.msg.station.toNat = s.msg.value ∧
      (∀ k, k ≠ s.msg.station.toNat → t.fab.members.get 0#64 k = s.fab.members.get 0#64 k) ∧
      (s.fab.devValid = true → t.fab.ports = s.fab.ports ∧ t.fab.hostDev = s.fab.hostDev) ∧
      (s.fab.devValid = false → t.fab.hostDev = s.msg.flag ∧ ∀ p, p < 16 → t.fab.ports.get .reset p =
        if s.msg.mask.getLsbD p = true then
          { s.fab.ports.get .reset p with mode := (if s.msg.flag = true ∧ 4 ≤ p ∧ p < 8 then 2#4 else 1#4), inuse := !(s.msg.flag && decide (4 ≤ p ∧ p < 8)), failed := false }
        else s.fab.ports.get .reset p) ∧ SameHarts s t ∧ t.m = s.m) ∧
    (s.msg.unit.toNat < 2 → let q := s.evQueue s.msg.unit.toNat
      (q.tail.toNat < s.msg.value.toNat → exec .eqheadWrite s = .next s) ∧
      (s.msg.value.toNat ≤ q.tail.toNat → Ends .eqheadWrite s fun t => t.evQueue s.msg.unit.toNat = { q with head := s.msg.value } ∧
        (∀ k, k < 10 → iodOfSource k = s.msg.unit.toNat → (Instr.eventAccept, ({ unit := BitVec.ofNat 32 k } : Msg)) ∈ t.inbox) ∧ SameHarts s t ∧ t.m = s.m)) ∧
    (∀ src r l, src = s.msg.unit.toNat → src < 10 → (s.evSource src).hold = r :: l → (s.evSource src).spill = [] → (s.evQueue (iodOfSource src)).full = false → s.dieHeld (8 + iodOfSource src) = false →
      let q := s.evQueue (iodOfSource src)
      Ends .eventAccept s fun t => (t.evQueue (iodOfSource src)).tail = q.tail + 1#64 ∧ (t.evQueue (iodOfSource src)).head = q.head ∧
        (t.evQueue (iodOfSource src)).entries.find? (fun e => decide (e.1 = q.tail.toNat % 4096)) = some (q.tail.toNat % 4096, r) ∧
        (t.evSource src).hold = l ∧ t.m = s.m ∧ (r.kind ≠ 1#8 → SameHarts s t) ∧
        ∀ h ∈ s.hartIds, (s.getHart h).stoppedBy src r = true → (t.getHart h).phase = .idle) ∧
    (laKind s.msg.addr.toNat ≠ .control ∨ s.msg.addr.toNat % 8 ≠ 0 → exec .registerWrite s = .next s) ∧
    (∀ die ch, die < 8 → ch < 32 → s.msg.addr.toNat = 0x30000000000 + die * 0x1000000 + 0x100000 + ch * 0x100 + 8 → let key := die * 32 + ch
      Ends .registerWrite s fun t => t.channel key = { s.channel key with
          last := s.msg.value.extractLsb' 40 20, trans := s.msg.value.extractLsb' 20 20, corr := s.msg.value.extractLsb' 0 20 } ∧
        (∀ k, k ≠ key → t.channel k = s.channel k) ∧ SameHarts s t ∧ t.m.mem = s.m.mem))

/-- TRAP_ENTRY of a hart with its entry enabled: TRPC is the trapping instruction, TRNEXT the next instruction to issue, TRCODE,
TRARG, PRIOR, QK, SKIP and FRZ as R235 gives, the queues frozen, supervisor mode, and the pc at the entry of the cause for the
privilege trapped from; a queue's head that traps stays at the head. With the entry disabled the hart stops.
USER_INTERRUPT_DELIVERY gives the first item that is enabled: a notice, an orbit task with x4 to x6 kept aside, a copy done
with its ID; XEPC is the pc, INH is set, CAUSE names it, and the pc is its handler. RESIZE drops the queues and goes to XRES,
or sets ILL where XRES is 0. (Where the rules leave it open it rests on the model's choices, log entries 9 and 163.) (R235,
R237, R241, R250, R251, R252, R253, R254) -/
def Obligations.TrapsAndUserInterrupts : Prop :=
  ∀ s : State, let h := s.msg.hart.toNat; let x := s.getHart h
    ((s.msg.kind = 0#8 ∨ 0x10 < s.msg.kind.toNat) → exec .trapEntry s = .next s) ∧
    (1 ≤ s.msg.kind.toNat → s.msg.kind.toNat ≤ 0x10 → x.phase = .running →
      (x.trap.trentry.getLsbD 0 = true →
        (s.msg.size = 0#2 ∨ s.msg.size = 3#2 → Ends .trapEntry s fun t => t.m = s.m ∧ HartsOnly s t h fun x =>
          trapped x s.msg.kind s.msg.value s.msg.size x.pc) ∧
        (∀ q l, s.msg.size = 1#2 → x.vq = q :: l → Ends .trapEntry s fun t => t.m = s.m ∧ HartsOnly s t h fun x =>
          trapped (x.markFaulted q) s.msg.kind s.msg.value 1#2 q.pc) ∧
        (∀ q l, s.msg.size = 2#2 → x.mq = q :: l → Ends .trapEntry s fun t => t.m = s.m ∧ HartsOnly s t h fun x =>
          trapped (x.markFaulted q) s.msg.kind s.msg.value 2#2 q.pc)) ∧
      (x.trap.trentry.getLsbD 0 = false → x.launch = none → s.msg.size = 0#2 → Ends .trapEntry s fun t =>
        (t.getHart h).phase = .stopped (dieOfHart h) ∧ (t.getHart h).pc = x.pc ∧ (t.getHart h).sup = x.sup ∧ (t.getHart h).trap.trcode = s.msg.kind)) ∧
    (x.phase = .running → s.hartRuns h = true →
      ((x.sup = true ∨ x.irq.inh = true) → Ends .userInterruptDelivery s fun t => t.m = s.m ∧ HartsOnly s t h id) ∧
      (x.sup = false → x.irq.inh = false →
        (x.noticePending = true → x.irq.nte = true → Ends .userInterruptDelivery s fun t => t.m = s.m ∧ HartsOnly s t h fun x =>
          { x with noticePending := false, pc := x.irq.xnot, irq := { x.irq with xepc := x.pc, inh := true, cause := 2#4 } }) ∧
        (∀ o k a v4 v5 v6 l, x.noticePending = false → x.irq.ore = true → x.pendingUser = .orbitTask o k a v4 v5 v6 :: l →
          Ends .userInterruptDelivery s fun t => let y := t.getHart h
            y.pc = a ∧ y.irq.xepc = x.pc ∧ y.irq.inh = true ∧ y.irq.cause = 3#4 ∧ y.pendingUser = l ∧ y.regs.x[4] = v4 ∧ y.regs.x[5] = v5 ∧
            y.regs.x[6] = v6 ∧ y.irq.keep4 = x.regs.x[4] ∧ y.irq.keep5 = x.regs.x[5] ∧ y.irq.keep6 = x.regs.x[6] ∧ t.m = s.m) ∧
        (∀ i a l, x.noticePending = false → x.irq.cde = true → x.pendingUser = .copyDone i a :: l →
          (x.irq.ore = false ∨ ∀ y ∈ l, UserItem.isTask y = false) → Ends .userInterruptDelivery s fun t => t.m = s.m ∧ HartsOnly s t h fun x =>
            { x with pendingUser := l, pc := a, irq := { x.irq with xid := i, xepc := x.pc, inh := true, cause := 1#4 } }))) ∧
    (x.resizePending = true → x.sup = false → x.irq.inh = false →
      (x.irq.xres ≠ 0#64 → Ends .resize s fun t => t.m = s.m ∧ HartsOnly s t h fun x =>
        { x with vq := [], mq := [], resizePending := false, pc := x.irq.xres, vec := { x.vec with vstart := 0#32 }, user := { x.user with mstart := 0#10 } }) ∧
      (x.irq.xres = 0#64 → Ends .resize s fun t => t.m = s.m ∧ HartsOnly s t h fun x =>
        { x with resizePending := false, vec := { x.vec with ill := true } })) ∧
    (x.resizePending = false → Ends .resize s fun t => t.m = s.m ∧ HartsOnly s t h id)

/-- TABLE_WALK that ends in a leaf puts it into the pre-translator and the TLB of the access; one that faults installs nothing,
and one whose reads wait comes again. PRETRANSLATE_WINDOW changes no register, pc or queue. WINDOW_ENTER_PIPELINE,
VPUSH_DELIVERY and PUSH_TIMEOUT attempt the head of the queue where it is a memory instruction or a push whose slices are all
out, or a push whose wait has reached PUSHLIM, and do nothing for a hart in supervisor mode or with its queues frozen.
VECTOR_SLICE_END gives the head of the hart that the arbiter chooses one slice, and the last slice of an instruction that does
not access memory performs it. MATRIX_OPERATION_END attempts the head of the chosen core queue; a mop.m that waits holds the
engine. The arbiter takes of the weighted candidates the one whose counter plus its weight is largest, and the counters keep
their sum. (Where the rules leave it open it rests on the model's choices, log entries 107, 115, 122 and 123.) (R28, R35, R39,
R40, R221, R222, R249) -/
def Obligations.QueuesAreServed : Prop :=
  (∀ s : State, let h := s.msg.hart.toNat; let x := s.getHart h; let acc := accOfCode s.msg.size; let va := s.msg.value
    (∀ t e, canonical va = true → x.sregs.sptb.getLsbD 63 = true → s.walkWaits (s.walkerOf h) va = false →
      s.walk (s.walkerOf h) acc va 3 ((x.sregs.sptb.extractLsb' 16 40).toNat * 4096) = (t, .leaf e) → Ends .tableWalk s fun u =>
        e ∈ (u.cluster (clusterOf h)).pre ∧ (acc = .fetch → e ∈ (u.core (coreOf h)).itlb) ∧ (acc ≠ .fetch → e ∈ (u.core (coreOf h)).dtlb) ∧
        u.m.mem = t.m.mem ∧ SameHarts t u) ∧
    (∀ t r l, canonical va = true → x.sregs.sptb.getLsbD 63 = true → s.walkWaits (s.walkerOf h) va = false →
      s.walk (s.walkerOf h) acc va 3 ((x.sregs.sptb.extractLsb' 16 40).toNat * 4096) = (t, .fault r l) → exec .tableWalk s = .next t) ∧
    ((canonical va = false ∨ x.sregs.sptb.getLsbD 63 = false) → exec .tableWalk s = .next s) ∧
    (canonical va = true → x.sregs.sptb.getLsbD 63 = true → s.walkWaits (s.walkerOf h) va = true → exec .tableWalk s = .next (s.after [(.tableWalk, s.msg)])) ∧
    (Ends .pretranslateWindow s fun t => ∀ n, (t.getHart n).regs = (s.getHart n).regs ∧ (t.getHart n).pc = (s.getHart n).pc ∧
      (t.getHart n).vq.map (fun q => { q with spans := [] }) = (s.getHart n).vq.map (fun q => { q with spans := [] }) ∧
      (t.getHart n).mq.map (fun q => { q with spans := [] }) = (s.getHart n).mq.map (fun q => { q with spans := [] }) ∧ (t.getHart n).vec = (s.getHart n).vec) ∧
    ((x.sup = true ∨ x.frozen = true ∨ s.hartRuns h = false) →
      ∀ i ∈ [Instr.windowEnterPipeline, .vpushDelivery, .pushTimeout], Ends i s fun t => t.m = s.m ∧ HartsOnly s t h id) ∧
    (Serves s h →
      (∀ q l, s.msg.flag = false → x.vq = q :: l → q.inPipeline = true → AttemptsHead .windowEnterPipeline s h false) ∧
      (∀ q l t, s.msg.flag = true → (s.switchTo h).matrixHead (coreOf h) = some h → x.mq = q :: l → Instr.isMopM q.instr = false → (s.switchTo h).blocked true q = false →
        runEntry q (s.switchTo h) = .error .stall t → exec .windowEnterPipeline s = .next (t.switchTo s.cur)) ∧
      (∀ q l, x.vq = q :: l → q.isPush = true → (q.sliced = true → AttemptsHead .vpushDelivery s h false) ∧
        (∀ t, q.since = some t → x.user.pushlim.toNat ≤ (s.switchTo h).cyclesSince t → AttemptsHead .pushTimeout s h false)) ∧
      (∀ q l, x.vq = q :: l → ((q.isPush = false ∨ q.sliced = false) → Ends .vpushDelivery s fun t => t.m = s.m ∧ HartsOnly s t h id) ∧
        ((q.isPush = false ∨ q.since = none) → Ends .pushTimeout s fun t => t.m = s.m ∧ HartsOnly s t h id)))) ∧
  (∀ (l : List Cand) (last g : Nat) (cs : List (Nat × Int)), (l.map (·.idx)).Nodup → arbitrate l last = some (g, cs) → cs ≠ [] →
    (∃ x ∈ l, x.idx = g ∧ 0 < x.w ∧ ∀ y ∈ l, 0 < y.w → y.c + y.w ≤ x.c + x.w) ∧
    (cs.map (·.2)).foldl (· + ·) 0 = ((l.filter fun x => decide (0 < x.w)).map (·.c)).foldl (· + ·) (0 : Int)) ∧
  (∀ s : State, s.msg.unit.toNat < 16 → let k := s.msg.die.toNat * 16 + s.msg.unit.toNat
    ((∀ i, i < 16 → s.vectorReady (k * 16 + i) = false) → exec .vectorSliceEnd s = .next s) ∧
    (∀ i q l, i < 16 → s.vectorReady (k * 16 + i) = true → (∀ j, j < 16 → j ≠ i → s.vectorReady (k * 16 + j) = false) →
      0 < (s.getHart (k * 16 + i)).grant.vw.toNat → (s.getHart (k * 16 + i)).vq = q :: l →
      ((Instr.isPipelined q.instr = true ∨ q.slices + 1 < q.sliceCount) → Ends .vectorSliceEnd s fun t => t.m = s.m ∧
        HartsOnly s t (k * 16 + i) fun x => { x with vq := { q with slices := q.slices + 1 } :: l }) ∧
      (Instr.isPipelined q.instr = false → q.sliceCount ≤ q.slices + 1 →
        AttemptsAfter .vectorSliceEnd s (s.updHartN (k * 16 + i) id) (k * 16 + i) false)) ∧
    ((s.cluster k).engine = none → (∀ i, i < 8 → s.matrixHead (k * 8 + i) = none) → exec .matrixOperationEnd s = .next s) ∧
    (∀ i h, i < 8 → (s.cluster k).engine = none → s.matrixHead (k * 8 + i) = some h → s.matrixReady h = true →
      (∀ j, j < 8 → j ≠ i → s.matrixHead (k * 8 + j) = none) → 0 < (s.getHart h).grant.mw.toNat →
      Operates s (s.setCore (k * 8 + i) (s.core (k * 8 + i))) k h) ∧
    (∀ h, (s.cluster k).engine = some h → s.streams h = true → Operates s s k h))

/-- A queue of a context that does not run is left alone, but that a TAIL written ends its overrun. What waits below is met again.
QUEUE_TAIL_WATCH_HIT finds an empty queue with no ready head, an overrun queue stopped, and a checked head without a
dependence ready, with a placement choice to follow. DEPENDENCE_WATCH_HIT does the same, but leaves an overrun queue stopped,
and QUEUE_BACKSTOP_SCAN does it for the 32 queues of its I/O die in every context, whose new DCQTAB it takes first.
PLACEMENT_CHOICE sends RECORD_COMMIT for the queue it chose and is asked again. RECORD_COMMIT of a placeable record moves the
pointer past its queue, enters the launch and starts each of its harts in user mode with its logical number in x3 and the
argument block in x12. LAUNCH_COMPLETE with all harts retired writes 2 and ends the launch; END_LAUNCH writes 3, or refuses a
record that does not run. (Where the rules leave it open it rests on the model's choices, log entries 83, 85, 115, 137, 138,
156 and 157.) (R186, R188, R191, R193, R217, R218, R219, R220) -/
def Obligations.QueuesAndLaunches : Prop :=
  (∀ s : State, let n := s.msg.slot.toNat; let q := s.msg.queue.toNat; let c := s.ctx n; let v := s.queueView n q
    ((c.state ≠ 1#2 ∨ v.qtab.getLsbD 0 = false ∨ s.dieHeld (8 + v.iod) = true) → exec .dependenceWatchHit s = .next s ∧
      ((c.queue q).overrun = false → exec .queueTailWatchHit s = .next s) ∧
      ((c.queue q).overrun = true → Ends .queueTailWatchHit s fun t => ((t.ctx n).queue q).overrun = false ∧ t.m = s.m ∧ SameHarts s t)) ∧
    (c.state = 1#2 → v.qtab.getLsbD 0 = true → s.dieHeld (8 + v.iod) = false → s.queueWaits v q = true →
      ∀ i ∈ [Instr.queueTailWatchHit, .dependenceWatchHit], exec i s = .next (s.after [(i, queueMsg n q)])) ∧
    (c.state = 1#2 → v.qtab.getLsbD 0 = true → s.dieHeld (8 + v.iod) = false → s.queueWaits v q = false →
      exec .dependenceWatchHit s = .next (s.examine n q false) ∧
      (∀ i ∈ [Instr.queueTailWatchHit, .dependenceWatchHit], ∀ t, s.queueEntry v q = (t, .disabled) → Ends i s fun u => ((u.ctx n).queue q).ready = none ∧ SameHarts t u ∧ u.m = t.m) ∧
      (∀ t u w ring size ctrl cva hd tl b b', s.queueEntry v q = (t, .ready ring size ctrl cva) →
        (t.agentWatch { pa := ctrl + 8, slot := s.msg.slot, queue := s.msg.queue, dep := false }).syRead v.slot ctrl = (u, hd, b) →
        u.syRead v.slot (ctrl + 8) = (w, tl, b') → let count := (BitVec.ofNat 64 tl - BitVec.ofNat 64 hd : Word).toNat
        (count ≤ size → (c.queue q).overrun = true → Ends .dependenceWatchHit s fun x =>
          ((x.ctx n).queue q).ready = none ∧ ((x.ctx n).queue q).overrun = true ∧ x.m = w.m) ∧
        ∀ i ∈ [Instr.queueTailWatchHit, .dependenceWatchHit], (i = .dependenceWatchHit → (c.queue q).overrun = false) →
        (count = 0 → Ends i s fun x => ((x.ctx n).queue q).ready = none ∧ ((x.ctx n).queue q).overrun = false ∧ x.m = w.m) ∧
        (size < count → Ends i s fun x => ((x.ctx n).queue q).ready = none ∧ ((x.ctx n).queue q).overrun = true ∧ x.m = w.m) ∧
        (∀ y pa r, count ≠ 0 → count ≤ size → let w' := w.updQueue n q fun z => { z with badPosted := (c.queue q).badPosted.filter fun b => decide (b = s.entryBytes v q), overrun := false }
          w'.readRecord v (recordVa ring size (BitVec.ofNat 64 hd)) = (y, some (pa, r)) → y.recordFault n r = none → blkNat r 0x50 8 = 0 →
          Ends i s fun x =>
            ((x.ctx n).queue q).ready = some (recordVa ring size (BitVec.ofNat 64 hd), BitVec.ofNat 2 (blkNat r 0x18 4)) ∧
            x.inbox = y.inbox ++ [(Instr.placementChoice, ({} : Msg))] ∧ x.m = y.m)))) ∧
  (∀ s : State,
    (Ends .queueBackstopScan s fun t => t = (List.range 8).foldl (fun s n =>
      (List.range 32).foldl (fun s i => s.examine n (s.msg.unit.toNat % 2 * 32 + i) false) s)
        ((List.range 8).foldl (fun s n => if (s.ctx n).fresh then s.updCtx n fun c => { c with table := c.qtab, fresh := false, queues := [] } else s) s)) ∧
    ((∀ n, n < 8 → (s.ctx n).fresh = false ∧ (s.ctx n).state ≠ 1#2) → exec .queueBackstopScan s = .next s) ∧
    ((∀ n, n < 8 → (s.ctx n).state ≠ 1#2 ∨ s.commitWaits n = true) → Ends .placementChoice s fun t => t.inbox = s.inbox ∧ t.m = s.m ∧ SameHarts s t) ∧
    (∀ n q va pr, n < 8 → q < 64 → s.places n = true → s.commitWaits n = false → (∀ m, m < 8 → m ≠ n → s.places m = false) →
      ((s.ctx n).queue q).ready = some (va, pr) →
      (∀ k, k < 64 → ∀ z, ((s.ctx n).queue k).ready = some z → z.2.toNat ≤ pr.toNat) →
      (∀ i j, q = (s.rrOf pr.toNat + j) % 64 → i < j → j < 64 → ∀ z, ((s.ctx n).queue ((s.rrOf pr.toNat + i) % 64)).ready = some z → z.2 ≠ pr) →
      s.placeable n q va = true → s.disp.launches.length < 128 → Ends .placementChoice s fun t =>
        t.disp = s.disp ∧ t.inbox = s.inbox ++ [(Instr.recordCommit, queueMsg n q), (Instr.placementChoice, ({} : Msg))] ∧ t.m = s.m ∧ SameHarts s t)) ∧
  (∀ s : State, let n := s.msg.slot.toNat; let q := s.msg.queue.toNat; let v := s.queueView n q
    (s.places n = false → Ends .recordCommit s fun t => SameHarts s t ∧ t.disp = s.disp) ∧
    (s.places n = true → ((s.ctx n).queue q).ready.isSome = true → (s.queueWaits v q = true ∨ s.blockWaits n = true) →
      exec .recordCommit s = .next (s.after [(.recordCommit, queueMsg n q)])) ∧
    (∀ va pr t ring size ctrl cva u hd b w pa r blk harts grants l x, s.places n = true → s.queueWaits v q = false → s.blockWaits n = false → ((s.ctx n).queue q).ready = some (va, pr) →
      s.queueEntry v q = (t, .ready ring size ctrl cva) → t.syRead v.slot ctrl = (u, hd, b) → u.readRecord v va = (w, some (pa, r)) →
      w.recordFault n r = none → w.startBlock n = some blk → w.planLaunch n (blk.getD 4 0#64) r = .goes harts grants → w.freeLaunch = some l →
      (w.rrPast q pr).casWord v.slot (pa + 0x78) 0#64 1#64 = (x, true) → harts.Nodup → (∀ h ∈ harts, h < 2048) → Ends .recordCommit s fun y =>
        (∃ z, y.disp.launches.find? (fun z => decide (z.1 = l)) = some (l, z) ∧ z.harts = harts ∧ z.done = [] ∧ z.record = va ∧ z.slot = s.msg.slot) ∧
        y.rrOf pr.toNat = (q + 1) % 64 ∧
        ∀ i h, harts[i]? = some h → let g := y.getHart h
          g.phase = .running ∧ g.launch = some l ∧ g.logical = i ∧ g.sup = false ∧ g.regs.x[3] = BitVec.ofNat 64 i ∧ g.regs.x[12] = recWord r 0x10 ∧
          g.vec.ill = true ∧ g.ctx = BitVec.ofNat 3 n)) ∧
  (∀ (s u : State) (l pa : Nat) (r : Launch), (∀ k, (s.cluster k).copies = []) → s.orbitsOf l = [] → s.stateWord r = (u, some pa) →
    let key := keySlot r.slot
    QuietHome u key pa → pa % 8 = 0 →
    (s.msg.unit.toNat = l → l < 128 → s.disp.launches.find? (fun x => decide (x.1 = l)) = some (l, r) →
      ((∃ i, i < r.harts.length ∧ i ∉ r.done) → exec .launchComplete s = .next s) ∧
      ((∀ i, i < r.harts.length → i ∈ r.done) → r.compVa = 0#64 → s.seqWaits (s.queueView r.slot.toNat 0) (r.record + 0x78#64) = false → u.homeRead64 key pa = 1#64 → Ends .launchComplete s fun t =>
        t.homeRead64 key pa = 2#64 ∧ (∀ x ∈ t.disp.launches, x.1 ≠ l) ∧ SameHarts u t)) ∧
    (let n := s.msg.slot.toNat
     ((∀ x ∈ s.disp.launches, x.2.slot.toNat ≠ n ∨ x.2.record ≠ s.msg.value) → Ends .endLaunch s fun t =>
       t.ctx n = { s.ctx n with busy := s.stillBusy n, cmderr := true } ∧ t.disp.launches = s.disp.launches ∧ t.m = s.m ∧ SameHarts s t) ∧
     (s.disp.launches = [(l, r)] → r.slot = s.msg.slot → r.record = s.msg.value → (s.ctx n).state ≠ 2#2 → s.stillBusy n = false → u.homeRead64 key pa = 1#64 →
       Ends .endLaunch s fun t => t.homeRead64 key pa = 3#64 ∧ t.disp.launches = [] ∧ (t.ctx n).busy = false ∧
       (∀ h ∈ r.harts, (u.getHart h).launch = some l → (t.getHart h).launch = none ∧
         ((∀ src, (u.getHart h).phase ≠ .stopped src) → (t.getHart h).phase = .idle)))))

/-- A refused command sets CMDERR and changes nothing else: create where a condition of R214 fails, or where another context holds
a granted die, or a switch in progress will give it one, and the save area is not valid; remove of a context that is not
parked or has a launch; quiesce of one that does not run, or while a cut of it or a switch goes on; end quiesce of one that is
not quiesced, or whose die a running context holds. Create advances the generation, retires the slot's objects and runs the
context with its pool of EMPTY zeroed plates, or parks it where a die is held. BUSY falls once no accepted command of the slot
waits. Remove leaves the slot empty, without key, objects or translations. Quiesce begins a cut of the context with the next
epoch at IOD0, which sends it on to the units it is linked to. End quiesce lets it run again and sets RESUME in its harts'
latches where the tables still place them where they are. (Where the rules leave it open it rests on the model's choices, log
entries 86, 146 and 162.) (R184, R212, R214, R225, R226, R227, R474) -/
def Obligations.ContextsAndQuiesces : Prop :=
  ∀ s : State, let n := s.msg.slot.toNat; let c := s.ctx n
    let refusal := (Host.Outcome.next (s.updCtx n fun c => { c with busy := s.stillBusy n, cmderr := true }) : Host.Outcome State Fault Refusal)
    let able := c.state = 0#2 ∧ c.dtag ≠ 0#16 ∧ (∀ m, m < 8 → m ≠ n → (s.ctx m).state = 0#2 ∨ (s.ctx m).dtag ≠ c.dtag) ∧ c.dies ≠ [] ∧
      c.plates ≤ 128 ∧ c.ptb.getLsbD 63 = true ∧ c.keyLoaded = true
    let held := ∃ d ∈ c.dies, ∃ m, m < 8 ∧ m ≠ n ∧ (s.ctx m).state = 1#2 ∧ d ∈ (s.ctx m).dies
    let taken := held ∨ ∃ d ∈ c.dies, d ∈ s.promisedDies
    let area := c.save.getLsbD 0 = true ∧ s.needOf n ≤ (c.save.extractLsb' 9 12).toNat
    (¬ able ∨ (taken ∧ ¬ area) → exec .createContext s = refusal) ∧
    (able → (taken → area) → Ends .createContext s fun t => SameHarts s t ∧
      (t.ctx n).gen = c.gen + 1#13 ∧ (t.ctx n).busy = s.stillBusy n ∧ (t.ctx n).cmderr = c.cmderr ∧ (t.ctx n).queues = [] ∧
      (∀ i, (t.trust.objects.get .reset i).live = true → (t.trust.objects.get .reset i).slot.toNat ≠ n) ∧
      (∀ m, m ≠ n → t.ctx m = s.ctx m) ∧
      (∀ k e, e ∈ t.m.seqTlb.get [] k → e.ctx ≠ s.ctxidOf n) ∧
      (taken → (t.ctx n).state = 2#2 ∧ t.m.mem = s.m.mem ∧ t.m.plates = s.m.plates ∧ t.inbox = s.inbox) ∧
      (¬ taken → (t.ctx n).state = 1#2 ∧ t.inbox = s.inbox ++ scanMsgs ∧
        ∀ p, t.plate p = s.plate p ∨ ((s.plate p).attach = 0#2 ∧ t.plate p = { Plate.reset with attach := 1#2, ctx := s.msg.slot }))) ∧
    (c.state ≠ 2#2 ∨ s.runCount n ≠ 0 → exec .removeContext s = refusal) ∧
    (c.state = 2#2 → s.runCount n = 0 → Ends .removeContext s fun t => SameHarts s t ∧ SameBytes s t ∧ (t.ctx n).state = 0#2 ∧
      (t.ctx n).keyLoaded = false ∧ (t.ctx n).busy = s.stillBusy n ∧ (∀ p, (t.plate p).attach ≠ 0#2 → (t.plate p).ctx.toNat ≠ n) ∧
      (∀ i, (t.trust.objects.get .reset i).live = true → (t.trust.objects.get .reset i).slot.toNat ≠ n) ∧
      (∀ k e, e ∈ (t.core k).itlb ∨ e ∈ (t.core k).dtlb → e.ctx = s.ctxidOf n → e.attr.g = true) ∧
      (∀ k e, e ∈ t.m.seqTlb.get [] k → e.ctx ≠ s.ctxidOf n) ∧ (∀ k e, e ∈ (t.cluster k).pre → e.ctx = s.ctxidOf n → e.attr.g = true) ∧ ∀ m, m ≠ n → t.ctx m = s.ctx m) ∧
    (c.state ≠ 1#2 ∨ s.cutting n = true ∨ s.disp.switch.phase = 2#2 → exec .quiesce s = refusal) ∧
    (c.state = 1#2 → s.cutting n = false → s.disp.switch.phase ≠ 2#2 → Ends .quiesce s fun t => SameHarts s t ∧ t.m = s.m ∧
      t.cutOf n = some { slot := n, epoch := c.epoch + 1#8, quiesce := true, begun := [8], markers := [], complete := false } ∧
      t.ctx n = { c with busy := true, epoch := c.epoch + 1#8 } ∧ (∀ m, m ≠ n → t.cutting m = s.cutting m) ∧
      t.inbox = s.inbox ++ [unitMarker (s.ctxidOf n) 0 (c.epoch + 1#8), unitMarker (s.ctxidOf n) 4 (c.epoch + 1#8)]) ∧
    ((c.state ≠ 3#2 ∨ s.cutting n = true ∨ held) → exec .endQuiesce s = refusal) ∧
    (c.state = 3#2 → s.cutting n = false → ¬ held → Ends .endQuiesce s fun t => (t.ctx n).state = 1#2 ∧ (t.ctx n).busy = s.commandWaits n ∧
      ((∀ m ∈ s.hartMoves n (s.imageOf n), m.1 = m.2) → (∀ h, (t.getHart h).regs = (s.getHart h).regs ∧ (t.getHart h).pc = (s.getHart h).pc) ∧
        ∀ h ∈ s.placedHarts n, (t.getHart h).latch &&& latchResume = latchResume))

/-- An arming is refused, setting REFUSED, where PHASE is not 0, T lies less than 200 microseconds ahead, or, without PARK, the
target is empty or runs; otherwise PHASE becomes 1 and T is latched. NOTICE makes the notice pending in each hart of an
outgoing context whose lead has come, once, where XNOT and USTAT ask for it. CUT_BEGIN at T, with save areas that hold every
context to be parked, begins the cuts, at every unit, with the next epoch and PHASE 2; without them it posts event 4, sets
REFUSED and leaves PHASE 0. CUT_BEGIN at a unit, where a marker of the cut's CTXID and epoch has come, drains it, its caches
left empty, and goes on to the units linked to it. MARKER is held for the cut of its context and epoch; one of a new epoch
begins the cut. CUT_COMPLETE waits for every unit, and for markers of every peer on every plane that is up; a quiesce then
ends with STATE 3, a switch goes on to save. CONTEXT_SAVED keeps the image, clears the harts and sets STATE 2. CONTEXT_RESUMED
ends the switch with PHASE 0 and DUR, the target running unless PARK is set or another context runs on a die of it. (Where the
rules leave it open it rests on the model's choices, log entries 87, 88, 89, 128, 135 and 162.) (R224, R225, R226, R228, R229,
R230, R231, R253) -/
def Obligations.TheSwitch : Prop :=
  ∀ s : State, let w := s.disp.switch
    (∀ park : Bool, let i := if park then Instr.switchArmPark else .switchArm
      let st := (s.ctx s.msg.slot.toNat).state
      let barred := w.phase ≠ 0#2 ∨ w.t.toNat < s.time + 200000 ∨ (park = false ∧ (st = 0#2 ∨ st = 1#2))
      (barred → exec i s = .next (s.updSwitch fun w => { w with refused := true })) ∧
      (¬ barred → Ends i s fun t => t.m = s.m ∧
        t.disp.switch = { w with phase := 1#2, park, target := s.msg.slot, latched := w.t, begun := false } ∧
        ∀ h ∈ s.hartIds, t.getHart h = { s.getHart h with noticed := false })) ∧
    (Ends .notice s fun t => t.m = s.m ∧ t.disp = s.disp ∧ ∀ h ∈ s.hartIds, let x := s.getHart h
      let due := w.phase = 1#2 ∧ x.noticed = false ∧ x.phase ≠ .idle ∧ s.hartRuns h = true ∧ x.ctx.toNat ∈ s.outgoing w.park w.target.toNat ∧
        x.sregs.snotice ≠ 0#32 ∧ w.latched.toNat ≤ s.time + x.sregs.snotice.toNat
      (due → t.getHart h = { x with noticed := true, noticePending := x.noticePending || (x.irq.xnot != 0#64 && x.irq.nte) }) ∧
      (¬ due → t.getHart h = x)) ∧
    (s.msg.kind = 0#8 → let out := s.outgoing w.park w.target.toNat
      let comes := w.phase ≠ 0#2 ∧ w.begun = false ∧ w.latched.toNat ≤ s.time
      (¬ comes → exec .cutBegin s = .next s) ∧
      (comes → (∃ n ∈ out, s.saveOk n = false) → exec .cutBegin s = .next
        ((s.postEvent 8 4#8 w.latched 0#16 0#8 0#27).updSwitch fun w => { w with refused := true, phase := 0#2 })) ∧
      (comes → (∀ n ∈ out, s.saveOk n = true) → Ends .cutBegin s fun t => t.disp.switch = { w with phase := 2#2, begun := true } ∧
        (Instr.contextResumed, ({} : Msg)) ∈ t.inbox ∧ ((∀ n ∈ out, s.cutting n = true ∨ (s.ctx n).state = 3#2) → SameHarts s t ∧ t.m = s.m) ∧ ∀ n ∈ out,
          (s.cutting n = true → t.cutOf n = (s.cutOf n).map fun c => { c with quiesce := false }) ∧
          (s.cutting n = false → (t.ctx n).busy = true ∧
            ((s.ctx n).state = 3#2 → t.cutOf n = some { slot := n, epoch := (s.ctx n).epoch, quiesce := false, begun := List.range 10, markers := [], complete := true }) ∧
            ((s.ctx n).state ≠ 3#2 → (Instr.cutComplete, ({ slot := BitVec.ofNat 3 n } : Msg)) ∈ t.inbox ∧
              t.cutOf n = some { slot := n, epoch := (s.ctx n).epoch + 1#8, quiesce := false, begun := (List.range 10).reverse, markers := [], complete := false })))) ∧
    (s.msg.kind ≠ 0#8 → let n := s.msg.value2.toNat % 8; let u := s.msg.unit.toNat
      ((s.cutOf n = none ∨ s.ctxidOf n ≠ s.msg.value2.setWidth 16) → exec .cutBegin s = .next s) ∧
      (∀ c, s.cutOf n = some c → s.ctxidOf n = s.msg.value2.setWidth 16 →
        ((c.epoch ≠ s.msg.value.setWidth 8 ∨ u ∈ c.begun ∨ 10 ≤ u) → exec .cutBegin s = .next s) ∧
        (c.epoch = s.msg.value.setWidth 8 → u ∉ c.begun → u < 10 → Ends .cutBegin s fun t => t.cutOf n = some { c with begun := u :: c.begun } ∧
          (∀ v ∈ unitPeers u, unitMarker (s.ctxidOf n) v c.epoch ∈ t.inbox) ∧
          ((∀ v, v < 10 → v = u ∨ v ∈ c.begun) → (Instr.cutComplete, ({ slot := BitVec.ofNat 3 n } : Msg)) ∈ t.inbox) ∧
          (u < 8 → (∀ k, k / 128 = u → (t.core k).l1d = []) ∧ ∀ k, k / 16 = u → (t.cluster k).cc = []) ∧
          (8 ≤ u → SameHarts s t ∧ t.m = s.m)))) ∧
    (s.slotOfTag (s.msg.value2.setWidth 16) = none → exec .marker s = .next s) ∧
    (∀ n, s.slotOfTag (s.msg.value2.setWidth 16) = some n → let p := s.msg.unit.toNat % 16; let u := if p < 8 then 8 else 9
      let armed := w.phase = 1#2 ∧ n ∈ s.outgoing w.park w.target.toNat
      let fresh := (s.ctx n).state = 1#2 ∧ s.msg.kind ≠ (s.ctx n).epoch
      (∀ c, s.cutOf n = some c → (c.epoch ≠ s.msg.kind → exec .marker s = .next s) ∧
        (c.epoch = s.msg.kind → u ∈ c.begun → Ends .marker s fun t => SameHarts s t ∧ t.m = s.m ∧
          t.inbox = s.inbox ++ [(Instr.cutComplete, ({ slot := BitVec.ofNat 3 n } : Msg))] ∧
          t.cutOf n = some { c with markers := (s.msg.dev.toNat, p) :: c.markers })) ∧
      (s.cutOf n = none → ¬ fresh → exec .marker s = .next s) ∧
      (s.cutOf n = none → fresh → s.saveOk n = false → (armed ∨ w.phase = 0#2) → Ends .marker s fun t => SameHarts s t ∧ t.m = s.m ∧
        t.disp.switch = { w with refused := true, phase := 0#2 } ∧ t.cutOf n = none) ∧
      (s.cutOf n = none → fresh → s.saveOk n = true → Ends .marker s fun t => SameHarts s t ∧ t.m = s.m ∧ (t.ctx n).epoch = s.msg.kind ∧
        t.cutOf n = some { slot := n, epoch := s.msg.kind, quiesce := false, begun := [u], markers := [(s.msg.dev.toNat, p)], complete := false } ∧
        (armed → t.disp.switch = { w with phase := 2#2 }) ∧
        (w.phase = 0#2 → t.disp.switch = { w with phase := 2#2, park := true, begun := true, latched := BitVec.ofNat 64 s.time }))) ∧
    (let n := s.msg.slot.toNat
     (s.cutOf n = none → exec .cutComplete s = .next s) ∧
     ∀ c, s.cutOf n = some c →
      let held := (∀ u, u < 10 → u ∈ c.begun) ∧ ∀ d ∈ s.peers n, ∀ p ∈ s.planesUp, (d, p) ∈ c.markers
      ((c.complete = true ∨ ¬ held) → exec .cutComplete s = .next s) ∧
      (c.complete = false → held → c.quiesce = true → Ends .cutComplete s fun t => SameHarts s t ∧ t.m = s.m ∧ t.cutOf n = none ∧
        (t.ctx n).state = 3#2 ∧ (t.ctx n).busy = s.commandWaits n) ∧
      (c.complete = false → held → c.quiesce = false → Ends .cutComplete s fun t => SameHarts s t ∧ t.m = s.m ∧
        t.cutOf n = some { c with complete := true } ∧ t.inbox = s.inbox ++ [(Instr.contextSaved, ({} : Msg))])) ∧
    ((∀ c ∈ s.disp.cuts, c.complete = false ∨ c.quiesce = true) → exec .contextSaved s = .next s) ∧
    (∀ c n, s.disp.cuts = [c] → c.complete = true → c.quiesce = false → c.slot = n → Ends .contextSaved s fun t =>
      (t.ctx n).state = 2#2 ∧ (t.ctx n).busy = s.commandWaits n ∧ t.disp.cuts = [] ∧
      (∃ base size stamp, ∀ d, t.disp.saved.get d n = { s.imageOf n with base := base, size := size, stamp := stamp }) ∧ (∀ h ∈ s.placedHarts n, t.getHart h = .reset) ∧
      (∀ h, h ∉ s.placedHarts n → (t.getHart h).regs = (s.getHart h).regs ∧ (t.getHart h).pc = (s.getHart h).pc) ∧
      (Instr.contextResumed, ({} : Msg)) ∈ t.inbox) ∧
    ((w.phase ≠ 2#2 ∨ w.begun = false ∨ ∃ c ∈ s.disp.cuts, c.quiesce = false) → exec .contextResumed s = .next s) ∧
    (w.phase = 2#2 → w.begun = true → (∀ c ∈ s.disp.cuts, c.quiesce = true) → Ends .contextResumed s fun t =>
      t.disp.switch = { w with phase := 0#2, dur := BitVec.ofNat 32 (min (s.time - w.latched.toNat) 0xFFFFFFFF) } ∧
      let n := w.target.toNat
      let held := (s.ctx n).dies.any (s.heldDies n).contains
      (w.park = false → (s.ctx n).state = 2#2 → held = false → (t.ctx n).state = 1#2) ∧
      ((w.park = true ∨ (s.ctx n).state ≠ 2#2 ∨ held = true) → t.ctx n = s.ctx n ∧ SameHarts s t ∧ t.m = s.m))

/-- COLD_BOOT leaves harts, contexts, fabric and memory as after reset, gives every key slot a fresh key, keeps owner keys and
stored firmware, and enters recovery where the image of a measurement 2 to 6 fails, whose measurement is then zero: a stored
image by its own key, signature and version, another where the outside world names it. A firmware image that does not verify
or lies below the fused minimum is refused; otherwise it is stored, and in recovery a cold boot follows. A compute die's warm
reset resets its harts, ends its launches, sends DIE_LOST and holds the die until the acknowledgements have come, or for good
with another image. DIE_LOST removes registrations, watches and park entries of the harts of the die, on whichever device it
lies, and is acknowledged to that device. An I/O die's warm reset takes its ports out of use, drops its translations and asks
for a scan; with another image the die is held in reset. The trust die's keeps keys and registry and loses mailbox and
sessions. (Where the rules leave it open it rests on the model's choices, log entries 9, 90, 91, 101 and 115.) (R462, R463,
R464, R466, R469, R477, R478) -/
def Obligations.BootsAndResets : Prop :=
  ∀ s : State,
    (let fails := fun (i : Nat) => match s.trust.firmware.find? (fun f => decide (f.1 = i)) with | some f => !f.2.good | none => s.msg.mask.getLsbD i
     Ends .coldBoot s fun t => SameHarts .reset t ∧ t.disp = State.reset.disp ∧ t.inbox = [] ∧
      t.fab = State.reset.fab ∧ t.m.mem = State.reset.m.mem ∧ t.m.slices = [] ∧ t.m.plates = State.reset.m.plates ∧
      (∀ i, i < 9 → t.m.slotKeys.get 0 i = s.m.nextKey + i) ∧ t.m.nextKey = s.m.nextKey + 9 ∧
      t.trust.ownerKeys = s.trust.ownerKeys ∧ t.trust.firmware = s.trust.firmware ∧ t.trust.objects = [] ∧ t.trust.sessions = [] ∧
      (t.trust.recovery = true ↔ ∃ i, 2 ≤ i ∧ i ≤ 6 ∧ fails i = true) ∧ t.trust.booted = !t.trust.recovery ∧
      (∀ i, 2 ≤ i → i ≤ 6 → fails i = true → t.imageDigest i = 0#384) ∧
      (∀ i f, 2 ≤ i → i ≤ 6 → fails i = false → s.trust.firmware.find? (fun f => decide (f.1 = i)) = some (i, f) → t.imageDigest i = f.digest)) ∧
    (let f : Firmware := { digest := s.msg.digest, version := s.msg.value, key := s.msg.bytes.take 97, sig := s.msg.bytes.drop 97 }
     let good := sha384 f.key = Config.firmwareKeyDigest ∧ signatureVerifies f.key f.digest f.sig = true ∧ Config.minVersion ≤ f.version ∧
       2 ≤ s.msg.kind.toNat ∧ s.msg.kind.toNat ≤ 6
     (¬ good → exec .recoveryFirmwareImage s = .next (s.updFab fun f => { f with answer := { bytes := [], poisoned := false, refused := true } })) ∧
     (good → Ends .recoveryFirmwareImage s fun t => SameHarts s t ∧ t.m = s.m ∧
       t.trust = { s.trust with firmware := s.trust.firmware.set s.msg.kind.toNat f, staged := true } ∧
       t.inbox = if s.trust.recovery then s.inbox ++ [(Instr.coldBoot, { mask := s.trust.bad.foldl (fun m i => m ||| BitVec.twoPow 64 i) 0#64 })] else s.inbox)) ∧
    (let die := s.msg.die.toNat
     Ends .warmResetComputeDie s fun t =>
       (∀ h, h < 2048 → dieOfHart h = die → t.getHart h = .reset) ∧
       (∀ k p, t.fab.lostDies.find? (fun d => decide (d.1 = die)) = some (k, p) → k = die ∧
         p = if s.msg.digest = s.imageDigest 4 then s.ackCount else 0) ∧ (∃ d ∈ t.fab.lostDies, d.1 = die) ∧
       (s.msg.digest ≠ s.imageDigest 4 → t.trust.recovery = true) ∧ t.trust.ownerKeys = s.trust.ownerKeys ∧
       t.m.slotKeys = s.m.slotKeys ∧ (Instr.dieLost, { dev := s.fab.dev, die := s.msg.die }) ∈ t.inbox ∧
       (∀ i, i < 16 → t.slice (die * 16 + i) = .reset)) ∧
    (let lost := fun (h : Nat) => s.ownerDev h = s.msg.dev ∧ dieOfHart (ownerHart h) = s.msg.die.toNat
     Ends .dieLost s fun t => (∀ h, (t.getHart h).regs = (s.getHart h).regs) ∧
       (∀ k, ∀ e ∈ (t.slice k).regs, ¬ lost e.hart) ∧ (∀ k, ∀ x ∈ (t.slice k).watches, ¬ lost x.2) ∧
       (∀ k, ∀ x ∈ (t.slice k).parks, ¬ lost x.hart) ∧
       (s.msg.dev = s.fab.dev → ∃ l, t.inbox = l ++ List.replicate 9 (Instr.dieLostAck, { die := s.msg.die })) ∧
       (s.msg.dev ≠ s.fab.dev → ∀ p ∈ s.planesTo s.msg.dev.toNat,
         Packet.message p s.fab.dev.toNat s.msg.dev.toNat (.dieLostAck s.msg.die.toNat) 0 0 0#16 ∈ t.fab.sent)) ∧
    (Ends .dieLostAck s fun t => SameHarts s t ∧ t.m = s.m ∧ ∀ d k, (d, k) ∈ t.fab.lostDies ↔
      ((d ≠ s.msg.die.toNat ∨ k = 0) ∧ (d, k) ∈ s.fab.lostDies) ∨ (d = s.msg.die.toNat ∧ 0 < k ∧ (d, k + 1) ∈ s.fab.lostDies)) ∧
    (2 ≤ s.msg.unit.toNat → exec .warmResetIoDie s = .next s) ∧
    (s.msg.unit.toNat < 2 → Ends .warmResetIoDie s fun t => SameHarts s t ∧ SameBytes s t ∧
      (∀ p, p < 8 → (t.fab.ports.get .reset (s.msg.unit.toNat * 8 + p)).inuse = false) ∧ (∀ x ∈ t.m.seqTlb, x.1 ≠ s.msg.unit.toNat) ∧
      (∀ x ∈ t.m.walkCache, x.1 ≠ s.msg.unit.toNat) ∧ t.inbox = s.inbox ++ scanMsgs ∧ t.disp = s.disp ∧
      (t.dieHeld (8 + s.msg.unit.toNat) = true ↔ s.msg.digest ≠ s.imageDigest 3) ∧
      t.trust.recovery = (s.trust.recovery || decide (s.msg.digest ≠ s.imageDigest 3))) ∧
    (Ends .trustDieWarmReset s fun t => SameHarts s t ∧ t.m = s.m ∧ t.disp = s.disp ∧ t.trust.ownerKeys = s.trust.ownerKeys ∧
      t.trust.objects = s.trust.objects ∧ t.trust.measurements = s.trust.measurements ∧ t.trust.busy = false ∧ t.trust.sessions = [] ∧
      t.trust.request = [] ∧ t.trust.response = [])

/-- Without BUSY each command step changes nothing. VERIFY_OBJECT with a malformed request answers 2 and adds no entry; a success
answers 0 with the handle of a new live entry. RETIRE_OBJECT waits while a launch names the handle, answers 2 for no handle,
and otherwise frees the entry, whose generation advances. LOAD and CLEAR_CONTEXT_KEY of a slot above 7 answer 2, of one that
is not empty 5, and otherwise give the slot a key that no slot has had. OWNER_KEY_INSTALL and CLEAR check the slot, the
signature and the state. GET_MEASUREMENTS answers the eight measurements, SPARE_STATUS 78 bytes. A command while BUSY sets ERR
and is dropped; an unknown one answers 1, or 2 with reserved bits set. (Where the rules leave it open it rests on the model's
choices, log entries 8, 9, 98, 99 and 100.) (R465, R466, R467, R468, R469, R472, R473, R474) -/
def Obligations.MailboxCommands : Prop :=
  ∀ s : State,
    (s.trust.busy = false → ∀ i ∈ [Instr.verifyObject, .retireObject, .loadContextKey, .clearContextKey, .ownerKeyInstall, .ownerKeyClear,
      .getMeasurements, .spareStatus, .mbcmdWhileBusy, .mailboxUnknownCommand], exec i s = .next s) ∧
    (s.trust.busy = true →
      (s.reqLen < 0x18 ∨ 8 ≤ (s.reqWord 0x10).toNat ∨ (s.reqWord 0).toNat % 4096 ≠ 0 ∨ (s.reqWord 8).toNat % 4096 ≠ 0 ∨
        (s.reqWord 8).toNat ≤ 4096 ∨ 2 ^ 30 < (s.reqWord 8).toNat ∨ devOf (s.reqWord 0).toNat ≠ s.fab.dev.toNat →
        Ends .verifyObject s fun t => Answers s t 2#8 [] ∧ t.m = s.m ∧ t.trust.objects = s.trust.objects) ∧
      (Ends .verifyObject s fun t => (∀ h, (t.getHart h).regs = (s.getHart h).regs) ∧ t.trust.ownerKeys = s.trust.ownerKeys ∧ t.trust.busy = false ∧ t.trust.done = true ∧
        t.trust.result ∈ [0#8, 2#8, 3#8, 4#8, 5#8] ∧
        (t.trust.result ≠ 0#8 → t.trust.objects = s.trust.objects) ∧
        (t.trust.result = 0#8 → ∃ i, i < 256 ∧ (s.trust.objects.get .reset i).live = false ∧ (∀ j, j ≠ i → t.trust.objects.get .reset j = s.trust.objects.get .reset j) ∧
          (let o := t.trust.objects.get .reset i
           o.live = true ∧ o.slot.toNat = (s.reqWord 0x10).toNat ∧ o.gen = (s.trust.objects.get .reset i).gen ∧ o.textPa = (s.reqWord 0).toNat + o.textOfs ∧
           Answers s t 0#8 (toBytes 8 (o.gen.toNat * 65536 + i))))) ∧
      (s.objectOf (s.reqWord 0) = none → Ends .retireObject s fun t => Answers s t 2#8 [] ∧ t.m = s.m ∧ t.trust.objects = s.trust.objects) ∧
      (∀ i, s.objectOf (s.reqWord 0) = some i →
        ((∃ l ∈ s.disp.launches, l.2.handle = s.reqWord 0) → exec .retireObject s = .next (s.after [(.retireObject, s.msg)])) ∧
        ((∀ l ∈ s.disp.launches, l.2.handle ≠ s.reqWord 0) → Ends .retireObject s fun t => SameHarts s t ∧ SameBytes s t ∧ Answers s t 0#8 [] ∧
          (t.trust.objects.get .reset i).live = false ∧ (t.trust.objects.get .reset i).gen = (s.trust.objects.get .reset i).gen + 1#16 ∧
          (∀ j, j ≠ i → t.trust.objects.get .reset j = s.trust.objects.get .reset j) ∧ t.objectOf (s.reqWord 0) = none)) ∧
      (∀ load : Bool, let i := if load then Instr.loadContextKey else .clearContextKey
        let n := (s.reqWord 0).toNat
        (s.reqLen < 8 ∨ 8 ≤ n → Ends i s fun t => Answers s t 2#8 [] ∧ t.m = s.m ∧ t.disp = s.disp) ∧
        (8 ≤ s.reqLen → n < 8 → (s.ctx n).state ≠ 0#2 → Ends i s fun t => Answers s t 5#8 [] ∧ t.m = s.m ∧ t.disp = s.disp) ∧
        (8 ≤ s.reqLen → n < 8 → (s.ctx n).state = 0#2 → (∀ c ∈ s.m.channels, c.2.names (n + 1) = false) → Ends i s fun t =>
          SameHarts s t ∧ SameBytes s t ∧ Answers s t 0#8 [] ∧ (t.ctx n).keyLoaded = ((s.ctx n).keyLoaded || decide ((s.trust.cmd.extractLsb' 0 8).toNat = 3)) ∧ t.m.slotKeys.get 0 (n + 1) = s.m.nextKey ∧ t.m.nextKey = s.m.nextKey + 1 ∧
          ∀ j, j ≠ n + 1 → t.m.slotKeys.get 0 j = s.m.slotKeys.get 0 j)) ∧
      (let k := (s.reqWord 0).toNat
       let own := s.trust.ownerKeys
       (s.reqLen < 0xD8 ∨ 8 ≤ k → Ends .ownerKeyInstall s fun t => Answers s t 2#8 [] ∧ t.trust.ownerKeys = own) ∧
       (0xD8 ≤ s.reqLen → k = 0 → own ≠ [] → Ends .ownerKeyInstall s fun t => Answers s t 5#8 [] ∧ t.trust.ownerKeys = own) ∧
       (0xD8 ≤ s.reqLen → k < 8 → (k = 0 → own = []) → let key := if k = 0 then some (s.reqBytes 0x10 97) else s.trust.ownerKey 0
         (s.signedBy key 0x78 = false → Ends .ownerKeyInstall s fun t => Answers s t 3#8 [] ∧ t.trust.ownerKeys = own) ∧
         (s.signedBy key 0x78 = true → Ends .ownerKeyInstall s fun t => Answers s t 0#8 [] ∧ t.trust.ownerKey k = some (s.reqBytes 0x10 97) ∧
           ∀ j, j ≠ k → t.trust.ownerKeys.find? (fun x => decide (x.1 = j)) = own.find? (fun x => decide (x.1 = j)))) ∧
       (s.reqLen < 0x68 ∨ 8 ≤ k → Ends .ownerKeyClear s fun t => Answers s t 2#8 [] ∧ t.trust.ownerKeys = own) ∧
       (0x68 ≤ s.reqLen → k < 8 → let signed := s.signedBy (s.trust.ownerKey 0) 8
         let used := ∃ o ∈ s.trust.objects, o.2.live = true ∧ (k = 0 ∨ o.2.owner.toNat = k)
         (signed = false → Ends .ownerKeyClear s fun t => Answers s t 3#8 [] ∧ t.trust.ownerKeys = own) ∧
         (signed = true → used → Ends .ownerKeyClear s fun t => Answers s t 5#8 [] ∧ t.trust.ownerKeys = own) ∧
         (signed = true → ¬ used → Ends .ownerKeyClear s fun t => Answers s t 0#8 [] ∧ t.trust.ownerKey k = none ∧ (k = 0 → t.trust.ownerKeys = []) ∧
           (k ≠ 0 → ∀ j, j ≠ k → t.trust.ownerKey j = s.trust.ownerKey j)))) ∧
      (Ends .getMeasurements s fun t => t.m = s.m ∧ Answers s t 0#8 ((List.range 8).flatMap fun j => (toBytes 48 (s.measurement (j + 1)).toNat).reverse)) ∧
      (∃ r, r.length = 78 ∧ Ends .spareStatus s fun t => t.m = s.m ∧ Answers s t 0#8 r) ∧
      exec .mbcmdWhileBusy s = .next (s.updTrust fun t => { t with err := true }) ∧
      (Ends .mailboxUnknownCommand s fun t => t.m = s.m ∧ Answers s t (if s.msg.value.toNat < 2 ^ 40 then 1#8 else 2#8) []))

/-- No SPDM request changes a hart, a context or memory. GET_VERSION, GET_CAPABILITIES and NEGOTIATE_ALGORITHMS advance the
connection, the last for the supported set alone. GET_DIGESTS answers the digest of the certificate chain, GET_CERTIFICATE the
part of it asked for; it and CHALLENGE are refused for a slot other than 0. GET_MEASUREMENTS of block 0 answers the number of
blocks, of block 1 to 8 that measurement, of block 255 all eight; a block that is not present is refused. KEY_EXCHANGE opens a
session below four and is answered busy at four and unsupported with mutual authentication. FINISH establishes, KEY_UPDATE of
operation 1 or 2 counts, END_SESSION closes an established session; a request for another session is refused. Chunks follow in
order. Any other request is answered with the unsupported-request error. (The layout of the messages is that of SPDM 1.3,
which the spec names: PRESUMED, log entry 97.) (R463, R471) -/
def Obligations.SpdmRequests : Prop :=
  ∀ s : State,
    let turned := fun (i : Instr) (code data : Byte) =>
      exec i s = .next (s.updFab fun f => { f with answer := { bytes := [0x13#8, 0x7F#8, code, data], poisoned := false, refused := true } })
    let grants := fun (i : Instr) (tr : Trust) =>
      Ends i s fun t => t.trust = tr ∧ t.fab.answer.refused = false ∧ SameHarts s t ∧ t.m = s.m ∧ t.disp = s.disp ∧ t.inbox = s.inbox
    let replies := fun (i : Instr) (l : List Byte) => exec i s = .next (s.updFab fun f => { f with answer := { bytes := l, poisoned := false, refused := false } })
    let block := fun (j : Nat) => (toBytes 48 (s.measurement j).toNat).reverse
    let k := s.msg.kind.toNat
    let id := s.msg.unit
    grants .spdmGetVersion { s.trust with version := true, caps := false, algos := false, chunk := none } ∧
    grants .spdmGetCapabilities { s.trust with caps := true } ∧
    (s.msg.flag = true → grants .spdmNegotiateAlgorithms { s.trust with algos := true }) ∧
    (s.msg.flag = false → turned .spdmNegotiateAlgorithms 0x07#8 0xE3#8) ∧
    replies .spdmGetDigests ([0x13#8, 1#8, 1#8, 1#8] ++ (toBytes 48 (sha384 s.certChain).toNat).reverse) ∧ grants .spdmChunkGet s.trust ∧
    (k = 0 → grants .spdmChallenge s.trust) ∧
    (let ofs := s.msg.value.toNat % 65536
     let part := (s.certChain.drop ofs).take (s.msg.value2.toNat % 65536)
     (k = 0 → s.certChain.length ≤ ofs → turned .spdmGetCertificate 0x01#8 0#8) ∧
     (k = 0 → ofs < s.certChain.length → replies .spdmGetCertificate ([0x13#8, 2#8, 0#8, 0#8] ++ toBytes 2 part.length ++
       toBytes 2 (s.certChain.length - ofs - part.length) ++ part))) ∧
    (k ≠ 0 → turned .spdmGetCertificate 0x01#8 0#8 ∧ turned .spdmChallenge 0x01#8 0#8) ∧
    (k ≤ 8 ∨ k = 255 → grants .spdmGetMeasurements s.trust) ∧
    (Ends .spdmGetMeasurements s fun t => (k = 0 → t.fab.answer.bytes.take 3 = [0x13#8, 0x60#8, 8#8]) ∧
      (1 ≤ k → k ≤ 8 → (t.fab.answer.bytes.drop 15).take 48 = block k) ∧
      (k = 255 → ∀ j, j < 8 → (t.fab.answer.bytes.drop (15 + 55 * j)).take 48 = block (j + 1))) ∧
    (8 < k → k < 255 → turned .spdmGetMeasurements 0x01#8 0#8) ∧
    (s.msg.flag = true → turned .spdmKeyExchange 0x07#8 0xE4#8) ∧
    (s.msg.flag = false → 4 ≤ s.trust.sessions.length → turned .spdmKeyExchange 0x03#8 0#8) ∧
    (s.msg.flag = false → s.trust.sessions.length < 4 → ∃ x, x.established = false ∧ x.mutualAuth = false ∧ x.updates = 0 ∧
      x.id.extractLsb' 16 16 = s.msg.unit.extractLsb' 0 16 ∧ (∀ y ∈ s.trust.sessions, y.id.extractLsb' 0 16 ≠ x.id.extractLsb' 0 16) ∧
      grants .spdmKeyExchange { s.trust with sessions := s.trust.sessions ++ [x] }) ∧
    ((∃ x ∈ s.trust.sessions, x.id = id) → grants .spdmFinish { s.trust with sessions := s.trust.sessions.map fun x =>
      if x.id = id then { x with established := true } else x }) ∧
    ((∃ x ∈ s.trust.sessions, x.id = id ∧ x.established = true) → grants .spdmHeartbeat s.trust ∧
      (k = 1 ∨ k = 2 → grants .spdmKeyUpdate { s.trust with sessions := s.trust.sessions.map fun x => if x.id = id then { x with updates := x.updates + 1 } else x }) ∧
      (k = 3 → grants .spdmKeyUpdate s.trust) ∧
      grants .spdmEndSession { s.trust with sessions := s.trust.sessions.filter fun x => decide (x.id ≠ id) }) ∧
    ((∀ x ∈ s.trust.sessions, x.id = id → x.established = false) →
      turned .spdmHeartbeat 0x02#8 0#8 ∧ (1 ≤ k → k ≤ 3 → turned .spdmKeyUpdate 0x02#8 0#8) ∧ turned .spdmEndSession 0x02#8 0#8) ∧
    (k = 0 ∨ 3 < k → turned .spdmKeyUpdate 0x01#8 0#8) ∧
    ((∀ x ∈ s.trust.sessions, x.id ≠ id) → turned .spdmFinish 0x02#8 0#8) ∧
    (let seq := s.msg.value.extractLsb' 0 16
     let next := match s.trust.chunk with | none => seq = 0#16 | some c => c = (s.msg.kind, seq)
     (next → grants .spdmChunkSend { s.trust with chunk := if s.msg.flag then none else some (s.msg.kind, seq + 1#16) }) ∧
     (¬ next → turned .spdmChunkSend 0x01#8 0#8)) ∧
    turned .spdmUnsupportedRequest 0x07#8 s.msg.kind
end

