-- ==== Sys2Proof/Laws/Decode.lean ====
section
/-! SUPPORT. Each field of an instruction word laid out by a format reads back as it was given, and a word is decoded by the table of
its major opcode. -/
namespace Sys2Proof
set_option Elab.async false
set_option linter.unusedSimpArgs false

theorem fmtR_0_11 {op : BitVec 6} {d : BitVec 5} {a : BitVec 5} {b : BitVec 5} {fn : BitVec 11} : fieldOf (fmtR op d a b fn) 0 11 = fn := by
  simp (disch := decide) only [fieldOf, fmtR, BitVec.extractLsb'_append_eq_of_add_le, BitVec.extractLsb'_append_eq_of_le,
    BitVec.extractLsb'_eq_self, Nat.reduceSub, Nat.sub_self]
theorem fmtR_11_5 {op : BitVec 6} {d : BitVec 5} {a : BitVec 5} {b : BitVec 5} {fn : BitVec 11} : fieldOf (fmtR op d a b fn) 11 5 = b := by
  simp (disch := decide) only [fieldOf, fmtR, BitVec.extractLsb'_append_eq_of_add_le, BitVec.extractLsb'_append_eq_of_le,
    BitVec.extractLsb'_eq_self, Nat.reduceSub, Nat.sub_self]
theorem fmtR_16_5 {op : BitVec 6} {d : BitVec 5} {a : BitVec 5} {b : BitVec 5} {fn : BitVec 11} : fieldOf (fmtR op d a b fn) 16 5 = a := by
  simp (disch := decide) only [fieldOf, fmtR, BitVec.extractLsb'_append_eq_of_add_le, BitVec.extractLsb'_append_eq_of_le,
    BitVec.extractLsb'_eq_self, Nat.reduceSub, Nat.sub_self]
theorem fmtR_21_5 {op : BitVec 6} {d : BitVec 5} {a : BitVec 5} {b : BitVec 5} {fn : BitVec 11} : fieldOf (fmtR op d a b fn) 21 5 = d := by
  simp (disch := decide) only [fieldOf, fmtR, BitVec.extractLsb'_append_eq_of_add_le, BitVec.extractLsb'_append_eq_of_le,
    BitVec.extractLsb'_eq_self, Nat.reduceSub, Nat.sub_self]
theorem fmtR_26_6 {op : BitVec 6} {d : BitVec 5} {a : BitVec 5} {b : BitVec 5} {fn : BitVec 11} : fieldOf (fmtR op d a b fn) 26 6 = op := by
  simp (disch := decide) only [fieldOf, fmtR, BitVec.extractLsb'_append_eq_of_add_le, BitVec.extractLsb'_append_eq_of_le,
    BitVec.extractLsb'_eq_self, Nat.reduceSub, Nat.sub_self]
theorem fmtI_0_16 {op : BitVec 6} {d : BitVec 5} {a : BitVec 5} {imm : BitVec 16} : fieldOf (fmtI op d a imm) 0 16 = imm := by
  simp (disch := decide) only [fieldOf, fmtI, BitVec.extractLsb'_append_eq_of_add_le, BitVec.extractLsb'_append_eq_of_le,
    BitVec.extractLsb'_eq_self, Nat.reduceSub, Nat.sub_self]
theorem fmtI_16_5 {op : BitVec 6} {d : BitVec 5} {a : BitVec 5} {imm : BitVec 16} : fieldOf (fmtI op d a imm) 16 5 = a := by
  simp (disch := decide) only [fieldOf, fmtI, BitVec.extractLsb'_append_eq_of_add_le, BitVec.extractLsb'_append_eq_of_le,
    BitVec.extractLsb'_eq_self, Nat.reduceSub, Nat.sub_self]
theorem fmtI_21_5 {op : BitVec 6} {d : BitVec 5} {a : BitVec 5} {imm : BitVec 16} : fieldOf (fmtI op d a imm) 21 5 = d := by
  simp (disch := decide) only [fieldOf, fmtI, BitVec.extractLsb'_append_eq_of_add_le, BitVec.extractLsb'_append_eq_of_le,
    BitVec.extractLsb'_eq_self, Nat.reduceSub, Nat.sub_self]
theorem fmtI_26_6 {op : BitVec 6} {d : BitVec 5} {a : BitVec 5} {imm : BitVec 16} : fieldOf (fmtI op d a imm) 26 6 = op := by
  simp (disch := decide) only [fieldOf, fmtI, BitVec.extractLsb'_append_eq_of_add_le, BitVec.extractLsb'_append_eq_of_le,
    BitVec.extractLsb'_eq_self, Nat.reduceSub, Nat.sub_self]
theorem fmtShift_0_6 {op : BitVec 6} {d : BitVec 5} {a : BitVec 5} {z : BitVec 8} {sel : BitVec 2} {n : BitVec 6} : fieldOf (fmtShift op d a z sel n) 0 6 = n := by
  simp (disch := decide) only [fieldOf, fmtShift, BitVec.extractLsb'_append_eq_of_add_le, BitVec.extractLsb'_append_eq_of_le,
    BitVec.extractLsb'_eq_self, Nat.reduceSub, Nat.sub_self]
theorem fmtShift_6_2 {op : BitVec 6} {d : BitVec 5} {a : BitVec 5} {z : BitVec 8} {sel : BitVec 2} {n : BitVec 6} : fieldOf (fmtShift op d a z sel n) 6 2 = sel := by
  simp (disch := decide) only [fieldOf, fmtShift, BitVec.extractLsb'_append_eq_of_add_le, BitVec.extractLsb'_append_eq_of_le,
    BitVec.extractLsb'_eq_self, Nat.reduceSub, Nat.sub_self]
theorem fmtShift_8_8 {op : BitVec 6} {d : BitVec 5} {a : BitVec 5} {z : BitVec 8} {sel : BitVec 2} {n : BitVec 6} : fieldOf (fmtShift op d a z sel n) 8 8 = z := by
  simp (disch := decide) only [fieldOf, fmtShift, BitVec.extractLsb'_append_eq_of_add_le, BitVec.extractLsb'_append_eq_of_le,
    BitVec.extractLsb'_eq_self, Nat.reduceSub, Nat.sub_self]
theorem fmtShift_16_5 {op : BitVec 6} {d : BitVec 5} {a : BitVec 5} {z : BitVec 8} {sel : BitVec 2} {n : BitVec 6} : fieldOf (fmtShift op d a z sel n) 16 5 = a := by
  simp (disch := decide) only [fieldOf, fmtShift, BitVec.extractLsb'_append_eq_of_add_le, BitVec.extractLsb'_append_eq_of_le,
    BitVec.extractLsb'_eq_self, Nat.reduceSub, Nat.sub_self]
theorem fmtShift_21_5 {op : BitVec 6} {d : BitVec 5} {a : BitVec 5} {z : BitVec 8} {sel : BitVec 2} {n : BitVec 6} : fieldOf (fmtShift op d a z sel n) 21 5 = d := by
  simp (disch := decide) only [fieldOf, fmtShift, BitVec.extractLsb'_append_eq_of_add_le, BitVec.extractLsb'_append_eq_of_le,
    BitVec.extractLsb'_eq_self, Nat.reduceSub, Nat.sub_self]
theorem fmtShift_26_6 {op : BitVec 6} {d : BitVec 5} {a : BitVec 5} {z : BitVec 8} {sel : BitVec 2} {n : BitVec 6} : fieldOf (fmtShift op d a z sel n) 26 6 = op := by
  simp (disch := decide) only [fieldOf, fmtShift, BitVec.extractLsb'_append_eq_of_add_le, BitVec.extractLsb'_append_eq_of_le,
    BitVec.extractLsb'_eq_self, Nat.reduceSub, Nat.sub_self]
theorem fmtU_0_21 {op : BitVec 6} {d : BitVec 5} {imm : BitVec 21} : fieldOf (fmtU op d imm) 0 21 = imm := by
  simp (disch := decide) only [fieldOf, fmtU, BitVec.extractLsb'_append_eq_of_add_le, BitVec.extractLsb'_append_eq_of_le,
    BitVec.extractLsb'_eq_self, Nat.reduceSub, Nat.sub_self]
theorem fmtU_21_5 {op : BitVec 6} {d : BitVec 5} {imm : BitVec 21} : fieldOf (fmtU op d imm) 21 5 = d := by
  simp (disch := decide) only [fieldOf, fmtU, BitVec.extractLsb'_append_eq_of_add_le, BitVec.extractLsb'_append_eq_of_le,
    BitVec.extractLsb'_eq_self, Nat.reduceSub, Nat.sub_self]
theorem fmtU_26_6 {op : BitVec 6} {d : BitVec 5} {imm : BitVec 21} : fieldOf (fmtU op d imm) 26 6 = op := by
  simp (disch := decide) only [fieldOf, fmtU, BitVec.extractLsb'_append_eq_of_add_le, BitVec.extractLsb'_append_eq_of_le,
    BitVec.extractLsb'_eq_self, Nat.reduceSub, Nat.sub_self]
theorem fmtM_0_13 {op : BitVec 6} {d : BitVec 5} {a : BitVec 5} {sel : BitVec 3} {o : BitVec 13} : fieldOf (fmtM op d a sel o) 0 13 = o := by
  simp (disch := decide) only [fieldOf, fmtM, BitVec.extractLsb'_append_eq_of_add_le, BitVec.extractLsb'_append_eq_of_le,
    BitVec.extractLsb'_eq_self, Nat.reduceSub, Nat.sub_self]
theorem fmtM_13_3 {op : BitVec 6} {d : BitVec 5} {a : BitVec 5} {sel : BitVec 3} {o : BitVec 13} : fieldOf (fmtM op d a sel o) 13 3 = sel := by
  simp (disch := decide) only [fieldOf, fmtM, BitVec.extractLsb'_append_eq_of_add_le, BitVec.extractLsb'_append_eq_of_le,
    BitVec.extractLsb'_eq_self, Nat.reduceSub, Nat.sub_self]
theorem fmtM_16_5 {op : BitVec 6} {d : BitVec 5} {a : BitVec 5} {sel : BitVec 3} {o : BitVec 13} : fieldOf (fmtM op d a sel o) 16 5 = a := by
  simp (disch := decide) only [fieldOf, fmtM, BitVec.extractLsb'_append_eq_of_add_le, BitVec.extractLsb'_append_eq_of_le,
    BitVec.extractLsb'_eq_self, Nat.reduceSub, Nat.sub_self]
theorem fmtM_21_5 {op : BitVec 6} {d : BitVec 5} {a : BitVec 5} {sel : BitVec 3} {o : BitVec 13} : fieldOf (fmtM op d a sel o) 21 5 = d := by
  simp (disch := decide) only [fieldOf, fmtM, BitVec.extractLsb'_append_eq_of_add_le, BitVec.extractLsb'_append_eq_of_le,
    BitVec.extractLsb'_eq_self, Nat.reduceSub, Nat.sub_self]
theorem fmtM_26_6 {op : BitVec 6} {d : BitVec 5} {a : BitVec 5} {sel : BitVec 3} {o : BitVec 13} : fieldOf (fmtM op d a sel o) 26 6 = op := by
  simp (disch := decide) only [fieldOf, fmtM, BitVec.extractLsb'_append_eq_of_add_le, BitVec.extractLsb'_append_eq_of_le,
    BitVec.extractLsb'_eq_self, Nat.reduceSub, Nat.sub_self]
theorem fmtScoped_0_11 {op : BitVec 6} {d : BitVec 5} {a : BitVec 5} {sel : BitVec 3} {s : BitVec 2} {o : BitVec 11} : fieldOf (fmtScoped op d a sel s o) 0 11 = o := by
  simp (disch := decide) only [fieldOf, fmtScoped, BitVec.extractLsb'_append_eq_of_add_le, BitVec.extractLsb'_append_eq_of_le,
    BitVec.extractLsb'_eq_self, Nat.reduceSub, Nat.sub_self]
theorem fmtScoped_11_2 {op : BitVec 6} {d : BitVec 5} {a : BitVec 5} {sel : BitVec 3} {s : BitVec 2} {o : BitVec 11} : fieldOf (fmtScoped op d a sel s o) 11 2 = s := by
  simp (disch := decide) only [fieldOf, fmtScoped, BitVec.extractLsb'_append_eq_of_add_le, BitVec.extractLsb'_append_eq_of_le,
    BitVec.extractLsb'_eq_self, Nat.reduceSub, Nat.sub_self]
theorem fmtScoped_13_3 {op : BitVec 6} {d : BitVec 5} {a : BitVec 5} {sel : BitVec 3} {s : BitVec 2} {o : BitVec 11} : fieldOf (fmtScoped op d a sel s o) 13 3 = sel := by
  simp (disch := decide) only [fieldOf, fmtScoped, BitVec.extractLsb'_append_eq_of_add_le, BitVec.extractLsb'_append_eq_of_le,
    BitVec.extractLsb'_eq_self, Nat.reduceSub, Nat.sub_self]
theorem fmtScoped_16_5 {op : BitVec 6} {d : BitVec 5} {a : BitVec 5} {sel : BitVec 3} {s : BitVec 2} {o : BitVec 11} : fieldOf (fmtScoped op d a sel s o) 16 5 = a := by
  simp (disch := decide) only [fieldOf, fmtScoped, BitVec.extractLsb'_append_eq_of_add_le, BitVec.extractLsb'_append_eq_of_le,
    BitVec.extractLsb'_eq_self, Nat.reduceSub, Nat.sub_self]
theorem fmtScoped_21_5 {op : BitVec 6} {d : BitVec 5} {a : BitVec 5} {sel : BitVec 3} {s : BitVec 2} {o : BitVec 11} : fieldOf (fmtScoped op d a sel s o) 21 5 = d := by
  simp (disch := decide) only [fieldOf, fmtScoped, BitVec.extractLsb'_append_eq_of_add_le, BitVec.extractLsb'_append_eq_of_le,
    BitVec.extractLsb'_eq_self, Nat.reduceSub, Nat.sub_self]
theorem fmtScoped_26_6 {op : BitVec 6} {d : BitVec 5} {a : BitVec 5} {sel : BitVec 3} {s : BitVec 2} {o : BitVec 11} : fieldOf (fmtScoped op d a sel s o) 26 6 = op := by
  simp (disch := decide) only [fieldOf, fmtScoped, BitVec.extractLsb'_append_eq_of_add_le, BitVec.extractLsb'_append_eq_of_le,
    BitVec.extractLsb'_eq_self, Nat.reduceSub, Nat.sub_self]
theorem fmtFloat_0_2 {op : BitVec 6} {d : BitVec 5} {a : BitVec 5} {b : BitVec 5} {sel : BitVec 5} {p : BitVec 1} {r : BitVec 3} {z : BitVec 2} : fieldOf (fmtFloat op d a b sel p r z) 0 2 = z := by
  simp (disch := decide) only [fieldOf, fmtFloat, BitVec.extractLsb'_append_eq_of_add_le, BitVec.extractLsb'_append_eq_of_le,
    BitVec.extractLsb'_eq_self, Nat.reduceSub, Nat.sub_self]
theorem fmtFloat_2_3 {op : BitVec 6} {d : BitVec 5} {a : BitVec 5} {b : BitVec 5} {sel : BitVec 5} {p : BitVec 1} {r : BitVec 3} {z : BitVec 2} : fieldOf (fmtFloat op d a b sel p r z) 2 3 = r := by
  simp (disch := decide) only [fieldOf, fmtFloat, BitVec.extractLsb'_append_eq_of_add_le, BitVec.extractLsb'_append_eq_of_le,
    BitVec.extractLsb'_eq_self, Nat.reduceSub, Nat.sub_self]
theorem fmtFloat_5_1 {op : BitVec 6} {d : BitVec 5} {a : BitVec 5} {b : BitVec 5} {sel : BitVec 5} {p : BitVec 1} {r : BitVec 3} {z : BitVec 2} : fieldOf (fmtFloat op d a b sel p r z) 5 1 = p := by
  simp (disch := decide) only [fieldOf, fmtFloat, BitVec.extractLsb'_append_eq_of_add_le, BitVec.extractLsb'_append_eq_of_le,
    BitVec.extractLsb'_eq_self, Nat.reduceSub, Nat.sub_self]
theorem fmtFloat_6_5 {op : BitVec 6} {d : BitVec 5} {a : BitVec 5} {b : BitVec 5} {sel : BitVec 5} {p : BitVec 1} {r : BitVec 3} {z : BitVec 2} : fieldOf (fmtFloat op d a b sel p r z) 6 5 = sel := by
  simp (disch := decide) only [fieldOf, fmtFloat, BitVec.extractLsb'_append_eq_of_add_le, BitVec.extractLsb'_append_eq_of_le,
    BitVec.extractLsb'_eq_self, Nat.reduceSub, Nat.sub_self]
theorem fmtFloat_11_1 {op : BitVec 6} {d : BitVec 5} {a : BitVec 5} {b : BitVec 5} {sel : BitVec 5} {p : BitVec 1} {r : BitVec 3} {z : BitVec 2} : fieldOf (fmtFloat op d a b sel p r z) 11 1 = b.extractLsb' 0 1 := by
  simp (disch := decide) only [fieldOf, fmtFloat, BitVec.extractLsb'_append_eq_of_add_le, BitVec.extractLsb'_append_eq_of_le,
    BitVec.extractLsb'_eq_self, Nat.reduceSub, Nat.sub_self]
theorem fmtFloat_11_5 {op : BitVec 6} {d : BitVec 5} {a : BitVec 5} {b : BitVec 5} {sel : BitVec 5} {p : BitVec 1} {r : BitVec 3} {z : BitVec 2} : fieldOf (fmtFloat op d a b sel p r z) 11 5 = b := by
  simp (disch := decide) only [fieldOf, fmtFloat, BitVec.extractLsb'_append_eq_of_add_le, BitVec.extractLsb'_append_eq_of_le,
    BitVec.extractLsb'_eq_self, Nat.reduceSub, Nat.sub_self]
theorem fmtFloat_12_4 {op : BitVec 6} {d : BitVec 5} {a : BitVec 5} {b : BitVec 5} {sel : BitVec 5} {p : BitVec 1} {r : BitVec 3} {z : BitVec 2} : fieldOf (fmtFloat op d a b sel p r z) 12 4 = b.extractLsb' 1 4 := by
  simp (disch := decide) only [fieldOf, fmtFloat, BitVec.extractLsb'_append_eq_of_add_le, BitVec.extractLsb'_append_eq_of_le,
    BitVec.extractLsb'_eq_self, Nat.reduceSub, Nat.sub_self]
theorem fmtFloat_16_5 {op : BitVec 6} {d : BitVec 5} {a : BitVec 5} {b : BitVec 5} {sel : BitVec 5} {p : BitVec 1} {r : BitVec 3} {z : BitVec 2} : fieldOf (fmtFloat op d a b sel p r z) 16 5 = a := by
  simp (disch := decide) only [fieldOf, fmtFloat, BitVec.extractLsb'_append_eq_of_add_le, BitVec.extractLsb'_append_eq_of_le,
    BitVec.extractLsb'_eq_self, Nat.reduceSub, Nat.sub_self]
theorem fmtFloat_21_5 {op : BitVec 6} {d : BitVec 5} {a : BitVec 5} {b : BitVec 5} {sel : BitVec 5} {p : BitVec 1} {r : BitVec 3} {z : BitVec 2} : fieldOf (fmtFloat op d a b sel p r z) 21 5 = d := by
  simp (disch := decide) only [fieldOf, fmtFloat, BitVec.extractLsb'_append_eq_of_add_le, BitVec.extractLsb'_append_eq_of_le,
    BitVec.extractLsb'_eq_self, Nat.reduceSub, Nat.sub_self]
theorem fmtFloat_26_6 {op : BitVec 6} {d : BitVec 5} {a : BitVec 5} {b : BitVec 5} {sel : BitVec 5} {p : BitVec 1} {r : BitVec 3} {z : BitVec 2} : fieldOf (fmtFloat op d a b sel p r z) 26 6 = op := by
  simp (disch := decide) only [fieldOf, fmtFloat, BitVec.extractLsb'_append_eq_of_add_le, BitVec.extractLsb'_append_eq_of_le,
    BitVec.extractLsb'_eq_self, Nat.reduceSub, Nat.sub_self]
theorem fmtFused_0_5 {op : BitVec 6} {d : BitVec 5} {a : BitVec 5} {b : BitVec 5} {sel : BitVec 2} {p : BitVec 1} {r : BitVec 3} {c : BitVec 5} : fieldOf (fmtFused op d a b sel p r c) 0 5 = c := by
  simp (disch := decide) only [fieldOf, fmtFused, BitVec.extractLsb'_append_eq_of_add_le, BitVec.extractLsb'_append_eq_of_le,
    BitVec.extractLsb'_eq_self, Nat.reduceSub, Nat.sub_self]
theorem fmtFused_5_3 {op : BitVec 6} {d : BitVec 5} {a : BitVec 5} {b : BitVec 5} {sel : BitVec 2} {p : BitVec 1} {r : BitVec 3} {c : BitVec 5} : fieldOf (fmtFused op d a b sel p r c) 5 3 = r := by
  simp (disch := decide) only [fieldOf, fmtFused, BitVec.extractLsb'_append_eq_of_add_le, BitVec.extractLsb'_append_eq_of_le,
    BitVec.extractLsb'_eq_self, Nat.reduceSub, Nat.sub_self]
theorem fmtFused_8_1 {op : BitVec 6} {d : BitVec 5} {a : BitVec 5} {b : BitVec 5} {sel : BitVec 2} {p : BitVec 1} {r : BitVec 3} {c : BitVec 5} : fieldOf (fmtFused op d a b sel p r c) 8 1 = p := by
  simp (disch := decide) only [fieldOf, fmtFused, BitVec.extractLsb'_append_eq_of_add_le, BitVec.extractLsb'_append_eq_of_le,
    BitVec.extractLsb'_eq_self, Nat.reduceSub, Nat.sub_self]
theorem fmtFused_9_2 {op : BitVec 6} {d : BitVec 5} {a : BitVec 5} {b : BitVec 5} {sel : BitVec 2} {p : BitVec 1} {r : BitVec 3} {c : BitVec 5} : fieldOf (fmtFused op d a b sel p r c) 9 2 = sel := by
  simp (disch := decide) only [fieldOf, fmtFused, BitVec.extractLsb'_append_eq_of_add_le, BitVec.extractLsb'_append_eq_of_le,
    BitVec.extractLsb'_eq_self, Nat.reduceSub, Nat.sub_self]
theorem fmtFused_11_5 {op : BitVec 6} {d : BitVec 5} {a : BitVec 5} {b : BitVec 5} {sel : BitVec 2} {p : BitVec 1} {r : BitVec 3} {c : BitVec 5} : fieldOf (fmtFused op d a b sel p r c) 11 5 = b := by
  simp (disch := decide) only [fieldOf, fmtFused, BitVec.extractLsb'_append_eq_of_add_le, BitVec.extractLsb'_append_eq_of_le,
    BitVec.extractLsb'_eq_self, Nat.reduceSub, Nat.sub_self]
theorem fmtFused_16_5 {op : BitVec 6} {d : BitVec 5} {a : BitVec 5} {b : BitVec 5} {sel : BitVec 2} {p : BitVec 1} {r : BitVec 3} {c : BitVec 5} : fieldOf (fmtFused op d a b sel p r c) 16 5 = a := by
  simp (disch := decide) only [fieldOf, fmtFused, BitVec.extractLsb'_append_eq_of_add_le, BitVec.extractLsb'_append_eq_of_le,
    BitVec.extractLsb'_eq_self, Nat.reduceSub, Nat.sub_self]
theorem fmtFused_21_5 {op : BitVec 6} {d : BitVec 5} {a : BitVec 5} {b : BitVec 5} {sel : BitVec 2} {p : BitVec 1} {r : BitVec 3} {c : BitVec 5} : fieldOf (fmtFused op d a b sel p r c) 21 5 = d := by
  simp (disch := decide) only [fieldOf, fmtFused, BitVec.extractLsb'_append_eq_of_add_le, BitVec.extractLsb'_append_eq_of_le,
    BitVec.extractLsb'_eq_self, Nat.reduceSub, Nat.sub_self]
theorem fmtFused_26_6 {op : BitVec 6} {d : BitVec 5} {a : BitVec 5} {b : BitVec 5} {sel : BitVec 2} {p : BitVec 1} {r : BitVec 3} {c : BitVec 5} : fieldOf (fmtFused op d a b sel p r c) 26 6 = op := by
  simp (disch := decide) only [fieldOf, fmtFused, BitVec.extractLsb'_append_eq_of_add_le, BitVec.extractLsb'_append_eq_of_le,
    BitVec.extractLsb'_eq_self, Nat.reduceSub, Nat.sub_self]
theorem fmtAtomic_0_4 {op : BitVec 6} {d : BitVec 5} {a : BitVec 5} {b : BitVec 5} {sel : BitVec 4} {s : BitVec 2} {w : BitVec 1} {z : BitVec 4} : fieldOf (fmtAtomic op d a b sel s w z) 0 4 = z := by
  simp (disch := decide) only [fieldOf, fmtAtomic, BitVec.extractLsb'_append_eq_of_add_le, BitVec.extractLsb'_append_eq_of_le,
    BitVec.extractLsb'_eq_self, Nat.reduceSub, Nat.sub_self]
theorem fmtAtomic_4_1 {op : BitVec 6} {d : BitVec 5} {a : BitVec 5} {b : BitVec 5} {sel : BitVec 4} {s : BitVec 2} {w : BitVec 1} {z : BitVec 4} : fieldOf (fmtAtomic op d a b sel s w z) 4 1 = w := by
  simp (disch := decide) only [fieldOf, fmtAtomic, BitVec.extractLsb'_append_eq_of_add_le, BitVec.extractLsb'_append_eq_of_le,
    BitVec.extractLsb'_eq_self, Nat.reduceSub, Nat.sub_self]
theorem fmtAtomic_5_2 {op : BitVec 6} {d : BitVec 5} {a : BitVec 5} {b : BitVec 5} {sel : BitVec 4} {s : BitVec 2} {w : BitVec 1} {z : BitVec 4} : fieldOf (fmtAtomic op d a b sel s w z) 5 2 = s := by
  simp (disch := decide) only [fieldOf, fmtAtomic, BitVec.extractLsb'_append_eq_of_add_le, BitVec.extractLsb'_append_eq_of_le,
    BitVec.extractLsb'_eq_self, Nat.reduceSub, Nat.sub_self]
theorem fmtAtomic_7_4 {op : BitVec 6} {d : BitVec 5} {a : BitVec 5} {b : BitVec 5} {sel : BitVec 4} {s : BitVec 2} {w : BitVec 1} {z : BitVec 4} : fieldOf (fmtAtomic op d a b sel s w z) 7 4 = sel := by
  simp (disch := decide) only [fieldOf, fmtAtomic, BitVec.extractLsb'_append_eq_of_add_le, BitVec.extractLsb'_append_eq_of_le,
    BitVec.extractLsb'_eq_self, Nat.reduceSub, Nat.sub_self]
theorem fmtAtomic_11_5 {op : BitVec 6} {d : BitVec 5} {a : BitVec 5} {b : BitVec 5} {sel : BitVec 4} {s : BitVec 2} {w : BitVec 1} {z : BitVec 4} : fieldOf (fmtAtomic op d a b sel s w z) 11 5 = b := by
  simp (disch := decide) only [fieldOf, fmtAtomic, BitVec.extractLsb'_append_eq_of_add_le, BitVec.extractLsb'_append_eq_of_le,
    BitVec.extractLsb'_eq_self, Nat.reduceSub, Nat.sub_self]
theorem fmtAtomic_16_5 {op : BitVec 6} {d : BitVec 5} {a : BitVec 5} {b : BitVec 5} {sel : BitVec 4} {s : BitVec 2} {w : BitVec 1} {z : BitVec 4} : fieldOf (fmtAtomic op d a b sel s w z) 16 5 = a := by
  simp (disch := decide) only [fieldOf, fmtAtomic, BitVec.extractLsb'_append_eq_of_add_le, BitVec.extractLsb'_append_eq_of_le,
    BitVec.extractLsb'_eq_self, Nat.reduceSub, Nat.sub_self]
theorem fmtAtomic_21_5 {op : BitVec 6} {d : BitVec 5} {a : BitVec 5} {b : BitVec 5} {sel : BitVec 4} {s : BitVec 2} {w : BitVec 1} {z : BitVec 4} : fieldOf (fmtAtomic op d a b sel s w z) 21 5 = d := by
  simp (disch := decide) only [fieldOf, fmtAtomic, BitVec.extractLsb'_append_eq_of_add_le, BitVec.extractLsb'_append_eq_of_le,
    BitVec.extractLsb'_eq_self, Nat.reduceSub, Nat.sub_self]
theorem fmtAtomic_26_6 {op : BitVec 6} {d : BitVec 5} {a : BitVec 5} {b : BitVec 5} {sel : BitVec 4} {s : BitVec 2} {w : BitVec 1} {z : BitVec 4} : fieldOf (fmtAtomic op d a b sel s w z) 26 6 = op := by
  simp (disch := decide) only [fieldOf, fmtAtomic, BitVec.extractLsb'_append_eq_of_add_le, BitVec.extractLsb'_append_eq_of_le,
    BitVec.extractLsb'_eq_self, Nat.reduceSub, Nat.sub_self]
theorem fmtSync_0_4 {op : BitVec 6} {d : BitVec 5} {a : BitVec 5} {b : BitVec 5} {sel : BitVec 5} {s : BitVec 2} {g : BitVec 4} : fieldOf (fmtSync op d a b sel s g) 0 4 = g := by
  simp (disch := decide) only [fieldOf, fmtSync, BitVec.extractLsb'_append_eq_of_add_le, BitVec.extractLsb'_append_eq_of_le,
    BitVec.extractLsb'_eq_self, Nat.reduceSub, Nat.sub_self]
theorem fmtSync_4_2 {op : BitVec 6} {d : BitVec 5} {a : BitVec 5} {b : BitVec 5} {sel : BitVec 5} {s : BitVec 2} {g : BitVec 4} : fieldOf (fmtSync op d a b sel s g) 4 2 = s := by
  simp (disch := decide) only [fieldOf, fmtSync, BitVec.extractLsb'_append_eq_of_add_le, BitVec.extractLsb'_append_eq_of_le,
    BitVec.extractLsb'_eq_self, Nat.reduceSub, Nat.sub_self]
theorem fmtSync_6_5 {op : BitVec 6} {d : BitVec 5} {a : BitVec 5} {b : BitVec 5} {sel : BitVec 5} {s : BitVec 2} {g : BitVec 4} : fieldOf (fmtSync op d a b sel s g) 6 5 = sel := by
  simp (disch := decide) only [fieldOf, fmtSync, BitVec.extractLsb'_append_eq_of_add_le, BitVec.extractLsb'_append_eq_of_le,
    BitVec.extractLsb'_eq_self, Nat.reduceSub, Nat.sub_self]
theorem fmtSync_11_5 {op : BitVec 6} {d : BitVec 5} {a : BitVec 5} {b : BitVec 5} {sel : BitVec 5} {s : BitVec 2} {g : BitVec 4} : fieldOf (fmtSync op d a b sel s g) 11 5 = b := by
  simp (disch := decide) only [fieldOf, fmtSync, BitVec.extractLsb'_append_eq_of_add_le, BitVec.extractLsb'_append_eq_of_le,
    BitVec.extractLsb'_eq_self, Nat.reduceSub, Nat.sub_self]
theorem fmtSync_16_5 {op : BitVec 6} {d : BitVec 5} {a : BitVec 5} {b : BitVec 5} {sel : BitVec 5} {s : BitVec 2} {g : BitVec 4} : fieldOf (fmtSync op d a b sel s g) 16 5 = a := by
  simp (disch := decide) only [fieldOf, fmtSync, BitVec.extractLsb'_append_eq_of_add_le, BitVec.extractLsb'_append_eq_of_le,
    BitVec.extractLsb'_eq_self, Nat.reduceSub, Nat.sub_self]
theorem fmtSync_21_5 {op : BitVec 6} {d : BitVec 5} {a : BitVec 5} {b : BitVec 5} {sel : BitVec 5} {s : BitVec 2} {g : BitVec 4} : fieldOf (fmtSync op d a b sel s g) 21 5 = d := by
  simp (disch := decide) only [fieldOf, fmtSync, BitVec.extractLsb'_append_eq_of_add_le, BitVec.extractLsb'_append_eq_of_le,
    BitVec.extractLsb'_eq_self, Nat.reduceSub, Nat.sub_self]
theorem fmtSync_26_6 {op : BitVec 6} {d : BitVec 5} {a : BitVec 5} {b : BitVec 5} {sel : BitVec 5} {s : BitVec 2} {g : BitVec 4} : fieldOf (fmtSync op d a b sel s g) 26 6 = op := by
  simp (disch := decide) only [fieldOf, fmtSync, BitVec.extractLsb'_append_eq_of_add_le, BitVec.extractLsb'_append_eq_of_le,
    BitVec.extractLsb'_eq_self, Nat.reduceSub, Nat.sub_self]
theorem fmtV_0_1 {op : BitVec 6} {d : BitVec 5} {a : BitVec 5} {b : BitVec 5} {sel : BitVec 8} {l : BitVec 3} : fieldOf (fmtV op d a b sel l) 0 1 = l.extractLsb' 0 1 := by
  simp (disch := decide) only [fieldOf, fmtV, BitVec.extractLsb'_append_eq_of_add_le, BitVec.extractLsb'_append_eq_of_le,
    BitVec.extractLsb'_eq_self, Nat.reduceSub, Nat.sub_self]
theorem fmtV_0_3 {op : BitVec 6} {d : BitVec 5} {a : BitVec 5} {b : BitVec 5} {sel : BitVec 8} {l : BitVec 3} : fieldOf (fmtV op d a b sel l) 0 3 = l := by
  simp (disch := decide) only [fieldOf, fmtV, BitVec.extractLsb'_append_eq_of_add_le, BitVec.extractLsb'_append_eq_of_le,
    BitVec.extractLsb'_eq_self, Nat.reduceSub, Nat.sub_self]
theorem fmtV_1_1 {op : BitVec 6} {d : BitVec 5} {a : BitVec 5} {b : BitVec 5} {sel : BitVec 8} {l : BitVec 3} : fieldOf (fmtV op d a b sel l) 1 1 = l.extractLsb' 1 1 := by
  simp (disch := decide) only [fieldOf, fmtV, BitVec.extractLsb'_append_eq_of_add_le, BitVec.extractLsb'_append_eq_of_le,
    BitVec.extractLsb'_eq_self, Nat.reduceSub, Nat.sub_self]
theorem fmtV_1_2 {op : BitVec 6} {d : BitVec 5} {a : BitVec 5} {b : BitVec 5} {sel : BitVec 8} {l : BitVec 3} : fieldOf (fmtV op d a b sel l) 1 2 = l.extractLsb' 1 2 := by
  simp (disch := decide) only [fieldOf, fmtV, BitVec.extractLsb'_append_eq_of_add_le, BitVec.extractLsb'_append_eq_of_le,
    BitVec.extractLsb'_eq_self, Nat.reduceSub, Nat.sub_self]
theorem fmtV_2_1 {op : BitVec 6} {d : BitVec 5} {a : BitVec 5} {b : BitVec 5} {sel : BitVec 8} {l : BitVec 3} : fieldOf (fmtV op d a b sel l) 2 1 = l.extractLsb' 2 1 := by
  simp (disch := decide) only [fieldOf, fmtV, BitVec.extractLsb'_append_eq_of_add_le, BitVec.extractLsb'_append_eq_of_le,
    BitVec.extractLsb'_eq_self, Nat.reduceSub, Nat.sub_self]
theorem fmtV_3_8 {op : BitVec 6} {d : BitVec 5} {a : BitVec 5} {b : BitVec 5} {sel : BitVec 8} {l : BitVec 3} : fieldOf (fmtV op d a b sel l) 3 8 = sel := by
  simp (disch := decide) only [fieldOf, fmtV, BitVec.extractLsb'_append_eq_of_add_le, BitVec.extractLsb'_append_eq_of_le,
    BitVec.extractLsb'_eq_self, Nat.reduceSub, Nat.sub_self]
theorem fmtV_11_5 {op : BitVec 6} {d : BitVec 5} {a : BitVec 5} {b : BitVec 5} {sel : BitVec 8} {l : BitVec 3} : fieldOf (fmtV op d a b sel l) 11 5 = b := by
  simp (disch := decide) only [fieldOf, fmtV, BitVec.extractLsb'_append_eq_of_add_le, BitVec.extractLsb'_append_eq_of_le,
    BitVec.extractLsb'_eq_self, Nat.reduceSub, Nat.sub_self]
theorem fmtV_16_5 {op : BitVec 6} {d : BitVec 5} {a : BitVec 5} {b : BitVec 5} {sel : BitVec 8} {l : BitVec 3} : fieldOf (fmtV op d a b sel l) 16 5 = a := by
  simp (disch := decide) only [fieldOf, fmtV, BitVec.extractLsb'_append_eq_of_add_le, BitVec.extractLsb'_append_eq_of_le,
    BitVec.extractLsb'_eq_self, Nat.reduceSub, Nat.sub_self]
theorem fmtV_21_5 {op : BitVec 6} {d : BitVec 5} {a : BitVec 5} {b : BitVec 5} {sel : BitVec 8} {l : BitVec 3} : fieldOf (fmtV op d a b sel l) 21 5 = d := by
  simp (disch := decide) only [fieldOf, fmtV, BitVec.extractLsb'_append_eq_of_add_le, BitVec.extractLsb'_append_eq_of_le,
    BitVec.extractLsb'_eq_self, Nat.reduceSub, Nat.sub_self]
theorem fmtV_26_6 {op : BitVec 6} {d : BitVec 5} {a : BitVec 5} {b : BitVec 5} {sel : BitVec 8} {l : BitVec 3} : fieldOf (fmtV op d a b sel l) 26 6 = op := by
  simp (disch := decide) only [fieldOf, fmtV, BitVec.extractLsb'_append_eq_of_add_le, BitVec.extractLsb'_append_eq_of_le,
    BitVec.extractLsb'_eq_self, Nat.reduceSub, Nat.sub_self]
theorem decodeFields_01 {x : BitVec 32} (h : fieldOf x 26 6 = 0x01#6) : decodeFields x = decodeMajor01 x := by
  simp only [decodeFields, h]; rfl
theorem decodeFields_02 {x : BitVec 32} (h : fieldOf x 26 6 = 0x02#6) : decodeFields x = decodeMajor02 x := by
  simp only [decodeFields, h]; rfl
theorem decodeFields_03 {x : BitVec 32} (h : fieldOf x 26 6 = 0x03#6) : decodeFields x = decodeMajor03 x := by
  simp only [decodeFields, h]; rfl
theorem decodeFields_04 {x : BitVec 32} (h : fieldOf x 26 6 = 0x04#6) : decodeFields x = decodeMajor04 x := by
  simp only [decodeFields, h]; rfl
theorem decodeFields_05 {x : BitVec 32} (h : fieldOf x 26 6 = 0x05#6) : decodeFields x = decodeMajor05 x := by
  simp only [decodeFields, h]; rfl
theorem decodeFields_06 {x : BitVec 32} (h : fieldOf x 26 6 = 0x06#6) : decodeFields x = decodeMajor06 x := by
  simp only [decodeFields, h]; rfl
theorem decodeFields_07 {x : BitVec 32} (h : fieldOf x 26 6 = 0x07#6) : decodeFields x = decodeMajor07 x := by
  simp only [decodeFields, h]; rfl
theorem decodeFields_08 {x : BitVec 32} (h : fieldOf x 26 6 = 0x08#6) : decodeFields x = decodeMajor08 x := by
  simp only [decodeFields, h]; rfl
theorem decodeFields_09 {x : BitVec 32} (h : fieldOf x 26 6 = 0x09#6) : decodeFields x = decodeMajor09 x := by
  simp only [decodeFields, h]; rfl
theorem decodeFields_0A {x : BitVec 32} (h : fieldOf x 26 6 = 0x0A#6) : decodeFields x = decodeMajor0A x := by
  simp only [decodeFields, h]; rfl
theorem decodeFields_0B {x : BitVec 32} (h : fieldOf x 26 6 = 0x0B#6) : decodeFields x = decodeMajor0B x := by
  simp only [decodeFields, h]; rfl
theorem decodeFields_0C {x : BitVec 32} (h : fieldOf x 26 6 = 0x0C#6) : decodeFields x = decodeMajor0C x := by
  simp only [decodeFields, h]; rfl
theorem decodeFields_0D {x : BitVec 32} (h : fieldOf x 26 6 = 0x0D#6) : decodeFields x = decodeMajor0D x := by
  simp only [decodeFields, h]; rfl
theorem decodeFields_0E {x : BitVec 32} (h : fieldOf x 26 6 = 0x0E#6) : decodeFields x = decodeMajor0E x := by
  simp only [decodeFields, h]; rfl
theorem decodeFields_0F {x : BitVec 32} (h : fieldOf x 26 6 = 0x0F#6) : decodeFields x = decodeMajor0F x := by
  simp only [decodeFields, h]; rfl
theorem decodeFields_10 {x : BitVec 32} (h : fieldOf x 26 6 = 0x10#6) : decodeFields x = decodeMajor10 x := by
  simp only [decodeFields, h]; rfl
theorem decodeFields_11 {x : BitVec 32} (h : fieldOf x 26 6 = 0x11#6) : decodeFields x = decodeMajor11 x := by
  simp only [decodeFields, h]; rfl
theorem decodeFields_12 {x : BitVec 32} (h : fieldOf x 26 6 = 0x12#6) : decodeFields x = decodeMajor12 x := by
  simp only [decodeFields, h]; rfl
theorem decodeFields_13 {x : BitVec 32} (h : fieldOf x 26 6 = 0x13#6) : decodeFields x = decodeMajor13 x := by
  simp only [decodeFields, h]; rfl
theorem decodeFields_14 {x : BitVec 32} (h : fieldOf x 26 6 = 0x14#6) : decodeFields x = decodeMajor14 x := by
  simp only [decodeFields, h]; rfl
theorem decodeFields_15 {x : BitVec 32} (h : fieldOf x 26 6 = 0x15#6) : decodeFields x = decodeMajor15 x := by
  simp only [decodeFields, h]; rfl
theorem decodeFields_16 {x : BitVec 32} (h : fieldOf x 26 6 = 0x16#6) : decodeFields x = decodeMajor16 x := by
  simp only [decodeFields, h]; rfl
theorem decodeFields_17 {x : BitVec 32} (h : fieldOf x 26 6 = 0x17#6) : decodeFields x = decodeMajor17 x := by
  simp only [decodeFields, h]; rfl
theorem decodeFields_18 {x : BitVec 32} (h : fieldOf x 26 6 = 0x18#6) : decodeFields x = decodeMajor18 x := by
  simp only [decodeFields, h]; rfl
theorem decodeFields_19 {x : BitVec 32} (h : fieldOf x 26 6 = 0x19#6) : decodeFields x = decodeMajor19 x := by
  simp only [decodeFields, h]; rfl
theorem decodeFields_1B {x : BitVec 32} (h : fieldOf x 26 6 = 0x1B#6) : decodeFields x = decodeMajor1B x := by
  simp only [decodeFields, h]; rfl
theorem decodeFields_1C {x : BitVec 32} (h : fieldOf x 26 6 = 0x1C#6) : decodeFields x = decodeMajor1C x := by
  simp only [decodeFields, h]; rfl
theorem decodeFields_1D {x : BitVec 32} (h : fieldOf x 26 6 = 0x1D#6) : decodeFields x = decodeMajor1D x := by
  simp only [decodeFields, h]; rfl
theorem decodeFields_1E {x : BitVec 32} (h : fieldOf x 26 6 = 0x1E#6) : decodeFields x = decodeMajor1E x := by
  simp only [decodeFields, h]; rfl
theorem decodeFields_1F {x : BitVec 32} (h : fieldOf x 26 6 = 0x1F#6) : decodeFields x = decodeMajor1F x := by
  simp only [decodeFields, h]; rfl
theorem decodeFields_20 {x : BitVec 32} (h : fieldOf x 26 6 = 0x20#6) : decodeFields x = decodeMajor20 x := by
  simp only [decodeFields, h]; rfl
theorem decodeFields_21 {x : BitVec 32} (h : fieldOf x 26 6 = 0x21#6) : decodeFields x = decodeMajor21 x := by
  simp only [decodeFields, h]; rfl
theorem decodeFields_22 {x : BitVec 32} (h : fieldOf x 26 6 = 0x22#6) : decodeFields x = decodeMajor22 x := by
  simp only [decodeFields, h]; rfl
theorem decodeFields_23 {x : BitVec 32} (h : fieldOf x 26 6 = 0x23#6) : decodeFields x = decodeMajor23 x := by
  simp only [decodeFields, h]; rfl
theorem decodeFields_24 {x : BitVec 32} (h : fieldOf x 26 6 = 0x24#6) : decodeFields x = decodeMajor24 x := by
  simp only [decodeFields, h]; rfl
theorem decodeFields_25 {x : BitVec 32} (h : fieldOf x 26 6 = 0x25#6) : decodeFields x = decodeMajor25 x := by
  simp only [decodeFields, h]; rfl
theorem decodeFields_26 {x : BitVec 32} (h : fieldOf x 26 6 = 0x26#6) : decodeFields x = decodeMajor26 x := by
  simp only [decodeFields, h]; rfl
theorem decodeFields_27 {x : BitVec 32} (h : fieldOf x 26 6 = 0x27#6) : decodeFields x = decodeMajor27 x := by
  simp only [decodeFields, h]; rfl
theorem decodeFields_28 {x : BitVec 32} (h : fieldOf x 26 6 = 0x28#6) : decodeFields x = decodeMajor28 x := by
  simp only [decodeFields, h]; rfl
theorem decodeFields_29 {x : BitVec 32} (h : fieldOf x 26 6 = 0x29#6) : decodeFields x = decodeMajor29 x := by
  simp only [decodeFields, h]; rfl
theorem decodeFields_2A {x : BitVec 32} (h : fieldOf x 26 6 = 0x2A#6) : decodeFields x = decodeMajor2A x := by
  simp only [decodeFields, h]; rfl
theorem decodeFields_2B {x : BitVec 32} (h : fieldOf x 26 6 = 0x2B#6) : decodeFields x = decodeMajor2B x := by
  simp only [decodeFields, h]; rfl
theorem decodeFields_2C {x : BitVec 32} (h : fieldOf x 26 6 = 0x2C#6) : decodeFields x = decodeMajor2C x := by
  simp only [decodeFields, h]; rfl
theorem decodeFields_2E {x : BitVec 32} (h : fieldOf x 26 6 = 0x2E#6) : decodeFields x = decodeMajor2E x := by
  simp only [decodeFields, h]; rfl
theorem decodeFields_2F {x : BitVec 32} (h : fieldOf x 26 6 = 0x2F#6) : decodeFields x = decodeMajor2F x := by
  simp only [decodeFields, h]; rfl
theorem decodeFields_30 {x : BitVec 32} (h : fieldOf x 26 6 = 0x30#6) : decodeFields x = decodeMajor30 x := by
  simp only [decodeFields, h]; rfl
theorem decodeFields_31 {x : BitVec 32} (h : fieldOf x 26 6 = 0x31#6) : decodeFields x = decodeMajor31 x := by
  simp only [decodeFields, h]; rfl
theorem decodeFields_32 {x : BitVec 32} (h : fieldOf x 26 6 = 0x32#6) : decodeFields x = decodeMajor32 x := by
  simp only [decodeFields, h]; rfl
theorem decodeFields_33 {x : BitVec 32} (h : fieldOf x 26 6 = 0x33#6) : decodeFields x = decodeMajor33 x := by
  simp only [decodeFields, h]; rfl

/-- A well-formed instruction that the tables give is the one decoded. -/
theorem decode_of_fields {x : BitVec 32} {i : Instr} (h : decodeFields x = some i) (hw : WellFormed i = true) : decode x = some i := by
  simp only [decode, h, hw, if_true]

end Sys2Proof
end

