-- ==== Sys2Proof/Laws/Memory.lean ====
section
/-! SUPPORT. Memory: what a read after a write gives, and that every operation keeps the canonical form. -/
namespace Sys2Proof.Machine
set_option Elab.async false

/-! ### The canonical form -/

/-- Every listed address lies at or above `b`. -/
def Mem.above (b : Nat) (m : List Host.Cell) : Prop := ∀ c ∈ m, b ≤ c.1

theorem Mem.wf_cons {k : Nat} {v : Byte} {m : List Host.Cell} :
    Mem.wf ((k, v) :: m) = true ↔ Mem.unlisted k ≠ some v ∧ Mem.above (k + 1) m ∧ Mem.wf m = true := by
  induction m generalizing k v with
  | nil => simp [Mem.wf, Mem.above]
  | cons x m ih =>
    obtain ⟨k', v'⟩ := x
    rw [Mem.wf]
    constructor
    · intro h
      simp only [Bool.and_eq_true, decide_eq_true_eq] at h
      obtain ⟨⟨h1, h2⟩, h3⟩ := h
      refine ⟨h1, ?_, h3⟩
      intro c hc
      rcases List.mem_cons.1 hc with rfl | hc
      · exact h2
      · exact le_trans (by omega) ((ih.1 h3).2.1 c hc)
    · rintro ⟨h1, h2, h3⟩
      simp only [Bool.and_eq_true, decide_eq_true_eq]
      exact ⟨⟨h1, h2 (k', v') (by simp)⟩, h3⟩

theorem Mem.wf_nil : Mem.wf [] = true := rfl

/-- Putting a cell in front of addresses that lie above keeps the form. -/
theorem Mem.wf_put {a : Nat} {v : Byte} {m : List Host.Cell} (hm : Mem.wf m = true) (ha : Mem.above (a + 1) m) :
    Mem.wf (Mem.cons a v m) = true := by
  unfold Mem.cons; split
  · exact hm
  · next h => exact Mem.wf_cons.2 ⟨h, ha, hm⟩

theorem Mem.above_put {a b : Nat} {v : Byte} {m : List Host.Cell} (hb : b ≤ a) (hm : Mem.above b m) : Mem.above b (Mem.cons a v m) := by
  unfold Mem.cons; split
  · exact hm
  · intro c hc
    rcases List.mem_cons.1 hc with rfl | hc
    · exact hb
    · exact hm c hc

theorem Mem.above_mono {a b : Nat} {m : List Host.Cell} (h : b ≤ a) (hm : Mem.above a m) : Mem.above b m := fun c hc => le_trans h (hm c hc)

theorem Mem.above_write {a b : Nat} {v : Byte} {m : List Host.Cell} (hb : b ≤ a) (hm : Mem.above b m) : Mem.above b (Mem.write a v m) := by
  induction m with
  | nil => exact Mem.above_put hb hm
  | cons x m ih =>
    obtain ⟨k, w⟩ := x
    have ht : Mem.above b m := fun c hc => hm c (List.mem_cons_of_mem _ hc)
    unfold Mem.write; split
    · exact Mem.above_put hb hm
    · split
      · exact Mem.above_put hb ht
      · intro c hc
        rcases List.mem_cons.1 hc with rfl | hc
        · exact hm _ (by simp)
        · exact ih ht c hc

/-- A write of one byte keeps the canonical form. -/
theorem Mem.wf_write {a : Nat} {v : Byte} {m : List Host.Cell} (hm : Mem.wf m = true) : Mem.wf (Mem.write a v m) = true := by
  induction m with
  | nil => exact Mem.wf_put rfl (by intro c hc; simp at hc)
  | cons x m ih =>
    obtain ⟨k, w⟩ := x
    obtain ⟨h1, h2, h3⟩ := Mem.wf_cons.1 hm
    unfold Mem.write; split
    · next h =>
      refine Mem.wf_put hm fun c hc => ?_
      rcases List.mem_cons.1 hc with rfl | hc
      · exact h
      · exact le_trans (by omega) (h2 c hc)
    · split
      · next h => subst h; exact Mem.wf_put h3 h2
      · next h h' => exact Mem.wf_cons.2 ⟨h1, Mem.above_write (by omega) h2, ih h3⟩

/-- A write of bytes keeps the canonical form. -/
theorem Mem.wf_writes {bs : List Byte} : ∀ {a : Nat} {m : List Host.Cell}, Mem.wf m = true → Mem.wf (Mem.writes a bs m) = true := by
  induction bs with
  | nil => exact fun hm => hm
  | cons b bs ih => exact fun hm => ih (Mem.wf_write hm)

/-- Keeping some of the cells keeps the canonical form. -/
theorem Mem.wf_filter {p : Host.Cell → Bool} {m : List Host.Cell} (hm : Mem.wf m = true) : Mem.wf (m.filter p) = true := by
  induction m with
  | nil => rfl
  | cons x m ih =>
    obtain ⟨k, v⟩ := x
    obtain ⟨h1, h2, h3⟩ := Mem.wf_cons.1 hm
    rw [List.filter_cons]; split
    · exact Mem.wf_cons.2 ⟨h1, fun c hc => h2 c (List.mem_filter.1 hc).1, ih h3⟩
    · exact ih h3

theorem Mem.wf_drop {a n : Nat} {m : List Host.Cell} (hm : Mem.wf m = true) : Mem.wf (Mem.drop a n m) = true := Mem.wf_filter hm

/-! ### Reads -/

theorem Mem.read_below {a b : Nat} {m : List Host.Cell} (hm : Mem.above b m) (h : a < b) : Mem.read m a = Mem.unlisted a := by
  cases m with
  | nil => rfl
  | cons x m =>
    obtain ⟨k, v⟩ := x
    have : b ≤ k := hm (k, v) (by simp)
    simp [Mem.read, show a < k by omega]

theorem Mem.read_put {a x : Nat} {v : Byte} {m : List Host.Cell} (ha : Mem.above (a + 1) m) :
    Mem.read (Mem.cons a v m) x = if x = a then some v else Mem.read m x := by
  unfold Mem.cons
  split
  · next h =>
    split
    · next e => subst e; rw [Mem.read_below ha (by omega), h]
    · rfl
  · simp only [Mem.read]
    split
    · next h => rw [if_neg (by omega), Mem.read_below ha (by omega)]
    · split <;> rfl

/-- A read after a write of one byte. -/
theorem Mem.read_write {a x : Nat} {v : Byte} {m : List Host.Cell} (hm : Mem.wf m = true) :
    Mem.read (Mem.write a v m) x = if x = a then some v else Mem.read m x := by
  induction m with
  | nil => exact Mem.read_put (by intro c hc; simp at hc)
  | cons y m ih =>
    obtain ⟨k, w⟩ := y
    obtain ⟨-, h2, h3⟩ := Mem.wf_cons.1 hm
    unfold Mem.write; split
    · next h =>
      refine Mem.read_put fun c hc => ?_
      rcases List.mem_cons.1 hc with rfl | hc
      · exact h
      · exact le_trans (by omega) (h2 c hc)
    · split
      · next h =>
        subst h
        rw [Mem.read_put h2]
        split
        · rfl
        · next e =>
          simp only [Mem.read, e, if_false]
          split
          · exact Mem.read_below h2 (by omega)
          · rfl
      · next h h' =>
        simp only [Mem.read, ih h3]
        split
        · next hx => rw [if_neg (by omega)]
        · split
          · next hx => rw [if_neg (by omega)]
          · rfl

/-- A write leaves every other byte alone. -/
theorem Mem.read_write_other {a x : Nat} {v : Byte} {m : List Host.Cell} (hm : Mem.wf m = true) (h : x ≠ a) :
    Mem.read (Mem.write a v m) x = Mem.read m x := by simp [Mem.read_write hm, h]

/-- A read after a write of bytes at rising addresses. -/
theorem Mem.read_writes {bs : List Byte} : ∀ {a x : Nat} {m : List Host.Cell}, Mem.wf m = true →
    Mem.read (Mem.writes a bs m) x = if a ≤ x ∧ x < a + bs.length then bs[x - a]? else Mem.read m x := by
  induction bs with
  | nil => intro a x m _; simp [Mem.writes]
  | cons b bs ih =>
    intro a x m hm
    rw [Mem.writes, ih (Mem.wf_write hm), Mem.read_write hm]
    by_cases h : x = a
    · subst h; simp
    · by_cases h2 : a + 1 ≤ x ∧ x < a + 1 + bs.length
      · have : x - a = (x - (a + 1)) + 1 := by omega
        rw [if_pos h2, if_pos (by simp; omega), this]; rfl
      · rw [if_neg h2, if_neg h, if_neg (by simp; omega)]

/-- A read after bytes are forgotten. -/
theorem Mem.read_drop {a n x : Nat} {m : List Host.Cell} (hm : Mem.wf m = true) :
    Mem.read (Mem.drop a n m) x = if a ≤ x ∧ x < a + n then Mem.unlisted x else Mem.read m x := by
  induction m with
  | nil => simp [Mem.drop, Mem.read]
  | cons y m ih =>
    obtain ⟨k, w⟩ := y
    obtain ⟨-, h2, h3⟩ := Mem.wf_cons.1 hm
    have e : Mem.drop a n ((k, w) :: m) = if a ≤ k ∧ k < a + n then Mem.drop a n m else (k, w) :: Mem.drop a n m := by
      unfold Mem.drop; rw [List.filter_cons]; by_cases h : a ≤ k ∧ k < a + n
      · simp [h]
      · rw [if_neg h, if_pos]; simp; omega
    rw [e]; split
    · next h =>
      rw [ih h3]
      split
      · rfl
      · next hx =>
        simp only [Mem.read]; split
        · next hk => exact Mem.read_below h2 (by omega)
        · rw [if_neg (by omega)]
    · next h =>
      simp only [Mem.read, ih h3]
      split
      · split <;> rfl
      · split
        · next hx => subst hx; rw [if_neg h]
        · rfl

/-! ### Bytes and numbers -/

@[simp] theorem toBytes_length (n v : Nat) : (toBytes n v).length = n := by
  induction n generalizing v with
  | zero => rfl
  | succ n ih => simp [toBytes, ih]

theorem leNat_toBytes (n v : Nat) : leNat (toBytes n v) = v % 256 ^ n := by
  induction n generalizing v with
  | zero => simp [toBytes, leNat, Nat.mod_one]
  | succ n ih =>
    have h := Nat.mod_mul (a := 256) (b := 256 ^ n) (x := v)
    rw [toBytes, leNat, ih, BitVec.toNat_ofNat, show 256 ^ (n + 1) = 256 * 256 ^ n by ring, h]

theorem leNat_lt (bs : List Byte) : leNat bs < 256 ^ bs.length := by
  induction bs with
  | nil => simp [leNat]
  | cons b bs ih =>
    have := b.isLt
    simp only [leNat, List.length_cons, pow_succ]
    omega

@[simp] theorem homeBytes_length (s : State) (slot pa n : Nat) : (s.homeBytes slot pa n).length = n := by
  induction n generalizing pa with
  | zero => rfl
  | succ n ih => simp [State.homeBytes, ih]

/-! ### The home store -/

@[simp] theorem State.keepUnder_mem (s : State) (ln : Nat) : (s.keepUnder ln).m.mem = s.m.mem := by unfold State.keepUnder; split <;> rfl
@[simp] theorem State.keepUnder_hart (s : State) (ln : Nat) : (s.keepUnder ln).hart = s.hart := by unfold State.keepUnder; split <;> rfl
@[simp] theorem State.keepUnder_others (s : State) (ln : Nat) : (s.keepUnder ln).others = s.others := by unfold State.keepUnder; split <;> rfl
@[simp] theorem State.keepUnder_cur (s : State) (ln : Nat) : (s.keepUnder ln).cur = s.cur := by unfold State.keepUnder; split <;> rfl
@[simp] theorem State.keepUnder_disp (s : State) (ln : Nat) : (s.keepUnder ln).disp = s.disp := by unfold State.keepUnder; split <;> rfl
@[simp] theorem State.keepUnder_fab (s : State) (ln : Nat) : (s.keepUnder ln).fab = s.fab := by unfold State.keepUnder; split <;> rfl

/-- A store at home keeps the canonical form. -/
theorem State.homeStore_wf (s : State) (slot pa : Nat) (bs : List Byte) (h : Mem.wf s.m.mem = true) :
    Mem.wf (s.homeStore slot pa bs).m.mem = true := by
  unfold State.homeStore
  split
  · simp only [State.updMem]
    have hk : Mem.wf (s.keepUnder (pa / 64)).m.mem = true := by rw [State.keepUnder_mem]; exact h
    split
    · exact Mem.wf_writes hk
    · exact Mem.wf_writes (Mem.wf_drop hk)
  · exact Mem.wf_writes h

/-- A store at home changes no hart. -/
@[simp] theorem State.homeStore_hart (s : State) (slot pa : Nat) (bs : List Byte) : (s.homeStore slot pa bs).hart = s.hart := by
  unfold State.homeStore; split
  · exact State.keepUnder_hart s _
  · rfl
@[simp] theorem State.homeStore_others (s : State) (slot pa : Nat) (bs : List Byte) : (s.homeStore slot pa bs).others = s.others := by
  unfold State.homeStore; split
  · exact State.keepUnder_others s _
  · rfl
@[simp] theorem State.homeStore_cur (s : State) (slot pa : Nat) (bs : List Byte) : (s.homeStore slot pa bs).cur = s.cur := by
  unfold State.homeStore; split
  · exact State.keepUnder_cur s _
  · rfl
@[simp] theorem State.homeStore_disp (s : State) (slot pa : Nat) (bs : List Byte) : (s.homeStore slot pa bs).disp = s.disp := by
  unfold State.homeStore; split
  · exact State.keepUnder_disp s _
  · rfl
@[simp] theorem State.homeStore_fab (s : State) (slot pa : Nat) (bs : List Byte) : (s.homeStore slot pa bs).fab = s.fab := by
  unfold State.homeStore; split
  · exact State.keepUnder_fab s _
  · rfl

/-- A store to on-chip storage writes its bytes and no other. -/
theorem State.homeStore_window (s : State) (slot pa : Nat) (bs : List Byte) (h : isHbm (laOf pa) = false) (hm : Mem.wf s.m.mem = true) (x : Nat) :
    Mem.read (s.homeStore slot pa bs).m.mem x = if pa ≤ x ∧ x < pa + bs.length then bs[x - pa]? else Mem.read s.m.mem x := by
  simp only [State.homeStore, h]; exact Mem.read_writes hm

/-- A store to on-chip storage leaves the keys of HBM lines alone. -/
theorem State.homeStore_lineKeys_window (s : State) (slot pa : Nat) (bs : List Byte) (h : isHbm (laOf pa) = false) :
    (s.homeStore slot pa bs).m.lineKeys = s.m.lineKeys := by simp [State.homeStore, h, State.updMem]

end Sys2Proof.Machine
end

