-- ==== Sys2Proof/Laws/State.lean ====
section
/-! SUPPORT. What each update of the state changes and what it leaves: one lemma per field and update, and reads after writes of
harts and of the parts of the memory system. -/
namespace Sys2Proof.Machine
set_option Elab.async false

/-! ### Maps -/

theorem SMap.get_set_same {α : Type} (d : α) (m : SMap α) (n : Nat) (v : α) : SMap.get d (SMap.set n v m) n = v := by
  induction m with
  | nil => simp [SMap.set, SMap.get]
  | cons x m ih =>
    obtain ⟨k, w⟩ := x
    simp only [SMap.set]
    split
    · simp [SMap.get]
    · split <;> simp [SMap.get, *]

theorem SMap.get_set_other {α : Type} (d : α) (m : SMap α) (n j : Nat) (v : α) (h : j ≠ n) :
    SMap.get d (SMap.set n v m) j = SMap.get d m j := by
  induction m with
  | nil => simp [SMap.set, SMap.get, Ne.symm h]
  | cons x m ih =>
    obtain ⟨k, w⟩ := x
    simp only [SMap.set]
    split
    · next e => subst e; simp [SMap.get, Ne.symm h]
    · split
      · simp [SMap.get, Ne.symm h]
      · simp only [SMap.get, ih]

theorem SMap.set_set {α : Type} (m : SMap α) (n : Nat) (v w : α) : SMap.set n w (SMap.set n v m) = SMap.set n w m := by
  induction m with
  | nil => simp [SMap.set]
  | cons x m ih =>
    obtain ⟨k, u⟩ := x
    simp only [SMap.set]
    split
    · simp [SMap.set]
    · split
      · simp [SMap.set]
      · next h1 h2 => simp [SMap.set, h1, h2, ih]

theorem SMap.get_map {α β : Type} (d : α) (g : Nat → α → β) (m : SMap α) (n : Nat) (e : β) (he : g n d = e) :
    SMap.get e (m.map fun x => (x.1, g x.1 x.2)) n = g n (SMap.get d m n) := by
  induction m with
  | nil => simp [SMap.get, he]
  | cons x m ih =>
    obtain ⟨k, w⟩ := x
    simp only [List.map_cons, SMap.get]
    split
    · next h => subst h; rfl
    · exact ih

/-! ### Updates of the state, field by field -/

@[simp] theorem State.updHart_cur (s : State) (g : Hart → Hart) : (s.updHart g).cur = s.cur := rfl
@[simp] theorem State.updHart_hart (s : State) (g : Hart → Hart) : (s.updHart g).hart = g s.hart := rfl
@[simp] theorem State.updHart_others (s : State) (g : Hart → Hart) : (s.updHart g).others = s.others := rfl
@[simp] theorem State.updHart_m (s : State) (g : Hart → Hart) : (s.updHart g).m = s.m := rfl
@[simp] theorem State.updHart_fab (s : State) (g : Hart → Hart) : (s.updHart g).fab = s.fab := rfl
@[simp] theorem State.updHart_disp (s : State) (g : Hart → Hart) : (s.updHart g).disp = s.disp := rfl
@[simp] theorem State.updHart_trust (s : State) (g : Hart → Hart) : (s.updHart g).trust = s.trust := rfl
@[simp] theorem State.updHart_time (s : State) (g : Hart → Hart) : (s.updHart g).time = s.time := rfl
@[simp] theorem State.updHart_inbox (s : State) (g : Hart → Hart) : (s.updHart g).inbox = s.inbox := rfl
@[simp] theorem State.updHart_msg (s : State) (g : Hart → Hart) : (s.updHart g).msg = s.msg := rfl
@[simp] theorem State.updHart_turns (s : State) (g : Hart → Hart) : (s.updHart g).turns = s.turns := rfl
@[simp] theorem State.updHart_tick (s : State) (g : Hart → Hart) : (s.updHart g).tick = s.tick := rfl
@[simp] theorem State.updHart_free (s : State) (g : Hart → Hart) : (s.updHart g).free = s.free := rfl

@[simp] theorem State.setPc_cur (s : State) (v : Word) : (s.setPc v).cur = s.cur := rfl
@[simp] theorem State.setPc_hart (s : State) (v : Word) : (s.setPc v).hart = { s.hart with pc := v } := rfl
@[simp] theorem State.setPc_others (s : State) (v : Word) : (s.setPc v).others = s.others := rfl
@[simp] theorem State.setPc_m (s : State) (v : Word) : (s.setPc v).m = s.m := rfl
@[simp] theorem State.setPc_fab (s : State) (v : Word) : (s.setPc v).fab = s.fab := rfl
@[simp] theorem State.setPc_disp (s : State) (v : Word) : (s.setPc v).disp = s.disp := rfl
@[simp] theorem State.setPc_trust (s : State) (v : Word) : (s.setPc v).trust = s.trust := rfl
@[simp] theorem State.setPc_time (s : State) (v : Word) : (s.setPc v).time = s.time := rfl
@[simp] theorem State.setPc_inbox (s : State) (v : Word) : (s.setPc v).inbox = s.inbox := rfl
@[simp] theorem State.setPc_msg (s : State) (v : Word) : (s.setPc v).msg = s.msg := rfl
@[simp] theorem State.setPc_turns (s : State) (v : Word) : (s.setPc v).turns = s.turns := rfl
@[simp] theorem State.setPc_tick (s : State) (v : Word) : (s.setPc v).tick = s.tick := rfl
@[simp] theorem State.setPc_free (s : State) (v : Word) : (s.setPc v).free = s.free := rfl

@[simp] theorem State.updVec_cur (s : State) (g : VecRegs → VecRegs) : (s.updVec g).cur = s.cur := rfl
@[simp] theorem State.updVec_hart (s : State) (g : VecRegs → VecRegs) : (s.updVec g).hart = { s.hart with vec := g s.hart.vec } := rfl
@[simp] theorem State.updVec_others (s : State) (g : VecRegs → VecRegs) : (s.updVec g).others = s.others := rfl
@[simp] theorem State.updVec_m (s : State) (g : VecRegs → VecRegs) : (s.updVec g).m = s.m := rfl
@[simp] theorem State.updVec_fab (s : State) (g : VecRegs → VecRegs) : (s.updVec g).fab = s.fab := rfl
@[simp] theorem State.updVec_disp (s : State) (g : VecRegs → VecRegs) : (s.updVec g).disp = s.disp := rfl
@[simp] theorem State.updVec_trust (s : State) (g : VecRegs → VecRegs) : (s.updVec g).trust = s.trust := rfl
@[simp] theorem State.updVec_time (s : State) (g : VecRegs → VecRegs) : (s.updVec g).time = s.time := rfl
@[simp] theorem State.updVec_inbox (s : State) (g : VecRegs → VecRegs) : (s.updVec g).inbox = s.inbox := rfl
@[simp] theorem State.updVec_msg (s : State) (g : VecRegs → VecRegs) : (s.updVec g).msg = s.msg := rfl
@[simp] theorem State.updVec_turns (s : State) (g : VecRegs → VecRegs) : (s.updVec g).turns = s.turns := rfl
@[simp] theorem State.updVec_tick (s : State) (g : VecRegs → VecRegs) : (s.updVec g).tick = s.tick := rfl
@[simp] theorem State.updVec_free (s : State) (g : VecRegs → VecRegs) : (s.updVec g).free = s.free := rfl

@[simp] theorem State.updUser_cur (s : State) (g : UserRegs → UserRegs) : (s.updUser g).cur = s.cur := rfl
@[simp] theorem State.updUser_hart (s : State) (g : UserRegs → UserRegs) : (s.updUser g).hart = { s.hart with user := g s.hart.user } := rfl
@[simp] theorem State.updUser_others (s : State) (g : UserRegs → UserRegs) : (s.updUser g).others = s.others := rfl
@[simp] theorem State.updUser_m (s : State) (g : UserRegs → UserRegs) : (s.updUser g).m = s.m := rfl
@[simp] theorem State.updUser_fab (s : State) (g : UserRegs → UserRegs) : (s.updUser g).fab = s.fab := rfl
@[simp] theorem State.updUser_disp (s : State) (g : UserRegs → UserRegs) : (s.updUser g).disp = s.disp := rfl
@[simp] theorem State.updUser_trust (s : State) (g : UserRegs → UserRegs) : (s.updUser g).trust = s.trust := rfl
@[simp] theorem State.updUser_time (s : State) (g : UserRegs → UserRegs) : (s.updUser g).time = s.time := rfl
@[simp] theorem State.updUser_inbox (s : State) (g : UserRegs → UserRegs) : (s.updUser g).inbox = s.inbox := rfl
@[simp] theorem State.updUser_msg (s : State) (g : UserRegs → UserRegs) : (s.updUser g).msg = s.msg := rfl
@[simp] theorem State.updUser_turns (s : State) (g : UserRegs → UserRegs) : (s.updUser g).turns = s.turns := rfl
@[simp] theorem State.updUser_tick (s : State) (g : UserRegs → UserRegs) : (s.updUser g).tick = s.tick := rfl
@[simp] theorem State.updUser_free (s : State) (g : UserRegs → UserRegs) : (s.updUser g).free = s.free := rfl

@[simp] theorem State.updIrq_cur (s : State) (g : UserIrq → UserIrq) : (s.updIrq g).cur = s.cur := rfl
@[simp] theorem State.updIrq_hart (s : State) (g : UserIrq → UserIrq) : (s.updIrq g).hart = { s.hart with irq := g s.hart.irq } := rfl
@[simp] theorem State.updIrq_others (s : State) (g : UserIrq → UserIrq) : (s.updIrq g).others = s.others := rfl
@[simp] theorem State.updIrq_m (s : State) (g : UserIrq → UserIrq) : (s.updIrq g).m = s.m := rfl
@[simp] theorem State.updIrq_fab (s : State) (g : UserIrq → UserIrq) : (s.updIrq g).fab = s.fab := rfl
@[simp] theorem State.updIrq_disp (s : State) (g : UserIrq → UserIrq) : (s.updIrq g).disp = s.disp := rfl
@[simp] theorem State.updIrq_trust (s : State) (g : UserIrq → UserIrq) : (s.updIrq g).trust = s.trust := rfl
@[simp] theorem State.updIrq_time (s : State) (g : UserIrq → UserIrq) : (s.updIrq g).time = s.time := rfl
@[simp] theorem State.updIrq_inbox (s : State) (g : UserIrq → UserIrq) : (s.updIrq g).inbox = s.inbox := rfl
@[simp] theorem State.updIrq_msg (s : State) (g : UserIrq → UserIrq) : (s.updIrq g).msg = s.msg := rfl
@[simp] theorem State.updIrq_turns (s : State) (g : UserIrq → UserIrq) : (s.updIrq g).turns = s.turns := rfl
@[simp] theorem State.updIrq_tick (s : State) (g : UserIrq → UserIrq) : (s.updIrq g).tick = s.tick := rfl
@[simp] theorem State.updIrq_free (s : State) (g : UserIrq → UserIrq) : (s.updIrq g).free = s.free := rfl

@[simp] theorem State.updTrap_cur (s : State) (g : TrapRegs → TrapRegs) : (s.updTrap g).cur = s.cur := rfl
@[simp] theorem State.updTrap_hart (s : State) (g : TrapRegs → TrapRegs) : (s.updTrap g).hart = { s.hart with trap := g s.hart.trap } := rfl
@[simp] theorem State.updTrap_others (s : State) (g : TrapRegs → TrapRegs) : (s.updTrap g).others = s.others := rfl
@[simp] theorem State.updTrap_m (s : State) (g : TrapRegs → TrapRegs) : (s.updTrap g).m = s.m := rfl
@[simp] theorem State.updTrap_fab (s : State) (g : TrapRegs → TrapRegs) : (s.updTrap g).fab = s.fab := rfl
@[simp] theorem State.updTrap_disp (s : State) (g : TrapRegs → TrapRegs) : (s.updTrap g).disp = s.disp := rfl
@[simp] theorem State.updTrap_trust (s : State) (g : TrapRegs → TrapRegs) : (s.updTrap g).trust = s.trust := rfl
@[simp] theorem State.updTrap_time (s : State) (g : TrapRegs → TrapRegs) : (s.updTrap g).time = s.time := rfl
@[simp] theorem State.updTrap_inbox (s : State) (g : TrapRegs → TrapRegs) : (s.updTrap g).inbox = s.inbox := rfl
@[simp] theorem State.updTrap_msg (s : State) (g : TrapRegs → TrapRegs) : (s.updTrap g).msg = s.msg := rfl
@[simp] theorem State.updTrap_turns (s : State) (g : TrapRegs → TrapRegs) : (s.updTrap g).turns = s.turns := rfl
@[simp] theorem State.updTrap_tick (s : State) (g : TrapRegs → TrapRegs) : (s.updTrap g).tick = s.tick := rfl
@[simp] theorem State.updTrap_free (s : State) (g : TrapRegs → TrapRegs) : (s.updTrap g).free = s.free := rfl

@[simp] theorem State.updSup_cur (s : State) (g : SupRegs → SupRegs) : (s.updSup g).cur = s.cur := rfl
@[simp] theorem State.updSup_hart (s : State) (g : SupRegs → SupRegs) : (s.updSup g).hart = { s.hart with sregs := g s.hart.sregs } := rfl
@[simp] theorem State.updSup_others (s : State) (g : SupRegs → SupRegs) : (s.updSup g).others = s.others := rfl
@[simp] theorem State.updSup_m (s : State) (g : SupRegs → SupRegs) : (s.updSup g).m = s.m := rfl
@[simp] theorem State.updSup_fab (s : State) (g : SupRegs → SupRegs) : (s.updSup g).fab = s.fab := rfl
@[simp] theorem State.updSup_disp (s : State) (g : SupRegs → SupRegs) : (s.updSup g).disp = s.disp := rfl
@[simp] theorem State.updSup_trust (s : State) (g : SupRegs → SupRegs) : (s.updSup g).trust = s.trust := rfl
@[simp] theorem State.updSup_time (s : State) (g : SupRegs → SupRegs) : (s.updSup g).time = s.time := rfl
@[simp] theorem State.updSup_inbox (s : State) (g : SupRegs → SupRegs) : (s.updSup g).inbox = s.inbox := rfl
@[simp] theorem State.updSup_msg (s : State) (g : SupRegs → SupRegs) : (s.updSup g).msg = s.msg := rfl
@[simp] theorem State.updSup_turns (s : State) (g : SupRegs → SupRegs) : (s.updSup g).turns = s.turns := rfl
@[simp] theorem State.updSup_tick (s : State) (g : SupRegs → SupRegs) : (s.updSup g).tick = s.tick := rfl
@[simp] theorem State.updSup_free (s : State) (g : SupRegs → SupRegs) : (s.updSup g).free = s.free := rfl

@[simp] theorem State.setX_cur (s : State) (r : Reg) (v : Word) : (s.setX r v).cur = s.cur := rfl
@[simp] theorem State.setX_hart (s : State) (r : Reg) (v : Word) : (s.setX r v).hart = s.hart.setX r v := rfl
@[simp] theorem State.setX_others (s : State) (r : Reg) (v : Word) : (s.setX r v).others = s.others := rfl
@[simp] theorem State.setX_m (s : State) (r : Reg) (v : Word) : (s.setX r v).m = s.m := rfl
@[simp] theorem State.setX_fab (s : State) (r : Reg) (v : Word) : (s.setX r v).fab = s.fab := rfl
@[simp] theorem State.setX_disp (s : State) (r : Reg) (v : Word) : (s.setX r v).disp = s.disp := rfl
@[simp] theorem State.setX_trust (s : State) (r : Reg) (v : Word) : (s.setX r v).trust = s.trust := rfl
@[simp] theorem State.setX_time (s : State) (r : Reg) (v : Word) : (s.setX r v).time = s.time := rfl
@[simp] theorem State.setX_inbox (s : State) (r : Reg) (v : Word) : (s.setX r v).inbox = s.inbox := rfl
@[simp] theorem State.setX_msg (s : State) (r : Reg) (v : Word) : (s.setX r v).msg = s.msg := rfl
@[simp] theorem State.setX_turns (s : State) (r : Reg) (v : Word) : (s.setX r v).turns = s.turns := rfl
@[simp] theorem State.setX_tick (s : State) (r : Reg) (v : Word) : (s.setX r v).tick = s.tick := rfl
@[simp] theorem State.setX_free (s : State) (r : Reg) (v : Word) : (s.setX r v).free = s.free := rfl

@[simp] theorem State.setF_cur (s : State) (r : Reg) (v : Word) : (s.setF r v).cur = s.cur := rfl
@[simp] theorem State.setF_hart (s : State) (r : Reg) (v : Word) : (s.setF r v).hart = s.hart.setF r v := rfl
@[simp] theorem State.setF_others (s : State) (r : Reg) (v : Word) : (s.setF r v).others = s.others := rfl
@[simp] theorem State.setF_m (s : State) (r : Reg) (v : Word) : (s.setF r v).m = s.m := rfl
@[simp] theorem State.setF_fab (s : State) (r : Reg) (v : Word) : (s.setF r v).fab = s.fab := rfl
@[simp] theorem State.setF_disp (s : State) (r : Reg) (v : Word) : (s.setF r v).disp = s.disp := rfl
@[simp] theorem State.setF_trust (s : State) (r : Reg) (v : Word) : (s.setF r v).trust = s.trust := rfl
@[simp] theorem State.setF_time (s : State) (r : Reg) (v : Word) : (s.setF r v).time = s.time := rfl
@[simp] theorem State.setF_inbox (s : State) (r : Reg) (v : Word) : (s.setF r v).inbox = s.inbox := rfl
@[simp] theorem State.setF_msg (s : State) (r : Reg) (v : Word) : (s.setF r v).msg = s.msg := rfl
@[simp] theorem State.setF_turns (s : State) (r : Reg) (v : Word) : (s.setF r v).turns = s.turns := rfl
@[simp] theorem State.setF_tick (s : State) (r : Reg) (v : Word) : (s.setF r v).tick = s.tick := rfl
@[simp] theorem State.setF_free (s : State) (r : Reg) (v : Word) : (s.setF r v).free = s.free := rfl

@[simp] theorem State.advance_cur (s : State) : (s.advance).cur = s.cur := rfl
@[simp] theorem State.advance_hart (s : State) : (s.advance).hart = { s.hart with pc := s.hart.pc + 4#64 } := rfl
@[simp] theorem State.advance_others (s : State) : (s.advance).others = s.others := rfl
@[simp] theorem State.advance_m (s : State) : (s.advance).m = s.m := rfl
@[simp] theorem State.advance_fab (s : State) : (s.advance).fab = s.fab := rfl
@[simp] theorem State.advance_disp (s : State) : (s.advance).disp = s.disp := rfl
@[simp] theorem State.advance_trust (s : State) : (s.advance).trust = s.trust := rfl
@[simp] theorem State.advance_time (s : State) : (s.advance).time = s.time := rfl
@[simp] theorem State.advance_inbox (s : State) : (s.advance).inbox = s.inbox := rfl
@[simp] theorem State.advance_msg (s : State) : (s.advance).msg = s.msg := rfl
@[simp] theorem State.advance_turns (s : State) : (s.advance).turns = s.turns := rfl
@[simp] theorem State.advance_tick (s : State) : (s.advance).tick = s.tick := rfl
@[simp] theorem State.advance_free (s : State) : (s.advance).free = s.free := rfl

@[simp] theorem State.orFflags_cur (s : State) (b : BitVec 5) : (s.orFflags b).cur = s.cur := rfl
@[simp] theorem State.orFflags_hart (s : State) (b : BitVec 5) : (s.orFflags b).hart = { s.hart with user := { s.hart.user with fflags := s.hart.user.fflags ||| b } } := rfl
@[simp] theorem State.orFflags_others (s : State) (b : BitVec 5) : (s.orFflags b).others = s.others := rfl
@[simp] theorem State.orFflags_m (s : State) (b : BitVec 5) : (s.orFflags b).m = s.m := rfl
@[simp] theorem State.orFflags_fab (s : State) (b : BitVec 5) : (s.orFflags b).fab = s.fab := rfl
@[simp] theorem State.orFflags_disp (s : State) (b : BitVec 5) : (s.orFflags b).disp = s.disp := rfl
@[simp] theorem State.orFflags_trust (s : State) (b : BitVec 5) : (s.orFflags b).trust = s.trust := rfl
@[simp] theorem State.orFflags_time (s : State) (b : BitVec 5) : (s.orFflags b).time = s.time := rfl
@[simp] theorem State.orFflags_inbox (s : State) (b : BitVec 5) : (s.orFflags b).inbox = s.inbox := rfl
@[simp] theorem State.orFflags_msg (s : State) (b : BitVec 5) : (s.orFflags b).msg = s.msg := rfl
@[simp] theorem State.orFflags_turns (s : State) (b : BitVec 5) : (s.orFflags b).turns = s.turns := rfl
@[simp] theorem State.orFflags_tick (s : State) (b : BitVec 5) : (s.orFflags b).tick = s.tick := rfl
@[simp] theorem State.orFflags_free (s : State) (b : BitVec 5) : (s.orFflags b).free = s.free := rfl

@[simp] theorem State.updMem_cur (s : State) (g : MemState → MemState) : (s.updMem g).cur = s.cur := rfl
@[simp] theorem State.updMem_hart (s : State) (g : MemState → MemState) : (s.updMem g).hart = s.hart := rfl
@[simp] theorem State.updMem_others (s : State) (g : MemState → MemState) : (s.updMem g).others = s.others := rfl
@[simp] theorem State.updMem_m (s : State) (g : MemState → MemState) : (s.updMem g).m = g s.m := rfl
@[simp] theorem State.updMem_fab (s : State) (g : MemState → MemState) : (s.updMem g).fab = s.fab := rfl
@[simp] theorem State.updMem_disp (s : State) (g : MemState → MemState) : (s.updMem g).disp = s.disp := rfl
@[simp] theorem State.updMem_trust (s : State) (g : MemState → MemState) : (s.updMem g).trust = s.trust := rfl
@[simp] theorem State.updMem_time (s : State) (g : MemState → MemState) : (s.updMem g).time = s.time := rfl
@[simp] theorem State.updMem_inbox (s : State) (g : MemState → MemState) : (s.updMem g).inbox = s.inbox := rfl
@[simp] theorem State.updMem_msg (s : State) (g : MemState → MemState) : (s.updMem g).msg = s.msg := rfl
@[simp] theorem State.updMem_turns (s : State) (g : MemState → MemState) : (s.updMem g).turns = s.turns := rfl
@[simp] theorem State.updMem_tick (s : State) (g : MemState → MemState) : (s.updMem g).tick = s.tick := rfl
@[simp] theorem State.updMem_free (s : State) (g : MemState → MemState) : (s.updMem g).free = s.free := rfl

@[simp] theorem State.updFab_cur (s : State) (g : FabricState → FabricState) : (s.updFab g).cur = s.cur := rfl
@[simp] theorem State.updFab_hart (s : State) (g : FabricState → FabricState) : (s.updFab g).hart = s.hart := rfl
@[simp] theorem State.updFab_others (s : State) (g : FabricState → FabricState) : (s.updFab g).others = s.others := rfl
@[simp] theorem State.updFab_m (s : State) (g : FabricState → FabricState) : (s.updFab g).m = s.m := rfl
@[simp] theorem State.updFab_fab (s : State) (g : FabricState → FabricState) : (s.updFab g).fab = g s.fab := rfl
@[simp] theorem State.updFab_disp (s : State) (g : FabricState → FabricState) : (s.updFab g).disp = s.disp := rfl
@[simp] theorem State.updFab_trust (s : State) (g : FabricState → FabricState) : (s.updFab g).trust = s.trust := rfl
@[simp] theorem State.updFab_time (s : State) (g : FabricState → FabricState) : (s.updFab g).time = s.time := rfl
@[simp] theorem State.updFab_inbox (s : State) (g : FabricState → FabricState) : (s.updFab g).inbox = s.inbox := rfl
@[simp] theorem State.updFab_msg (s : State) (g : FabricState → FabricState) : (s.updFab g).msg = s.msg := rfl
@[simp] theorem State.updFab_turns (s : State) (g : FabricState → FabricState) : (s.updFab g).turns = s.turns := rfl
@[simp] theorem State.updFab_tick (s : State) (g : FabricState → FabricState) : (s.updFab g).tick = s.tick := rfl
@[simp] theorem State.updFab_free (s : State) (g : FabricState → FabricState) : (s.updFab g).free = s.free := rfl

@[simp] theorem State.updDisp_cur (s : State) (g : DispatchState → DispatchState) : (s.updDisp g).cur = s.cur := rfl
@[simp] theorem State.updDisp_hart (s : State) (g : DispatchState → DispatchState) : (s.updDisp g).hart = s.hart := rfl
@[simp] theorem State.updDisp_others (s : State) (g : DispatchState → DispatchState) : (s.updDisp g).others = s.others := rfl
@[simp] theorem State.updDisp_m (s : State) (g : DispatchState → DispatchState) : (s.updDisp g).m = s.m := rfl
@[simp] theorem State.updDisp_fab (s : State) (g : DispatchState → DispatchState) : (s.updDisp g).fab = s.fab := rfl
@[simp] theorem State.updDisp_disp (s : State) (g : DispatchState → DispatchState) : (s.updDisp g).disp = g s.disp := rfl
@[simp] theorem State.updDisp_trust (s : State) (g : DispatchState → DispatchState) : (s.updDisp g).trust = s.trust := rfl
@[simp] theorem State.updDisp_time (s : State) (g : DispatchState → DispatchState) : (s.updDisp g).time = s.time := rfl
@[simp] theorem State.updDisp_inbox (s : State) (g : DispatchState → DispatchState) : (s.updDisp g).inbox = s.inbox := rfl
@[simp] theorem State.updDisp_msg (s : State) (g : DispatchState → DispatchState) : (s.updDisp g).msg = s.msg := rfl
@[simp] theorem State.updDisp_turns (s : State) (g : DispatchState → DispatchState) : (s.updDisp g).turns = s.turns := rfl
@[simp] theorem State.updDisp_tick (s : State) (g : DispatchState → DispatchState) : (s.updDisp g).tick = s.tick := rfl
@[simp] theorem State.updDisp_free (s : State) (g : DispatchState → DispatchState) : (s.updDisp g).free = s.free := rfl

@[simp] theorem State.updTrust_cur (s : State) (g : Trust → Trust) : (s.updTrust g).cur = s.cur := rfl
@[simp] theorem State.updTrust_hart (s : State) (g : Trust → Trust) : (s.updTrust g).hart = s.hart := rfl
@[simp] theorem State.updTrust_others (s : State) (g : Trust → Trust) : (s.updTrust g).others = s.others := rfl
@[simp] theorem State.updTrust_m (s : State) (g : Trust → Trust) : (s.updTrust g).m = s.m := rfl
@[simp] theorem State.updTrust_fab (s : State) (g : Trust → Trust) : (s.updTrust g).fab = s.fab := rfl
@[simp] theorem State.updTrust_disp (s : State) (g : Trust → Trust) : (s.updTrust g).disp = s.disp := rfl
@[simp] theorem State.updTrust_trust (s : State) (g : Trust → Trust) : (s.updTrust g).trust = g s.trust := rfl
@[simp] theorem State.updTrust_time (s : State) (g : Trust → Trust) : (s.updTrust g).time = s.time := rfl
@[simp] theorem State.updTrust_inbox (s : State) (g : Trust → Trust) : (s.updTrust g).inbox = s.inbox := rfl
@[simp] theorem State.updTrust_msg (s : State) (g : Trust → Trust) : (s.updTrust g).msg = s.msg := rfl
@[simp] theorem State.updTrust_turns (s : State) (g : Trust → Trust) : (s.updTrust g).turns = s.turns := rfl
@[simp] theorem State.updTrust_tick (s : State) (g : Trust → Trust) : (s.updTrust g).tick = s.tick := rfl
@[simp] theorem State.updTrust_free (s : State) (g : Trust → Trust) : (s.updTrust g).free = s.free := rfl

@[simp] theorem State.setCore_cur (s : State) (n : Nat) (v : CoreState) : (s.setCore n v).cur = s.cur := rfl
@[simp] theorem State.setCore_hart (s : State) (n : Nat) (v : CoreState) : (s.setCore n v).hart = s.hart := rfl
@[simp] theorem State.setCore_others (s : State) (n : Nat) (v : CoreState) : (s.setCore n v).others = s.others := rfl
@[simp] theorem State.setCore_m (s : State) (n : Nat) (v : CoreState) : (s.setCore n v).m = { s.m with cores := s.m.cores.set n v } := rfl
@[simp] theorem State.setCore_fab (s : State) (n : Nat) (v : CoreState) : (s.setCore n v).fab = s.fab := rfl
@[simp] theorem State.setCore_disp (s : State) (n : Nat) (v : CoreState) : (s.setCore n v).disp = s.disp := rfl
@[simp] theorem State.setCore_trust (s : State) (n : Nat) (v : CoreState) : (s.setCore n v).trust = s.trust := rfl
@[simp] theorem State.setCore_time (s : State) (n : Nat) (v : CoreState) : (s.setCore n v).time = s.time := rfl
@[simp] theorem State.setCore_inbox (s : State) (n : Nat) (v : CoreState) : (s.setCore n v).inbox = s.inbox := rfl
@[simp] theorem State.setCore_msg (s : State) (n : Nat) (v : CoreState) : (s.setCore n v).msg = s.msg := rfl
@[simp] theorem State.setCore_turns (s : State) (n : Nat) (v : CoreState) : (s.setCore n v).turns = s.turns := rfl
@[simp] theorem State.setCore_tick (s : State) (n : Nat) (v : CoreState) : (s.setCore n v).tick = s.tick := rfl
@[simp] theorem State.setCore_free (s : State) (n : Nat) (v : CoreState) : (s.setCore n v).free = s.free := rfl

@[simp] theorem State.setCluster_cur (s : State) (n : Nat) (v : ClusterState) : (s.setCluster n v).cur = s.cur := rfl
@[simp] theorem State.setCluster_hart (s : State) (n : Nat) (v : ClusterState) : (s.setCluster n v).hart = s.hart := rfl
@[simp] theorem State.setCluster_others (s : State) (n : Nat) (v : ClusterState) : (s.setCluster n v).others = s.others := rfl
@[simp] theorem State.setCluster_m (s : State) (n : Nat) (v : ClusterState) : (s.setCluster n v).m = { s.m with clusters := s.m.clusters.set n v } := rfl
@[simp] theorem State.setCluster_fab (s : State) (n : Nat) (v : ClusterState) : (s.setCluster n v).fab = s.fab := rfl
@[simp] theorem State.setCluster_disp (s : State) (n : Nat) (v : ClusterState) : (s.setCluster n v).disp = s.disp := rfl
@[simp] theorem State.setCluster_trust (s : State) (n : Nat) (v : ClusterState) : (s.setCluster n v).trust = s.trust := rfl
@[simp] theorem State.setCluster_time (s : State) (n : Nat) (v : ClusterState) : (s.setCluster n v).time = s.time := rfl
@[simp] theorem State.setCluster_inbox (s : State) (n : Nat) (v : ClusterState) : (s.setCluster n v).inbox = s.inbox := rfl
@[simp] theorem State.setCluster_msg (s : State) (n : Nat) (v : ClusterState) : (s.setCluster n v).msg = s.msg := rfl
@[simp] theorem State.setCluster_turns (s : State) (n : Nat) (v : ClusterState) : (s.setCluster n v).turns = s.turns := rfl
@[simp] theorem State.setCluster_tick (s : State) (n : Nat) (v : ClusterState) : (s.setCluster n v).tick = s.tick := rfl
@[simp] theorem State.setCluster_free (s : State) (n : Nat) (v : ClusterState) : (s.setCluster n v).free = s.free := rfl

@[simp] theorem State.setSlice_cur (s : State) (n : Nat) (v : SliceState) : (s.setSlice n v).cur = s.cur := rfl
@[simp] theorem State.setSlice_hart (s : State) (n : Nat) (v : SliceState) : (s.setSlice n v).hart = s.hart := rfl
@[simp] theorem State.setSlice_others (s : State) (n : Nat) (v : SliceState) : (s.setSlice n v).others = s.others := rfl
@[simp] theorem State.setSlice_m (s : State) (n : Nat) (v : SliceState) : (s.setSlice n v).m = { s.m with slices := s.m.slices.set n v } := rfl
@[simp] theorem State.setSlice_fab (s : State) (n : Nat) (v : SliceState) : (s.setSlice n v).fab = s.fab := rfl
@[simp] theorem State.setSlice_disp (s : State) (n : Nat) (v : SliceState) : (s.setSlice n v).disp = s.disp := rfl
@[simp] theorem State.setSlice_trust (s : State) (n : Nat) (v : SliceState) : (s.setSlice n v).trust = s.trust := rfl
@[simp] theorem State.setSlice_time (s : State) (n : Nat) (v : SliceState) : (s.setSlice n v).time = s.time := rfl
@[simp] theorem State.setSlice_inbox (s : State) (n : Nat) (v : SliceState) : (s.setSlice n v).inbox = s.inbox := rfl
@[simp] theorem State.setSlice_msg (s : State) (n : Nat) (v : SliceState) : (s.setSlice n v).msg = s.msg := rfl
@[simp] theorem State.setSlice_turns (s : State) (n : Nat) (v : SliceState) : (s.setSlice n v).turns = s.turns := rfl
@[simp] theorem State.setSlice_tick (s : State) (n : Nat) (v : SliceState) : (s.setSlice n v).tick = s.tick := rfl
@[simp] theorem State.setSlice_free (s : State) (n : Nat) (v : SliceState) : (s.setSlice n v).free = s.free := rfl

@[simp] theorem State.setChannel_cur (s : State) (n : Nat) (v : Channel) : (s.setChannel n v).cur = s.cur := rfl
@[simp] theorem State.setChannel_hart (s : State) (n : Nat) (v : Channel) : (s.setChannel n v).hart = s.hart := rfl
@[simp] theorem State.setChannel_others (s : State) (n : Nat) (v : Channel) : (s.setChannel n v).others = s.others := rfl
@[simp] theorem State.setChannel_m (s : State) (n : Nat) (v : Channel) : (s.setChannel n v).m = { s.m with channels := s.m.channels.set n v } := rfl
@[simp] theorem State.setChannel_fab (s : State) (n : Nat) (v : Channel) : (s.setChannel n v).fab = s.fab := rfl
@[simp] theorem State.setChannel_disp (s : State) (n : Nat) (v : Channel) : (s.setChannel n v).disp = s.disp := rfl
@[simp] theorem State.setChannel_trust (s : State) (n : Nat) (v : Channel) : (s.setChannel n v).trust = s.trust := rfl
@[simp] theorem State.setChannel_time (s : State) (n : Nat) (v : Channel) : (s.setChannel n v).time = s.time := rfl
@[simp] theorem State.setChannel_inbox (s : State) (n : Nat) (v : Channel) : (s.setChannel n v).inbox = s.inbox := rfl
@[simp] theorem State.setChannel_msg (s : State) (n : Nat) (v : Channel) : (s.setChannel n v).msg = s.msg := rfl
@[simp] theorem State.setChannel_turns (s : State) (n : Nat) (v : Channel) : (s.setChannel n v).turns = s.turns := rfl
@[simp] theorem State.setChannel_tick (s : State) (n : Nat) (v : Channel) : (s.setChannel n v).tick = s.tick := rfl
@[simp] theorem State.setChannel_free (s : State) (n : Nat) (v : Channel) : (s.setChannel n v).free = s.free := rfl

@[simp] theorem State.setPlate_cur (s : State) (n : Nat) (v : Plate) : (s.setPlate n v).cur = s.cur := rfl
@[simp] theorem State.setPlate_hart (s : State) (n : Nat) (v : Plate) : (s.setPlate n v).hart = s.hart := rfl
@[simp] theorem State.setPlate_others (s : State) (n : Nat) (v : Plate) : (s.setPlate n v).others = s.others := rfl
@[simp] theorem State.setPlate_m (s : State) (n : Nat) (v : Plate) : (s.setPlate n v).m = { s.m with plates := s.m.plates.set n v } := rfl
@[simp] theorem State.setPlate_fab (s : State) (n : Nat) (v : Plate) : (s.setPlate n v).fab = s.fab := rfl
@[simp] theorem State.setPlate_disp (s : State) (n : Nat) (v : Plate) : (s.setPlate n v).disp = s.disp := rfl
@[simp] theorem State.setPlate_trust (s : State) (n : Nat) (v : Plate) : (s.setPlate n v).trust = s.trust := rfl
@[simp] theorem State.setPlate_time (s : State) (n : Nat) (v : Plate) : (s.setPlate n v).time = s.time := rfl
@[simp] theorem State.setPlate_inbox (s : State) (n : Nat) (v : Plate) : (s.setPlate n v).inbox = s.inbox := rfl
@[simp] theorem State.setPlate_msg (s : State) (n : Nat) (v : Plate) : (s.setPlate n v).msg = s.msg := rfl
@[simp] theorem State.setPlate_turns (s : State) (n : Nat) (v : Plate) : (s.setPlate n v).turns = s.turns := rfl
@[simp] theorem State.setPlate_tick (s : State) (n : Nat) (v : Plate) : (s.setPlate n v).tick = s.tick := rfl
@[simp] theorem State.setPlate_free (s : State) (n : Nat) (v : Plate) : (s.setPlate n v).free = s.free := rfl

@[simp] theorem State.setCtx_cur (s : State) (n : Nat) (v : Ctx) : (s.setCtx n v).cur = s.cur := rfl
@[simp] theorem State.setCtx_hart (s : State) (n : Nat) (v : Ctx) : (s.setCtx n v).hart = s.hart := rfl
@[simp] theorem State.setCtx_others (s : State) (n : Nat) (v : Ctx) : (s.setCtx n v).others = s.others := rfl
@[simp] theorem State.setCtx_m (s : State) (n : Nat) (v : Ctx) : (s.setCtx n v).m = s.m := rfl
@[simp] theorem State.setCtx_fab (s : State) (n : Nat) (v : Ctx) : (s.setCtx n v).fab = s.fab := rfl
@[simp] theorem State.setCtx_disp (s : State) (n : Nat) (v : Ctx) : (s.setCtx n v).disp = { s.disp with ctxs := s.disp.ctxs.set n v } := rfl
@[simp] theorem State.setCtx_trust (s : State) (n : Nat) (v : Ctx) : (s.setCtx n v).trust = s.trust := rfl
@[simp] theorem State.setCtx_time (s : State) (n : Nat) (v : Ctx) : (s.setCtx n v).time = s.time := rfl
@[simp] theorem State.setCtx_inbox (s : State) (n : Nat) (v : Ctx) : (s.setCtx n v).inbox = s.inbox := rfl
@[simp] theorem State.setCtx_msg (s : State) (n : Nat) (v : Ctx) : (s.setCtx n v).msg = s.msg := rfl
@[simp] theorem State.setCtx_turns (s : State) (n : Nat) (v : Ctx) : (s.setCtx n v).turns = s.turns := rfl
@[simp] theorem State.setCtx_tick (s : State) (n : Nat) (v : Ctx) : (s.setCtx n v).tick = s.tick := rfl
@[simp] theorem State.setCtx_free (s : State) (n : Nat) (v : Ctx) : (s.setCtx n v).free = s.free := rfl

@[simp] theorem State.after_cur (s : State) (l : List (Instr × Msg)) : (s.after l).cur = s.cur := rfl
@[simp] theorem State.after_hart (s : State) (l : List (Instr × Msg)) : (s.after l).hart = s.hart := rfl
@[simp] theorem State.after_others (s : State) (l : List (Instr × Msg)) : (s.after l).others = s.others := rfl
@[simp] theorem State.after_m (s : State) (l : List (Instr × Msg)) : (s.after l).m = s.m := rfl
@[simp] theorem State.after_fab (s : State) (l : List (Instr × Msg)) : (s.after l).fab = s.fab := rfl
@[simp] theorem State.after_disp (s : State) (l : List (Instr × Msg)) : (s.after l).disp = s.disp := rfl
@[simp] theorem State.after_trust (s : State) (l : List (Instr × Msg)) : (s.after l).trust = s.trust := rfl
@[simp] theorem State.after_time (s : State) (l : List (Instr × Msg)) : (s.after l).time = s.time := rfl
@[simp] theorem State.after_inbox (s : State) (l : List (Instr × Msg)) : (s.after l).inbox = s.inbox ++ l := rfl
@[simp] theorem State.after_msg (s : State) (l : List (Instr × Msg)) : (s.after l).msg = s.msg := rfl
@[simp] theorem State.after_turns (s : State) (l : List (Instr × Msg)) : (s.after l).turns = s.turns := rfl
@[simp] theorem State.after_tick (s : State) (l : List (Instr × Msg)) : (s.after l).tick = s.tick := rfl
@[simp] theorem State.after_free (s : State) (l : List (Instr × Msg)) : (s.after l).free = s.free := rfl

/-! ### Registers -/

@[simp] theorem Hart.setX_pc (h : Hart) (r : Reg) (v : Word) : (h.setX r v).pc = h.pc := by unfold Hart.setX; split <;> rfl
@[simp] theorem Hart.setX_sup (h : Hart) (r : Reg) (v : Word) : (h.setX r v).sup = h.sup := by unfold Hart.setX; split <;> rfl
@[simp] theorem Hart.setX_vec (h : Hart) (r : Reg) (v : Word) : (h.setX r v).vec = h.vec := by unfold Hart.setX; split <;> rfl
@[simp] theorem Hart.setX_user (h : Hart) (r : Reg) (v : Word) : (h.setX r v).user = h.user := by unfold Hart.setX; split <;> rfl
@[simp] theorem Hart.setX_irq (h : Hart) (r : Reg) (v : Word) : (h.setX r v).irq = h.irq := by unfold Hart.setX; split <;> rfl
@[simp] theorem Hart.setX_trap (h : Hart) (r : Reg) (v : Word) : (h.setX r v).trap = h.trap := by unfold Hart.setX; split <;> rfl
@[simp] theorem Hart.setX_sregs (h : Hart) (r : Reg) (v : Word) : (h.setX r v).sregs = h.sregs := by unfold Hart.setX; split <;> rfl
@[simp] theorem Hart.setX_grant (h : Hart) (r : Reg) (v : Word) : (h.setX r v).grant = h.grant := by unfold Hart.setX; split <;> rfl
@[simp] theorem Hart.setX_ctx (h : Hart) (r : Reg) (v : Word) : (h.setX r v).ctx = h.ctx := by unfold Hart.setX; split <;> rfl
@[simp] theorem Hart.setX_gen (h : Hart) (r : Reg) (v : Word) : (h.setX r v).gen = h.gen := by unfold Hart.setX; split <;> rfl
@[simp] theorem Hart.setX_slots (h : Hart) (r : Reg) (v : Word) : (h.setX r v).slots = h.slots := by unfold Hart.setX; split <;> rfl
@[simp] theorem Hart.setX_e1 (h : Hart) (r : Reg) (v : Word) : (h.setX r v).e1 = h.e1 := by unfold Hart.setX; split <;> rfl
@[simp] theorem Hart.setX_e2 (h : Hart) (r : Reg) (v : Word) : (h.setX r v).e2 = h.e2 := by unfold Hart.setX; split <;> rfl
@[simp] theorem Hart.setX_outstanding (h : Hart) (r : Reg) (v : Word) : (h.setX r v).outstanding = h.outstanding := by unfold Hart.setX; split <;> rfl
@[simp] theorem Hart.setX_vq (h : Hart) (r : Reg) (v : Word) : (h.setX r v).vq = h.vq := by unfold Hart.setX; split <;> rfl
@[simp] theorem Hart.setX_mq (h : Hart) (r : Reg) (v : Word) : (h.setX r v).mq = h.mq := by unfold Hart.setX; split <;> rfl
@[simp] theorem Hart.setX_frozen (h : Hart) (r : Reg) (v : Word) : (h.setX r v).frozen = h.frozen := by unfold Hart.setX; split <;> rfl
@[simp] theorem Hart.setX_latch (h : Hart) (r : Reg) (v : Word) : (h.setX r v).latch = h.latch := by unfold Hart.setX; split <;> rfl
@[simp] theorem Hart.setX_pendingUser (h : Hart) (r : Reg) (v : Word) : (h.setX r v).pendingUser = h.pendingUser := by unfold Hart.setX; split <;> rfl
@[simp] theorem Hart.setX_noticePending (h : Hart) (r : Reg) (v : Word) : (h.setX r v).noticePending = h.noticePending := by unfold Hart.setX; split <;> rfl
@[simp] theorem Hart.setX_resizePending (h : Hart) (r : Reg) (v : Word) : (h.setX r v).resizePending = h.resizePending := by unfold Hart.setX; split <;> rfl
@[simp] theorem Hart.setX_phase (h : Hart) (r : Reg) (v : Word) : (h.setX r v).phase = h.phase := by unfold Hart.setX; split <;> rfl
@[simp] theorem Hart.setX_held (h : Hart) (r : Reg) (v : Word) : (h.setX r v).held = h.held := by unfold Hart.setX; split <;> rfl
@[simp] theorem Hart.setX_acks (h : Hart) (r : Reg) (v : Word) : (h.setX r v).acks = h.acks := by unfold Hart.setX; split <;> rfl
@[simp] theorem Hart.setX_resend (h : Hart) (r : Reg) (v : Word) : (h.setX r v).resend = h.resend := by unfold Hart.setX; split <;> rfl
@[simp] theorem Hart.setX_launch (h : Hart) (r : Reg) (v : Word) : (h.setX r v).launch = h.launch := by unfold Hart.setX; split <;> rfl
@[simp] theorem Hart.setX_logical (h : Hart) (r : Reg) (v : Word) : (h.setX r v).logical = h.logical := by unfold Hart.setX; split <;> rfl
@[simp] theorem Hart.setX_arb (h : Hart) (r : Reg) (v : Word) : (h.setX r v).arb = h.arb := by unfold Hart.setX; split <;> rfl
@[simp] theorem Hart.setX_pushSince (h : Hart) (r : Reg) (v : Word) : (h.setX r v).pushSince = h.pushSince := by unfold Hart.setX; split <;> rfl
@[simp] theorem Hart.setX_entering (h : Hart) (r : Reg) (v : Word) : (h.setX r v).entering = h.entering := by unfold Hart.setX; split <;> rfl
@[simp] theorem Hart.setX_f (h : Hart) (r : Reg) (v : Word) : (h.setX r v).regs.f = h.regs.f := by unfold Hart.setX; split <;> rfl
@[simp] theorem Hart.setF_pc (h : Hart) (r : Reg) (v : Word) : (h.setF r v).pc = h.pc := rfl
@[simp] theorem Hart.setF_sup (h : Hart) (r : Reg) (v : Word) : (h.setF r v).sup = h.sup := rfl
@[simp] theorem Hart.setF_vec (h : Hart) (r : Reg) (v : Word) : (h.setF r v).vec = h.vec := rfl
@[simp] theorem Hart.setF_user (h : Hart) (r : Reg) (v : Word) : (h.setF r v).user = h.user := rfl
@[simp] theorem Hart.setF_irq (h : Hart) (r : Reg) (v : Word) : (h.setF r v).irq = h.irq := rfl
@[simp] theorem Hart.setF_trap (h : Hart) (r : Reg) (v : Word) : (h.setF r v).trap = h.trap := rfl
@[simp] theorem Hart.setF_sregs (h : Hart) (r : Reg) (v : Word) : (h.setF r v).sregs = h.sregs := rfl
@[simp] theorem Hart.setF_grant (h : Hart) (r : Reg) (v : Word) : (h.setF r v).grant = h.grant := rfl
@[simp] theorem Hart.setF_ctx (h : Hart) (r : Reg) (v : Word) : (h.setF r v).ctx = h.ctx := rfl
@[simp] theorem Hart.setF_gen (h : Hart) (r : Reg) (v : Word) : (h.setF r v).gen = h.gen := rfl
@[simp] theorem Hart.setF_slots (h : Hart) (r : Reg) (v : Word) : (h.setF r v).slots = h.slots := rfl
@[simp] theorem Hart.setF_e1 (h : Hart) (r : Reg) (v : Word) : (h.setF r v).e1 = h.e1 := rfl
@[simp] theorem Hart.setF_e2 (h : Hart) (r : Reg) (v : Word) : (h.setF r v).e2 = h.e2 := rfl
@[simp] theorem Hart.setF_outstanding (h : Hart) (r : Reg) (v : Word) : (h.setF r v).outstanding = h.outstanding := rfl
@[simp] theorem Hart.setF_vq (h : Hart) (r : Reg) (v : Word) : (h.setF r v).vq = h.vq := rfl
@[simp] theorem Hart.setF_mq (h : Hart) (r : Reg) (v : Word) : (h.setF r v).mq = h.mq := rfl
@[simp] theorem Hart.setF_frozen (h : Hart) (r : Reg) (v : Word) : (h.setF r v).frozen = h.frozen := rfl
@[simp] theorem Hart.setF_latch (h : Hart) (r : Reg) (v : Word) : (h.setF r v).latch = h.latch := rfl
@[simp] theorem Hart.setF_pendingUser (h : Hart) (r : Reg) (v : Word) : (h.setF r v).pendingUser = h.pendingUser := rfl
@[simp] theorem Hart.setF_noticePending (h : Hart) (r : Reg) (v : Word) : (h.setF r v).noticePending = h.noticePending := rfl
@[simp] theorem Hart.setF_resizePending (h : Hart) (r : Reg) (v : Word) : (h.setF r v).resizePending = h.resizePending := rfl
@[simp] theorem Hart.setF_phase (h : Hart) (r : Reg) (v : Word) : (h.setF r v).phase = h.phase := rfl
@[simp] theorem Hart.setF_held (h : Hart) (r : Reg) (v : Word) : (h.setF r v).held = h.held := rfl
@[simp] theorem Hart.setF_acks (h : Hart) (r : Reg) (v : Word) : (h.setF r v).acks = h.acks := rfl
@[simp] theorem Hart.setF_resend (h : Hart) (r : Reg) (v : Word) : (h.setF r v).resend = h.resend := rfl
@[simp] theorem Hart.setF_launch (h : Hart) (r : Reg) (v : Word) : (h.setF r v).launch = h.launch := rfl
@[simp] theorem Hart.setF_logical (h : Hart) (r : Reg) (v : Word) : (h.setF r v).logical = h.logical := rfl
@[simp] theorem Hart.setF_arb (h : Hart) (r : Reg) (v : Word) : (h.setF r v).arb = h.arb := rfl
@[simp] theorem Hart.setF_pushSince (h : Hart) (r : Reg) (v : Word) : (h.setF r v).pushSince = h.pushSince := rfl
@[simp] theorem Hart.setF_entering (h : Hart) (r : Reg) (v : Word) : (h.setF r v).entering = h.entering := rfl
@[simp] theorem Hart.setF_x (h : Hart) (r : Reg) (v : Word) : (h.setF r v).regs.x = h.regs.x := rfl

@[simp] theorem State.xr_zero (s : State) : s.xr 0#5 = 0#64 := by simp [State.xr]

/-- The register written reads the value; x0 reads zero. -/
theorem State.xr_setX_same (s : State) (r : Reg) (v : Word) : (s.setX r v).xr r = if r = 0#5 then 0#64 else v := by
  unfold State.xr; split
  · rfl
  · next h => simp [Hart.setX, h]

theorem State.xr_setX_other (s : State) (r q : Reg) (v : Word) (h : q ≠ r) : (s.setX r v).xr q = s.xr q := by
  unfold State.xr; split
  · rfl
  · simp only [State.setX_hart, Hart.setX]
    split
    · rfl
    · exact Vector.getElem_set_ne (hi := r.isLt) _ fun e => h (BitVec.eq_of_toNat_eq e.symm)

theorem State.fr_setF_same (s : State) (r : Reg) (v : Word) : (s.setF r v).fr r = v := by simp [State.fr, Hart.setF]

theorem State.fr_setF_other (s : State) (r q : Reg) (v : Word) (h : q ≠ r) : (s.setF r v).fr q = s.fr q := by
  simp only [State.fr, State.setF_hart, Hart.setF]
  exact Vector.getElem_set_ne (hi := r.isLt) _ fun e => h (BitVec.eq_of_toNat_eq e.symm)

@[simp] theorem State.fr_setX (s : State) (r q : Reg) (v : Word) : (s.setX r v).fr q = s.fr q := by simp [State.fr]
@[simp] theorem State.xr_setF (s : State) (r q : Reg) (v : Word) : (s.setF r v).xr q = s.xr q := by simp [State.xr]
@[simp] theorem State.xr_advance (s : State) (q : Reg) : s.advance.xr q = s.xr q := rfl
@[simp] theorem State.fr_advance (s : State) (q : Reg) : s.advance.fr q = s.fr q := rfl
@[simp] theorem State.xr_setPc (s : State) (v : Word) (q : Reg) : (s.setPc v).xr q = s.xr q := rfl
@[simp] theorem State.xr_updMem (s : State) (g : MemState → MemState) (q : Reg) : (s.updMem g).xr q = s.xr q := rfl
@[simp] theorem State.fr_updMem (s : State) (g : MemState → MemState) (q : Reg) : (s.updMem g).fr q = s.fr q := rfl
@[simp] theorem State.xr_orFflags (s : State) (b : BitVec 5) (q : Reg) : (s.orFflags b).xr q = s.xr q := rfl
@[simp] theorem State.fr_orFflags (s : State) (b : BitVec 5) (q : Reg) : (s.orFflags b).fr q = s.fr q := rfl

/-! ### Harts by number -/

@[simp] theorem State.getHart_cur (s : State) : s.getHart s.cur = s.hart := by simp [State.getHart]

theorem State.getHart_setHart_same (s : State) (n : Nat) (h : Hart) : (s.setHart n h).getHart n = h := by
  unfold State.setHart State.getHart
  split
  · simp
  · simp [SMap.get_set_same]

theorem State.getHart_setHart_other (s : State) (n k : Nat) (h : Hart) (hk : k ≠ n) : (s.setHart n h).getHart k = s.getHart k := by
  unfold State.setHart State.getHart
  split
  · next e => subst e; simp [hk]
  · simp only; split
    · rfl
    · exact SMap.get_set_other _ _ _ _ _ hk

theorem State.getHart_updHartN (s : State) (n k : Nat) (g : Hart → Hart) :
    (s.updHartN n g).getHart k = if k = n then g (s.getHart n) else s.getHart k := by
  unfold State.updHartN
  split
  · next e => subst e; exact State.getHart_setHart_same _ _ _
  · next e => exact State.getHart_setHart_other _ _ _ _ e

/-- Making another hart the executing one changes no hart. -/
theorem State.getHart_switchTo (s : State) (n k : Nat) : (s.switchTo n).getHart k = s.getHart k := by
  unfold State.switchTo State.getHart
  split
  · rfl
  · next h =>
    simp only
    split
    · next e => subst e; simp [h]
    · next e =>
      split
      · next e' => subst e'; simp [SMap.get_set_same]
      · next e' => exact SMap.get_set_other _ _ _ _ _ e'

@[simp] theorem State.setHart_cur (s : State) (n : Nat) (h : Hart) : (s.setHart n h).cur = s.cur := by unfold State.setHart; split <;> rfl
@[simp] theorem State.setHart_m (s : State) (n : Nat) (h : Hart) : (s.setHart n h).m = s.m := by unfold State.setHart; split <;> rfl
@[simp] theorem State.setHart_fab (s : State) (n : Nat) (h : Hart) : (s.setHart n h).fab = s.fab := by unfold State.setHart; split <;> rfl
@[simp] theorem State.setHart_disp (s : State) (n : Nat) (h : Hart) : (s.setHart n h).disp = s.disp := by unfold State.setHart; split <;> rfl
@[simp] theorem State.setHart_trust (s : State) (n : Nat) (h : Hart) : (s.setHart n h).trust = s.trust := by unfold State.setHart; split <;> rfl
@[simp] theorem State.setHart_time (s : State) (n : Nat) (h : Hart) : (s.setHart n h).time = s.time := by unfold State.setHart; split <;> rfl
@[simp] theorem State.setHart_inbox (s : State) (n : Nat) (h : Hart) : (s.setHart n h).inbox = s.inbox := by unfold State.setHart; split <;> rfl
@[simp] theorem State.setHart_msg (s : State) (n : Nat) (h : Hart) : (s.setHart n h).msg = s.msg := by unfold State.setHart; split <;> rfl
@[simp] theorem State.setHart_turns (s : State) (n : Nat) (h : Hart) : (s.setHart n h).turns = s.turns := by unfold State.setHart; split <;> rfl
@[simp] theorem State.setHart_tick (s : State) (n : Nat) (h : Hart) : (s.setHart n h).tick = s.tick := by unfold State.setHart; split <;> rfl
@[simp] theorem State.setHart_free (s : State) (n : Nat) (h : Hart) : (s.setHart n h).free = s.free := by unfold State.setHart; split <;> rfl

@[simp] theorem State.updHartN_cur (s : State) (n : Nat) (g : Hart → Hart) : (s.updHartN n g).cur = s.cur := by unfold State.updHartN State.setHart; split <;> rfl
@[simp] theorem State.updHartN_m (s : State) (n : Nat) (g : Hart → Hart) : (s.updHartN n g).m = s.m := by unfold State.updHartN State.setHart; split <;> rfl
@[simp] theorem State.updHartN_fab (s : State) (n : Nat) (g : Hart → Hart) : (s.updHartN n g).fab = s.fab := by unfold State.updHartN State.setHart; split <;> rfl
@[simp] theorem State.updHartN_disp (s : State) (n : Nat) (g : Hart → Hart) : (s.updHartN n g).disp = s.disp := by unfold State.updHartN State.setHart; split <;> rfl
@[simp] theorem State.updHartN_trust (s : State) (n : Nat) (g : Hart → Hart) : (s.updHartN n g).trust = s.trust := by unfold State.updHartN State.setHart; split <;> rfl
@[simp] theorem State.updHartN_time (s : State) (n : Nat) (g : Hart → Hart) : (s.updHartN n g).time = s.time := by unfold State.updHartN State.setHart; split <;> rfl
@[simp] theorem State.updHartN_inbox (s : State) (n : Nat) (g : Hart → Hart) : (s.updHartN n g).inbox = s.inbox := by unfold State.updHartN State.setHart; split <;> rfl
@[simp] theorem State.updHartN_msg (s : State) (n : Nat) (g : Hart → Hart) : (s.updHartN n g).msg = s.msg := by unfold State.updHartN State.setHart; split <;> rfl
@[simp] theorem State.updHartN_turns (s : State) (n : Nat) (g : Hart → Hart) : (s.updHartN n g).turns = s.turns := by unfold State.updHartN State.setHart; split <;> rfl
@[simp] theorem State.updHartN_tick (s : State) (n : Nat) (g : Hart → Hart) : (s.updHartN n g).tick = s.tick := by unfold State.updHartN State.setHart; split <;> rfl
@[simp] theorem State.updHartN_free (s : State) (n : Nat) (g : Hart → Hart) : (s.updHartN n g).free = s.free := by unfold State.updHartN State.setHart; split <;> rfl

@[simp] theorem State.switchTo_m (s : State) (n : Nat) : (s.switchTo n).m = s.m := by unfold State.switchTo; split <;> rfl
@[simp] theorem State.switchTo_fab (s : State) (n : Nat) : (s.switchTo n).fab = s.fab := by unfold State.switchTo; split <;> rfl
@[simp] theorem State.switchTo_disp (s : State) (n : Nat) : (s.switchTo n).disp = s.disp := by unfold State.switchTo; split <;> rfl
@[simp] theorem State.switchTo_trust (s : State) (n : Nat) : (s.switchTo n).trust = s.trust := by unfold State.switchTo; split <;> rfl
@[simp] theorem State.switchTo_time (s : State) (n : Nat) : (s.switchTo n).time = s.time := by unfold State.switchTo; split <;> rfl
@[simp] theorem State.switchTo_inbox (s : State) (n : Nat) : (s.switchTo n).inbox = s.inbox := by unfold State.switchTo; split <;> rfl
@[simp] theorem State.switchTo_msg (s : State) (n : Nat) : (s.switchTo n).msg = s.msg := by unfold State.switchTo; split <;> rfl
@[simp] theorem State.switchTo_turns (s : State) (n : Nat) : (s.switchTo n).turns = s.turns := by unfold State.switchTo; split <;> rfl
@[simp] theorem State.switchTo_tick (s : State) (n : Nat) : (s.switchTo n).tick = s.tick := by unfold State.switchTo; split <;> rfl
@[simp] theorem State.switchTo_free (s : State) (n : Nat) : (s.switchTo n).free = s.free := by unfold State.switchTo; split <;> rfl

/-! ### Parts of the memory system -/

@[simp] theorem State.core_setCore_same (s : State) (n : Nat) (v : CoreState) : (s.setCore n v).core n = v := SMap.get_set_same _ _ _ _
theorem State.core_setCore_other (s : State) (n k : Nat) (v : CoreState) (h : k ≠ n) : (s.setCore n v).core k = s.core k := SMap.get_set_other _ _ _ _ _ h
@[simp] theorem State.cluster_setCore (s : State) (n k : Nat) (v : CoreState) : (s.setCore n v).cluster k = s.cluster k := rfl
@[simp] theorem State.slice_setCore (s : State) (n k : Nat) (v : CoreState) : (s.setCore n v).slice k = s.slice k := rfl
@[simp] theorem State.channel_setCore (s : State) (n k : Nat) (v : CoreState) : (s.setCore n v).channel k = s.channel k := rfl
@[simp] theorem State.plate_setCore (s : State) (n k : Nat) (v : CoreState) : (s.setCore n v).plate k = s.plate k := rfl
@[simp] theorem State.ctx_setCore (s : State) (n k : Nat) (v : CoreState) : (s.setCore n v).ctx k = s.ctx k := rfl
@[simp] theorem State.cluster_setCluster_same (s : State) (n : Nat) (v : ClusterState) : (s.setCluster n v).cluster n = v := SMap.get_set_same _ _ _ _
theorem State.cluster_setCluster_other (s : State) (n k : Nat) (v : ClusterState) (h : k ≠ n) : (s.setCluster n v).cluster k = s.cluster k := SMap.get_set_other _ _ _ _ _ h
@[simp] theorem State.core_setCluster (s : State) (n k : Nat) (v : ClusterState) : (s.setCluster n v).core k = s.core k := rfl
@[simp] theorem State.slice_setCluster (s : State) (n k : Nat) (v : ClusterState) : (s.setCluster n v).slice k = s.slice k := rfl
@[simp] theorem State.channel_setCluster (s : State) (n k : Nat) (v : ClusterState) : (s.setCluster n v).channel k = s.channel k := rfl
@[simp] theorem State.plate_setCluster (s : State) (n k : Nat) (v : ClusterState) : (s.setCluster n v).plate k = s.plate k := rfl
@[simp] theorem State.ctx_setCluster (s : State) (n k : Nat) (v : ClusterState) : (s.setCluster n v).ctx k = s.ctx k := rfl
@[simp] theorem State.slice_setSlice_same (s : State) (n : Nat) (v : SliceState) : (s.setSlice n v).slice n = v := SMap.get_set_same _ _ _ _
theorem State.slice_setSlice_other (s : State) (n k : Nat) (v : SliceState) (h : k ≠ n) : (s.setSlice n v).slice k = s.slice k := SMap.get_set_other _ _ _ _ _ h
@[simp] theorem State.core_setSlice (s : State) (n k : Nat) (v : SliceState) : (s.setSlice n v).core k = s.core k := rfl
@[simp] theorem State.cluster_setSlice (s : State) (n k : Nat) (v : SliceState) : (s.setSlice n v).cluster k = s.cluster k := rfl
@[simp] theorem State.channel_setSlice (s : State) (n k : Nat) (v : SliceState) : (s.setSlice n v).channel k = s.channel k := rfl
@[simp] theorem State.plate_setSlice (s : State) (n k : Nat) (v : SliceState) : (s.setSlice n v).plate k = s.plate k := rfl
@[simp] theorem State.ctx_setSlice (s : State) (n k : Nat) (v : SliceState) : (s.setSlice n v).ctx k = s.ctx k := rfl
@[simp] theorem State.channel_setChannel_same (s : State) (n : Nat) (v : Channel) : (s.setChannel n v).channel n = v := SMap.get_set_same _ _ _ _
theorem State.channel_setChannel_other (s : State) (n k : Nat) (v : Channel) (h : k ≠ n) : (s.setChannel n v).channel k = s.channel k := SMap.get_set_other _ _ _ _ _ h
@[simp] theorem State.core_setChannel (s : State) (n k : Nat) (v : Channel) : (s.setChannel n v).core k = s.core k := rfl
@[simp] theorem State.cluster_setChannel (s : State) (n k : Nat) (v : Channel) : (s.setChannel n v).cluster k = s.cluster k := rfl
@[simp] theorem State.slice_setChannel (s : State) (n k : Nat) (v : Channel) : (s.setChannel n v).slice k = s.slice k := rfl
@[simp] theorem State.plate_setChannel (s : State) (n k : Nat) (v : Channel) : (s.setChannel n v).plate k = s.plate k := rfl
@[simp] theorem State.ctx_setChannel (s : State) (n k : Nat) (v : Channel) : (s.setChannel n v).ctx k = s.ctx k := rfl
@[simp] theorem State.plate_setPlate_same (s : State) (n : Nat) (v : Plate) : (s.setPlate n v).plate n = v := SMap.get_set_same _ _ _ _
theorem State.plate_setPlate_other (s : State) (n k : Nat) (v : Plate) (h : k ≠ n) : (s.setPlate n v).plate k = s.plate k := SMap.get_set_other _ _ _ _ _ h
@[simp] theorem State.core_setPlate (s : State) (n k : Nat) (v : Plate) : (s.setPlate n v).core k = s.core k := rfl
@[simp] theorem State.cluster_setPlate (s : State) (n k : Nat) (v : Plate) : (s.setPlate n v).cluster k = s.cluster k := rfl
@[simp] theorem State.slice_setPlate (s : State) (n k : Nat) (v : Plate) : (s.setPlate n v).slice k = s.slice k := rfl
@[simp] theorem State.channel_setPlate (s : State) (n k : Nat) (v : Plate) : (s.setPlate n v).channel k = s.channel k := rfl
@[simp] theorem State.ctx_setPlate (s : State) (n k : Nat) (v : Plate) : (s.setPlate n v).ctx k = s.ctx k := rfl
@[simp] theorem State.ctx_setCtx_same (s : State) (n : Nat) (v : Ctx) : (s.setCtx n v).ctx n = v := SMap.get_set_same _ _ _ _
theorem State.ctx_setCtx_other (s : State) (n k : Nat) (v : Ctx) (h : k ≠ n) : (s.setCtx n v).ctx k = s.ctx k := SMap.get_set_other _ _ _ _ _ h
@[simp] theorem State.core_setCtx (s : State) (n k : Nat) (v : Ctx) : (s.setCtx n v).core k = s.core k := rfl
@[simp] theorem State.cluster_setCtx (s : State) (n k : Nat) (v : Ctx) : (s.setCtx n v).cluster k = s.cluster k := rfl
@[simp] theorem State.slice_setCtx (s : State) (n k : Nat) (v : Ctx) : (s.setCtx n v).slice k = s.slice k := rfl
@[simp] theorem State.channel_setCtx (s : State) (n k : Nat) (v : Ctx) : (s.setCtx n v).channel k = s.channel k := rfl
@[simp] theorem State.plate_setCtx (s : State) (n k : Nat) (v : Ctx) : (s.setCtx n v).plate k = s.plate k := rfl

end Sys2Proof.Machine
end

