-- ==== Sys2Proof/Laws/Operations.lean ====
section
/-! SUPPORT. What the shared operations can do: how a meaning ends, what a trap changes, what the checks answer, and what a step adds. -/
namespace Sys2Proof.Machine
set_option Elab.async false

/-! ### Computations -/

theorem M.bind_ok {α β : Type} {m : M α} {f : α → M β} {s t : State} {a : α} (h : m s = .ok a t) : (m >>= f) s = f a t := by
  show EStateM.bind m f s = f a t
  simp [EStateM.bind, h]

theorem M.bind_error {α β : Type} {m : M α} {f : α → M β} {s t : State} {e : Stop} (h : m s = .error e t) : (m >>= f) s = .error e t := by
  show EStateM.bind m f s = .error e t
  simp [EStateM.bind, h]

/-- A sequence that completes has completed in both parts. -/
theorem M.bind_cases {α β : Type} {m : M α} {f : α → M β} {s u : State} {b : β} (h : (m >>= f) s = .ok b u) :
    ∃ a t, m s = .ok a t ∧ f a t = .ok b u := by
  cases e : m s with
  | ok a t => exact ⟨a, t, rfl, by rw [M.bind_ok e] at h; exact h⟩
  | error x t => rw [M.bind_error e] at h; cases h

@[simp] theorem M.get_bind {β : Type} (f : State → M β) (s : State) : ((get : M State) >>= f) s = f s s := rfl
@[simp] theorem M.set_bind {β : Type} (f : PUnit → M β) (s t : State) : ((set t : M PUnit) >>= f) s = f ⟨⟩ t := rfl
@[simp] theorem M.modify_bind {β : Type} (g : State → State) (f : PUnit → M β) (s : State) : ((modify g : M PUnit) >>= f) s = f ⟨⟩ (g s) := rfl
@[simp] theorem M.pure_apply {α : Type} (a : α) (s : State) : (pure a : M α) s = .ok a s := rfl
@[simp] theorem M.modify_apply (g : State → State) (s : State) : (modify g : M PUnit) s = .ok ⟨⟩ (g s) := rfl
@[simp] theorem M.set_apply (t s : State) : (set t : M PUnit) s = .ok ⟨⟩ t := rfl
@[simp] theorem raise_apply {α : Type} (c : BitVec 8) (a : Word) (s : State) : (raise c a : M α) s = .error (.trap c a) s := rfl
@[simp] theorem stall_apply {α : Type} (s : State) : (stall : M α) s = .error .stall s := rfl
@[simp] theorem illegal_apply {α : Type} (i : Instr) (s : State) : (illegal i : M α) s = .error (.trap tcIllegal (instrWord i)) s := rfl
@[simp] theorem badMsg_apply (s : State) : badMsg s = .ok () s := rfl

/-! ### The end of a meaning -/

theorem finish_ok {m : M Unit} {s t : State} (h : m s = .ok () t) : finish m s = .next t.advance := by simp [finish, h]
theorem finish_trap {m : M Unit} {s t : State} {c : BitVec 8} {a : Word} (h : m s = .error (.trap c a) t) :
    finish m s = .next (t.takeTrap c a 0#2 t.hart.pc) := by simp [finish, h]
theorem finish_stall {m : M Unit} {s t : State} (h : m s = .error .stall t) : finish m s = .next t := by simp [finish, h]
theorem finishPc_ok {m : M Unit} {s t : State} (h : m s = .ok () t) : finishPc m s = .next t := by simp [finishPc, h]
theorem finishPc_trap {m : M Unit} {s t : State} {c : BitVec 8} {a : Word} (h : m s = .error (.trap c a) t) :
    finishPc m s = .next (t.takeTrap c a 0#2 t.hart.pc) := by simp [finishPc, h]
theorem finishEvent_ok {m : M Unit} {s t : State} (h : m s = .ok () t) : finishEvent m s = .next t := by simp [finishEvent, h]
theorem finishEvent_modify (g : State → State) (s : State) : finishEvent (modify g) s = .next (g s) := rfl

/-- A next state comes from an instruction that completes, one that traps, or one that waits. -/
theorem finish_next {m : M Unit} {s t : State} (h : finish m s = .next t) :
    (∃ u, m s = .ok () u ∧ t = u.advance) ∨ (∃ c a u, m s = .error (.trap c a) u ∧ t = u.takeTrap c a 0#2 u.hart.pc) ∨ m s = .error .stall t := by
  unfold finish at h
  split at h
  · next e => cases h; exact .inl ⟨_, e, rfl⟩
  · next e => cases h; exact .inr (.inl ⟨_, _, _, e, rfl⟩)
  · next e => cases h; exact .inr (.inr e)

/-- Every meaning answers a next state: it completes, traps or waits. -/
theorem finish_answers (m : M Unit) (s : State) : ∃ t, finish m s = .next t := by
  unfold finish; split <;> exact ⟨_, rfl⟩
theorem finishPc_answers (m : M Unit) (s : State) : ∃ t, finishPc m s = .next t := by
  unfold finishPc; split <;> exact ⟨_, rfl⟩
theorem finishEvent_answers (m : M Unit) (s : State) : ∃ t, finishEvent m s = .next t := by
  unfold finishEvent; split <;> exact ⟨_, rfl⟩

/-! ### Traps -/

/-- A trap with its entry enabled: the trap registers, the queues frozen where they hold something, with nothing of theirs translated
any more, the privilege and the pc. -/
theorem State.takeTrap_enabled (s : State) (c : BitVec 8) (a : Word) (qk : BitVec 2) (pc : Word) (h : s.hart.trap.trentry.getLsbD 0 = true) :
    let frz := !s.hart.vq.isEmpty || !s.hart.mq.isEmpty
    s.takeTrap c a qk pc = { s with hart := { s.hart with
      trap := s.hart.trap.enter c a qk pc s.hart.pc s.hart.sup frz, frozen := s.hart.frozen || frz, phase := .running, sup := true,
      entering := true, pc := trapVector s.hart.trap.trentry s.hart.sup c, window := [],
      trapFrom := (if qk = 0#2 && !s.hart.sup then none else s.hart.trapFrom),
      vq := s.hart.vq.map (fun q => { q with spans := [] }), mq := s.hart.mq.map (fun q => { q with spans := [] }) } } := by
  simp [State.takeTrap, State.updHart, TrapRegs.enter, h]

/-- Such a trap changes nothing outside the hart. -/
theorem State.takeTrap_frame (s : State) (c : BitVec 8) (a : Word) (qk : BitVec 2) (pc : Word) (h : s.hart.trap.trentry.getLsbD 0 = true) :
    (s.takeTrap c a qk pc).m = s.m ∧ (s.takeTrap c a qk pc).others = s.others ∧ (s.takeTrap c a qk pc).disp = s.disp ∧
    (s.takeTrap c a qk pc).fab = s.fab ∧ (s.takeTrap c a qk pc).trust = s.trust ∧ (s.takeTrap c a qk pc).inbox = s.inbox ∧
    (s.takeTrap c a qk pc).hart.regs = s.hart.regs := by
  rw [State.takeTrap_enabled s c a qk pc h]; exact ⟨rfl, rfl, rfl, rfl, rfl, rfl, rfl⟩

/-- Only the supervisor passes; a user raises PRIVILEGED. -/
theorem needSup_sup {i : Instr} {s : State} (h : s.hart.sup = true) : needSup i s = .ok () s := by
  show (get >>= fun s : State => if s.hart.sup then pure () else raise tcPrivileged (instrWord i)) s = _
  simp [h]
theorem needSup_user {i : Instr} {s : State} (h : s.hart.sup = false) : needSup i s = .error (.trap tcPrivileged (instrWord i)) s := by
  show (get >>= fun s : State => if s.hart.sup then pure () else raise tcPrivileged (instrWord i)) s = _
  simp [h]

/-! ### Free values -/

/-- A choice of a list that is not empty is one of its elements. -/
theorem State.pickOne_mem {s t : State} {l : List Nat} {n : Nat} (h : s.pickOne l = (t, some n)) : n ∈ l ∧ t = { s with free := s.free + 1 } := by
  simp only [State.pickOne, Prod.mk.injEq] at h
  exact ⟨List.mem_of_getElem? h.2, h.1.symm⟩

/-! ### What a step adds -/

/-- The end of a step stops where the step stopped, and lets time pass where it went on. -/
theorem endStep_next {n : Nat} {o : Host.Outcome State Fault Refusal} {t : State} (h : endStep n o = .next t) : ∃ u, o = .next u ∧ t = u.tickOver n := by
  cases o with
  | next u => cases h; exact ⟨u, rfl, rfl⟩
  | fault r => cases h
  | refused r => cases h

/-- Time changes the clock, the count of steps, and what waits to be done; no hart and no memory. -/
theorem State.tickOver_frame (s : State) (n : Nat) : (s.tickOver n).m = s.m ∧ (s.tickOver n).hart = s.hart ∧ (s.tickOver n).others = s.others ∧
    (s.tickOver n).cur = s.cur ∧ (s.tickOver n).fab = s.fab ∧ (s.tickOver n).disp = s.disp ∧ (s.tickOver n).trust = s.trust := by
  unfold State.tickOver State.scanTimer State.switchTimers State.after
  dsimp only
  repeat' split
  all_goals exact ⟨rfl, rfl, rfl, rfl, rfl, rfl, rfl⟩

end Sys2Proof.Machine
end

