-- ==== Sys2Proof/Laws/PerInstr.lean ====
section
/-! SUPPORT. The family Coding: what each instruction's encoding says of it, one lemma per constructor. -/
namespace Sys2Proof.Laws
set_option Elab.async false
set_option linter.unusedSimpArgs false

/-- The word that the encoder lays out for a well-formed instruction decodes to that instruction. -/
def Coding.Statement (i : Instr) : Prop := isEncoded i = true → WellFormed i = true → decode (encode i) = some i

theorem Coding.add (d : BitVec 5) (a : BitVec 5) (b : BitVec 5) : Coding.Statement (.add d a b) := by
  intro _ hw
  refine decode_of_fields ((decodeFields_01 fmtR_26_6).trans ?_) hw
  simp only [decodeMajor01, encode, fmtR_0_11, fmtR_11_5, fmtR_16_5, fmtR_21_5, fmtR_26_6] <;> rfl
theorem Coding.sub (d : BitVec 5) (a : BitVec 5) (b : BitVec 5) : Coding.Statement (.sub d a b) := by
  intro _ hw
  refine decode_of_fields ((decodeFields_01 fmtR_26_6).trans ?_) hw
  simp only [decodeMajor01, encode, fmtR_0_11, fmtR_11_5, fmtR_16_5, fmtR_21_5, fmtR_26_6] <;> rfl
theorem Coding.and (d : BitVec 5) (a : BitVec 5) (b : BitVec 5) : Coding.Statement (.and d a b) := by
  intro _ hw
  refine decode_of_fields ((decodeFields_01 fmtR_26_6).trans ?_) hw
  simp only [decodeMajor01, encode, fmtR_0_11, fmtR_11_5, fmtR_16_5, fmtR_21_5, fmtR_26_6] <;> rfl
theorem Coding.or (d : BitVec 5) (a : BitVec 5) (b : BitVec 5) : Coding.Statement (.or d a b) := by
  intro _ hw
  refine decode_of_fields ((decodeFields_01 fmtR_26_6).trans ?_) hw
  simp only [decodeMajor01, encode, fmtR_0_11, fmtR_11_5, fmtR_16_5, fmtR_21_5, fmtR_26_6] <;> rfl
theorem Coding.xor (d : BitVec 5) (a : BitVec 5) (b : BitVec 5) : Coding.Statement (.xor d a b) := by
  intro _ hw
  refine decode_of_fields ((decodeFields_01 fmtR_26_6).trans ?_) hw
  simp only [decodeMajor01, encode, fmtR_0_11, fmtR_11_5, fmtR_16_5, fmtR_21_5, fmtR_26_6] <;> rfl
theorem Coding.andn (d : BitVec 5) (a : BitVec 5) (b : BitVec 5) : Coding.Statement (.andn d a b) := by
  intro _ hw
  refine decode_of_fields ((decodeFields_01 fmtR_26_6).trans ?_) hw
  simp only [decodeMajor01, encode, fmtR_0_11, fmtR_11_5, fmtR_16_5, fmtR_21_5, fmtR_26_6] <;> rfl
theorem Coding.sll (d : BitVec 5) (a : BitVec 5) (b : BitVec 5) : Coding.Statement (.sll d a b) := by
  intro _ hw
  refine decode_of_fields ((decodeFields_01 fmtR_26_6).trans ?_) hw
  simp only [decodeMajor01, encode, fmtR_0_11, fmtR_11_5, fmtR_16_5, fmtR_21_5, fmtR_26_6] <;> rfl
theorem Coding.srl (d : BitVec 5) (a : BitVec 5) (b : BitVec 5) : Coding.Statement (.srl d a b) := by
  intro _ hw
  refine decode_of_fields ((decodeFields_01 fmtR_26_6).trans ?_) hw
  simp only [decodeMajor01, encode, fmtR_0_11, fmtR_11_5, fmtR_16_5, fmtR_21_5, fmtR_26_6] <;> rfl
theorem Coding.sra (d : BitVec 5) (a : BitVec 5) (b : BitVec 5) : Coding.Statement (.sra d a b) := by
  intro _ hw
  refine decode_of_fields ((decodeFields_01 fmtR_26_6).trans ?_) hw
  simp only [decodeMajor01, encode, fmtR_0_11, fmtR_11_5, fmtR_16_5, fmtR_21_5, fmtR_26_6] <;> rfl
theorem Coding.rol (d : BitVec 5) (a : BitVec 5) (b : BitVec 5) : Coding.Statement (.rol d a b) := by
  intro _ hw
  refine decode_of_fields ((decodeFields_01 fmtR_26_6).trans ?_) hw
  simp only [decodeMajor01, encode, fmtR_0_11, fmtR_11_5, fmtR_16_5, fmtR_21_5, fmtR_26_6] <;> rfl
theorem Coding.slt (d : BitVec 5) (a : BitVec 5) (b : BitVec 5) : Coding.Statement (.slt d a b) := by
  intro _ hw
  refine decode_of_fields ((decodeFields_01 fmtR_26_6).trans ?_) hw
  simp only [decodeMajor01, encode, fmtR_0_11, fmtR_11_5, fmtR_16_5, fmtR_21_5, fmtR_26_6] <;> rfl
theorem Coding.sltu (d : BitVec 5) (a : BitVec 5) (b : BitVec 5) : Coding.Statement (.sltu d a b) := by
  intro _ hw
  refine decode_of_fields ((decodeFields_01 fmtR_26_6).trans ?_) hw
  simp only [decodeMajor01, encode, fmtR_0_11, fmtR_11_5, fmtR_16_5, fmtR_21_5, fmtR_26_6] <;> rfl
theorem Coding.min (d : BitVec 5) (a : BitVec 5) (b : BitVec 5) : Coding.Statement (.min d a b) := by
  intro _ hw
  refine decode_of_fields ((decodeFields_01 fmtR_26_6).trans ?_) hw
  simp only [decodeMajor01, encode, fmtR_0_11, fmtR_11_5, fmtR_16_5, fmtR_21_5, fmtR_26_6] <;> rfl
theorem Coding.max (d : BitVec 5) (a : BitVec 5) (b : BitVec 5) : Coding.Statement (.max d a b) := by
  intro _ hw
  refine decode_of_fields ((decodeFields_01 fmtR_26_6).trans ?_) hw
  simp only [decodeMajor01, encode, fmtR_0_11, fmtR_11_5, fmtR_16_5, fmtR_21_5, fmtR_26_6] <;> rfl
theorem Coding.minu (d : BitVec 5) (a : BitVec 5) (b : BitVec 5) : Coding.Statement (.minu d a b) := by
  intro _ hw
  refine decode_of_fields ((decodeFields_01 fmtR_26_6).trans ?_) hw
  simp only [decodeMajor01, encode, fmtR_0_11, fmtR_11_5, fmtR_16_5, fmtR_21_5, fmtR_26_6] <;> rfl
theorem Coding.maxu (d : BitVec 5) (a : BitVec 5) (b : BitVec 5) : Coding.Statement (.maxu d a b) := by
  intro _ hw
  refine decode_of_fields ((decodeFields_01 fmtR_26_6).trans ?_) hw
  simp only [decodeMajor01, encode, fmtR_0_11, fmtR_11_5, fmtR_16_5, fmtR_21_5, fmtR_26_6] <;> rfl
theorem Coding.clz (d : BitVec 5) (a : BitVec 5) : Coding.Statement (.clz d a) := by
  intro _ hw
  refine decode_of_fields ((decodeFields_01 fmtR_26_6).trans ?_) hw
  simp only [decodeMajor01, encode, fmtR_0_11, fmtR_11_5, fmtR_16_5, fmtR_21_5, fmtR_26_6] <;> rfl
theorem Coding.ctz (d : BitVec 5) (a : BitVec 5) : Coding.Statement (.ctz d a) := by
  intro _ hw
  refine decode_of_fields ((decodeFields_01 fmtR_26_6).trans ?_) hw
  simp only [decodeMajor01, encode, fmtR_0_11, fmtR_11_5, fmtR_16_5, fmtR_21_5, fmtR_26_6] <;> rfl
theorem Coding.popc (d : BitVec 5) (a : BitVec 5) : Coding.Statement (.popc d a) := by
  intro _ hw
  refine decode_of_fields ((decodeFields_01 fmtR_26_6).trans ?_) hw
  simp only [decodeMajor01, encode, fmtR_0_11, fmtR_11_5, fmtR_16_5, fmtR_21_5, fmtR_26_6] <;> rfl
theorem Coding.addi (d : BitVec 5) (a : BitVec 5) (i : BitVec 16) : Coding.Statement (.addi d a i) := by
  intro _ hw
  refine decode_of_fields ((decodeFields_02 fmtI_26_6).trans ?_) hw
  simp only [decodeMajor02, encode, fmtI_0_16, fmtI_16_5, fmtI_21_5, fmtI_26_6] <;> rfl
theorem Coding.andi (d : BitVec 5) (a : BitVec 5) (i : BitVec 16) : Coding.Statement (.andi d a i) := by
  intro _ hw
  refine decode_of_fields ((decodeFields_03 fmtI_26_6).trans ?_) hw
  simp only [decodeMajor03, encode, fmtI_0_16, fmtI_16_5, fmtI_21_5, fmtI_26_6] <;> rfl
theorem Coding.ori (d : BitVec 5) (a : BitVec 5) (i : BitVec 16) : Coding.Statement (.ori d a i) := by
  intro _ hw
  refine decode_of_fields ((decodeFields_04 fmtI_26_6).trans ?_) hw
  simp only [decodeMajor04, encode, fmtI_0_16, fmtI_16_5, fmtI_21_5, fmtI_26_6] <;> rfl
theorem Coding.xori (d : BitVec 5) (a : BitVec 5) (i : BitVec 16) : Coding.Statement (.xori d a i) := by
  intro _ hw
  refine decode_of_fields ((decodeFields_05 fmtI_26_6).trans ?_) hw
  simp only [decodeMajor05, encode, fmtI_0_16, fmtI_16_5, fmtI_21_5, fmtI_26_6] <;> rfl
theorem Coding.slli (d : BitVec 5) (a : BitVec 5) (n : BitVec 6) : Coding.Statement (.slli d a n) := by
  intro _ hw
  refine decode_of_fields ((decodeFields_06 fmtShift_26_6).trans ?_) hw
  simp only [decodeMajor06, encode, fmtShift_0_6, fmtShift_6_2, fmtShift_8_8, fmtShift_16_5, fmtShift_21_5, fmtShift_26_6] <;> rfl
theorem Coding.srli (d : BitVec 5) (a : BitVec 5) (n : BitVec 6) : Coding.Statement (.srli d a n) := by
  intro _ hw
  refine decode_of_fields ((decodeFields_06 fmtShift_26_6).trans ?_) hw
  simp only [decodeMajor06, encode, fmtShift_0_6, fmtShift_6_2, fmtShift_8_8, fmtShift_16_5, fmtShift_21_5, fmtShift_26_6] <;> rfl
theorem Coding.srai (d : BitVec 5) (a : BitVec 5) (n : BitVec 6) : Coding.Statement (.srai d a n) := by
  intro _ hw
  refine decode_of_fields ((decodeFields_06 fmtShift_26_6).trans ?_) hw
  simp only [decodeMajor06, encode, fmtShift_0_6, fmtShift_6_2, fmtShift_8_8, fmtShift_16_5, fmtShift_21_5, fmtShift_26_6] <;> rfl
theorem Coding.slti (d : BitVec 5) (a : BitVec 5) (i : BitVec 16) : Coding.Statement (.slti d a i) := by
  intro _ hw
  refine decode_of_fields ((decodeFields_07 fmtI_26_6).trans ?_) hw
  simp only [decodeMajor07, encode, fmtI_0_16, fmtI_16_5, fmtI_21_5, fmtI_26_6] <;> rfl
theorem Coding.sltiu (d : BitVec 5) (a : BitVec 5) (i : BitVec 16) : Coding.Statement (.sltiu d a i) := by
  intro _ hw
  refine decode_of_fields ((decodeFields_08 fmtI_26_6).trans ?_) hw
  simp only [decodeMajor08, encode, fmtI_0_16, fmtI_16_5, fmtI_21_5, fmtI_26_6] <;> rfl
theorem Coding.lih (d : BitVec 5) (i : BitVec 21) : Coding.Statement (.lih d i) := by
  intro _ hw
  refine decode_of_fields ((decodeFields_09 fmtU_26_6).trans ?_) hw
  simp only [decodeMajor09, encode, fmtU_0_21, fmtU_21_5, fmtU_26_6] <;> rfl
theorem Coding.pcrel (d : BitVec 5) (i : BitVec 21) : Coding.Statement (.pcrel d i) := by
  intro _ hw
  refine decode_of_fields ((decodeFields_0A fmtU_26_6).trans ?_) hw
  simp only [decodeMajor0A, encode, fmtU_0_21, fmtU_21_5, fmtU_26_6] <;> rfl
theorem Coding.ldB (d : BitVec 5) (a : BitVec 5) (o : BitVec 13) : Coding.Statement (.ldB d a o) := by
  intro _ hw
  refine decode_of_fields ((decodeFields_0B fmtM_26_6).trans ?_) hw
  simp only [decodeMajor0B, encode, fmtM_0_13, fmtM_13_3, fmtM_16_5, fmtM_21_5, fmtM_26_6] <;> rfl
theorem Coding.ldBu (d : BitVec 5) (a : BitVec 5) (o : BitVec 13) : Coding.Statement (.ldBu d a o) := by
  intro _ hw
  refine decode_of_fields ((decodeFields_0B fmtM_26_6).trans ?_) hw
  simp only [decodeMajor0B, encode, fmtM_0_13, fmtM_13_3, fmtM_16_5, fmtM_21_5, fmtM_26_6] <;> rfl
theorem Coding.ldH (d : BitVec 5) (a : BitVec 5) (o : BitVec 13) : Coding.Statement (.ldH d a o) := by
  intro _ hw
  refine decode_of_fields ((decodeFields_0B fmtM_26_6).trans ?_) hw
  simp only [decodeMajor0B, encode, fmtM_0_13, fmtM_13_3, fmtM_16_5, fmtM_21_5, fmtM_26_6] <;> rfl
theorem Coding.ldHu (d : BitVec 5) (a : BitVec 5) (o : BitVec 13) : Coding.Statement (.ldHu d a o) := by
  intro _ hw
  refine decode_of_fields ((decodeFields_0B fmtM_26_6).trans ?_) hw
  simp only [decodeMajor0B, encode, fmtM_0_13, fmtM_13_3, fmtM_16_5, fmtM_21_5, fmtM_26_6] <;> rfl
theorem Coding.ldW (d : BitVec 5) (a : BitVec 5) (o : BitVec 13) : Coding.Statement (.ldW d a o) := by
  intro _ hw
  refine decode_of_fields ((decodeFields_0B fmtM_26_6).trans ?_) hw
  simp only [decodeMajor0B, encode, fmtM_0_13, fmtM_13_3, fmtM_16_5, fmtM_21_5, fmtM_26_6] <;> rfl
theorem Coding.ldWu (d : BitVec 5) (a : BitVec 5) (o : BitVec 13) : Coding.Statement (.ldWu d a o) := by
  intro _ hw
  refine decode_of_fields ((decodeFields_0B fmtM_26_6).trans ?_) hw
  simp only [decodeMajor0B, encode, fmtM_0_13, fmtM_13_3, fmtM_16_5, fmtM_21_5, fmtM_26_6] <;> rfl
theorem Coding.ldD (d : BitVec 5) (a : BitVec 5) (o : BitVec 13) : Coding.Statement (.ldD d a o) := by
  intro _ hw
  refine decode_of_fields ((decodeFields_0B fmtM_26_6).trans ?_) hw
  simp only [decodeMajor0B, encode, fmtM_0_13, fmtM_13_3, fmtM_16_5, fmtM_21_5, fmtM_26_6] <;> rfl
theorem Coding.stB (d : BitVec 5) (a : BitVec 5) (o : BitVec 13) : Coding.Statement (.stB d a o) := by
  intro _ hw
  refine decode_of_fields ((decodeFields_0C fmtM_26_6).trans ?_) hw
  simp only [decodeMajor0C, encode, fmtM_0_13, fmtM_13_3, fmtM_16_5, fmtM_21_5, fmtM_26_6] <;> rfl
theorem Coding.stH (d : BitVec 5) (a : BitVec 5) (o : BitVec 13) : Coding.Statement (.stH d a o) := by
  intro _ hw
  refine decode_of_fields ((decodeFields_0C fmtM_26_6).trans ?_) hw
  simp only [decodeMajor0C, encode, fmtM_0_13, fmtM_13_3, fmtM_16_5, fmtM_21_5, fmtM_26_6] <;> rfl
theorem Coding.stW (d : BitVec 5) (a : BitVec 5) (o : BitVec 13) : Coding.Statement (.stW d a o) := by
  intro _ hw
  refine decode_of_fields ((decodeFields_0C fmtM_26_6).trans ?_) hw
  simp only [decodeMajor0C, encode, fmtM_0_13, fmtM_13_3, fmtM_16_5, fmtM_21_5, fmtM_26_6] <;> rfl
theorem Coding.stD (d : BitVec 5) (a : BitVec 5) (o : BitVec 13) : Coding.Statement (.stD d a o) := by
  intro _ hw
  refine decode_of_fields ((decodeFields_0C fmtM_26_6).trans ?_) hw
  simp only [decodeMajor0C, encode, fmtM_0_13, fmtM_13_3, fmtM_16_5, fmtM_21_5, fmtM_26_6] <;> rfl
theorem Coding.ldaW (d : BitVec 5) (a : BitVec 5) (s : BitVec 2) (o : BitVec 11) : Coding.Statement (.ldaW d a s o) := by
  intro _ hw
  refine decode_of_fields ((decodeFields_0D fmtScoped_26_6).trans ?_) hw
  simp only [decodeMajor0D, encode, fmtScoped_0_11, fmtScoped_11_2, fmtScoped_13_3, fmtScoped_16_5, fmtScoped_21_5, fmtScoped_26_6] <;> rfl
theorem Coding.ldaD (d : BitVec 5) (a : BitVec 5) (s : BitVec 2) (o : BitVec 11) : Coding.Statement (.ldaD d a s o) := by
  intro _ hw
  refine decode_of_fields ((decodeFields_0D fmtScoped_26_6).trans ?_) hw
  simp only [decodeMajor0D, encode, fmtScoped_0_11, fmtScoped_11_2, fmtScoped_13_3, fmtScoped_16_5, fmtScoped_21_5, fmtScoped_26_6] <;> rfl
theorem Coding.stlW (d : BitVec 5) (a : BitVec 5) (s : BitVec 2) (o : BitVec 11) : Coding.Statement (.stlW d a s o) := by
  intro _ hw
  refine decode_of_fields ((decodeFields_0E fmtScoped_26_6).trans ?_) hw
  simp only [decodeMajor0E, encode, fmtScoped_0_11, fmtScoped_11_2, fmtScoped_13_3, fmtScoped_16_5, fmtScoped_21_5, fmtScoped_26_6] <;> rfl
theorem Coding.stlD (d : BitVec 5) (a : BitVec 5) (s : BitVec 2) (o : BitVec 11) : Coding.Statement (.stlD d a s o) := by
  intro _ hw
  refine decode_of_fields ((decodeFields_0E fmtScoped_26_6).trans ?_) hw
  simp only [decodeMajor0E, encode, fmtScoped_0_11, fmtScoped_11_2, fmtScoped_13_3, fmtScoped_16_5, fmtScoped_21_5, fmtScoped_26_6] <;> rfl
theorem Coding.fldH (d : BitVec 5) (a : BitVec 5) (o : BitVec 13) : Coding.Statement (.fldH d a o) := by
  intro _ hw
  refine decode_of_fields ((decodeFields_0F fmtM_26_6).trans ?_) hw
  simp only [decodeMajor0F, encode, fmtM_0_13, fmtM_13_3, fmtM_16_5, fmtM_21_5, fmtM_26_6] <;> rfl
theorem Coding.fldW (d : BitVec 5) (a : BitVec 5) (o : BitVec 13) : Coding.Statement (.fldW d a o) := by
  intro _ hw
  refine decode_of_fields ((decodeFields_0F fmtM_26_6).trans ?_) hw
  simp only [decodeMajor0F, encode, fmtM_0_13, fmtM_13_3, fmtM_16_5, fmtM_21_5, fmtM_26_6] <;> rfl
theorem Coding.fldD (d : BitVec 5) (a : BitVec 5) (o : BitVec 13) : Coding.Statement (.fldD d a o) := by
  intro _ hw
  refine decode_of_fields ((decodeFields_0F fmtM_26_6).trans ?_) hw
  simp only [decodeMajor0F, encode, fmtM_0_13, fmtM_13_3, fmtM_16_5, fmtM_21_5, fmtM_26_6] <;> rfl
theorem Coding.fstH (d : BitVec 5) (a : BitVec 5) (o : BitVec 13) : Coding.Statement (.fstH d a o) := by
  intro _ hw
  refine decode_of_fields ((decodeFields_10 fmtM_26_6).trans ?_) hw
  simp only [decodeMajor10, encode, fmtM_0_13, fmtM_13_3, fmtM_16_5, fmtM_21_5, fmtM_26_6] <;> rfl
theorem Coding.fstW (d : BitVec 5) (a : BitVec 5) (o : BitVec 13) : Coding.Statement (.fstW d a o) := by
  intro _ hw
  refine decode_of_fields ((decodeFields_10 fmtM_26_6).trans ?_) hw
  simp only [decodeMajor10, encode, fmtM_0_13, fmtM_13_3, fmtM_16_5, fmtM_21_5, fmtM_26_6] <;> rfl
theorem Coding.fstD (d : BitVec 5) (a : BitVec 5) (o : BitVec 13) : Coding.Statement (.fstD d a o) := by
  intro _ hw
  refine decode_of_fields ((decodeFields_10 fmtM_26_6).trans ?_) hw
  simp only [decodeMajor10, encode, fmtM_0_13, fmtM_13_3, fmtM_16_5, fmtM_21_5, fmtM_26_6] <;> rfl
theorem Coding.beq (a : BitVec 5) (b : BitVec 5) (o : BitVec 16) : Coding.Statement (.beq a b o) := by
  intro _ hw
  refine decode_of_fields ((decodeFields_11 fmtI_26_6).trans ?_) hw
  simp only [decodeMajor11, encode, fmtI_0_16, fmtI_16_5, fmtI_21_5, fmtI_26_6] <;> rfl
theorem Coding.bne (a : BitVec 5) (b : BitVec 5) (o : BitVec 16) : Coding.Statement (.bne a b o) := by
  intro _ hw
  refine decode_of_fields ((decodeFields_12 fmtI_26_6).trans ?_) hw
  simp only [decodeMajor12, encode, fmtI_0_16, fmtI_16_5, fmtI_21_5, fmtI_26_6] <;> rfl
theorem Coding.blt (a : BitVec 5) (b : BitVec 5) (o : BitVec 16) : Coding.Statement (.blt a b o) := by
  intro _ hw
  refine decode_of_fields ((decodeFields_13 fmtI_26_6).trans ?_) hw
  simp only [decodeMajor13, encode, fmtI_0_16, fmtI_16_5, fmtI_21_5, fmtI_26_6] <;> rfl
theorem Coding.bge (a : BitVec 5) (b : BitVec 5) (o : BitVec 16) : Coding.Statement (.bge a b o) := by
  intro _ hw
  refine decode_of_fields ((decodeFields_14 fmtI_26_6).trans ?_) hw
  simp only [decodeMajor14, encode, fmtI_0_16, fmtI_16_5, fmtI_21_5, fmtI_26_6] <;> rfl
theorem Coding.bltu (a : BitVec 5) (b : BitVec 5) (o : BitVec 16) : Coding.Statement (.bltu a b o) := by
  intro _ hw
  refine decode_of_fields ((decodeFields_15 fmtI_26_6).trans ?_) hw
  simp only [decodeMajor15, encode, fmtI_0_16, fmtI_16_5, fmtI_21_5, fmtI_26_6] <;> rfl
theorem Coding.bgeu (a : BitVec 5) (b : BitVec 5) (o : BitVec 16) : Coding.Statement (.bgeu a b o) := by
  intro _ hw
  refine decode_of_fields ((decodeFields_16 fmtI_26_6).trans ?_) hw
  simp only [decodeMajor16, encode, fmtI_0_16, fmtI_16_5, fmtI_21_5, fmtI_26_6] <;> rfl
theorem Coding.bpAny (a : BitVec 5) (o : BitVec 16) : Coding.Statement (.bpAny a o) := by
  intro _ hw
  refine decode_of_fields ((decodeFields_17 fmtI_26_6).trans ?_) hw
  simp only [decodeMajor17, encode, fmtI_0_16, fmtI_16_5, fmtI_21_5, fmtI_26_6] <;> rfl
theorem Coding.bpNone (a : BitVec 5) (o : BitVec 16) : Coding.Statement (.bpNone a o) := by
  intro _ hw
  refine decode_of_fields ((decodeFields_17 fmtI_26_6).trans ?_) hw
  simp only [decodeMajor17, encode, fmtI_0_16, fmtI_16_5, fmtI_21_5, fmtI_26_6] <;> rfl
theorem Coding.bpAll (a : BitVec 5) (o : BitVec 16) : Coding.Statement (.bpAll a o) := by
  intro _ hw
  refine decode_of_fields ((decodeFields_17 fmtI_26_6).trans ?_) hw
  simp only [decodeMajor17, encode, fmtI_0_16, fmtI_16_5, fmtI_21_5, fmtI_26_6] <;> rfl
theorem Coding.bpFirst (a : BitVec 5) (o : BitVec 16) : Coding.Statement (.bpFirst a o) := by
  intro _ hw
  refine decode_of_fields ((decodeFields_17 fmtI_26_6).trans ?_) hw
  simp only [decodeMajor17, encode, fmtI_0_16, fmtI_16_5, fmtI_21_5, fmtI_26_6] <;> rfl
theorem Coding.jal (d : BitVec 5) (o : BitVec 21) : Coding.Statement (.jal d o) := by
  intro _ hw
  refine decode_of_fields ((decodeFields_18 fmtU_26_6).trans ?_) hw
  simp only [decodeMajor18, encode, fmtU_0_21, fmtU_21_5, fmtU_26_6] <;> rfl
theorem Coding.jalr (d : BitVec 5) (a : BitVec 5) (i : BitVec 16) : Coding.Statement (.jalr d a i) := by
  intro _ hw
  refine decode_of_fields ((decodeFields_19 fmtI_26_6).trans ?_) hw
  simp only [decodeMajor19, encode, fmtI_0_16, fmtI_16_5, fmtI_21_5, fmtI_26_6] <;> rfl
theorem Coding.mul (d : BitVec 5) (a : BitVec 5) (b : BitVec 5) : Coding.Statement (.mul d a b) := by
  intro _ hw
  refine decode_of_fields ((decodeFields_1B fmtR_26_6).trans ?_) hw
  simp only [decodeMajor1B, encode, fmtR_0_11, fmtR_11_5, fmtR_16_5, fmtR_21_5, fmtR_26_6] <;> rfl
theorem Coding.mulh (d : BitVec 5) (a : BitVec 5) (b : BitVec 5) : Coding.Statement (.mulh d a b) := by
  intro _ hw
  refine decode_of_fields ((decodeFields_1B fmtR_26_6).trans ?_) hw
  simp only [decodeMajor1B, encode, fmtR_0_11, fmtR_11_5, fmtR_16_5, fmtR_21_5, fmtR_26_6] <;> rfl
theorem Coding.mulhu (d : BitVec 5) (a : BitVec 5) (b : BitVec 5) : Coding.Statement (.mulhu d a b) := by
  intro _ hw
  refine decode_of_fields ((decodeFields_1B fmtR_26_6).trans ?_) hw
  simp only [decodeMajor1B, encode, fmtR_0_11, fmtR_11_5, fmtR_16_5, fmtR_21_5, fmtR_26_6] <;> rfl
theorem Coding.mulhsu (d : BitVec 5) (a : BitVec 5) (b : BitVec 5) : Coding.Statement (.mulhsu d a b) := by
  intro _ hw
  refine decode_of_fields ((decodeFields_1B fmtR_26_6).trans ?_) hw
  simp only [decodeMajor1B, encode, fmtR_0_11, fmtR_11_5, fmtR_16_5, fmtR_21_5, fmtR_26_6] <;> rfl
theorem Coding.div (d : BitVec 5) (a : BitVec 5) (b : BitVec 5) : Coding.Statement (.div d a b) := by
  intro _ hw
  refine decode_of_fields ((decodeFields_1B fmtR_26_6).trans ?_) hw
  simp only [decodeMajor1B, encode, fmtR_0_11, fmtR_11_5, fmtR_16_5, fmtR_21_5, fmtR_26_6] <;> rfl
theorem Coding.divu (d : BitVec 5) (a : BitVec 5) (b : BitVec 5) : Coding.Statement (.divu d a b) := by
  intro _ hw
  refine decode_of_fields ((decodeFields_1B fmtR_26_6).trans ?_) hw
  simp only [decodeMajor1B, encode, fmtR_0_11, fmtR_11_5, fmtR_16_5, fmtR_21_5, fmtR_26_6] <;> rfl
theorem Coding.rem (d : BitVec 5) (a : BitVec 5) (b : BitVec 5) : Coding.Statement (.rem d a b) := by
  intro _ hw
  refine decode_of_fields ((decodeFields_1B fmtR_26_6).trans ?_) hw
  simp only [decodeMajor1B, encode, fmtR_0_11, fmtR_11_5, fmtR_16_5, fmtR_21_5, fmtR_26_6] <;> rfl
theorem Coding.remu (d : BitVec 5) (a : BitVec 5) (b : BitVec 5) : Coding.Statement (.remu d a b) := by
  intro _ hw
  refine decode_of_fields ((decodeFields_1B fmtR_26_6).trans ?_) hw
  simp only [decodeMajor1B, encode, fmtR_0_11, fmtR_11_5, fmtR_16_5, fmtR_21_5, fmtR_26_6] <;> rfl
theorem Coding.fadd (d : BitVec 5) (a : BitVec 5) (b : BitVec 5) (p : BitVec 1) (r : BitVec 3) : Coding.Statement (.fadd d a b p r) := by
  intro _ hw
  refine decode_of_fields ((decodeFields_1C fmtFloat_26_6).trans ?_) hw
  simp only [decodeMajor1C, encode, fmtFloat_0_2, fmtFloat_2_3, fmtFloat_5_1, fmtFloat_6_5, fmtFloat_11_1, fmtFloat_11_5, fmtFloat_12_4, fmtFloat_16_5, fmtFloat_21_5, fmtFloat_26_6] <;> rfl
theorem Coding.fsub (d : BitVec 5) (a : BitVec 5) (b : BitVec 5) (p : BitVec 1) (r : BitVec 3) : Coding.Statement (.fsub d a b p r) := by
  intro _ hw
  refine decode_of_fields ((decodeFields_1C fmtFloat_26_6).trans ?_) hw
  simp only [decodeMajor1C, encode, fmtFloat_0_2, fmtFloat_2_3, fmtFloat_5_1, fmtFloat_6_5, fmtFloat_11_1, fmtFloat_11_5, fmtFloat_12_4, fmtFloat_16_5, fmtFloat_21_5, fmtFloat_26_6] <;> rfl
theorem Coding.fmul (d : BitVec 5) (a : BitVec 5) (b : BitVec 5) (p : BitVec 1) (r : BitVec 3) : Coding.Statement (.fmul d a b p r) := by
  intro _ hw
  refine decode_of_fields ((decodeFields_1C fmtFloat_26_6).trans ?_) hw
  simp only [decodeMajor1C, encode, fmtFloat_0_2, fmtFloat_2_3, fmtFloat_5_1, fmtFloat_6_5, fmtFloat_11_1, fmtFloat_11_5, fmtFloat_12_4, fmtFloat_16_5, fmtFloat_21_5, fmtFloat_26_6] <;> rfl
theorem Coding.fdiv (d : BitVec 5) (a : BitVec 5) (b : BitVec 5) (p : BitVec 1) (r : BitVec 3) : Coding.Statement (.fdiv d a b p r) := by
  intro _ hw
  refine decode_of_fields ((decodeFields_1C fmtFloat_26_6).trans ?_) hw
  simp only [decodeMajor1C, encode, fmtFloat_0_2, fmtFloat_2_3, fmtFloat_5_1, fmtFloat_6_5, fmtFloat_11_1, fmtFloat_11_5, fmtFloat_12_4, fmtFloat_16_5, fmtFloat_21_5, fmtFloat_26_6] <;> rfl
theorem Coding.fsqrt (d : BitVec 5) (a : BitVec 5) (p : BitVec 1) (r : BitVec 3) : Coding.Statement (.fsqrt d a p r) := by
  intro _ hw
  refine decode_of_fields ((decodeFields_1C fmtFloat_26_6).trans ?_) hw
  simp only [decodeMajor1C, encode, fmtFloat_0_2, fmtFloat_2_3, fmtFloat_5_1, fmtFloat_6_5, fmtFloat_11_1, fmtFloat_11_5, fmtFloat_12_4, fmtFloat_16_5, fmtFloat_21_5, fmtFloat_26_6] <;> rfl
theorem Coding.fmin (d : BitVec 5) (a : BitVec 5) (b : BitVec 5) (p : BitVec 1) : Coding.Statement (.fmin d a b p) := by
  intro _ hw
  refine decode_of_fields ((decodeFields_1C fmtFloat_26_6).trans ?_) hw
  simp only [decodeMajor1C, encode, fmtFloat_0_2, fmtFloat_2_3, fmtFloat_5_1, fmtFloat_6_5, fmtFloat_11_1, fmtFloat_11_5, fmtFloat_12_4, fmtFloat_16_5, fmtFloat_21_5, fmtFloat_26_6] <;> rfl
theorem Coding.fmax (d : BitVec 5) (a : BitVec 5) (b : BitVec 5) (p : BitVec 1) : Coding.Statement (.fmax d a b p) := by
  intro _ hw
  refine decode_of_fields ((decodeFields_1C fmtFloat_26_6).trans ?_) hw
  simp only [decodeMajor1C, encode, fmtFloat_0_2, fmtFloat_2_3, fmtFloat_5_1, fmtFloat_6_5, fmtFloat_11_1, fmtFloat_11_5, fmtFloat_12_4, fmtFloat_16_5, fmtFloat_21_5, fmtFloat_26_6] <;> rfl
theorem Coding.fsgnC (d : BitVec 5) (a : BitVec 5) (b : BitVec 5) (p : BitVec 1) : Coding.Statement (.fsgnC d a b p) := by
  intro _ hw
  refine decode_of_fields ((decodeFields_1C fmtFloat_26_6).trans ?_) hw
  simp only [decodeMajor1C, encode, fmtFloat_0_2, fmtFloat_2_3, fmtFloat_5_1, fmtFloat_6_5, fmtFloat_11_1, fmtFloat_11_5, fmtFloat_12_4, fmtFloat_16_5, fmtFloat_21_5, fmtFloat_26_6] <;> rfl
theorem Coding.fsgnN (d : BitVec 5) (a : BitVec 5) (b : BitVec 5) (p : BitVec 1) : Coding.Statement (.fsgnN d a b p) := by
  intro _ hw
  refine decode_of_fields ((decodeFields_1C fmtFloat_26_6).trans ?_) hw
  simp only [decodeMajor1C, encode, fmtFloat_0_2, fmtFloat_2_3, fmtFloat_5_1, fmtFloat_6_5, fmtFloat_11_1, fmtFloat_11_5, fmtFloat_12_4, fmtFloat_16_5, fmtFloat_21_5, fmtFloat_26_6] <;> rfl
theorem Coding.fsgnX (d : BitVec 5) (a : BitVec 5) (b : BitVec 5) (p : BitVec 1) : Coding.Statement (.fsgnX d a b p) := by
  intro _ hw
  refine decode_of_fields ((decodeFields_1C fmtFloat_26_6).trans ?_) hw
  simp only [decodeMajor1C, encode, fmtFloat_0_2, fmtFloat_2_3, fmtFloat_5_1, fmtFloat_6_5, fmtFloat_11_1, fmtFloat_11_5, fmtFloat_12_4, fmtFloat_16_5, fmtFloat_21_5, fmtFloat_26_6] <;> rfl
theorem Coding.feq (d : BitVec 5) (a : BitVec 5) (b : BitVec 5) (p : BitVec 1) : Coding.Statement (.feq d a b p) := by
  intro _ hw
  refine decode_of_fields ((decodeFields_1C fmtFloat_26_6).trans ?_) hw
  simp only [decodeMajor1C, encode, fmtFloat_0_2, fmtFloat_2_3, fmtFloat_5_1, fmtFloat_6_5, fmtFloat_11_1, fmtFloat_11_5, fmtFloat_12_4, fmtFloat_16_5, fmtFloat_21_5, fmtFloat_26_6] <;> rfl
theorem Coding.flt (d : BitVec 5) (a : BitVec 5) (b : BitVec 5) (p : BitVec 1) : Coding.Statement (.flt d a b p) := by
  intro _ hw
  refine decode_of_fields ((decodeFields_1C fmtFloat_26_6).trans ?_) hw
  simp only [decodeMajor1C, encode, fmtFloat_0_2, fmtFloat_2_3, fmtFloat_5_1, fmtFloat_6_5, fmtFloat_11_1, fmtFloat_11_5, fmtFloat_12_4, fmtFloat_16_5, fmtFloat_21_5, fmtFloat_26_6] <;> rfl
theorem Coding.fle (d : BitVec 5) (a : BitVec 5) (b : BitVec 5) (p : BitVec 1) : Coding.Statement (.fle d a b p) := by
  intro _ hw
  refine decode_of_fields ((decodeFields_1C fmtFloat_26_6).trans ?_) hw
  simp only [decodeMajor1C, encode, fmtFloat_0_2, fmtFloat_2_3, fmtFloat_5_1, fmtFloat_6_5, fmtFloat_11_1, fmtFloat_11_5, fmtFloat_12_4, fmtFloat_16_5, fmtFloat_21_5, fmtFloat_26_6] <;> rfl
theorem Coding.fclass (d : BitVec 5) (a : BitVec 5) (p : BitVec 1) : Coding.Statement (.fclass d a p) := by
  intro _ hw
  refine decode_of_fields ((decodeFields_1C fmtFloat_26_6).trans ?_) hw
  simp only [decodeMajor1C, encode, fmtFloat_0_2, fmtFloat_2_3, fmtFloat_5_1, fmtFloat_6_5, fmtFloat_11_1, fmtFloat_11_5, fmtFloat_12_4, fmtFloat_16_5, fmtFloat_21_5, fmtFloat_26_6] <;> rfl
theorem Coding.fcvtFX (d : BitVec 5) (a : BitVec 5) (p : BitVec 1) (r : BitVec 3) : Coding.Statement (.fcvtFX d a p r) := by
  intro _ hw
  refine decode_of_fields ((decodeFields_1C fmtFloat_26_6).trans ?_) hw
  simp only [decodeMajor1C, encode, fmtFloat_0_2, fmtFloat_2_3, fmtFloat_5_1, fmtFloat_6_5, fmtFloat_11_1, fmtFloat_11_5, fmtFloat_12_4, fmtFloat_16_5, fmtFloat_21_5, fmtFloat_26_6] <;> rfl
theorem Coding.fcvtFXu (d : BitVec 5) (a : BitVec 5) (p : BitVec 1) (r : BitVec 3) : Coding.Statement (.fcvtFXu d a p r) := by
  intro _ hw
  refine decode_of_fields ((decodeFields_1C fmtFloat_26_6).trans ?_) hw
  simp only [decodeMajor1C, encode, fmtFloat_0_2, fmtFloat_2_3, fmtFloat_5_1, fmtFloat_6_5, fmtFloat_11_1, fmtFloat_11_5, fmtFloat_12_4, fmtFloat_16_5, fmtFloat_21_5, fmtFloat_26_6] <;> rfl
theorem Coding.fcvtXF (d : BitVec 5) (a : BitVec 5) (p : BitVec 1) (r : BitVec 3) : Coding.Statement (.fcvtXF d a p r) := by
  intro _ hw
  refine decode_of_fields ((decodeFields_1C fmtFloat_26_6).trans ?_) hw
  simp only [decodeMajor1C, encode, fmtFloat_0_2, fmtFloat_2_3, fmtFloat_5_1, fmtFloat_6_5, fmtFloat_11_1, fmtFloat_11_5, fmtFloat_12_4, fmtFloat_16_5, fmtFloat_21_5, fmtFloat_26_6] <;> rfl
theorem Coding.fcvtXuF (d : BitVec 5) (a : BitVec 5) (p : BitVec 1) (r : BitVec 3) : Coding.Statement (.fcvtXuF d a p r) := by
  intro _ hw
  refine decode_of_fields ((decodeFields_1C fmtFloat_26_6).trans ?_) hw
  simp only [decodeMajor1C, encode, fmtFloat_0_2, fmtFloat_2_3, fmtFloat_5_1, fmtFloat_6_5, fmtFloat_11_1, fmtFloat_11_5, fmtFloat_12_4, fmtFloat_16_5, fmtFloat_21_5, fmtFloat_26_6] <;> rfl
theorem Coding.fcvtFF (d : BitVec 5) (a : BitVec 5) (w : BitVec 1) (p : BitVec 1) (r : BitVec 3) : Coding.Statement (.fcvtFF d a w p r) := by
  intro _ hw
  refine decode_of_fields ((decodeFields_1C fmtFloat_26_6).trans ?_) hw
  simp (disch := decide) only [decodeMajor1C, encode, fmtFloat_0_2, fmtFloat_2_3, fmtFloat_5_1, fmtFloat_6_5, fmtFloat_11_1, fmtFloat_11_5, fmtFloat_12_4, fmtFloat_16_5, fmtFloat_21_5, fmtFloat_26_6, BitVec.extractLsb'_append_eq_of_add_le, BitVec.extractLsb'_append_eq_of_le, BitVec.extractLsb'_eq_self, Nat.sub_self] <;> rfl
theorem Coding.fmvXF (d : BitVec 5) (a : BitVec 5) (p : BitVec 1) : Coding.Statement (.fmvXF d a p) := by
  intro _ hw
  refine decode_of_fields ((decodeFields_1C fmtFloat_26_6).trans ?_) hw
  simp only [decodeMajor1C, encode, fmtFloat_0_2, fmtFloat_2_3, fmtFloat_5_1, fmtFloat_6_5, fmtFloat_11_1, fmtFloat_11_5, fmtFloat_12_4, fmtFloat_16_5, fmtFloat_21_5, fmtFloat_26_6] <;> rfl
theorem Coding.fmvFX (d : BitVec 5) (a : BitVec 5) (p : BitVec 1) : Coding.Statement (.fmvFX d a p) := by
  intro _ hw
  refine decode_of_fields ((decodeFields_1C fmtFloat_26_6).trans ?_) hw
  simp only [decodeMajor1C, encode, fmtFloat_0_2, fmtFloat_2_3, fmtFloat_5_1, fmtFloat_6_5, fmtFloat_11_1, fmtFloat_11_5, fmtFloat_12_4, fmtFloat_16_5, fmtFloat_21_5, fmtFloat_26_6] <;> rfl
theorem Coding.fma (d : BitVec 5) (a : BitVec 5) (b : BitVec 5) (p : BitVec 1) (r : BitVec 3) (c : BitVec 5) : Coding.Statement (.fma d a b p r c) := by
  intro _ hw
  refine decode_of_fields ((decodeFields_1D fmtFused_26_6).trans ?_) hw
  simp only [decodeMajor1D, encode, fmtFused_0_5, fmtFused_5_3, fmtFused_8_1, fmtFused_9_2, fmtFused_11_5, fmtFused_16_5, fmtFused_21_5, fmtFused_26_6] <;> rfl
theorem Coding.fms (d : BitVec 5) (a : BitVec 5) (b : BitVec 5) (p : BitVec 1) (r : BitVec 3) (c : BitVec 5) : Coding.Statement (.fms d a b p r c) := by
  intro _ hw
  refine decode_of_fields ((decodeFields_1D fmtFused_26_6).trans ?_) hw
  simp only [decodeMajor1D, encode, fmtFused_0_5, fmtFused_5_3, fmtFused_8_1, fmtFused_9_2, fmtFused_11_5, fmtFused_16_5, fmtFused_21_5, fmtFused_26_6] <;> rfl
theorem Coding.fnma (d : BitVec 5) (a : BitVec 5) (b : BitVec 5) (p : BitVec 1) (r : BitVec 3) (c : BitVec 5) : Coding.Statement (.fnma d a b p r c) := by
  intro _ hw
  refine decode_of_fields ((decodeFields_1D fmtFused_26_6).trans ?_) hw
  simp only [decodeMajor1D, encode, fmtFused_0_5, fmtFused_5_3, fmtFused_8_1, fmtFused_9_2, fmtFused_11_5, fmtFused_16_5, fmtFused_21_5, fmtFused_26_6] <;> rfl
theorem Coding.fnms (d : BitVec 5) (a : BitVec 5) (b : BitVec 5) (p : BitVec 1) (r : BitVec 3) (c : BitVec 5) : Coding.Statement (.fnms d a b p r c) := by
  intro _ hw
  refine decode_of_fields ((decodeFields_1D fmtFused_26_6).trans ?_) hw
  simp only [decodeMajor1D, encode, fmtFused_0_5, fmtFused_5_3, fmtFused_8_1, fmtFused_9_2, fmtFused_11_5, fmtFused_16_5, fmtFused_21_5, fmtFused_26_6] <;> rfl
theorem Coding.aadd (d : BitVec 5) (a : BitVec 5) (b : BitVec 5) (s : BitVec 2) (w : BitVec 1) : Coding.Statement (.aadd d a b s w) := by
  intro _ hw
  refine decode_of_fields ((decodeFields_1E fmtAtomic_26_6).trans ?_) hw
  simp only [decodeMajor1E, encode, fmtAtomic_0_4, fmtAtomic_4_1, fmtAtomic_5_2, fmtAtomic_7_4, fmtAtomic_11_5, fmtAtomic_16_5, fmtAtomic_21_5, fmtAtomic_26_6] <;> rfl
theorem Coding.aand (d : BitVec 5) (a : BitVec 5) (b : BitVec 5) (s : BitVec 2) (w : BitVec 1) : Coding.Statement (.aand d a b s w) := by
  intro _ hw
  refine decode_of_fields ((decodeFields_1E fmtAtomic_26_6).trans ?_) hw
  simp only [decodeMajor1E, encode, fmtAtomic_0_4, fmtAtomic_4_1, fmtAtomic_5_2, fmtAtomic_7_4, fmtAtomic_11_5, fmtAtomic_16_5, fmtAtomic_21_5, fmtAtomic_26_6] <;> rfl
theorem Coding.aor (d : BitVec 5) (a : BitVec 5) (b : BitVec 5) (s : BitVec 2) (w : BitVec 1) : Coding.Statement (.aor d a b s w) := by
  intro _ hw
  refine decode_of_fields ((decodeFields_1E fmtAtomic_26_6).trans ?_) hw
  simp only [decodeMajor1E, encode, fmtAtomic_0_4, fmtAtomic_4_1, fmtAtomic_5_2, fmtAtomic_7_4, fmtAtomic_11_5, fmtAtomic_16_5, fmtAtomic_21_5, fmtAtomic_26_6] <;> rfl
theorem Coding.axor (d : BitVec 5) (a : BitVec 5) (b : BitVec 5) (s : BitVec 2) (w : BitVec 1) : Coding.Statement (.axor d a b s w) := by
  intro _ hw
  refine decode_of_fields ((decodeFields_1E fmtAtomic_26_6).trans ?_) hw
  simp only [decodeMajor1E, encode, fmtAtomic_0_4, fmtAtomic_4_1, fmtAtomic_5_2, fmtAtomic_7_4, fmtAtomic_11_5, fmtAtomic_16_5, fmtAtomic_21_5, fmtAtomic_26_6] <;> rfl
theorem Coding.amin (d : BitVec 5) (a : BitVec 5) (b : BitVec 5) (s : BitVec 2) (w : BitVec 1) : Coding.Statement (.amin d a b s w) := by
  intro _ hw
  refine decode_of_fields ((decodeFields_1E fmtAtomic_26_6).trans ?_) hw
  simp only [decodeMajor1E, encode, fmtAtomic_0_4, fmtAtomic_4_1, fmtAtomic_5_2, fmtAtomic_7_4, fmtAtomic_11_5, fmtAtomic_16_5, fmtAtomic_21_5, fmtAtomic_26_6] <;> rfl
theorem Coding.amax (d : BitVec 5) (a : BitVec 5) (b : BitVec 5) (s : BitVec 2) (w : BitVec 1) : Coding.Statement (.amax d a b s w) := by
  intro _ hw
  refine decode_of_fields ((decodeFields_1E fmtAtomic_26_6).trans ?_) hw
  simp only [decodeMajor1E, encode, fmtAtomic_0_4, fmtAtomic_4_1, fmtAtomic_5_2, fmtAtomic_7_4, fmtAtomic_11_5, fmtAtomic_16_5, fmtAtomic_21_5, fmtAtomic_26_6] <;> rfl
theorem Coding.aminu (d : BitVec 5) (a : BitVec 5) (b : BitVec 5) (s : BitVec 2) (w : BitVec 1) : Coding.Statement (.aminu d a b s w) := by
  intro _ hw
  refine decode_of_fields ((decodeFields_1E fmtAtomic_26_6).trans ?_) hw
  simp only [decodeMajor1E, encode, fmtAtomic_0_4, fmtAtomic_4_1, fmtAtomic_5_2, fmtAtomic_7_4, fmtAtomic_11_5, fmtAtomic_16_5, fmtAtomic_21_5, fmtAtomic_26_6] <;> rfl
theorem Coding.amaxu (d : BitVec 5) (a : BitVec 5) (b : BitVec 5) (s : BitVec 2) (w : BitVec 1) : Coding.Statement (.amaxu d a b s w) := by
  intro _ hw
  refine decode_of_fields ((decodeFields_1E fmtAtomic_26_6).trans ?_) hw
  simp only [decodeMajor1E, encode, fmtAtomic_0_4, fmtAtomic_4_1, fmtAtomic_5_2, fmtAtomic_7_4, fmtAtomic_11_5, fmtAtomic_16_5, fmtAtomic_21_5, fmtAtomic_26_6] <;> rfl
theorem Coding.aswp (d : BitVec 5) (a : BitVec 5) (b : BitVec 5) (s : BitVec 2) (w : BitVec 1) : Coding.Statement (.aswp d a b s w) := by
  intro _ hw
  refine decode_of_fields ((decodeFields_1E fmtAtomic_26_6).trans ?_) hw
  simp only [decodeMajor1E, encode, fmtAtomic_0_4, fmtAtomic_4_1, fmtAtomic_5_2, fmtAtomic_7_4, fmtAtomic_11_5, fmtAtomic_16_5, fmtAtomic_21_5, fmtAtomic_26_6] <;> rfl
theorem Coding.acas (d : BitVec 5) (a : BitVec 5) (b : BitVec 5) (s : BitVec 2) (w : BitVec 1) : Coding.Statement (.acas d a b s w) := by
  intro _ hw
  refine decode_of_fields ((decodeFields_1E fmtAtomic_26_6).trans ?_) hw
  simp only [decodeMajor1E, encode, fmtAtomic_0_4, fmtAtomic_4_1, fmtAtomic_5_2, fmtAtomic_7_4, fmtAtomic_11_5, fmtAtomic_16_5, fmtAtomic_21_5, fmtAtomic_26_6] <;> rfl
theorem Coding.afadd (d : BitVec 5) (a : BitVec 5) (b : BitVec 5) (s : BitVec 2) (w : BitVec 1) : Coding.Statement (.afadd d a b s w) := by
  intro _ hw
  refine decode_of_fields ((decodeFields_1E fmtAtomic_26_6).trans ?_) hw
  simp only [decodeMajor1E, encode, fmtAtomic_0_4, fmtAtomic_4_1, fmtAtomic_5_2, fmtAtomic_7_4, fmtAtomic_11_5, fmtAtomic_16_5, fmtAtomic_21_5, fmtAtomic_26_6] <;> rfl
theorem Coding.acq (s : BitVec 2) (g : BitVec 4) : Coding.Statement (.acq s g) := by
  intro _ hw
  refine decode_of_fields ((decodeFields_1F fmtSync_26_6).trans ?_) hw
  simp only [decodeMajor1F, encode, fmtSync_0_4, fmtSync_4_2, fmtSync_6_5, fmtSync_11_5, fmtSync_16_5, fmtSync_21_5, fmtSync_26_6] <;> rfl
theorem Coding.rel (s : BitVec 2) (g : BitVec 4) : Coding.Statement (.rel s g) := by
  intro _ hw
  refine decode_of_fields ((decodeFields_1F fmtSync_26_6).trans ?_) hw
  simp only [decodeMajor1F, encode, fmtSync_0_4, fmtSync_4_2, fmtSync_6_5, fmtSync_11_5, fmtSync_16_5, fmtSync_21_5, fmtSync_26_6] <;> rfl
theorem Coding.fence (s : BitVec 2) (g : BitVec 4) : Coding.Statement (.fence s g) := by
  intro _ hw
  refine decode_of_fields ((decodeFields_1F fmtSync_26_6).trans ?_) hw
  simp only [decodeMajor1F, encode, fmtSync_0_4, fmtSync_4_2, fmtSync_6_5, fmtSync_11_5, fmtSync_16_5, fmtSync_21_5, fmtSync_26_6] <;> rfl
theorem Coding.own (a : BitVec 5) (s : BitVec 2) (g : BitVec 4) : Coding.Statement (.own a s g) := by
  intro _ hw
  refine decode_of_fields ((decodeFields_1F fmtSync_26_6).trans ?_) hw
  simp only [decodeMajor1F, encode, fmtSync_0_4, fmtSync_4_2, fmtSync_6_5, fmtSync_11_5, fmtSync_16_5, fmtSync_21_5, fmtSync_26_6] <;> rfl
theorem Coding.disown (a : BitVec 5) (s : BitVec 2) (g : BitVec 4) : Coding.Statement (.disown a s g) := by
  intro _ hw
  refine decode_of_fields ((decodeFields_1F fmtSync_26_6).trans ?_) hw
  simp only [decodeMajor1F, encode, fmtSync_0_4, fmtSync_4_2, fmtSync_6_5, fmtSync_11_5, fmtSync_16_5, fmtSync_21_5, fmtSync_26_6] <;> rfl
theorem Coding.qlock (d : BitVec 5) (a : BitVec 5) (s : BitVec 2) (g : BitVec 4) : Coding.Statement (.qlock d a s g) := by
  intro _ hw
  refine decode_of_fields ((decodeFields_1F fmtSync_26_6).trans ?_) hw
  simp only [decodeMajor1F, encode, fmtSync_0_4, fmtSync_4_2, fmtSync_6_5, fmtSync_11_5, fmtSync_16_5, fmtSync_21_5, fmtSync_26_6] <;> rfl
theorem Coding.qunlock (a : BitVec 5) (s : BitVec 2) (g : BitVec 4) : Coding.Statement (.qunlock a s g) := by
  intro _ hw
  refine decode_of_fields ((decodeFields_1F fmtSync_26_6).trans ?_) hw
  simp only [decodeMajor1F, encode, fmtSync_0_4, fmtSync_4_2, fmtSync_6_5, fmtSync_11_5, fmtSync_16_5, fmtSync_21_5, fmtSync_26_6] <;> rfl
theorem Coding.wait (d : BitVec 5) (a : BitVec 5) : Coding.Statement (.wait d a) := by
  intro _ hw
  refine decode_of_fields ((decodeFields_1F fmtSync_26_6).trans ?_) hw
  simp only [decodeMajor1F, encode, fmtSync_0_4, fmtSync_4_2, fmtSync_6_5, fmtSync_11_5, fmtSync_16_5, fmtSync_21_5, fmtSync_26_6] <;> rfl
theorem Coding.wake (a : BitVec 5) : Coding.Statement (.wake a) := by
  intro _ hw
  refine decode_of_fields ((decodeFields_1F fmtSync_26_6).trans ?_) hw
  simp only [decodeMajor1F, encode, fmtSync_0_4, fmtSync_4_2, fmtSync_6_5, fmtSync_11_5, fmtSync_16_5, fmtSync_21_5, fmtSync_26_6] <;> rfl
theorem Coding.crr (d : BitVec 5) (n : BitVec 16) : Coding.Statement (.crr d n) := by
  intro _ hw
  refine decode_of_fields ((decodeFields_20 fmtI_26_6).trans ?_) hw
  simp only [decodeMajor20, encode, fmtI_0_16, fmtI_16_5, fmtI_21_5, fmtI_26_6] <;> rfl
theorem Coding.crw (d : BitVec 5) (a : BitVec 5) (n : BitVec 16) : Coding.Statement (.crw d a n) := by
  intro _ hw
  refine decode_of_fields ((decodeFields_21 fmtI_26_6).trans ?_) hw
  simp only [decodeMajor21, encode, fmtI_0_16, fmtI_16_5, fmtI_21_5, fmtI_26_6] <;> rfl
theorem Coding.crs (d : BitVec 5) (a : BitVec 5) (n : BitVec 16) : Coding.Statement (.crs d a n) := by
  intro _ hw
  refine decode_of_fields ((decodeFields_22 fmtI_26_6).trans ?_) hw
  simp only [decodeMajor22, encode, fmtI_0_16, fmtI_16_5, fmtI_21_5, fmtI_26_6] <;> rfl
theorem Coding.crc (d : BitVec 5) (a : BitVec 5) (n : BitVec 16) : Coding.Statement (.crc d a n) := by
  intro _ hw
  refine decode_of_fields ((decodeFields_23 fmtI_26_6).trans ?_) hw
  simp only [decodeMajor23, encode, fmtI_0_16, fmtI_16_5, fmtI_21_5, fmtI_26_6] <;> rfl
theorem Coding.vcfg (d : BitVec 5) (a : BitVec 5) : Coding.Statement (.vcfg d a) := by
  intro _ hw
  refine decode_of_fields ((decodeFields_24 fmtR_26_6).trans ?_) hw
  simp only [decodeMajor24, encode, fmtR_0_11, fmtR_11_5, fmtR_16_5, fmtR_21_5, fmtR_26_6] <;> rfl
theorem Coding.vsetl (d : BitVec 5) (a : BitVec 5) : Coding.Statement (.vsetl d a) := by
  intro _ hw
  refine decode_of_fields ((decodeFields_24 fmtR_26_6).trans ?_) hw
  simp only [decodeMajor24, encode, fmtR_0_11, fmtR_11_5, fmtR_16_5, fmtR_21_5, fmtR_26_6] <;> rfl
theorem Coding.vsetrows (d : BitVec 5) (a : BitVec 5) : Coding.Statement (.vsetrows d a) := by
  intro _ hw
  refine decode_of_fields ((decodeFields_24 fmtR_26_6).trans ?_) hw
  simp only [decodeMajor24, encode, fmtR_0_11, fmtR_11_5, fmtR_16_5, fmtR_21_5, fmtR_26_6] <;> rfl
theorem Coding.vtag (d : BitVec 5) (a : BitVec 5) : Coding.Statement (.vtag d a) := by
  intro _ hw
  refine decode_of_fields ((decodeFields_24 fmtR_26_6).trans ?_) hw
  simp only [decodeMajor24, encode, fmtR_0_11, fmtR_11_5, fmtR_16_5, fmtR_21_5, fmtR_26_6] <;> rfl
theorem Coding.vsave (d : BitVec 5) (a : BitVec 5) : Coding.Statement (.vsave d a) := by
  intro _ hw
  refine decode_of_fields ((decodeFields_24 fmtR_26_6).trans ?_) hw
  simp only [decodeMajor24, encode, fmtR_0_11, fmtR_11_5, fmtR_16_5, fmtR_21_5, fmtR_26_6] <;> rfl
theorem Coding.vrest (d : BitVec 5) (a : BitVec 5) : Coding.Statement (.vrest d a) := by
  intro _ hw
  refine decode_of_fields ((decodeFields_24 fmtR_26_6).trans ?_) hw
  simp only [decodeMajor24, encode, fmtR_0_11, fmtR_11_5, fmtR_16_5, fmtR_21_5, fmtR_26_6] <;> rfl
theorem Coding.vld (d : BitVec 5) (a : BitVec 5) (n : BitVec 1) (o : BitVec 1) : Coding.Statement (.vld d a n o) := by
  intro _ hw
  refine decode_of_fields ((decodeFields_25 fmtV_26_6).trans ?_) hw
  simp (disch := decide) only [decodeMajor25, encode, fmtV_0_1, fmtV_0_3, fmtV_1_1, fmtV_1_2, fmtV_2_1, fmtV_3_8, fmtV_11_5, fmtV_16_5, fmtV_21_5, fmtV_26_6, BitVec.extractLsb'_append_eq_of_add_le, BitVec.extractLsb'_append_eq_of_le, BitVec.extractLsb'_eq_self, Nat.sub_self] <;> rfl
theorem Coding.vst (d : BitVec 5) (a : BitVec 5) (n : BitVec 1) (o : BitVec 1) : Coding.Statement (.vst d a n o) := by
  intro _ hw
  refine decode_of_fields ((decodeFields_25 fmtV_26_6).trans ?_) hw
  simp (disch := decide) only [decodeMajor25, encode, fmtV_0_1, fmtV_0_3, fmtV_1_1, fmtV_1_2, fmtV_2_1, fmtV_3_8, fmtV_11_5, fmtV_16_5, fmtV_21_5, fmtV_26_6, BitVec.extractLsb'_append_eq_of_add_le, BitVec.extractLsb'_append_eq_of_le, BitVec.extractLsb'_eq_self, Nat.sub_self] <;> rfl
theorem Coding.vldx (d : BitVec 5) (a : BitVec 5) (b : BitVec 5) (n : BitVec 1) (o : BitVec 1) : Coding.Statement (.vldx d a b n o) := by
  intro _ hw
  refine decode_of_fields ((decodeFields_25 fmtV_26_6).trans ?_) hw
  simp (disch := decide) only [decodeMajor25, encode, fmtV_0_1, fmtV_0_3, fmtV_1_1, fmtV_1_2, fmtV_2_1, fmtV_3_8, fmtV_11_5, fmtV_16_5, fmtV_21_5, fmtV_26_6, BitVec.extractLsb'_append_eq_of_add_le, BitVec.extractLsb'_append_eq_of_le, BitVec.extractLsb'_eq_self, Nat.sub_self] <;> rfl
theorem Coding.vstx (d : BitVec 5) (a : BitVec 5) (b : BitVec 5) (n : BitVec 1) (o : BitVec 1) : Coding.Statement (.vstx d a b n o) := by
  intro _ hw
  refine decode_of_fields ((decodeFields_25 fmtV_26_6).trans ?_) hw
  simp (disch := decide) only [decodeMajor25, encode, fmtV_0_1, fmtV_0_3, fmtV_1_1, fmtV_1_2, fmtV_2_1, fmtV_3_8, fmtV_11_5, fmtV_16_5, fmtV_21_5, fmtV_26_6, BitVec.extractLsb'_append_eq_of_add_le, BitVec.extractLsb'_append_eq_of_le, BitVec.extractLsb'_eq_self, Nat.sub_self] <;> rfl
theorem Coding.vldT (d : BitVec 5) (a : BitVec 5) (n : BitVec 1) (o : BitVec 1) : Coding.Statement (.vldT d a n o) := by
  intro _ hw
  refine decode_of_fields ((decodeFields_25 fmtV_26_6).trans ?_) hw
  simp (disch := decide) only [decodeMajor25, encode, fmtV_0_1, fmtV_0_3, fmtV_1_1, fmtV_1_2, fmtV_2_1, fmtV_3_8, fmtV_11_5, fmtV_16_5, fmtV_21_5, fmtV_26_6, BitVec.extractLsb'_append_eq_of_add_le, BitVec.extractLsb'_append_eq_of_le, BitVec.extractLsb'_eq_self, Nat.sub_self] <;> rfl
theorem Coding.vstN (d : BitVec 5) (a : BitVec 5) (b : BitVec 5) (n : BitVec 1) (o : BitVec 1) : Coding.Statement (.vstN d a b n o) := by
  intro _ hw
  refine decode_of_fields ((decodeFields_25 fmtV_26_6).trans ?_) hw
  simp (disch := decide) only [decodeMajor25, encode, fmtV_0_1, fmtV_0_3, fmtV_1_1, fmtV_1_2, fmtV_2_1, fmtV_3_8, fmtV_11_5, fmtV_16_5, fmtV_21_5, fmtV_26_6, BitVec.extractLsb'_append_eq_of_add_le, BitVec.extractLsb'_append_eq_of_le, BitVec.extractLsb'_eq_self, Nat.sub_self] <;> rfl
theorem Coding.vpush (a : BitVec 5) (b : BitVec 5) : Coding.Statement (.vpush a b) := by
  intro _ hw
  refine decode_of_fields ((decodeFields_25 fmtV_26_6).trans ?_) hw
  simp only [decodeMajor25, encode, fmtV_0_1, fmtV_0_3, fmtV_1_1, fmtV_1_2, fmtV_2_1, fmtV_3_8, fmtV_11_5, fmtV_16_5, fmtV_21_5, fmtV_26_6] <;> rfl
theorem Coding.vpushT (d : BitVec 5) (a : BitVec 5) (b : BitVec 5) : Coding.Statement (.vpushT d a b) := by
  intro _ hw
  refine decode_of_fields ((decodeFields_25 fmtV_26_6).trans ?_) hw
  simp only [decodeMajor25, encode, fmtV_0_1, fmtV_0_3, fmtV_1_1, fmtV_1_2, fmtV_2_1, fmtV_3_8, fmtV_11_5, fmtV_16_5, fmtV_21_5, fmtV_26_6] <;> rfl
theorem Coding.vadd (d : BitVec 5) (a : BitVec 5) (b : BitVec 5) (s : BitVec 1) (x : BitVec 1) : Coding.Statement (.vadd d a b s x) := by
  intro _ hw
  refine decode_of_fields ((decodeFields_26 fmtV_26_6).trans ?_) hw
  simp (disch := decide) only [decodeMajor26, encode, fmtV_0_1, fmtV_0_3, fmtV_1_1, fmtV_1_2, fmtV_2_1, fmtV_3_8, fmtV_11_5, fmtV_16_5, fmtV_21_5, fmtV_26_6, BitVec.extractLsb'_append_eq_of_add_le, BitVec.extractLsb'_append_eq_of_le, BitVec.extractLsb'_eq_self, Nat.sub_self] <;> rfl
theorem Coding.vsub (d : BitVec 5) (a : BitVec 5) (b : BitVec 5) (s : BitVec 1) (x : BitVec 1) : Coding.Statement (.vsub d a b s x) := by
  intro _ hw
  refine decode_of_fields ((decodeFields_26 fmtV_26_6).trans ?_) hw
  simp (disch := decide) only [decodeMajor26, encode, fmtV_0_1, fmtV_0_3, fmtV_1_1, fmtV_1_2, fmtV_2_1, fmtV_3_8, fmtV_11_5, fmtV_16_5, fmtV_21_5, fmtV_26_6, BitVec.extractLsb'_append_eq_of_add_le, BitVec.extractLsb'_append_eq_of_le, BitVec.extractLsb'_eq_self, Nat.sub_self] <;> rfl
theorem Coding.vmul (d : BitVec 5) (a : BitVec 5) (b : BitVec 5) (s : BitVec 1) (x : BitVec 1) : Coding.Statement (.vmul d a b s x) := by
  intro _ hw
  refine decode_of_fields ((decodeFields_26 fmtV_26_6).trans ?_) hw
  simp (disch := decide) only [decodeMajor26, encode, fmtV_0_1, fmtV_0_3, fmtV_1_1, fmtV_1_2, fmtV_2_1, fmtV_3_8, fmtV_11_5, fmtV_16_5, fmtV_21_5, fmtV_26_6, BitVec.extractLsb'_append_eq_of_add_le, BitVec.extractLsb'_append_eq_of_le, BitVec.extractLsb'_eq_self, Nat.sub_self] <;> rfl
theorem Coding.vfma (d : BitVec 5) (a : BitVec 5) (b : BitVec 5) (s : BitVec 1) (x : BitVec 1) : Coding.Statement (.vfma d a b s x) := by
  intro _ hw
  refine decode_of_fields ((decodeFields_26 fmtV_26_6).trans ?_) hw
  simp (disch := decide) only [decodeMajor26, encode, fmtV_0_1, fmtV_0_3, fmtV_1_1, fmtV_1_2, fmtV_2_1, fmtV_3_8, fmtV_11_5, fmtV_16_5, fmtV_21_5, fmtV_26_6, BitVec.extractLsb'_append_eq_of_add_le, BitVec.extractLsb'_append_eq_of_le, BitVec.extractLsb'_eq_self, Nat.sub_self] <;> rfl
theorem Coding.vfms (d : BitVec 5) (a : BitVec 5) (b : BitVec 5) (s : BitVec 1) (x : BitVec 1) : Coding.Statement (.vfms d a b s x) := by
  intro _ hw
  refine decode_of_fields ((decodeFields_26 fmtV_26_6).trans ?_) hw
  simp (disch := decide) only [decodeMajor26, encode, fmtV_0_1, fmtV_0_3, fmtV_1_1, fmtV_1_2, fmtV_2_1, fmtV_3_8, fmtV_11_5, fmtV_16_5, fmtV_21_5, fmtV_26_6, BitVec.extractLsb'_append_eq_of_add_le, BitVec.extractLsb'_append_eq_of_le, BitVec.extractLsb'_eq_self, Nat.sub_self] <;> rfl
theorem Coding.vdiv (d : BitVec 5) (a : BitVec 5) (b : BitVec 5) (s : BitVec 1) (x : BitVec 1) : Coding.Statement (.vdiv d a b s x) := by
  intro _ hw
  refine decode_of_fields ((decodeFields_26 fmtV_26_6).trans ?_) hw
  simp (disch := decide) only [decodeMajor26, encode, fmtV_0_1, fmtV_0_3, fmtV_1_1, fmtV_1_2, fmtV_2_1, fmtV_3_8, fmtV_11_5, fmtV_16_5, fmtV_21_5, fmtV_26_6, BitVec.extractLsb'_append_eq_of_add_le, BitVec.extractLsb'_append_eq_of_le, BitVec.extractLsb'_eq_self, Nat.sub_self] <;> rfl
theorem Coding.vsqrt (d : BitVec 5) (a : BitVec 5) (s : BitVec 1) : Coding.Statement (.vsqrt d a s) := by
  intro _ hw
  refine decode_of_fields ((decodeFields_26 fmtV_26_6).trans ?_) hw
  simp (disch := decide) only [decodeMajor26, encode, fmtV_0_1, fmtV_0_3, fmtV_1_1, fmtV_1_2, fmtV_2_1, fmtV_3_8, fmtV_11_5, fmtV_16_5, fmtV_21_5, fmtV_26_6, BitVec.extractLsb'_append_eq_of_add_le, BitVec.extractLsb'_append_eq_of_le, BitVec.extractLsb'_eq_self, Nat.sub_self] <;> rfl
theorem Coding.vmin (d : BitVec 5) (a : BitVec 5) (b : BitVec 5) (s : BitVec 1) (x : BitVec 1) : Coding.Statement (.vmin d a b s x) := by
  intro _ hw
  refine decode_of_fields ((decodeFields_26 fmtV_26_6).trans ?_) hw
  simp (disch := decide) only [decodeMajor26, encode, fmtV_0_1, fmtV_0_3, fmtV_1_1, fmtV_1_2, fmtV_2_1, fmtV_3_8, fmtV_11_5, fmtV_16_5, fmtV_21_5, fmtV_26_6, BitVec.extractLsb'_append_eq_of_add_le, BitVec.extractLsb'_append_eq_of_le, BitVec.extractLsb'_eq_self, Nat.sub_self] <;> rfl
theorem Coding.vmax (d : BitVec 5) (a : BitVec 5) (b : BitVec 5) (s : BitVec 1) (x : BitVec 1) : Coding.Statement (.vmax d a b s x) := by
  intro _ hw
  refine decode_of_fields ((decodeFields_26 fmtV_26_6).trans ?_) hw
  simp (disch := decide) only [decodeMajor26, encode, fmtV_0_1, fmtV_0_3, fmtV_1_1, fmtV_1_2, fmtV_2_1, fmtV_3_8, fmtV_11_5, fmtV_16_5, fmtV_21_5, fmtV_26_6, BitVec.extractLsb'_append_eq_of_add_le, BitVec.extractLsb'_append_eq_of_le, BitVec.extractLsb'_eq_self, Nat.sub_self] <;> rfl
theorem Coding.vabs (d : BitVec 5) (a : BitVec 5) (s : BitVec 1) : Coding.Statement (.vabs d a s) := by
  intro _ hw
  refine decode_of_fields ((decodeFields_26 fmtV_26_6).trans ?_) hw
  simp (disch := decide) only [decodeMajor26, encode, fmtV_0_1, fmtV_0_3, fmtV_1_1, fmtV_1_2, fmtV_2_1, fmtV_3_8, fmtV_11_5, fmtV_16_5, fmtV_21_5, fmtV_26_6, BitVec.extractLsb'_append_eq_of_add_le, BitVec.extractLsb'_append_eq_of_le, BitVec.extractLsb'_eq_self, Nat.sub_self] <;> rfl
theorem Coding.vneg (d : BitVec 5) (a : BitVec 5) (s : BitVec 1) : Coding.Statement (.vneg d a s) := by
  intro _ hw
  refine decode_of_fields ((decodeFields_26 fmtV_26_6).trans ?_) hw
  simp (disch := decide) only [decodeMajor26, encode, fmtV_0_1, fmtV_0_3, fmtV_1_1, fmtV_1_2, fmtV_2_1, fmtV_3_8, fmtV_11_5, fmtV_16_5, fmtV_21_5, fmtV_26_6, BitVec.extractLsb'_append_eq_of_add_le, BitVec.extractLsb'_append_eq_of_le, BitVec.extractLsb'_eq_self, Nat.sub_self] <;> rfl
theorem Coding.vand (d : BitVec 5) (a : BitVec 5) (b : BitVec 5) (s : BitVec 1) (x : BitVec 1) : Coding.Statement (.vand d a b s x) := by
  intro _ hw
  refine decode_of_fields ((decodeFields_26 fmtV_26_6).trans ?_) hw
  simp (disch := decide) only [decodeMajor26, encode, fmtV_0_1, fmtV_0_3, fmtV_1_1, fmtV_1_2, fmtV_2_1, fmtV_3_8, fmtV_11_5, fmtV_16_5, fmtV_21_5, fmtV_26_6, BitVec.extractLsb'_append_eq_of_add_le, BitVec.extractLsb'_append_eq_of_le, BitVec.extractLsb'_eq_self, Nat.sub_self] <;> rfl
theorem Coding.vor (d : BitVec 5) (a : BitVec 5) (b : BitVec 5) (s : BitVec 1) (x : BitVec 1) : Coding.Statement (.vor d a b s x) := by
  intro _ hw
  refine decode_of_fields ((decodeFields_26 fmtV_26_6).trans ?_) hw
  simp (disch := decide) only [decodeMajor26, encode, fmtV_0_1, fmtV_0_3, fmtV_1_1, fmtV_1_2, fmtV_2_1, fmtV_3_8, fmtV_11_5, fmtV_16_5, fmtV_21_5, fmtV_26_6, BitVec.extractLsb'_append_eq_of_add_le, BitVec.extractLsb'_append_eq_of_le, BitVec.extractLsb'_eq_self, Nat.sub_self] <;> rfl
theorem Coding.vxor (d : BitVec 5) (a : BitVec 5) (b : BitVec 5) (s : BitVec 1) (x : BitVec 1) : Coding.Statement (.vxor d a b s x) := by
  intro _ hw
  refine decode_of_fields ((decodeFields_26 fmtV_26_6).trans ?_) hw
  simp (disch := decide) only [decodeMajor26, encode, fmtV_0_1, fmtV_0_3, fmtV_1_1, fmtV_1_2, fmtV_2_1, fmtV_3_8, fmtV_11_5, fmtV_16_5, fmtV_21_5, fmtV_26_6, BitVec.extractLsb'_append_eq_of_add_le, BitVec.extractLsb'_append_eq_of_le, BitVec.extractLsb'_eq_self, Nat.sub_self] <;> rfl
theorem Coding.vshl (d : BitVec 5) (a : BitVec 5) (b : BitVec 5) (s : BitVec 1) (x : BitVec 1) : Coding.Statement (.vshl d a b s x) := by
  intro _ hw
  refine decode_of_fields ((decodeFields_26 fmtV_26_6).trans ?_) hw
  simp (disch := decide) only [decodeMajor26, encode, fmtV_0_1, fmtV_0_3, fmtV_1_1, fmtV_1_2, fmtV_2_1, fmtV_3_8, fmtV_11_5, fmtV_16_5, fmtV_21_5, fmtV_26_6, BitVec.extractLsb'_append_eq_of_add_le, BitVec.extractLsb'_append_eq_of_le, BitVec.extractLsb'_eq_self, Nat.sub_self] <;> rfl
theorem Coding.vshr (d : BitVec 5) (a : BitVec 5) (b : BitVec 5) (s : BitVec 1) (x : BitVec 1) : Coding.Statement (.vshr d a b s x) := by
  intro _ hw
  refine decode_of_fields ((decodeFields_26 fmtV_26_6).trans ?_) hw
  simp (disch := decide) only [decodeMajor26, encode, fmtV_0_1, fmtV_0_3, fmtV_1_1, fmtV_1_2, fmtV_2_1, fmtV_3_8, fmtV_11_5, fmtV_16_5, fmtV_21_5, fmtV_26_6, BitVec.extractLsb'_append_eq_of_add_le, BitVec.extractLsb'_append_eq_of_le, BitVec.extractLsb'_eq_self, Nat.sub_self] <;> rfl
theorem Coding.vmulh (d : BitVec 5) (a : BitVec 5) (b : BitVec 5) (s : BitVec 1) (x : BitVec 1) : Coding.Statement (.vmulh d a b s x) := by
  intro _ hw
  refine decode_of_fields ((decodeFields_26 fmtV_26_6).trans ?_) hw
  simp (disch := decide) only [decodeMajor26, encode, fmtV_0_1, fmtV_0_3, fmtV_1_1, fmtV_1_2, fmtV_2_1, fmtV_3_8, fmtV_11_5, fmtV_16_5, fmtV_21_5, fmtV_26_6, BitVec.extractLsb'_append_eq_of_add_le, BitVec.extractLsb'_append_eq_of_le, BitVec.extractLsb'_eq_self, Nat.sub_self] <;> rfl
theorem Coding.vsel (d : BitVec 5) (a : BitVec 5) (b : BitVec 5) (s : BitVec 1) (x : BitVec 1) : Coding.Statement (.vsel d a b s x) := by
  intro _ hw
  refine decode_of_fields ((decodeFields_26 fmtV_26_6).trans ?_) hw
  simp (disch := decide) only [decodeMajor26, encode, fmtV_0_1, fmtV_0_3, fmtV_1_1, fmtV_1_2, fmtV_2_1, fmtV_3_8, fmtV_11_5, fmtV_16_5, fmtV_21_5, fmtV_26_6, BitVec.extractLsb'_append_eq_of_add_le, BitVec.extractLsb'_append_eq_of_le, BitVec.extractLsb'_eq_self, Nat.sub_self] <;> rfl
theorem Coding.vcmpEq (d : BitVec 5) (a : BitVec 5) (b : BitVec 5) (x : BitVec 1) : Coding.Statement (.vcmpEq d a b x) := by
  intro _ hw
  refine decode_of_fields ((decodeFields_27 fmtV_26_6).trans ?_) hw
  simp (disch := decide) only [decodeMajor27, encode, fmtV_0_1, fmtV_0_3, fmtV_1_1, fmtV_1_2, fmtV_2_1, fmtV_3_8, fmtV_11_5, fmtV_16_5, fmtV_21_5, fmtV_26_6, BitVec.extractLsb'_append_eq_of_add_le, BitVec.extractLsb'_append_eq_of_le, BitVec.extractLsb'_eq_self, Nat.sub_self] <;> rfl
theorem Coding.vcmpNe (d : BitVec 5) (a : BitVec 5) (b : BitVec 5) (x : BitVec 1) : Coding.Statement (.vcmpNe d a b x) := by
  intro _ hw
  refine decode_of_fields ((decodeFields_27 fmtV_26_6).trans ?_) hw
  simp (disch := decide) only [decodeMajor27, encode, fmtV_0_1, fmtV_0_3, fmtV_1_1, fmtV_1_2, fmtV_2_1, fmtV_3_8, fmtV_11_5, fmtV_16_5, fmtV_21_5, fmtV_26_6, BitVec.extractLsb'_append_eq_of_add_le, BitVec.extractLsb'_append_eq_of_le, BitVec.extractLsb'_eq_self, Nat.sub_self] <;> rfl
theorem Coding.vcmpLt (d : BitVec 5) (a : BitVec 5) (b : BitVec 5) (x : BitVec 1) : Coding.Statement (.vcmpLt d a b x) := by
  intro _ hw
  refine decode_of_fields ((decodeFields_27 fmtV_26_6).trans ?_) hw
  simp (disch := decide) only [decodeMajor27, encode, fmtV_0_1, fmtV_0_3, fmtV_1_1, fmtV_1_2, fmtV_2_1, fmtV_3_8, fmtV_11_5, fmtV_16_5, fmtV_21_5, fmtV_26_6, BitVec.extractLsb'_append_eq_of_add_le, BitVec.extractLsb'_append_eq_of_le, BitVec.extractLsb'_eq_self, Nat.sub_self] <;> rfl
theorem Coding.vcmpLe (d : BitVec 5) (a : BitVec 5) (b : BitVec 5) (x : BitVec 1) : Coding.Statement (.vcmpLe d a b x) := by
  intro _ hw
  refine decode_of_fields ((decodeFields_27 fmtV_26_6).trans ?_) hw
  simp (disch := decide) only [decodeMajor27, encode, fmtV_0_1, fmtV_0_3, fmtV_1_1, fmtV_1_2, fmtV_2_1, fmtV_3_8, fmtV_11_5, fmtV_16_5, fmtV_21_5, fmtV_26_6, BitVec.extractLsb'_append_eq_of_add_le, BitVec.extractLsb'_append_eq_of_le, BitVec.extractLsb'_eq_self, Nat.sub_self] <;> rfl
theorem Coding.vcmpGt (d : BitVec 5) (a : BitVec 5) (b : BitVec 5) (x : BitVec 1) : Coding.Statement (.vcmpGt d a b x) := by
  intro _ hw
  refine decode_of_fields ((decodeFields_27 fmtV_26_6).trans ?_) hw
  simp (disch := decide) only [decodeMajor27, encode, fmtV_0_1, fmtV_0_3, fmtV_1_1, fmtV_1_2, fmtV_2_1, fmtV_3_8, fmtV_11_5, fmtV_16_5, fmtV_21_5, fmtV_26_6, BitVec.extractLsb'_append_eq_of_add_le, BitVec.extractLsb'_append_eq_of_le, BitVec.extractLsb'_eq_self, Nat.sub_self] <;> rfl
theorem Coding.vcmpGe (d : BitVec 5) (a : BitVec 5) (b : BitVec 5) (x : BitVec 1) : Coding.Statement (.vcmpGe d a b x) := by
  intro _ hw
  refine decode_of_fields ((decodeFields_27 fmtV_26_6).trans ?_) hw
  simp (disch := decide) only [decodeMajor27, encode, fmtV_0_1, fmtV_0_3, fmtV_1_1, fmtV_1_2, fmtV_2_1, fmtV_3_8, fmtV_11_5, fmtV_16_5, fmtV_21_5, fmtV_26_6, BitVec.extractLsb'_append_eq_of_add_le, BitVec.extractLsb'_append_eq_of_le, BitVec.extractLsb'_eq_self, Nat.sub_self] <;> rfl
theorem Coding.vcmpUn (d : BitVec 5) (a : BitVec 5) (b : BitVec 5) (x : BitVec 1) : Coding.Statement (.vcmpUn d a b x) := by
  intro _ hw
  refine decode_of_fields ((decodeFields_27 fmtV_26_6).trans ?_) hw
  simp (disch := decide) only [decodeMajor27, encode, fmtV_0_1, fmtV_0_3, fmtV_1_1, fmtV_1_2, fmtV_2_1, fmtV_3_8, fmtV_11_5, fmtV_16_5, fmtV_21_5, fmtV_26_6, BitVec.extractLsb'_append_eq_of_add_le, BitVec.extractLsb'_append_eq_of_le, BitVec.extractLsb'_eq_self, Nat.sub_self] <;> rfl
theorem Coding.vrcp (d : BitVec 5) (a : BitVec 5) : Coding.Statement (.vrcp d a) := by
  intro _ hw
  refine decode_of_fields ((decodeFields_28 fmtV_26_6).trans ?_) hw
  simp only [decodeMajor28, encode, fmtV_0_1, fmtV_0_3, fmtV_1_1, fmtV_1_2, fmtV_2_1, fmtV_3_8, fmtV_11_5, fmtV_16_5, fmtV_21_5, fmtV_26_6] <;> rfl
theorem Coding.vrsqrt (d : BitVec 5) (a : BitVec 5) : Coding.Statement (.vrsqrt d a) := by
  intro _ hw
  refine decode_of_fields ((decodeFields_28 fmtV_26_6).trans ?_) hw
  simp only [decodeMajor28, encode, fmtV_0_1, fmtV_0_3, fmtV_1_1, fmtV_1_2, fmtV_2_1, fmtV_3_8, fmtV_11_5, fmtV_16_5, fmtV_21_5, fmtV_26_6] <;> rfl
theorem Coding.vexp2 (d : BitVec 5) (a : BitVec 5) : Coding.Statement (.vexp2 d a) := by
  intro _ hw
  refine decode_of_fields ((decodeFields_28 fmtV_26_6).trans ?_) hw
  simp only [decodeMajor28, encode, fmtV_0_1, fmtV_0_3, fmtV_1_1, fmtV_1_2, fmtV_2_1, fmtV_3_8, fmtV_11_5, fmtV_16_5, fmtV_21_5, fmtV_26_6] <;> rfl
theorem Coding.vlog2 (d : BitVec 5) (a : BitVec 5) : Coding.Statement (.vlog2 d a) := by
  intro _ hw
  refine decode_of_fields ((decodeFields_28 fmtV_26_6).trans ?_) hw
  simp only [decodeMajor28, encode, fmtV_0_1, fmtV_0_3, fmtV_1_1, fmtV_1_2, fmtV_2_1, fmtV_3_8, fmtV_11_5, fmtV_16_5, fmtV_21_5, fmtV_26_6] <;> rfl
theorem Coding.vtanh (d : BitVec 5) (a : BitVec 5) : Coding.Statement (.vtanh d a) := by
  intro _ hw
  refine decode_of_fields ((decodeFields_28 fmtV_26_6).trans ?_) hw
  simp only [decodeMajor28, encode, fmtV_0_1, fmtV_0_3, fmtV_1_1, fmtV_1_2, fmtV_2_1, fmtV_3_8, fmtV_11_5, fmtV_16_5, fmtV_21_5, fmtV_26_6] <;> rfl
theorem Coding.vslup (d : BitVec 5) (a : BitVec 5) (b : BitVec 5) (l : BitVec 3) : Coding.Statement (.vslup d a b l) := by
  intro _ hw
  refine decode_of_fields ((decodeFields_29 fmtV_26_6).trans ?_) hw
  simp only [decodeMajor29, encode, fmtV_0_1, fmtV_0_3, fmtV_1_1, fmtV_1_2, fmtV_2_1, fmtV_3_8, fmtV_11_5, fmtV_16_5, fmtV_21_5, fmtV_26_6] <;> rfl
theorem Coding.vsldn (d : BitVec 5) (a : BitVec 5) (b : BitVec 5) (l : BitVec 3) : Coding.Statement (.vsldn d a b l) := by
  intro _ hw
  refine decode_of_fields ((decodeFields_29 fmtV_26_6).trans ?_) hw
  simp only [decodeMajor29, encode, fmtV_0_1, fmtV_0_3, fmtV_1_1, fmtV_1_2, fmtV_2_1, fmtV_3_8, fmtV_11_5, fmtV_16_5, fmtV_21_5, fmtV_26_6] <;> rfl
theorem Coding.vperm (d : BitVec 5) (a : BitVec 5) (b : BitVec 5) : Coding.Statement (.vperm d a b) := by
  intro _ hw
  refine decode_of_fields ((decodeFields_29 fmtV_26_6).trans ?_) hw
  simp only [decodeMajor29, encode, fmtV_0_1, fmtV_0_3, fmtV_1_1, fmtV_1_2, fmtV_2_1, fmtV_3_8, fmtV_11_5, fmtV_16_5, fmtV_21_5, fmtV_26_6] <;> rfl
theorem Coding.vcomp (d : BitVec 5) (a : BitVec 5) : Coding.Statement (.vcomp d a) := by
  intro _ hw
  refine decode_of_fields ((decodeFields_29 fmtV_26_6).trans ?_) hw
  simp only [decodeMajor29, encode, fmtV_0_1, fmtV_0_3, fmtV_1_1, fmtV_1_2, fmtV_2_1, fmtV_3_8, fmtV_11_5, fmtV_16_5, fmtV_21_5, fmtV_26_6] <;> rfl
theorem Coding.vbcast (d : BitVec 5) (b : BitVec 5) : Coding.Statement (.vbcast d b) := by
  intro _ hw
  refine decode_of_fields ((decodeFields_29 fmtV_26_6).trans ?_) hw
  simp only [decodeMajor29, encode, fmtV_0_1, fmtV_0_3, fmtV_1_1, fmtV_1_2, fmtV_2_1, fmtV_3_8, fmtV_11_5, fmtV_16_5, fmtV_21_5, fmtV_26_6] <;> rfl
theorem Coding.vext (d : BitVec 5) (a : BitVec 5) (b : BitVec 5) : Coding.Statement (.vext d a b) := by
  intro _ hw
  refine decode_of_fields ((decodeFields_29 fmtV_26_6).trans ?_) hw
  simp only [decodeMajor29, encode, fmtV_0_1, fmtV_0_3, fmtV_1_1, fmtV_1_2, fmtV_2_1, fmtV_3_8, fmtV_11_5, fmtV_16_5, fmtV_21_5, fmtV_26_6] <;> rfl
theorem Coding.vins (d : BitVec 5) (a : BitVec 5) (b : BitVec 5) : Coding.Statement (.vins d a b) := by
  intro _ hw
  refine decode_of_fields ((decodeFields_29 fmtV_26_6).trans ?_) hw
  simp only [decodeMajor29, encode, fmtV_0_1, fmtV_0_3, fmtV_1_1, fmtV_1_2, fmtV_2_1, fmtV_3_8, fmtV_11_5, fmtV_16_5, fmtV_21_5, fmtV_26_6] <;> rfl
theorem Coding.vcvt (d : BitVec 5) (a : BitVec 5) (s : BitVec 1) : Coding.Statement (.vcvt d a s) := by
  intro _ hw
  refine decode_of_fields ((decodeFields_29 fmtV_26_6).trans ?_) hw
  simp (disch := decide) only [decodeMajor29, encode, fmtV_0_1, fmtV_0_3, fmtV_1_1, fmtV_1_2, fmtV_2_1, fmtV_3_8, fmtV_11_5, fmtV_16_5, fmtV_21_5, fmtV_26_6, BitVec.extractLsb'_append_eq_of_add_le, BitVec.extractLsb'_append_eq_of_le, BitVec.extractLsb'_eq_self, Nat.sub_self] <;> rfl
theorem Coding.vredSum (d : BitVec 5) (a : BitVec 5) : Coding.Statement (.vredSum d a) := by
  intro _ hw
  refine decode_of_fields ((decodeFields_2A fmtV_26_6).trans ?_) hw
  simp only [decodeMajor2A, encode, fmtV_0_1, fmtV_0_3, fmtV_1_1, fmtV_1_2, fmtV_2_1, fmtV_3_8, fmtV_11_5, fmtV_16_5, fmtV_21_5, fmtV_26_6] <;> rfl
theorem Coding.vredMin (d : BitVec 5) (a : BitVec 5) : Coding.Statement (.vredMin d a) := by
  intro _ hw
  refine decode_of_fields ((decodeFields_2A fmtV_26_6).trans ?_) hw
  simp only [decodeMajor2A, encode, fmtV_0_1, fmtV_0_3, fmtV_1_1, fmtV_1_2, fmtV_2_1, fmtV_3_8, fmtV_11_5, fmtV_16_5, fmtV_21_5, fmtV_26_6] <;> rfl
theorem Coding.vredMax (d : BitVec 5) (a : BitVec 5) : Coding.Statement (.vredMax d a) := by
  intro _ hw
  refine decode_of_fields ((decodeFields_2A fmtV_26_6).trans ?_) hw
  simp only [decodeMajor2A, encode, fmtV_0_1, fmtV_0_3, fmtV_1_1, fmtV_1_2, fmtV_2_1, fmtV_3_8, fmtV_11_5, fmtV_16_5, fmtV_21_5, fmtV_26_6] <;> rfl
theorem Coding.vredAnd (d : BitVec 5) (a : BitVec 5) : Coding.Statement (.vredAnd d a) := by
  intro _ hw
  refine decode_of_fields ((decodeFields_2A fmtV_26_6).trans ?_) hw
  simp only [decodeMajor2A, encode, fmtV_0_1, fmtV_0_3, fmtV_1_1, fmtV_1_2, fmtV_2_1, fmtV_3_8, fmtV_11_5, fmtV_16_5, fmtV_21_5, fmtV_26_6] <;> rfl
theorem Coding.vredOr (d : BitVec 5) (a : BitVec 5) : Coding.Statement (.vredOr d a) := by
  intro _ hw
  refine decode_of_fields ((decodeFields_2A fmtV_26_6).trans ?_) hw
  simp only [decodeMajor2A, encode, fmtV_0_1, fmtV_0_3, fmtV_1_1, fmtV_1_2, fmtV_2_1, fmtV_3_8, fmtV_11_5, fmtV_16_5, fmtV_21_5, fmtV_26_6] <;> rfl
theorem Coding.vscanSum (d : BitVec 5) (a : BitVec 5) : Coding.Statement (.vscanSum d a) := by
  intro _ hw
  refine decode_of_fields ((decodeFields_2A fmtV_26_6).trans ?_) hw
  simp only [decodeMajor2A, encode, fmtV_0_1, fmtV_0_3, fmtV_1_1, fmtV_1_2, fmtV_2_1, fmtV_3_8, fmtV_11_5, fmtV_16_5, fmtV_21_5, fmtV_26_6] <;> rfl
theorem Coding.vscanMin (d : BitVec 5) (a : BitVec 5) : Coding.Statement (.vscanMin d a) := by
  intro _ hw
  refine decode_of_fields ((decodeFields_2A fmtV_26_6).trans ?_) hw
  simp only [decodeMajor2A, encode, fmtV_0_1, fmtV_0_3, fmtV_1_1, fmtV_1_2, fmtV_2_1, fmtV_3_8, fmtV_11_5, fmtV_16_5, fmtV_21_5, fmtV_26_6] <;> rfl
theorem Coding.vscanMax (d : BitVec 5) (a : BitVec 5) : Coding.Statement (.vscanMax d a) := by
  intro _ hw
  refine decode_of_fields ((decodeFields_2A fmtV_26_6).trans ?_) hw
  simp only [decodeMajor2A, encode, fmtV_0_1, fmtV_0_3, fmtV_1_1, fmtV_1_2, fmtV_2_1, fmtV_3_8, fmtV_11_5, fmtV_16_5, fmtV_21_5, fmtV_26_6] <;> rfl
theorem Coding.vdot (d : BitVec 5) (a : BitVec 5) (b : BitVec 5) : Coding.Statement (.vdot d a b) := by
  intro _ hw
  refine decode_of_fields ((decodeFields_2A fmtV_26_6).trans ?_) hw
  simp only [decodeMajor2A, encode, fmtV_0_1, fmtV_0_3, fmtV_1_1, fmtV_1_2, fmtV_2_1, fmtV_3_8, fmtV_11_5, fmtV_16_5, fmtV_21_5, fmtV_26_6] <;> rfl
theorem Coding.vbsl (d : BitVec 5) (a : BitVec 5) (b : BitVec 5) : Coding.Statement (.vbsl d a b) := by
  intro _ hw
  refine decode_of_fields ((decodeFields_2B fmtV_26_6).trans ?_) hw
  simp only [decodeMajor2B, encode, fmtV_0_1, fmtV_0_3, fmtV_1_1, fmtV_1_2, fmtV_2_1, fmtV_3_8, fmtV_11_5, fmtV_16_5, fmtV_21_5, fmtV_26_6] <;> rfl
theorem Coding.vbsr (d : BitVec 5) (a : BitVec 5) (b : BitVec 5) : Coding.Statement (.vbsr d a b) := by
  intro _ hw
  refine decode_of_fields ((decodeFields_2B fmtV_26_6).trans ?_) hw
  simp only [decodeMajor2B, encode, fmtV_0_1, fmtV_0_3, fmtV_1_1, fmtV_1_2, fmtV_2_1, fmtV_3_8, fmtV_11_5, fmtV_16_5, fmtV_21_5, fmtV_26_6] <;> rfl
theorem Coding.vbfun (d : BitVec 5) (a : BitVec 5) (b : BitVec 5) : Coding.Statement (.vbfun d a b) := by
  intro _ hw
  refine decode_of_fields ((decodeFields_2B fmtV_26_6).trans ?_) hw
  simp only [decodeMajor2B, encode, fmtV_0_1, fmtV_0_3, fmtV_1_1, fmtV_1_2, fmtV_2_1, fmtV_3_8, fmtV_11_5, fmtV_16_5, fmtV_21_5, fmtV_26_6] <;> rfl
theorem Coding.vbpopc (d : BitVec 5) (a : BitVec 5) : Coding.Statement (.vbpopc d a) := by
  intro _ hw
  refine decode_of_fields ((decodeFields_2B fmtV_26_6).trans ?_) hw
  simp only [decodeMajor2B, encode, fmtV_0_1, fmtV_0_3, fmtV_1_1, fmtV_1_2, fmtV_2_1, fmtV_3_8, fmtV_11_5, fmtV_16_5, fmtV_21_5, fmtV_26_6] <;> rfl
theorem Coding.pand (d : BitVec 5) (a : BitVec 5) (b : BitVec 5) : Coding.Statement (.pand d a b) := by
  intro _ hw
  refine decode_of_fields ((decodeFields_2C fmtV_26_6).trans ?_) hw
  simp only [decodeMajor2C, encode, fmtV_0_1, fmtV_0_3, fmtV_1_1, fmtV_1_2, fmtV_2_1, fmtV_3_8, fmtV_11_5, fmtV_16_5, fmtV_21_5, fmtV_26_6] <;> rfl
theorem Coding.por (d : BitVec 5) (a : BitVec 5) (b : BitVec 5) : Coding.Statement (.por d a b) := by
  intro _ hw
  refine decode_of_fields ((decodeFields_2C fmtV_26_6).trans ?_) hw
  simp only [decodeMajor2C, encode, fmtV_0_1, fmtV_0_3, fmtV_1_1, fmtV_1_2, fmtV_2_1, fmtV_3_8, fmtV_11_5, fmtV_16_5, fmtV_21_5, fmtV_26_6] <;> rfl
theorem Coding.pxor (d : BitVec 5) (a : BitVec 5) (b : BitVec 5) : Coding.Statement (.pxor d a b) := by
  intro _ hw
  refine decode_of_fields ((decodeFields_2C fmtV_26_6).trans ?_) hw
  simp only [decodeMajor2C, encode, fmtV_0_1, fmtV_0_3, fmtV_1_1, fmtV_1_2, fmtV_2_1, fmtV_3_8, fmtV_11_5, fmtV_16_5, fmtV_21_5, fmtV_26_6] <;> rfl
theorem Coding.pandn (d : BitVec 5) (a : BitVec 5) (b : BitVec 5) : Coding.Statement (.pandn d a b) := by
  intro _ hw
  refine decode_of_fields ((decodeFields_2C fmtV_26_6).trans ?_) hw
  simp only [decodeMajor2C, encode, fmtV_0_1, fmtV_0_3, fmtV_1_1, fmtV_1_2, fmtV_2_1, fmtV_3_8, fmtV_11_5, fmtV_16_5, fmtV_21_5, fmtV_26_6] <;> rfl
theorem Coding.pnot (d : BitVec 5) (a : BitVec 5) : Coding.Statement (.pnot d a) := by
  intro _ hw
  refine decode_of_fields ((decodeFields_2C fmtV_26_6).trans ?_) hw
  simp only [decodeMajor2C, encode, fmtV_0_1, fmtV_0_3, fmtV_1_1, fmtV_1_2, fmtV_2_1, fmtV_3_8, fmtV_11_5, fmtV_16_5, fmtV_21_5, fmtV_26_6] <;> rfl
theorem Coding.pset (d : BitVec 5) (a : BitVec 5) : Coding.Statement (.pset d a) := by
  intro _ hw
  refine decode_of_fields ((decodeFields_2C fmtV_26_6).trans ?_) hw
  simp only [decodeMajor2C, encode, fmtV_0_1, fmtV_0_3, fmtV_1_1, fmtV_1_2, fmtV_2_1, fmtV_3_8, fmtV_11_5, fmtV_16_5, fmtV_21_5, fmtV_26_6] <;> rfl
theorem Coding.pfirst (d : BitVec 5) (a : BitVec 5) : Coding.Statement (.pfirst d a) := by
  intro _ hw
  refine decode_of_fields ((decodeFields_2C fmtV_26_6).trans ?_) hw
  simp only [decodeMajor2C, encode, fmtV_0_1, fmtV_0_3, fmtV_1_1, fmtV_1_2, fmtV_2_1, fmtV_3_8, fmtV_11_5, fmtV_16_5, fmtV_21_5, fmtV_26_6] <;> rfl
theorem Coding.pcnt (d : BitVec 5) (a : BitVec 5) : Coding.Statement (.pcnt d a) := by
  intro _ hw
  refine decode_of_fields ((decodeFields_2C fmtV_26_6).trans ?_) hw
  simp only [decodeMajor2C, encode, fmtV_0_1, fmtV_0_3, fmtV_1_1, fmtV_1_2, fmtV_2_1, fmtV_3_8, fmtV_11_5, fmtV_16_5, fmtV_21_5, fmtV_26_6] <;> rfl
theorem Coding.pmv (d : BitVec 5) (a : BitVec 5) : Coding.Statement (.pmv d a) := by
  intro _ hw
  refine decode_of_fields ((decodeFields_2C fmtV_26_6).trans ?_) hw
  simp only [decodeMajor2C, encode, fmtV_0_1, fmtV_0_3, fmtV_1_1, fmtV_1_2, fmtV_2_1, fmtV_3_8, fmtV_11_5, fmtV_16_5, fmtV_21_5, fmtV_26_6] <;> rfl
theorem Coding.tld (d : BitVec 5) (a : BitVec 5) : Coding.Statement (.tld d a) := by
  intro _ hw
  refine decode_of_fields ((decodeFields_2E fmtR_26_6).trans ?_) hw
  simp only [decodeMajor2E, encode, fmtR_0_11, fmtR_11_5, fmtR_16_5, fmtR_21_5, fmtR_26_6] <;> rfl
theorem Coding.tst (d : BitVec 5) (a : BitVec 5) : Coding.Statement (.tst d a) := by
  intro _ hw
  refine decode_of_fields ((decodeFields_2E fmtR_26_6).trans ?_) hw
  simp only [decodeMajor2E, encode, fmtR_0_11, fmtR_11_5, fmtR_16_5, fmtR_21_5, fmtR_26_6] <;> rfl
theorem Coding.mop (d : BitVec 5) (a : BitVec 5) (b : BitVec 5) : Coding.Statement (.mop d a b) := by
  intro _ hw
  refine decode_of_fields ((decodeFields_2E fmtR_26_6).trans ?_) hw
  simp only [decodeMajor2E, encode, fmtR_0_11, fmtR_11_5, fmtR_16_5, fmtR_21_5, fmtR_26_6] <;> rfl
theorem Coding.mops (d : BitVec 5) (a : BitVec 5) (b : BitVec 5) : Coding.Statement (.mops d a b) := by
  intro _ hw
  refine decode_of_fields ((decodeFields_2E fmtR_26_6).trans ?_) hw
  simp only [decodeMajor2E, encode, fmtR_0_11, fmtR_11_5, fmtR_16_5, fmtR_21_5, fmtR_26_6] <;> rfl
theorem Coding.mopM (d : BitVec 5) (a : BitVec 5) (b : BitVec 5) : Coding.Statement (.mopM d a b) := by
  intro _ hw
  refine decode_of_fields ((decodeFields_2E fmtR_26_6).trans ?_) hw
  simp only [decodeMajor2E, encode, fmtR_0_11, fmtR_11_5, fmtR_16_5, fmtR_21_5, fmtR_26_6] <;> rfl
theorem Coding.mclr (d : BitVec 5) : Coding.Statement (.mclr d) := by
  intro _ hw
  refine decode_of_fields ((decodeFields_2E fmtR_26_6).trans ?_) hw
  simp only [decodeMajor2E, encode, fmtR_0_11, fmtR_11_5, fmtR_16_5, fmtR_21_5, fmtR_26_6] <;> rfl
theorem Coding.accx (d : BitVec 5) (a : BitVec 5) (b : BitVec 5) : Coding.Statement (.accx d a b) := by
  intro _ hw
  refine decode_of_fields ((decodeFields_2E fmtR_26_6).trans ?_) hw
  simp only [decodeMajor2E, encode, fmtR_0_11, fmtR_11_5, fmtR_16_5, fmtR_21_5, fmtR_26_6] <;> rfl
theorem Coding.acci (d : BitVec 5) (a : BitVec 5) (b : BitVec 5) : Coding.Statement (.acci d a b) := by
  intro _ hw
  refine decode_of_fields ((decodeFields_2E fmtR_26_6).trans ?_) hw
  simp only [decodeMajor2E, encode, fmtR_0_11, fmtR_11_5, fmtR_16_5, fmtR_21_5, fmtR_26_6] <;> rfl
theorem Coding.mwait  : Coding.Statement .mwait := by
  intro _ hw
  refine decode_of_fields ((decodeFields_2E fmtR_26_6).trans ?_) hw
  simp only [decodeMajor2E, encode, fmtR_0_11, fmtR_11_5, fmtR_16_5, fmtR_21_5, fmtR_26_6] <;> rfl
theorem Coding.epush (d : BitVec 5) (a : BitVec 5) : Coding.Statement (.epush d a) := by
  intro _ hw
  refine decode_of_fields ((decodeFields_2F fmtR_26_6).trans ?_) hw
  simp only [decodeMajor2F, encode, fmtR_0_11, fmtR_11_5, fmtR_16_5, fmtR_21_5, fmtR_26_6] <;> rfl
theorem Coding.epop (d : BitVec 5) (a : BitVec 5) : Coding.Statement (.epop d a) := by
  intro _ hw
  refine decode_of_fields ((decodeFields_2F fmtR_26_6).trans ?_) hw
  simp only [decodeMajor2F, encode, fmtR_0_11, fmtR_11_5, fmtR_16_5, fmtR_21_5, fmtR_26_6] <;> rfl
theorem Coding.epeek (d : BitVec 5) (a : BitVec 5) : Coding.Statement (.epeek d a) := by
  intro _ hw
  refine decode_of_fields ((decodeFields_2F fmtR_26_6).trans ?_) hw
  simp only [decodeMajor2F, encode, fmtR_0_11, fmtR_11_5, fmtR_16_5, fmtR_21_5, fmtR_26_6] <;> rfl
theorem Coding.pclaim (d : BitVec 5) (a : BitVec 5) : Coding.Statement (.pclaim d a) := by
  intro _ hw
  refine decode_of_fields ((decodeFields_30 fmtR_26_6).trans ?_) hw
  simp only [decodeMajor30, encode, fmtR_0_11, fmtR_11_5, fmtR_16_5, fmtR_21_5, fmtR_26_6] <;> rfl
theorem Coding.prel (d : BitVec 5) (a : BitVec 5) : Coding.Statement (.prel d a) := by
  intro _ hw
  refine decode_of_fields ((decodeFields_30 fmtR_26_6).trans ?_) hw
  simp only [decodeMajor30, encode, fmtR_0_11, fmtR_11_5, fmtR_16_5, fmtR_21_5, fmtR_26_6] <;> rfl
theorem Coding.pgive (d : BitVec 5) (a : BitVec 5) (b : BitVec 5) : Coding.Statement (.pgive d a b) := by
  intro _ hw
  refine decode_of_fields ((decodeFields_30 fmtR_26_6).trans ?_) hw
  simp only [decodeMajor30, encode, fmtR_0_11, fmtR_11_5, fmtR_16_5, fmtR_21_5, fmtR_26_6] <;> rfl
theorem Coding.pstat (d : BitVec 5) (a : BitVec 5) : Coding.Statement (.pstat d a) := by
  intro _ hw
  refine decode_of_fields ((decodeFields_30 fmtR_26_6).trans ?_) hw
  simp only [decodeMajor30, encode, fmtR_0_11, fmtR_11_5, fmtR_16_5, fmtR_21_5, fmtR_26_6] <;> rfl
theorem Coding.pmark (d : BitVec 5) (a : BitVec 5) (b : BitVec 5) : Coding.Statement (.pmark d a b) := by
  intro _ hw
  refine decode_of_fields ((decodeFields_30 fmtR_26_6).trans ?_) hw
  simp only [decodeMajor30, encode, fmtR_0_11, fmtR_11_5, fmtR_16_5, fmtR_21_5, fmtR_26_6] <;> rfl
theorem Coding.orbdef (d : BitVec 5) (a : BitVec 5) : Coding.Statement (.orbdef d a) := by
  intro _ hw
  refine decode_of_fields ((decodeFields_31 fmtR_26_6).trans ?_) hw
  simp only [decodeMajor31, encode, fmtR_0_11, fmtR_11_5, fmtR_16_5, fmtR_21_5, fmtR_26_6] <;> rfl
theorem Coding.orbin (d : BitVec 5) (a : BitVec 5) (b : BitVec 5) : Coding.Statement (.orbin d a b) := by
  intro _ hw
  refine decode_of_fields ((decodeFields_31 fmtR_26_6).trans ?_) hw
  simp only [decodeMajor31, encode, fmtR_0_11, fmtR_11_5, fmtR_16_5, fmtR_21_5, fmtR_26_6] <;> rfl
theorem Coding.orbgo (d : BitVec 5) (a : BitVec 5) : Coding.Statement (.orbgo d a) := by
  intro _ hw
  refine decode_of_fields ((decodeFields_31 fmtR_26_6).trans ?_) hw
  simp only [decodeMajor31, encode, fmtR_0_11, fmtR_11_5, fmtR_16_5, fmtR_21_5, fmtR_26_6] <;> rfl
theorem Coding.orbout (d : BitVec 5) (a : BitVec 5) (b : BitVec 5) : Coding.Statement (.orbout d a b) := by
  intro _ hw
  refine decode_of_fields ((decodeFields_31 fmtR_26_6).trans ?_) hw
  simp only [decodeMajor31, encode, fmtR_0_11, fmtR_11_5, fmtR_16_5, fmtR_21_5, fmtR_26_6] <;> rfl
theorem Coding.orbstat (d : BitVec 5) (a : BitVec 5) : Coding.Statement (.orbstat d a) := by
  intro _ hw
  refine decode_of_fields ((decodeFields_31 fmtR_26_6).trans ?_) hw
  simp only [decodeMajor31, encode, fmtR_0_11, fmtR_11_5, fmtR_16_5, fmtR_21_5, fmtR_26_6] <;> rfl
theorem Coding.qnum (d : BitVec 5) (a : BitVec 5) : Coding.Statement (.qnum d a) := by
  intro _ hw
  refine decode_of_fields ((decodeFields_32 fmtFloat_26_6).trans ?_) hw
  simp only [decodeMajor32, encode, fmtFloat_0_2, fmtFloat_2_3, fmtFloat_5_1, fmtFloat_6_5, fmtFloat_11_1, fmtFloat_11_5, fmtFloat_12_4, fmtFloat_16_5, fmtFloat_21_5, fmtFloat_26_6] <;> rfl
theorem Coding.qden (d : BitVec 5) (a : BitVec 5) : Coding.Statement (.qden d a) := by
  intro _ hw
  refine decode_of_fields ((decodeFields_32 fmtFloat_26_6).trans ?_) hw
  simp only [decodeMajor32, encode, fmtFloat_0_2, fmtFloat_2_3, fmtFloat_5_1, fmtFloat_6_5, fmtFloat_11_1, fmtFloat_11_5, fmtFloat_12_4, fmtFloat_16_5, fmtFloat_21_5, fmtFloat_26_6] <;> rfl
theorem Coding.qmk (d : BitVec 5) (a : BitVec 5) (b : BitVec 5) (r : BitVec 3) : Coding.Statement (.qmk d a b r) := by
  intro _ hw
  refine decode_of_fields ((decodeFields_32 fmtFloat_26_6).trans ?_) hw
  simp only [decodeMajor32, encode, fmtFloat_0_2, fmtFloat_2_3, fmtFloat_5_1, fmtFloat_6_5, fmtFloat_11_1, fmtFloat_11_5, fmtFloat_12_4, fmtFloat_16_5, fmtFloat_21_5, fmtFloat_26_6] <;> rfl
theorem Coding.qmed (d : BitVec 5) (a : BitVec 5) (b : BitVec 5) (r : BitVec 3) : Coding.Statement (.qmed d a b r) := by
  intro _ hw
  refine decode_of_fields ((decodeFields_32 fmtFloat_26_6).trans ?_) hw
  simp only [decodeMajor32, encode, fmtFloat_0_2, fmtFloat_2_3, fmtFloat_5_1, fmtFloat_6_5, fmtFloat_11_1, fmtFloat_11_5, fmtFloat_12_4, fmtFloat_16_5, fmtFloat_21_5, fmtFloat_26_6] <;> rfl
theorem Coding.qcf (d : BitVec 5) (a : BitVec 5) (b : BitVec 5) : Coding.Statement (.qcf d a b) := by
  intro _ hw
  refine decode_of_fields ((decodeFields_32 fmtFloat_26_6).trans ?_) hw
  simp only [decodeMajor32, encode, fmtFloat_0_2, fmtFloat_2_3, fmtFloat_5_1, fmtFloat_6_5, fmtFloat_11_1, fmtFloat_11_5, fmtFloat_12_4, fmtFloat_16_5, fmtFloat_21_5, fmtFloat_26_6] <;> rfl
theorem Coding.qfloor (d : BitVec 5) (a : BitVec 5) : Coding.Statement (.qfloor d a) := by
  intro _ hw
  refine decode_of_fields ((decodeFields_32 fmtFloat_26_6).trans ?_) hw
  simp only [decodeMajor32, encode, fmtFloat_0_2, fmtFloat_2_3, fmtFloat_5_1, fmtFloat_6_5, fmtFloat_11_1, fmtFloat_11_5, fmtFloat_12_4, fmtFloat_16_5, fmtFloat_21_5, fmtFloat_26_6] <;> rfl
theorem Coding.ecall  : Coding.Statement .ecall := by
  intro _ hw
  refine decode_of_fields ((decodeFields_33 fmtR_26_6).trans ?_) hw
  simp only [decodeMajor33, encode, fmtR_0_11, fmtR_11_5, fmtR_16_5, fmtR_21_5, fmtR_26_6] <;> rfl
theorem Coding.ebreak  : Coding.Statement .ebreak := by
  intro _ hw
  refine decode_of_fields ((decodeFields_33 fmtR_26_6).trans ?_) hw
  simp only [decodeMajor33, encode, fmtR_0_11, fmtR_11_5, fmtR_16_5, fmtR_21_5, fmtR_26_6] <;> rfl
theorem Coding.sret  : Coding.Statement .sret := by
  intro _ hw
  refine decode_of_fields ((decodeFields_33 fmtR_26_6).trans ?_) hw
  simp only [decodeMajor33, encode, fmtR_0_11, fmtR_11_5, fmtR_16_5, fmtR_21_5, fmtR_26_6] <;> rfl
theorem Coding.uret  : Coding.Statement .uret := by
  intro _ hw
  refine decode_of_fields ((decodeFields_33 fmtR_26_6).trans ?_) hw
  simp only [decodeMajor33, encode, fmtR_0_11, fmtR_11_5, fmtR_16_5, fmtR_21_5, fmtR_26_6] <;> rfl
theorem Coding.halt  : Coding.Statement .halt := by
  intro _ hw
  refine decode_of_fields ((decodeFields_33 fmtR_26_6).trans ?_) hw
  simp only [decodeMajor33, encode, fmtR_0_11, fmtR_11_5, fmtR_16_5, fmtR_21_5, fmtR_26_6] <;> rfl
theorem Coding.tlbinv (a : BitVec 5) (b : BitVec 5) : Coding.Statement (.tlbinv a b) := by
  intro _ hw
  refine decode_of_fields ((decodeFields_33 fmtR_26_6).trans ?_) hw
  simp only [decodeMajor33, encode, fmtR_0_11, fmtR_11_5, fmtR_16_5, fmtR_21_5, fmtR_26_6] <;> rfl
theorem Coding.icinv  : Coding.Statement .icinv := by
  intro _ hw
  refine decode_of_fields ((decodeFields_33 fmtR_26_6).trans ?_) hw
  simp only [decodeMajor33, encode, fmtR_0_11, fmtR_11_5, fmtR_16_5, fmtR_21_5, fmtR_26_6] <;> rfl
theorem Coding.klaunch (d : BitVec 5) (a : BitVec 5) (b : BitVec 5) : Coding.Statement (.klaunch d a b) := by
  intro _ hw
  refine decode_of_fields ((decodeFields_33 fmtR_26_6).trans ?_) hw
  simp only [decodeMajor33, encode, fmtR_0_11, fmtR_11_5, fmtR_16_5, fmtR_21_5, fmtR_26_6] <;> rfl
theorem Coding.watchArm : Coding.Statement .watchArm := fun h => absurd h (by decide)
theorem Coding.watchDisarm : Coding.Statement .watchDisarm := fun h => absurd h (by decide)
theorem Coding.vlWrite : Coding.Statement .vlWrite := fun h => absurd h (by decide)
theorem Coding.registerWrite : Coding.Statement .registerWrite := fun h => absurd h (by decide)
theorem Coding.tableWalk : Coding.Statement .tableWalk := fun h => absurd h (by decide)
theorem Coding.pretranslateWindow : Coding.Statement .pretranslateWindow := fun h => absurd h (by decide)
theorem Coding.windowEnterPipeline : Coding.Statement .windowEnterPipeline := fun h => absurd h (by decide)
theorem Coding.tlbInvalidateMsg : Coding.Statement .tlbInvalidateMsg := fun h => absurd h (by decide)
theorem Coding.tlbInvalidateAck : Coding.Statement .tlbInvalidateAck := fun h => absurd h (by decide)
theorem Coding.hbmIssue : Coding.Statement .hbmIssue := fun h => absurd h (by decide)
theorem Coding.hbmDataReturn : Coding.Statement .hbmDataReturn := fun h => absurd h (by decide)
theorem Coding.hbmReadRetry : Coding.Statement .hbmReadRetry := fun h => absurd h (by decide)
theorem Coding.rowCloseTimeout : Coding.Statement .rowCloseTimeout := fun h => absurd h (by decide)
theorem Coding.requestAgeExpiry : Coding.Statement .requestAgeExpiry := fun h => absurd h (by decide)
theorem Coding.hcrateCeilWrite : Coding.Statement .hcrateCeilWrite := fun h => absurd h (by decide)
theorem Coding.rateLimitChange : Coding.Statement .rateLimitChange := fun h => absurd h (by decide)
theorem Coding.rateSwitch : Coding.Statement .rateSwitch := fun h => absurd h (by decide)
theorem Coding.rateSwitchComplete : Coding.Statement .rateSwitchComplete := fun h => absurd h (by decide)
theorem Coding.refreshDue : Coding.Statement .refreshDue := fun h => absurd h (by decide)
theorem Coding.owedRefreshPaid : Coding.Statement .owedRefreshPaid := fun h => absurd h (by decide)
theorem Coding.temperatureReport : Coding.Statement .temperatureReport := fun h => absurd h (by decide)
theorem Coding.activationAlert : Coding.Statement .activationAlert := fun h => absurd h (by decide)
theorem Coding.bankBlockEnd : Coding.Statement .bankBlockEnd := fun h => absurd h (by decide)
theorem Coding.patrolScrubRead : Coding.Statement .patrolScrubRead := fun h => absurd h (by decide)
theorem Coding.keySlotLoad : Coding.Statement .keySlotLoad := fun h => absurd h (by decide)
theorem Coding.vectorHeader : Coding.Statement .vectorHeader := fun h => absurd h (by decide)
theorem Coding.segmentCompletionBeat : Coding.Statement .segmentCompletionBeat := fun h => absurd h (by decide)
theorem Coding.lineRequest : Coding.Statement .lineRequest := fun h => absurd h (by decide)
theorem Coding.sliceRequest : Coding.Statement .sliceRequest := fun h => absurd h (by decide)
theorem Coding.slicePinRelease : Coding.Statement .slicePinRelease := fun h => absurd h (by decide)
theorem Coding.cacheFillReturn : Coding.Statement .cacheFillReturn := fun h => absurd h (by decide)
theorem Coding.writeBack : Coding.Statement .writeBack := fun h => absurd h (by decide)
theorem Coding.registration : Coding.Statement .registration := fun h => absurd h (by decide)
theorem Coding.registrationAck : Coding.Statement .registrationAck := fun h => absurd h (by decide)
theorem Coding.revocation : Coding.Statement .revocation := fun h => absurd h (by decide)
theorem Coding.revocationWithWriteBack : Coding.Statement .revocationWithWriteBack := fun h => absurd h (by decide)
theorem Coding.forwardedRead : Coding.Statement .forwardedRead := fun h => absurd h (by decide)
theorem Coding.forwardUnanswered : Coding.Statement .forwardUnanswered := fun h => absurd h (by decide)
theorem Coding.farAtomicAtHome : Coding.Statement .farAtomicAtHome := fun h => absurd h (by decide)
theorem Coding.syAccessAtHome : Coding.Statement .syAccessAtHome := fun h => absurd h (by decide)
theorem Coding.watchHit : Coding.Statement .watchHit := fun h => absurd h (by decide)
theorem Coding.watchHitArrival : Coding.Statement .watchHitArrival := fun h => absurd h (by decide)
theorem Coding.qlockTicketDraw : Coding.Statement .qlockTicketDraw := fun h => absurd h (by decide)
theorem Coding.qunlockIncrement : Coding.Statement .qunlockIncrement := fun h => absurd h (by decide)
theorem Coding.grant : Coding.Statement .grant := fun h => absurd h (by decide)
theorem Coding.pollRead : Coding.Statement .pollRead := fun h => absurd h (by decide)
theorem Coding.copyStart : Coding.Statement .copyStart := fun h => absurd h (by decide)
theorem Coding.copyComplete : Coding.Statement .copyComplete := fun h => absurd h (by decide)
theorem Coding.plateReattach : Coding.Statement .plateReattach := fun h => absurd h (by decide)
theorem Coding.vpushDelivery : Coding.Statement .vpushDelivery := fun h => absurd h (by decide)
theorem Coding.wakeArrival : Coding.Statement .wakeArrival := fun h => absurd h (by decide)
theorem Coding.waitTimeout : Coding.Statement .waitTimeout := fun h => absurd h (by decide)
theorem Coding.pushTimeout : Coding.Statement .pushTimeout := fun h => absurd h (by decide)
theorem Coding.portDown : Coding.Statement .portDown := fun h => absurd h (by decide)
theorem Coding.remoteTimeout : Coding.Statement .remoteTimeout := fun h => absurd h (by decide)
theorem Coding.ualinkRequestIngress : Coding.Statement .ualinkRequestIngress := fun h => absurd h (by decide)
theorem Coding.ualinkFlitRetry : Coding.Statement .ualinkFlitRetry := fun h => absurd h (by decide)
theorem Coding.ucieFlitRetry : Coding.Statement .ucieFlitRetry := fun h => absurd h (by decide)
theorem Coding.ucieLaneRepair : Coding.Statement .ucieLaneRepair := fun h => absurd h (by decide)
theorem Coding.domainConfig : Coding.Statement .domainConfig := fun h => absurd h (by decide)
theorem Coding.hostRead : Coding.Statement .hostRead := fun h => absurd h (by decide)
theorem Coding.hostWrite : Coding.Statement .hostWrite := fun h => absurd h (by decide)
theorem Coding.hapctlWrite : Coding.Statement .hapctlWrite := fun h => absurd h (by decide)
theorem Coding.meridianSyncSend : Coding.Statement .meridianSyncSend := fun h => absurd h (by decide)
theorem Coding.meridianSync : Coding.Statement .meridianSync := fun h => absurd h (by decide)
theorem Coding.delayExchange : Coding.Statement .delayExchange := fun h => absurd h (by decide)
theorem Coding.meridianHold : Coding.Statement .meridianHold := fun h => absurd h (by decide)
theorem Coding.queueTailWatchHit : Coding.Statement .queueTailWatchHit := fun h => absurd h (by decide)
theorem Coding.queueBackstopScan : Coding.Statement .queueBackstopScan := fun h => absurd h (by decide)
theorem Coding.dependenceWatchHit : Coding.Statement .dependenceWatchHit := fun h => absurd h (by decide)
theorem Coding.placementChoice : Coding.Statement .placementChoice := fun h => absurd h (by decide)
theorem Coding.recordCommit : Coding.Statement .recordCommit := fun h => absurd h (by decide)
theorem Coding.launchComplete : Coding.Statement .launchComplete := fun h => absurd h (by decide)
theorem Coding.quiesce : Coding.Statement .quiesce := fun h => absurd h (by decide)
theorem Coding.endQuiesce : Coding.Statement .endQuiesce := fun h => absurd h (by decide)
theorem Coding.endLaunch : Coding.Statement .endLaunch := fun h => absurd h (by decide)
theorem Coding.createContext : Coding.Statement .createContext := fun h => absurd h (by decide)
theorem Coding.removeContext : Coding.Statement .removeContext := fun h => absurd h (by decide)
theorem Coding.switchArm : Coding.Statement .switchArm := fun h => absurd h (by decide)
theorem Coding.switchArmPark : Coding.Statement .switchArmPark := fun h => absurd h (by decide)
theorem Coding.notice : Coding.Statement .notice := fun h => absurd h (by decide)
theorem Coding.cutBegin : Coding.Statement .cutBegin := fun h => absurd h (by decide)
theorem Coding.marker : Coding.Statement .marker := fun h => absurd h (by decide)
theorem Coding.cutComplete : Coding.Statement .cutComplete := fun h => absurd h (by decide)
theorem Coding.contextSaved : Coding.Statement .contextSaved := fun h => absurd h (by decide)
theorem Coding.contextResumed : Coding.Statement .contextResumed := fun h => absurd h (by decide)
theorem Coding.resize : Coding.Statement .resize := fun h => absurd h (by decide)
theorem Coding.trapEntry : Coding.Statement .trapEntry := fun h => absurd h (by decide)
theorem Coding.userInterruptDelivery : Coding.Statement .userInterruptDelivery := fun h => absurd h (by decide)
theorem Coding.eventAccept : Coding.Statement .eventAccept := fun h => absurd h (by decide)
theorem Coding.eqheadWrite : Coding.Statement .eqheadWrite := fun h => absurd h (by decide)
theorem Coding.orbitRound : Coding.Statement .orbitRound := fun h => absurd h (by decide)
theorem Coding.orbitRoundEdge : Coding.Statement .orbitRoundEdge := fun h => absurd h (by decide)
theorem Coding.orbitMarker : Coding.Statement .orbitMarker := fun h => absurd h (by decide)
theorem Coding.orbitLapEnd : Coding.Statement .orbitLapEnd := fun h => absurd h (by decide)
theorem Coding.orbitComplete : Coding.Statement .orbitComplete := fun h => absurd h (by decide)
theorem Coding.coldBoot : Coding.Statement .coldBoot := fun h => absurd h (by decide)
theorem Coding.recoveryFirmwareImage : Coding.Statement .recoveryFirmwareImage := fun h => absurd h (by decide)
theorem Coding.warmResetComputeDie : Coding.Statement .warmResetComputeDie := fun h => absurd h (by decide)
theorem Coding.warmResetIoDie : Coding.Statement .warmResetIoDie := fun h => absurd h (by decide)
theorem Coding.trustDieWarmReset : Coding.Statement .trustDieWarmReset := fun h => absurd h (by decide)
theorem Coding.dieLost : Coding.Statement .dieLost := fun h => absurd h (by decide)
theorem Coding.dieLostAck : Coding.Statement .dieLostAck := fun h => absurd h (by decide)
theorem Coding.verifyObject : Coding.Statement .verifyObject := fun h => absurd h (by decide)
theorem Coding.retireObject : Coding.Statement .retireObject := fun h => absurd h (by decide)
theorem Coding.loadContextKey : Coding.Statement .loadContextKey := fun h => absurd h (by decide)
theorem Coding.clearContextKey : Coding.Statement .clearContextKey := fun h => absurd h (by decide)
theorem Coding.ownerKeyInstall : Coding.Statement .ownerKeyInstall := fun h => absurd h (by decide)
theorem Coding.ownerKeyClear : Coding.Statement .ownerKeyClear := fun h => absurd h (by decide)
theorem Coding.getMeasurements : Coding.Statement .getMeasurements := fun h => absurd h (by decide)
theorem Coding.spareStatus : Coding.Statement .spareStatus := fun h => absurd h (by decide)
theorem Coding.mbcmdWhileBusy : Coding.Statement .mbcmdWhileBusy := fun h => absurd h (by decide)
theorem Coding.spdmGetVersion : Coding.Statement .spdmGetVersion := fun h => absurd h (by decide)
theorem Coding.spdmGetCapabilities : Coding.Statement .spdmGetCapabilities := fun h => absurd h (by decide)
theorem Coding.spdmNegotiateAlgorithms : Coding.Statement .spdmNegotiateAlgorithms := fun h => absurd h (by decide)
theorem Coding.spdmGetDigests : Coding.Statement .spdmGetDigests := fun h => absurd h (by decide)
theorem Coding.spdmGetCertificate : Coding.Statement .spdmGetCertificate := fun h => absurd h (by decide)
theorem Coding.spdmChallenge : Coding.Statement .spdmChallenge := fun h => absurd h (by decide)
theorem Coding.spdmGetMeasurements : Coding.Statement .spdmGetMeasurements := fun h => absurd h (by decide)
theorem Coding.spdmKeyExchange : Coding.Statement .spdmKeyExchange := fun h => absurd h (by decide)
theorem Coding.spdmFinish : Coding.Statement .spdmFinish := fun h => absurd h (by decide)
theorem Coding.spdmHeartbeat : Coding.Statement .spdmHeartbeat := fun h => absurd h (by decide)
theorem Coding.spdmKeyUpdate : Coding.Statement .spdmKeyUpdate := fun h => absurd h (by decide)
theorem Coding.spdmEndSession : Coding.Statement .spdmEndSession := fun h => absurd h (by decide)
theorem Coding.spdmChunkSend : Coding.Statement .spdmChunkSend := fun h => absurd h (by decide)
theorem Coding.spdmChunkGet : Coding.Statement .spdmChunkGet := fun h => absurd h (by decide)
theorem Coding.spdmUnsupportedRequest : Coding.Statement .spdmUnsupportedRequest := fun h => absurd h (by decide)
theorem Coding.windowAccessArrival : Coding.Statement .windowAccessArrival := fun h => absurd h (by decide)
theorem Coding.rlcAcquireInvalidation : Coding.Statement .rlcAcquireInvalidation := fun h => absurd h (by decide)
theorem Coding.acquireAcknowledgement : Coding.Statement .acquireAcknowledgement := fun h => absurd h (by decide)
theorem Coding.klaunchPoll : Coding.Statement .klaunchPoll := fun h => absurd h (by decide)
theorem Coding.vectorSliceEnd : Coding.Statement .vectorSliceEnd := fun h => absurd h (by decide)
theorem Coding.matrixOperationEnd : Coding.Statement .matrixOperationEnd := fun h => absurd h (by decide)
theorem Coding.timeMasterNamed : Coding.Statement .timeMasterNamed := fun h => absurd h (by decide)
theorem Coding.mailboxUnknownCommand : Coding.Statement .mailboxUnknownCommand := fun h => absurd h (by decide)

end Sys2Proof.Laws
end

