-- ==== Sys2Proof/Tests/Slice0.lean ====
section
/-! SUPPORT. Tests with results from the spec's words and tables, the refusals of WellFormed, and for every statement states that
meet its hypotheses. -/
namespace Sys2Proof.Tests
set_option Elab.async false
set_option exponentiation.threshold 512
open Sys2Proof Sys2Proof.Machine

/-! ### States -/

/-- A user's hart that runs, with its trap entry enabled at 0x10000, on a device that is up; every key slot holds one key. -/
def user : State :=
  let h : Hart := { Hart.reset with phase := .running, pc := 0x1000#64, trap := { TrapRegs.reset with trentry := 0x10001#64 } }
  let s : State := { State.reset with hart := h, m := { State.reset.m with slotKeys := [] } }
  let s := s.updFab fun f => { f with devValid := true }
  s.setCtx 0 { Ctx.reset with state := 1#2, dgrant := 0x100000001#64, ptb := 0x8000000000000000#64, keyLoaded := true }
/-- The same in supervisor mode. -/
def super : State := user.updHart fun h => { h with sup := true }
/-- With values in x1 and x2. -/
def withX (s : State) (v w : Word) : State := (s.setX 1#5 v).setX 2#5 w
/-- With values in f1 and f2. -/
def withF (s : State) (v w : Word) : State := (s.setF 1#5 v).setF 2#5 w
/-- The next state of an instruction, or the reset state where it stops. -/
def after (i : Instr) (s : State) : State := match exec i s with | .next t => t | _ => .reset
/-- The same for a step of another agent with a message. -/
def afterMsg (i : Instr) (s : State) (m : Msg) : State := after i { s with msg := m }

/-- A plate window at VA 0 with plate 5 of die 0 READY in slot 0, and bytes 1 to 8 at its start. -/
def plated : State :=
  let s := user.updHart fun h => { h with user := { h.user with pwb := 1#64 }, slots := h.slots.set 0 (.attached 5) }
  let s := s.setPlate 5 { Plate.reset with state := 2#2, attach := 2#2 }
  s.homeStore 0 (plateLa 0 5 0) [1#8, 2#8, 3#8, 4#8, 5#8, 6#8, 7#8, 0x88#8]

/-- A leaf for the page at VA 0x40000000, cached in region 1, readable and writable by a user. -/
def leaf : TlbEntry := { vpn := 0x40000#52, level := 0, ppn := 0x200#40, attr := 0xEB#13, ctx := 0#16 }
def lineData : List Byte := toBytes 64 0x8877665544332211
def line : CacheLine := { line := 0x200000 / 64, rid := leaf.attr.rid, wv := 0xFFFF#16, wd := 0#16, wo := 0#16, who := 0#64, psn := false, data := lineData }
/-- A user's hart with that page in its TLB and its first line in the L1D. -/
def cached : State :=
  let s := user.updHart fun h => { h with sregs := { h.sregs with sptb := 0x8000000000000000#64 } }
  s.setCore 0 { CoreState.reset with dtlb := [leaf], l1d := [line] }

/-! ### Well-formedness: each check refuses a term -/

theorem smoke_rounding_5 : WellFormed (.fadd 1#5 2#5 3#5 1#1 5#3) = false := by decide
theorem smoke_rounding_6 : WellFormed (.fcvtXF 1#5 2#5 1#1 6#3) = false := by decide
theorem smoke_rm_in_s : WellFormed (.fmul 1#5 2#5 3#5 0#1 4#3) = false := by decide
theorem smoke_tile : WellFormed (.tld 8#5 1#5) = false := by decide
theorem smoke_acc : WellFormed (.mclr 4#5) = false := by decide
theorem smoke_port : WellFormed (.epush 8#5 1#5) = false := by decide
theorem smoke_fill : WellFormed (.vslup 1#5 2#5 3#5 5#3) = false := by decide
theorem smoke_accepts : WellFormed (.fadd 1#5 2#5 3#5 1#1 4#3) = true := by decide

/-! ### Decoding: words written out from the encodings of spec/11 to spec/17, one a family and more -/

theorem word_acas : decode 0x78A63CE0#32 = some (.acas 5#5 6#5 7#5 3#2 0#1) := by decide
theorem word_acci : decode 0xB8023807#32 = some (.acci 0#5 2#5 7#5) := by decide
theorem word_accx : decode 0xB8C13806#32 = some (.accx 6#5 1#5 7#5) := by decide
theorem word_afadd : decode 0x79095530#32 = some (.afadd 8#5 9#5 10#5 1#2 1#1) := by decide
theorem word_epeek : decode 0xBD800002#32 = some (.epeek 12#5 0#5) := by decide
theorem word_epop : decode 0xBD610001#32 = some (.epop 11#5 1#5) := by decide
theorem word_epush : decode 0xBC0A0000#32 = some (.epush 0#5 10#5) := by decide
theorem word_fadd : decode 0x70A63820#32 = some (.fadd 5#5 6#5 7#5 1#1 0#3) := by decide
theorem word_fcvt_x_f : decode 0x71850430#32 = some (.fcvtXF 12#5 5#5 1#1 4#3) := by decide
theorem word_fence : decode 0x7C0000A0#32 = some (.fence 2#2 0#4) := by decide
theorem word_fld : decode 0x3C4AC008#32 = some (.fldD 2#5 10#5 8#13) := by decide
theorem word_fma : decode 0x74221984#32 = some (.fma 1#5 2#5 3#5 1#1 4#3 4#5) := by decide
theorem word_fsqrt : decode 0x71A50120#32 = some (.fsqrt 13#5 5#5 1#1 0#3) := by decide
theorem word_fst : decode 0x406B9FFC#32 = some (.fstW 3#5 11#5 (-4#13)) := by decide
theorem word_klaunch : decode 0xCCA63807#32 = some (.klaunch 5#5 6#5 7#5) := by decide
theorem word_ld : decode 0x2EAA8000#32 = some (.ldW 21#5 10#5 0#13) := by decide
theorem word_lih : decode 0x25C00005#32 = some (.lih 14#5 5#21) := by decide
theorem word_mclr : decode 0xB8600005#32 = some (.mclr 3#5) := by decide
theorem word_mop : decode 0xB8221802#32 = some (.mop 1#5 2#5 3#5) := by decide
theorem word_mop_m : decode 0xB8406004#32 = some (.mopM 2#5 0#5 12#5) := by decide
theorem word_mops : decode 0xB8042803#32 = some (.mops 0#5 4#5 5#5) := by decide
theorem word_orbgo : decode 0xC4A60002#32 = some (.orbgo 5#5 6#5) := by decide
theorem word_orbin : decode 0xC4A63801#32 = some (.orbin 5#5 6#5 7#5) := by decide
theorem word_orbout : decode 0xC4A63803#32 = some (.orbout 5#5 6#5 7#5) := by decide
theorem word_orbstat : decode 0xC5060004#32 = some (.orbstat 8#5 6#5) := by decide
theorem word_own : decode 0x7C0A00D3#32 = some (.own 10#5 1#2 3#4) := by decide
theorem word_pand : decode 0xB0221800#32 = some (.pand 1#5 2#5 3#5) := by decide
theorem word_pclaim : decode 0xC0A60000#32 = some (.pclaim 5#5 6#5) := by decide
theorem word_pcnt : decode 0xB1040038#32 = some (.pcnt 8#5 4#5) := by decide
theorem word_pgive : decode 0xC0A63802#32 = some (.pgive 5#5 6#5 7#5) := by decide
theorem word_pmark : decode 0xC0A63804#32 = some (.pmark 5#5 6#5 7#5) := by decide
theorem word_prel : decode 0xC0A60001#32 = some (.prel 5#5 6#5) := by decide
theorem word_pset : decode 0xB0870028#32 = some (.pset 4#5 7#5) := by decide
theorem word_qcf : decode 0xC9455900#32 = some (.qcf 10#5 5#5 11#5) := by decide
theorem word_qfloor : decode 0xC9850140#32 = some (.qfloor 12#5 5#5) := by decide
theorem word_qlock : decode 0x7E8A0153#32 = some (.qlock 20#5 10#5 1#2 3#4) := by decide
theorem word_qmed : decode 0xC90548C0#32 = some (.qmed 8#5 5#5 9#5 0#3) := by decide
theorem word_qmk : decode 0xC8853090#32 = some (.qmk 4#5 5#5 6#5 4#3) := by decide
theorem word_qunlock : decode 0x7C0A0193#32 = some (.qunlock 10#5 1#2 3#4) := by decide
theorem word_stl : decode 0x396C8800#32 = some (.stlW 11#5 12#5 1#2 0#11) := by decide
theorem word_lda : decode 0x368C8800#32 = some (.ldaW 20#5 12#5 1#2 0#11) := by decide
theorem word_tld : decode 0xB82A0000#32 = some (.tld 1#5 10#5) := by decide
theorem word_tst : decode 0xB82B0001#32 = some (.tst 1#5 11#5) := by decide
theorem word_vadd : decode 0x98221802#32 = some (.vadd 1#5 2#5 3#5 1#1 0#1) := by decide
theorem word_vbcast : decode 0xA4E04820#32 = some (.vbcast 7#5 9#5) := by decide
theorem word_vbfun : decode 0xAC221810#32 = some (.vbfun 1#5 2#5 3#5) := by decide
theorem word_vbpopc : decode 0xACA60018#32 = some (.vbpopc 5#5 6#5) := by decide
theorem word_vbsl : decode 0xAC221800#32 = some (.vbsl 1#5 2#5 3#5) := by decide
theorem word_vcfg : decode 0x90C50000#32 = some (.vcfg 6#5 5#5) := by decide
theorem word_vcmp_lt : decode 0x9C442810#32 = some (.vcmpLt 2#5 4#5 5#5 0#1) := by decide
theorem word_vcomp : decode 0xA4850018#32 = some (.vcomp 4#5 5#5) := by decide
theorem word_vcvt : decode 0xA422003A#32 = some (.vcvt 1#5 2#5 1#1) := by decide
theorem word_vdot : decode 0xA92A5840#32 = some (.vdot 9#5 10#5 11#5) := by decide
theorem word_vexp2 : decode 0xA0640010#32 = some (.vexp2 3#5 4#5) := by decide
theorem word_vext : decode 0xA6874828#32 = some (.vext 20#5 7#5 9#5) := by decide
theorem word_vfma : decode 0x98221818#32 = some (.vfma 1#5 2#5 3#5 0#1 0#1) := by decide
theorem word_vfma_x : decode 0x98200819#32 = some (.vfma 1#5 0#5 1#5 0#1 1#1) := by decide
theorem word_vins : decode 0xA4653030#32 = some (.vins 3#5 5#5 6#5) := by decide
theorem word_vld : decode 0x940A0000#32 = some (.vld 0#5 10#5 0#1 0#1) := by decide
theorem word_vld_t : decode 0x944B0020#32 = some (.vldT 2#5 11#5 0#1 0#1) := by decide
theorem word_vldx : decode 0x948A3010#32 = some (.vldx 4#5 10#5 6#5 0#1 0#1) := by decide
theorem word_vperm : decode 0xA4221810#32 = some (.vperm 1#5 2#5 3#5) := by decide
theorem word_vpush : decode 0x94084830#32 = some (.vpush 8#5 9#5) := by decide
theorem word_vpush_t : decode 0x94684838#32 = some (.vpushT 3#5 8#5 9#5) := by decide
theorem word_vred_sum : decode 0xA92A0000#32 = some (.vredSum 9#5 10#5) := by decide
theorem word_vrest : decode 0x916C0005#32 = some (.vrest 11#5 12#5) := by decide
theorem word_vsave : decode 0x916C0004#32 = some (.vsave 11#5 12#5) := by decide
theorem word_vscan_sum : decode 0xA8640028#32 = some (.vscanSum 3#5 4#5) := by decide
theorem word_vsel : decode 0x98A63888#32 = some (.vsel 5#5 6#5 7#5 0#1 0#1) := by decide
theorem word_wait : decode 0x7D2B01C0#32 = some (.wait 9#5 11#5) := by decide
theorem word_wake : decode 0x7C0C0200#32 = some (.wake 12#5) := by decide

/-! ### One step each, with results worked out by hand from the rules -/

/-- R310, R312: arithmetic wraps, shifts use six bits, immediates extend. -/
theorem test_sub_wraps : (after (.sub 3#5 2#5 1#5) (withX user 7#64 5#64)).xr 3#5 = 0xFFFFFFFFFFFFFFFE#64 := by decide
theorem test_sra_sign : (after (.sra 3#5 1#5 2#5) (withX user 0x8000000000000000#64 67#64)).xr 3#5 = 0xF000000000000000#64 := by decide
theorem test_sltiu_extends : (after (.sltiu 3#5 1#5 0xFFFF#16) (withX user 7#64 0#64)).xr 3#5 = 1#64 := by decide
theorem test_andi_zero_extends : (after (.andi 3#5 1#5 0xFFFF#16) (withX user 0x12345678#64 0#64)).xr 3#5 = 0x5678#64 := by decide
theorem test_x0_discards : (after (.add 0#5 1#5 2#5) (withX user 7#64 5#64)).xr 0#5 = 0#64 := by decide
theorem test_clz_zero : (after (.clz 3#5 1#5) user).xr 3#5 = 64#64 := by decide
theorem test_pcrel : (after (.pcrel 3#5 2#21) user).xr 3#5 = 0x21000#64 := by decide
/-- R315: division by zero, and the quotient that wraps. -/
theorem test_div_zero : (after (.div 3#5 1#5 2#5) (withX user 7#64 0#64)).xr 3#5 = 0xFFFFFFFFFFFFFFFF#64 := by decide
theorem test_div_wraps : (after (.div 3#5 1#5 2#5) (withX user 0x8000000000000000#64 0xFFFFFFFFFFFFFFFF#64)).xr 3#5 = 0x8000000000000000#64 := by decide
theorem test_rem_sign : (after (.rem 3#5 1#5 2#5) (withX user 0xFFFFFFFFFFFFFFF9#64 2#64)).xr 3#5 = 0xFFFFFFFFFFFFFFFF#64 := by decide
theorem test_mulhsu : (after (.mulhsu 3#5 1#5 2#5) (withX user 0xFFFFFFFFFFFFFFFF#64 0xFFFFFFFFFFFFFFFF#64)).xr 3#5 = 0xFFFFFFFFFFFFFFFF#64 := by decide
/-- R324, R326: a branch backward, and a jump through the register it links. -/
theorem test_blt_taken : (after (.blt 1#5 2#5 0xFFFF#16) (withX user 0xFFFFFFFFFFFFFFFF#64 0#64)).hart.pc = 0xFFC#64 := by decide
theorem test_bltu_not_taken : (after (.bltu 1#5 2#5 0xFFFF#16) (withX user 0xFFFFFFFFFFFFFFFF#64 0#64)).hart.pc = 0x1004#64 := by decide
theorem test_jalr_link : (after (.jalr 1#5 1#5 4#16) (withX user 0x2000#64 0#64)).hart.pc = 0x2004#64 ∧
    (after (.jalr 1#5 1#5 4#16) (withX user 0x2000#64 0#64)).xr 1#5 = 0x1004#64 := by decide
theorem test_jalr_misaligned : (after (.jalr 1#5 1#5 2#16) (withX user 0x2000#64 0#64)).hart.trap.trarg = 0x2002#64 := by decide
/-- R317, R85: the lowest address holds the least significant byte; a signed load extends. -/
theorem test_plate_load : (after (.ldD 3#5 0#5 0#13) plated).xr 3#5 = 0x8807060504030201#64 := by decide
theorem test_plate_load_signed : (after (.ldB 3#5 0#5 7#13) plated).xr 3#5 = 0xFFFFFFFFFFFFFF88#64 := by decide
theorem test_plate_store : ((after (.stH 1#5 0#5 2#13) (withX plated 0xABCD#64 0#64)).homeBytes 0 (plateLa 0 5 0) 5) = [1#8, 2#8, 0xCD#8, 0xAB#8, 5#8] := by decide
theorem test_plate_bound : (after (.ldD 3#5 1#5 0#13) (withX plated 0x40000#64 0#64)).hart.trap.trcode = 0x0B#8 := by decide
theorem test_plate_detached : (after (.ldD 3#5 1#5 0#13) (withX plated 0x80000#64 0#64)).hart.trap.trcode = 0x0A#8 := by decide
/-- R318, R319: alignment first; a cached word is read from its line. -/
theorem test_misaligned : (after (.ldH 3#5 0#5 1#13) plated).hart.trap.trcode = 3#8 := by decide
theorem test_cached_load : (after (.ldWu 3#5 1#5 4#13) (withX cached 0x40000000#64 0#64)).xr 3#5 = 0x88776655#64 := by decide
theorem test_cached_store : ((after (.stB 2#5 1#5 0#13) (withX cached 0x40000000#64 0x1FF#64)).core 0).l1d.map (·.wd) = [1#16] := by decide
/-- R232, R237: traps, and their entries. -/
theorem test_ecall : (after .ecall user).hart.pc = 0x103C0#64 ∧ (after .ecall user).hart.trap.skip = true := by decide
theorem test_trap_in_super : (after .ebreak super).hart.pc = 0x10C00#64 := by decide
theorem test_privileged : (after .sret user).hart.trap.trcode = 2#8 := by decide
theorem test_sret : (after .sret (super.updHart fun h => { h with trap := { h.trap with trpc := 0x2000#64, skip := true } })).hart.pc = 0x2004#64 := by decide
/-- R354, R272: 1 + 2 in binary64, an inexact sum, an invalid product. -/
theorem test_fadd : (after (.fadd 3#5 1#5 2#5 1#1 0#3) (withF user 0x3FF0000000000000#64 0x4000000000000000#64)).fr 3#5 = 0x4008000000000000#64 := by decide
theorem test_fadd_inexact : (after (.fadd 3#5 1#5 2#5 1#1 0#3) (withF user 0x3FF0000000000000#64 0x3C00000000000000#64)).hart.user.fflags = 1#5 := by decide
theorem test_fmul_invalid : (after (.fmul 3#5 1#5 2#5 1#1 0#3) (withF user 0#64 0x7FF0000000000000#64)).fr 3#5 = 0x7FF8000000000000#64 := by decide
theorem test_fdiv_zero : (after (.fdiv 3#5 1#5 2#5 1#1 0#3) (withF user 0xBFF0000000000000#64 0#64)).fr 3#5 = 0xFFF0000000000000#64 := by decide
theorem test_fsqrt : (after (.fsqrt 3#5 1#5 0#1 0#3) (withF user 0x40800000#64 0#64)).fr 3#5 = 0x40000000#64 := by decide
theorem test_fma_single_rounding : (after (.fms 3#5 1#5 1#5 1#1 0#3 2#5) (withF user 0x3FF0000000000001#64 0x3FF0000000000002#64)).fr 3#5 = 0x3970000000000000#64 := by decide
theorem test_feq_nan : (after (.feq 3#5 1#5 2#5 1#1) (withF user 0x7FF8000000000000#64 0#64)).xr 3#5 = 0#64 := by decide
theorem test_fcvt_saturates : (after (.fcvtXF 3#5 1#5 1#1 0#3) (withF user 0x7FF0000000000000#64 0#64)).xr 3#5 = 0x7FFFFFFFFFFFFFFF#64 := by decide
theorem test_fcvt_single : (after (.fcvtFX 3#5 1#5 0#1 0#3) (withX user 3#64 0#64)).fr 3#5 = 0x40400000#64 := by decide
/-- R360: 6/4 is 3/2 and comes apart again. -/
theorem test_qmk : (after (.qnum 4#5 3#5) (after (.qmk 3#5 1#5 2#5 0#3) (withX user 6#64 4#64))).xr 4#5 = 3#64 := by decide
theorem test_qden : (after (.qden 4#5 3#5) (after (.qmk 3#5 1#5 2#5 0#3) (withX user 6#64 4#64))).xr 4#5 = 2#64 := by decide
/-- R335, R295: control registers by number. -/
theorem test_crw_kept : (after (.crr 3#5 0x006#16) (after (.crw 0#5 1#5 0x006#16) (withX user 0xFF#64 0#64))).xr 3#5 = 0x1F#64 := by decide
theorem test_crs : (after (.crs 3#5 1#5 0x004#16) (withX user 5#64 0#64)).xr 3#5 = 0#64 := by decide
theorem test_super_register : (after (.crr 3#5 0x106#16) user).hart.trap.trcode = 2#8 := by decide
/-- R426 to R429: plate instructions by their statuses. -/
theorem test_pclaim_none : (after (.pclaim 3#5 1#5) user).xr 3#5 = 3#64 := by decide
theorem test_pclaim_attached : (after (.pclaim 3#5 1#5) plated).xr 3#5 = 2#64 := by decide
theorem test_pmark_empty : ((after (.pmark 3#5 1#5 2#5) plated).plate 5).state = 0#2 := by decide
theorem test_pstat : (after (.pstat 3#5 1#5) plated).xr 3#5 = 0x50012#64 := by decide
/-- R329, R183: the configuration of a hart without a vector share is refused. -/
theorem test_vcfg_ill : (after (.vcfg 3#5 1#5) user).hart.vec.ill = true := by decide
theorem test_vconfig_trap : (after (.vsetl 3#5 1#5) user).hart.trap.trcode = 8#8 := by decide
theorem test_vsetrows : (after (.vsetrows 3#5 1#5) (withX user 99#64 0#64)).xr 3#5 = 8#64 := by decide
/-- R198, R199: a wake is not lost. -/
theorem test_wait_sleeps : (after (.wait 3#5 0#5) user).hart.phase = .waiting 0#64 3#5 := by decide
/-- R466 to R468, R471: the mailbox and the responder. -/
theorem test_unknown_command : (afterMsg .mailboxUnknownCommand (user.updTrust fun t => { t with busy := true }) { value := 0x20#64 }).trust.result = 1#8 := by decide
theorem test_spdm_version : (after .spdmGetVersion user).trust.version = true := by decide

/-! ### Witnesses: states and operands that meet the hypotheses of the statements -/

/-- A computation that completes with a value, found by evaluation. -/
theorem completes {α : Type} [DecidableEq α] {r : EStateM.Result Stop State α} {a : α}
    (h : (match r with | .ok b _ => decide (b = a) | .error _ _ => false) = true) : ∃ t, r = .ok a t := by
  cases r with
  | ok b t => exact ⟨t, by simp at h; rw [h]⟩
  | error e t => simp at h
/-- A computation that completes with a value and a state that pass a test, found by evaluation. -/
theorem completesWith {α : Type} {r : EStateM.Result Stop State α} {p : α → State → Bool}
    (h : (match r with | .ok a t => p a t | .error _ _ => false) = true) : ∃ a t, r = .ok a t ∧ p a t = true := by
  cases r with
  | ok a t => exact ⟨a, t, rfl, h⟩
  | error e t => simp at h
/-- A computation that traps with a cause, found by evaluation. -/
theorem trapsWith {α : Type} {r : EStateM.Result Stop State α} {c : BitVec 8}
    (h : (match r with | .error (.trap x _) _ => x == c | _ => false) = true) : ∃ a t, r = .error (.trap c a) t := by
  split at h
  · next x a t => simp at h; subst h; exact ⟨a, t, rfl⟩
  · simp at h
/-- A step that answers a next state, found by evaluation. -/
theorem answers {o : Host.Outcome State Fault Refusal} (h : (match o with | .next _ => true | _ => false) = true) : ∃ t, o = .next t := by
  cases o with
  | next t => exact ⟨t, rfl⟩
  | fault r => simp at h
  | refused r => simp at h
/-- An option that holds something that passes a test, found by evaluation. -/
theorem holds {α : Type} {p : α → Bool} {o : Option α} (h : o.any p = true) : ∃ a, o = some a ∧ p a = true := by
  cases o with
  | none => simp at h
  | some a => exact ⟨a, rfl, by simpa using h⟩

/-- The word of `sub x6, x7, x8`, placed. -/
def placed : State := super.withFetchWord 32 0x04C74001
/-- A word of no instruction, placed. -/
def placedBad : State := super.withFetchWord 32 0xFFFFFFFF

theorem witness_StepsRunTheDecodedInstruction : placed.turns = [] ∧ placed.inbox = [] ∧ placed.others = [] ∧ placed.hartRuns placed.cur = true ∧
    placed.hart.phase = .running ∧ placed.hart.resizes = false ∧ placed.hart.delivery = none ∧ placed.hart.vq = [] ∧ placed.hart.mq = [] ∧
    (∃ t, fetchWord placed = .ok 0x04C74001#32 t) ∧ decode 0x04C74001#32 = some (.sub 6#5 7#5 8#5) :=
  ⟨rfl, rfl, rfl, by decide, rfl, by decide, by decide, rfl, rfl, completes (by decide), by decide⟩
/-- The schedule names the placed hart, and then the agents. -/
def scheduled : State := { placed with turns := [0, 2048], inbox := [(.grant, {})] }
theorem witness_Steps_schedule : scheduled.turns = 0 :: [2048] ∧ (({ scheduled with turns := [2048] } : State).switchTo 0).hartRuns 0 = true ∧
    (∃ t, fetchWord (({ scheduled with turns := [2048] } : State).switchTo 0) = .ok 0x04C74001#32 t) ∧
    ({ scheduled with turns := [2048] } : State).turns = 2048 :: [] ∧ isEncoded .grant = false :=
  ⟨rfl, by decide, completes (by decide), rfl, rfl⟩
theorem witness_Steps_time : placed.disp.switch.phase = 0#2 ∧ placed.watched = false ∧
    (let s := placed.updSwitch fun w => { w with phase := 1#2 }
     s.disp.switch.begun = false ∧ s.disp.switch.latched.toNat ≤ s.time ∧ s.inbox = []) := by decide
theorem witness_Steps_illegal : (∃ t, fetchWord placedBad = .ok 0xFFFFFFFF#32 t) ∧ decode 0xFFFFFFFF#32 = none := ⟨completes (by decide), by decide⟩
theorem witness_Steps_fetch : canonical placed.hart.pc = true ∧ placed.hart.pc.toNat % 4 = 0 ∧ placed.hart.sregs.sptb.getLsbD 63 = true ∧
    ((placed.core 0).itlb.find? fun x => x.hits placed.hart.ctxid placed.hart.pc && x.admits placed.hart.sup .fetch) = some (fetchLeaf super 0x1000#64) ∧
    placed.edgeClosed ((fetchLeaf super 0x1000#64).pa 0x1000#64) = false ∧
    (∃ l, (placed.core 0).l1i.find? (fun l => decide (l.line = (fetchLeaf super 0x1000#64).pa 0x1000#64 / 64)) = some l ∧
      decide (l.line = (fetchLeaf super 0x1000#64).pa 0x1000#64 / 64 ∧ l.data.length = 64) = true) :=
  ⟨by decide, by decide, by decide, by decide, by decide, holds (by decide)⟩
/-- The step of the placed word is its instruction. -/
theorem test_step_placed : (match step placed with | .next t => t.hart.pc | _ => 0#64) = 0x1004#64 := by decide
theorem witness_MemoryStaysCanonical : Mem.wf placed.m.mem = true ∧ ∃ t, step placed = .next t := ⟨by decide, answers (by decide)⟩
theorem witness_CodingRoundTrip : isEncoded (.fma 1#5 2#5 3#5 1#1 4#3 4#5) = true ∧ WellFormed (.fma 1#5 2#5 3#5 1#1 4#3 4#5) = true := by decide
theorem witness_WordsHaveOneReading : decode 0x74221984#32 = some (.fma 1#5 2#5 3#5 1#1 4#3 4#5) := by decide
theorem witness_ImmediateOperationResults : (1#8 ≠ 0#8 ∨ 0#2 = 3#2) ∧ (0#8 ≠ 0#8 ∨ 3#2 = 3#2) := by decide
theorem witness_MultiplyDivideResults : 8 ≤ (8#11).toNat ∧ 8 ≤ (0x7FF#11).toNat := by decide
theorem witness_RegisterOperationResults : 0x013 ≤ (0x013#11).toNat ∧ 1#5 ≠ 0#5 := by decide

def branchable : State := withX user 0xFFFFFFFFFFFFFFFF#64 1#64
theorem witness_BranchesAndJumps_branches : branchable.xr 1#5 ≠ branchable.xr 2#5 ∧ ¬ branchable.xr 1#5 = branchable.xr 2#5 ∧
    (branchable.xr 1#5).toInt < (branchable.xr 2#5).toInt ∧ ¬ (branchable.xr 1#5).toNat < (branchable.xr 2#5).toNat ∧
    branchable.xr 0#5 = branchable.xr 0#5 := by decide
theorem user_settled : Settled user := ⟨rfl, rfl, by decide⟩
theorem super_settled : Settled super := ⟨rfl, rfl, by decide⟩
theorem user_idle : Idle user := ⟨rfl, rfl, rfl, rfl⟩
theorem super_idle : Idle super := ⟨rfl, rfl, rfl, rfl⟩
theorem witness_BranchesAndJumps : user.hart.pc.toNat % 4 = 0 ∧ (BitVec.ofInt 64 ((user.xr 0#5).toInt + (4#16).toInt)).toNat % 4 = 0 ∧
    (BitVec.ofInt 64 ((user.xr 0#5).toInt + (2#16).toInt)).toNat % 4 ≠ 0 ∧ Settled user := ⟨by decide, by decide, by decide, user_settled⟩

/-- A user with 64-bit integer elements, eight of them, in a share of 4 KiB. -/
def vectored : State :=
  user.updHart fun h => { h with grant := { h.grant with vsz := 4#10 }, vec := { h.vec with ill := false, request := 0x17#5, b := 512, vl := 4#14, vtaglo := 0xDDDDDDDDDDDDDDDD#64 } }
theorem witness_BranchesAndJumps_predicates : Idle vectored ∧ vectored.m.marks = [] ∧ vectored.hart.vec.ill = false ∧ (31#5).toNat + 1 ≤ 32 ∧
    Settled user ∧ user.hart.vec.ill = true := ⟨⟨rfl, rfl, rfl, rfl⟩, rfl, rfl, by decide, user_settled, rfl⟩
/-- An aligned access to the plate at its last bytes. -/
theorem plated_access (n : Nat) (h : n = 1 ∨ n = 2 ∨ n = 4 ∨ n = 8) : PlateAccess plated (BitVec.ofNat 64 (0x40000 - n)) n 5 := by
  rcases h with rfl | rfl | rfl | rfl <;>
    exact ⟨by decide, ⟨rfl, rfl, rfl, rfl⟩, rfl, by decide, by decide, by decide, by decide, by decide, by decide⟩
theorem witness_PlateWindowAccesses : PlateAccess plated 0x3FFFF#64 1 5 ∧ PlateAccess plated 0x3FFFE#64 2 5 ∧ PlateAccess plated 0x3FFFC#64 4 5 ∧
    PlateAccess plated 0x3FFF8#64 8 5 :=
  ⟨plated_access 1 (.inl rfl), plated_access 2 (.inr (.inl rfl)), plated_access 4 (.inr (.inr (.inl rfl))), plated_access 8 (.inr (.inr (.inr rfl)))⟩
theorem witness_PlateWindowAccesses_stores : Mem.wf plated.m.mem = true ∧ PlateAccess plated 0x3FFF8#64 8 5 :=
  ⟨by decide, plated_access 8 (.inr (.inr (.inr rfl)))⟩
theorem witness_CachedLoadsAndStores : CachedAccess cached .load 0x40000038#64 8 leaf line ∧ CachedAccess cached .store 0x4000003F#64 1 leaf line :=
  ⟨⟨⟨rfl, rfl, rfl, rfl⟩, by decide, by decide, by decide, by decide, by decide, by decide, by decide, by decide, by decide, by decide, by decide,
    by decide, rfl, by decide⟩,
   ⟨⟨rfl, rfl, rfl, rfl⟩, by decide, by decide, by decide, by decide, by decide, by decide, by decide, by decide, by decide, by decide, by decide,
    by decide, rfl, by decide⟩⟩
/-- The plate window at 0 with the plate filling. -/
def filling : State := plated.setPlate 5 { Plate.reset with state := 1#2, attach := 2#2 }
theorem witness_ScalarAccessTraps : Settled plated ∧ (1#64).toNat % 2 ≠ 0 ∧ inPlateWindow plated.hart.user.pwb 0x40000#64 = true ∧
    0x40000 < plateOfs 0x40000#64 + 1 ∧ inPlateWindow plated.hart.user.pwb 0x80000#64 = true ∧ plateOfs 0x80000#64 + 8 ≤ 0x40000 ∧
    plated.hart.slots[1] = .empty ∧ filling.hart.slots[0] = .attached 5 ∧ (filling.plate (dieOfHart filling.cur * 128 + 5)).state ≠ 2#2 :=
  ⟨⟨rfl, rfl, by decide⟩, by decide, by decide, by decide, by decide, by decide, by decide, by decide, by decide⟩
/-- The executing hart has nothing queued and awaits no acknowledgement, as a test. -/
def idle (s : State) : Bool := s.hart.vq.isEmpty && s.hart.mq.isEmpty && decide (s.hart.acks.reg = 0) && decide (s.hart.acks.acq = 0)
/-- A computation completes, as a test. -/
def done {α : Type} : EStateM.Result Stop State α → Bool
  | .ok _ _ => true
  | .error _ _ => false
/-- A hart that awaits an acknowledgement, and one that stands at an instruction of which only the acquire is left. -/
def awaiting (s : State) : State := s.updHart fun h => { h with acks := { h.acks with acq := 1 } }
def acquiring : State := plated.updHart (·.keep (.acquire 0xFFFE#16 3#5 9#64 0#5))
theorem witness_AcquireLoadsReleaseStores : plated.hart.vq = [] ∧ plated.hart.mq = [] ∧ plated.hart.heldHere = none ∧
    (∃ bs t, loadBytes 0#64 4 plated = .ok bs t ∧ (decide (bs = [1#8, 2#8, 3#8, 4#8]) && idle t) = true) ∧
    (∃ bs t, loadBytes 0#64 8 plated = .ok bs t ∧ (decide (leNat bs = 0x8807060504030201) && idle t) = true) ∧
    (awaiting plated).hart.heldHere = none ∧ (∃ bs t, loadBytes 0#64 8 (awaiting plated) = .ok bs t ∧ decide (t.hart.acks.acq ≠ 0) = true) ∧
    acquiring.hart.heldHere = some (.acquire 0xFFFE#16 3#5 9#64 0#5) ∧ acquiring.hart.acks.acq = 0 ∧ plated.releaseLines plated.cur = [] ∧ Mem.wf plated.m.mem = true ∧
    (∃ p t, accessCheck .store 0#64 8 plated = .ok p t ∧ (idle t && (t.releaseWaits t.cur 1#2 t.aqrm).isNone && done (storeTo (toBytes 8 7) p (t.release t.cur 1#2 t.aqrm))) = true) :=
  ⟨rfl, rfl, by decide, completesWith (by decide), completesWith (by decide), by decide, completesWith (by decide), by decide, by decide, by decide,
    by decide, completesWith (by decide)⟩
/-- A user in rational mode. -/
def rational : State := user.updHart fun h => { h with user := { h.user with rat := true } }
theorem witness_FloatingArithmeticResults : user.rounding 1#1 0#3 = some .rn ∧ user.rational 1#1 = false ∧ rational.rounding 1#1 4#3 ≠ none ∧
    rational.rational 1#1 = true ∧ Settled rational := ⟨by decide, by decide, by decide, by decide, rfl, rfl, by decide⟩
theorem witness_FloatingArithmeticResults_reserved : Settled user ∧ user.rounding 1#1 5#3 = none ∧ user.rounding 0#1 4#3 = none := ⟨user_settled, by decide, by decide⟩
theorem witness_FloatConversionsAndMoves : rational.hart.user.rat = true ∧ user.hart.user.rat = false ∧ Settled user ∧
    ((fmt64.decode 0x7FF8000000000000).isNan || (fmt64.decode 0).isNan) = true ∧ ((rational.qval 1#5).isNan || (rational.qval 2#5).isNan) = false ∧
    (((withF rational fsNan 0#64).qval 1#5).isNan || (rational.qval 2#5).isNan) = true ∧ user.rounding 1#1 0#3 = some .rn ∧
    rational.rounding 1#1 4#3 ≠ none ∧ rational.rational 1#1 = true ∧ rational.rational 0#1 = false :=
  ⟨rfl, rfl, user_settled, by decide, by decide, by decide, by decide, by decide, by decide, by decide⟩
theorem witness_FormatsAndNans : 0x7BFF < 2 ^ fmt16.width ∧ (fmt16.decode 0x7BFF).isNan = false ∧ (fmt16.decode 0x7BFF).isInf = false ∧
    0xFF < 256 ∧ 0xFF ≠ 0x80 := by decide
theorem witness_FormatsAndNans_nans : (fmt16.decode (fmt16.sub .rn 0x7C00 0x7C00).1).isNan = true := by decide
theorem witness_RationalInstructionResults : Nat.gcd 3 2 = 1 ∧ fsRep 3 2 = true ∧ (withF rational (fsWord true 3 2) 0#64).qval 1#5 = .fin true 3 2 ∧
    (withF rational (fsInf true) 0#64).qval 1#5 = .inf true ∧ (withF rational fsNan 0#64).qval 1#5 = .nan false ∧ user.rounding 1#1 0#3 = some .rn ∧
    (withX user 6#64 4#64).xr 1#5 = 6#64 ∧ (withX user 6#64 0#64).xr 2#5 = 0#64 ∧ (withF rational (fsWord true 3 2) (fsWord true 1 2)).qval 2#5 = .fin true 1 2 := by
  decide

theorem user_quiet (slot pa : Nat) (h : isHbm (laOf pa) = true) (own : devOf pa = 0) : QuietHome user slot pa := by
  refine ⟨by decide, h, own, ?_, rfl, fun _ _ => rfl, rfl, rfl, rfl, rfl⟩
  show (0 : Nat) = user.keyAt slot pa
  unfold State.keyAt
  rw [show user.fab.dev.toNat = 0 from rfl]
  simp only [own, if_pos]; rfl
theorem witness_FarAtomicAtItsHome : QuietHome user 1 0x7FFFFFFFF8 ∧ 0x7FFFFFFFF8 % 8 = 0 ∧ 0x7FFFFFFFFC % 4 = 0 ∧
    (user.addPoison 0x8000).isPoisoned (0x200000 / 64) = true ∧ (∀ k, k < 128 → ((user.addPoison 0x8000).slice k).regs = []) ∧
    devOf 0x200000 = (user.addPoison 0x8000).fab.dev.toNat ∧ ((user.addPoison 0x8000).slice ((user.addPoison 0x8000).homeKey 0x200000)).lines = [] :=
  ⟨user_quiet _ _ (by decide) (by decide), by decide, by decide, by decide, fun _ _ => rfl, by decide, rfl⟩
/-- The cached page as a synchronised one. -/
def synced : State := cached.setCore 0 { CoreState.reset with dtlb := [{ leaf with attr := 0x106B#13 }] }
/-- The state of a far atomic before its acquire: what is tested of it. -/
def atomicAt (s : State) (p : State → Bool) : Bool :=
  match homeCheck 0x40000000#64 8 s with
  | .ok (pa, _) t =>
    let u := t.release t.cur 1#2 s.aqrm
    let slot := keySlot u.hart.ctx
    let r := (u.pushHome slot u.cur (pa / 64) (wordMask (pa % 64) 8)).atomicHome slot pa .add true 5#64 0#64
    t.hart.vq.isEmpty && t.hart.mq.isEmpty && decide (t.hart.acks.reg = 0) && (t.releaseWaits t.cur 1#2 s.aqrm).isNone && !r.2.poisoned && p r.1
  | .error .. => false
theorem witness_FarAtomicInstructions : atomicAt synced idle = true ∧ atomicAt (awaiting synced) (fun v => decide (v.hart.acks.acq ≠ 0)) = true ∧
    synced.hart.heldHere = none ∧ acquiring.hart.heldHere = some (.acquire 0xFFFE#16 3#5 9#64 0#5) ∧ Idle acquiring ∧
    (withX user 4#64 0#64 |>.xr 1#5).toNat % 8 ≠ 0 ∧ inPlateWindow plated.hart.user.pwb 8#64 = true ∧ Settled plated :=
  ⟨by decide, by decide, by decide, by decide, ⟨rfl, rfl, rfl, rfl⟩, by decide, by decide, rfl, rfl, by decide⟩
/-- A core with a clean line of region 1 and an owned line of region 2. -/
def mixed : State := user.setCore 0 { CoreState.reset with l1d := [line, { line with line := 0x9000, rid := 2#4, wo := 1#16, wd := 1#16 }] }
theorem witness_AcquireReleaseOwnAndDisown : Idle mixed ∧ inRegions (regionMask 1#4) line.rid = true ∧ inRegions (regionMask 1#4) 2#4 = false ∧
    user.releaseLines user.cur = [] ∧ user.releaseWaits user.cur 1#2 (regionMask 1#4) = none ∧ Idle (user.release user.cur 1#2 (regionMask 1#4)) :=
  ⟨⟨rfl, rfl, rfl, rfl⟩, by decide, by decide, by decide, by decide, user_idle⟩
theorem witness_AcquireReleaseOwnAndDisown_lines : (∃ t, homeAddr 0x40000000#64 cached = .ok (0x200000, 0xEB#13) t) ∧ Attr.rid 0xEB#13 ≠ 0#4 ∧
    Attr.sy 0xEB#13 = false ∧ (∃ t, homeAddr 0x40000000#64 synced = .ok (0x200000, 0x106B#13) t) ∧ Attr.sy 0x106B#13 = true ∧
    Settled plated ∧ inPlateWindow plated.hart.user.pwb 8#64 = true :=
  ⟨completes (by decide), by decide, by decide, completes (by decide), by decide, ⟨rfl, rfl, by decide⟩, by decide⟩
/-- A hart that stands at a `qlock` whose ticket 3 is granted, and one that polls for it. -/
def granted : State := user.updHart fun h => { h with held := [{ pc := h.pc, sup := false, inh := false, kept := .qlock 0x200000 3#32 false true }] }
def polling : State := user.updHart fun h => { h with held := [{ pc := h.pc, sup := false, inh := false, kept := .qlock 0x200000 0#32 true false }] }
/-- The lock word's slice with a waiter parked for ticket 1. -/
def lockHome (s : State) : State := s.homeStore 1 0x200000 (toBytes 8 2)
def parkedLock : State := (lockHome user).setSlice 2 { SliceState.reset with parks := [{ pa := 0x200000, ticket := 1#64, hart := 0, launch := false }] }
theorem witness_QueueLocks : Idle granted ∧
    granted.hart.held = { pc := granted.hart.pc, sup := granted.hart.sup, inh := granted.hart.irq.inh, kept := .qlock 0x200000 3#32 false true } :: [] ∧
    (∃ pa t, lockCheck 0x40000000#64 synced = .ok pa t ∧ (idle t &&
      (let u := t.release t.cur 1#2 (regionMask 0#4); (u.advanceServing (keySlot u.hart.ctx) pa).2)) = true) :=
  ⟨⟨rfl, rfl, rfl, rfl⟩, by decide, completesWith (by decide)⟩
theorem witness_QueueLocks_home : 0x200000 < 2 ^ 52 ∧ 0x200000 % 8 = 0 ∧ isHbm (laOf 0x200000) = true ∧
    QuietHome user 1 0x200000 ∧ (user.slice (user.homeKey 0x200000)).tickets = [] ∧ parkedLock.homeKey 0x200000 = 2 ∧
    (parkedLock.slice 2).parks = [{ pa := 0x200000, ticket := ((lockWord parkedLock 1 0x200000).2 + 1#32).zeroExtend 64, hart := 0, launch := false }] ∧
    (polling.getHart 0).held = [{ pc := 0x1000#64, sup := false, inh := false, kept := .qlock 0x200000 0#32 true false }] ∧
    (lockWord (lockHome polling) 1 0x200000).2 = 0#32 :=
  ⟨by decide, by decide, by decide, user_quiet _ _ (by decide) (by decide), by decide, by decide, by decide, rfl, by decide⟩
/-- A launch of three harts, the executing one and two others of die 0, one core a cluster. -/
def launch : Launch :=
  { slot := 0#3, record := 0x40000000#64, handle := 0#64, compVa := 0#64, dext := 1, cext := 3, harts := [0, 16, 32], done := [], want := 1, least := 1 }
def mate : Hart := { Hart.reset with phase := .running, launch := some 4, grant := { Hart.reset.grant with orb := true } }
def team : State :=
  let s := (plated.updHart fun h => { h with launch := some 4 }).updDisp fun d => { d with launches := [(4, launch)] }
  { s with others := [(16, mate), (32, { mate with phase := .idle, launch := none })] }
def asleep (u : Word) : State := user.updHart fun h => { h with phase := .waiting u 3#5 }
theorem witness_WaitAndWake : (user.updHart fun h => { h with latch := 2#7 }).hart.latch ≠ 0#7 ∧ user.hart.latch = 0#7 ∧ user.hart.hasRecord = false ∧
    ¬ (user.xr 0#5 ≠ 0#64 ∧ (user.xr 0#5).toNat ≤ user.time) ∧ user.logicalHart 0xFFFF#64 = none ∧ Settled user ∧
    team.logicalHart 1#64 = some 16 ∧ team.hasRetired 16 = false ∧ team.logicalHart 2#64 = some 32 ∧ team.hasRetired 32 = true ∧
    (team.getHart 16).phase ≠ .idle ∧ (team.getHart 16).launch.getD 128 = (4#32).toNat ∧ (user.getHart 5).phase = .idle ∧ ((asleep 5#64).getHart 0).phase = .waiting 5#64 3#5 ∧
    (5#64).toNat ≤ ({ asleep 5#64 with time := 5 } : State).time ∧ (asleep 5#64).time < (5#64).toNat :=
  ⟨by decide, rfl, by decide, by decide, by decide, user_settled, by decide, by decide, by decide, by decide, by decide, by decide, by decide, rfl, by decide,
    by decide⟩
theorem witness_ControlRegisterAccess : user.creg 0x0FF#16 = none ∧ user.creg 0x00C#16 ≠ none ∧ Idle user ∧ (0x00C#16).toNat < 0x100 ∧
    user.creg 0x106#16 ≠ none ∧ 0x100 ≤ (0x106#16).toNat ∧ user.hart.sup = false ∧ Settled user :=
  ⟨by decide, by decide, user_idle, by decide, by decide, by decide, rfl, user_settled⟩
/-- A `vadd` as it stands in a queue. -/
def entry : QEntry := vectored.qentry (.vadd 1#5 2#5 3#5 0#1 0#1)
/-- A supervisor that serves a vector queue check. -/
def serving : State := super.updHart fun h => { h with vq := [entry], trap := { h.trap with qk := 1#2 } }
theorem witness_SystemCallsTrapAndReturn : Settled user ∧ user.hart.sup = false ∧ user.hart.pc.toNat % 4 = 0 ∧ user.hart.frozen = false ∧
    user.hart.trap.frz = false ∧ super.hart.sup = true ∧ super.hart.trap.qk = 0#2 ∧ serving.hart.vq = [entry] ∧ serving.hart.trap.prior = false ∧
    entry.drain = [] := ⟨user_settled, rfl, by decide, rfl, rfl, rfl, rfl, rfl, rfl, rfl⟩
def handling : State := user.updHart fun h => { h with irq := { h.irq with inh := true, cause := 1#4 } }
def invalidating : State := super.updHart fun h => { h with held := [{ pc := h.pc, sup := true, inh := false, kept := .tlbinv }] }
theorem witness_HandlersHaltsAndInvalidations : handling.hart.irq.inh = true ∧ handling.hart.irq.cause ≠ 3#4 ∧ user.hart.irq.inh = false ∧
    user.copying user.cur = false ∧ user.inOrbit user.cur = false ∧ invalidating.hart.heldHere = some .tlbinv ∧ invalidating.hart.acks.tlb = 0 ∧
    super.hart.heldHere = none ∧ (super.ctx super.hart.ctx.toNat).dies.length ≠ 0 ∧ (3#64).toNat < 4 :=
  ⟨rfl, by decide, rfl, by decide, by decide, by decide, rfl, by decide, by decide, by decide⟩
/-- A supervisor with the vector configuration of `vectored`. -/
def vectorSuper : State := vectored.updHart fun h => { h with sup := true }
/-- A state in which a check passes and changes nothing, found by evaluation. -/
theorem passes {m : M Unit} {s : State} (h : (match m s with | .ok _ t => decide (t = s) | .error _ _ => false) = true) : m s = .ok () s := by
  split at h
  · next u t e => simp at h; subst h; exact e
  · simp at h
theorem vector_ready (i : Instr) (h : (match vecCheck i vectorSuper with | .ok _ t => decide (t = vectorSuper) | .error _ _ => false) = true) :
    VecReady vectorSuper i := ⟨rfl, rfl, rfl, ⟨by decide, by decide, by decide, by decide, by decide, by decide, by decide⟩, passes h⟩
/-- A small configuration in a hart that holds a plate. -/
def savable : State := plated.updHart fun h =>
  { h with grant := { h.grant with vsz := 4#10 }, vec := { h.vec with ill := false, request := 0x17#5, b := 128, vl := 1#14, vtaglo := 0xDDDDDDDDDDDDDDDD#64 } }
theorem witness_VectorConfigurationAndState : Idle vectored ∧ vectored.hart.vec.ill = false ∧ vectored.hart.vec.vcap < 2 ^ 14 ∧ Idle user ∧ Settled user ∧
    user.hart.vec.ill = true := ⟨⟨rfl, rfl, rfl, rfl⟩, rfl, by decide, user_idle, user_settled, rfl⟩
theorem witness_VectorConfigurationAndState_records : Idle plated ∧ plated.hart.vec.ill = true ∧
    (∃ (x : Unit) (t : State), storeWords 0#64 32 (plated.hart.vec.saveHeader false 0) plated = .ok x t) ∧ Idle savable ∧ savable.hart.vec.ill = false ∧
    (∃ items t, saveItems savable.hart.vec savable.hart.vec.items 0 savable = .ok items t ∧
      (let bs := savable.hart.vec.saveHeader (savable.hart.vec.saveData items).2 (savable.hart.vec.saveData items).1.length ++ (savable.hart.vec.saveData items).1
       done (storeWords 0#64 (bs.length / 8) bs t)) = true) ∧
    (∃ h t, loadWords 0#64 32 plated = .ok h t ∧ (!headerOk h t.hart.grant.vsz.toNat) = true) ∧
    (∃ h t, loadWords 0#64 32 (after (.vsave 3#5 0#5) plated) = .ok h t ∧ (headerOk h t.hart.grant.vsz.toNat && (headerWord h 0x60).getLsbD 5) = true) :=
  ⟨⟨rfl, rfl, rfl, rfl⟩, rfl, (completesWith (p := fun _ _ => true) (by decide +kernel)).imp fun _ => .imp fun _ => (·.1), ⟨rfl, rfl, rfl, rfl⟩, rfl,
    completesWith (by decide +kernel), completesWith (by decide +kernel), completesWith (by decide +kernel)⟩
theorem witness_VectorConfigurationAndState_moves : Idle vectored ∧ vectored.hart.vec.ill = false ∧ vectored.hart.vec.vcap < 2 ^ 14 ∧ Settled user ∧
    user.hart.vec.ill = true ∧ vectored.hart.vec.admits (vuse (.pcnt 1#5 2#5)) = true ∧ vectored.hart.vec.admits (vuse (.vext 1#5 2#5 3#5)) = true ∧
    (vectored.hart.vec.ty 2).isFloat = false ∧ (1#64).toNat % 64 ≠ 0 ∧ (64#64).toNat % 64 = 0 :=
  ⟨⟨rfl, rfl, rfl, rfl⟩, rfl, by decide, user_settled, rfl, by decide, by decide, by decide, by decide, by decide⟩
theorem witness_VectorInstructionsStayInTheirShare : isVectorRegister (.vadd 1#5 2#5 3#5 0#1 0#1) = true ∧ VecReady vectorSuper (.vadd 1#5 2#5 3#5 0#1 0#1) :=
  ⟨rfl, vector_ready _ (by decide)⟩
theorem witness_VectorArithmeticByElement : VecReady vectorSuper (.vadd 1#5 2#5 3#5 0#1 0#1) ∧ VecReady vectorSuper (.vneg 1#5 2#5 0#1) ∧
    vectorSuper.hart.vec.vrows.toNat = 1 ∧ vectorSuper.hart.vec.vl.toNat = 4 ∧ Mem.wf vectorSuper.m.mem = true :=
  ⟨vector_ready _ (by decide), vector_ready _ (by decide), by decide, by decide, by decide⟩
def fullQueue : State := vectored.updHart fun h => { h with vq := List.replicate 16 entry }
theorem witness_QueuedInstructions : vecCheck (.vadd 1#5 2#5 3#5 0#1 0#1) vectored = .ok () vectored ∧ vectored.hart.sup = false ∧
    vecCheck (.vadd 1#5 2#5 3#5 0#1 0#1) fullQueue = .ok () fullQueue ∧ ¬ fullQueue.hart.vq.length < 16 ∧ vectored.hart.vq.length < 16 :=
  ⟨passes (by decide), rfl, passes (by decide), by decide, by decide⟩
/-- A user with accumulators, and one whose matrix queue is full. -/
def tiled : State := user.updHart fun h => { h with grant := { h.grant with acnt := 4#3 } }
def tiledFull : State := tiled.updHart fun h => { h with mq := List.replicate 8 (tiled.qentry (.mclr 0#5)) }
theorem witness_QueuedInstructions_matrix : isMatrixQueue (.mclr 0#5) = true ∧ matrixCheck (.mclr 0#5) tiled = .ok () tiled ∧ tiled.hart.sup = false ∧
    tiled.hart.mq.length + (tiled.getHart 1).mq.length < 8 ∧ matrixCheck (.mclr 0#5) tiledFull = .ok () tiledFull ∧
    ¬ tiledFull.hart.mq.length + (tiledFull.getHart 1).mq.length < 8 :=
  ⟨rfl, passes (by decide), rfl, by decide, passes (by decide), by decide⟩
/-- A queued load and an earlier, or later, queued tile load, both of which trap. -/
def vldTraps (seq : Nat) : QEntry := { vectored.qentry (.vld 1#5 2#5 0#1 0#1) with xa := 1#64, seq }
def tldTraps : QEntry := { vectored.qentry (.tld 1#5 2#5) with xa := 0x40001#64, seq := 1, tshape := Vector.replicate 8 0x01012#20 }
def trapping (seq : Nat) : State := vectored.updHart fun h => { h with grant := { h.grant with tcnt := 8#4 }, vq := [vldTraps seq], mq := [tldTraps] }
theorem witness_QueuedInstructions_performed : fullQueue.hart.vq = entry :: List.replicate 15 entry ∧ fullQueue.vecBlocked entry = false ∧
    (match runEntry entry fullQueue with | .ok _ _ => true | _ => false) = true ∧ entry.drain = [] ∧
    (trapping 0).matBlocked tldTraps = false ∧ (∃ a t, runEntry tldTraps (trapping 0) = .error (.trap tcMisaligned a) t) ∧
    (trapping 0).hart.vq = vldTraps 0 :: [] ∧ (vldTraps 0).seq < tldTraps.seq ∧ (trapping 0).blocked false (vldTraps 0) = false ∧
    (∃ a t, runEntry (vldTraps 0) (trapping 0) = .error (.trap tcMisaligned a) t) ∧
    (∀ e ∈ (trapping 2).hart.vq.head?, tldTraps.seq ≤ e.seq) ∧ (trapping 2).matBlocked tldTraps = false ∧
    (∃ a t, runEntry tldTraps (trapping 2) = .error (.trap tcMisaligned a) t) ∧ (trapping 2).hart.trap.trentry.getLsbD 0 = true :=
  ⟨rfl, by decide, by decide, rfl, by decide, trapsWith (by decide), rfl, by decide, by decide, trapsWith (by decide), by decide, by decide,
    trapsWith (by decide), by decide⟩
theorem witness_QueuedInstructions_performed_super : vecCheck (.vadd 1#5 2#5 3#5 0#1 0#1) vectorSuper = .ok () vectorSuper ∧
    (∃ (x : Unit) (t : State), runEntry (vectorSuper.qentry (.vadd 1#5 2#5 3#5 0#1 0#1)) vectorSuper = .ok x t) ∧
    (let s := withX vectorSuper 0#64 1#64
     vecCheck (.vld 1#5 2#5 0#1 0#1) s = .ok () s ∧ ∃ a t, runEntry (s.qentry (.vld 1#5 2#5 0#1 0#1)) s = .error (.trap tcMisaligned a) t) :=
  ⟨passes (by decide), (completesWith (p := fun _ _ => true) (by decide)).imp fun _ => .imp fun _ => (·.1), passes (by decide), trapsWith (by decide)⟩
def matrixed : State := super.updHart fun h => { h with grant := { h.grant with acnt := 4#3 } }
theorem witness_EmptyVectorsAccessNothing : ((vectorSuper.updVec fun v => { v with vl := 0#14 }).hart.vec.vl = 0#14) ∧
    vecCheck (.vld 1#5 2#5 0#1 0#1) (vectorSuper.updVec fun v => { v with vl := 0#14 }) = .ok () (vectorSuper.updVec fun v => { v with vl := 0#14 }) ∧
    (3#5).toNat < matrixed.hart.grant.acnt.toNat ∧ matrixed.hart.grant.abase.toNat + matrixed.hart.grant.acnt.toNat ≤ 16 ∧
    (∃ q ∈ tiledFull.hart.mq, isMatrixQueue q.instr = true) ∧ tiledFull.hart.sup = false :=
  ⟨rfl, passes (by decide), by decide, by decide, ⟨_, List.mem_cons_self, rfl⟩, rfl⟩
/-- The launch with all three harts running; plate 5 drains from slot 0 to slot 2 of hart 16, or to the pool. -/
def crew : State := { team with others := [(16, mate), (32, mate)] }
def draining (to' : HandTo) : State :=
  let s := crew.setPlate 5 { Plate.reset with state := 3#2, held := 2#2, attach := 2#2, hand := some to' }
  ({ s with others := [(16, { mate with slots := mate.slots.set 2 .pending }), (32, mate)] } : State).updHart fun h => { h with slots := h.slots.set 0 .empty }
theorem witness_PlatesAndTheirHandOvers : 16 ≤ (16#64).toNat ∧ ¬ 16 ≤ (15#64).toNat ∧ plated.hart.slotAt 0 ≠ .empty ∧ plated.hart.slotAt 1 = .empty ∧
    plated.pool plated.die plated.hart.ctx = [] ∧ (plated.setPlate 9 { Plate.reset with attach := 1#2 }).pool 0 0#3 = [9] ∧ HoldsQuietly plated 0 5 ∧
    (plated.plate (plated.die * 128 + 5)).state = 2#2 ∧ (1#64 ≠ 0#64 ∧ 1#64 ≠ 2#64) ∧ (0x100000#64).toNat / 2 ^ 20 ≠ 0 ∧
    (∀ p, plated.hart.slotAt 1 ≠ .attached p) := ⟨by decide, by decide, by decide, by decide, by decide, by decide,
      ⟨by decide, by decide, rfl, rfl, rfl, by decide, by decide⟩, by decide, by decide, by decide, fun p h => by
        cases (show plated.hart.slotAt 1 = .empty by decide).symm.trans h⟩
theorem crew_quiet : HoldsQuietly crew 0 5 := ⟨by decide, by decide, rfl, rfl, rfl, by decide, by decide⟩
theorem witness_PlatesAndTheirHandOvers_pgive : crew.logicalHart 9#64 = none ∧ Settled crew ∧ ((0x20001#64) &&& 0xFFFF#64) = 1#64 ∧
    crew.logicalHart 1#64 = some 16 ∧ crew.hasRetired 16 = false ∧ dieOfHart 16 = crew.die ∧ (crew.getHart 16).slotAt 2 = .empty ∧
    ((crew.getHart 16).grant.orb = true ∧ 14 ≤ 0xE0001 / 2 ^ 16) ∧ (crew.plate (crew.die * 128 + 5)).state = 2#2 ∧ HoldsQuietly team 0 5 ∧
    team.logicalHart 2#64 = some 32 ∧ team.hasRetired 32 = true :=
  ⟨by decide, ⟨rfl, rfl, by decide⟩, by decide, by decide, by decide, by decide, by decide, by decide, by decide,
    ⟨by decide, by decide, rfl, rfl, rfl, by decide, by decide⟩, by decide, by decide⟩
theorem witness_PlatesAndTheirHandOvers_reattach : ((draining (.slot 16 2 true)).plate 5).hand = some (.slot 16 2 true) ∧ ((draining (.slot 16 2 true)).plate 5).state = 3#2 ∧
    (draining (.slot 16 2 true)).plateUsed 5 = false ∧ ((draining (.slot 16 2 true)).getHart 16).slotAt 2 = .pending ∧
    ((draining .pool).plate 5).hand = some .pool ∧ ((draining (.slot 16 3 true)).getHart 16).slotAt 3 ≠ .pending ∧ (plated.plate 5).state ≠ 3#2 := by decide
/-- A hart that executes an orbit, with its slots 14 and 15 kept for it. -/
def executor : State := user.updHart fun h => { h with grant := { h.grant with orb := true }, launch := some 4 }
theorem witness_PlatesAndTheirHandOvers_executor : executor.hart.grant.orb = true ∧ Settled executor ∧ (14#64).toNat < 16 ∧ 14 ≤ (14#64).toNat := ⟨rfl, ⟨rfl, rfl, by decide⟩, by decide, by decide⟩

/-- A station without tiles, and an orbit of two stations in a state, at number 0. -/
def station : Station :=
  { hart := 16, pro := nullTile, retro := nullTile, round := 0, task := false, looked := false, ended := false, markNext := 0, markPrev := 0, inPro := [],
    inRetro := [] }
def orbitOf (st : BitVec 2) : Orbit :=
  { Orbit.reset with state := st, launch := some 4, ephVa := 0x200#64, taskVa := 0x100#64, entries := 1, lapLimit := 2, taskCount := 1, laps := 2, handlers := [0x4000#64], stations := [station, { station with hart := 32 }] }
def orbiting (o : Orbit) : State := crew.updDisp fun d => { d with orbits := [(0, o)] }
/-- The crew with the record of an orbit of its harts 1 and 2 in the plate, from offset 64. -/
def recorded : State := crew.homeStore 0 (plateLa 0 5 64) (toBytes 64 (0x0000_0101_0202_0001 * 2 ^ 128 + 0x0002_0001 * 2 ^ 256))
/-- The parts of an `orbdef` before its status 3, as a test. -/
def defines : Bool :=
  match loadDwords 64#64 8 recorded with
  | .ok r t => !recordBad r && decide (recByte r 0x14 < 16) && (List.range 10).all (fun i => decide (recByte r (0x16 + i) = 0)) &&
    (List.range 16).all (fun k => decide (k < recByte r 0x12 ∨ recHalf r (0x20 + 2 * k) = 0)) &&
    (match needHarts ((List.range (recByte r 0x12)).map fun k => recHalf r (0x20 + 2 * k)) t with | .ok harts u => decide (u = t) && t.executorsOk harts | .error .. => false)
  | .error .. => false
/-- The parts of an `orbgo` that sets the orbit running, as a test. -/
def goes (s : State) (o : Orbit) : Bool :=
  match doRelease 3#2 (regionMask 0#4) s with
  | .ok _ t => match loadDwords o.taskVa o.taskCount t with
    | .ok hs u => match loadEphemeris o.ephVa o.entries u with
      | .ok es w => hs.all (fun x => decide (x.toNat % 4 = 0)) && es.all (fun e => !e.2 && decide (e.1.task.toNat < o.taskCount)) &&
        decide (((es.map (·.1)).filter (·.fired)).length ≠ o.entries) && o.stations.all (fun x => !w.hasRetired x.hart && (w.getHart x.hart).grant.orb &&
          !(w.busyClusters s.hart.ctx (some 0)).contains (clusterOf x.hart)) && decide (w.hart = s.hart) && decide (w.disp = s.disp)
      | .error .. => false
    | .error .. => false
  | .error .. => false
theorem witness_OrbitInstructionResults_define : (64#64).toNat % 64 = 0 ∧ defines = true ∧ (recorded.orbit 0).state = 0#2 ∧
    goes (orbiting (orbitOf 1#2)) (orbitOf 1#2) = true := by decide +kernel
theorem witness_OrbitInstructionResults_place : descBad 0x100#64 = false ∧ (orbiting (orbitOf 1#2)).ownOrbit (descHandle 0x100#64) = some 0 ∧
    HoldsQuietly (orbiting (orbitOf 1#2)) 0 5 ∧ (orbitOf 1#2).stations[descStation 0x100#64]? = some { station with hart := 32 } ∧
    (∀ x ∈ (orbitOf 1#2).stations, x.pro.id ≠ (0x100#64).extractLsb' 16 12) ∧ ((orbiting (orbitOf 1#2)).getHart 32).slotAt 14 = .empty ∧
    32 ≠ (orbiting (orbitOf 1#2)).cur :=
  ⟨by decide, by decide, ⟨by decide, by decide, rfl, rfl, rfl, by decide, by decide⟩, by decide, by decide, by decide, by decide⟩
theorem witness_OrbitInstructionResults : (1#64).toNat % 64 ≠ 0 ∧ Settled executor ∧ descBad 0x2000#64 = true ∧ descBad 0x8000#64 = false ∧
    (0x8000#64).getLsbD 15 = true ∧ descHandle 0x8000#64 = 0#64 ∧ (orbiting (orbitOf 3#2)).ownOrbit (descHandle 0x8000#64) = some 0 ∧ ((orbiting (orbitOf 3#2)).orbit 0).state = 3#2 ∧
    (orbiting (orbitOf 1#2)).ownOrbit 0#64 = some 0 ∧ ((orbiting (orbitOf 1#2)).orbit 0).state = 1#2 ∧ (orbiting (orbitOf 1#2)).orbitsStarted < 4 ∧
    (orbiting (orbitOf 1#2)).ownOrbit 1#64 = none ∧ ((orbitOf 1#2).stations[descStation 0x100#64]?).isSome = true ∧ descBad 0x100#64 = false ∧
    (0x100#64).extractLsb' 16 12 ≠ 0xFFF#12 ∧
    recordBad [0#64, 0#64, 0x0000_0101_0002_0001#64, 0#64, 0#64, 0#64, 0#64, 0#64] = false :=
  ⟨by decide, ⟨rfl, rfl, by decide⟩, by decide, by decide, by decide, by decide, by decide, by decide, by decide, by decide, by decide, by decide, by decide,
    by decide, by decide, by decide⟩
/-- A station with a tile of each family, at its hart's slots, and its orbit with an entry for the pair. -/
def laden : Station := { station with pro := { id := 1#12, plate := some 7 }, retro := { id := 2#12, plate := some 8 } }
def entryOf (fired : Bool) : EphEntry := { pro := 1#12, retro := 2#12, task := 0#16, fired, arg := 0#64, pa := 0x300000 }
def lapped (f : Station → Station) (fired : Bool) : Orbit := { orbitOf 2#2 with stations := [f laden, f { station with hart := 32 }], eph := [entryOf fired] }
def rounds (o : Orbit) : State :=
  let s := orbiting o
  { s with others := [(16, { mate with slots := (mate.slots.set 14 (.attached 7)).set 15 (.attached 8) }), (32, mate)] }
def lastRound : Nat := (orbitOf 2#2).lap - 1
theorem witness_OrbitRoundsAndLaps : (rounds (lapped id false)).orbitRuns 0 = true ∧ (orbiting (orbitOf 1#2)).orbitRuns 0 = false ∧
    (rounds (lapped id false)).holdsTile 16 14 laden.pro = true ∧ (rounds (lapped id false)).holdsTile 16 15 laden.retro = true ∧
    laden.looked = false ∧ laden.ended = false ∧ (lapped id true).eph = [entryOf true] ∧
    (let t := lapped (fun t => { t with looked := true, round := lastRound }) true; t.lastRound lastRound = true ∧ t.complete = false) ∧
    (lapped (fun t => { t with looked := true }) true).lastRound 0 = false ∧ 2 ≤ (lapped id true).stations.length ∧
    (lapped (fun t => { t with looked := true, ended := true, round := lastRound }) true).lapEnded = true ∧
    (lapped id true).lapLimit ≤ (lapped id true).laps ∧ ({ lapped id true with laps := 1 } : Orbit).laps < (lapped id true).lapLimit ∧
    (let o : Orbit := { lapped id true with complete := true }
     (rounds o).orbitRuns 0 = true ∧ (∀ t ∈ o.stations.map Station.settle, t.beside = [] ∧ (rounds o).holdsTile t.hart 14 t.pro = true ∧
       (rounds o).holdsTile t.hart 15 t.retro = true) ∧ o.laps < 256 ∧ o.fcount ≤ o.entries ∧ o.entries < 65536) := by decide
theorem test_orbit_round : ((after .orbitRound { orbiting (orbitOf 2#2) with msg := orbitMsg 0 0 0 false }).orbit 0).stations.map (·.looked) = [true, false] := by decide

def ported : State := user.updHart fun h =>
  { h with outstanding := 16, e1 := [{ word := 7#64, mem := false, dev := none, lo := 0, hi := 0, region := 0#4, scope := 1#2, line := 0, lineRid := 0#4 }],
           e2 := [{ word := 9#64, region := 0#4, lines := [] }] }
theorem witness_EnginePortInstructions : (2#5).toNat < 3 ∧ 8 ≤ (8#5).toNat ∧ (3#5).toNat < 8 ∧ user.hart.e1 = [] ∧ user.hart.e2 = [] ∧ Idle ported ∧
    ported.hart.e1.length = 1 ∧ ported.hart.e2.length = 1 ∧ 16 ≤ ported.hart.outstanding ∧ (64#64).toNat % 64 = 0 ∧ (1#64).toNat % 64 ≠ 0 ∧ Settled ported :=
  ⟨by decide, by decide, by decide, rfl, rfl, ⟨rfl, rfl, rfl, rfl⟩, rfl, rfl, by decide, by decide, by decide, rfl, rfl, by decide⟩
/-- The parts of an `epush` of the block at the cached page, as a test. -/
def pushes (s : State) : Bool :=
  match blockPlaces 0x40000000#64 7 0x40000000#64 s with
  | .ok (p :: ps) t => idle t && (match blockRead 0x40000000#64 (p :: ps) t with
    | .ok b u => done (doRelease (u.copyOf b p).scope 0xFFFE#16 u)
    | .error .. => false)
  | _ => false
theorem witness_EnginePortInstructions_push : (0x40000000#64).toNat % 64 = 0 ∧ cached.hart.outstanding < 16 ∧ pushes cached = true := by decide +kernel
theorem test_epop : (after (.epop 3#5 1#5) ported).xr 3#5 = 7#64 := by decide
/-- A copy command of the executing hart from a block of zeros, active or not, and one that failed its checks. -/
def copyCmd (active : Bool) : CopyCmd := { user.copyOf (List.replicate 64 0#8) (.plate 0 0) with active, failed := some 2#8 }
def copying (c : CopyCmd) : State := user.setCluster 0 { ClusterState.reset with copies := [c] }
theorem witness_CopiesStartAndComplete : (((copying (copyCmd false)).cluster 0).copies.filter (·.active)).length < 16 ∧
    ((copying (copyCmd false)).cluster 0).copies = [copyCmd false] ∧ ((copying (copyCmd true)).cluster 0).copies = [copyCmd true] ∧
    (copyCmd true).active = true ∧ (copying (copyCmd true)).ctxRuns (copyCmd true).ctx.toNat 0 = true ∧ (copyCmd true).failed = some 2#8 :=
  ⟨by decide, rfl, rfl, rfl, by decide, rfl⟩
/-- A copy of one byte from the plate in slot 0 to the empty plate in slot 1, and the parts of its end, as a test. -/
def sideAt (va : Word) : CopySide := { kind := 1#2, base := va, region := 0#4, counts := [1#32], strides := [0#64] }
def byteCopy : CopyCmd := { copyCmd true with failed := none, size := 1#8, ordered := true, src := sideAt 0#64, dst := sideAt 0x80000#64, pwb := 1#64 }
def copyHome : State :=
  let s := (plated.updHart fun h => { h with slots := h.slots.set 1 (.attached 6) }).setPlate 6 { Plate.reset with attach := 2#2, target := 1 }
  s.setCluster 0 { ClusterState.reset with copies := [byteCopy] }
def copyEnds (s : State) (c : CopyCmd) : Bool :=
  match s.copyBegin c with
  | some (u, c') => decide (c'.progress + 1 = c'.src.total) && decide (c'.served < 256 / max c'.size.toNat 1) &&
    (match State.copyRun { u with free := u.free + 1 } [c'.progress] { u with free := u.free + 1 } c' with
     | (v, c'', none) => (v.copyFlush c'' true).stop.isNone
     | _ => false)
  | none => false
theorem witness_CopiesStartAndComplete_end : (copyHome.cluster 0).copies = byteCopy :: [] ∧ copyHome.ctxRuns byteCopy.ctx.toNat 0 = true ∧
    byteCopy.failed = none ∧ copyEnds copyHome byteCopy = true := ⟨rfl, by decide, rfl, by decide +kernel⟩
def launching (stage : Nat) (parked : Bool) : State := user.updHart fun h =>
  { h with held := [{ pc := h.pc, sup := false, inh := false, kept := .klaunch 5#64 0x200000 0x201000 [] stage parked }] }
theorem witness_KernelLaunch : ¬ ((0x100000000#64).toNat / 2 ^ 32 = 0) ∧ (0x3F#64).toNat / 2 ^ 7 % 2 ^ 9 = 0 ∧ user.hart.heldHere = none ∧ Settled user ∧
    (1#64).toNat % 64 ≠ 0 ∧ (launching 2 false).hart.heldHere = some (.klaunch 5#64 0x200000 0x201000 [] 2 false) ∧ (0x200000 + 8) % 8 = 0 ∧
    QuietHome (launching 1 true) ((launching 1 true).klaunchSlot 0) (0x200000 + 8) ∧ ((launching 1 true).slice 0).parks = [] :=
  ⟨by decide, by decide, by decide, user_settled, by decide, by decide, by decide,
    ⟨by decide, by decide, by decide, rfl, rfl, fun _ _ => rfl, rfl, rfl, rfl, by decide⟩, rfl⟩
/-- The parts of a `klaunch` that its reservation refuses, as a test. -/
def refused (sel : Word) (s : State) : Bool :=
  match templatePlaces 0#64 4 s with
  | .ok ps t => match doRelease 3#2 0xFFFE#16 t with
    | .ok _ u => match blockRead 0#64 ps u with
      | .ok image w => (match w.klaunchReserve sel image with | (_, .error st) => decide (st < 256) | _ => false)
      | .error .. => false
    | .error .. => false
  | .error .. => false
theorem witness_KernelLaunch_refused : (0x40#64).toNat / 2 ^ 32 = 0 ∧ (0x40#64).toNat / 2 ^ 7 % 2 ^ 9 = 0 ∧ plated.hart.heldHere = none ∧
    refused 0x40#64 plated = true := by decide +kernel
/-- The cached page with its watch table full of another hart's watches. -/
def watchFull : State := cached.setSlice 2 { SliceState.reset with watches := List.replicate 256 (0x200000, 5) }
theorem witness_WatchesArmAndFire : (user.getHart 0).phase = .running ∧ (super.getHart 0).sup = true ∧ inPlateWindow user.hart.user.pwb 0x40000000#64 = false ∧
    (∃ p t, translate .data .load 0x40000000#64 (cached.switchTo 0) = .ok p t ∧
      (decide (p = (0x200000, 0xEB#13)) && decide (t.target t.hart.ctx t.hart.sup 0x200000 8 = .hbm) && decide (t.cur = 0)) = true) ∧
    (∃ p t, translate .data .load 0x40000000#64 (watchFull.switchTo 0) = .ok p t ∧
      decide (256 ≤ ((t.slice (t.homeKey p.1)).watches.filter fun w => decide (w.2 ≠ 0)).length) = true) ∧
    isHbm (laOf 0x200000) = true ∧ 0x200000 % 8 = 0 ∧ user.m.agentWatches = [] :=
  ⟨rfl, rfl, by decide, completesWith (by decide), completesWith (by decide +kernel), by decide, by decide, rfl⟩
/-- A read of a line, the channel where it goes, and that channel in a state. -/
def request : HbmReq := { la := 0x100, write := false, slot := 1, aged := false, late := false }
def chanKey : Nat := dieOf 0x100 * 32 + channelOf 0x100
def channelled (c : Channel) : State := user.setChannel chanKey c
def banked (b : Bank) (c : Channel) : Channel := { c with banks := [(request.bank, b)] }
theorem witness_ChannelRequests :
    (let c : Channel := ((channelled { Channel.reset with queue := [request] }).channel chanKey)
     c.busy = false ∧ c.ready = [] ++ request :: [] ∧ c.rowHit request = false ∧ (c.bank request.bank).owed < 8) ∧ Channel.reset.ready = [] ∧
    (let c := banked { Bank.reset with openRow := some request.row } { Channel.reset with queue := [request] }
     c.ready = [request] ∧ c.rowHit request = true ∧ ∃ r ∈ c.queue, r.bank = request.bank ∧ (c.bank request.bank).openRow = some r.row) ∧
    (let c := banked { Bank.reset with owed := 8 } { Channel.reset with queue := [request] }; c.ready = [request] ∧ 8 ≤ (c.bank request.bank).owed) ∧
    ((channelled { Channel.reset with inFlight := [request] }).channel chanKey).inFlight = request :: [] ∧ request.write = false ∧
    user.isPoisoned (user.hbmPa request.la / 64) = false ∧ user.underPoison (user.hbmPa request.la / 64) = false ∧
    (let c := (channelled { Channel.reset with retry := [request] }).channel chanKey
     c.retry = request :: [] ∧ (c.bank request.bank).blocked = false ∧ (c.bank request.bank).alerts = 0 ∧ (c.bank request.bank).owed < 8) ∧
    dieOf (laOf (user.hbmPa request.la)) * 32 + channelOf (laOf (user.hbmPa request.la)) = chanKey ∧
    (let c := banked { Bank.reset with blocked := true } { Channel.reset with retry := [request] }; c.retry = request :: [] ∧ (c.bank request.bank).blocked = true) ∧
    (let c := banked { Bank.reset with owed := 8 } { Channel.reset with retry := [request] }
     c.retry = request :: [] ∧ (c.bank request.bank).alerts = 0 ∧ 8 ≤ (c.bank request.bank).owed) ∧
    request.line = (0x100#64).toNat / 64 := by decide
theorem witness_RatesRefreshesAndAlerts : (3#64).toNat % 4 = 3 ∧ (7#64).toNat % 4 = 3 ∧ ({ Channel.reset with ceil := 2#2 } : Channel).wanted ≠ Channel.reset.cur ∧
    ({ Channel.reset with ceil := 2#2 } : Channel).busy = false ∧
    (let c : Channel := { Channel.reset with busy := true }; c.busy = true ∧ c.inFlight = [] ∧ c.retry = [] ∧ c.banks = []) ∧
    ({ Channel.reset with busy := true, inFlight := [request] } : Channel).quiet = false ∧
    Channel.reset.wants 0 = false ∧ ({ Channel.reset with queue := [request] } : Channel).wants request.bank = true ∧ Bank.reset.owed < 8 ∧
    (let c := banked { Bank.reset with owed := 8, blocked := true, alerts := 1 } { Channel.reset with busy := true }
     (c.bank request.bank).blocked = true ∧ 8 ≤ (c.bank request.bank).owed ∧ (c.bank request.bank).alerts ≠ 0) ∧
    (let c := banked { Bank.reset with owed := 2 } Channel.reset
     c.wants request.bank = false ∧ (c.bank request.bank).blocked = false ∧ (c.bank request.bank).owed ≠ 0) ∧
    (user.channel (dieOf 0x7FFFFFFFFF * 32 + channelOf 0x7FFFFFFFFF)).mayScrub 0x7FFFFFFFFF = true ∧ user.isPoisoned (user.hbmPa 0x7FFFFFFFFF / 64) = false ∧
    user.underPoison (user.hbmPa 0x7FFFFFFFFF / 64) = false ∧
    sliceFind (user.hbmPa 0x7FFFFFFFFF / 64) false (user.slice (user.homeKey (user.hbmPa 0x7FFFFFFFFF))).lines = none ∧
    isHbm 0x7FFFFFFFFF = true ∧ ({ Channel.reset with queue := [request] } : Channel).names 1 = true ∧ Channel.reset.names 1 = false ∧
    user.trust.busy = false := by decide
def pinned (n : Nat) : SliceLine := { line := n, rlc := false, wv := 0xFFFF#16, wd := 0#16, psn := false, pin := 1, fill := false, stale := false, data := [] }
/-- Eight lines of a set of slice 2, pinned, and one that is not. -/
def eightPinned : State := user.setSlice 2 { SliceState.reset with lines := { pinned 0x8000 with pin := 0 } :: List.replicate 8 (pinned 0x8000) }
/-- A line of which one word is valid. -/
def partly : SliceLine := { pinned 0x8000 with wv := 1#16, pin := 0 }
theorem witness_SlicesServeTheirRequests : isHbm 0x8000000000 = false ∧ isHbm 0x200000 = true ∧ sliceOf 0x200000 = 2 ∧ (user.slice 2).lines = [] ∧
    user.m.agentWatches = [] ∧ Mem.wf user.m.mem = true ∧
    sliceFind 0x8000 false (eightPinned.slice 2).lines = some { pinned 0x8000 with pin := 0 } ∧ 8 ≤ (eightPinned.slice 2).pinned 0x8000 ∧
    sliceFind 0x8000 false ((user.setSlice 2 { SliceState.reset with lines := [pinned 0x8000] }).slice 2).lines = some (pinned 0x8000) ∧
    (∀ i, i < 16 → (user.homeWord 1 0x8000 i).1.length = 4) ∧ user.protectedWords 0x8000 = 0#16 ∧
    user.rlcKey 0 0x200000 = none ∧ user.homeWaits 1 0 0x200000 = false ∧ (pinned 0x8000).pin ≠ 0 ∧ (pinned 0x8000).fill = false ∧
    sliceFind 0x8000 false ((user.setSlice 2 { SliceState.reset with lines := [partly] }).slice 2).lines = some partly ∧
    0xFFFF#16 &&& ~~~partly.wv ≠ 0#16 ∧ QuietHome user 1 0x200000 :=
  ⟨by decide, by decide, by decide, rfl, rfl, by decide, by decide, by decide, by decide, fun i h => by decide +revert, by decide,
    by decide, by decide, by decide, by decide, by decide, by decide, user_quiet _ _ (by decide) (by decide)⟩
/-- A header of one element of 8 bytes, read, at PA 0x200000 under a key slot, for slice 2. -/
def header (key : BitVec 4) : List Word := [0x1000000000200000#64 ||| (key.zeroExtend 64 <<< 52), 0#64, 0x280#64, 0x0004000000000000#64]
theorem witness_VectorHeadersAndBeats : vhead [] = none ∧ (vhead (header 1#4)).map (fun h => (h.op, h.count, h.key, h.dev)) = some (1, 0, 1, 0) ∧
    (vhead (header 9#4)).map (·.key) = some 9 ∧ (vhead (header 1#4)).map (fun h => (bitAt h.slices 2, bitAt h.slices 3)) = some (true, false) ∧
    (vhead (header 1#4)).map (fun h => h.mine 0 2) = some [(0, 0x200000)] ∧ dieOf (laOf 0x200000) = 0 ∧ (vhead (header 1#4)).map (fun h => h.mine 0 3) = some [] ∧
    ((user.setCluster 0 { ClusterState.reset with segments := [(4, 2)] }).cluster 0).segments = [(4, 2)] := by decide
theorem witness_CoherenceMessages : user.rlcKey (dieOfHart 0) 0x200000 = none ∧ QuietHome user 1 0x200000 ∧ (user.core 0).l1d = [] ∧ (user.cluster 0).cc = [] ∧
    (cached.ownerWord 0 0x9000 0).isSome = false ∧
    (((user.setCore 0 { CoreState.reset with l1d := [{ line with wd := 1#16, wo := 1#16 }] }).setCluster 0
      { ClusterState.reset with cc := [{ line with wo := 1#16 }] }).ownerWord 0 0x8000 0).isSome = true ∧ (List.replicate 64 0#8).length = 64 :=
  ⟨by decide, user_quiet _ _ (by decide) (by decide), rfl, rfl, by decide, by decide, by decide⟩
/-- An object verified for slot 0 at 0x200000. -/
def guarded : State := user.updTrust fun t => { t with objects := [(3, { RegObj.reset with live := true, gen := 1#16, textPa := 0x200000, size := 4096 })] }
theorem witness_SynchronisedAndWindowAccesses : QuietHome user 1 0x200000 ∧ 0x200000 % 2 ^ 3 = 0 ∧ ¬ 0x200001 % 2 ^ 1 = 0 ∧ guarded.isProtected 0x200FF8 8 = true ∧
    guarded.isProtected 0x201000 8 = false ∧ laKind 0x21000000000 = .vreg 0 0 ∧ vectored.target 0#3 false 0x21000000FF8 8 = .window ∧
    user.target 0#3 false 0x21000000000 8 = .refused :=
  ⟨user_quiet _ _ (by decide) (by decide), by decide, by decide, by decide, by decide, by decide, by decide, by decide⟩
def timed : State := user.updFab fun f => { f with clock := { f.clock with rtt := [(3, 100#32), (5, 200#32)] } }
/-- Two planes are up, with a request outstanding on one of them; and a device before its first context. -/
def planes : State := user.updFab fun f =>
  { f with ports := [(3, { Port.reset with mode := 1#4, inuse := true }), (5, { Port.reset with mode := 1#4, inuse := true })],
           remotes := [{ pa := 0x40000200000, plane := 3, tag := 7, hart := 0, ctx := 0#3, held := false, window := false, bytes := [] }] }
def fresh : State := { State.reset with fab := timed.fab }
theorem witness_FabricAndClockMessages : bestPlane timed.fab.clock.rtt = some 3 ∧ bestPlane timed.fab.clock.rtt ≠ some 5 ∧ timed.fab.clock.master = false ∧
    timed.inBringUp = false ∧ fresh.inBringUp = true ∧ bestPlane fresh.fab.clock.rtt = some 3 ∧
    user.fab.clock.lastSync + 10000000 ≤ ({ user with time := 10000000 } : State).time ∧ (user.getHart 0).phase = .running ∧
    (user.getHart 0).trap.trentry.getLsbD 0 = true ∧ (user.fab.links.get .reset 13).half = false ∧ fullQueue.hart.vq = entry :: List.replicate 15 entry ∧
    (∃ x ∈ planes.fab.remotes, x.plane = 3 ∧ x.held = false) ∧ (exec .portDown { planes with msg := { unit := 3#32 } } |> fun o =>
      match o with | .next t => t.planesUp | _ => []) = [5] ∧
    ({ Link.reset with half := true } : Link).half = true ∧ (user.updFab fun f => { f with clock := { f.clock with master := true } }).fab.clock.master = true := by
  decide
/-- The host device with an aperture to 0x200000 under key slot 1, and one in a domain with every device a member. -/
def apertured : State := user.updFab fun f =>
  { f with hostDev := true, apertures := [(0, { Aperture.reset with base := 0#64, size := 0x10000#64, tgt := 0x200000#64, key := 1#4 })] }
def guardedHost : State := { guarded with fab := apertured.fab }
def domained : State := user.updFab fun f => { f with members := [(0, 0xFFFFFFFFFFFFFFFF#64)] }
/-- A channel's line that an earlier request of a stalled channel names: what comes to it waits. -/
def stalled (s : State) : State := s.setChannel (dieOf 0x200000 * 32 + channelOf 0x200000) { Channel.reset with busy := true }
theorem witness_HostAndRemoteRequests : user.fab.hostDev = false ∧ apertured.fab.hostDev = true ∧ 1 % 2 ^ 1 ≠ 0 ∧ apertured.apertureAt 0x4000000 8 = none ∧
    apertured.apertureAt 0xFFF8 8 = some (0x20FFF8, 1) ∧ apertured.apertureAt 0xFFFC 8 = none ∧ apertured.engineWaits 1 0 0x20FFF8 = false ∧
    QuietHome apertured 1 0x20FFF8 ∧ 0x20FFF8 % 64 + 8 ≤ 64 ∧ (∀ i, i < 8 → apertured.isProtected (0x20FFF8 + i) 1 = false) ∧
    guardedHost.apertureAt 8 8 = some (0x200008, 1) ∧ guardedHost.engineWaits 1 0 0x200008 = false ∧ guardedHost.isProtected (0x200008 + 0) 1 = true ∧
    apertured.apertureAt 0 8 = some (0x200000, 1) ∧ (stalled apertured).engineWaits 1 0 0x200000 = true :=
  ⟨by decide, by decide, by decide, by decide, by decide, by decide, by decide, ⟨by decide, by decide, by decide, rfl, rfl, fun _ _ => rfl, rfl, rfl, rfl, rfl⟩, by decide,
    fun i _ => by decide +revert, by decide, by decide, by decide, by decide, by decide⟩
theorem witness_HostAndRemoteRequests_devices : user.savedAnswer 1#10 5#16 = none ∧ user.isMember 1 = false ∧ domained.isMember 1 = true ∧
    user.slotOfTag 9#16 = none ∧ domained.slotOfTag 1#16 = some 0 ∧ isHbm 0x200000 = true ∧ domained.ingressWaits 0 0x200000 {} = false ∧
    QuietHome domained 1 (domained.ownPa 0x200000) ∧ (stalled domained).ingressWaits 0 0x200000 {} = true ∧
    (∃ n, n < 8 ∧ (user.ctx n).state = 1#2) ∧ (∀ n, n < 8 → (State.reset.ctx n).state ≠ 1#2) ∧ State.reset.fab.devValid = false ∧
    (user.evQueue 0).tail.toNat < (1#64).toNat ∧ (0#64).toNat ≤ (user.evQueue 0).tail.toNat :=
  ⟨by decide, by decide, by decide, by decide, by decide, by decide, by decide, ⟨by decide, by decide, by decide, by decide, rfl, fun _ _ => rfl, rfl, rfl, rfl, rfl⟩, by decide,
    ⟨0, by decide, by decide⟩, fun n _ => by decide +revert, rfl, by decide, by decide⟩
theorem witness_HostAndRemoteRequests_events :
    (let s := user.setEvSource 0 { EvSource.reset with hold := [{ count := 1#16, die := 0#3, srcio := false, kind := 6#8, seq := 0#32, detail := 5#64, time := 0#64, ctxid := 0#16, fofs := 0#8, hart := 0#27 }] }
     (s.evSource 0).hold.length = 1 ∧ (s.evSource 0).spill = [] ∧ (s.evQueue (iodOfSource 0)).full = false) ∧
    user.apertureOk 0 { Aperture.reset with size := 0#64 } = true ∧
    user.apertureOk 0 { Aperture.reset with base := 8#64, size := 8#64, key := 1#4 } = false ∧ laKind 0x200000 ≠ .control ∧
    user.dieHeld (8 + iodOfSource 0) = false := by decide +kernel
def noticed : State := user.updHart fun h => { h with noticePending := true, pc := 0x2000#64, irq := { h.irq with nte := true, ore := true, cde := true, xres := 0x3000#64 } }
def resizing (v : Word) : State := user.updHart fun h => { h with resizePending := true, irq := { h.irq with xres := v } }
theorem witness_TrapsAndUserInterrupts : (0#8 = 0#8) ∧ 0x10 < (0x11#8).toNat ∧ 1 ≤ (1#8).toNat ∧ (0x10#8).toNat ≤ 0x10 ∧ (user.getHart 0).phase = .running ∧
    (user.getHart 0).trap.trentry.getLsbD 0 = true ∧ fullQueue.hart.vq.head? = some entry ∧ user.hartRuns 0 = true ∧ noticed.hart.irq.nte = true ∧ noticed.hart.irq.inh = false ∧ (noticed.getHart 0).noticePending = true ∧
    ((user.updHart fun h => { h with pendingUser := [.copyDone 4#32 0x100#64] }).getHart 0).pendingUser = [.copyDone 4#32 0x100#64] ∧
    (resizing 0#64).hart.resizePending = true ∧ (resizing 0#64).hart.irq.xres = 0#64 ∧ (resizing 8#64).hart.irq.xres ≠ 0#64 ∧
    ((user.updTrap fun t => { t with trentry := 0#64 }).getHart 0).trap.trentry.getLsbD 0 = false ∧ (user.getHart 0).launch = none ∧ user.hart.resizePending = false :=
  ⟨rfl, by decide, by decide, by decide, rfl, by decide, rfl, by decide, rfl, rfl, rfl, rfl, rfl, rfl, by decide, by decide, rfl, rfl⟩
theorem witness_TrapsAndUserInterrupts_items :
    (let s := user.updHart fun h => { h with irq := { h.irq with ore := true }, pendingUser := [.orbitTask 0 0 0x4000#64 1#64 2#64 3#64] }
     (s.getHart 0).irq.ore = true ∧ (s.getHart 0).noticePending = false ∧ (s.getHart 0).pendingUser = .orbitTask 0 0 0x4000#64 1#64 2#64 3#64 :: []) ∧
    (let s := user.updHart fun h => { h with irq := { h.irq with cde := true }, pendingUser := [.copyDone 4#32 0x100#64] }
     (s.getHart 0).irq.cde = true ∧ (s.getHart 0).irq.ore = false ∧ (s.getHart 0).pendingUser = .copyDone 4#32 0x100#64 :: []) ∧
    tiledFull.hart.mq.head? = some (tiled.qentry (.mclr 0#5)) := by decide
theorem test_notice : (afterMsg .userInterruptDelivery noticed {}).hart.irq.cause = 2#4 ∧ (afterMsg .userInterruptDelivery noticed {}).hart.irq.xepc = 0x2000#64 := by decide
/-- A push whose wait has begun, as it stands and with all its slices out; a queued load with its slices out. -/
def pushEntry (n : Nat) : QEntry := { vectored.qentry (.vpush 1#5 2#5) with since := some 0, slices := n }
def pushed (n : Nat) : State := vectored.updHart fun h => { h with vq := [pushEntry n], user := { h.user with pushlim := 0#32 } }
def loadEntry (n : Nat) : QEntry := { vectored.qentry (.vld 1#5 2#5 0#1 0#1) with slices := n }
def loading (n : Nat) : State := vectored.updHart fun h => { h with vq := [loadEntry n], grant := { h.grant with vw := 1#4 } }
def adding : State := vectored.updHart fun h => { h with vq := [entry], grant := { h.grant with vw := 1#4 } }
theorem serves (s : State) (h : ((s.getHart 0).phase = .running ∧ s.hartRuns 0 = true ∧ (s.getHart 0).sup = false ∧ (s.getHart 0).frozen = false)) : Serves s 0 := h
theorem witness_QueuesAreServed : canonical 0x40000000#64 = true ∧ canonical 0x800000000000#64 = false ∧ cached.hart.sregs.sptb.getLsbD 63 = true ∧
    user.hart.sregs.sptb.getLsbD 63 = false ∧ (super.getHart 0).sup = true ∧ Serves (pushed 9) 0 ∧ (pushed 9).hart.vq = pushEntry 9 :: [] ∧
    (pushEntry 9).isPush = true ∧ (pushEntry 9).sliced = true ∧ (pushEntry 0).sliced = false ∧ (pushEntry 9).since = some 0 ∧
    (pushed 9).hart.user.pushlim.toNat ≤ ((pushed 9).switchTo 0).cyclesSince 0 ∧ Serves (loading 9) 0 ∧ (loading 9).hart.vq = loadEntry 9 :: [] ∧
    (loadEntry 9).inPipeline = true ∧ (loadEntry 9).isPush = false ∧ (∀ i, i < 16 → user.vectorReady i = false) ∧ (user.cluster 0).engine = none ∧
    (∀ i, i < 8 → user.matrixHead i = none) :=
  ⟨by decide, by decide, by decide, by decide, rfl, serves _ (by decide), rfl, by decide, by decide, by decide, by decide, by decide, serves _ (by decide), rfl,
    by decide, by decide, fun i _ => by decide +revert, by decide, fun i _ => by decide +revert⟩
/-- A user with an operation in the matrix queue, and one whose stored products hold the engine. -/
def multiplying (i : Instr) (e : Option Nat) : State :=
  let s := tiled.updHart fun h => { h with grant := { h.grant with mw := 1#4 }, mq := [tiled.qentry i] }
  s.setCluster 0 { ClusterState.reset with engine := e }
theorem witness_QueuesAreServed_arbiter : (loading 0).vectorReady 0 = true ∧ (∀ j, j < 16 → j ≠ 0 → (loading 0).vectorReady j = false) ∧
    0 < ((loading 0).getHart 0).grant.vw.toNat ∧ ((loading 0).getHart 0).vq = loadEntry 0 :: [] ∧ Instr.isPipelined (loadEntry 0).instr = true ∧
    adding.vectorReady 0 = true ∧ (∀ j, j < 16 → j ≠ 0 → adding.vectorReady j = false) ∧ Instr.isPipelined entry.instr = false ∧
    entry.sliceCount ≤ entry.slices + 1 ∧ (multiplying (.mclr 0#5) none).matrixHead 0 = some 0 ∧ (multiplying (.mclr 0#5) none).matrixReady 0 = true ∧
    (∀ j, j < 8 → j ≠ 0 → (multiplying (.mclr 0#5) none).matrixHead j = none) ∧ 0 < ((multiplying (.mclr 0#5) none).getHart 0).grant.mw.toNat ∧
    ((multiplying (.mopM 0#5 0#5 2#5) (some 0)).cluster 0).engine = some 0 ∧ (multiplying (.mopM 0#5 0#5 2#5) (some 0)).streams 0 = true :=
  ⟨by decide, fun j _ _ => by decide +revert, by decide, by decide, by decide, by decide, fun j _ _ => by decide +revert, by decide, by decide, by decide,
    by decide, fun j _ _ => by decide +revert, by decide, by decide, by decide⟩
/-- A user whose I/O die 0 is held in reset after a warm reset with another image. -/
def ioHeld : State := user.updFab fun f => { f with lostDies := [(8, 0)] }
theorem witness_held : user.trust.booted = true ∧ (user.coldBoot [3]).trust.booted = false ∧ cached.dieHeld (8 + (cached.walkerOf 0).iod) = false ∧
    ioHeld.dieHeld (8 + (ioHeld.walkerOf 0).iod) = true ∧ user.dieHeld (8 + iodOfSource 0) = false ∧ ioHeld.dieHeld (8 + (ioHeld.queueView 0 0).iod) = true := by decide
theorem test_held : (after .eventAccept (ioHeld.setEvSource 0 { EvSource.reset with hold := [{ count := 1#16, die := 0#3, srcio := false, kind := 6#8, seq := 0#32, detail := 5#64, time := 0#64, ctxid := 0#16, fofs := 0#8, hart := 0#27 }] })).evQueue 0 = EvQueue.reset := by decide
theorem witness_QueuesAreServed_choice : (arbitrate [{ idx := 0, w := 2, c := 0 }, { idx := 3, w := 1, c := 5 }] 0).map (·.1) = some 3 := by decide
/-- Bytes at rising addresses. -/
def cells (a : Nat) : List Byte → List Host.Cell
  | [] => []
  | b :: l => (a, b) :: cells (a + 1) l
/-- A context whose queue table stands at 0x400000: its first queue with a ring of `size` records at VA 0x40000000 and its control block at VA 0x40001000, HEAD 0 and
TAIL `tail`; the first record names the object of `guarded` and asks priority 2. -/
def queued (size tail : Nat) : State :=
  let s := user.updHart fun _ => Hart.reset
  let s := s.updTrust fun t => { t with objects := [(3, { RegObj.reset with live := true, gen := 1#16, textPa := 0x300000, size := 4096 })] }
  let s := (s.updCtx 0 fun c => { c with qtab := 0x400001#64, table := 0x400001#64 }).updMem fun m =>
    { m with seqTlb := [(0, [leaf, { leaf with vpn := 0x40001#52, ppn := 0x201#40, attr := 0x106B#13 }])] }
  let table := cells 0x400000 (toBytes 32 (0x40000000 + size * 2 ^ 64 + 0x40001000 * 2 ^ 128))
  s.updMem fun m => { m with mem := cells 0x200000 (toBytes 256 (0x10003 + 2 * 2 ^ 192)) ++ cells 0x201000 (toBytes 16 (tail * 2 ^ 64)) ++ table }
/-- What a queue agent finds, as a test: whether the entry is ready, the count of records, and whether the head passes its checks. -/
def finds (s : State) (p : Nat → Nat → Bool → Bool) : Bool :=
  let v := s.queueView 0 0
  match s.queueEntry v 0 with
  | (t, .ready ring size ctrl _) =>
    let (u, hd, _) := (t.agentWatch { pa := ctrl + 8, slot := 0#3, queue := 0#6, dep := false }).syRead v.slot ctrl
    let (w, tl, _) := u.syRead v.slot (ctrl + 8)
    p size (BitVec.ofNat 64 tl - BitVec.ofNat 64 hd : Word).toNat (match (w.updQueue 0 0 fun z => { z with badPosted := none, overrun := false }).readRecord v
        (recordVa ring size (BitVec.ofNat 64 hd)) with
      | (y, some (_, r)) => (y.recordFault 0 r).isNone && decide (blkNat r 0x50 8 = 0)
      | _ => false)
  | _ => false
theorem witness_QueuesAndLaunches_heads : (State.reset.ctx 1).state ≠ 1#2 ∧ ((queued 4 1).ctx 0).state = 1#2 ∧ ((queued 4 1).ctx 0).qtab.getLsbD 0 = true ∧
    ((queued 0 0).queueEntry ((queued 0 0).queueView 0 0) 0).2 = .disabled ∧ finds (queued 4 0) (fun _ n _ => decide (n = 0)) = true ∧
    finds (queued 4 5) (fun z n _ => decide (z < n)) = true ∧ finds (queued 4 1) (fun z n b => decide (n ≠ 0 ∧ n ≤ z) && b) = true ∧
    (((queued 4 1).updQueue 0 0 fun q => { q with overrun := true }).ctx 0).queues.length = 1 := by decide +kernel
theorem witness_QueuesAndLaunches_waits : (queued 4 1).queueWaits ((queued 4 1).queueView 0 0) 0 = false ∧ (queued 4 1).dieHeld 8 = false ∧
    (stalled (queued 4 1)).queueWaits ((queued 4 1).queueView 0 0) 0 = true ∧ ((queued 4 1).queueView 0 0).qtab.getLsbD 0 = true ∧
    (∀ n, n < 8 → (State.reset.ctx n).fresh = false ∧ (State.reset.ctx n).state ≠ 1#2) ∧ (user.after [(.recordCommit, queueMsg 0 3)]).commitWaits 0 = true ∧
    user.commitWaits 0 = false := by decide +kernel
/-- A ready head that no page maps, in queue 3. -/
def ready : State := user.updQueue 0 3 fun q => { q with ready := some (0x800000000000#64, 2#2) }
theorem witness_QueuesAndLaunches_choice : (∀ n, n < 8 → (State.reset.ctx n).state ≠ 1#2) ∧ ready.places 0 = true ∧ (∀ m, m < 8 → m ≠ 0 → ready.places m = false) ∧
    ((ready.ctx 0).queue 3).ready = some (0x800000000000#64, 2#2) ∧ (∀ k, k < 64 → k ≠ 3 → ((ready.ctx 0).queue k).ready = none) ∧
    3 = (ready.rrOf 2 + 3) % 64 ∧ ready.placeable 0 3 0x800000000000#64 = true ∧ ready.disp.launches.length < 128 ∧ State.reset.places 0 = false :=
  ⟨fun n _ => by decide +revert, by decide, fun m _ _ => by decide +revert, by decide, fun k _ _ => by decide +revert, by decide, by decide, by decide, by decide⟩
/-- A pick among offsets that fit is one of them. -/
theorem pick_some (s : State) (k i : Nat) {l : List Nat} (h : l ≠ []) : ∃ o, s.pickOffset k i l = some o :=
  ⟨_, List.getElem?_eq_getElem (Nat.mod_lt _ (List.length_pos_iff.2 h))⟩
/-- Where each kind of storage has room, one hart of a cluster gets a grant. -/
theorem grants_one (s : State) (a : Ask) (k h : Nat)
    (hv : ((List.range 513).filter fun o => decide (o + a.want ≤ 512) && rangeFree o a.want ((s.grantsIn k).map fun g => (g.voff.toNat, g.vsz.toNat))) ≠ [])
    (ht : ((List.range 33).filter fun o => decide (o + a.tiles ≤ 32) && rangeFree o a.tiles ((s.grantsIn k).map fun g => (g.tbase.toNat, g.tcnt.toNat))) ≠ [])
    (ha : ((List.range 17).filter fun o => decide (o + a.accs ≤ 16) && rangeFree o a.accs ((s.grantsIn k).map fun g => (g.abase.toNat, g.acnt.toNat))) ≠ []) :
    ∃ g, s.clusterGrants a k [h] = some g := by
  obtain ⟨o1, h1⟩ := pick_some s k (3 * 0) hv
  obtain ⟨o2, h2⟩ := pick_some s k (3 * 0 + 1) ht
  obtain ⟨o3, h3⟩ := pick_some s k (3 * 0 + 2) ha
  simp only [State.clusterGrants, State.grantShare, grantMany, fit, List.length_singleton]
  rw [h1, h2, h3]
  exact ⟨_, rfl⟩
/-- The state and the record of a commit of the ready head of `queued`. -/
def committing : State := (queued 4 1).updQueue 0 0 fun q => { q with ready := some (0x40000000#64, 2#2) }
def committed : State × Option (Nat × List Byte) :=
  let v := committing.queueView 0 0
  (((committing.queueEntry v 0).1.syRead v.slot 0x201000).1).readRecord v 0x40000000#64
def record : List Byte := toBytes 256 (0x10003 + 2 * 2 ^ 192)
theorem witness_QueuesAndLaunches_commit : committing.places 0 = true ∧ ((committing.ctx 0).queue 0).ready = some (0x40000000#64, 2#2) ∧
    (committing.queueEntry (committing.queueView 0 0) 0).2 = .ready 0x40000000#64 4 0x201000 0x40001000#64 ∧ committed.2 = some (0x200000, record) ∧
    committed.1.recordFault 0 record = none ∧ committed.1.startBlock 0 = some (List.replicate 8 0#64) ∧ committed.1.freeLaunch = some 0 ∧
    ((committed.1.rrPast 0 2#2).casWord 1 0x200078 0#64 1#64).2 = true ∧ [0].Nodup ∧ committing.blockWaits 0 = false ∧
    committing.queueWaits (committing.queueView 0 0) 0 = false := by decide +kernel
theorem witness_QueuesAndLaunches_plan : ∃ g, committed.1.planLaunch 0 0#64 record = .goes [0] g := by
  obtain ⟨g, hg⟩ := grants_one committed.1 (recAsk record) 0 0 (by decide +kernel) (by decide +kernel) (by decide +kernel)
  refine ⟨g, ?_⟩
  have hp : committed.1.positions 0 0#64 (recDext record) (recCext record) = some [0] := by decide +kernel
  have hi : (!([0].all fun h => (committed.1.getHart h).phase == .idle && !committed.1.dieHeld (dieOfHart h)) || !committed.1.platesSuffice 0 (recAsk record).plates [0]) = false := by decide +kernel
  have hk : ([0].map clusterOf).eraseDups = [0] := by decide
  have hf : ([0].filter fun h => decide (clusterOf h = 0)) = [0] := by decide
  have ha : committed.1.grantAll (recAsk record) [0] [0] = some g := by
    simp only [State.grantAll, hf, hg, List.append_nil]
  simp only [State.planLaunch, hp, hi, hk, ha]
  rfl
/-- A launch of hart 0 alone, whose record is at VA 0x40000000, and the state in which its state word is 1. -/
def single (ended : List Nat) : Launch := { launch with dext := 1, cext := 1, harts := [0], done := ended }
def launched (r : Launch) : State := ((queued 4 1).updDisp fun d => { d with launches := [(4, r)] }).homeStore 1 0x200078 (toBytes 8 1)
theorem witness_QueuesAndLaunches_ends : ((launched (single [0])).stateWord (single [0])).2 = some 0x200078 ∧ 0x200078 % 8 = 0 ∧
    (launched (single [0])).orbitsOf 4 = [] ∧ (launched (single [0])).disp.launches.find? (fun x => decide (x.1 = 4)) = some (4, single [0]) ∧
    (single [0]).compVa = 0#64 ∧ (∀ i, i < 1 → i ∈ (single [0]).done) ∧ 0 ∉ (single []).done ∧
    (((launched (single [0])).stateWord (single [0])).1.homeRead64 1 0x200078) = 1#64 ∧
    (launched (single [0])).seqWaits ((launched (single [0])).queueView 0 0) 0x40000078#64 = false ∧ (launched (single [0])).stillBusy 0 = false ∧
    (((launched (single [])).updCtx 0 fun c => { c with arg := 0x40000000#64 }).ctx 0).arg = (single []).record := by decide +kernel
theorem witness_QueuesAndLaunches_quiet : QuietHome ((launched (single [0])).stateWord (single [0])).1 1 0x200078 :=
  ⟨by decide +kernel, by decide, by decide +kernel, by decide +kernel, by decide +kernel, by decide +kernel, by decide +kernel, by decide +kernel⟩
theorem test_launch_completes : (afterMsg .launchComplete (launched (single [0])) { unit := 4#32 }).homeRead64 1 0x200078 = 2#64 := by decide +kernel
/-- Slot 2 loaded with a key and described, and not yet created, with and without a die of its own. -/
def described (dies : Word) : State :=
  { user.setCtx 2 { Ctx.reset with dgrant := 0x200000000#64 ||| dies, ptb := 0x8000000000000000#64, keyLoaded := true } with msg := { slot := 2#3 } }
/-- The user's device with context 0 in a state, and beside it slot 2 asking for the same die with a save area of `size` units. -/
def areaOf (size : Word) (dies : Word) : State := { (described dies).updCtx 2 fun c => { c with save := 1#64 ||| (size <<< 9) } with msg := { slot := 2#3 } }
def stateOf (v : BitVec 2) : State := user.updCtx 0 fun c => { c with state := v, dgrant := 0x200000001#64 }
theorem witness_ContextsAndQuiesces : ((described 2#64).ctx 2).state = 0#2 ∧ ((described 2#64).ctx 2).dtag = 2#16 ∧
    (∀ m, m < 8 → m ≠ 2 → ((described 2#64).ctx m).state = 0#2 ∨ ((described 2#64).ctx m).dtag ≠ 2#16) ∧ ((described 2#64).ctx 2).dies = [1] ∧
    ((described 2#64).ctx 2).plates ≤ 128 ∧ ((described 2#64).ctx 2).ptb.getLsbD 63 = true ∧ ((described 2#64).ctx 2).keyLoaded = true ∧
    ¬ (∃ d ∈ ((described 2#64).ctx 2).dies, ∃ m, m < 8 ∧ m ≠ 2 ∧ ((described 2#64).ctx m).state = 1#2 ∧ d ∈ ((described 2#64).ctx m).dies) ∧
    ((areaOf 9#64 1#64).ctx 2).dies = [0] ∧ ((areaOf 9#64 1#64).ctx 0).state = 1#2 ∧ 0 ∈ ((areaOf 9#64 1#64).ctx 0).dies ∧
    ((areaOf 9#64 1#64).ctx 2).save.getLsbD 0 = true ∧ (areaOf 9#64 1#64).needOf 2 ≤ (((areaOf 9#64 1#64).ctx 2).save.extractLsb' 9 12).toNat ∧
    ((described 1#64).ctx 2).save.getLsbD 0 = false := by decide +kernel
theorem witness_ContextsAndQuiesces_ends : ((stateOf 2#2).ctx 0).state = 2#2 ∧ (stateOf 2#2).runCount 0 = 0 ∧ (user.ctx 0).state = 1#2 ∧
    user.cutting 0 = false ∧ user.disp.switch.phase ≠ 2#2 ∧ ((stateOf 3#2).ctx 0).state = 3#2 ∧ (stateOf 3#2).cutting 0 = false ∧
    ¬ (∃ d ∈ ((stateOf 3#2).ctx 0).dies, ∃ m, m < 8 ∧ m ≠ 0 ∧ ((stateOf 3#2).ctx m).state = 1#2 ∧ d ∈ ((stateOf 3#2).ctx m).dies) ∧
    (user.getHart 0).phase ≠ .idle ∧ (let s := user.updHart fun _ => Hart.reset; ∀ m ∈ s.hartMoves 0 (s.imageOf 0), m.1 = m.2) := by decide +kernel
theorem test_create : ((after .createContext (described 2#64)).ctx 2).state = 1#2 ∧ ((after .createContext (described 1#64)).ctx 2).cmderr = true := by decide
/-- A switch of every context armed for the time `t`; one that has begun, with cuts; and a cut of context 0 with the units in `begun`. -/
def armed (t : Word) : State := (user.updCtx 0 fun c => { c with save := 0x1FFE01#64 }).updSwitch fun w => { w with phase := 1#2, t, latched := t, park := true }
def cutOf (q c : Bool) (begun : List Nat) : Cut := { slot := 0, epoch := 1#8, quiesce := q, begun, markers := [], complete := c }
def cutting (c : Cut) : State := ((armed 5#64).updSwitch fun w => { w with phase := 2#2, begun := true }).updDisp fun d => { d with cuts := [c] }
theorem witness_TheSwitch : user.disp.switch.phase = 0#2 ∧ user.disp.switch.t.toNat < user.time + 200000 ∧
    ¬ ((user.updSwitch fun w => { w with t := 200000#64 }).disp.switch.t.toNat < (user.updSwitch fun w => { w with t := 200000#64 }).time + 200000) ∧
    (armed 5#64).disp.switch.phase = 1#2 ∧ (armed 5#64).time < (5#64).toNat ∧ (0#64).toNat ≤ (armed 0#64).time ∧ (armed 0#64).outgoing true 0 = [0] ∧
    (∀ n ∈ (armed 0#64).outgoing true 0, (armed 0#64).saveOk n = true) ∧
    ((armed 0#64).updCtx 0 fun c => { c with save := 0#64 }).saveOk 0 = false ∧ (armed 0#64).cutting 0 = false ∧ (cutting (cutOf true false [8])).cutting 0 = true ∧
    (let s := (armed 0#64).updHart fun h => { h with sregs := { h.sregs with snotice := 9#32 } }
     (s.getHart 0).noticed = false ∧ (s.getHart 0).phase ≠ .idle ∧ s.hartRuns 0 = true ∧ (s.getHart 0).sregs.snotice ≠ 0#32) := by decide +kernel
theorem witness_TheSwitch_cuts : (armed 5#64).cutOf 0 = none ∧ (cutting (cutOf true false [8])).cutOf 0 = some (cutOf true false [8]) ∧ 9 ∉ [8] ∧ 3 ∉ [8] ∧
    user.slotOfTag 9#16 = none ∧ (armed 5#64).slotOfTag 1#16 = some 0 ∧ 8 ∈ (cutOf true false [8]).begun ∧ ((armed 5#64).ctx 0).state = 1#2 ∧
    1#8 ≠ ((armed 5#64).ctx 0).epoch ∧ (armed 5#64).saveOk 0 = true ∧ user.saveOk 0 = false ∧ (user.ctx 0).state = 1#2 ∧
    (∀ u, u < 10 → u ∈ (cutOf true false (List.range 10)).begun) ∧ (cutting (cutOf true false (List.range 10))).peers 0 = [] ∧
    (cutting (cutOf false true (List.range 10))).disp.cuts = [cutOf false true (List.range 10)] ∧
    (cutting (cutOf true false [8])).disp.switch.begun = true ∧ (∀ c ∈ (cutting (cutOf true false [8])).disp.cuts, c.quiesce = true) := by decide +kernel
theorem test_cut_completes : ((afterMsg .cutComplete (cutting (cutOf true false (List.range 10))) {}).ctx 0).state = 3#2 := by decide +kernel
theorem witness_BootsAndResets : (0#8 = 0#8) ∧ 6 < (7#8).toNat ∧ 1 ≤ (6#8).toNat ∧ (6#8).toNat ≤ 6 ∧ 2 ≤ (2#32).toNat ∧ (1#32).toNat < 2 ∧ dieOfHart 255 = 0 ∧ 255 < 2048 := by decide
/-- A mailbox that runs a command with a request. -/
def boxed (len : Nat) (l : List Byte) : State :=
  user.updTrust fun t => { t with busy := true, cmd := BitVec.ofNat 64 (len * 2 ^ 24), request := (List.range l.length).map fun i => (i, l.getD i 0#8) }
theorem witness_MailboxCommands : user.trust.busy = false ∧ (boxed 0x17 []).trust.busy = true ∧ (boxed 0x17 []).reqLen < 0x18 ∧ (boxed 8 (toBytes 8 8)).reqWord 0 = 8#64 ∧
    8 ≤ (boxed 8 (toBytes 8 8)).reqLen ∧ (guarded.objectOf 0x10003#64) = some 3 ∧ guarded.objectOf 0x20003#64 = none ∧
    (∀ l ∈ guarded.disp.launches, l.2.handle ≠ 0x10003#64) ∧ ((boxed 8 (toBytes 8 0)).ctx 0).state ≠ 0#2 ∧ ((boxed 8 (toBytes 8 7)).ctx 7).state = 0#2 ∧
    (∀ c ∈ user.m.channels, c.2.names 8 = false) ∧ (boxed 0xD8 []).trust.ownerKeys = [] ∧ 0xD8 ≤ (boxed 0xD8 []).reqLen :=
  ⟨rfl, rfl, by decide, by decide, by decide, by decide, by decide, (by intro x h; cases h), by decide, by decide, (by intro x h; cases h), rfl, by decide⟩
theorem test_context_key : (after .loadContextKey (boxed 8 (toBytes 8 7))).trust.result = 0#8 ∧ (after .loadContextKey (boxed 8 (toBytes 8 0))).trust.result = 5#8 := by decide
def inSession (e : Bool) : State := user.updTrust fun t => { t with sessions := [{ id := 0x10000#32, mutualAuth := false, established := e, updates := 0 }] }
theorem witness_SpdmRequests : (∃ x ∈ (inSession true).trust.sessions, x.id = 0x10000#32 ∧ x.established = true) ∧
    (∀ x ∈ (inSession false).trust.sessions, x.id = 0x10000#32 → x.established = false) ∧ (inSession true).trust.sessions.length < 4 ∧
    (∀ x ∈ user.trust.sessions, x.id ≠ 0#32) ∧ user.trust.chunk = none ∧ 8 < (9#8).toNat ∧ (254#8).toNat < 255 :=
  ⟨⟨_, List.mem_singleton.2 rfl, rfl, rfl⟩, by simp [inSession], by decide, (by intro x h; cases h), rfl, by decide, by decide⟩
theorem test_spdm_sessions : (after .spdmKeyExchange (inSession true)).trust.sessions.map (·.id) = [0x10000#32, 1#32] := by decide

/-! ### Further witnesses, clause by clause -/

theorem test_sha384 : sha384 [] = 0x38b060a751ac96384cd9327eb1b1e36a21fdb71114be07434c0cc7bf63f6e1da274edebfe76f65fbd51ad2f14898b95b#384 := by decide +kernel
theorem witness_Steps_agents : (∀ t, exec .grant { scheduled with turns := [2048], inbox := [], msg := {} } = .next t → t.waitingEvents ≤ scheduled.waitingEvents) :=
  fun t h => by cases h; decide
/-- A source whose hold and spill page are full, so that the next event waits. -/
def event : EvRec := { count := 1#16, die := 0#3, srcio := true, kind := 4#8, seq := 0#32, detail := 5#64, time := 0#64, ctxid := 0#16, fofs := 0#8, hart := 0#27 }
def crowded : State := placed.setEvSource 8 { EvSource.reset with hold := List.replicate 16 event, spill := List.replicate 2048 event }
theorem witness_Steps_events : (match exec .ucieLaneRepair crowded with | .next t => decide (crowded.waitingEvents < t.waitingEvents) | _ => false) = true := by decide +kernel
theorem witness_ControlRegistersKeepTheirFields : user.creg 0x030#16 ≠ none ∧ user.creg 0x120#16 ≠ none ∧ (0x000#16 : BitVec 16) ≠ 0x001#16 := by decide
theorem witness_RationalInstructionResults_mediants : (withF rational 0#64 0#64).qval 1#5 = .fin false 0 1 ∧
    (withF rational (fsInf true) (fsInf true)).qval 2#5 = .inf true ∧ (withF rational (fsInf true) (fsInf false)).qval 2#5 = .inf (!true) ∧
    (withF rational (fsWord true 3 2) (fsWord false 1 2)).qval 2#5 = .fin (!true) 1 2 ∧ (withF rational 0#64 (fsWord true 3 2)).qval 2#5 = .fin true 3 2 ∧
    (withF rational 0#64 (fsInf true)).qval 2#5 = .inf true ∧ (withF rational (fsInf true) (fsWord true 3 2)).qval 2#5 = .fin true 3 2 := by decide
theorem witness_QueueLocks_draws : user.homeWaits 1 0 0x200000 = false ∧ (3#10 : BitVec 10) ≠ user.fab.dev ∧ dieOf (laOf 0x200000) = 0 ∧
    (lockWord (lockHome user) 1 0x200000).1 ≠ (lockWord (lockHome user) 1 0x200000).2 ∧ (lockWord (lockHome user) 1 0x200000).1 = 2#32 := by decide
/-- A hart in an orbit task, with its three registers kept, and the orbit whose station runs that task. -/
def tasking : State := user.updHart fun h => { h with irq := { h.irq with inh := true, cause := 3#4, keep4 := 4#64, keep5 := 5#64, keep6 := 6#64 } }
def tasked : State := tasking.updDisp fun d => { d with orbits := [(0, { orbitOf 2#2 with stations := [{ station with hart := 0, task := true }] })] }
theorem witness_Handlers_task : tasking.hart.sup = false ∧ tasking.hart.irq.inh = true ∧ tasking.hart.irq.cause = 3#4 ∧ tasking.taskOf tasking.cur = none ∧
    tasked.taskOf tasked.cur = some (0, 0) ∧ (tasked.orbit 0).stations[0]? = some { station with hart := 0, task := true } := by decide
theorem test_uret_task : (after .uret tasked).xr 5#5 = 5#64 ∧ ((after .uret tasked).orbit 0).dcount = (tasked.orbit 0).dcount + 1 := by decide
theorem witness_Handlers_invalidate : cached.translated 0 1 0#16 0x40000000#64 = false ∧ user.hart.phase = .running ∧ 3 < 4 := by decide
/-- A cached vector head whose window holds the page named. -/
def windowed : State := cached.updHart fun h => { h with vq := [{ vectored.qentry (.vld 1#5 2#5 0#1 0#1) with spans := [{ lo := 0x40000000, size := 4096, leaf := some leaf, reason := 0#4, level := 0, first := { k := 0, i := 0, va := 0x40000000#64, n := 8, bit := 0, w := 64 } }] }] }
theorem witness_Handlers_invalidate_waits : windowed.translated 0 1 0#16 0x40000000#64 = true := by decide

/-! #### Vector values -/

theorem witness_VectorValuesByPosition : (∀ o ∈ compareOps, VecReady vectorSuper (o.ins 1#5 2#5 3#5 0#1)) ∧ VecReady vectorSuper (.vsel 1#5 2#5 3#5 0#1 0#1) ∧
    (∀ o ∈ functionOps, VecReady vectorSuper (o.ins 1#5 2#5)) ∧ VecReady vectorSuper (.vcvt 1#5 2#5 0#1) ∧ VecReady vectorSuper (.vslup 1#5 2#5 3#5 0#3) ∧
    VecReady vectorSuper (.vsldn 1#5 2#5 3#5 0#3) ∧ VecReady vectorSuper (.vperm 1#5 2#5 3#5) ∧ VecReady vectorSuper (.vcomp 1#5 2#5) ∧
    VecReady vectorSuper (.vbcast 1#5 3#5) ∧ VecReady vectorSuper (.vins 1#5 2#5 3#5) ∧ Mem.wf vectorSuper.m.mem = true :=
  ⟨by simp only [compareOps, List.forall_mem_cons]; exact ⟨vector_ready _ (by decide), vector_ready _ (by decide), vector_ready _ (by decide),
      vector_ready _ (by decide), vector_ready _ (by decide), vector_ready _ (by decide), vector_ready _ (by decide), by simp⟩,
    vector_ready _ (by decide),
    by simp only [functionOps, List.forall_mem_cons]; exact ⟨vector_ready _ (by decide), vector_ready _ (by decide), vector_ready _ (by decide),
      vector_ready _ (by decide), vector_ready _ (by decide), by simp⟩,
    vector_ready _ (by decide), vector_ready _ (by decide), vector_ready _ (by decide), vector_ready _ (by decide), vector_ready _ (by decide),
    vector_ready _ (by decide), vector_ready _ (by decide), by decide⟩
theorem witness_ReductionsStringsAndPredicates : vectorSuper.hart.vec.vl.toNat ≤ 2 ^ 2 ∧ 2 ^ (2 - 1) < vectorSuper.hart.vec.vl.toNat ∧
    (∀ o ∈ reduceOps, VecReady vectorSuper (o.ins 1#5 2#5)) ∧ (∀ o ∈ scanOps, VecReady vectorSuper (o.ins 1#5 2#5)) ∧ VecReady vectorSuper (.vdot 1#5 2#5 3#5) ∧
    VecReady vectorSuper (.vbsl 1#5 2#5 3#5) ∧ VecReady vectorSuper (.vbsr 1#5 2#5 3#5) ∧ VecReady vectorSuper (.vbfun 1#5 2#5 3#5) ∧ VecReady vectorSuper (.vbpopc 1#5 2#5) ∧
    (∀ o ∈ predicateOps, VecReady vectorSuper (o.ins 1#5 2#5 3#5)) ∧ VecReady vectorSuper (.pnot 1#5 2#5) ∧ VecReady vectorSuper (.pmv 1#5 2#5) ∧
    VecReady vectorSuper (.pset 1#5 2#5) ∧ VecReady vectorSuper (.pfirst 1#5 2#5) :=
  ⟨by decide, by decide,
    by simp only [reduceOps, List.forall_mem_cons]; exact ⟨vector_ready _ (by decide), vector_ready _ (by decide), vector_ready _ (by decide),
      vector_ready _ (by decide), vector_ready _ (by decide), by simp⟩,
    by simp only [scanOps, List.forall_mem_cons]; exact ⟨vector_ready _ (by decide), vector_ready _ (by decide), vector_ready _ (by decide), by simp⟩,
    vector_ready _ (by decide), vector_ready _ (by decide), vector_ready _ (by decide), vector_ready _ (by decide), vector_ready _ (by decide),
    by simp only [predicateOps, List.forall_mem_cons]; exact ⟨vector_ready _ (by decide), vector_ready _ (by decide), vector_ready _ (by decide),
      vector_ready _ (by decide), by simp⟩,
    vector_ready _ (by decide), vector_ready _ (by decide), vector_ready _ (by decide), vector_ready _ (by decide)⟩
/-- Elements of 8 bytes of the plate, into two registers of the supervisor's share. -/
def platedVec : State := plated.updHart fun h => { h with sup := true, grant := vectorSuper.hart.grant, vec := vectorSuper.hart.vec }
theorem plated_ready (i : Instr) (h : (match vecCheck i platedVec with | .ok _ t => decide (t = platedVec) | .error _ _ => false) = true) :
    VecReady platedVec i := ⟨rfl, rfl, rfl, ⟨by decide, by decide, by decide, by decide, by decide, by decide, by decide⟩, passes h⟩
theorem plated_lies (k e : Nat) (hk : k < platedVec.hart.vec.vrows.toNat) (he : e < platedVec.hart.vec.vl.toNat) :
    InPlate platedVec (stridedPlace platedVec.hart.vec 0#64 64 k e) 64 5 := by
  have h : ∀ e, e < 4 → InPlate platedVec (stridedPlace platedVec.hart.vec 0#64 64 0 e) 64 5 := by unfold InPlate; decide
  obtain rfl : k = 0 := by have : platedVec.hart.vec.vrows.toNat = 1 := by decide
                           omega
  exact h e (by have : platedVec.hart.vec.vl.toNat = 4 := by decide
                omega)
/-- The bit address of element e of that row. -/
def platedBit (e : Nat) : Nat := plateBit platedVec (stridedPlace platedVec.hart.vec 0#64 64 0 e) 5
theorem plated_apart : ElemsApart (fun k e => k < platedVec.hart.vec.vrows.toNat ∧ e < platedVec.hart.vec.vl.toNat ∧
      platedVec.pbit platedVec.hart.vec platedVec.hart.vec.vmsel.toNat e = true)
    (fun k e => plateBit platedVec (stridedPlace platedVec.hart.vec 0#64 64 k e) 5) (fun _ _ => 64) := by
  have h : ∀ e, e < 4 → ∀ f, f < 4 → e ≠ f → platedBit e + 64 ≤ platedBit f ∨ platedBit f + 64 ≤ platedBit e := by decide
  have h1 : platedVec.hart.vec.vrows.toNat = 1 := by decide
  have h4 : platedVec.hart.vec.vl.toNat = 4 := by decide
  rintro k e l f ⟨hk, he, -⟩ ⟨hl, hf, -⟩ hne
  obtain rfl : k = 0 := by omega
  obtain rfl : l = 0 := by omega
  exact h e (by omega) f (by omega) fun q => hne (by rw [q])
/-- A check that gives a value and changes nothing, found by evaluation. -/
theorem gives {α : Type} [DecidableEq α] {m : M α} {s : State} {a : α} (h : (match m s with | .ok b t => decide (b = a) && decide (t = s) | .error _ _ => false) = true) :
    m s = .ok a s := by
  split at h
  · next u t e => simp at h; obtain ⟨rfl, rfl⟩ := h; exact e
  · simp at h
/-- The same with a synchronised page for the progress word, which x2 names. -/
def notified : State :=
  let s := (platedVec.setX 2#5 0x40000000#64).updHart fun h => { h with sregs := synced.hart.sregs }
  s.setCore 0 (synced.core 0)
theorem witness_VectorLoadsAndStores_progress : VecReady notified (.vstN 1#5 0#5 2#5 0#1 0#1) ∧ 0 < notified.hart.vec.vl.toNat ∧
    progressWord notified.hart.user.pwb (notified.xr 2#5) notified = .ok 0x200000 notified ∧ 0x200000 % 8 = 0 ∧
    QuietHome notified (keySlot notified.hart.ctx) 0x200000 :=
  ⟨⟨rfl, rfl, rfl, ⟨by decide, by decide, by decide, by decide, by decide, by decide, by decide⟩, passes (by decide)⟩, by decide, gives (by decide), by decide,
    ⟨by decide, by decide, by decide, by decide, rfl, fun _ _ => rfl, rfl, rfl, by decide, by decide⟩⟩
theorem witness_VectorLoadsAndStores : Mem.wf platedVec.m.mem = true ∧ platedVec.hart.vec.vstart = 0#32 ∧ (platedVec.hart.vec.ty 1).width = 64 ∧
    VecReady platedVec (.vld 1#5 0#5 0#1 0#1) ∧ VecReady platedVec (.vst 1#5 0#5 0#1 0#1) ∧ VecReady platedVec (.vldT 1#5 0#5 0#1 0#1) ∧
    VecReady platedVec (.vldx 1#5 0#5 2#5 0#1 0#1) ∧ VecReady platedVec (.vstx 1#5 0#5 2#5 0#1 0#1) ∧ VecReady platedVec (.vstN 1#5 0#5 2#5 0#1 0#1) ∧
    (∀ e, e < 4 → InPlate platedVec (indexedPlace 0#64 (platedVec.index platedVec.hart.vec 2 e)) 64 5) :=
  ⟨by decide, by decide, by decide, plated_ready _ (by decide), plated_ready _ (by decide), plated_ready _ (by decide), plated_ready _ (by decide),
    plated_ready _ (by decide), plated_ready _ (by decide), by unfold InPlate; decide⟩
theorem witness_VectorLoadsAndStores_indexed : (∀ f : Nat → Nat → Nat, ElemsApart (fun k e => k = 0 ∧ e < 1) f (fun _ _ => 64)) ∧
    VecReady (platedVec.updVec fun v => { v with vl := 1#14 }) (.vstx 1#5 0#5 2#5 0#1 0#1) :=
  ⟨fun f k e l g hk hl hne => absurd (by simp only [Prod.mk.injEq]; omega) hne,
    ⟨rfl, rfl, rfl, ⟨by decide, by decide, by decide, by decide, by decide, by decide, by decide⟩, passes (by decide)⟩⟩
/-- The same hart with tiles and accumulators, two rows of two bytes a tile, and bytes in its vector registers. -/
def tiling : State := platedVec.updHart fun h =>
  { h with grant := { h.grant with tcnt := 4#4, acnt := 4#3 }, user := { h.user with tshape := Vector.replicate 8 0x02027#20 },
           vec := { h.vec with vpitch := 16#40, vtaglo := 0x7777777777777777#64, b := 512 } }
theorem tiling_ready (i : Instr) (h : (match matrixCheck i tiling with | .ok _ t => decide (t = tiling) | .error _ _ => false) = true) :
    MatReady tiling i :=
  ⟨rfl, rfl, rfl, ⟨by decide, by decide, by decide, by decide, by decide, by decide, by decide⟩, passes h, by decide, by decide, by decide⟩
/-- Element e of row k as the instructions of the matrix queue address it from VA 0. -/
def tilePlace (k e : Nat) : Word × Nat := (BitVec.ofInt 64 ((0#64 : Word).toNat + k * tiling.hart.vec.vpitch.toInt + (e * 8 / 8 : Nat)), e * 8 % 8)
theorem tile_lies : ∀ k, k < 2 → ∀ e, e < 4 → InPlate tiling (tilePlace k e) 8 5 := by unfold InPlate; decide
theorem tile_apart : ElemsApart (fun k e => k < 2 ∧ e < 2) (fun k e => plateBit tiling (tilePlace k e) 5) (fun _ _ => 8) := by
  have h : ∀ n, n < 4 → ∀ m, m < 4 → n ≠ m → plateBit tiling (tilePlace (n / 2) (n % 2)) 5 + 8 ≤ plateBit tiling (tilePlace (m / 2) (m % 2)) 5 ∨
      plateBit tiling (tilePlace (m / 2) (m % 2)) 5 + 8 ≤ plateBit tiling (tilePlace (n / 2) (n % 2)) 5 := by decide
  rintro k e l f ⟨hk, he⟩ ⟨hl, hf⟩ hne
  have q := h (2 * k + e) (by omega) (2 * l + f) (by omega) fun q => hne (by simp only [Prod.mk.injEq]; omega)
  have e1 : (2 * k + e) / 2 = k ∧ (2 * k + e) % 2 = e := by omega
  have e2 : (2 * l + f) / 2 = l ∧ (2 * l + f) % 2 = f := by omega
  rwa [e1.1, e1.2, e2.1, e2.2] at q
theorem witness_TilesAndProducts : (∀ t : Reg, t.toNat < 8 → ShapeIs tiling t (.int 8 true) 2 2) ∧ MatReady tiling (.tld 1#5 0#5) ∧
    MatReady tiling (.tst 1#5 0#5) ∧ MatReady tiling (.mop 0#5 1#5 2#5) ∧ MatReady tiling (.mops 0#5 3#5 2#5) ∧
    MatReady tiling (.mopM 0#5 1#5 0#5) ∧ tiling.hart.user.mstart = 0#10 ∧ MatReady tiling (.accx 1#5 0#5 2#5) ∧
    MatReady tiling (.acci 0#5 1#5 2#5) :=
  ⟨by unfold ShapeIs; decide, tiling_ready _ (by decide), tiling_ready _ (by decide), tiling_ready _ (by decide), tiling_ready _ (by decide),
    tiling_ready _ (by decide), by decide, tiling_ready _ (by decide), tiling_ready _ (by decide)⟩
/-! #### Deliveries -/
/-- A mailbox owner's registers, empty or full, in a share beside the sender's. -/
def owner (full : BitVec 32) : Hart := { mate with grant := { mate.grant with voff := 8#9, vsz := 4#10 }, vec := { vectorSuper.hart.vec with mbx := 0xFFFF#32, full } }
def sender (full : BitVec 32) : State :=
  let s := { team with others := [(16, owner full), (32, { mate with phase := .idle, launch := none })] }
  (s.updHart fun h => { h with sup := true, grant := vectorSuper.hart.grant, vec := vectorSuper.hart.vec, user := { h.user with pushlim := 8#32 } }).setX 2#5 1#64
theorem sender_ready (full : BitVec 32) (h : full = 0#32 ∨ full = 2#32) (i : Instr)
    (e : (match vecCheck i (sender full) with | .ok _ t => decide (t = sender full) | .error _ _ => false) = true) : VecReady (sender full) i := by
  rcases h with rfl | rfl <;>
    exact ⟨rfl, rfl, rfl, ⟨by decide, by decide, by decide, by decide, by decide, by decide, by decide⟩, passes e⟩
theorem witness_VectorPushes : (sender 0#32).logicalHart ((sender 0#32).xr 2#5) = some 16 ∧ (sender 2#32).logicalHart ((sender 2#32).xr 2#5) = some 16 ∧
    16 ≠ (sender 0#32).cur ∧ VecReady (sender 0#32) (.vpush 1#5 2#5) ∧ VecReady (sender 2#32) (.vpush 1#5 2#5) ∧ VecReady (sender 0#32) (.vpushT 1#5 1#5 2#5) ∧
    (let h := (sender 0#32).getHart 16
     h.vec.nregs * h.vec.b ≤ 8192 * h.grant.vsz.toNat ∧ h.grant.voff.toNat + h.grant.vsz.toNat ≤ 512 ∧ h.vec.ill = false ∧ h.vec.mbx.getLsbD 1 = true ∧
     h.vec.full.getLsbD 1 = false ∧ 1 < h.vec.nregs ∧ 4 ≤ h.vec.b / ((sender 0#32).hart.vec.ty 1).width) ∧
    ((sender 2#32).getHart 16).vec.full.getLsbD 1 = true ∧ (sender 0#32).hart.vec.vrows.toNat = 1 ∧ clusterOf 16 ≠ clusterOf (sender 0#32).cur ∧
    4 * ((sender 2#32).time - (sender 2#32).hart.pushSince.getD (sender 2#32).time) < (sender 2#32).hart.user.pushlim.toNat ∧ Settled (sender 2#32) ∧
    (let s : State := { (sender 2#32).updHart (fun h => { h with pushSince := some 0 }) with time := 2 }
     s.hart.user.pushlim.toNat ≤ 4 * (s.time - s.hart.pushSince.getD s.time)) :=
  ⟨by decide, by decide, by decide, sender_ready _ (.inl rfl) _ (by decide), sender_ready _ (.inr rfl) _ (by decide), sender_ready _ (.inl rfl) _ (by decide),
    by decide, by decide, by decide, by decide, by decide, ⟨rfl, rfl, by decide⟩, by decide⟩
/-! #### Saved vector state -/
/-- The first 256 bytes of the plate. -/
def headOf (s : State) : List Byte := (List.range 256).map fun i => (Mem.read s.m.mem (platePhys s 0#64 5 + i)).getD 0#8
def savedEmpty : State := after (.vsave 3#5 0#5) plated
def savedGood : State := after (.vsave 3#5 0#5) savable
theorem witness_VectorConfigurationAndState_vext : (withX vectored 0#64 0x3#64).hart.vec.admits (vuse (.vext 1#5 3#5 2#5)) = true ∧
    ((withX vectored 0#64 0x3#64).xr 2#5).extractLsb' 0 16 = 3#16 ∧ ((withX vectored 0#64 0x10000#64).xr 2#5).extractLsb' 16 16 = 1#16 ∧
    vectored.hart.vec.vrows.toNat = 1 ∧ vectored.hart.vec.vl.toNat = 4 ∧ (vectored.hart.vec.ty 3).isFloat = false ∧
    ((vectored.updVec fun v => { v with vtaglo := 0#64 }).hart.vec.ty 3).isFloat = true := by decide
theorem witness_VectorConfigurationAndState_saves : PlateAccess plated 0#64 8 5 ∧ PlateAccess savable 0#64 8 5 ∧ savable.hart.vec.ill = false ∧
    (∀ k, k < savable.hart.vec.nregs → savable.hart.vec.vl.toNat * savable.hart.vec.saveWidth k ≤ savable.hart.vec.b) ∧
    plateOfs 0#64 + (savedArea savable).length ≤ 0x40000 ∧ plateOfs 0#64 + (savedArea plated).length ≤ 0x40000 :=
  ⟨⟨by decide, ⟨rfl, rfl, rfl, rfl⟩, rfl, by decide, by decide, by decide, by decide, by decide, by decide⟩,
   ⟨by decide, ⟨rfl, rfl, rfl, rfl⟩, rfl, by decide, by decide, by decide, by decide, by decide, by decide⟩, rfl, by decide, by decide +kernel, by decide +kernel⟩
theorem witness_VectorConfigurationAndState_restores : ¬ acceptedHeader plated.hart.grant.vsz.toNat (headOf plated) ∧
    acceptedHeader savedEmpty.hart.grant.vsz.toNat (headOf savedEmpty) ∧ (hdrWord (headOf savedEmpty) 0x60).testBit 5 = true ∧
    acceptedHeader savedGood.hart.grant.vsz.toNat (headOf savedGood) ∧ (hdrWord (headOf savedGood) 0x60).testBit 5 = false ∧
    (hdrWord (headOf savedGood) 0x70).testBit 32 = false ∧ savedGood.hart.grant.voff.toNat + savedGood.hart.grant.vsz.toNat ≤ 512 ∧
    Mem.wf savedGood.m.mem = true ∧ hdrWord (headOf savedGood) 0x08 = 1 := by
  unfold acceptedHeader; decide +kernel
theorem witness_VectorConfigurationAndState_places : PlateAccess savedEmpty 0#64 8 5 ∧ PlateAccess savedGood 0#64 8 5 := by
  unfold PlateAccess Idle; decide +kernel
/-! ### More witnesses: what waits, what another device does, and the clauses of the switch -/

theorem witness_OrbitRoundsAndLaps_stopped : (orbiting (orbitOf 1#2)).orbitRuns 0 = false ∧ ((orbiting (orbitOf 1#2)).orbit 0).stations[0]? = some station ∧
    ((orbiting (orbitOf 1#2)).orbit 0).stations[5]? = none ∧ (0#8 : BitVec 8) ≠ 1#8 ∧
    (let o := (orbiting (orbitOf 2#2)).orbit 0
     ((orbiting (orbitOf 2#2)).getHart o.owner).launch = o.launch ∧ ((orbiting (orbitOf 2#2)).getHart o.owner).ctx = o.ctx ∧
     (((orbiting (orbitOf 2#2)).updHart fun h => { h with launch := some 5 }).getHart o.owner).launch ≠ o.launch) := by decide
theorem witness_CopiesStartAndComplete_element : (let c : CopyCmd := { byteCopy with blockPa := 0x200000 }
    c.active = true ∧ c.failed = none ∧ c.progress = 0 ∧ c.buffer = [] ∧ c.served = 0 ∧ c.filling = [] ∧ c.drained = [] ∧ c.size.toNat ∈ [1, 2, 4, 8] ∧
    c.src.total = 1 ∧ c.dst.total = 1 ∧ c.src.kind = 1#2 ∧ c.dst.kind = 1#2 ∧ inPlateWindow c.pwb (c.src.addr 0) = true ∧ inPlateWindow c.pwb (c.dst.addr 0) = true ∧
    plateOfs (c.src.addr 0) + 1 ≤ 0x40000 ∧ plateOfs (c.dst.addr 0) + 1 ≤ 0x40000 ∧ c.hart < 2048 ∧
    (copyHome.getHart c.hart).slotAt (plateSlotOf (c.src.addr 0)).toNat = .attached 5 ∧ (copyHome.getHart c.hart).slotAt (plateSlotOf (c.dst.addr 0)).toNat = .attached 6) ∧
    (copyHome.plate 5).state = 2#2 ∧ (copyHome.plate 6).state = 0#2 ∧ (copyHome.plate 6).hand = none ∧ copyHome.m.marks = [] ∧
    (0x200000 + 0x28) % 8 = 0 ∧ QuietHome copyHome (keySlot byteCopy.ctx) (0x200000 + 0x28) :=
  ⟨by decide, by decide, by decide, by decide, rfl, by decide, ⟨by decide, by decide, by decide, by decide, rfl, fun _ _ => rfl, rfl, rfl, by decide, by decide⟩⟩
/-- The parts of a refused `klaunch` whose queue does not wait. -/
def refusedAtOnce (sel : Word) (s : State) : Bool :=
  match templatePlaces 0#64 4 s with
  | .ok ps t => match doRelease 3#2 0xFFFE#16 t with
    | .ok _ u => match blockRead 0#64 ps u with
      | .ok image w => !(w.klaunchView sel).any (fun x => w.queueWaits x (sel.toNat % 64)) && (match w.klaunchReserve sel image with | (_, .error st) => decide (st < 256) | _ => false)
      | .error .. => false
    | .error .. => false
  | .error .. => false
theorem witness_KernelLaunch_now : refusedAtOnce 0x40#64 plated = true := by decide +kernel
/-- The header of one element of 8 bytes at an address of device 1, from device `dev`. -/
def headerTo (dev : BitVec 10) : List Word := [0x1010040000200000#64, 0#64, 0x280#64, 0x0004000000000000#64 ||| (dev.zeroExtend 64 <<< 38)]
/-- Two planes are up, with no request outstanding, in a domain with every device a member, whose context 1 device 1 holds too. -/
def linked : State := planes.updFab fun f => { f with remotes := [], members := [(0, 0xFFFFFFFFFFFFFFFF#64)], remoteCtxs := [{ dev := 1, tag := 1#16, slot := 0#3, qtab := 0#64, ptb := 0#64 }] }
/-- (Whether a line of another device comes at a step is a free value where a plane is up: the header shown has no active position.) -/
theorem witness_VectorHeadersAndBeats_waits : (vhead (header 1#4)).map (fun h => (user.isRemote h.pa, user.headWaits h 0 2, (stalled user).headWaits h 0 2)) = some (false, false, true) ∧
    (vhead (headerTo 0#10)).map (fun h => (user.isRemote h.pa, h.op, h.key, h.dev)) = some (true, 1, 1, 0) ∧ (vhead (headerTo 5#10)).map (·.dev) = some 5 ∧
    (vhead [0x1010040000200000#64, 0#64, 0x281#64, 0x0004000000000000#64, 0#64]).map (fun h => (user.isRemote h.pa, h.dev, h.lines)) = some (true, 0, []) ∧
    (vhead (headerTo 0#10)).map (fun h => (h.lines.any fun ln => user.homeWaits h.key 0 (ln * 64))) = some true := by decide +kernel
theorem witness_CoherenceMessages_waits : user.homeWaits 1 0 0x200000 = false ∧ (stalled user).homeWaits 1 0 0x200000 = true ∧
    (∀ j, j < 16 → (mixed.ownerWord 0 0x9000 j).any (fun x => decide (x.1.length ≠ 4)) = false) ∧ (mixed.ownerWord 0 0x9000 0).isSome = true ∧
    (∀ i, i < 16 → (user.pointWord 1 0 0x8000 i).1.length = 4) ∧ user.ownerWord 0 0x8000 0 = none :=
  ⟨by decide, by decide, fun j _ => by decide +revert, by decide, fun i _ => by decide +revert, by decide⟩
theorem witness_SynchronisedAndWindowAccesses_waits : user.homeWaits 1 (dieOf (laOf 0x200000)) 0x200000 = false ∧
    (stalled user).homeWaits 1 (dieOf (laOf 0x200000)) 0x200000 = true ∧ guarded.homeWaits 1 (dieOf (laOf 0x200FF8)) 0x200FF8 = false := by decide
/-- A port after fifteen failed retries, and a link after four repaired lanes of one direction. -/
def retried : State := user.updFab fun f => { f with ports := [(3, { Port.reset with mode := 1#4, inuse := true, streak := 15 })], links := [(2, { Link.reset with outward := 4 })] }
/-- An ordered copy of an element to device 1, of hart 0. -/
def remoteCopy : CopyCmd := { byteCopy with dst := { sideAt 0x200000#64 with kind := 3#2 }, dev := some 1 }
theorem witness_FabricAndClockMessages_more : (retried.fab.ports.get .reset 3).streak = 15 ∧ ((0 : Nat) < 15) ∧ 4 ≤ (retried.fab.links.get .reset 2).repaired true ∧
    (retried.fab.links.get .reset 2).repaired false < 4 ∧ (retried.fab.links.get .reset 2).half = false ∧
    (planes.fab.remotes.any fun r => decide (r.hart = 0) && !r.held && decide (r.pa / 64 = 0x40000200000 / 64)) = true ∧ user.isRemote 0x40000200000 = true ∧
    (planes.getHart 0).phase = .running ∧ (planes.getHart 0).trap.trentry.getLsbD 0 = true ∧ (planes.fab.ports.map (·.1)).Pairwise (· < ·) ∧
    planes.isRemote 0x40000200000 = true ∧
    (let s := { copyHome with fab := linked.fab }.setCluster 0 { ClusterState.reset with copies := [remoteCopy] }
     (s.cluster 0).copies = [remoteCopy] ∧ remoteCopy.hart = 0 ∧ remoteCopy.active = true ∧ remoteCopy.ordered = true ∧ s.copyRemote remoteCopy = true) := by decide
theorem witness_TrapsAndUserInterrupts_queued : fullQueue.hart.vq.length = 16 ∧
    ((fullQueue.updHart fun h => { h with resizePending := true, irq := { h.irq with xres := 8#64 } }).hart.resizePending = true) ∧
    (UserItem.isTask (.copyDone 4#32 0x100#64) = false) := by decide
/-- A root table whose first entry is not valid. -/
def rooted : State :=
  (user.updHart fun h => { h with sregs := { h.sregs with sptb := 0x8000000004000000#64 } }).updMem fun m => { m with mem := cells 0x400000 (toBytes 8 2) }
theorem witness_QueuesAreServed_waits : rooted.walkWaits (rooted.walkerOf 0) 0x40000000#64 = false ∧
    (match rooted.walk (rooted.walkerOf 0) .load 0x40000000#64 3 0x400000 with | (_, .fault ..) => true | _ => false) = true ∧ (ioHeld.walkWaits (ioHeld.walkerOf 0) 0x40000000#64) = true := by decide +kernel
/-- A tile load at the head of its core's queue whose line waits. -/
def tileWaits : State :=
  let s := tiling.updHart fun h => { h with sup := false, sregs := cached.hart.sregs }
  let s := stalled (((s.setCore 0 { CoreState.reset with dtlb := [leaf] }).setCluster 0 { ClusterState.reset with pre := [leaf] }).setX 2#5 0x40000000#64)
  s.updHart fun h => { h with mq := [s.qentry (.tld 1#5 2#5)] }
theorem witness_QueuesAreServed_stalls : tileWaits.matrixHead (coreOf 0) = some 0 ∧ Serves tileWaits 0 ∧
    tileWaits.hart.mq.map (fun q => (Instr.isMopM q.instr, tileWaits.blocked true q)) = [(false, false)] ∧
    (tileWaits.hart.mq.map fun q => match runEntry q tileWaits with | .error .stall _ => true | _ => false) = [true] :=
  ⟨by decide, serves _ (by decide), by decide, by decide +kernel⟩
/-- A switch in progress to slot 2, which asks for die 1; and a context 0 whose quiesce goes on. -/
def switching : State := (described 2#64).updSwitch fun w => { w with phase := 2#2, park := false, target := 2#3 }
theorem witness_ContextsAndQuiesces_more : switching.promisedDies = [1] ∧ user.promisedDies = [] ∧ user.commandWaits 0 = false ∧
    (user.after [(.endLaunch, {})]).commandWaits 0 = true ∧ (cutting (cutOf true false [8])).stillBusy 0 = true ∧ (switching.disp.switch.phase = 2#2) := by decide
theorem witness_TheSwitch_begins : ((armed 0#64).disp.switch.phase ≠ 0#2 ∧ (armed 0#64).disp.switch.begun = false ∧ (armed 0#64).disp.switch.latched.toNat ≤ (armed 0#64).time) ∧
    ¬ (armed 5#64).disp.switch.latched.toNat ≤ (armed 5#64).time ∧ (∃ n ∈ ((armed 0#64).updCtx 0 fun c => { c with save := 0#64 }).outgoing true 0,
      ((armed 0#64).updCtx 0 fun c => { c with save := 0#64 }).saveOk n = false) ∧
    ((cutting (cutOf true false [8])).ctxidOf 0 = 0#16) ∧ (cutOf true false [8]).epoch = (1#64 : Word).setWidth 8 ∧ 9 ∉ (cutOf true false [8]).begun ∧
    (∀ v, v < 10 → v = 9 ∨ v ∈ (cutOf true false (List.range 9)).begun) :=
  ⟨by decide, by decide, ⟨0, by decide, by decide⟩, by decide, by decide, by decide, fun v _ => by decide +revert⟩
theorem witness_TheSwitch_holds : (let s := cutting (cutOf true false (List.range 10)); ∀ d ∈ s.peers 0, ∀ p ∈ s.planesUp, (d, p) ∈ (cutOf true false (List.range 10)).markers) ∧
    (let s := cutting (cutOf false false (List.range 10)); ∀ d ∈ s.peers 0, ∀ p ∈ s.planesUp, (d, p) ∈ (cutOf false false (List.range 10)).markers) ∧
    ¬ (∀ u, u < 10 → u ∈ (cutOf true false [8]).begun) ∧
    (let s := (cutting (cutOf false true [8])).updDisp fun d => { d with cuts := [] }
     s.disp.switch.phase = 2#2 ∧ s.disp.switch.begun = true ∧ (∀ c ∈ s.disp.cuts, c.quiesce = true) ∧ s.disp.switch.park = true) ∧
    (let s := ((stateOf 2#2).updSwitch fun w => { w with phase := 2#2, begun := true, park := false, target := 0#3 })
     s.disp.switch.park = false ∧ (s.ctx 0).state = 2#2 ∧ (s.ctx 0).dies.any (s.heldDies 0).contains = false) := by decide +kernel
/-- Firmware images that verify rest on the digest of the firmware key, which is a free value, so no image is shown; the boot's other cases: -/
theorem witness_BootsAndResets_boots : user.trust.firmware = [] ∧ (4#64 : Word).getLsbD 2 = true ∧ (4#64 : Word).getLsbD 3 = false ∧ user.trust.recovery = false ∧
    user.ownerDev 0 = user.fab.dev ∧ dieOfHart (ownerHart 0) = 0 ∧ user.ownerDev (3 * 2048) ≠ user.fab.dev ∧
    ((parkedLock.slice 2).parks.map (·.hart)) = [0] := by decide
end Sys2Proof.Tests
end

section
/-! SUPPORT. Every step keeps the canonical form of memory. Memory is written by `Mem.write`, `Mem.writes`, `Mem.drop` and a filter alone, and
each of them keeps `Mem.wf` (Sys2Proof/Laws/Memory.lean). So the proof goes through the model from its state's parts up to `step`, with one lemma
for each operation: a state that it makes of a state in canonical form is in canonical form (`State.Canonical.f` for the operation `f`), a
computation keeps the form wherever it ends (`keeps_f`), and an outcome's next state has it (`Outcome.Kept.f`). A proof names the operations that
a definition chains; most of them leave memory alone and hand the hypothesis on. -/
namespace Sys2Proof.Machine
set_option Elab.async false

/-- The listed bytes of memory stand in canonical form. -/
def State.Canonical (s : State) : Prop := Mem.wf s.m.mem = true

/-- The state in which a computation ends, whether it completes or stops. -/
def M.after {α : Type} (x : M α) (s : State) : State :=
  match x s with
  | .ok _ t => t
  | .error _ t => t

/-- A computation that keeps the canonical form. -/
def M.Keeps {α : Type} (x : M α) : Prop := ∀ s : State, s.Canonical → (M.after x s).Canonical

/-- The next state of an outcome, where it has one, is in canonical form. -/
def Outcome.Kept (o : Host.Outcome State Fault Refusal) : Prop := ∀ t, o = .next t → t.Canonical

/-! ### Shapes of a state -/

theorem Mem.wf_foldl {α : Type} {g : List Host.Cell → α → List Host.Cell} {l : List α} {m : List Host.Cell} (hm : Mem.wf m = true)
    (hg : ∀ m, Mem.wf m = true → ∀ a, Mem.wf (g m a) = true) : Mem.wf (l.foldl g m) = true := by
  induction l generalizing m with
  | nil => exact hm
  | cons x l ih => exact ih (hg m hm x)

namespace State.Canonical

theorem of_mem_eq {s t : State} (hs : s.Canonical) (e : t.m.mem = s.m.mem) : t.Canonical := by
  unfold Canonical
  rw [e]
  exact hs

theorem ite {c : Prop} {_ : Decidable c} {a b : State} (ha : a.Canonical) (hb : b.Canonical) : (if c then a else b).Canonical := by
  split
  · exact ha
  · exact hb

theorem elim {α : Type} {o : Option α} {d : State} {f : α → State} (hd : d.Canonical) (h : ∀ a, (f a).Canonical) : (o.elim d f).Canonical := by
  cases o with
  | none => exact hd
  | some a => exact h a

theorem foldl {α : Type} {g : State → α → State} {l : List α} {s : State} (hs : s.Canonical)
    (hg : ∀ s, s.Canonical → ∀ a, (g s a).Canonical) : (l.foldl g s).Canonical := by
  induction l generalizing s with
  | nil => exact hs
  | cons x l ih => exact ih (hg s hs x)

theorem ite_fst {β : Type} {c : Prop} {_ : Decidable c} {a b : State × β} (ha : a.1.Canonical) (hb : b.1.Canonical) :
    (if c then a else b).1.Canonical := by
  split
  · exact ha
  · exact hb

theorem foldl_fst {α β : Type} {g : State × β → α → State × β} {l : List α} {p : State × β} (hp : p.1.Canonical)
    (hg : ∀ p, p.1.Canonical → ∀ a, (g p a).1.Canonical) : (l.foldl g p).1.Canonical := by
  induction l generalizing p with
  | nil => exact hp
  | cons x l ih => exact ih (hg p hp x)

/-- What a pair holds is what it was taken from. -/
theorem of_fst {β : Type} {p : State × β} {t : State} {b : β} (h : p.1.Canonical) (e : p = (t, b)) : t.Canonical := by
  subst e
  exact h

end State.Canonical

/-! ### Shapes of a computation -/

theorem M.Keeps.ok {α : Type} {x : M α} (hx : x.Keeps) {s t : State} {a : α} (hs : s.Canonical) (e : x s = .ok a t) : t.Canonical := by
  have h := hx s hs
  rwa [M.after, e] at h

theorem M.Keeps.error {α : Type} {x : M α} (hx : x.Keeps) {s t : State} {r : Stop} (hs : s.Canonical) (e : x s = .error r t) : t.Canonical := by
  have h := hx s hs
  rwa [M.after, e] at h

theorem M.Keeps.pure {α : Type} {a : α} : M.Keeps (Pure.pure a : M α) := fun _ h => h

theorem M.Keeps.throw {α : Type} {e : Stop} : (MonadExceptOf.throw e : M α).Keeps := fun _ h => h

theorem M.Keeps.set {s : State} (hs : s.Canonical) : (MonadStateOf.set s : M PUnit).Keeps := fun _ _ => hs

theorem M.Keeps.modify {g : State → State} (hg : ∀ s : State, s.Canonical → (g s).Canonical) : (modify g : M PUnit).Keeps := hg

theorem M.Keeps.bind {α β : Type} {x : M α} {f : α → M β} (hx : x.Keeps) (hf : ∀ a, (f a).Keeps) : (x >>= f).Keeps := by
  intro s hs
  cases e : x s with
  | ok a t =>
    rw [M.after, M.bind_ok e]
    exact hf a t (hx.ok hs e)
  | error r t =>
    rw [M.after, M.bind_error e]
    exact hx.error hs e

theorem M.Keeps.get {α : Type} {f : State → M α} (hf : ∀ s : State, s.Canonical → (f s).Keeps) : ((MonadState.get : M State) >>= f).Keeps :=
  fun s hs => hf s hs s hs

theorem M.Keeps.ite {α : Type} {c : Prop} {_ : Decidable c} {x y : M α} (hx : x.Keeps) (hy : y.Keeps) : (if c then x else y).Keeps := by
  split
  · exact hx
  · exact hy

theorem M.Keeps.map {α β : Type} {f : α → β} {x : M α} (hx : x.Keeps) : (f <$> x).Keeps := .bind hx fun _ => .pure

/-! ### Shapes of an outcome -/

theorem Outcome.Kept.next {s : State} (hs : s.Canonical) : Outcome.Kept (.next s) := by
  intro t h
  cases h
  exact hs

theorem Outcome.Kept.fault {f : Fault} : Outcome.Kept (.fault f) := fun _ h => nomatch h

theorem Outcome.Kept.refused {r : Refusal} : Outcome.Kept (.refused r) := fun _ h => nomatch h

theorem Outcome.Kept.ite {c : Prop} {_ : Decidable c} {x y : Host.Outcome State Fault Refusal} (hx : Outcome.Kept x) (hy : Outcome.Kept y) :
    Outcome.Kept (if c then x else y) := by
  split
  · exact hx
  · exact hy

/-! ### The state's parts -/

theorem keeps_raise {α code arg} : (raise code arg : M α).Keeps := .throw
theorem keeps_stall {α} : (stall : M α).Keeps := .throw
theorem State.Canonical.updHart {s : State} (hs : s.Canonical) {g} : (s.updHart g).Canonical := hs
theorem State.Canonical.setX {s : State} (hs : s.Canonical) {r v} : (s.setX r v).Canonical := hs
theorem State.Canonical.setF {s : State} (hs : s.Canonical) {r v} : (s.setF r v).Canonical := hs
theorem State.Canonical.setPc {s : State} (hs : s.Canonical) {v} : (s.setPc v).Canonical := hs
theorem State.Canonical.advance {s : State} (hs : s.Canonical) : (s.advance).Canonical := hs
theorem State.Canonical.updVec {s : State} (hs : s.Canonical) {g} : (s.updVec g).Canonical := hs
theorem State.Canonical.updUser {s : State} (hs : s.Canonical) {g} : (s.updUser g).Canonical := hs
theorem State.Canonical.updIrq {s : State} (hs : s.Canonical) {g} : (s.updIrq g).Canonical := hs
theorem State.Canonical.updTrap {s : State} (hs : s.Canonical) {g} : (s.updTrap g).Canonical := hs
theorem State.Canonical.updSup {s : State} (hs : s.Canonical) {g} : (s.updSup g).Canonical := hs
theorem State.Canonical.orFflags {s : State} (hs : s.Canonical) {b} : (s.orFflags b).Canonical := hs
theorem State.Canonical.setHart {s : State} (hs : s.Canonical) {n h} : (s.setHart n h).Canonical := .ite hs hs
theorem State.Canonical.updHartN {s : State} (hs : s.Canonical) {n g} : (s.updHartN n g).Canonical := hs.setHart
theorem State.Canonical.switchTo {s : State} (hs : s.Canonical) {n} : (s.switchTo n).Canonical := .ite hs hs

theorem State.Canonical.onHart {s : State} (hs : s.Canonical) {h g} (hg : ∀ s, s.Canonical → (g s).Canonical) :
    (s.onHart h g).Canonical :=
  .switchTo (hg _ hs.switchTo)

theorem State.Canonical.updMem {s : State} {g} (hg : Mem.wf (g s.m).mem = true) : (s.updMem g).Canonical := hg
theorem State.Canonical.updFab {s : State} (hs : s.Canonical) {g} : (s.updFab g).Canonical := hs
theorem State.Canonical.updDisp {s : State} (hs : s.Canonical) {g} : (s.updDisp g).Canonical := hs
theorem State.Canonical.updTrust {s : State} (hs : s.Canonical) {g} : (s.updTrust g).Canonical := hs
theorem State.Canonical.setCore {s : State} (hs : s.Canonical) {c v} : (s.setCore c v).Canonical := hs
theorem State.Canonical.setCluster {s : State} (hs : s.Canonical) {c v} : (s.setCluster c v).Canonical := hs
theorem State.Canonical.setSlice {s : State} (hs : s.Canonical) {k v} : (s.setSlice k v).Canonical := hs
theorem State.Canonical.setChannel {s : State} (hs : s.Canonical) {k v} : (s.setChannel k v).Canonical := hs
theorem State.Canonical.setPlate {s : State} (hs : s.Canonical) {p v} : (s.setPlate p v).Canonical := hs
theorem State.Canonical.setCtx {s : State} (hs : s.Canonical) {n v} : (s.setCtx n v).Canonical := hs
theorem keeps_takeFree : (takeFree).Keeps := .get fun _ ht => .bind (.set ht) fun _ => .pure
theorem keeps_takeChoice : (takeChoice).Keeps := .get fun _ ht => .bind (.set ht) fun _ => .pure
theorem State.Canonical.pickOne {s : State} (hs : s.Canonical) {l} : (s.pickOne l).1.Canonical := hs

/-! ### Flags -/

theorem State.Canonical.raiseFlags {s : State} (hs : s.Canonical) {e} : (s.raiseFlags e).Canonical := hs
theorem State.Canonical.orVflags {s : State} (hs : s.Canonical) {ovf inv} : (s.orVflags ovf inv).Canonical := hs

/-! ### Storage at home -/

theorem State.Canonical.keepUnder {s : State} (hs : s.Canonical) {ln} : (s.keepUnder ln).Canonical := by
  unfold State.keepUnder; split <;> exact hs

theorem State.Canonical.dropUnder {s : State} (hs : s.Canonical) {ln} : (s.dropUnder ln).Canonical := hs

theorem State.Canonical.homeStore {s : State} (hs : s.Canonical) {slot pa bs} : (s.homeStore slot pa bs).Canonical := by
  unfold State.homeStore
  split
  · refine .updMem (Mem.wf_writes ?_)
    split
    · exact hs.keepUnder
    · exact Mem.wf_drop hs.keepUnder
  · exact .updMem (Mem.wf_writes hs)

theorem State.Canonical.addPoison {s : State} (hs : s.Canonical) {ln} : (s.addPoison ln).Canonical := hs
theorem State.Canonical.noteRequest {s : State} (hs : s.Canonical) {h pa} : (s.noteRequest h pa).Canonical := .ite hs hs.updFab
theorem keeps_stallAt {α pa} : (stallAt pa : M α).Keeps := .bind (.modify fun _ ht => ht.noteRequest) fun _ => keeps_stall
theorem State.Canonical.answerRemote {s : State} (hs : s.Canonical) {slot ln} : (s.answerRemote slot ln).Canonical := .ite hs hs.updFab

theorem State.Canonical.tell {s : State} (hs : s.Canonical) {dev ln hart what m} : (s.tell dev ln hart what m).Canonical :=
  .ite hs hs.updFab

theorem State.Canonical.tellAll {s : State} (hs : s.Canonical) {dev what} : (s.tellAll dev what).Canonical := hs
theorem State.Canonical.after {s : State} (hs : s.Canonical) {l} : (s.after l).Canonical := hs
theorem State.Canonical.resendRemotes {s : State} (hs : s.Canonical) : (s.resendRemotes).Canonical := hs
theorem State.Canonical.fireAgents {s : State} (hs : s.Canonical) {pa n} : (s.fireAgents pa n).Canonical := hs

theorem State.Canonical.fireWatches {s : State} (hs : s.Canonical) {pa n} : (s.fireWatches pa n).Canonical :=
  .ite hs.fireAgents <| .foldl hs.fireAgents.setSlice fun _ ht _ => .ite ht.updHartN ht.tell

/-! ### Caches, registration and ownership -/

theorem State.Canonical.updL1 {s : State} (hs : s.Canonical) {c g} : (s.updL1 c g).Canonical := hs
theorem State.Canonical.updCC {s : State} (hs : s.Canonical) {k g} : (s.updCC k g).Canonical := hs
theorem State.Canonical.mapL1 {s : State} (hs : s.Canonical) {c ln g} : (s.mapL1 c ln g).Canonical := .ite hs.updL1 hs
theorem State.Canonical.mapCC {s : State} (hs : s.Canonical) {k ln g} : (s.mapCC k ln g).Canonical := .ite hs.updCC hs
theorem State.Canonical.revoke {s : State} (hs : s.Canonical) {h ln m} : (s.revoke h ln m).Canonical := .ite hs.tell hs.mapL1.mapCC
theorem State.Canonical.mergeUnder {s : State} (hs : s.Canonical) {ln} : (s.mergeUnder ln).Canonical := .ite hs.addPoison hs

theorem State.Canonical.homeLeft {s : State} (hs : s.Canonical) {v} : (s.homeLeft v).Canonical :=
  .ite hs (.dropUnder (.ite hs.mergeUnder hs))

theorem State.Canonical.sliceAdd {s : State} (hs : s.Canonical) {key l} : (s.sliceAdd key l).Canonical := hs
theorem State.Canonical.sliceDrop {s : State} (hs : s.Canonical) {key v} : (s.sliceDrop key v).Canonical := hs

theorem State.Canonical.homeMark {s : State} (hs : s.Canonical) {ln m psn} : (s.homeMark ln m psn).Canonical := by
  dsimp only [State.homeMark]
  split
  · exact hs.setSlice
  · split
    · exact hs.sliceAdd
    · exact hs
    · exact .ite hs hs.homeLeft.sliceDrop.sliceAdd

theorem State.Canonical.homeWriteWords {s : State} (hs : s.Canonical) {slot ln words data psn} :
    (s.homeWriteWords slot ln words data psn).Canonical := by
  unfold State.homeWriteWords
  extract_lets m t u
  have ht : t.Canonical := hs.answerRemote.homeMark
  have hu : u.Canonical := .ite ht.homeStore.fireWatches <| .foldl ht fun _ h _ => .ite h.homeStore.fireWatches h
  exact .ite hs (.ite hu.addPoison hu)

theorem State.Canonical.rlcPass {s : State} (hs : s.Canonical) {die ln m data psn} : (s.rlcPass die ln m data psn).Canonical := by
  dsimp only [State.rlcPass]
  split
  · exact hs
  · split
    · exact hs.setSlice
    · exact hs

theorem State.Canonical.rlcDrop {s : State} (hs : s.Canonical) {die ln m} : (s.rlcDrop die ln m).Canonical := by
  dsimp only [State.rlcDrop]
  split
  · exact hs
  · split
    · exact hs.setSlice
    · exact hs

theorem State.Canonical.dropOwners {s : State} (hs : s.Canonical) {key ln m} : (s.dropOwners key ln m).Canonical :=
  .setSlice (.foldl hs fun _ ht _ => ht.revoke)

theorem State.Canonical.writeHome {s : State} (hs : s.Canonical) {slot ln m data psn} : (s.writeHome slot ln m data psn).Canonical :=
  .ite hs hs.dropOwners.homeWriteWords

theorem State.Canonical.revokeWB {s : State} (hs : s.Canonical) {slot point h ln m rlc} : (s.revokeWB slot point h ln m rlc).Canonical :=
  .revoke (.ite hs (.ite hs.rlcPass.writeHome hs.homeWriteWords))

theorem State.Canonical.takeFrom {s : State} (hs : s.Canonical) {slot key ln m keep wb} : (s.takeFrom slot key ln m keep wb).Canonical :=
  .setSlice (.foldl hs fun _ ht _ => ht.revokeWB.revoke)

theorem State.Canonical.sliceAlloc {s : State} (hs : s.Canonical) {slot key l} : (s.sliceAlloc slot key l).Canonical := by
  unfold State.sliceAlloc
  split
  · exact hs.sliceAdd
  · exact hs
  · exact .sliceAdd (.sliceDrop (.ite hs.takeFrom.homeWriteWords hs.homeLeft))

theorem State.Canonical.openRow {s : State} (hs : s.Canonical) {pa} : (s.openRow pa).Canonical := .ite hs.setChannel hs

theorem State.Canonical.homeTouch {s : State} (hs : s.Canonical) {slot ln dirty} : (s.homeTouch slot ln dirty).Canonical := by
  dsimp only [State.homeTouch]
  split
  · exact .setSlice (.ite hs.answerRemote.openRow.mergeUnder hs.answerRemote)
  · exact .sliceAlloc (.ite hs.answerRemote.openRow hs.answerRemote)

theorem State.Canonical.retryWaiting {s : State} (hs : s.Canonical) {k} : (s.retryWaiting k).Canonical := hs
theorem State.Canonical.pinBy {s : State} (hs : s.Canonical) {x g} : (s.pinBy x g).Canonical := hs

theorem State.Canonical.unpinAll {s : State} (hs : s.Canonical) {l} : (s.unpinAll l).Canonical :=
  .foldl hs fun _ ht _ => ht.pinBy.retryWaiting

theorem State.Canonical.fetchLine {s : State} (hs : s.Canonical) {slot die ln} : (s.fetchLine slot die ln).1.Canonical := by
  dsimp only [State.fetchLine]
  split
  · exact hs.homeTouch
  · split
    · exact hs.homeTouch.setSlice
    · exact hs.homeTouch.sliceAlloc

theorem State.Canonical.writeBack {s : State} (hs : s.Canonical) {slot die ln m data psn} :
    (s.writeBack slot die ln m data psn).Canonical := by
  unfold State.writeBack
  refine .ite hs (.writeHome (.rlcPass ?_))
  split
  · exact hs
  · exact hs.dropOwners

theorem State.Canonical.deregister {s : State} (hs : s.Canonical) {die ln m p} : (s.deregister die ln m p).Canonical := by
  dsimp only [State.deregister]
  split
  · exact hs.setSlice
  · exact hs.setSlice.setSlice

theorem State.Canonical.toPoint {s : State} (hs : s.Canonical) {slot die ln m data psn p} :
    (s.toPoint slot die ln m data psn p).Canonical :=
  hs.deregister.writeHome.writeBack

theorem State.Canonical.evictCC {s : State} (hs : s.Canonical) {slot k ln} : (s.evictCC slot k ln).Canonical := by
  unfold State.evictCC
  split
  · exact hs
  · extract_lets t die mine u dirty
    have ht : t.Canonical := hs.updCC
    split
    extract_lets v
    have hu : u.Canonical := .foldl ht fun _ h _ => .ite h.mapL1 h
    have hv : v.Canonical := .ite hu hu.toPoint
    exact .ite hv hv.deregister.writeBack

theorem State.Canonical.trimCC {s : State} (hs : s.Canonical) {slot k ln} : (s.trimCC slot k ln).Canonical :=
  .ite hs (.elim hs fun _ => hs.evictCC)

theorem State.Canonical.ccOpen_add {s : State} (hs : s.Canonical) {slot k ln rid} : (State.ccOpen.add slot k ln rid s).Canonical :=
  hs.updCC.trimCC

theorem State.Canonical.ccOpen {s : State} (hs : s.Canonical) {slot k ln rid} : (s.ccOpen slot k ln rid).Canonical := by
  unfold State.ccOpen
  split
  · exact .ite hs.updCC hs.evictCC.ccOpen_add
  · exact hs.ccOpen_add

theorem State.Canonical.disownOthers {s : State} (hs : s.Canonical) {h ln m} : (s.disownOthers h ln m).Canonical :=
  .foldl hs fun _ ht _ => ht.mapL1

theorem State.Canonical.revokeOthers {s : State} (hs : s.Canonical) {h ln m} : (s.revokeOthers h ln m).Canonical :=
  .foldl hs fun _ ht _ => ht.mapL1

theorem State.Canonical.ccDirty {s : State} (hs : s.Canonical) {slot h ln rid m data psn} :
    (s.ccDirty slot h ln rid m data psn).Canonical :=
  .ite hs hs.ccOpen.disownOthers.mapCC

theorem State.Canonical.evictL1 {s : State} (hs : s.Canonical) {slot c ln} : (s.evictL1 slot c ln).Canonical := by
  unfold State.evictL1
  split
  · exact hs
  · extract_lets t die mine atPoint u v low w
    have ht : t.Canonical := hs.updL1
    have hu : u.Canonical := .ite ht ht.toPoint
    have hv : v.Canonical := .ite hu hu.mapCC
    have hw : w.Canonical := .ite hv hv.mapCC
    exact hw.ccDirty

theorem State.Canonical.trimL1 {s : State} (hs : s.Canonical) {slot c ln} : (s.trimL1 slot c ln).Canonical :=
  .ite hs (.elim hs fun _ => hs.evictL1)

theorem State.Canonical.l1Open_add {s : State} (hs : s.Canonical) {slot c ln rid} : (State.l1Open.add slot c ln rid s).Canonical :=
  hs.updL1.trimL1

theorem State.Canonical.l1Open {s : State} (hs : s.Canonical) {slot c ln rid} : (s.l1Open slot c ln rid).Canonical := by
  unfold State.l1Open
  split
  · exact .ite hs.updL1 hs.evictL1.l1Open_add
  · exact hs.l1Open_add

theorem State.Canonical.ccFill {s : State} (hs : s.Canonical) {slot k ln rid need} : (s.ccFill slot k ln rid need).Canonical := by
  dsimp only [State.ccFill]
  split
  · exact hs.ccOpen
  · exact .ite hs.ccOpen hs.ccOpen.fetchLine.mapCC

theorem State.Canonical.ccStream {s : State} (hs : s.Canonical) {slot k ln rid} : (s.ccStream slot k ln rid).Canonical := by
  dsimp only [State.ccStream]
  split
  · exact hs.ccOpen
  · exact .ite hs.ccOpen hs.ccOpen.homeTouch.mapCC

theorem State.Canonical.l1Fill {s : State} (hs : s.Canonical) {slot c ln rid need} : (s.l1Fill slot c ln rid need).Canonical := by
  dsimp only [State.l1Fill]
  split
  · exact hs.l1Open
  · split
    · exact hs.l1Open
    · split
      · exact hs.l1Open.ccFill
      · exact hs.l1Open.ccFill.mapL1

theorem State.Canonical.l1Read {s : State} (hs : s.Canonical) {slot c pa n rid} : (s.l1Read slot c pa n rid).1.Canonical := by
  dsimp only [State.l1Read]
  split <;> exact hs.l1Fill

theorem State.Canonical.l1Write {s : State} (hs : s.Canonical) {slot c pa rid bs} : (s.l1Write slot c pa rid bs).Canonical :=
  .mapL1 (.ite hs.l1Open hs.l1Fill)

theorem State.Canonical.l1Flush {s : State} (hs : s.Canonical) {slot h ln} : (s.l1Flush slot h ln).Canonical := by
  unfold State.l1Flush
  split
  · exact hs
  · exact .ite hs hs.mapL1.ccDirty

theorem State.Canonical.vecRead {s : State} (hs : s.Canonical) {slot h pa n rid} : (s.vecRead slot h pa n rid).1.Canonical := by
  unfold State.vecRead
  extract_lets ln k s1 s2
  have h1 : s1.Canonical := hs.l1Flush
  have h2 : s2.Canonical := by
    unfold s2
    split
    · exact .ite h1.updCC h1.evictCC
    · exact h1
  exact .ite h2 h2.answerRemote

theorem State.Canonical.vecWrite {s : State} (hs : s.Canonical) {slot h pa rid bs} : (s.vecWrite slot h pa rid bs).Canonical :=
  .mapL1 (.ccDirty (.ite hs.l1Flush hs.l1Flush.ccFill))

theorem State.Canonical.registerAt {s : State} (hs : s.Canonical) {slot key h ln m} : (s.registerAt slot key h ln m).Canonical := by
  unfold State.registerAt
  extract_lets t u x
  have hu : u.Canonical := .ite hs.takeFrom hs.takeFrom.tell
  split
  · exact hu.setSlice
  · exact .setSlice (.ite hu (.elim hu fun _ => hu.takeFrom))

theorem State.Canonical.takeSameDie {s : State} (hs : s.Canonical) {slot die ln m h} : (s.takeSameDie slot die ln m h).Canonical :=
  .foldl hs fun _ ht _ => ht.revokeWB.setSlice

theorem State.Canonical.registerWords {s : State} (hs : s.Canonical) {slot h scope ln m} :
    (s.registerWords slot h scope ln m).Canonical := by
  unfold State.registerWords
  split
  · exact .ite hs.takeSameDie.registerAt <| .foldl hs.takeFrom.setSlice.rlcDrop.registerAt fun _ ht _ => .ite ht.fireWatches ht
  · exact .foldl hs.registerAt fun _ ht _ => .ite ht.fireWatches ht

theorem State.Canonical.releaseLine {s : State} (hs : s.Canonical) {slot h scope ln regions} :
    (s.releaseLine slot h scope ln regions).Canonical := by
  unfold State.releaseLine
  extract_lets c k l1 m1 s1 cc mc m s2 s3
  have h1 : s1.Canonical := .elim hs fun _ => .ite hs hs.ccOpen.mapCC
  have h3 : s3.Canonical := .ite h1.revokeOthers h1.revokeOthers.registerWords
  exact .ite h1 h3.mapCC.mapL1

theorem State.Canonical.release {s : State} (hs : s.Canonical) {h scope regions} : (s.release h scope regions).Canonical :=
  .foldl hs fun _ ht _ => ht.releaseLine

theorem State.Canonical.clearRlc {s : State} (hs : s.Canonical) {k p} : (s.clearRlc k p).Canonical := .ite hs.setSlice hs

theorem State.Canonical.acquireRlc {s : State} (hs : s.Canonical) {die p} : (s.acquireRlc die p).Canonical :=
  .foldl hs fun _ ht _ => ht.clearRlc

theorem State.Canonical.staleFills {s : State} (hs : s.Canonical) {p} : (s.staleFills p).Canonical := hs

theorem State.Canonical.acquire {s : State} (hs : s.Canonical) {h scope regions} : (s.acquire h scope regions).Canonical := by
  unfold State.acquire
  extract_lets t u v
  have hu : u.Canonical := hs.staleFills.updL1
  have hv : v.Canonical := .ite hu hu.updCC
  exact .ite hv hv.acquireRlc

theorem State.Canonical.acquireRange {s : State} (hs : s.Canonical) {h region lines} : (s.acquireRange h region lines).Canonical :=
  .ite hs hs.staleFills.updL1.updCC.acquireRlc

theorem State.Canonical.ownLine {s : State} (hs : s.Canonical) {slot h scope ln rid} : (s.ownLine slot h scope ln rid).Canonical := by
  unfold State.ownLine
  extract_lets c k s1 s2 s3 s4 s5 s6 s7
  have h1 : s1.Canonical := by
    refine .ite hs ?_
    split
    · exact hs.takeFrom
    · refine .takeFrom ?_
      split
      · exact hs.takeFrom
      · exact hs
  have h3 : s3.Canonical := .ite h1.updL1 h1.updL1.updCC
  have h4 : s4.Canonical := .ite h3 h3.rlcDrop
  have h7 : s7.Canonical := .ite h4.l1Fill.revokeOthers h4.l1Fill.revokeOthers.registerWords
  split
  · exact h7
  · exact h7.ccOpen.mapCC.mapL1

theorem State.Canonical.disownLine {s : State} (hs : s.Canonical) {slot h scope ln} : (s.disownLine slot h scope ln).Canonical := by
  unfold State.disownLine
  extract_lets c k die isH rlc key m t s1
  have h1 : s1.Canonical := .ite hs.deregister hs.setSlice
  refine .ite ?_ (.ite hs ?_)
  · split
    · exact hs
    · exact .ite hs hs.mapCC.mapL1
  · clear_value s1
    split
    exact .mapL1 (.mapCC (.ite h1.writeBack h1.writeHome))

theorem State.Canonical.disownAll {s : State} (hs : s.Canonical) {h} : (s.disownAll h).Canonical :=
  .foldl hs fun _ ht _ => ht.disownLine.disownLine.disownLine

theorem State.Canonical.flushPrivate {s : State} (hs : s.Canonical) {h p} : (s.flushPrivate h p).Canonical :=
  .foldl (.foldl hs fun _ ht _ => ht.l1Flush) fun _ ht _ => ht.writeBack.mapCC

theorem State.Canonical.takeAll {s : State} (hs : s.Canonical) {slot ln m wb} : (s.takeAll slot ln m wb).Canonical := by
  refine .foldl hs.takeFrom fun t ht d => ?_
  split
  · exact .ite ht ht.takeFrom
  · exact ht

theorem State.Canonical.pushHome {s : State} (hs : s.Canonical) {slot h ln m} : (s.pushHome slot h ln m).Canonical := by
  unfold State.pushHome
  extract_lets c k die t u
  have ht : t.Canonical := by
    refine .foldl hs fun v hv _ => .ite ?_ hv
    split
    · exact hv.writeBack
    · exact hv
  exact ht.revokeOthers.mapL1.mapCC.rlcDrop

theorem State.Canonical.homeTake {s : State} (hs : s.Canonical) {slot pa n} : (s.homeTake slot pa n).1.Canonical := hs.takeAll.homeTouch

theorem State.Canonical.homePut {s : State} (hs : s.Canonical) {slot pa bs} : (s.homePut slot pa bs).Canonical :=
  hs.homeTouch.homeStore.fireWatches

theorem State.Canonical.engineWrite {s : State} (hs : s.Canonical) {slot pa bs} : (s.engineWrite slot pa bs).Canonical :=
  hs.takeAll.homePut

theorem State.Canonical.engineWrites {s : State} (hs : s.Canonical) {slot pa bs} : (s.engineWrites slot pa bs).Canonical :=
  .foldl hs fun _ ht _ => ht.engineWrite

/-! ### Events to the host -/

theorem State.Canonical.setEvQueue {s : State} (hs : s.Canonical) {i q} : (s.setEvQueue i q).Canonical := hs
theorem State.Canonical.setEvSource {s : State} (hs : s.Canonical) {k q} : (s.setEvSource k q).Canonical := hs
theorem State.Canonical.placeAgain {s : State} (hs : s.Canonical) : (s.placeAgain).Canonical := .ite hs hs.after

theorem State.Canonical.freeStopped {s : State} (hs : s.Canonical) {src r} : (s.freeStopped src r).Canonical :=
  .ite hs.updDisp <| .placeAgain (.foldl hs.updDisp fun _ ht _ => ht.updHartN)

theorem State.Canonical.eventAccept {s : State} (hs : s.Canonical) {src} : (s.eventAccept src).Canonical := by
  dsimp only [State.eventAccept]
  split
  · exact hs
  · split
    · exact hs
    · split <;> exact hs.setEvQueue.freeStopped.setEvSource

theorem State.Canonical.postEvent {s : State} (hs : s.Canonical) {src kind detail ctxid fofs hart} :
    (s.postEvent src kind detail ctxid fofs hart).Canonical :=
  .ite hs.setEvSource.setEvQueue hs.setEvSource

theorem State.Canonical.lastingEvent {s : State} (hs : s.Canonical) {src} : (s.lastingEvent src).Canonical := by
  have ht : ({ s with free := s.free + 2 } : State).Canonical := hs
  exact ht.postEvent

theorem State.Canonical.lastingFault {s : State} (hs : s.Canonical) {pa} : (s.lastingFault pa).Canonical :=
  hs.setChannel.addPoison.postEvent

/-! ### Translation -/

theorem State.Canonical.walkInstall {s : State} (hs : s.Canonical) {iod e} : (s.walkInstall iod e).Canonical := hs

theorem State.Canonical.walk {s : State} (hs : s.Canonical) {w acc va fuel table} : (s.walk w acc va fuel table).1.Canonical := by
  induction fuel generalizing s table with
  | zero =>
    unfold State.walk
    refine .ite_fst hs ?_
    dsimp only
    refine .ite_fst hs <| .ite_fst hs <| .ite_fst (.ite_fst hs hs) ?_
    split
    · exact hs
    · exact .ite hs hs.homeTake.homePut
  | succ fuel ih =>
    unfold State.walk
    extract_lets level ix
    refine .ite_fst hs ?_
    generalize (if level = 0 then none else s.walkCached w level table ix) = next
    cases next with
    | some next => exact ih hs
    | none =>
      refine .ite_fst hs <| .ite_fst hs <| .ite_fst (.ite_fst hs (ih hs.walkInstall)) ?_
      split
      · exact hs
      · exact .ite hs hs.homeTake.homePut

theorem State.Canonical.tlbInstall {s : State} (hs : s.Canonical) {h k e} : (s.tlbInstall h k e).Canonical := by
  cases k <;> exact hs

theorem State.Canonical.lookup {s : State} (hs : s.Canonical) {w h k acc va} : (s.lookup w h k acc va).1.Canonical := by
  unfold State.lookup
  refine .ite_fst hs <| .ite_fst hs ?_
  dsimp only
  split
  · exact .ite hs.tlbInstall hs
  · split
    · exact hs.tlbInstall
    · split
      · next e => exact (hs.walk.of_fst e).tlbInstall
      · exact hs.walk

theorem State.Canonical.recordFaults {s : State} (hs : s.Canonical) {acc l} : (s.recordFaults acc l).Canonical :=
  .ite (.foldl hs.updSup fun _ ht _ => ht.l1Write.l1Write) hs.updSup

theorem keeps_translate {k acc va} : (translate k acc va).Keeps := by
  refine .get fun s hs => .ite keeps_raise <| .ite keeps_stall ?_
  split
  · next e => exact .bind (.set (hs.lookup.of_fst e)) fun _ => .pure
  · next e => exact .bind (.set (hs.lookup.of_fst e).recordFaults) fun _ => keeps_raise

theorem State.Canonical.seqTranslate {s : State} (hs : s.Canonical) {v va} : (s.seqTranslate v va).1.Canonical := by
  unfold State.seqTranslate
  refine .ite_fst ?_ (.ite_fst hs ?_)
  · split
    · next e => exact hs.lookup.of_fst e
    · next e => exact hs.lookup.of_fst e
  · split
    · exact hs
    · exact hs

theorem State.Canonical.seqHbm {s : State} (hs : s.Canonical) {v va} : (s.seqHbm v va).1.Canonical := by
  unfold State.seqHbm
  split
  · next e => exact hs.seqTranslate.of_fst e
  · exact hs.seqTranslate

/-! ### Control space -/

theorem State.Canonical.rateCheck {s : State} (hs : s.Canonical) {key} : (s.rateCheck key).Canonical := .ite hs.after hs

theorem State.Canonical.ceilWrite {s : State} (hs : s.Canonical) {key v} : (s.ceilWrite key v).Canonical :=
  .ite hs hs.setChannel.rateCheck

theorem State.Canonical.chanWrite {s : State} (hs : s.Canonical) {key ofs v w1} : (s.chanWrite key ofs v w1).Canonical :=
  .ite hs.ceilWrite <| .ite hs.setChannel (.ite hs.setChannel (.ite hs.setChannel hs))

theorem State.Canonical.hapctlWrite {s : State} (hs : s.Canonical) {n v w1} : (s.hapctlWrite n v w1).Canonical := hs

theorem State.Canonical.dcWrite {s : State} (hs : s.Canonical) {n ofs v w1} : (s.dcWrite n ofs v w1).Canonical := by
  unfold State.dcWrite
  refine .ite hs.setCtx <| .ite (.ite hs.setCtx hs) <| .ite hs.setCtx <| .ite hs.setCtx <| .ite ?_ <| .ite hs.setCtx <|
    .ite (.ite hs.setCtx hs) (.ite (.ite hs.setCtx hs) hs)
  split
  · exact hs.setCtx.after
  · exact hs.setCtx

theorem State.Canonical.updSwitch {s : State} (hs : s.Canonical) {g} : (s.updSwitch g).Canonical := hs

theorem State.Canonical.armSwitch {s : State} (hs : s.Canonical) {park target} : (s.armSwitch park target).Canonical :=
  .ite hs.updSwitch (.foldl hs.updSwitch fun _ ht _ => ht.updHartN)

theorem State.Canonical.swWrite {s : State} (hs : s.Canonical) {ofs v w1} : (s.swWrite ofs v w1).Canonical :=
  .ite hs.updDisp <| .ite (.ite hs (.ite hs.updSwitch hs.armSwitch)) (.ite hs.updDisp hs)

theorem State.Canonical.eqheadWrite {s : State} (hs : s.Canonical) {i v} : (s.eqheadWrite i v).Canonical := .ite hs hs.setEvQueue.after

theorem State.Canonical.hapWrite {s : State} (hs : s.Canonical) {ofs v w1} : (s.hapWrite ofs v w1).Canonical :=
  .ite hs.updFab (.ite hs.updFab (.ite hs.updFab hs.hapctlWrite))

theorem State.Canonical.domWrite {s : State} (hs : s.Canonical) {i ofs v w1} : (s.domWrite i ofs v w1).Canonical :=
  .ite hs.updFab <| .ite hs.hapWrite <| .ite hs.dcWrite <| .ite hs.swWrite (.ite hs.eqheadWrite (.ite hs.setEvQueue hs))

theorem State.Canonical.ctlWrite {s : State} (hs : s.Canonical) {la v w1} : (s.ctlWrite la v w1).Canonical := by
  unfold State.ctlWrite
  exact .ite (.ite hs.chanWrite hs) (.ite hs.domWrite hs)

theorem State.Canonical.mbDone {s : State} (hs : s.Canonical) {result resp} : (s.mbDone result resp).Canonical := hs

theorem State.Canonical.mbcmdWrite {s : State} (hs : s.Canonical) {v} : (s.mbcmdWrite v).Canonical :=
  .ite hs.updTrust (.ite hs.updTrust.mbDone hs.updTrust.after)

theorem State.Canonical.mbWrite {s : State} (hs : s.Canonical) {ofs bs} : (s.mbWrite ofs bs).Canonical :=
  .ite hs.mbcmdWrite (.ite hs.updTrust (.ite hs.updTrust hs))

/-! ### Vector registers and predicates -/

theorem State.Canonical.putBits {s : State} (hs : s.Canonical) {bit w v} : (s.putBits bit w v).Canonical :=
  .updMem (Mem.wf_writes hs)

theorem State.Canonical.markBit {s : State} (hs : s.Canonical) {bit} : (s.markBit bit).Canonical := hs
theorem State.Canonical.mark {s : State} (hs : s.Canonical) {bit w} : (s.mark bit w).Canonical := .foldl hs fun _ ht _ => ht.markBit
theorem State.Canonical.putVel {s : State} (hs : s.Canonical) {v k i c} : (s.putVel v k i c).Canonical := hs.putBits
theorem State.Canonical.markVel {s : State} (hs : s.Canonical) {v k i} : (s.markVel v k i).Canonical := hs.mark
theorem State.Canonical.putPbit {s : State} (hs : s.Canonical) {v j e b} : (s.putPbit v j e b).Canonical := .ite hs hs.putBits

theorem keeps_consume {l} : (consume l).Keeps := by
  unfold consume
  split
  · exact keeps_raise
  · exact .pure

theorem State.Canonical.latentEvents {s : State} (hs : s.Canonical) {l} : (s.latentEvents l).Canonical :=
  .foldl hs fun _ ht _ => ht.postEvent

theorem keeps_withMailboxes {q run} (hrun : run.Keeps) : (withMailboxes q run).Keeps :=
  .get fun _ _ => .ite (.bind hrun fun _ => .modify fun _ hu => hu.updVec.latentEvents) keeps_stall

/-! ### The order of accesses -/

theorem keeps_waitOverlap {pa n store} : (waitOverlap pa n store).Keeps := .get fun _ _ => .ite keeps_stall .pure
theorem keeps_waitSy {sy} : (waitSy sy).Keeps := .get fun _ _ => .ite keeps_stall .pure
theorem keeps_waitEntries {p} : (waitEntries p).Keeps := .get fun _ _ => .ite keeps_stall .pure
theorem keeps_waitQueues : (waitQueues).Keeps := keeps_waitEntries
theorem keeps_waitTrims : (waitTrims).Keeps := .get fun _ _ => .ite keeps_stall .pure
theorem keeps_waitWriters {v p} : (waitWriters v p).Keeps := .get fun _ _ => .ite keeps_stall .pure

/-! ### Scalar accesses -/

theorem State.Canonical.ctlStore {s : State} (hs : s.Canonical) {la bs} : (s.ctlStore la bs).Canonical := by
  unfold State.ctlStore
  exact hs.ctlWrite

theorem keeps_resolveSlot {va n} : (resolveSlot va n).Keeps := by
  unfold resolveSlot
  refine .get fun _ ht => ?_
  split
  · exact keeps_raise
  · split
    · exact .pure
    · exact keeps_raise

theorem keeps_windowLoad {va la n} : (windowLoad va la n).Keeps := .get fun _ _ => .ite keeps_raise .pure
theorem keeps_windowStore {la bs} : (windowStore la bs).Keeps := .modify fun _ ht => ht.homeStore
theorem keeps_plateLoad {va p ofs n} : (plateLoad va p ofs n).Keeps := .get fun _ _ => .ite keeps_windowLoad keeps_stall
theorem keeps_plateStore {p ofs bs} : (plateStore p ofs bs).Keeps := .get fun _ _ => .ite keeps_windowStore keeps_stall

theorem keeps_accessCheck {acc va n} : (accessCheck acc va n).Keeps := by
  unfold accessCheck
  split
  · exact keeps_raise
  · refine .get fun _ ht => ?_
    split
    · exact .bind keeps_resolveSlot fun _ => .pure
    · refine .bind keeps_translate fun _ => .get fun _ hu => ?_
      split
      · exact keeps_raise
      · exact .ite keeps_stallAt (.ite keeps_raise .pure)

theorem keeps_loadFrom {va n x2} : (loadFrom va n x2).Keeps := by
  unfold loadFrom
  split
  · exact keeps_plateLoad
  · refine .get fun _ ht => ?_
    split
    · exact .bind (.set (.ite_fst ht.homeTake ht.l1Read)) fun _ => .ite keeps_raise .pure
    · exact keeps_plateLoad
    · exact keeps_windowLoad
    · exact .pure
    · exact .pure
    · exact keeps_raise

theorem keeps_storeTo {bs x1} : (storeTo bs x1).Keeps := by
  unfold storeTo
  split
  · exact keeps_plateStore
  · refine .get fun _ ht => ?_
    split
    · exact .set (.ite ht.homeTake.homePut ht.l1Write)
    · exact keeps_plateStore
    · exact keeps_windowStore
    · exact .set ht.ctlStore
    · exact .set ht.mbWrite
    · exact .pure

theorem keeps_waitPlace {p n store} : (waitPlace p n store).Keeps := .get fun _ _ => .bind keeps_waitOverlap fun _ => keeps_waitSy
theorem keeps_loadBytes {va n} : (loadBytes va n).Keeps := .bind keeps_accessCheck fun _ => .bind keeps_waitPlace fun _ => keeps_loadFrom

theorem keeps_storeBytes {va bs} : (storeBytes va bs).Keeps :=
  .bind keeps_accessCheck fun _ => .bind keeps_waitPlace fun _ => keeps_storeTo

/-! ### Ends of plates, harts and launches -/

theorem State.Canonical.copyRetry {s : State} (hs : s.Canonical) : (s.copyRetry).Canonical := hs
theorem State.Canonical.drainCheck {s : State} (hs : s.Canonical) {p} : (s.drainCheck p).Canonical := .ite hs.after hs
theorem State.Canonical.keepDrain {s : State} (hs : s.Canonical) {h k p} : (s.keepDrain h k p).Canonical := hs.updHartN.setCluster

theorem State.Canonical.handOver {s : State} (hs : s.Canonical) {h k p dest} : (s.handOver h k p dest).Canonical :=
  .drainCheck (.setPlate (.ite hs.updHartN.keepDrain hs))

theorem State.Canonical.toPool {s : State} (hs : s.Canonical) {p} : (s.toPool p).Canonical := hs.setPlate.copyRetry.placeAgain

theorem State.Canonical.slotFreed {s : State} (hs : s.Canonical) {h k} : (s.slotFreed h k).Canonical :=
  .ite hs (.elim hs fun _ => hs.updHartN.drainCheck)

theorem State.Canonical.reattach {s : State} (hs : s.Canonical) {p} : (s.reattach p).Canonical := by
  dsimp only [State.reattach]
  split
  · exact hs
  · split
    · exact hs
    · split
      · exact hs.toPool
      · exact .ite hs.setPlate.copyRetry.updHartN hs.toPool
      · split
        · exact hs.toPool
        · split
          · exact hs
          · exact .after (.ite hs.setPlate.copyRetry.updHartN hs.setPlate.copyRetry)

theorem State.Canonical.endFill {s : State} (hs : s.Canonical) {p ok} : (s.endFill p ok).Canonical :=
  .copyRetry (.ite (.ite hs.setPlate.drainCheck hs.setPlate) (.ite hs.setPlate.drainCheck hs))

theorem State.Canonical.writeProgress {s : State} (hs : s.Canonical) {c} : (s.writeProgress c).Canonical := hs.engineWrite

theorem State.Canonical.dropCopies {s : State} (hs : s.Canonical) {h} : (s.dropCopies h).Canonical :=
  .foldl hs.setCluster fun _ ht _ => .foldl (.foldl ht.unpinAll.writeProgress fun _ hu _ => hu.endFill) fun _ hu _ => hu.drainCheck

theorem State.Canonical.unwatch {s : State} (hs : s.Canonical) {h} : (s.unwatch h).Canonical := hs
theorem State.Canonical.unpark {s : State} (hs : s.Canonical) {h} : (s.unpark h).Canonical := hs

theorem State.Canonical.releaseDrains {s : State} (hs : s.Canonical) {l} : (s.releaseDrains l).Canonical :=
  .foldl hs fun _ ht _ => .foldl ht fun _ hu _ => hu.drainCheck

theorem State.Canonical.plateFreed {s : State} (hs : s.Canonical) {p} : (s.plateFreed p).Canonical := .ite hs.setPlate hs.toPool

theorem State.Canonical.redirect {s : State} (hs : s.Canonical) {h} : (s.redirect h).Canonical := by
  unfold State.redirect
  extract_lets mine lost t
  have ht : t.Canonical := .updMem hs
  exact .ite hs ht.updDisp

theorem State.Canonical.dropWakes {s : State} (hs : s.Canonical) {h} : (s.dropWakes h).Canonical := hs

theorem State.Canonical.freeHart {s : State} (hs : s.Canonical) {h} : (s.freeHart h).Canonical :=
  .foldl hs.unwatch.unpark.redirect.dropWakes.updHartN.releaseDrains fun _ ht _ => ht.plateFreed

theorem State.Canonical.writeFired {s : State} (hs : s.Canonical) {o} : (s.writeFired o).Canonical :=
  .foldl hs fun _ ht _ => .ite ht.engineWrite ht.homeStore

theorem State.Canonical.tileToPool {s : State} (hs : s.Canonical) {h k t} : (s.tileToPool h k t).Canonical := by
  unfold State.tileToPool
  split
  · exact hs
  · exact .ite hs.setPlate.drainCheck (.ite hs.handOver hs.toPool)

theorem State.Canonical.freeOrbit {s : State} (hs : s.Canonical) {n} : (s.freeOrbit n).Canonical :=
  .foldl (.updDisp (.foldl hs fun _ ht _ => .updHartN (.foldl (.foldl ht.tileToPool.tileToPool fun _ hu _ => hu.tileToPool) fun _ hu _ =>
    hu.tileToPool))) fun _ ht _ => ht.slotFreed.slotFreed

theorem State.Canonical.endOrbit {s : State} (hs : s.Canonical) {n} : (s.endOrbit n).Canonical := .freeOrbit (.ite hs.writeFired hs)

theorem State.Canonical.casWord {s : State} (hs : s.Canonical) {slot pa old new} : (s.casWord slot pa old new).1.Canonical := by
  unfold State.casWord
  exact .ite_fst hs.homeTake.homePut hs.homeTake

theorem State.Canonical.stateWord {s : State} (hs : s.Canonical) {r} : (s.stateWord r).1.Canonical := by
  unfold State.stateWord
  split
  · next e => exact hs.seqHbm.of_fst e
  · next e => exact hs.seqHbm.of_fst e

theorem State.Canonical.endWord {s : State} (hs : s.Canonical) {r v} : (s.endWord r v).1.Canonical := by
  unfold State.endWord
  split
  · next e => exact (hs.stateWord.of_fst e).casWord
  · next e => exact hs.stateWord.of_fst e

theorem State.Canonical.endOrbits {s : State} (hs : s.Canonical) {l parked} : (s.endOrbits l parked).Canonical :=
  .foldl hs fun _ ht _ => .ite (.updDisp (.ite ht.writeFired ht)) ht.endOrbit

theorem State.Canonical.failLaunch {s : State} (hs : s.Canonical) {l} : (s.failLaunch l).Canonical := by
  unfold State.failLaunch
  split
  · exact hs
  · exact .ite hs.endWord <| .placeAgain (.updDisp (.postEvent (.updDisp (.foldl hs.endWord.endOrbits fun _ ht _ =>
      ht.dropCopies.freeHart))))

/-! ### Traps and the end of a meaning -/

theorem State.Canonical.stopHart {s : State} (hs : s.Canonical) : (s.stopHart).Canonical := by
  dsimp only [State.stopHart]
  split
  · exact hs.updHart.postEvent.failLaunch
  · exact hs.updHart.postEvent

theorem State.Canonical.takeTrap {s : State} (hs : s.Canonical) {code arg qk trpc} : (s.takeTrap code arg qk trpc).Canonical :=
  .ite hs.updHart.updHart hs.updHart.stopHart

theorem Outcome.Kept.finish {m : M Unit} {s : State} (hm : m.Keeps) (hs : s.Canonical) : Outcome.Kept (finish m s) := by
  unfold Machine.finish
  split
  · next e => exact .next (hm.ok hs e).advance
  · next e => exact .next (hm.error hs e).takeTrap
  · next e => exact .next (hm.error hs e)

theorem Outcome.Kept.finishPc {m : M Unit} {s : State} (hm : m.Keeps) (hs : s.Canonical) : Outcome.Kept (finishPc m s) := by
  unfold Machine.finishPc
  split
  · next e => exact .next (hm.ok hs e)
  · next e => exact .next (hm.error hs e).takeTrap
  · next e => exact .next (hm.error hs e)

theorem Outcome.Kept.finishEvent {m : M Unit} {s : State} (hm : m.Keeps) (hs : s.Canonical) : Outcome.Kept (finishEvent m s) := by
  unfold Machine.finishEvent
  split
  · next e => exact .next (hm.ok hs e)
  · next e => exact .next (hm.error hs e).takeTrap
  · next e => exact .next (hm.error hs e)

theorem keeps_needSup {i} : (needSup i).Keeps := .get fun _ _ => .ite .pure keeps_raise
theorem keeps_illegal {α i} : (illegal i : M α).Keeps := keeps_raise
theorem keeps_badMsg : (badMsg).Keeps := .pure

/-! ### Integer results -/

theorem Outcome.Kept.result {s : State} (hs : s.Canonical) {d v} : Outcome.Kept (s.result d v) := .next hs.setX.advance

/-! ### Loads and stores -/

theorem keeps_loadX {d va n g} : (loadX d va n g).Keeps := .bind keeps_loadBytes fun _ => .modify fun _ ht => ht.setX
theorem keeps_loadF {d va n g} : (loadF d va n g).Keeps := .bind keeps_loadBytes fun _ => .modify fun _ ht => ht.setF

theorem keeps_doRelease {scope regions} : (doRelease scope regions).Keeps := by
  unfold doRelease
  refine .bind keeps_waitEntries fun _ => .get fun _ ht => ?_
  split
  · split
    · exact .set ht.release
    · exact keeps_stallAt
  · exact keeps_stall

theorem keeps_doAcquire {scope regions} : (doAcquire scope regions).Keeps :=
  .bind keeps_waitEntries fun _ => .get fun _ ht => .ite (.set ht.acquire) keeps_stall

theorem State.Canonical.retireAccess {s : State} (hs : s.Canonical) {r} : (s.retireAccess r).Canonical := hs

theorem keeps_acquireAfter {scope regions r} : (acquireAfter scope regions r).Keeps :=
  .get fun _ ht => .ite (.set ht.acquire.retireAccess) (.bind (.set ht.updHart) fun _ => keeps_stall)

theorem keeps_accessAcquire {scope access} (haccess : access.Keeps) : (accessAcquire scope access).Keeps := by
  unfold accessAcquire
  refine .get fun _ ht => ?_
  split
  · exact .ite (.set ht.acquire.updHart.retireAccess) keeps_stall
  · exact .bind haccess fun _ => keeps_acquireAfter

theorem keeps_loadAcquire {d va n scope} : (loadAcquire d va n scope).Keeps := keeps_accessAcquire (.bind keeps_loadBytes fun _ => .pure)

theorem keeps_storeRelease {va bs scope} : (storeRelease va bs scope).Keeps :=
  .bind keeps_accessCheck fun _ => .bind keeps_waitPlace fun _ => .get fun _ _ => .bind keeps_doRelease fun _ => keeps_storeTo

/-! ### Far atomics -/

theorem State.Canonical.atomicHome {s : State} (hs : s.Canonical) {slot pa op wide v c} :
    (s.atomicHome slot pa op wide v c).1.Canonical :=
  .ite_fst hs.homeTake hs.homeTake.homePut

theorem keeps_homeAddr {va} : (homeAddr va).Keeps :=
  .get fun _ _ => .ite keeps_raise <| .bind keeps_translate fun _ => .get fun _ _ => .ite (.ite keeps_stallAt .pure) keeps_raise

theorem keeps_homeCheck {va n} : (homeCheck va n).Keeps :=
  .ite keeps_raise <| .bind keeps_homeAddr fun _ => .get fun _ _ => .ite keeps_raise .pure

theorem keeps_atomicAccess {op d a b sc w} : (atomicAccess op d a b sc w).Keeps :=
  .get fun _ _ => .bind keeps_homeCheck fun _ => .bind keeps_waitOverlap fun _ => .bind keeps_waitSy fun _ =>
    .bind keeps_doRelease fun _ => .get fun _ hu => .bind (.set hu.pushHome.atomicHome) fun _ => .ite keeps_raise .pure

theorem keeps_atomicBody {op d a b sc w} : (atomicBody op d a b sc w).Keeps := keeps_accessAcquire keeps_atomicAccess

/-! ### Branches -/

theorem Outcome.Kept.branch {s : State} (hs : s.Canonical) {taken o} : Outcome.Kept (s.branch taken o) :=
  .next (.ite hs.setPc hs.advance)

theorem keeps_predBranch {i m p o} : (predBranch i m p o).Keeps :=
  .get fun _ ht => .ite keeps_raise <| .bind keeps_waitWriters fun _ => .bind keeps_consume fun _ => .set (.ite ht.setPc ht.advance)

/-! ### Logical names -/

theorem keeps_needHart {n} : (needHart n).Keeps := by
  unfold needHart
  refine .get fun _ ht => ?_
  split
  · exact .pure
  · exact keeps_raise

/-! ### Plate instructions -/

theorem keeps_plateOp {i d a run} (hrun : ∀ i, (run i).Keeps) : (plateOp i d a run).Keeps :=
  .get fun _ _ => .bind (.ite .pure (.ite keeps_raise (hrun _))) fun _ => .modify fun _ hu => hu.setX

theorem keeps_pclaimRun {k} : (pclaimRun k).Keeps := by
  unfold pclaimRun
  refine .get fun _ ht => ?_
  split
  · exact .pure
  · split
    · exact .pure
    · exact .bind (.set ht.setPlate.updHart) fun _ => .pure

theorem keeps_prelRun {k} : (prelRun k).Keeps := by
  unfold prelRun
  refine .get fun _ ht => ?_
  split
  · exact .bind (.set ht.handOver) fun _ => .pure
  · exact .pure

theorem keeps_pgiveRun {x k} : (pgiveRun x k).Keeps := by
  unfold pgiveRun
  split
  · exact .pure
  · refine .bind keeps_needHart fun _ => .get fun _ ht => ?_
    split
    · exact .ite .pure <| .ite .pure <| .ite .pure <| .ite .pure (.bind (.set ht.handOver.updHartN) fun _ => .pure)
    · exact .pure

theorem keeps_pmarkRun {x k} : (pmarkRun x k).Keeps := by
  unfold pmarkRun
  refine .get fun _ ht => ?_
  split
  · exact .ite .pure <| .ite keeps_stall (.bind (.set ht.setPlate.copyRetry) fun _ => .pure)
  · exact .pure

/-! ### Control registers -/

theorem State.Canonical.setCreg {s : State} (hs : s.Canonical) {n v} : (s.setCreg n v).Canonical := by
  unfold State.setCreg; split <;> exact hs

theorem keeps_installWatch {pa} : (installWatch pa).Keeps :=
  .get fun _ ht => .ite (.bind (.set ht.unwatch.updHart) fun _ => .pure) (.bind (.set ht.unwatch.setSlice) fun _ => .pure)

theorem keeps_watchWrite {v} : (watchWrite v).Keeps :=
  .get fun _ ht => .ite (.bind (.set ht.unwatch) fun _ => .pure) <| .ite keeps_raise <| .bind keeps_translate fun _ => .get fun _ _ =>
    .ite keeps_installWatch keeps_raise

theorem keeps_cregWait {n} : (cregWait n).Keeps := .ite keeps_waitQueues (.ite keeps_waitTrims .pure)

theorem keeps_cregWrite {n v} : (cregWrite n v).Keeps :=
  .bind (.ite keeps_watchWrite .pure) fun _ => .bind (.modify fun _ ht => ht.setCreg) fun _ => .ite (.modify fun _ ht => ht.updUser) .pure

theorem keeps_cregAccess {i op d a n} : (cregAccess i op d a n).Keeps := by
  unfold cregAccess
  refine .get fun _ ht => ?_
  split
  · exact keeps_illegal
  · exact .ite keeps_raise <| .bind keeps_cregWait fun _ => .ite (.modify fun _ hu => hu.setX) (.bind keeps_cregWrite fun _ =>
      .modify fun _ hu => hu.setX)

/-! ### Vector configuration, `vsave` and `vrest` -/

theorem keeps_vcfgBody {d a} : (vcfgBody d a).Keeps := .bind keeps_waitQueues fun _ => .modify fun _ ht => ht.updVec.setX

theorem keeps_vsetlBody {d a} : (vsetlBody d a).Keeps :=
  .get fun _ ht => .ite keeps_raise (.bind keeps_waitTrims fun _ => .set ht.updVec.setX)

theorem keeps_vsetrowsBody {d a} : (vsetrowsBody d a).Keeps := .modify fun _ ht => ht.updVec.setX
theorem keeps_vtagBody {d a} : (vtagBody d a).Keeps := .modify fun _ ht => ht.updVec
theorem keeps_saveElem {v j i} : (saveElem v j i).Keeps := .get fun _ _ => .ite (.bind keeps_takeFree fun _ => .pure) (.ite .pure .pure)

theorem keeps_saveElems {v j n i} : (saveElems v j n i).Keeps := by
  induction n generalizing i with
  | zero => exact .pure
  | succ n ih => exact .bind keeps_saveElem fun _ => .bind ih fun _ => .pure

theorem keeps_saveItems {v n j} : (saveItems v n j).Keeps := by
  induction n generalizing j with
  | zero => exact .pure
  | succ n ih => exact .bind keeps_saveElems fun _ => .bind ih fun _ => .pure

theorem keeps_storeWords {va n bs} : (storeWords va n bs).Keeps := by
  induction n generalizing va bs with
  | zero => exact .pure
  | succ n ih => exact .bind keeps_storeBytes fun _ => ih

theorem keeps_vsaveBody {d a} : (vsaveBody d a).Keeps :=
  .bind keeps_waitQueues fun _ => .get fun _ _ => .ite keeps_raise <| .bind (.ite .pure keeps_saveItems) fun _ =>
    .bind keeps_storeWords fun _ => .modify fun _ hu => hu.setX

theorem keeps_loadWords {va n} : (loadWords va n).Keeps := by
  induction n generalizing va with
  | zero => exact .pure
  | succ n ih => exact .bind keeps_loadBytes fun _ => .bind ih fun _ => .pure

theorem State.Canonical.restItem {s : State} (hs : s.Canonical) {v j n data} : (s.restItem v j n data).Canonical :=
  .foldl hs fun _ ht _ => .ite ht ht.putBits

theorem State.Canonical.restMarks {s : State} (hs : s.Canonical) {v j n bits} : (s.restMarks v j n bits).Canonical :=
  .foldl hs fun _ ht _ => .ite ht.mark ht

theorem keeps_restItems {width svl put m j va} (hput : ∀ i n s, s.Canonical → (put i n s).Canonical) :
    (restItems width svl put m j va).Keeps := by
  induction m generalizing j va with
  | zero => exact .pure
  | succ m ih => exact .bind keeps_loadWords fun _ => .bind (.modify (hput _ _)) fun _ => ih

theorem keeps_vrestBody {d a} : (vrestBody d a).Keeps :=
  .bind keeps_waitQueues fun _ => .get fun _ _ => .ite keeps_raise <| .bind keeps_loadWords fun _ => .get fun _ hu =>
    .ite (.set hu.updVec.setX) <| .bind (.set hu.updVec) fun _ => .ite (.set hu.updVec.updVec.setX) <|
    .bind (keeps_restItems (fun _ _ _ hv => hv.restItem)) fun _ => .bind (.ite (keeps_restItems (fun _ _ _ hv =>
    hv.restMarks)) .pure) fun _ => .modify fun _ hv => hv.updVec.setX

theorem keeps_vextBody {d a b} : (vextBody d a b).Keeps := by
  unfold vextBody
  refine .get fun s hs => ?_
  extract_lets i v pos k e t put r jp
  have hput (c) (u : State) (hu : u.Canonical) : (put c u).Canonical := .ite hu.setF hu.setX
  have hjp : (jp () : M Unit).Keeps := .bind keeps_consume fun _ => .modify fun _ hu => hput _ _ (.ite hu.updVec hu)
  exact .ite keeps_raise <| .bind keeps_waitWriters fun _ => .ite
    (.ite (.bind keeps_waitEntries fun _ => .ite (.bind keeps_stall fun _ => hjp) hjp) hjp) (.modify (hput _))

theorem keeps_pcntBody {d a} : (pcntBody d a).Keeps :=
  .get fun _ ht => .ite keeps_raise <| .bind keeps_waitWriters fun _ => .bind keeps_consume fun _ => .set ht.setX

/-! ### Orbits -/

theorem State.Canonical.setOrbit {s : State} (hs : s.Canonical) {n o} : (s.setOrbit n o).Canonical := hs

theorem State.Canonical.handTile {s : State} (hs : s.Canonical) {n k slot t dest} : (s.handTile n k slot t dest).Canonical := by
  unfold State.handTile
  split
  · exact .slotFreed (.ite hs.handOver.updHartN hs.handOver)
  · exact hs

theorem State.Canonical.orbitRound {s : State} (hs : s.Canonical) {n k} : (s.orbitRound n k).Canonical := by
  dsimp only [State.orbitRound]
  split
  · exact hs
  · split
    · exact hs
    · split
      · exact hs.setOrbit.after
      · split
        · exact hs
        · exact hs.setOrbit.updHartN

theorem State.Canonical.orbitDone {s : State} (hs : s.Canonical) {n} : (s.orbitDone n).Canonical := hs

theorem State.Canonical.taskEnded {s : State} (hs : s.Canonical) {n k} : (s.taskEnded n k).Canonical := by
  dsimp only [State.taskEnded]
  split
  · exact hs
  · split
    · exact .ite hs.setOrbit.after.orbitDone hs.setOrbit.after
    · exact hs

theorem State.Canonical.giveOn {s : State} (hs : s.Canonical) {n k} : (s.giveOn n k).Canonical := by
  dsimp only [State.giveOn]
  split
  · exact hs
  · exact .after (.ite hs.setOrbit.handTile hs.setOrbit.handTile.handTile)

theorem State.Canonical.orbitRoundEdge {s : State} (hs : s.Canonical) {n k} : (s.orbitRoundEdge n k).Canonical := by
  dsimp only [State.orbitRoundEdge]
  split
  · exact hs
  · exact .ite hs (.ite (.ite hs.setOrbit.after hs.setOrbit) hs.giveOn)

theorem State.Canonical.tryEnter {s : State} (hs : s.Canonical) {n k} : (s.tryEnter n k).Canonical := by
  dsimp only [State.tryEnter]
  split
  · exact hs
  · split
    · exact .ite hs.setOrbit.after hs
    · exact hs

theorem State.Canonical.orbitMarker {s : State} (hs : s.Canonical) {n k kind pro} : (s.orbitMarker n k kind pro).Canonical := by
  dsimp only [State.orbitMarker]
  split
  · exact hs
  · exact .tryEnter (.ite hs hs.setOrbit)

theorem State.Canonical.orbitLapEnd {s : State} (hs : s.Canonical) {n} : (s.orbitLapEnd n).Canonical :=
  .ite hs <| .ite (.foldl hs.setOrbit fun _ ht _ => ht.giveOn) hs.orbitDone

theorem State.Canonical.settleAll {s : State} (hs : s.Canonical) {n} : (s.settleAll n).Canonical :=
  .foldl hs.setOrbit fun _ ht _ => ht.drainCheck

theorem State.Canonical.orbitComplete {s : State} (hs : s.Canonical) {n} : (s.orbitComplete n).Canonical := by
  dsimp only [State.orbitComplete]
  split
  · exact hs
  · split
    · exact .ite hs.settleAll.writeFired.setOrbit hs.settleAll.writeFired.setOrbit.updHartN
    · exact hs.settleAll

theorem keeps_loadDwords {va n} : (loadDwords va n).Keeps := by
  induction n generalizing va with
  | zero => exact .pure
  | succ n ih => exact .bind keeps_loadBytes fun _ => .bind ih fun _ => .pure

theorem keeps_orbitResult {d run} (hrun : run.Keeps) : (orbitResult d run).Keeps := .bind hrun fun _ => .modify fun _ ht => ht.setX

theorem keeps_needHarts {l} : (needHarts l).Keeps := by
  induction l with
  | nil => exact .pure
  | cons n l ih => exact .bind keeps_needHart fun _ => .bind ih fun _ => .pure

theorem keeps_orbdefRun {va} : (orbdefRun va).Keeps := by
  dsimp only [orbdefRun]
  split
  · exact keeps_raise
  · refine .bind keeps_loadDwords fun _ => ?_
    split
    · exact .pure
    · split
      · exact .pure
      · refine .bind keeps_needHarts fun _ => .get fun _ ht => ?_
        split
        · exact .pure
        · split
          · exact .pure
          · exact .bind (.set ht.setOrbit) fun _ => .pure

theorem keeps_orbinRun {xa xb} : (orbinRun xa xb).Keeps := by
  refine .get fun s hs => .ite .pure ?_
  split
  · exact .pure
  · refine .ite .pure ?_
    dsimp only
    split
    · refine .ite .pure (.ite .pure (.bind (.set (.ite ?_ ?_)) fun _ => .pure))
      · exact hs.setOrbit.handOver.updHartN
      · exact hs.setOrbit.handOver
    · exact .pure
    · exact .pure

theorem keeps_loadEphemeris {va n} : (loadEphemeris va n).Keeps := by
  induction n generalizing va with
  | zero => exact .pure
  | succ n ih =>
    exact .bind keeps_accessCheck fun _ => .get fun _ _ => .bind keeps_loadBytes fun _ => .bind keeps_loadBytes fun _ =>
      .bind ih fun _ => .pure

theorem keeps_orbgoRun {xa} : (orbgoRun xa).Keeps := by
  unfold orbgoRun
  refine .get fun _ ht => ?_
  split
  · exact .pure
  · exact .ite .pure <| .ite .pure <| .bind keeps_doRelease fun _ => .bind keeps_loadDwords fun _ => .bind keeps_loadEphemeris fun _ =>
      .ite .pure <| .get fun _ hu => .ite (.bind (.set hu.setOrbit.orbitDone) fun _ =>
      .pure) (.ite .pure (.bind (.set hu.setOrbit.after) fun _ => .pure))

theorem keeps_orboutHandle {xa xb} : (orboutHandle xa xb).Keeps := .ite .pure (.bind keeps_takeChoice fun _ => .ite .pure .pure)

theorem keeps_orboutRun {xa xb} : (orboutRun xa xb).Keeps := by
  dsimp only [orboutRun]
  split
  · exact .pure
  · refine .bind keeps_orboutHandle fun _ => .get fun _ ht => ?_
    split
    · exact .pure
    · split
      · exact .pure
      · split
        · exact .bind (.set ht.freeOrbit) fun _ => .pure
        · split
          · exact .pure
          · split
            · exact .pure
            · exact .ite .pure <| .bind (.set ht.setOrbit.updHart.handOver.slotFreed) fun _ => .pure

theorem keeps_orbitStep {g} (hg : ∀ s, s.Canonical → ∀ i, ∀ j, (g s i j).Canonical) : (orbitStep g).Keeps :=
  .get fun _ ht => .ite (.set (hg _ ht _ _)) keeps_badMsg

/-! ### Synchronisation -/

theorem keeps_fenceBody {sc g} : (fenceBody sc g).Keeps := .bind keeps_doRelease fun _ => keeps_doAcquire

theorem keeps_ownBody {a sc g} : (ownBody a sc g).Keeps :=
  .get fun _ _ => .bind keeps_homeAddr fun _ => .ite (.modify fun _ hu => hu.ownLine) .pure

theorem keeps_disownBody {a sc g} : (disownBody a sc g).Keeps :=
  .get fun _ _ => .bind keeps_homeAddr fun _ => .ite (.modify fun _ hu => hu.disownLine) .pure

theorem State.Canonical.syRead {s : State} (hs : s.Canonical) {slot pa} : (s.syRead slot pa).1.Canonical := by
  unfold State.syRead
  split
  next e => exact hs.homeTake.of_fst e

theorem State.Canonical.drawTicket {s : State} (hs : s.Canonical) {slot pa h} : (s.drawTicket slot pa h).1.Canonical := by
  dsimp only [State.drawTicket]
  split
  · exact hs.answerRemote.tell
  · split
    · exact hs.syRead
    · exact .ite_fst hs.syRead.homePut.setSlice <| .ite_fst hs.syRead.homePut.setSlice hs.syRead.homePut.setSlice.setSlice

theorem State.Canonical.serve {s : State} (hs : s.Canonical) {slot pa old new} : (s.serve slot pa old new).Canonical := by
  dsimp only [State.serve]
  split
  · exact hs.homePut.setSlice
  · exact .ite hs.homePut.setSlice.setSlice.after hs.homePut.setSlice.setSlice.tell

theorem State.Canonical.advanceServing {s : State} (hs : s.Canonical) {slot pa} : (s.advanceServing slot pa).1.Canonical :=
  .ite_fst hs.answerRemote.tell (.ite_fst hs.syRead hs.syRead.serve)

theorem State.Canonical.pollLocks {s : State} (hs : s.Canonical) {h} : (s.pollLocks h).Canonical := by
  refine .foldl hs fun t ht k => ?_
  split
  · split
    next e =>
      have hu := ht.syRead.of_fst e
      exact .ite hu.updHartN hu
  · exact ht

theorem keeps_lockCheck {va} : (lockCheck va).Keeps := .bind keeps_homeCheck fun _ => .ite .pure keeps_raise

theorem keeps_lockWait {d sc g} : (lockWait d sc g).Keeps := by
  unfold lockWait
  refine .bind (.modify fun _ ht => ht.pollLocks) fun _ => .get fun _ ht => ?_
  split
  · exact .bind keeps_doAcquire fun _ => .modify fun _ hu => hu.updHart.setX
  · exact keeps_stall

theorem keeps_qlockBody {d a sc g} : (qlockBody d a sc g).Keeps := by
  refine .get fun s hs => ?_
  split
  · exact keeps_lockWait
  · refine .bind keeps_lockCheck fun _ => .bind keeps_waitOverlap fun _ => .bind keeps_waitSy fun _ => .get fun t ht => ?_
    split
    · next e => exact .bind (.set (ht.drawTicket.of_fst e)) fun _ => keeps_raise
    · next e => exact .bind (.set (ht.drawTicket.of_fst e).updHart) fun _ => keeps_lockWait

theorem keeps_qunlockBody {a sc g} : (qunlockBody a sc g).Keeps :=
  .get fun _ _ => .bind keeps_lockCheck fun _ => .bind keeps_waitOverlap fun _ => .bind keeps_waitSy fun _ =>
    .bind keeps_doRelease fun _ => .get fun _ hu => .bind (.set hu.advanceServing) fun _ => .ite .pure keeps_raise

theorem State.Canonical.endWait {s : State} (hs : s.Canonical) {d} : (s.endWait d).Canonical := hs

theorem keeps_waitBody {d a} : (waitBody d a).Keeps := by
  unfold waitBody
  exact .get fun _ ht => .ite (.set (.endWait (.ite ht.updHart ht))) <| .bind (.set (.updHart (.ite ht.updHart ht))) fun _ => keeps_stall

theorem keeps_wakeBody {a} : (wakeBody a).Keeps := .get fun _ _ => .bind keeps_needHart fun _ => .modify fun _ hu => .ite hu hu.after
theorem keeps_msgHart {g} (hg : ∀ s, s.Canonical → ∀ i, (g s i).Canonical) : (msgHart g).Keeps := .modify fun _ ht => hg _ ht _

theorem keeps_msgWord {g} (hg : ∀ s, s.Canonical → ∀ i, (g s i).Canonical) : (msgWord g).Keeps :=
  .get fun _ ht => .ite (.set (hg _ ht _)) keeps_badMsg

theorem keeps_homeWordStep {i slot g} (hg : ∀ s, s.Canonical → ∀ i, (g s i).Canonical) : (homeWordStep i slot g).Keeps :=
  keeps_msgWord (fun _ ht _ => .ite ht.after (hg _ ht _))

theorem State.Canonical.answerDraw {s : State} (hs : s.Canonical) {pa dev h k} : (s.answerDraw pa dev h k).Canonical := by
  unfold State.answerDraw
  split
  · exact hs.tell
  · exact hs.tell
  · exact hs

/-! ### Scalar floating point and rationals -/

theorem keeps_putF {d r} : (putF d r).Keeps := .modify fun _ ht => ht.setF.raiseFlags
theorem keeps_putQ {d r} : (putQ d r).Keeps := .modify fun _ ht => ht.setF.raiseFlags
theorem keeps_putX {d r} : (putX d r).Keeps := .modify fun _ ht => ht.setX.raiseFlags

theorem keeps_withRounding {i p r g} (hg : ∀ i, (g i).Keeps) : (withRounding i p r g).Keeps := by
  unfold withRounding
  refine .get fun _ ht => ?_
  split
  · exact hg _
  · exact keeps_illegal

theorem keeps_floatOp {i d p r bin rat} : (floatOp i d p r bin rat).Keeps :=
  keeps_withRounding (fun _ => .get fun _ _ => .ite keeps_putQ keeps_putF)

theorem keeps_floatMinmax {isMax d a b p} : (floatMinmax isMax d a b p).Keeps := .get fun _ _ => .ite keeps_putQ keeps_putF
theorem keeps_signOp {d a b p neg} : (signOp d a b p neg).Keeps := .get fun _ ht => .ite keeps_putQ (.set ht.setF)

theorem keeps_floatCmp {quiet test d a b p} : (floatCmp quiet test d a b p).Keeps :=
  .get fun _ _ => .ite (.ite keeps_putX keeps_putX) (.ite keeps_putX keeps_putX)

theorem keeps_floatToInt {i lo hi d a p r} : (floatToInt i lo hi d a p r).Keeps :=
  keeps_withRounding (fun _ => .get fun _ _ => keeps_putX)

theorem keeps_floatToFloat {d a w p r} : (floatToFloat d a w p r).Keeps :=
  keeps_withRounding (fun _ => .get fun _ _ => .ite (.ite keeps_putQ keeps_putF) (.ite keeps_illegal (.ite keeps_putF keeps_putF)))

theorem keeps_fusedOp {i negProd negAdd d a b c p r} : (fusedOp i negProd negAdd d a b c p r).Keeps := .get fun _ _ => keeps_floatOp
theorem keeps_loadHalf {d va} : (loadHalf d va).Keeps := .bind keeps_loadBytes fun _ => keeps_putF
theorem keeps_storeHalf {va c} : (storeHalf va c).Keeps := .bind keeps_storeBytes fun _ => .modify fun _ ht => ht.raiseFlags

/-! ### Vector arithmetic -/

theorem State.Canonical.vflags {s : State} (hs : s.Canonical) {x} : (s.vflags x).Canonical := hs

theorem State.Canonical.putElems {s : State} (hs : s.Canonical) {v d l} : (s.putElems v d l).Canonical :=
  .foldl hs fun _ ht _ => ht.putVel.vflags

theorem keeps_binaryRun {q op d a b sat x} : (binaryRun q op d a b sat x).Keeps :=
  .get fun _ ht => .bind keeps_consume fun _ => .set ht.putElems

theorem keeps_unaryRun {q op d a sat} : (unaryRun q op d a sat).Keeps := .get fun _ ht => .bind keeps_consume fun _ => .set ht.putElems

theorem keeps_selectRun {q d a b sat x} : (selectRun q d a b sat x).Keeps :=
  .get fun _ ht => .bind keeps_consume fun _ => .set ht.putElems

theorem State.Canonical.putPbits {s : State} (hs : s.Canonical) {v d l} : (s.putPbits v d l).Canonical :=
  .foldl hs fun _ ht _ => ht.putPbit

theorem keeps_compareRun {q c d a b x} : (compareRun q c d a b x).Keeps :=
  .get fun _ ht => .bind keeps_consume fun _ => .set ht.putPbits.vflags

/-! ### Vector memory -/

theorem State.Canonical.formWindow {w : Window} (hw : w.s.Canonical) {cap acc pwb l} : (formWindow cap acc pwb l w).s.Canonical := by
  induction l generalizing w with
  | nil => exact hw
  | cons e l ih =>
    unfold Machine.formWindow
    extract_lets put
    split
    · exact ih hw
    · split
      · exact ih hw
      · split
        · exact ih hw
        · split
          · exact ih hw
          · split
            · exact hw
            · split
              · exact ih hw
              · split
                next e => exact ih (w := put _ _) (hw.lookup.of_fst e)

theorem State.Canonical.windowFor {s : State} (hs : s.Canonical) {acc pwb spans elems} : (s.windowFor acc pwb spans elems).s.Canonical :=
  .formWindow hs

theorem State.Canonical.keepWindow {s : State} (hs : s.Canonical) {seq spans} : (s.keepWindow seq spans).Canonical := hs

theorem keeps_locate {q store e p} : (locate q store e p).Keeps := by
  unfold locate
  refine .get fun _ ht => ?_
  split
  · split
    · exact keeps_raise
    · exact .ite .pure keeps_stall
  · split
    · exact keeps_raise
    · exact .ite keeps_stallAt (.ite keeps_raise .pure)
    · exact .ite .pure keeps_stall
    · exact .pure
    · exact .pure
    · exact .pure
  · exact keeps_stall
  · exact keeps_raise

theorem keeps_readElem {mode e loc} : (readElem mode e loc).Keeps := by
  unfold readElem
  refine .get fun s hs => ?_
  extract_lets slot bits
  split
  · exact .pure
  · exact .pure
  · extract_lets t
    have ht : t.Canonical := hs.pushHome
    split
    next e =>
      refine .bind (.set (State.Canonical.of_fst ?_ e)) fun _ => .pure
      exact .ite_fst hs.homeTake (.ite_fst ht hs.vecRead)
  · exact .pure
  · exact .pure

theorem keeps_writeElem {mode e code loc} : (writeElem mode e code loc).Keeps := by
  unfold writeElem
  refine .get fun _ ht => ?_
  split
  · exact .set ht.putBits
  · exact .set ht.putBits
  · exact .ite (.set ht.homeTake.homePut) <| .ite (.set ht.pushHome.engineWrite) (.ite (.set ht.vecRead.vecWrite) (.set ht.vecWrite))
  · exact .set ht.ctlStore
  · exact .set ht.mbWrite

theorem keeps_allocateLines {mode l} : (allocateLines mode l).Keeps := by
  refine .modify fun s hs => .foldl hs fun t ht _ => .foldl ht fun u hu _ => ?_
  split
  · exact hu.l1Flush.ccStream
  · exact hu

theorem keeps_attempt {α} {m : M α} (hm : m.Keeps) : (attempt m).Keeps := by
  intro s hs
  have h := hm s hs
  unfold M.after at h ⊢
  unfold attempt
  cases e : m s <;> simpa only [e] using h

theorem keeps_untilFailure {chk l} (hchk : ∀ e p, (chk e p).Keeps) : (untilFailure chk l).Keeps := by
  induction l with
  | nil => exact .pure
  | cons x l ih =>
    refine .bind (keeps_attempt (hchk _ _)) fun r => ?_
    cases r with
    | ok loc => exact .bind ih fun _ => .pure
    | error e => exact .pure

theorem keeps_laterSubset {chk l} (hchk : ∀ e p, (chk e p).Keeps) : (laterSubset chk l).Keeps := by
  induction l with
  | nil => exact .pure
  | cons x l ih =>
    refine .bind ih fun _ => .bind keeps_takeChoice fun _ => .ite (.bind (keeps_attempt (hchk _ _)) fun r => ?_) .pure
    cases r <;> exact .pure

theorem keeps_splitByChoice {α} {free : α → Bool} {l} : (splitByChoice free l).Keeps := by
  induction l with
  | nil => exact .pure
  | cons x l ih => exact .bind ih fun _ => .ite .pure (.bind keeps_takeChoice fun _ => .ite .pure .pure)

theorem keeps_storeOrder {mode l} : (storeOrder mode l).Keeps := .get fun _ _ => .ite (.bind keeps_splitByChoice fun _ => .pure) .pure
theorem State.Canonical.trimVl {s : State} (hs : s.Canonical) {seq n} : (s.trimVl seq n).Canonical := hs
theorem keeps_setStart {e} : (setStart e).Keeps := .modify fun _ ht => ht.updVec

theorem keeps_earlyStop {α acc w e x4} : (earlyStop acc w e x4 : M α).Keeps := by
  unfold earlyStop
  split
  · exact keeps_raise
  · exact keeps_raise
  · exact .bind (.modify fun _ ht => ht.recordFaults) fun _ => keeps_raise

theorem keeps_startOf {l} : (startOf l).Keeps := by
  unfold startOf
  split
  · exact .pure
  · exact keeps_setStart

theorem keeps_memLoop {q mode chk go fuel spans elems} (hchk : ∀ e p, (chk e p).Keeps) (hgo : ∀ l m, (go l m).Keeps) :
    (memLoop q mode chk go fuel spans elems).Keeps := by
  induction fuel generalizing spans elems with
  | zero => exact .pure
  | succ fuel ih =>
    unfold memLoop
    split
    · exact .pure
    · refine .get fun s hs => .bind (.set hs.windowFor) fun _ => ?_
      extract_lets items pre post trims jp
      have hrun : (jp () : M Unit).Keeps := by
        refine .bind (keeps_untilFailure hchk) fun _ => ?_
        dsimp only
        split
        · refine .bind (.ite (keeps_laterSubset hchk) .pure) fun _ => .bind (.bind keeps_storeOrder fun _ => hgo _ _) fun _ => .ite ?_ ?_
          · exact .bind (.modify fun _ h => h.trimVl) fun _ => ih
          · exact .bind keeps_setStart fun _ => .ite .throw (.bind (.modify fun _ h => h.keepWindow) fun _ => .throw)
        · refine .bind (.bind keeps_storeOrder fun _ => hgo _ _) fun _ => ?_
          clear_value post
          split
          · exact ih
          · exact .ite (.bind (.modify fun _ h => h.trimVl) fun _ => ih) (.bind keeps_setStart fun _ => keeps_earlyStop)
      exact .ite (.bind keeps_startOf fun _ => .bind (.modify fun _ h => h.keepWindow) fun _ => .bind keeps_stall fun _ => hrun) hrun

theorem keeps_loadElems {q mode d l} : (loadElems q mode d l).Keeps := by
  induction l with
  | nil => exact .pure
  | cons x l ih => exact .bind keeps_readElem fun _ => .bind (.modify fun _ hs => .ite hs.putVel.markVel hs.putVel) fun _ => ih

theorem keeps_storeElems {q mode s0 d l} : (storeElems q mode s0 d l).Keeps := by
  induction l with
  | nil => exact .pure
  | cons x l ih => exact .bind keeps_writeElem fun _ => ih

theorem keeps_storeCheck {q d b e p} : (storeCheck q d b e p).Keeps := .bind keeps_locate fun _ => .get fun _ _ => .ite keeps_raise .pure

theorem keeps_memRun {q mode d b elems go} (hgo : ∀ i, ∀ j, (go i j).Keeps) : (memRun q mode d b elems go).Keeps := by
  refine .ite (.bind (.modify fun _ hs => hs.updVec) fun _ => keeps_raise) <|
    .bind (.modify fun _ hs => hs.keepWindow) fun _ => .get fun _ _ => keeps_memLoop (fun e p => ?_) hgo
  split
  · exact keeps_storeCheck
  · exact keeps_locate

theorem keeps_loadRun {q mode d elems} : (loadRun q mode d elems).Keeps :=
  keeps_memRun (fun _ _ => .ite keeps_loadElems (.bind keeps_allocateLines fun _ => keeps_loadElems))

theorem keeps_storeRun {q mode d b elems} : (storeRun q mode d b elems).Keeps :=
  .get fun _ _ => keeps_memRun (fun _ _ => keeps_storeElems)

theorem keeps_indexGate {q mode d elems bad} : (indexGate q mode d elems bad).Keeps := by
  induction bad with
  | nil => exact keeps_loadRun
  | cons e more ih =>
    refine .get fun s hs => ?_
    dsimp only
    split
    · exact .ite keeps_raise ih
    · exact keeps_loadRun
    · next h => exact .bind (.set (.of_mem_eq ((keeps_memRun fun _ _ => .pure).error hs h) rfl)) fun _ => .throw

theorem keeps_vldRun {q d n o trim} : (vldRun q d n o trim).Keeps := .get fun _ _ => keeps_loadRun
theorem keeps_vldxRun {q d b n o} : (vldxRun q d b n o).Keeps := .get fun _ _ => keeps_indexGate
theorem keeps_vstRun {q d n o} : (vstRun q d n o).Keeps := .get fun _ _ => keeps_storeRun
theorem keeps_vstxRun {q d b n o} : (vstxRun q d b n o).Keeps := .get fun _ _ => keeps_storeRun
theorem keeps_writeCount {pa c} : (writeCount pa c).Keeps := .modify fun _ ht => ht.homeTake.homePut

theorem keeps_progressWord {pwb va} : (progressWord pwb va).Keeps :=
  .ite keeps_raise <| .ite keeps_raise <| .bind keeps_translate fun _ => .get fun _ _ => .ite (.ite keeps_stallAt .pure) keeps_raise

theorem keeps_notifyElems {q mode s0 d pa all next ahead l} : (notifyElems q mode s0 d pa all next ahead l).Keeps := by
  induction l generalizing next ahead with
  | nil => exact .pure
  | cons x l ih =>
    refine .bind keeps_writeElem fun _ => ?_
    dsimp only
    split
    · exact ih
    · exact .bind keeps_writeCount fun _ => ih

theorem keeps_vstnRun {q d o} : (vstnRun q d o).Keeps := by
  unfold vstnRun
  refine .get fun _ ht => ?_
  split
  · exact .pure
  · refine .bind keeps_progressWord fun _ => .bind keeps_writeCount fun _ => .bind (keeps_attempt (keeps_memRun (fun _ _ =>
      keeps_notifyElems))) fun _ => ?_
    split
    · exact keeps_writeCount
    · exact .get fun _ hu => .ite (.bind keeps_writeCount fun _ => .throw) .throw

theorem State.Canonical.deliver {s : State} (hs : s.Canonical) {q t a} : (s.deliver q t a).Canonical :=
  .updHartN (.foldl hs fun _ ht _ => .foldl ht fun _ hu _ => hu.putBits)

theorem keeps_pushWait {q} : (pushWait q).Keeps :=
  .get fun _ _ => .ite (.bind (.modify fun _ hu => hu.updHart) fun _ => keeps_raise) (.bind (.modify fun _ hu => hu.updHart) fun _ =>
    keeps_stall)

theorem keeps_pushConsume {q a} : (pushConsume q a).Keeps := .get fun _ _ => keeps_consume

theorem keeps_vpushRun {q a} : (vpushRun q a).Keeps :=
  .bind keeps_pushConsume fun _ => .bind keeps_needHart fun _ => .get fun _ ht => .ite (.set ht.deliver.updHart) keeps_pushWait

theorem keeps_vpushtRun {q d a} : (vpushtRun q d a).Keeps :=
  .bind keeps_pushConsume fun _ => .bind keeps_needHart fun _ => .get fun _ ht => .set (.foldl (.ite ht.deliver ht) fun _ hu _ =>
    hu.putPbit)

/-! ### Copies -/

theorem keeps_portCheck {i p ok} : (portCheck i p ok).Keeps := .ite keeps_illegal (.ite .pure keeps_raise)

theorem keeps_blockPlaces {va n a} : (blockPlaces va n a).Keeps := by
  induction n generalizing a with
  | zero => exact .pure
  | succ n ih =>
    exact .get fun _ _ => .ite keeps_raise <| .bind keeps_translate fun _ => .get fun _ _ =>
      .ite (.bind ih fun _ => .pure) keeps_raise

theorem keeps_waitBelow {n p} : (waitBelow n p).Keeps := by
  unfold waitBelow
  refine .get fun _ ht => ?_
  split
  · exact .ite keeps_stallAt .pure
  · exact .pure

theorem keeps_blockRead {a ps} : (blockRead a ps).Keeps := by
  induction ps generalizing a with
  | nil => exact .pure
  | cons p ps ih =>
    exact .bind keeps_waitBelow fun _ => .bind keeps_waitPlace fun _ => .bind keeps_loadFrom fun _ => .bind ih fun _ => .pure

theorem State.Canonical.flushSource {s : State} (hs : s.Canonical) {c e dev} : (s.flushSource c e dev).Canonical := by
  have ht : ({ s with free := s.free + 1 } : State).Canonical := hs
  unfold State.flushSource
  extract_lets go t
  have ht : t.Canonical := .ite hs ht
  refine .ite hs (.ite ?_ ht)
  split
  exact ht.flushPrivate

theorem State.Canonical.acceptCopy {s : State} (hs : s.Canonical) {c} : (s.acceptCopy c).Canonical := hs

theorem keeps_epushBody {i d a} : (epushBody i d a).Keeps := by
  dsimp only [epushBody]
  refine .bind keeps_portCheck fun _ => .get fun _ ht => ?_
  split
  · exact keeps_raise
  · split
    · exact keeps_raise
    · refine .bind keeps_blockPlaces fun _ => .bind keeps_waitEntries fun _ => .bind keeps_blockRead fun _ => .get fun _ hu => ?_
      split
      · exact .pure
      · exact .bind keeps_doRelease fun _ => .modify fun _ hv => hv.flushSource.acceptCopy

theorem State.Canonical.popAcquire {s : State} (hs : s.Canonical) {r} : (s.popAcquire r).Canonical :=
  .ite hs.acquireRange (.ite hs.acquireRange.acquire hs.acquireRange.acquireRange)

theorem keeps_waitAcquire : (waitAcquire).Keeps := .get fun _ _ => .ite .pure keeps_stall

theorem keeps_epopBody {i d a} : (epopBody i d a).Keeps := by
  unfold epopBody
  refine .bind keeps_portCheck fun _ => .get fun _ ht => ?_
  split
  · split
    · exact keeps_raise
    · exact .bind keeps_waitAcquire fun _ => .set ht.updHart.popAcquire.setX
  · split
    · exact keeps_raise
    · exact .bind keeps_waitAcquire fun _ => .set ht.updHart.acquireRange.setX

theorem keeps_epeekBody {i d a} : (epeekBody i d a).Keeps := .bind keeps_portCheck fun _ => .modify fun _ ht => ht.setX

theorem State.Canonical.copyPlace {s : State} (hs : s.Canonical) {c store a} : (s.copyPlace c store a).1.Canonical := by
  unfold State.copyPlace
  extract_lets side la w k dev
  refine .ite_fst (.ite_fst hs ?_) <| .ite_fst (.ite_fst hs ?_) <| .ite_fst ?_ ?_
  · split
    · next e => exact hs.lookup.of_fst e
    · next e => 
      split <;> exact hs.lookup.of_fst e
  · split
    · exact hs
    · split <;> exact hs
  · split <;> exact hs
  · split
    · exact hs
    · dsimp only
      split
      · exact hs
      · split <;> exact hs
      · exact hs

theorem State.Canonical.copyBytes {s : State} (hs : s.Canonical) {c pa} : (s.copyBytes c pa).1.Canonical :=
  .ite_fst (.ite hs.fetchLine hs) (.ite_fst hs.fetchLine hs.homeTouch)

theorem State.Canonical.copyRead {s : State} (hs : s.Canonical) {c j} : (s.copyRead c j).1.Canonical := by
  unfold State.copyRead
  split
  · next e => exact hs.copyPlace.of_fst e
  · next e =>
    have ht := hs.copyPlace.of_fst e
    refine .ite_fst ht ?_
    split
    next e => exact ht.copyBytes.of_fst e
  · next e => exact hs.copyPlace.of_fst e
  · next e => exact hs.copyPlace.of_fst e

theorem State.Canonical.copyTake {s : State} (hs : s.Canonical) {s0 c j} : (s.copyTake s0 c j).1.Canonical := by
  unfold State.copyTake
  split
  · next e =>
    have ht := hs.copyRead.of_fst e
    split
    · exact .ite_fst ht ht
    · exact ht
  · exact hs.copyRead

theorem State.Canonical.putUnit {s : State} (hs : s.Canonical) {slot pa u l} : (s.putUnit slot pa u l).Canonical :=
  .ite hs.engineWrite (.foldl hs fun _ ht _ => ht.engineWrite)

theorem State.Canonical.copyPut {s : State} (hs : s.Canonical) {c l} : (s.copyPut c l).1.Canonical := by
  unfold State.copyPut
  split
  · exact hs
  · dsimp only
    split
    · next e => exact hs.copyPlace.of_fst e
    · next e => exact .ite_fst (hs.copyPlace.of_fst e) (hs.copyPlace.of_fst e).putUnit
    · next e => exact .foldl (hs.copyPlace.of_fst e) fun _ h _ => h.homeStore
    · next e => exact .ite_fst (.foldl (hs.copyPlace.of_fst e) fun _ h _ => h.homeStore) (hs.copyPlace.of_fst e)

theorem State.Canonical.flushOne {f : CopyFlush} (hf : f.s.Canonical) {c fin x} : (flushOne c fin f x).s.Canonical := by
  have h : ({ f.s with free := f.s.free + 2 } : State).Canonical := hf
  unfold Machine.flushOne
  dsimp only
  split
  · split
    · exact hf
    · split
      · next e => exact hf.copyPut.of_fst e
      · next e => exact hf.copyPut.of_fst e
  · split
    · exact hf
    · split
      · next e => exact h.copyPut.of_fst e
      · next e => exact h.copyPut.of_fst e

theorem State.Canonical.copyFlush {s : State} (hs : s.Canonical) {c fin} : (s.copyFlush c fin).s.Canonical := by
  have h : ∀ (l : List (Nat × List Byte)) (f : CopyFlush), f.s.Canonical → (l.foldl (Machine.flushOne c fin) f).s.Canonical := by
    intro l
    induction l with
    | nil => exact fun _ h => h
    | cons x l ih => exact fun f h => ih _ h.flushOne
  exact h _ _ hs

theorem State.Canonical.copyBegin {s t : State} (hs : s.Canonical) {c c'} (e : s.copyBegin c = some (t, c')) : t.Canonical := by
  dsimp only [State.copyBegin] at e
  split at e
  · cases e; exact hs
  · split at e
    · cases e; exact .foldl hs fun _ h _ => .ite h h.setPlate
    · cases e

theorem State.Canonical.copyRest {s0 s : State} (hs : s.Canonical) {c l} : (State.copyRest s0 c l s).Canonical := by
  induction l generalizing s with
  | nil => exact hs
  | cons j l ih =>
    have h : ({ s with free := s.free + 1 } : State).Canonical := hs
    refine ih (.ite ?_ hs)
    split
    · next e => exact (h.copyTake.of_fst e).copyPut
    · next e => exact h.copyTake.of_fst e

theorem State.Canonical.copyRun {s0 s : State} (hs : s.Canonical) {c l} : (State.copyRun s0 l s c).1.Canonical := by
  induction l generalizing s c with
  | nil => exact hs
  | cons j l ih =>
    unfold State.copyRun
    split
    · next e => exact .ite_fst (hs.copyTake.of_fst e).copyFlush (ih (hs.copyTake.of_fst e).copyFlush)
    · next e => exact hs.copyTake.of_fst e

theorem State.Canonical.repin {s : State} (hs : s.Canonical) {c} : (s.repin c).1.Canonical := .unpinAll (.foldl hs fun _ ht _ => ht.pinBy)

theorem State.Canonical.holdRequests {s : State} (hs : s.Canonical) {c} : (s.holdRequests c).1.Canonical := by
  unfold State.holdRequests
  refine foldl_fst hs fun r h x => ?_
  split
  · exact h
  · exact .ite_fst h h

theorem State.Canonical.stopCopy {s : State} (hs : s.Canonical) {c} : (s.stopCopy c).1.Canonical := by
  unfold State.stopCopy
  split
  next e => exact .writeProgress (.copyFlush (hs.unpinAll.holdRequests.of_fst e))

theorem State.Canonical.stopCopies {s : State} (hs : s.Canonical) {n die} : (s.stopCopies n die).Canonical := by
  refine .foldl hs fun _ ht _ => .foldl ht fun u hu _ => ?_
  split
  · exact hu
  · refine .ite hu ?_
    split
    next e => exact (hu.stopCopy.of_fst e).setCluster

theorem State.Canonical.releaseRequest {s : State} (hs : s.Canonical) {r} : (s.releaseRequest r).Canonical :=
  .ite hs.updFab.homeStore hs.updFab.engineWrite

theorem State.Canonical.releaseHeld {s : State} (hs : s.Canonical) {n} : (s.releaseHeld n).Canonical :=
  .foldl hs.updFab fun _ ht _ => ht.releaseRequest

theorem State.Canonical.endCopy {s : State} (hs : s.Canonical) {k i c status} : (s.endCopy k i c status).Canonical :=
  .after (.foldl (.foldl hs.setCluster.unpinAll.writeProgress.updHartN fun _ ht _ => ht.endFill) fun _ ht _ => ht.drainCheck)

theorem State.Canonical.putCopy {s : State} (hs : s.Canonical) {k i c} : (s.putCopy k i c).Canonical :=
  .ite hs.repin.setCluster hs.repin.setCluster

theorem State.Canonical.holdCopy {s : State} (hs : s.Canonical) {k i c r} : (s.holdCopy k i c r).1.Canonical :=
  .ite hs.putCopy.after hs.putCopy

theorem State.Canonical.failCopy {s : State} (hs : s.Canonical) {s0 k i c j st} : (s.failCopy s0 k i c j st).1.Canonical := by
  unfold State.failCopy
  extract_lets f rest
  have hf : f.s.Canonical := hs.copyFlush
  have hrest (n) : (rest f.s n).Canonical := .ite hf hf.copyRest
  split
  · exact (hrest _).endCopy
  · exact hf.holdCopy
  · exact (hrest _).endCopy

theorem State.Canonical.runCopy {s : State} (hs : s.Canonical) {k i c} : (s.runCopy k i c).1.Canonical := by
  unfold State.runCopy
  split
  · exact hs
  · exact hs.endCopy
  · split
    · exact hs
    · next t c e =>
      have ht : t.Canonical := hs.copyBegin e
      have hu : ({ t with free := t.free + 1 } : State).Canonical := ht
      extract_lets most part u s0
      clear_value most part
      have hu : u.Canonical := ht
      clear_value u
      split
      next v _ stop e =>
        have hv : v.Canonical := State.Canonical.of_fst (.copyRun hu) e
        split
        · exact hv.failCopy
        · exact hv.holdCopy
        · split
          · exact hv.putCopy.after
          · extract_lets f
            have hf : f.s.Canonical := hv.copyFlush
            split
            · exact hf.failCopy
            · exact hf.holdCopy
            · exact hf.endCopy

theorem State.Canonical.copyFirst {s : State} (hs : s.Canonical) {k l} : (State.copyFirst k l s).Canonical := by
  induction l generalizing s with
  | nil => exact hs
  | cons i l ih =>
    unfold State.copyFirst
    split
    · exact hs
    · split
      · split
        · next e => exact hs.runCopy.of_fst e
        · next e => exact ih (hs.runCopy.of_fst e)
      · exact ih hs

theorem keeps_copyUnit {g} (hg : ∀ s, s.Canonical → ∀ i, (g s i).Canonical) : (copyUnit g).Keeps :=
  .get fun _ ht => .ite (.set (hg _ ht _)) keeps_badMsg

theorem State.Canonical.startCopy {s : State} (hs : s.Canonical) {k} : (s.startCopy k).Canonical := by
  dsimp only [State.startCopy]
  split
  · exact hs
  · exact hs.setCluster.after

/-! ### The channel controllers -/

theorem State.Canonical.updChannel {s : State} (hs : s.Canonical) {key g} : (s.updChannel key g).Canonical := hs
theorem State.Canonical.blockBank {s : State} (hs : s.Canonical) {key b} : (s.blockBank key b).Canonical := hs
theorem State.Canonical.payOne {s : State} (hs : s.Canonical) {key b} : (s.payOne key b).Canonical := hs

theorem State.Canonical.hbmIssue {s : State} (hs : s.Canonical) {key} : (s.hbmIssue key).Canonical := by
  dsimp only [State.hbmIssue]
  split
  · exact hs
  · exact .ite hs.payOne hs.updChannel

theorem State.Canonical.closeRow {s : State} (hs : s.Canonical) {key b} : (s.closeRow key b).Canonical := hs

theorem State.Canonical.spareCheck {s : State} (hs : s.Canonical) {key lane} : (s.spareCheck key lane).Canonical :=
  .ite hs.updChannel.postEvent hs

theorem State.Canonical.countCorrected {s : State} (hs : s.Canonical) {key lane} : (s.countCorrected key lane).Canonical :=
  hs.updChannel.spareCheck

theorem State.Canonical.countTransient {s : State} (hs : s.Canonical) {key lane} : (s.countTransient key lane).Canonical :=
  hs.updChannel.spareCheck

theorem State.Canonical.endRlcFill {s : State} (hs : s.Canonical) {slot ln} : (s.endRlcFill slot ln).Canonical := by
  unfold State.endRlcFill
  split
  exact .foldl (.updMem hs) fun _ ht _ => ht.retryWaiting

theorem State.Canonical.endFetch {s : State} (hs : s.Canonical) {pa slot} : (s.endFetch pa slot).Canonical :=
  .retryWaiting (.endRlcFill (.setSlice (.ite hs.mergeUnder hs)))

theorem State.Canonical.switchGoes {s : State} (hs : s.Canonical) {key} : (s.switchGoes key).Canonical := .ite hs.after hs

theorem State.Canonical.hbmReturn {s : State} (hs : s.Canonical) {key dec lane} : (s.hbmReturn key dec lane).Canonical := by
  unfold State.hbmReturn
  split
  · exact hs
  · exact .ite hs.updChannel.endFetch.switchGoes <| .ite hs.updChannel.countCorrected.endFetch.switchGoes hs.updChannel.updChannel

theorem State.Canonical.hbmRetry {s : State} (hs : s.Canonical) {key dec lane} : (s.hbmRetry key dec lane).Canonical := by
  unfold State.hbmRetry
  split
  · exact hs
  · exact .ite hs.after <| .ite hs.payOne.after <| .ite hs.updChannel.endFetch.switchGoes <|
      .switchGoes (.endFetch (.ite hs.updChannel.countTransient hs.updChannel.lastingFault))

theorem State.Canonical.limitChange {s : State} (hs : s.Canonical) {key v} : (s.limitChange key v).Canonical := hs.updChannel.rateCheck
theorem State.Canonical.rateSwitch {s : State} (hs : s.Canonical) {key} : (s.rateSwitch key).Canonical := .ite hs hs.updChannel.switchGoes
theorem State.Canonical.serveAlert {s : State} (hs : s.Canonical) {key b} : (s.serveAlert key b).Canonical := hs

theorem State.Canonical.rateDone {s : State} (hs : s.Canonical) {key} : (s.rateDone key).Canonical :=
  .ite (.rateCheck (.foldl hs.updChannel fun _ ht _ => ht.serveAlert)) hs

theorem State.Canonical.refreshDue {s : State} (hs : s.Canonical) {key b} : (s.refreshDue key b).Canonical :=
  .ite hs.updChannel (.ite hs.after hs.blockBank)

theorem State.Canonical.payOwed {s : State} (hs : s.Canonical) {key b} : (s.payOwed key b).Canonical := .ite hs hs.updChannel.blockBank

theorem State.Canonical.alert {s : State} (hs : s.Canonical) {key b} : (s.alert key b).Canonical :=
  .ite hs.updChannel hs.updChannel.serveAlert

theorem State.Canonical.blockEnd {s : State} (hs : s.Canonical) {key b} : (s.blockEnd key b).Canonical :=
  .ite hs.updChannel.switchGoes (.ite hs.updChannel hs.updChannel.serveAlert)

theorem State.Canonical.scrubFault {s : State} (hs : s.Canonical) {pa} : (s.scrubFault pa).Canonical :=
  .ite (.updMem hs.lastingFault) hs.lastingFault

theorem State.Canonical.scrubRead {s : State} (hs : s.Canonical) {la dec lane again} : (s.scrubRead la dec lane again).Canonical :=
  .ite hs <| .ite hs.countCorrected (.ite hs.countTransient hs.scrubFault)

theorem State.Canonical.keyDone {s : State} (hs : s.Canonical) {slot} : (s.keyDone slot).Canonical := hs

theorem State.Canonical.keyLoad {s : State} (hs : s.Canonical) {key slot} : (s.keyLoad key slot).Canonical := by
  unfold State.keyLoad
  extract_lets m t cmd
  have hc : (s.updChannel key (·.loaded slot)).Canonical := hs.updChannel
  have ht : t.Canonical := .updMem hc
  exact .ite hs.after (.ite ht.keyDone ht)

theorem keeps_chanStep {g} (hg : ∀ s, s.Canonical → ∀ i, (g s i).Canonical) : (chanStep g).Keeps := .modify fun _ ht => hg _ ht _

/-! ### Messages of coherence -/

theorem keeps_msgLine {g} (hg : ∀ s, s.Canonical → ∀ i, (g s i).Canonical) : (msgLine g).Keeps :=
  .get fun _ ht => .ite (.set (hg _ ht _)) keeps_badMsg

theorem keeps_homeLine {i slot die g} (hg : ∀ s, s.Canonical → ∀ i, (g s i).Canonical) : (homeLine i slot die g).Keeps :=
  keeps_msgLine (fun _ ht _ => .ite ht.after (hg _ ht _))

theorem State.Canonical.reply {s : State} (hs : s.Canonical) {bytes poisoned} : (s.reply bytes poisoned).Canonical := hs
theorem State.Canonical.refuse {s : State} (hs : s.Canonical) : (s.refuse).Canonical := hs

theorem State.Canonical.countArray {s : State} (hs : s.Canonical) {die trans} : (s.countArray die trans).Canonical := by
  unfold State.countArray; split <;> exact hs

theorem State.Canonical.storageError {s : State} (hs : s.Canonical) {la} : (s.storageError la).Canonical := by
  unfold State.storageError
  split
  · exact .foldl hs fun _ ht _ => ht.markBit
  · exact .foldl hs fun _ ht _ => ht.markBit
  · exact .foldl hs fun _ ht _ => ht.markBit
  · exact .foldl hs fun _ ht _ => ht.markBit
  · exact hs

theorem State.Canonical.cacheError {s : State} (hs : s.Canonical) {slot h ln toL1 kind words la} :
    (s.cacheError slot h ln toL1 kind words la).Canonical := by
  unfold State.cacheError
  split
  · exact hs.countArray
  · split
    · split
      · exact hs
      · exact .ite hs <| .ite (.lastingEvent (.ite hs.mapL1 hs.mapCC)) (.countArray (.ite hs.evictL1 hs.evictCC))
    · exact .ite hs.setCore (.ite hs.storageError.lastingEvent hs)

theorem State.Canonical.fillReturn {s : State} (hs : s.Canonical) {slot h ln rid toL1 stale} :
    (s.fillReturn slot h ln rid toL1 stale).Canonical :=
  .ite hs.reply (.ite hs.reply.l1Fill hs.reply.ccFill)

theorem State.Canonical.registration {s : State} (hs : s.Canonical) {dev h scope ln slot m} :
    (s.registration dev h scope ln slot m).Canonical :=
  .ite hs.registerWords.updHartN.after hs.registerWords.tell

theorem State.Canonical.forwarded {s : State} (hs : s.Canonical) {h ln m rlc} : (s.forwarded h ln m rlc).Canonical :=
  .ite hs.reply hs.reply.after

theorem State.Canonical.atomicMsg {s : State} (hs : s.Canonical) {slot pa op wide v c} : (s.atomicMsg slot pa op wide v c).Canonical :=
  .ite hs.refuse hs.atomicHome.reply

theorem State.Canonical.syMsg {s : State} (hs : s.Canonical) {slot pa n wr v} : (s.syMsg slot pa n wr v).Canonical :=
  .ite (.ite hs.refuse hs.homeTake.homePut.reply) hs.homeTake.reply

theorem State.Canonical.watchMsg {s : State} (hs : s.Canonical) {pa} : (s.watchMsg pa).Canonical :=
  .after (.foldl hs.fireAgents.setSlice fun _ ht _ => ht.tell)

theorem State.Canonical.hbmQueue {s : State} (hs : s.Canonical) {slot la write} : (s.hbmQueue slot la write).Canonical := hs

theorem State.Canonical.burst {s : State} (hs : s.Canonical) {slot v} : (s.burst slot v).Canonical :=
  .ite hs (.hbmQueue (.ite hs hs.hbmQueue))

theorem State.Canonical.fetchFor {s : State} (hs : s.Canonical) {slot la rlc} : (s.fetchFor slot la rlc).Canonical :=
  .ite hs.after hs.hbmQueue

theorem State.Canonical.setSlicePsn {s : State} (hs : s.Canonical) {k ln} : (s.setSlicePsn k ln).Canonical := hs

theorem State.Canonical.sliceError {s : State} (hs : s.Canonical) {slot k ln rlc kind words} :
    (s.sliceError slot k ln rlc kind words).Canonical := by
  dsimp only [State.sliceError]
  split
  · exact hs.countArray
  · split
    · split
      · exact hs
      · exact .ite hs <| .ite (.lastingEvent (.ite hs.setSlice hs.setSlice.addPoison)) hs.burst.homeLeft.sliceDrop.countArray
    · split
      · split
        · exact hs
        · exact hs.takeFrom.addPoison.setSlicePsn.lastingEvent
      · exact hs

theorem State.Canonical.sliceWrite {s : State} (hs : s.Canonical) {slot k ln rlc m data psn} :
    (s.sliceWrite slot k ln rlc m data psn).Canonical :=
  .ite hs.dropOwners.writeHome hs.writeHome

theorem State.Canonical.waitAt {s : State} (hs : s.Canonical) {k q pinned} : (s.waitAt k q pinned).Canonical := hs

theorem State.Canonical.sliceServe {s : State} (hs : s.Canonical) {k la rlc q} : (s.sliceServe k la rlc q).Canonical := by
  unfold State.sliceServe
  extract_lets ln data t
  split
  next slot write pin m e =>
    extract_lets n answer
    have ha (u : State) (hu : u.Canonical) : (answer u).Canonical := by
      refine .ite hu ?_
      split
      exact hu.reply
    clear_value answer
    split
    · extract_lets lacks y s1 s2
      have h2 : s2.Canonical := .ite hs.setSlice.sliceWrite hs.setSlice
      exact .ite hs.waitAt <| .ite h2.fetchFor.waitAt <| ha _ (.ite h2 h2.endRlcFill)
    · split
      · exact hs.waitAt
      · extract_lets u
        have hu : u.Canonical := .sliceAlloc (.elim hs fun _ => hs.burst)
        exact .ite hs.waitAt <| .ite hu.sliceWrite hu.fetchFor.waitAt

theorem keeps_msgSlice {g} (hg : ∀ s, s.Canonical → ∀ i, ∀ j, (g s i j).Canonical) : (msgSlice g).Keeps :=
  .get fun _ ht => .ite (.set (hg _ ht _ _)) keeps_badMsg

theorem State.Canonical.unpin {s : State} (hs : s.Canonical) {k ln} : (s.unpin k ln).Canonical := hs

theorem State.Canonical.headWrite {s : State} (hs : s.Canonical) {h die data l} : (s.headWrite h die data l).Canonical :=
  .foldl hs fun _ ht _ => ht.engineWrites

theorem State.Canonical.headServe {s : State} (hs : s.Canonical) {h die slice data} : (s.headServe h die slice data).Canonical := by
  dsimp only [State.headServe]
  refine .after ?_
  split
  · exact .ite hs.reply hs.headWrite.reply
  · exact .after (.ite hs.reply hs.headWrite.reply)

theorem State.Canonical.openSegment {s : State} (hs : s.Canonical) {h} : (s.openSegment h).Canonical := .ite hs.setCluster hs

theorem State.Canonical.remoteServe {s : State} (hs : s.Canonical) {h die data} : (s.remoteServe h die data).Canonical := by
  unfold State.remoteServe
  exact .after (.ite (.reply (.foldl hs fun _ ht _ => ht.answerRemote)) <| .reply (.headWrite (.foldl hs fun _ ht _ => ht.answerRemote)))

theorem State.Canonical.beat {s : State} (hs : s.Canonical) {k tag n} : (s.beat k tag n).Canonical := hs

theorem State.Canonical.windowAccess {s : State} (hs : s.Canonical) {h la n wr v} : (s.windowAccess h la n wr v).Canonical := by
  -- opened at the definition's name only: `unfold` would also evaluate the discriminant of its match
  conv in State.windowAccess => delta State.windowAccess
  extract_lets x pa p
  split
  · exact .ite (.ite hs.homeStore.reply hs.reply) hs.after
  · exact .ite hs.homeStore.reply hs.reply
  · exact hs.refuse

/-! ### Matrix instructions -/

theorem State.Canonical.putAcc {s : State} (hs : s.Canonical) {k m n c} : (s.putAcc k m n c).Canonical := hs.putBits
theorem State.Canonical.zeroWindow {s : State} (hs : s.Canonical) {ofs n} : (s.zeroWindow ofs n).Canonical := .updMem (Mem.wf_drop hs)
theorem keeps_matrixCheck {i} : (matrixCheck i).Keeps := .get fun _ _ => .ite keeps_raise (.ite keeps_raise .pure)

theorem keeps_gather {q acc chk fuel spans elems done} (hchk : ∀ e p, (chk e p).Keeps) :
    (gather q acc chk fuel spans elems done).Keeps := by
  induction fuel generalizing spans elems done with
  | zero => exact .pure
  | succ fuel ih =>
    unfold gather
    split
    · exact .pure
    · refine .get fun s hs => .bind (.set hs.windowFor) fun _ => .bind (keeps_untilFailure hchk) fun r => ?_
      dsimp only
      split
      · exact .pure
      · exact .pure
      · exact ih

theorem keeps_stopRow {α acc r faults} : (stopRow acc r faults : M α).Keeps :=
  .ite .throw (.bind (.modify fun _ ht => ht.recordFaults) fun _ => .throw)

theorem keeps_gatherAll {q acc chk elems} (hchk : ∀ i, ∀ j, (chk i j).Keeps) : (gatherAll q acc chk elems).Keeps := by
  dsimp only [gatherAll]
  refine .bind (keeps_gather (fun _ _ => hchk _ _)) fun _ => ?_
  split
  · exact keeps_stopRow
  · exact .pure

theorem keeps_readElems {mode l} : (readElems mode l).Keeps := by
  induction l with
  | nil => exact .pure
  | cons x l ih => exact .bind keeps_readElem fun _ => .bind ih fun _ => .pure

theorem keeps_writeElems {mode l} : (writeElems mode l).Keeps := by
  induction l with
  | nil => exact .pure
  | cons x l ih => exact .bind keeps_writeElem fun _ => ih

theorem keeps_tldRun {q d} : (tldRun q d).Keeps := by
  unfold tldRun
  split
  · exact .pure
  · exact .bind (keeps_gatherAll (fun _ _ => keeps_locate)) fun _ => .bind keeps_allocateLines fun _ => .bind keeps_readElems fun _ =>
      .bind (.modify fun _ ht => ht.zeroWindow) fun _ => .modify fun _ ht => .foldl ht fun _ hu _ => .ite hu.putBits.mark hu.putBits

theorem keeps_tstRun {q d} : (tstRun q d).Keeps := by
  unfold tstRun
  split
  · exact .pure
  · exact .bind (keeps_gatherAll (fun _ _ => .bind keeps_locate fun _ => .get fun _ ht => .ite keeps_raise .pure)) fun _ =>
      .get fun _ ht => keeps_writeElems

theorem State.Canonical.product {s : State} (hs : s.Canonical) {d t m n k0 k1 a b} : (s.product d t m n k0 k1 a b).Canonical :=
  .foldl hs fun _ ht _ => ht.putAcc.vflags

theorem keeps_mopRun {q d a b} : (mopRun q d a b).Keeps := by
  unfold mopRun
  split
  · exact .get fun _ ht => .bind keeps_consume fun _ => .set ht.product
  · exact .pure

theorem keeps_mopsRun {q d a b} : (mopsRun q d a b).Keeps := by
  unfold mopsRun
  split
  · exact .get fun _ ht => .bind keeps_consume fun _ => .set ht.product
  · exact .pure

theorem keeps_streamSteps {d a sh n l ks} : (streamSteps d a sh n l ks).Keeps := by
  induction ks with
  | nil => exact .pure
  | cons k ks ih =>
    refine .bind keeps_readElems fun _ => ?_
    split
    · exact .bind (.modify fun _ h => h.updUser) fun _ => keeps_raise
    · exact .bind (.modify fun _ h => h.product) fun _ => ih

theorem keeps_mopmRun {q d a} : (mopmRun q d a).Keeps := by
  unfold mopmRun
  split
  · exact .pure
  · refine .get fun _ ht => .bind keeps_consume fun _ => .bind (keeps_gather (fun _ _ => keeps_locate)) fun _ =>
      .bind keeps_allocateLines fun _ => .bind keeps_streamSteps fun _ => ?_
    split
    · exact .bind (.modify fun _ hu => hu.updUser) fun _ => keeps_stopRow
    · exact .modify fun _ hu => hu.updUser

theorem keeps_mclrRun {d} : (mclrRun d).Keeps := .modify fun _ ht => ht.zeroWindow
theorem keeps_accxRun {q d a} : (accxRun q d a).Keeps := .get fun _ ht => .bind keeps_consume fun _ => .set ht.putElems

theorem keeps_acciRun {q d a} : (acciRun q d a).Keeps :=
  .get fun _ ht => .bind keeps_consume fun _ => .set (.foldl ht fun _ hu _ => hu.putAcc.vflags)

/-! ### Special functions -/

theorem keeps_specialRun {q g d a} : (specialRun q g d a).Keeps := .get fun _ ht => .bind keeps_consume fun _ => .set ht.putElems

/-! ### Permutes, reductions and predicate logic -/

theorem keeps_moveRun {q d a sat l} : (moveRun q d a sat l).Keeps := .get fun _ ht => .bind keeps_consume fun _ => .set ht.putElems
theorem keeps_slideUpRun {q d a l} : (slideUpRun q d a l).Keeps := .get fun _ _ => keeps_moveRun
theorem keeps_slideDownRun {q d a l} : (slideDownRun q d a l).Keeps := .get fun _ _ => keeps_moveRun
theorem keeps_permRun {q d a b} : (permRun q d a b).Keeps := .get fun _ _ => .bind keeps_consume fun _ => keeps_moveRun
theorem keeps_compressRun {q d a} : (compressRun q d a).Keeps := .get fun _ _ => keeps_moveRun
theorem keeps_convertRun {q d a sat} : (convertRun q d a sat).Keeps := .get fun _ _ => keeps_moveRun
theorem keeps_broadcastRun {q d} : (broadcastRun q d).Keeps := .get fun _ ht => .set ht.putElems
theorem keeps_insertRun {q d} : (insertRun q d).Keeps := .ite (.modify fun _ ht => ht.putElems) .pure

theorem keeps_reduceRun {q op d a} : (reduceRun q op d a).Keeps :=
  .get fun _ ht => .ite .pure (.bind keeps_consume fun _ => .set ht.putElems)

theorem keeps_scanRun {q op d a} : (scanRun q op d a).Keeps := .get fun _ ht => .ite .pure (.bind keeps_consume fun _ => .set ht.putElems)
theorem keeps_dotRun {q d a b} : (dotRun q d a b).Keeps := .get fun _ ht => .ite .pure (.bind keeps_consume fun _ => .set ht.putElems)

theorem keeps_stringRun {q d a readsD g} : (stringRun q d a readsD g).Keeps :=
  .get fun _ ht => .bind keeps_consume fun _ => .set ht.putElems

theorem keeps_popcountRun {q d a} : (popcountRun q d a).Keeps :=
  .get fun _ ht => .ite .pure (.bind keeps_consume fun _ => .set ht.putElems)

theorem keeps_predRun {q d a b g} : (predRun q d a b g).Keeps := .get fun _ ht => .bind keeps_consume fun _ => .set ht.putPbits
theorem keeps_pnotRun {q d a} : (pnotRun q d a).Keeps := keeps_predRun
theorem keeps_pmvRun {q d a} : (pmvRun q d a).Keeps := keeps_predRun
theorem keeps_psetRun {q d} : (psetRun q d).Keeps := .modify fun _ ht => ht.putPbits
theorem keeps_pfirstRun {q d a} : (pfirstRun q d a).Keeps := .get fun _ ht => .bind keeps_consume fun _ => .set ht.putPbits

/-! ### The vector and the matrix queue -/

theorem keeps_queueRun {q} : (queueRun q).Keeps := by
  unfold queueRun
  generalize q.instr = i
  cases i with
  | vld | vldT => exact keeps_vldRun
  | vst => exact keeps_vstRun
  | vldx => exact keeps_vldxRun
  | vstx => exact keeps_vstxRun
  | vstN => exact keeps_vstnRun
  | vpush => exact keeps_vpushRun
  | vpushT => exact keeps_vpushtRun
  | vadd | vsub | vmul | vfma | vfms | vdiv | vmin | vmax | vand | vor | vxor | vshl | vshr | vmulh => exact keeps_binaryRun
  | vsqrt | vabs | vneg => exact keeps_unaryRun
  | vsel => exact keeps_selectRun
  | vcmpEq | vcmpNe | vcmpLt | vcmpLe | vcmpGt | vcmpGe | vcmpUn => exact keeps_compareRun
  | vrcp | vrsqrt | vexp2 | vlog2 | vtanh => exact keeps_specialRun
  | vslup => exact keeps_slideUpRun
  | vsldn => exact keeps_slideDownRun
  | vperm => exact keeps_permRun
  | vcomp => exact keeps_compressRun
  | vbcast => exact keeps_broadcastRun
  | vins => exact keeps_insertRun
  | vcvt => exact keeps_convertRun
  | vredSum | vredMin | vredMax | vredAnd | vredOr => exact keeps_reduceRun
  | vscanSum | vscanMin | vscanMax => exact keeps_scanRun
  | vdot => exact keeps_dotRun
  | vbsl | vbsr | vbfun => exact keeps_stringRun
  | vbpopc => exact keeps_popcountRun
  | pand | por | pxor | pandn => exact keeps_predRun
  | pnot => exact keeps_pnotRun
  | pset => exact keeps_psetRun
  | pfirst => exact keeps_pfirstRun
  | pmv => exact keeps_pmvRun
  | tld => exact keeps_tldRun
  | tst => exact keeps_tstRun
  | mop => exact keeps_mopRun
  | mops => exact keeps_mopsRun
  | mopM => exact keeps_mopmRun
  | mclr => exact keeps_mclrRun
  | accx => exact keeps_accxRun
  | acci => exact keeps_acciRun
  | _ => exact keeps_stall

theorem keeps_runEntry {q} : (runEntry q).Keeps := keeps_withMailboxes keeps_queueRun

theorem State.Canonical.retireHead {s : State} (hs : s.Canonical) {qk q} : (s.retireHead qk q).Canonical :=
  .foldl hs.updHart fun _ ht _ => ht.drainCheck

theorem State.Canonical.clearStart {s : State} (hs : s.Canonical) : (s.clearStart).Canonical := hs
theorem State.Canonical.entryTrap {s : State} (hs : s.Canonical) {mat q c a} : (s.entryTrap mat q c a).Canonical := hs.updHart.takeTrap

theorem State.Canonical.earlierTrap {s t : State} (hs : s.Canonical) {mat seq} (e : s.earlierTrap mat seq = some t) : t.Canonical := by
  unfold State.earlierTrap at e
  split at e
  · cases e
  · split at e
    · cases e
    · split at e
      · next h => cases e; exact (keeps_runEntry.error hs h).entryTrap
      · cases e

theorem State.Canonical.attemptEntry {s : State} (hs : s.Canonical) {mat q} : (s.attemptEntry mat q).1.Canonical := by
  unfold State.attemptEntry
  refine .ite_fst hs ?_
  split
  · next e =>
    have ht := keeps_runEntry.ok hs e
    exact .retireHead (.ite ht ht.clearStart)
  · next e =>
    cases h : s.earlierTrap (!mat) q.seq with
    | none => exact (keeps_runEntry.error hs e).entryTrap
    | some t => exact hs.earlierTrap h
  · next e => exact keeps_runEntry.error hs e

theorem State.Canonical.attemptHead {s : State} (hs : s.Canonical) {mat} : (s.attemptHead mat).1.Canonical := by
  unfold State.attemptHead
  split
  · exact hs
  · exact hs.attemptEntry

theorem State.Canonical.takeSlice {s : State} (hs : s.Canonical) : (s.takeSlice).Canonical := by
  unfold State.takeSlice
  split
  · exact hs
  · exact .ite hs.updHart hs.attemptHead

theorem State.Canonical.finishFlight {s : State} (hs : s.Canonical) : s.finishFlight.Canonical := by
  unfold State.finishFlight
  split
  · exact hs
  · refine .ite hs.attemptHead (.ite hs ?_)
    split
    · next e => exact (keeps_runEntry.ok hs e).retireHead
    · exact hs

theorem keeps_vecCheck {i} : (vecCheck i).Keeps := by
  refine .get fun s hs => .ite keeps_illegal <| .ite keeps_raise ?_
  split
  · exact .map keeps_needHart
  · exact .map keeps_needHart
  · exact .pure

theorem State.Canonical.enqueue {s : State} (hs : s.Canonical) {mat q} : (s.enqueue mat q).Canonical := hs
theorem keeps_runDirect {mat q} : (runDirect mat q).Keeps := .bind keeps_runEntry fun _ => .modify fun _ ht => .ite ht ht.clearStart

theorem Outcome.Kept.issue {mat chk i} {s : State} (hs : s.Canonical) (hchk : chk.Keeps) : Outcome.Kept (issue mat chk i s) := by
  unfold Machine.issue
  split
  · next e =>
    have ht := hchk.ok hs e
    dsimp only
    split
    · exact .finish keeps_runDirect ht
    · split
      · exact .next ht.enqueue
      · exact .next ht
  · next e => exact .next (hchk.error hs e).takeTrap
  · next e => exact .next (hchk.error hs e)

theorem Outcome.Kept.issueVec {s : State} (hs : s.Canonical) {i} : Outcome.Kept (issueVec i s) := .issue hs keeps_vecCheck
theorem Outcome.Kept.issueMat {s : State} (hs : s.Canonical) {i} : Outcome.Kept (issueMat i s) := .issue hs keeps_matrixCheck

/-! ### System instructions -/

theorem State.Canonical.sendAgain {s : State} (hs : s.Canonical) : (s.sendAgain).Canonical := by
  dsimp only [State.sendAgain]
  split
  · exact .ite hs.updHart hs.updHart.engineWrite
  · exact hs

theorem State.Canonical.returnFromTrap {s : State} (hs : s.Canonical) : (s.returnFromTrap).Canonical :=
  .releaseDrains (.updHart (.ite hs.sendAgain hs.sendAgain.updHart))

theorem keeps_sretBody : (sretBody).Keeps := .bind keeps_needSup fun _ => .modify fun _ ht => ht.returnFromTrap

theorem State.Canonical.returnFromHandler {s : State} (hs : s.Canonical) : (s.returnFromHandler).Canonical :=
  .updHart (.ite (.elim hs.updHart fun _ => hs.updHart.taskEnded) hs)

theorem keeps_uretBody : (uretBody).Keeps := .get fun _ ht => .ite keeps_illegal (.set ht.returnFromHandler)

theorem State.Canonical.countHalt {s : State} (hs : s.Canonical) {l n} : (s.countHalt l n).Canonical := by
  unfold State.countHalt
  split
  · exact hs
  · exact .ite hs.updDisp.after hs.updDisp

theorem State.Canonical.retireHart {s : State} (hs : s.Canonical) : (s.retireHart).Canonical :=
  hs.release.flushPrivate.disownAll.freeHart.countHalt

theorem keeps_haltBody : (haltBody).Keeps := .bind keeps_waitQueues fun _ => .get fun _ ht => .ite keeps_stall (.set ht.retireHart)
theorem State.Canonical.tlbDrop {s : State} (hs : s.Canonical) {die kind ctx va root} : (s.tlbDrop die kind ctx va root).Canonical := hs
theorem keeps_tlbWait : (tlbWait).Keeps := .get fun _ ht => .ite (.set ht.updHart) keeps_stall

theorem keeps_tlbinvBody {a b} : (tlbinvBody a b).Keeps := by
  dsimp only [tlbinvBody]
  refine .get fun _ ht => ?_
  split
  · exact keeps_illegal
  · refine .bind keeps_needSup fun _ => ?_
    split
    · exact keeps_tlbWait
    · exact .bind keeps_doRelease fun _ => .get fun _ hu => .bind (.set hu.updHart.after) fun _ => keeps_tlbWait

theorem State.Canonical.tlbRecipient {s : State} (hs : s.Canonical) {m} : (s.tlbRecipient m).Canonical := by
  unfold State.tlbRecipient
  exact .ite (.after (.ite hs hs.tlbDrop)) (.after (.ite hs hs.tlbDrop))

/-! ### Launch queues and `klaunch` -/

theorem State.Canonical.queueEntry {s : State} (hs : s.Canonical) {v q} : (s.queueEntry v q).1.Canonical := by
  unfold State.queueEntry
  refine .ite_fst hs ?_
  split
  refine .ite_fst hs (.ite_fst hs ?_)
  split
  · next e => exact hs.seqTranslate.of_fst e
  · next e =>
    have ht := hs.seqTranslate.of_fst e
    split
    · next e => exact ht.seqHbm.of_fst e
    · next e => exact ht.seqHbm.of_fst e

theorem State.Canonical.syWrite {s : State} (hs : s.Canonical) {slot pa v} : (s.syWrite slot pa v).Canonical := hs.homeTake.homePut

theorem State.Canonical.klaunchSteps {s : State} (hs : s.Canonical) {h k ctrl slotPa image stage parked} :
    (s.klaunchSteps h k ctrl slotPa image stage parked).1.Canonical := by
  unfold State.klaunchSteps
  extract_lets key
  have hp : (if stage = 0 then
      (if (s.syRead key (slotPa + 120)).2.1 = 1 then ((s.syRead key (slotPa + 120)).1, 0) else ((s.syRead key
        (slotPa + 120)).1.engineWrites key slotPa (putBytes image 120 (List.replicate 8 0#8)), 1))
        else (s, stage)).1.Canonical := .ite_fst (.ite_fst hs.syRead hs.syRead.engineWrites) hs
  split
  next t _ e =>
    have ht : t.Canonical := State.Canonical.of_fst hp e
    refine .ite_fst ht ?_
    split
    next v _ _ e =>
      have hv : v.Canonical := ht.syRead.of_fst e
      refine .ite_fst ?_ <| .ite_fst hv (.ite_fst hv hv.setSlice)
      dsimp only
      split
      · exact hv.syWrite.setSlice.after
      · exact hv.syWrite.setSlice

theorem State.Canonical.pollLaunches {s : State} (hs : s.Canonical) {h} : (s.pollLaunches h).Canonical := by
  refine .foldl hs fun t ht k => ?_
  split
  · split
    next e => exact (ht.klaunchSteps.of_fst e).updHartN
  · exact ht

theorem keeps_klaunchWait {d} : (klaunchWait d).Keeps := by
  unfold klaunchWait
  refine .bind (.modify fun _ ht => ht.pollLaunches) fun _ => .get fun _ ht => ?_
  split
  · exact .set ht.updHart.setX
  · exact keeps_stall

theorem keeps_templatePlaces {va n} : (templatePlaces va n).Keeps := by
  induction n generalizing va with
  | zero => exact .pure
  | succ n ih => exact .bind keeps_accessCheck fun _ => .bind ih fun _ => .pure

theorem State.Canonical.klaunchReserve {s : State} (hs : s.Canonical) {sel image} : (s.klaunchReserve sel image).1.Canonical := by
  unfold State.klaunchReserve
  split
  · exact hs
  · split
    · next e =>
      have ht := hs.queueEntry.of_fst e
      split
      next e =>
        have hu := ht.syRead.of_fst e
        split
        next e =>
          have hv := hu.syRead.of_fst e
          refine .ite_fst hv ?_
          split
          · next e => exact (hv.seqHbm.of_fst e).syWrite
          · next e => exact hv.seqHbm.of_fst e
    · next e => exact hs.queueEntry.of_fst e

theorem keeps_klaunchBody {i d a b} : (klaunchBody i d a b).Keeps := by
  refine .get fun s hs => .ite keeps_illegal ?_
  split
  · exact keeps_klaunchWait
  · refine .ite keeps_raise <| .bind keeps_templatePlaces fun _ => .bind keeps_doRelease fun _ => .bind keeps_blockRead fun _ =>
      .get fun t ht => .ite keeps_stall ?_
    split
    · next e => exact .set (ht.klaunchReserve.of_fst e).setX
    · next e => exact .bind (.set (ht.klaunchReserve.of_fst e).updHart) fun _ => keeps_klaunchWait

/-! ### Contexts and placement -/

theorem State.Canonical.retireEntry {s : State} (hs : s.Canonical) {i} : (s.retireEntry i).Canonical := hs

theorem State.Canonical.retireSlot {s : State} (hs : s.Canonical) {n} : (s.retireSlot n).Canonical :=
  .foldl hs fun _ ht _ => ht.retireEntry

theorem State.Canonical.updCtx {s : State} (hs : s.Canonical) {n g} : (s.updCtx n g).Canonical := hs
theorem State.Canonical.updQueue {s : State} (hs : s.Canonical) {n q g} : (s.updQueue n q g).Canonical := hs

theorem State.Canonical.queueEvent {s : State} (hs : s.Canonical) {n iod kind detail fofs} :
    (s.queueEvent n iod kind detail fofs).Canonical :=
  hs.postEvent

theorem State.Canonical.agentWatch {s : State} (hs : s.Canonical) {w} : (s.agentWatch w).Canonical := hs

theorem State.Canonical.skipHead {s : State} (hs : s.Canonical) {v n q ctrl head} : (s.skipHead v n q ctrl head).Canonical :=
  hs.syWrite.updQueue.after

theorem State.Canonical.failHead {s : State} (hs : s.Canonical) {v n q ctrl head va pa fofs} :
    (s.failHead v n q ctrl head va pa fofs).Canonical := by
  cases pa with
  | none => exact hs.queueEvent.skipHead
  | some pa => exact .skipHead (.queueEvent (.ite hs hs.syWrite))

theorem State.Canonical.readRecord {s : State} (hs : s.Canonical) {v va} : (s.readRecord v va).1.Canonical := by
  unfold State.readRecord
  split
  · next e => exact hs.seqHbm.of_fst e
  · next e => exact hs.seqHbm.of_fst e

theorem State.Canonical.examineHead {s : State} (hs : s.Canonical) {v n q ring size ctrl head} :
    (s.examineHead v n q ring size ctrl head).Canonical := by
  dsimp only [State.examineHead]
  split
  · next e => exact (hs.readRecord.of_fst e).failHead
  · next e =>
    have ht := hs.readRecord.of_fst e
    split
    · exact ht.failHead
    · refine .ite ht.updQueue.after ?_
      split
      · next e => exact (ht.seqHbm.of_fst e).failHead
      · next e =>
        have hu := (ht.seqHbm.of_fst e)
        exact .ite hu.agentWatch.syRead.updQueue.after hu.agentWatch.syRead.updQueue

theorem State.Canonical.examine {s : State} (hs : s.Canonical) {n q tail} : (s.examine n q tail).Canonical := by
  unfold State.examine
  extract_lets c v b bad
  refine .ite (.ite hs.updQueue hs) (.ite hs.after ?_)
  split
  · next e => exact (hs.queueEntry.of_fst e).updQueue
  · next e =>
    have ht := hs.queueEntry.of_fst e
    exact .updQueue (.ite ht ht.queueEvent)
  · next e =>
    have ht := hs.queueEntry.of_fst e
    extract_lets u
    have hu : u.Canonical := ht.agentWatch
    split
    next e =>
      have hv := hu.syRead.of_fst e
      split
      next e =>
        have hw := hv.syRead.of_fst e
        exact .ite (.updQueue (.ite hw hw.queueEvent)) (.ite hw.updQueue hw.updQueue.examineHead)

theorem State.Canonical.scanQueues {s : State} (hs : s.Canonical) {iod} : (s.scanQueues iod).Canonical :=
  .foldl (.foldl hs fun _ ht _ => .ite ht.updCtx ht) fun _ ht _ => .foldl ht fun _ hu _ => hu.examine

theorem State.Canonical.beginHart {s : State} (hs : s.Canonical) {h} : (s.beginHart h).Canonical := hs.acquire.setCore

theorem State.Canonical.attachPlates {s : State} (hs : s.Canonical) {h k m} : (s.attachPlates h k m).Canonical := by
  induction m generalizing s k with
  | zero => cases k <;> exact hs
  | succ m ih =>
    unfold State.attachPlates
    split
    · next e => exact hs.pickOne.of_fst e
    · next e => exact ih (hs.pickOne.of_fst e).setPlate.updHartN

theorem State.Canonical.startLaunch {s : State} (hs : s.Canonical) {n l va b blk harts grants} :
    (s.startLaunch n l va b blk harts grants).Canonical := by
  unfold State.startLaunch
  extract_lets c base a r t
  have ht : t.Canonical := hs.updDisp (g := _)
  exact .foldl ht fun _ hu _ => hu.setHart.attachPlates.beginHart

theorem State.Canonical.rrPast {s : State} (hs : s.Canonical) {q p} : (s.rrPast q p).Canonical := hs

theorem State.Canonical.commitRecord {s : State} (hs : s.Canonical) {n q} : (s.commitRecord n q).Canonical := by
  dsimp only [State.commitRecord]
  refine .ite hs.after ?_
  split
  · next e =>
    have ht := hs.queueEntry.of_fst e
    split
    · exact ht.syRead.rrPast.failHead
    · next e =>
      have hu := ht.syRead.readRecord.of_fst e
      split
      · exact hu.rrPast.failHead
      · exact hu.rrPast.failHead
      · split
        · exact hu.rrPast.failHead
        · exact hu
        · exact hu
        · split
          · next e => exact (hu.rrPast.casWord.of_fst e).failHead
          · next e => exact (hu.rrPast.casWord.of_fst e).skipHead.startLaunch
  · next e _ => exact hs.queueEntry.of_fst e

theorem State.Canonical.placementChoice {s : State} (hs : s.Canonical) : s.placementChoice.Canonical := by
  unfold State.placementChoice
  split
  · next e => exact hs.pickOne.of_fst e
  · next e => exact .elim (hs.pickOne.of_fst e) fun _ => (hs.pickOne.of_fst e).after

theorem State.Canonical.completeLaunch {s : State} (hs : s.Canonical) {l} : (s.completeLaunch l).Canonical := by
  dsimp only [State.completeLaunch]
  split
  · exact hs
  · refine .ite hs <| .ite hs.after <| .placeAgain (.updDisp (.foldl ?_ fun _ h _ => h.endOrbit))
    split
    · next e =>
      have ht : State.Canonical _ := .of_fst (.ite_fst hs hs.seqHbm) e
      split
      · next e => exact (ht.endWord.of_fst e).atomicHome
      · next e => exact ht.endWord.of_fst e
    · next e =>
      have ht : State.Canonical _ := .of_fst (.ite_fst hs hs.seqHbm) e
      refine .ite ht.endWord ?_
      split
      · next e => exact (ht.endWord.of_fst e).queueEvent
      · next e => exact ht.endWord.of_fst e

theorem State.Canonical.dcDone {s : State} (hs : s.Canonical) {n ok} : (s.dcDone n ok).Canonical := hs

theorem State.Canonical.setupPool {s : State} (hs : s.Canonical) {n} : (s.setupPool n).Canonical := by
  refine .updCtx (.foldl hs fun _ h _ => .foldl h fun t ht _ => ?_)
  split
  · next e => exact ht.pickOne.of_fst e
  · next e =>
    have hu := ht.pickOne.of_fst e
    exact .updMem (Mem.wf_drop hu)

theorem State.Canonical.dropSequencer {s : State} (hs : s.Canonical) {ctx} : (s.dropSequencer ctx).Canonical := hs

theorem State.Canonical.createContext {s : State} (hs : s.Canonical) {n} : (s.createContext n).Canonical := by
  dsimp only [State.createContext]
  split
  · exact hs.dcDone
  · exact .ite hs.dropSequencer.retireSlot.updCtx.updDisp.setupPool.updCtx.dcDone.after hs.dropSequencer.retireSlot.updCtx.updDisp.updCtx.dcDone

theorem State.Canonical.dropTranslations {s : State} (hs : s.Canonical) {ctx} : (s.dropTranslations ctx).Canonical := hs

theorem State.Canonical.removeContext {s : State} (hs : s.Canonical) {n} : (s.removeContext n).Canonical := by
  unfold State.removeContext
  extract_lets t u
  have hu : u.Canonical := .updMem hs.dropTranslations.retireSlot.updDisp
  exact .ite hs.dcDone (.dcDone (.updCtx hu))

theorem State.Canonical.endLaunchCmd {s : State} (hs : s.Canonical) {n record} : (s.endLaunchCmd n record).Canonical := by
  unfold State.endLaunchCmd
  split
  · exact hs.dcDone
  · exact hs.failLaunch.dcDone

theorem keeps_slotStep {g} (hg : ∀ s, s.Canonical → ∀ i, (g s i).Canonical) : (slotStep g).Keeps := .modify fun _ ht => hg _ ht _

/-! ### Cuts and switches -/

theorem State.Canonical.putCells {s : State} (hs : s.Canonical) {a n cells marks} : (s.putCells a n cells marks).Canonical :=
  .updMem (Mem.wf_foldl (Mem.wf_drop hs) fun _ h _ => by split; exacts [Mem.wf_write h, h])

theorem State.Canonical.clearContext {s : State} (hs : s.Canonical) {n} : (s.clearContext n).Canonical :=
  .updMem (State.Canonical.updFab (.foldl (.foldl hs fun _ ht _ => ht.unwatch.unpark.setHart) fun _ ht _ => ht.setPlate))

theorem State.Canonical.vectorRecord {s : State} (hs : s.Canonical) {h} : (s.vectorRecord h).1.Canonical := by
  dsimp only [State.vectorRecord]
  split <;> exact hs

theorem State.Canonical.writeRecords {s : State} (hs : s.Canonical) {l a} : (State.writeRecords l a s).Canonical := by
  induction l generalizing s a with
  | nil => exact hs
  | cons h l ih => exact ih (.updMem (Mem.wf_writes hs.vectorRecord))

theorem State.Canonical.writeArea {s : State} (hs : s.Canonical) {n img} : (s.writeArea n img).1.Canonical :=
  .ite_fst hs (.writeRecords (.updMem (Mem.wf_drop hs)))

theorem State.Canonical.parkContext {s : State} (hs : s.Canonical) {n} : (s.parkContext n).Canonical := by
  -- opened at the definition's name only: `unfold` would also evaluate the discriminant of its match
  conv in State.parkContext => delta State.parkContext
  split
  next t img e =>
    have ht : t.Canonical := hs.writeArea.of_fst e
    exact ht.clearContext.updDisp.updCtx

theorem State.Canonical.restorePlate {s : State} (hs : s.Canonical) {fh fp p} : (s.restorePlate fh fp p).Canonical := hs.setPlate.putCells

theorem State.Canonical.restoreShare {s : State} (hs : s.Canonical) {a n x v} : (s.restoreShare a n x v).Canonical :=
  .ite hs.putCells hs.putCells

theorem State.Canonical.rearm {s : State} (hs : s.Canonical) {h} : (s.rearm h).Canonical := by
  unfold State.rearm
  extract_lets x off va
  refine .ite hs ?_
  split
  · next e => exact (hs.lookup.of_fst e).updHartN
  · next e =>
    have ht := hs.lookup.of_fst e
    exact .ite ht.updHartN (.ite ht.updHartN.updHartN ht.setSlice)

theorem State.Canonical.restoreHart {s : State} (hs : s.Canonical) {fh fp x g} : (s.restoreHart fh fp x g).Canonical :=
  hs.setHart.restoreShare.putCells.putCells.rearm

theorem State.Canonical.restoreLaunch {s : State} (hs : s.Canonical) {fh fp l} : (s.restoreLaunch fh fp l).Canonical := by
  unfold State.restoreLaunch
  split
  · exact hs
  · exact .foldl hs fun _ ht _ => ht.restoreHart

theorem State.Canonical.resumeSteps {s : State} (hs : s.Canonical) {n} : (s.resumeSteps n).Canonical :=
  .after (.copyRetry (.foldl hs fun _ ht _ => ht.drainCheck))

theorem State.Canonical.restoreContext {s : State} (hs : s.Canonical) {n img} : (s.restoreContext n img).Canonical :=
  .updCtx (.updFab (.foldl (.foldl (.updDisp (.foldl (.foldl hs fun _ ht _ => ht.restorePlate) fun _ ht _ =>
    ht.restoreLaunch)) fun _ ht _ => ht.setSlice) fun _ ht _ => ht.setCluster))

theorem State.Canonical.goOn {s : State} (hs : s.Canonical) {n} : (s.goOn n).Canonical :=
  .resumeSteps (.updCtx (.foldl hs.releaseHeld fun _ ht _ => ht.acquireRlc))

theorem State.Canonical.resumeContext {s : State} (hs : s.Canonical) {n} : (s.resumeContext n).Canonical := by
  have ht : ({ s with free := s.free + 2 ^ 40 } : State).Canonical := hs
  refine .goOn (.setupPool ?_)
  split
  · exact .ite hs.restoreContext ht.restoreContext
  · exact hs

theorem State.Canonical.switchOut {s : State} (hs : s.Canonical) {h} : (s.switchOut h).Canonical := hs.release.flushPrivate.disownAll

theorem State.Canonical.emptyL1 {s : State} (hs : s.Canonical) {slot c} : (s.emptyL1 slot c).Canonical :=
  .foldl hs fun _ ht _ => ht.evictL1

theorem State.Canonical.emptyCC {s : State} (hs : s.Canonical) {slot k} : (s.emptyCC slot k).Canonical :=
  .foldl hs fun _ ht _ => ht.evictCC

theorem State.Canonical.drainDie {s : State} (hs : s.Canonical) {n die} : (s.drainDie n die).Canonical :=
  .foldl (.foldl (.foldl (.staleFills (.stopCopies (.foldl hs fun _ ht _ => .ite (ht.onHart (fun _ hu =>
    hu.finishFlight)) ht))) fun _ ht _ => ht.updHartN.switchOut) fun _ ht _ => ht.emptyL1) fun _ ht _ => ht.emptyCC

theorem State.Canonical.updCut {s : State} (hs : s.Canonical) {n g} : (s.updCut n g).Canonical := hs
theorem State.Canonical.endCut {s : State} (hs : s.Canonical) {n} : (s.endCut n).Canonical := hs
theorem State.Canonical.sendMarkers {s : State} (hs : s.Canonical) {n epoch} : (s.sendMarkers n epoch).Canonical := hs.updFab

theorem State.Canonical.beginUnit {s : State} (hs : s.Canonical) {n u} : (s.beginUnit n u).Canonical := by
  unfold State.beginUnit
  split
  · exact hs
  · split
    · exact hs
    · exact .ite (.after (.sendMarkers (.after (.ite hs.updCut.drainDie hs.updCut)))) (.after (.ite hs.updCut.drainDie hs.updCut))

theorem State.Canonical.startCut {s : State} (hs : s.Canonical) {n epoch quiesce units} : (s.startCut n epoch quiesce units).Canonical :=
  .foldl hs.updDisp.updCtx fun _ ht _ => ht.beginUnit

theorem State.Canonical.refuseSwitch {s : State} (hs : s.Canonical) : (s.refuseSwitch).Canonical := hs.postEvent.updSwitch
theorem State.Canonical.takeSave {s : State} (hs : s.Canonical) {n} : (s.takeSave n).Canonical := hs

theorem State.Canonical.cutOutgoing {s : State} (hs : s.Canonical) {n} : (s.cutOutgoing n).Canonical :=
  .ite hs.takeSave.updCut <| .ite hs.takeSave.updDisp.updCtx.after hs.takeSave.startCut

theorem State.Canonical.switchCut {s : State} (hs : s.Canonical) : (s.switchCut).Canonical :=
  .ite hs.refuseSwitch (.after (.foldl hs.updSwitch fun _ ht _ => ht.cutOutgoing))

theorem State.Canonical.markerCut {s : State} (hs : s.Canonical) {n u epoch} : (s.markerCut n u epoch).Canonical :=
  .ite (.ite hs.refuseSwitch hs.updSwitch) <| .startCut (.takeSave (.ite hs.updSwitch (.ite hs.updSwitch hs)))

theorem State.Canonical.cutBegin {s : State} (hs : s.Canonical) {m} : (s.cutBegin m).Canonical :=
  .ite (.ite hs.switchCut hs) (.ite hs.beginUnit hs)

theorem State.Canonical.marker {s : State} (hs : s.Canonical) {n src plane epoch} : (s.marker n src plane epoch).Canonical := by
  unfold State.marker
  exact .ite (.after (.updCut (.ite hs.markerCut (.ite hs.beginUnit hs)))) (.ite hs.markerCut (.ite hs.beginUnit hs))

theorem State.Canonical.bringBack {s : State} (hs : s.Canonical) : (s.bringBack).Canonical := hs

theorem State.Canonical.cutComplete {s : State} (hs : s.Canonical) {n} : (s.cutComplete n).Canonical := by
  unfold State.cutComplete
  split
  · exact hs
  · exact .ite hs (.ite hs.bringBack.endCut.updCtx hs.bringBack.updCut.after)

theorem State.Canonical.contextSaved {s : State} (hs : s.Canonical) : (s.contextSaved).Canonical := by
  unfold State.contextSaved
  exact .ite hs (.after (.foldl hs fun _ h _ => h.parkContext.endCut))

theorem State.Canonical.contextResumed {s : State} (hs : s.Canonical) : (s.contextResumed).Canonical :=
  .ite hs (.updSwitch (.ite hs hs.resumeContext))

theorem State.Canonical.quiesce {s : State} (hs : s.Canonical) {n} : (s.quiesce n).Canonical := .ite hs.dcDone hs.startCut

theorem State.Canonical.endQuiesce {s : State} (hs : s.Canonical) {n} : (s.endQuiesce n).Canonical :=
  .ite hs.dcDone <| .goOn (.dcDone (.ite (.updCtx (.foldl hs fun _ ht _ => ht.updHartN)) hs.clearContext.restoreContext))

theorem State.Canonical.notices {s : State} (hs : s.Canonical) : (s.notices).Canonical := .foldl hs fun _ ht _ => ht.updHartN
theorem State.Canonical.applyResize {s : State} (hs : s.Canonical) : (s.applyResize).Canonical := .ite hs.updHart.releaseDrains hs.updHart

theorem State.Canonical.trapEntry {s : State} (hs : s.Canonical) {code arg qk} : (s.trapEntry code arg qk).Canonical :=
  .takeTrap (.elim hs fun _ => hs.updHart)

/-! ### A hart's own units -/

theorem keeps_hartPart {i m} (hm : m.Keeps) : (hartPart i m).Keeps := by
  refine .modify fun s hs => hs.onHart fun t ht => .ite ht ?_
  split
  · next e => exact hm.ok ht e
  · next e => exact (hm.error ht e).takeTrap
  · next e => exact (hm.error ht e).after

theorem keeps_vlWriteBody {v} : (vlWriteBody v).Keeps :=
  .get fun _ _ => .ite keeps_cregWrite (.bind keeps_cregWait fun _ => keeps_cregWrite)

theorem State.Canonical.walkFor {s : State} (hs : s.Canonical) {h va acc} : (s.walkFor h va acc).Canonical := by
  unfold State.walkFor
  refine .ite hs (.ite hs.after ?_)
  split
  · next e => exact (hs.walk.of_fst e).tlbInstall
  · next e => exact hs.walk.of_fst e

theorem State.Canonical.pretranslate {s : State} (hs : s.Canonical) {mat} : (s.pretranslate mat).Canonical := by
  unfold State.pretranslate
  split
  · exact hs
  · exact .updHart (.windowFor hs.updHart)

theorem State.Canonical.performHead {s : State} (hs : s.Canonical) {mat p} : (s.performHead mat p).1.Canonical :=
  .ite_fst hs.attemptHead hs

theorem State.Canonical.vectorChoice {s : State} (hs : s.Canonical) {k} : (s.vectorChoice k).1.Canonical := by
  unfold State.vectorChoice
  extract_lets l
  split
  · exact hs
  · extract_lets t c u
    have ht : t.Canonical := .foldl hs fun _ h _ => h.updHartN
    have hu : u.Canonical := .ite ht.setCluster ht
    exact hu.onHart fun _ h => h.takeSlice

theorem State.Canonical.matrixMemory {s : State} (hs : s.Canonical) : s.matrixMemory.Canonical := by
  unfold State.matrixMemory
  split
  · exact hs
  · refine .ite hs ?_
    split
    · next e => exact keeps_runEntry.error hs e
    · exact hs

theorem State.Canonical.operate {s : State} (hs : s.Canonical) {k h} : (s.operate k h).Canonical :=
  hs.switchTo.attemptHead.switchTo.setCluster

theorem State.Canonical.matrixChoice {s : State} (hs : s.Canonical) {k} : (s.matrixChoice k).1.Canonical := by
  unfold State.matrixChoice
  split
  · exact hs.operate
  · extract_lets l
    split
    · exact hs
    · extract_lets t c u
      have ht : t.Canonical := .foldl hs fun _ h _ => h.setCore
      have hu : u.Canonical := .ite ht.setCluster ht
      exact .elim hu fun _ => hu.operate

theorem State.Canonical.runQueues {s : State} (hs : s.Canonical) : s.runQueues.1.Canonical := by
  unfold State.runQueues
  extract_lets k t vector matrix
  have ht : t.Canonical := hs
  have hv (u : State) (hu : u.Canonical) : (vector u).1.Canonical := by
    unfold vector
    split
    · next e => exact hu.performHead.of_fst e
    · next e => exact (hu.performHead.of_fst e).vectorChoice
  have hm (u : State) (hu : u.Canonical) : (matrix u).1.Canonical := hu.matrixMemory.matrixChoice
  split
  next a b e =>
    have hab : (∀ u : State, u.Canonical → (a u).1.Canonical) ∧ ∀ u : State, u.Canonical → (b u).1.Canonical := by
      split at e
      · cases e
        exact ⟨hm, hv⟩
      · cases e
        exact ⟨hv, hm⟩
    obtain ⟨ha, hb⟩ := hab
    split
    · next e => exact (ha _ ht).of_fst e
    · next e => exact hb _ ((ha _ ht).of_fst e)

/-! ### The fabric -/

theorem State.Canonical.portDown {s : State} (hs : s.Canonical) {p} : (s.portDown p).Canonical := by
  unfold State.portDown
  exact .ite hs.updFab.resendRemotes hs.updFab.resendRemotes.lastingEvent

theorem State.Canonical.peerPlaneDown {s : State} (hs : s.Canonical) {dev p} : (s.peerPlaneDown dev p).Canonical :=
  .ite hs hs.updFab.resendRemotes

theorem keeps_portStep {g} (hg : ∀ s, s.Canonical → ∀ i, (g s i).Canonical) : (portStep g).Keeps :=
  .get fun _ ht => .ite (.set (hg _ ht _)) keeps_badMsg

theorem State.Canonical.flitRetry {s : State} (hs : s.Canonical) {p fails} : (s.flitRetry p fails).Canonical :=
  .ite hs.updFab.portDown hs.updFab

theorem keeps_linkStep {g} (hg : ∀ s, s.Canonical → ∀ i, (g s i).Canonical) : (linkStep g).Keeps :=
  .get fun _ ht => .ite (.set (hg _ ht _)) keeps_badMsg

theorem State.Canonical.updLink {s : State} (hs : s.Canonical) {k g} : (s.updLink k g).Canonical := hs

theorem State.Canonical.laneRepair {s : State} (hs : s.Canonical) {k away lane} : (s.laneRepair k away lane).Canonical :=
  .ite hs (.ite hs.updLink.postEvent hs.updLink.postEvent)

theorem State.Canonical.failedAt {s : State} (hs : s.Canonical) {mat k} : (s.failedAt mat k).Canonical := .ite hs.updUser hs.updVec

theorem State.Canonical.remoteTimeout {s : State} (hs : s.Canonical) {m} : (s.remoteTimeout m).Canonical := by
  unfold State.remoteTimeout
  extract_lets out t
  have ht : t.Canonical := .ite hs hs.updFab
  exact .ite hs (.ite ht.updHart.takeTrap (.ite ht.failedAt.trapEntry ht.takeTrap))

theorem State.Canonical.copyTimeout {s : State} (hs : s.Canonical) {h} : (s.copyTimeout h).Canonical := by
  dsimp only [State.copyTimeout]
  split
  · exact hs
  · exact .elim hs fun _ => hs.failCopy

theorem State.Canonical.enabledWrite {s : State} (hs : s.Canonical) {slot pa mask bs} : (s.enabledWrite slot pa mask bs).Canonical :=
  .ite hs.engineWrite <| .foldl hs fun _ ht _ => .ite ht.engineWrite (.foldl ht fun _ hu _ => .ite hu.engineWrite hu)

theorem State.Canonical.enabledStore {s : State} (hs : s.Canonical) {pa mask bs} : (s.enabledStore pa mask bs).Canonical :=
  .foldl hs fun _ ht _ => .ite ht.homeStore ht

theorem State.Canonical.ingressPerform {s : State} (hs : s.Canonical) {n kind la m} : (s.ingressPerform n kind la m).Canonical := by
  -- opened at the definition's name only: `unfold` would also evaluate the discriminant of its match
  conv in State.ingressPerform => delta State.ingressPerform
  extract_lets slot pa
  split
  · refine .ite ?_ <| .ite (.ite hs.refuse hs.enabledWrite.reply) ?_
    · split
      exact hs.reply
    · split
      · exact hs.atomicMsg
      · exact hs.refuse
  · exact .ite hs.refuse (.ite hs.reply hs.enabledStore.reply)
  · exact hs.refuse

theorem State.Canonical.againInOrder {s : State} (hs : s.Canonical) {p x} : (s.againInOrder p x).Canonical := hs
theorem State.Canonical.keepAnswer {s : State} (hs : s.Canonical) {src rtag} : (s.keepAnswer src rtag).Canonical := hs

theorem State.Canonical.ingress {s : State} (hs : s.Canonical) {m} : (s.ingress m).Canonical := by
  unfold State.ingress
  dsimp only
  split
  · exact hs.updFab
  · split
    · exact hs.refuse.keepAnswer
    · exact .ite hs.againInOrder (.keepAnswer hs.ingressPerform)

theorem State.Canonical.bringUp {s : State} (hs : s.Canonical) {host cxl links} : (s.bringUp host cxl links).Canonical := hs

theorem State.Canonical.domainConfig {s : State} (hs : s.Canonical) {dev k mem host cxl links} :
    (s.domainConfig dev k mem host cxl links).Canonical :=
  .updFab (.ite hs hs.bringUp)

theorem State.Canonical.unsupported {s : State} (hs : s.Canonical) {n} : (s.unsupported n).Canonical := hs

theorem State.Canonical.hostPlace {s : State} (hs : s.Canonical) {i n x g} (hg : ∀ i, ∀ j, (g i j).Canonical) :
    (s.hostPlace i n x g).Canonical := by
  unfold State.hostPlace
  split
  · exact hs.unsupported
  · exact .ite hs.againInOrder (hg _ _)

theorem State.Canonical.hostRead {s : State} (hs : s.Canonical) {n x} : (s.hostRead n x).Canonical :=
  hs.hostPlace (fun _ _ => hs.answerRemote.reply)

theorem State.Canonical.hostWrite {s : State} (hs : s.Canonical) {n mask bs x} : (s.hostWrite n mask bs x).Canonical :=
  hs.hostPlace (fun _ _ => .ite hs.unsupported hs.enabledWrite.reply)

theorem State.Canonical.setHdm {s : State} (hs : s.Canonical) {k base size aperture} : (s.setHdm k base size aperture).Canonical := hs
theorem State.Canonical.updClock {s : State} (hs : s.Canonical) {g} : (s.updClock g).Canonical := hs

theorem State.Canonical.sync {s : State} (hs : s.Canonical) {plane t} : (s.sync plane t).Canonical := by
  unfold State.sync
  extract_lets c d u
  have hu : u.Canonical := .ite hs hs
  exact .ite hs hu.updClock

theorem State.Canonical.syncHold {s : State} (hs : s.Canonical) : (s.syncHold).Canonical := .ite hs hs.updClock.postEvent
theorem State.Canonical.sendSync {s : State} (hs : s.Canonical) : (s.sendSync).Canonical := .ite hs.updClock.updFab hs

theorem State.Canonical.acceptNext {s : State} (hs : s.Canonical) {src} : (s.acceptNext src).Canonical :=
  .ite hs.eventAccept hs.eventAccept.after

/-! ### The trust die -/

theorem State.Canonical.coldBoot {s : State} {orig} : (s.coldBoot orig).Canonical := rfl

theorem State.Canonical.firmwareImage {s : State} (hs : s.Canonical) {i f} : (s.firmwareImage i f).Canonical := by
  unfold State.firmwareImage
  split
  · exact hs.refuse
  · exact .ite hs.updTrust.reply.after hs.updTrust.reply

theorem State.Canonical.passLost {s : State} (hs : s.Canonical) : (s.passLost).Canonical := .foldl hs fun _ ht _ => .ite ht.serve ht

theorem State.Canonical.dieLost {s : State} (hs : s.Canonical) {dev die} : (s.dieLost dev die).Canonical := by
  have ht : State.Canonical ((s.updMem fun m => { m with slices := m.slices.map fun t =>
    (t.1, t.2.dropDie (s.goneHart dev die)) }).passLost) :=
    .passLost (.updMem hs)
  exact .ite ht.after (.foldl ht fun _ h _ => h.tellAll)

theorem State.Canonical.sendDieLost {s : State} (hs : s.Canonical) {die} : (s.sendDieLost die).Canonical :=
  .after (.foldl hs fun _ ht _ => ht.tellAll)

theorem State.Canonical.dieLostAck {s : State} (hs : s.Canonical) {die} : (s.dieLostAck die).Canonical := hs

theorem State.Canonical.loseLine {s : State} (hs : s.Canonical) {ln u} : (s.loseLine ln u).Canonical :=
  .updMem (Mem.wf_foldl (Mem.wf_drop hs) fun _ h _ => Mem.wf_write h)

theorem State.Canonical.loseDirty {s : State} (hs : s.Canonical) {die} : (s.loseDirty die).Canonical :=
  .foldl hs fun _ ht _ => ht.loseLine

theorem State.Canonical.clearDie {s : State} (hs : s.Canonical) {die} : (s.clearDie die).Canonical := .updMem (Mem.wf_filter hs.loseDirty)
theorem State.Canonical.scrubStack {s : State} (hs : s.Canonical) {die} : (s.scrubStack die).Canonical := .updMem (Mem.wf_filter hs)

theorem State.Canonical.warmCompute {s : State} (hs : s.Canonical) {die image restored} :
    (s.warmCompute die image restored).Canonical := by
  unfold State.warmCompute
  extract_lets t u v good w x
  have hu : u.Canonical := .clearDie (.foldl hs fun _ h _ => h.failLaunch)
  have hv : v.Canonical := .ite hu hu.scrubStack.postEvent
  have hw : w.Canonical := hv.updFab
  have hx : x.Canonical := .ite hw hw.updTrust
  exact hx.sendDieLost.after

theorem State.Canonical.warmIo {s : State} (hs : s.Canonical) {i image} : (s.warmIo i image).Canonical := by
  unfold State.warmIo
  extract_lets t u good v w
  have ht : t.Canonical := .foldl hs fun _ h _ => h.portDown
  clear_value t
  have hu : u.Canonical := .updMem ht
  have hv : v.Canonical := hu.updFab
  have hw : w.Canonical := .ite hv hv.updTrust
  exact hw.after

theorem keeps_mailbox {g} (hg : ∀ s, s.Canonical → (g s).Canonical) : (mailbox g).Keeps := .modify fun _ ht => .ite (hg _ ht) ht

theorem State.Canonical.verifyObject {s : State} (hs : s.Canonical) : (s.verifyObject).Canonical := by
  dsimp only [State.verifyObject]
  split
  · exact hs.mbDone
  · split
    · exact hs.mbDone
    · split
      · exact hs.mbDone
      · split
        · exact hs.mbDone
        · split
          · exact hs.mbDone
          · split
            · exact hs.mbDone
            · exact hs.updTrust.mbDone

theorem State.Canonical.retireObject {s : State} (hs : s.Canonical) : (s.retireObject).Canonical := by
  dsimp only [State.retireObject]
  split
  · exact hs.mbDone
  · exact .ite hs.after (.mbDone (.retireEntry (.foldl hs fun _ ht _ => ht.tlbDrop)))

theorem State.Canonical.newKey {s : State} (hs : s.Canonical) {slot} : (s.newKey slot).Canonical := by
  unfold State.newKey
  extract_lets old late t
  have ht : t.Canonical := .updMem hs
  exact .ite ht.keyDone ht.after

theorem State.Canonical.contextKey {s : State} (hs : s.Canonical) : (s.contextKey).Canonical := .ite hs.mbDone (.ite hs.mbDone hs.newKey)

theorem State.Canonical.ownerInstall {s : State} (hs : s.Canonical) : (s.ownerInstall).Canonical :=
  .ite hs.mbDone (.ite hs.mbDone (.ite hs.mbDone hs.updTrust.mbDone))

theorem State.Canonical.ownerClear {s : State} (hs : s.Canonical) : (s.ownerClear).Canonical :=
  .ite hs.mbDone (.ite hs.mbDone (.ite hs.mbDone hs.updTrust.mbDone))

/-! ### The SPDM responder -/

theorem State.Canonical.spdmAck {s : State} (hs : s.Canonical) {l} : (s.spdmAck l).Canonical := hs
theorem State.Canonical.spdmReply {s : State} (hs : s.Canonical) {code known} : (s.spdmReply code known).Canonical := hs
theorem State.Canonical.spdmError {s : State} (hs : s.Canonical) {code data} : (s.spdmError code data).Canonical := hs

theorem Outcome.Kept.spdm {g : State → State} (hg : ∀ s, s.Canonical → (g s).Canonical) {s : State} (hs : s.Canonical) : Outcome.Kept
  (spdm g s) :=
  .finishEvent (.modify hg) hs

theorem State.Canonical.spdmCertificate {s : State} (hs : s.Canonical) {ofs len} : (s.spdmCertificate ofs len).Canonical :=
  .ite hs.spdmError hs.spdmAck

theorem State.Canonical.spdmBlocks {s : State} (hs : s.Canonical) {l} : (s.spdmBlocks l).Canonical := hs

theorem State.Canonical.spdmMeasure {s : State} (hs : s.Canonical) {index} : (s.spdmMeasure index).Canonical :=
  .ite hs.spdmReply (.ite hs.spdmBlocks (.ite hs.spdmBlocks hs.spdmError))

theorem State.Canonical.keyExchange {s : State} (hs : s.Canonical) {req mutualAuth} : (s.keyExchange req mutualAuth).Canonical :=
  .ite hs.spdmError (.ite hs.spdmError hs.updTrust.spdmReply)

theorem State.Canonical.onSession {s : State} (hs : s.Canonical) {id est g r} (hr : ∀ s, s.Canonical → (r s).Canonical) :
    (s.onSession id est g r).Canonical :=
  .ite (hr _ hs.updTrust) hs.spdmError

theorem State.Canonical.chunkSend {s : State} (hs : s.Canonical) {handle seq last} : (s.chunkSend handle seq last).Canonical :=
  .ite hs.updTrust.spdmReply hs.spdmError

/-! ### Fetch -/

theorem State.Canonical.fetchMiss {s : State} (hs : s.Canonical) {ln rid} : (s.fetchMiss ln rid).1.Canonical := by
  dsimp only [State.fetchMiss]
  split <;> exact hs.ccFill

theorem keeps_fetchLine {va ln rid} : (fetchLine va ln rid).Keeps := by
  refine .get fun s hs => ?_
  dsimp only
  split
  · exact .bind (.set hs.setCore) fun _ => .pure
  · split
    · next e => exact .bind (.set (hs.fetchMiss.of_fst e)) fun _ => keeps_raise
    · next e => exact .bind (.set (hs.fetchMiss.of_fst e).setCore) fun _ => .pure

theorem keeps_fetchWord : (fetchWord).Keeps :=
  .get fun _ _ => .bind keeps_translate fun _ => .get fun _ _ => .ite keeps_stallAt (.bind keeps_fetchLine fun _ => .pure)

/-! ### Time and the waiting hart -/

theorem State.Canonical.fetchTrap {s : State} (hs : s.Canonical) {code arg} : (s.fetchTrap code arg).Canonical :=
  .ite hs.stopHart hs.takeTrap

theorem State.Canonical.sleepStep {s : State} (hs : s.Canonical) {d} : (s.sleepStep d).Canonical :=
  .ite hs.updHart.endWait.advance hs.updHart.runQueues

theorem State.Canonical.switchTimers {s : State} (hs : s.Canonical) : (s.switchTimers).Canonical :=
  .ite hs (.ite (.after (.ite hs.after hs)) (.ite hs.after hs))

theorem State.Canonical.scanTimer {s : State} (hs : s.Canonical) {before} : (s.scanTimer before).Canonical := .ite hs.after hs

theorem State.Canonical.tickOver {s : State} (hs : s.Canonical) {before} : (s.tickOver before).Canonical := by
  have ht : ({ s with time := s.time + Config.elapsed s.tick, tick := s.tick + 1 } : State).Canonical := hs
  exact ht.switchTimers.scanTimer

/-! ### The instructions and the steps -/

theorem Outcome.Kept.execVectorHeader {s : State} (hs : s.Canonical) : Outcome.Kept (execVectorHeader s) := by
  refine .finishEvent (.get fun t ht => ?_) hs
  split
  · exact keeps_badMsg
  · exact .ite keeps_badMsg <| .ite (.set ht.refuse) <|
      .ite (.ite keeps_badMsg <| .ite (.set ht.after) (.set ht.openSegment.remoteServe)) <|
      .ite (.set ht.after) (.set (State.Canonical.headServe (.ite ht.openSegment ht)))

theorem Outcome.Kept.execFarAtomicAtHome {s : State} (hs : s.Canonical) : Outcome.Kept (execFarAtomicAtHome s) := by
  refine .finishEvent (.get fun t ht => ?_) hs
  dsimp only
  split
  · exact .ite (.ite (.set ht.after) (.set ht.atomicMsg)) keeps_badMsg
  · exact keeps_badMsg

theorem Outcome.Kept.execWindowAccessArrival {s : State} (hs : s.Canonical) : Outcome.Kept (execWindowAccessArrival s) := by
  refine .finishEvent (.get fun t ht => ?_) hs
  extract_lets la n
  split
  · exact .set ht.windowAccess
  · exact .set ht.windowAccess
  · exact .set ht.windowAccess
  · exact .set ht.windowAccess
  · exact keeps_badMsg

theorem Outcome.Kept.execSyAccessAtHome {s : State} (hs : s.Canonical) : Outcome.Kept (execSyAccessAtHome s) :=
  .finishEvent (.get fun _ ht => .ite (.ite (.set ht.after) (.set ht.syMsg)) keeps_badMsg) hs

theorem Outcome.Kept.execHostRead {s : State} (hs : s.Canonical) : Outcome.Kept (execHostRead s) :=
  .finishEvent (.get fun _ ht => .ite keeps_badMsg <| .ite (.ite (.set ht.hostRead) keeps_badMsg) <| .ite keeps_badMsg <|
    .ite (.ite (.set ht.reply) keeps_badMsg) (.ite (.set ht.hostRead) keeps_badMsg)) hs

theorem Outcome.Kept.execHostWrite {s : State} (hs : s.Canonical) : Outcome.Kept (execHostWrite s) :=
  .finishEvent (.get fun _ ht => .ite keeps_badMsg <| .ite (.ite (.set ht.hostWrite) keeps_badMsg) <|
    .ite (.ite (.set ht.setHdm) keeps_badMsg) <| .ite keeps_badMsg <|
    .ite (.ite (.set ht.ctlStore.reply) keeps_badMsg) (.ite (.set ht.hostWrite) keeps_badMsg)) hs

theorem Outcome.Kept.execRemoteTimeout {s : State} (hs : s.Canonical) : Outcome.Kept (execRemoteTimeout s) :=
  .finishEvent (.get fun _ ht => .ite (.set ht.copyTimeout) <| .ite keeps_badMsg
    (.set (ht.onHart fun _ hu => .ite hu.remoteTimeout hu))) hs

theorem Outcome.Kept.execQlockTicketDraw {s : State} (hs : s.Canonical) : Outcome.Kept (execQlockTicketDraw s) := by
  refine .finishEvent (keeps_homeWordStep fun t ht pa => .ite ?_ ?_) hs
  · split
    next e =>
      have hu := ht.drawTicket.of_fst e
      exact .elim hu fun _ => hu.answerDraw
  · split
    next e =>
      have hu := ht.drawTicket.of_fst e
      exact .elim hu fun _ => hu.updHartN

theorem Outcome.Kept.execForwardUnanswered {s : State} (hs : s.Canonical) : Outcome.Kept (execForwardUnanswered s) := by
  refine .finishEvent (keeps_msgLine fun t ht ln => ?_) hs
  split
  exact ht.reply

theorem Outcome.Kept.execLineRequest {s : State} (hs : s.Canonical) : Outcome.Kept (execLineRequest s) := by
  refine .finishEvent (keeps_homeLine fun t ht ln => ?_) hs
  split
  exact ht.homeTouch.reply

theorem Outcome.Kept.execTemperatureReport {s : State} (hs : s.Canonical) : Outcome.Kept (execTemperatureReport s) :=
  .finishEvent (.modify fun _ ht => ht) hs

theorem Outcome.Kept.execFsqrt {s : State} (hs : s.Canonical) {d a p r} : Outcome.Kept (execFsqrt d a p r s) :=
  .finish (keeps_withRounding fun _ => .ite keeps_raise keeps_putF) hs

theorem Outcome.Kept.execPclaim {s : State} (hs : s.Canonical) {d a} : Outcome.Kept (execPclaim d a s) :=
  .finish (keeps_plateOp fun _ => keeps_pclaimRun) hs

theorem Outcome.Kept.execPrel {s : State} (hs : s.Canonical) {d a} : Outcome.Kept (execPrel d a s) :=
  .finish (keeps_plateOp fun _ => keeps_prelRun) hs

theorem Outcome.Kept.execPgive {s : State} (hs : s.Canonical) {d a b} : Outcome.Kept (execPgive d a b s) :=
  .finish (keeps_plateOp fun _ => keeps_pgiveRun) hs

theorem Outcome.Kept.execPstat {s : State} (hs : s.Canonical) {d a} : Outcome.Kept (execPstat d a s) :=
  .finish (.modify fun _ ht => ht.setX) hs

theorem Outcome.Kept.execPmark {s : State} (hs : s.Canonical) {d a b} : Outcome.Kept (execPmark d a b s) :=
  .finish (keeps_plateOp fun _ => keeps_pmarkRun) hs

theorem Outcome.Kept.execOrbstat {s : State} (hs : s.Canonical) {d a} : Outcome.Kept (execOrbstat d a s) :=
  .finish (.modify fun _ ht => ht.setX) hs

theorem Outcome.Kept.execQmk {s : State} (hs : s.Canonical) {d a b r} : Outcome.Kept (execQmk d a b r s) :=
  .finish (keeps_withRounding fun _ => keeps_putQ) hs

theorem Outcome.Kept.execQmed {s : State} (hs : s.Canonical) {d a b r} : Outcome.Kept (execQmed d a b r s) :=
  .finish (keeps_withRounding fun _ => keeps_putQ) hs

theorem Outcome.Kept.execIcinv {s : State} (hs : s.Canonical) : Outcome.Kept (execIcinv s) :=
  .finish (.modify fun _ ht => ht.setCore) hs

theorem Outcome.Kept.execWatchDisarm {s : State} (hs : s.Canonical) : Outcome.Kept (execWatchDisarm s) :=
  .finishEvent (keeps_hartPart (.get fun _ _ => keeps_cregWrite)) hs

theorem Outcome.Kept.execRegisterWrite {s : State} (hs : s.Canonical) : Outcome.Kept (execRegisterWrite s) :=
  .finishEvent (.get fun _ ht => .ite (.set ht.ctlWrite) keeps_badMsg) hs

theorem Outcome.Kept.execTableWalk {s : State} (hs : s.Canonical) : Outcome.Kept (execTableWalk s) :=
  .finishEvent (keeps_msgHart fun _ ht _ => ht.walkFor) hs

theorem Outcome.Kept.execPretranslateWindow {s : State} (hs : s.Canonical) : Outcome.Kept (execPretranslateWindow s) :=
  .finishEvent (keeps_msgHart fun _ ht _ => ht.onHart (fun _ hu => hu.pretranslate)) hs

theorem Outcome.Kept.execWindowEnterPipeline {s : State} (hs : s.Canonical) : Outcome.Kept (execWindowEnterPipeline s) :=
  .finishEvent (keeps_msgHart fun _ ht _ => ht.onHart (fun _ hu => .ite hu.matrixMemory hu.performHead)) hs

theorem Outcome.Kept.execTlbInvalidateMsg {s : State} (hs : s.Canonical) : Outcome.Kept (execTlbInvalidateMsg s) :=
  .finishEvent (.modify fun _ ht => ht.tlbRecipient) hs

theorem Outcome.Kept.execTlbInvalidateAck {s : State} (hs : s.Canonical) : Outcome.Kept (execTlbInvalidateAck s) :=
  .finishEvent (keeps_msgHart fun _ ht _ => ht.updHartN) hs

theorem Outcome.Kept.execHbmIssue {s : State} (hs : s.Canonical) : Outcome.Kept (execHbmIssue s) :=
  .finishEvent (keeps_chanStep fun _ ht _ => ht.hbmIssue) hs

theorem Outcome.Kept.execHbmDataReturn {s : State} (hs : s.Canonical) : Outcome.Kept (execHbmDataReturn s) :=
  .finishEvent (keeps_chanStep fun _ ht _ => ht.hbmReturn) hs

theorem Outcome.Kept.execHbmReadRetry {s : State} (hs : s.Canonical) : Outcome.Kept (execHbmReadRetry s) :=
  .finishEvent (keeps_chanStep fun _ ht _ => ht.hbmRetry) hs

theorem Outcome.Kept.execRowCloseTimeout {s : State} (hs : s.Canonical) : Outcome.Kept (execRowCloseTimeout s) :=
  .finishEvent (keeps_chanStep fun _ ht _ => ht.closeRow) hs

theorem Outcome.Kept.execRequestAgeExpiry {s : State} (hs : s.Canonical) : Outcome.Kept (execRequestAgeExpiry s) :=
  .finishEvent (keeps_chanStep fun _ ht _ => ht.updChannel) hs

theorem Outcome.Kept.execHcrateCeilWrite {s : State} (hs : s.Canonical) : Outcome.Kept (execHcrateCeilWrite s) :=
  .finishEvent (keeps_chanStep fun _ ht _ => ht.ceilWrite) hs

theorem Outcome.Kept.execRateLimitChange {s : State} (hs : s.Canonical) : Outcome.Kept (execRateLimitChange s) :=
  .finishEvent (.get fun _ _ => .ite keeps_badMsg (keeps_chanStep fun _ hu _ => hu.limitChange)) hs

theorem Outcome.Kept.execRateSwitch {s : State} (hs : s.Canonical) : Outcome.Kept (execRateSwitch s) :=
  .finishEvent (keeps_chanStep fun _ ht _ => ht.rateSwitch) hs

theorem Outcome.Kept.execRateSwitchComplete {s : State} (hs : s.Canonical) : Outcome.Kept (execRateSwitchComplete s) :=
  .finishEvent (keeps_chanStep fun _ ht _ => ht.rateDone) hs

theorem Outcome.Kept.execRefreshDue {s : State} (hs : s.Canonical) : Outcome.Kept (execRefreshDue s) :=
  .finishEvent (keeps_chanStep fun _ ht _ => ht.refreshDue) hs

theorem Outcome.Kept.execOwedRefreshPaid {s : State} (hs : s.Canonical) : Outcome.Kept (execOwedRefreshPaid s) :=
  .finishEvent (keeps_chanStep fun _ ht _ => ht.payOwed) hs

theorem Outcome.Kept.execActivationAlert {s : State} (hs : s.Canonical) : Outcome.Kept (execActivationAlert s) :=
  .finishEvent (keeps_chanStep fun _ ht _ => ht.alert) hs

theorem Outcome.Kept.execBankBlockEnd {s : State} (hs : s.Canonical) : Outcome.Kept (execBankBlockEnd s) :=
  .finishEvent (keeps_chanStep fun _ ht _ => ht.blockEnd) hs

theorem Outcome.Kept.execPatrolScrubRead {s : State} (hs : s.Canonical) : Outcome.Kept (execPatrolScrubRead s) :=
  .finishEvent (.get fun _ _ => .ite (.modify fun _ hu => hu.scrubRead) keeps_badMsg) hs

theorem Outcome.Kept.execKeySlotLoad {s : State} (hs : s.Canonical) : Outcome.Kept (execKeySlotLoad s) :=
  .finishEvent (keeps_chanStep fun _ ht _ => ht.keyLoad) hs

theorem Outcome.Kept.execSegmentCompletionBeat {s : State} (hs : s.Canonical) : Outcome.Kept (execSegmentCompletionBeat s) :=
  .finishEvent (keeps_copyUnit fun _ ht _ => ht.beat) hs

theorem Outcome.Kept.execSliceRequest {s : State} (hs : s.Canonical) : Outcome.Kept (execSliceRequest s) :=
  .finishEvent (keeps_msgSlice fun _ ht _ _ => ht.sliceError.sliceServe) hs

theorem Outcome.Kept.execSlicePinRelease {s : State} (hs : s.Canonical) : Outcome.Kept (execSlicePinRelease s) :=
  .finishEvent (keeps_msgSlice fun _ ht _ _ => ht.unpin) hs

theorem Outcome.Kept.execCacheFillReturn {s : State} (hs : s.Canonical) : Outcome.Kept (execCacheFillReturn s) :=
  .finishEvent (keeps_homeLine fun _ ht _ => ht.cacheError.fillReturn) hs

theorem Outcome.Kept.execWriteBack {s : State} (hs : s.Canonical) : Outcome.Kept (execWriteBack s) :=
  .finishEvent (.get fun _ _ => .ite (keeps_homeLine fun _ hu _ => hu.writeBack) keeps_badMsg) hs

theorem Outcome.Kept.execRegistration {s : State} (hs : s.Canonical) : Outcome.Kept (execRegistration s) :=
  .finishEvent (keeps_msgLine fun _ ht _ => ht.registration) hs

theorem Outcome.Kept.execRegistrationAck {s : State} (hs : s.Canonical) : Outcome.Kept (execRegistrationAck s) :=
  .finishEvent (keeps_msgHart fun _ ht _ => ht.updHartN) hs

theorem Outcome.Kept.execRevocation {s : State} (hs : s.Canonical) : Outcome.Kept (execRevocation s) :=
  .finishEvent (keeps_msgLine fun _ ht _ => ht.revoke) hs

theorem Outcome.Kept.execRevocationWithWriteBack {s : State} (hs : s.Canonical) : Outcome.Kept (execRevocationWithWriteBack s) :=
  .finishEvent (keeps_msgLine fun _ ht _ => ht.revokeWB) hs

theorem Outcome.Kept.execForwardedRead {s : State} (hs : s.Canonical) : Outcome.Kept (execForwardedRead s) :=
  .finishEvent (keeps_msgLine fun _ ht _ => ht.forwarded) hs

theorem Outcome.Kept.execWatchHit {s : State} (hs : s.Canonical) : Outcome.Kept (execWatchHit s) :=
  .finishEvent (keeps_msgWord fun _ ht _ => ht.watchMsg) hs

theorem Outcome.Kept.execWatchHitArrival {s : State} (hs : s.Canonical) : Outcome.Kept (execWatchHitArrival s) :=
  .finishEvent (keeps_msgHart fun _ ht _ => ht.updHartN) hs

theorem Outcome.Kept.execQunlockIncrement {s : State} (hs : s.Canonical) : Outcome.Kept (execQunlockIncrement s) :=
  .finishEvent (keeps_homeWordStep fun _ ht _ => ht.advanceServing) hs

theorem Outcome.Kept.execGrant {s : State} (hs : s.Canonical) : Outcome.Kept (execGrant s) :=
  .finishEvent (keeps_msgWord fun _ ht _ => ht.updHartN) hs

theorem Outcome.Kept.execPollRead {s : State} (hs : s.Canonical) : Outcome.Kept (execPollRead s) :=
  .finishEvent (keeps_msgHart fun _ ht _ => ht.pollLocks) hs

theorem Outcome.Kept.execCopyStart {s : State} (hs : s.Canonical) : Outcome.Kept (execCopyStart s) :=
  .finishEvent (keeps_copyUnit fun _ ht _ => ht.startCopy) hs

theorem Outcome.Kept.execCopyComplete {s : State} (hs : s.Canonical) : Outcome.Kept (execCopyComplete s) :=
  .finishEvent (keeps_copyUnit fun _ ht _ => ht.copyFirst) hs

theorem Outcome.Kept.execPlateReattach {s : State} (hs : s.Canonical) : Outcome.Kept (execPlateReattach s) :=
  .finishEvent (.modify fun _ ht => ht.reattach) hs

theorem Outcome.Kept.execVpushDelivery {s : State} (hs : s.Canonical) : Outcome.Kept (execVpushDelivery s) :=
  .finishEvent (keeps_msgHart fun _ ht _ => ht.onHart (fun _ hu => hu.performHead)) hs

theorem Outcome.Kept.execWakeArrival {s : State} (hs : s.Canonical) : Outcome.Kept (execWakeArrival s) :=
  .finishEvent (keeps_msgHart fun _ ht _ => .ite ht ht.updHartN) hs

theorem Outcome.Kept.execWaitTimeout {s : State} (hs : s.Canonical) : Outcome.Kept (execWaitTimeout s) :=
  .finishEvent (keeps_msgHart fun _ ht _ => ht.updHartN) hs

theorem Outcome.Kept.execPushTimeout {s : State} (hs : s.Canonical) : Outcome.Kept (execPushTimeout s) :=
  .finishEvent (keeps_msgHart fun _ ht _ => ht.onHart (fun _ hu => hu.performHead)) hs

theorem Outcome.Kept.execPortDown {s : State} (hs : s.Canonical) : Outcome.Kept (execPortDown s) :=
  .finishEvent (keeps_portStep fun _ ht _ => .ite ht.peerPlaneDown ht.portDown) hs

theorem Outcome.Kept.execUalinkRequestIngress {s : State} (hs : s.Canonical) : Outcome.Kept (execUalinkRequestIngress s) :=
  .finishEvent (.get fun _ ht => .ite (.set ht.ingress) keeps_badMsg) hs

theorem Outcome.Kept.execUalinkFlitRetry {s : State} (hs : s.Canonical) : Outcome.Kept (execUalinkFlitRetry s) :=
  .finishEvent (keeps_portStep fun _ ht _ => ht.flitRetry) hs

theorem Outcome.Kept.execUcieFlitRetry {s : State} (hs : s.Canonical) : Outcome.Kept (execUcieFlitRetry s) :=
  .finishEvent (keeps_linkStep fun _ ht _ => ht.updLink) hs

theorem Outcome.Kept.execUcieLaneRepair {s : State} (hs : s.Canonical) : Outcome.Kept (execUcieLaneRepair s) :=
  .finishEvent (keeps_linkStep fun _ ht _ => ht.laneRepair) hs

theorem Outcome.Kept.execDomainConfig {s : State} (hs : s.Canonical) : Outcome.Kept (execDomainConfig s) :=
  .finishEvent (.get fun _ ht => .ite keeps_badMsg (.set ht.domainConfig)) hs

theorem Outcome.Kept.execHapctlWrite {s : State} (hs : s.Canonical) : Outcome.Kept (execHapctlWrite s) :=
  .finishEvent (.modify fun _ ht => ht.hapctlWrite) hs

theorem Outcome.Kept.execMeridianSyncSend {s : State} (hs : s.Canonical) : Outcome.Kept (execMeridianSyncSend s) :=
  .finishEvent (.modify fun _ ht => ht.sendSync) hs

theorem Outcome.Kept.execMeridianSync {s : State} (hs : s.Canonical) : Outcome.Kept (execMeridianSync s) :=
  .finishEvent (keeps_portStep fun _ ht _ => ht.sync) hs

theorem Outcome.Kept.execDelayExchange {s : State} (hs : s.Canonical) : Outcome.Kept (execDelayExchange s) :=
  .finishEvent (keeps_portStep fun _ ht _ => ht.updClock) hs

theorem Outcome.Kept.execMeridianHold {s : State} (hs : s.Canonical) : Outcome.Kept (execMeridianHold s) :=
  .finishEvent (.modify fun _ ht => ht.syncHold) hs

theorem Outcome.Kept.execQueueTailWatchHit {s : State} (hs : s.Canonical) : Outcome.Kept (execQueueTailWatchHit s) :=
  .finishEvent (.modify fun _ ht => ht.examine) hs

theorem Outcome.Kept.execQueueBackstopScan {s : State} (hs : s.Canonical) : Outcome.Kept (execQueueBackstopScan s) :=
  .finishEvent (.modify fun _ ht => ht.scanQueues) hs

theorem Outcome.Kept.execDependenceWatchHit {s : State} (hs : s.Canonical) : Outcome.Kept (execDependenceWatchHit s) :=
  .finishEvent (.modify fun _ ht => ht.examine) hs

theorem Outcome.Kept.execPlacementChoice {s : State} (hs : s.Canonical) : Outcome.Kept (execPlacementChoice s) :=
  .finishEvent (.modify fun _ ht => ht.placementChoice) hs

theorem Outcome.Kept.execRecordCommit {s : State} (hs : s.Canonical) : Outcome.Kept (execRecordCommit s) :=
  .finishEvent (.modify fun _ ht => ht.commitRecord) hs

theorem Outcome.Kept.execLaunchComplete {s : State} (hs : s.Canonical) : Outcome.Kept (execLaunchComplete s) :=
  .finishEvent (.modify fun _ ht => ht.completeLaunch) hs

theorem Outcome.Kept.execQuiesce {s : State} (hs : s.Canonical) : Outcome.Kept (execQuiesce s) :=
  .finishEvent (keeps_slotStep fun _ ht _ => ht.quiesce) hs

theorem Outcome.Kept.execEndQuiesce {s : State} (hs : s.Canonical) : Outcome.Kept (execEndQuiesce s) :=
  .finishEvent (keeps_slotStep fun _ ht _ => ht.endQuiesce) hs

theorem Outcome.Kept.execEndLaunch {s : State} (hs : s.Canonical) : Outcome.Kept (execEndLaunch s) :=
  .finishEvent (keeps_slotStep fun _ ht _ => ht.endLaunchCmd) hs

theorem Outcome.Kept.execCreateContext {s : State} (hs : s.Canonical) : Outcome.Kept (execCreateContext s) :=
  .finishEvent (keeps_slotStep fun _ ht _ => ht.createContext) hs

theorem Outcome.Kept.execRemoveContext {s : State} (hs : s.Canonical) : Outcome.Kept (execRemoveContext s) :=
  .finishEvent (keeps_slotStep fun _ ht _ => ht.removeContext) hs

theorem Outcome.Kept.execSwitchArm {s : State} (hs : s.Canonical) : Outcome.Kept (execSwitchArm s) :=
  .finishEvent (.modify fun _ ht => ht.armSwitch) hs

theorem Outcome.Kept.execSwitchArmPark {s : State} (hs : s.Canonical) : Outcome.Kept (execSwitchArmPark s) :=
  .finishEvent (.modify fun _ ht => ht.armSwitch) hs

theorem Outcome.Kept.execNotice {s : State} (hs : s.Canonical) : Outcome.Kept (execNotice s) :=
  .finishEvent (.modify fun _ ht => ht.notices) hs

theorem Outcome.Kept.execCutBegin {s : State} (hs : s.Canonical) : Outcome.Kept (execCutBegin s) :=
  .finishEvent (.modify fun _ ht => ht.cutBegin) hs

theorem Outcome.Kept.execMarker {s : State} (hs : s.Canonical) : Outcome.Kept (execMarker s) :=
  .finishEvent (.modify fun _ ht => .elim ht fun _ => ht.marker) hs

theorem Outcome.Kept.execCutComplete {s : State} (hs : s.Canonical) : Outcome.Kept (execCutComplete s) :=
  .finishEvent (.modify fun _ ht => ht.cutComplete) hs

theorem Outcome.Kept.execContextSaved {s : State} (hs : s.Canonical) : Outcome.Kept (execContextSaved s) :=
  .finishEvent (.modify fun _ ht => ht.contextSaved) hs

theorem Outcome.Kept.execContextResumed {s : State} (hs : s.Canonical) : Outcome.Kept (execContextResumed s) :=
  .finishEvent (.modify fun _ ht => ht.contextResumed) hs

theorem Outcome.Kept.execResize {s : State} (hs : s.Canonical) : Outcome.Kept (execResize s) :=
  .finishEvent (keeps_msgHart fun _ ht _ => ht.onHart (fun _ hu => .ite hu.applyResize hu)) hs

theorem Outcome.Kept.execTrapEntry {s : State} (hs : s.Canonical) : Outcome.Kept (execTrapEntry s) :=
  .finishEvent (.get fun _ ht => .ite (.set (ht.onHart (fun _ hu => .ite hu.trapEntry hu))) keeps_badMsg) hs

theorem Outcome.Kept.execUserInterruptDelivery {s : State} (hs : s.Canonical) : Outcome.Kept (execUserInterruptDelivery s) :=
  .finishEvent (keeps_msgHart fun _ ht _ => ht.updHartN) hs

theorem Outcome.Kept.execEventAccept {s : State} (hs : s.Canonical) : Outcome.Kept (execEventAccept s) :=
  .finishEvent (.get fun _ ht => .ite (.set ht.acceptNext) keeps_badMsg) hs

theorem Outcome.Kept.execEqheadWrite {s : State} (hs : s.Canonical) : Outcome.Kept (execEqheadWrite s) :=
  .finishEvent (.get fun _ ht => .ite (.set ht.eqheadWrite) keeps_badMsg) hs

theorem Outcome.Kept.execOrbitRound {s : State} (hs : s.Canonical) : Outcome.Kept (execOrbitRound s) :=
  .finishEvent (keeps_orbitStep fun _ ht _ _ => ht.orbitRound) hs

theorem Outcome.Kept.execOrbitRoundEdge {s : State} (hs : s.Canonical) : Outcome.Kept (execOrbitRoundEdge s) :=
  .finishEvent (keeps_orbitStep fun _ ht _ _ => ht.orbitRoundEdge) hs

theorem Outcome.Kept.execOrbitMarker {s : State} (hs : s.Canonical) : Outcome.Kept (execOrbitMarker s) :=
  .finishEvent (keeps_orbitStep fun _ ht _ _ => ht.orbitMarker) hs

theorem Outcome.Kept.execOrbitLapEnd {s : State} (hs : s.Canonical) : Outcome.Kept (execOrbitLapEnd s) :=
  .finishEvent (keeps_orbitStep fun _ ht _ _ => ht.orbitLapEnd) hs

theorem Outcome.Kept.execOrbitComplete {s : State} (hs : s.Canonical) : Outcome.Kept (execOrbitComplete s) :=
  .finishEvent (keeps_orbitStep fun _ ht _ _ => ht.orbitComplete) hs

theorem Outcome.Kept.execColdBoot {s : State} (hs : s.Canonical) : Outcome.Kept (execColdBoot s) :=
  .finishEvent (.modify fun _ _ => .coldBoot) hs

theorem Outcome.Kept.execRecoveryFirmwareImage {s : State} (hs : s.Canonical) : Outcome.Kept (execRecoveryFirmwareImage s) :=
  .finishEvent (.modify fun _ ht => ht.firmwareImage) hs

theorem Outcome.Kept.execWarmResetComputeDie {s : State} (hs : s.Canonical) : Outcome.Kept (execWarmResetComputeDie s) :=
  .finishEvent (.modify fun _ ht => ht.warmCompute) hs

theorem Outcome.Kept.execWarmResetIoDie {s : State} (hs : s.Canonical) : Outcome.Kept (execWarmResetIoDie s) :=
  .finishEvent (.get fun _ ht => .ite (.set ht.warmIo) keeps_badMsg) hs

theorem Outcome.Kept.execTrustDieWarmReset {s : State} (hs : s.Canonical) : Outcome.Kept (execTrustDieWarmReset s) :=
  .finishEvent (.modify fun _ ht => ht.updTrust) hs

theorem Outcome.Kept.execDieLost {s : State} (hs : s.Canonical) : Outcome.Kept (execDieLost s) :=
  .finishEvent (.modify fun _ ht => ht.dieLost) hs

theorem Outcome.Kept.execDieLostAck {s : State} (hs : s.Canonical) : Outcome.Kept (execDieLostAck s) :=
  .finishEvent (.modify fun _ ht => ht.dieLostAck) hs

theorem Outcome.Kept.execVerifyObject {s : State} (hs : s.Canonical) : Outcome.Kept (execVerifyObject s) :=
  .finishEvent (keeps_mailbox fun _ ht => ht.verifyObject) hs

theorem Outcome.Kept.execRetireObject {s : State} (hs : s.Canonical) : Outcome.Kept (execRetireObject s) :=
  .finishEvent (keeps_mailbox fun _ ht => ht.retireObject) hs

theorem Outcome.Kept.execLoadContextKey {s : State} (hs : s.Canonical) : Outcome.Kept (execLoadContextKey s) :=
  .finishEvent (keeps_mailbox fun _ ht => ht.contextKey) hs

theorem Outcome.Kept.execClearContextKey {s : State} (hs : s.Canonical) : Outcome.Kept (execClearContextKey s) :=
  .finishEvent (keeps_mailbox fun _ ht => ht.contextKey) hs

theorem Outcome.Kept.execOwnerKeyInstall {s : State} (hs : s.Canonical) : Outcome.Kept (execOwnerKeyInstall s) :=
  .finishEvent (keeps_mailbox fun _ ht => ht.ownerInstall) hs

theorem Outcome.Kept.execOwnerKeyClear {s : State} (hs : s.Canonical) : Outcome.Kept (execOwnerKeyClear s) :=
  .finishEvent (keeps_mailbox fun _ ht => ht.ownerClear) hs

theorem Outcome.Kept.execGetMeasurements {s : State} (hs : s.Canonical) : Outcome.Kept (execGetMeasurements s) :=
  .finishEvent (keeps_mailbox fun _ ht => ht.mbDone) hs

theorem Outcome.Kept.execSpareStatus {s : State} (hs : s.Canonical) : Outcome.Kept (execSpareStatus s) :=
  .finishEvent (keeps_mailbox fun _ ht => ht.mbDone) hs

theorem Outcome.Kept.execMbcmdWhileBusy {s : State} (hs : s.Canonical) : Outcome.Kept (execMbcmdWhileBusy s) :=
  .finishEvent (keeps_mailbox fun _ ht => ht.updTrust) hs

theorem Outcome.Kept.execSpdmGetVersion {s : State} (hs : s.Canonical) : Outcome.Kept (execSpdmGetVersion s) :=
  .spdm (fun _ ht => ht.updTrust.spdmAck) hs

theorem Outcome.Kept.execSpdmGetCapabilities {s : State} (hs : s.Canonical) : Outcome.Kept (execSpdmGetCapabilities s) :=
  .spdm (fun _ ht => ht.updTrust.spdmReply) hs

theorem Outcome.Kept.execSpdmNegotiateAlgorithms {s : State} (hs : s.Canonical) : Outcome.Kept (execSpdmNegotiateAlgorithms s) :=
  .spdm (fun _ ht => .ite ht.updTrust.spdmReply ht.spdmError) hs

theorem Outcome.Kept.execSpdmGetDigests {s : State} (hs : s.Canonical) : Outcome.Kept (execSpdmGetDigests s) :=
  .spdm (fun _ ht => ht.spdmAck) hs

theorem Outcome.Kept.execSpdmGetCertificate {s : State} (hs : s.Canonical) : Outcome.Kept (execSpdmGetCertificate s) :=
  .spdm (fun _ ht => .ite ht.spdmCertificate ht.spdmError) hs

theorem Outcome.Kept.execSpdmChallenge {s : State} (hs : s.Canonical) : Outcome.Kept (execSpdmChallenge s) :=
  .spdm (fun _ ht => .ite ht.spdmReply ht.spdmError) hs

theorem Outcome.Kept.execSpdmGetMeasurements {s : State} (hs : s.Canonical) : Outcome.Kept (execSpdmGetMeasurements s) :=
  .spdm (fun _ ht => ht.spdmMeasure) hs

theorem Outcome.Kept.execSpdmKeyExchange {s : State} (hs : s.Canonical) : Outcome.Kept (execSpdmKeyExchange s) :=
  .spdm (fun _ ht => ht.keyExchange) hs

theorem Outcome.Kept.execSpdmFinish {s : State} (hs : s.Canonical) : Outcome.Kept (execSpdmFinish s) :=
  .spdm (fun _ ht => ht.onSession (fun _ hu => hu.spdmReply)) hs

theorem Outcome.Kept.execSpdmHeartbeat {s : State} (hs : s.Canonical) : Outcome.Kept (execSpdmHeartbeat s) :=
  .spdm (fun _ ht => ht.onSession (fun _ hu => hu.spdmAck)) hs

theorem Outcome.Kept.execSpdmKeyUpdate {s : State} (hs : s.Canonical) : Outcome.Kept (execSpdmKeyUpdate s) :=
  .spdm (fun _ ht => .ite ht.spdmError (ht.onSession (fun _ hu => hu.spdmAck))) hs

theorem Outcome.Kept.execSpdmEndSession {s : State} (hs : s.Canonical) : Outcome.Kept (execSpdmEndSession s) :=
  .spdm (fun _ ht => ht.onSession (fun _ hu => hu.spdmAck)) hs

theorem Outcome.Kept.execSpdmChunkSend {s : State} (hs : s.Canonical) : Outcome.Kept (execSpdmChunkSend s) :=
  .spdm (fun _ ht => ht.chunkSend) hs

theorem Outcome.Kept.execSpdmChunkGet {s : State} (hs : s.Canonical) : Outcome.Kept (execSpdmChunkGet s) :=
  .spdm (fun _ ht => ht.spdmReply) hs

theorem Outcome.Kept.execSpdmUnsupportedRequest {s : State} (hs : s.Canonical) : Outcome.Kept (execSpdmUnsupportedRequest s) :=
  .spdm (fun _ ht => ht.spdmError) hs

theorem Outcome.Kept.execRlcAcquireInvalidation {s : State} (hs : s.Canonical) : Outcome.Kept (execRlcAcquireInvalidation s) :=
  .finishEvent (keeps_msgHart fun _ ht _ => ht.clearRlc.updHartN.after) hs

theorem Outcome.Kept.execAcquireAcknowledgement {s : State} (hs : s.Canonical) : Outcome.Kept (execAcquireAcknowledgement s) :=
  .finishEvent (keeps_msgHart fun _ ht _ => ht.updHartN) hs

theorem Outcome.Kept.execKlaunchPoll {s : State} (hs : s.Canonical) : Outcome.Kept (execKlaunchPoll s) :=
  .finishEvent (keeps_msgHart fun _ ht _ => ht.pollLaunches) hs

theorem Outcome.Kept.execVectorSliceEnd {s : State} (hs : s.Canonical) : Outcome.Kept (execVectorSliceEnd s) :=
  .finishEvent (keeps_copyUnit fun _ ht _ => ht.vectorChoice) hs

theorem Outcome.Kept.execMatrixOperationEnd {s : State} (hs : s.Canonical) : Outcome.Kept (execMatrixOperationEnd s) :=
  .finishEvent (keeps_copyUnit fun _ ht _ => ht.matrixChoice) hs

theorem Outcome.Kept.execTimeMasterNamed {s : State} (hs : s.Canonical) : Outcome.Kept (execTimeMasterNamed s) :=
  .finishEvent (.modify fun _ ht => ht.updClock) hs

theorem Outcome.Kept.execMailboxUnknownCommand {s : State} (hs : s.Canonical) : Outcome.Kept (execMailboxUnknownCommand s) :=
  .finishEvent (keeps_mailbox fun _ ht => ht.mbDone) hs

theorem Outcome.Kept.exec {i : Instr} {s : State} (hs : s.Canonical) : Outcome.Kept (exec i s) := by
  cases i with
  | add | sub | and | or | xor | andn | sll | srl | sra | rol | slt | sltu | min | max | minu | maxu | clz | ctz |
    popc | addi | andi | ori | xori | slli | srli | srai | slti | sltiu | lih | pcrel | mul | mulh | mulhu | mulhsu |
    div | divu | rem | remu | fclass | fmvXF => exact .result hs
  | ldB | ldBu | ldH | ldHu | ldW | ldWu | ldD => exact .finish keeps_loadX hs
  | stB | stH | stW | stD | fstW | fstD => exact .finish keeps_storeBytes hs
  | ldaW | ldaD => exact .finish keeps_loadAcquire hs
  | stlW | stlD => exact .finish keeps_storeRelease hs
  | fldH => exact .finish keeps_loadHalf hs
  | fldW | fldD => exact .finish keeps_loadF hs
  | fstH => exact .finish keeps_storeHalf hs
  | beq | bne | blt | bge | bltu | bgeu => exact .branch hs
  | bpAny | bpNone | bpAll | bpFirst => exact .finishPc keeps_predBranch hs
  | jal => exact .next hs.setX.setPc
  | jalr => exact .ite (.next hs.setX.setPc) (.next hs.takeTrap)
  | fadd | fsub | fmul | fdiv | fcvtFX | fcvtFXu => exact .finish keeps_floatOp hs
  | fsqrt => exact .execFsqrt hs
  | fmin | fmax => exact .finish keeps_floatMinmax hs
  | fsgnC | fsgnN | fsgnX => exact .finish keeps_signOp hs
  | feq | flt | fle => exact .finish keeps_floatCmp hs
  | fcvtXF | fcvtXuF => exact .finish keeps_floatToInt hs
  | fcvtFF => exact .finish keeps_floatToFloat hs
  | fmvFX => exact .next hs.setF.advance
  | fma | fms | fnma | fnms => exact .finish keeps_fusedOp hs
  | aadd | aand | aor | axor | amin | amax | aminu | amaxu | aswp | acas | afadd => exact .finish keeps_atomicBody hs
  | acq => exact .finish keeps_doAcquire hs
  | rel => exact .finish keeps_doRelease hs
  | fence => exact .finish keeps_fenceBody hs
  | own => exact .finish keeps_ownBody hs
  | disown => exact .finish keeps_disownBody hs
  | qlock => exact .finish keeps_qlockBody hs
  | qunlock => exact .finish keeps_qunlockBody hs
  | wait => exact .finish keeps_waitBody hs
  | wake => exact .finish keeps_wakeBody hs
  | crr | crw | crs | crc => exact .finish keeps_cregAccess hs
  | vcfg => exact .finish keeps_vcfgBody hs
  | vsetl => exact .finish keeps_vsetlBody hs
  | vsetrows => exact .finish keeps_vsetrowsBody hs
  | vtag => exact .finish keeps_vtagBody hs
  | vsave => exact .finish keeps_vsaveBody hs
  | vrest => exact .finish keeps_vrestBody hs
  | vld | vst | vldx | vstx | vldT | vstN | vpush | vpushT | vadd | vsub | vmul | vfma | vfms | vdiv | vsqrt | vmin |
    vmax | vabs | vneg | vand | vor | vxor | vshl | vshr | vmulh | vsel | vcmpEq | vcmpNe | vcmpLt | vcmpLe | vcmpGt |
    vcmpGe | vcmpUn | vrcp | vrsqrt | vexp2 | vlog2 | vtanh | vslup | vsldn | vperm | vcomp | vbcast | vins | vcvt |
    vredSum | vredMin | vredMax | vredAnd | vredOr | vscanSum | vscanMin | vscanMax | vdot | vbsl | vbsr | vbfun |
    vbpopc | pand | por | pxor | pandn | pnot | pset | pfirst | pmv => exact .issueVec hs
  | vext => exact .finish keeps_vextBody hs
  | pcnt => exact .finish keeps_pcntBody hs
  | tld | tst | mop | mops | mopM | mclr | accx | acci => exact .issueMat hs
  | mwait => exact .finish keeps_waitEntries hs
  | epush => exact .finish keeps_epushBody hs
  | epop => exact .finish keeps_epopBody hs
  | epeek => exact .finish keeps_epeekBody hs
  | pclaim => exact .execPclaim hs
  | prel => exact .execPrel hs
  | pgive => exact .execPgive hs
  | pstat => exact .execPstat hs
  | pmark => exact .execPmark hs
  | orbdef => exact .finish (keeps_orbitResult keeps_orbdefRun) hs
  | orbin => exact .finish (keeps_orbitResult keeps_orbinRun) hs
  | orbgo => exact .finish (keeps_orbitResult keeps_orbgoRun) hs
  | orbout => exact .finish (keeps_orbitResult keeps_orboutRun) hs
  | orbstat => exact .execOrbstat hs
  | qnum | qden | qcf => exact .finish keeps_putX hs
  | qmk => exact .execQmk hs
  | qmed => exact .execQmed hs
  | qfloor => exact .finish keeps_putQ hs
  | ecall | ebreak => exact .finish keeps_raise hs
  | sret => exact .finishPc keeps_sretBody hs
  | uret => exact .finishPc keeps_uretBody hs
  | halt => exact .finishPc keeps_haltBody hs
  | tlbinv => exact .finish keeps_tlbinvBody hs
  | icinv => exact .execIcinv hs
  | klaunch => exact .finish keeps_klaunchBody hs
  | watchArm => exact .finishEvent (keeps_hartPart keeps_cregWrite) hs
  | watchDisarm => exact .execWatchDisarm hs
  | vlWrite => exact .finishEvent (keeps_hartPart keeps_vlWriteBody) hs
  | registerWrite => exact .execRegisterWrite hs
  | tableWalk => exact .execTableWalk hs
  | pretranslateWindow => exact .execPretranslateWindow hs
  | windowEnterPipeline => exact .execWindowEnterPipeline hs
  | tlbInvalidateMsg => exact .execTlbInvalidateMsg hs
  | tlbInvalidateAck => exact .execTlbInvalidateAck hs
  | hbmIssue => exact .execHbmIssue hs
  | hbmDataReturn => exact .execHbmDataReturn hs
  | hbmReadRetry => exact .execHbmReadRetry hs
  | rowCloseTimeout => exact .execRowCloseTimeout hs
  | requestAgeExpiry => exact .execRequestAgeExpiry hs
  | hcrateCeilWrite => exact .execHcrateCeilWrite hs
  | rateLimitChange => exact .execRateLimitChange hs
  | rateSwitch => exact .execRateSwitch hs
  | rateSwitchComplete => exact .execRateSwitchComplete hs
  | refreshDue => exact .execRefreshDue hs
  | owedRefreshPaid => exact .execOwedRefreshPaid hs
  | temperatureReport => exact .execTemperatureReport hs
  | activationAlert => exact .execActivationAlert hs
  | bankBlockEnd => exact .execBankBlockEnd hs
  | patrolScrubRead => exact .execPatrolScrubRead hs
  | keySlotLoad => exact .execKeySlotLoad hs
  | vectorHeader => exact .execVectorHeader hs
  | segmentCompletionBeat => exact .execSegmentCompletionBeat hs
  | lineRequest => exact .execLineRequest hs
  | sliceRequest => exact .execSliceRequest hs
  | slicePinRelease => exact .execSlicePinRelease hs
  | cacheFillReturn => exact .execCacheFillReturn hs
  | writeBack => exact .execWriteBack hs
  | registration => exact .execRegistration hs
  | registrationAck => exact .execRegistrationAck hs
  | revocation => exact .execRevocation hs
  | revocationWithWriteBack => exact .execRevocationWithWriteBack hs
  | forwardedRead => exact .execForwardedRead hs
  | forwardUnanswered => exact .execForwardUnanswered hs
  | farAtomicAtHome => exact .execFarAtomicAtHome hs
  | syAccessAtHome => exact .execSyAccessAtHome hs
  | watchHit => exact .execWatchHit hs
  | watchHitArrival => exact .execWatchHitArrival hs
  | qlockTicketDraw => exact .execQlockTicketDraw hs
  | qunlockIncrement => exact .execQunlockIncrement hs
  | grant => exact .execGrant hs
  | pollRead => exact .execPollRead hs
  | copyStart => exact .execCopyStart hs
  | copyComplete => exact .execCopyComplete hs
  | plateReattach => exact .execPlateReattach hs
  | vpushDelivery => exact .execVpushDelivery hs
  | wakeArrival => exact .execWakeArrival hs
  | waitTimeout => exact .execWaitTimeout hs
  | pushTimeout => exact .execPushTimeout hs
  | portDown => exact .execPortDown hs
  | remoteTimeout => exact .execRemoteTimeout hs
  | ualinkRequestIngress => exact .execUalinkRequestIngress hs
  | ualinkFlitRetry => exact .execUalinkFlitRetry hs
  | ucieFlitRetry => exact .execUcieFlitRetry hs
  | ucieLaneRepair => exact .execUcieLaneRepair hs
  | domainConfig => exact .execDomainConfig hs
  | hostRead => exact .execHostRead hs
  | hostWrite => exact .execHostWrite hs
  | hapctlWrite => exact .execHapctlWrite hs
  | meridianSyncSend => exact .execMeridianSyncSend hs
  | meridianSync => exact .execMeridianSync hs
  | delayExchange => exact .execDelayExchange hs
  | meridianHold => exact .execMeridianHold hs
  | queueTailWatchHit => exact .execQueueTailWatchHit hs
  | queueBackstopScan => exact .execQueueBackstopScan hs
  | dependenceWatchHit => exact .execDependenceWatchHit hs
  | placementChoice => exact .execPlacementChoice hs
  | recordCommit => exact .execRecordCommit hs
  | launchComplete => exact .execLaunchComplete hs
  | quiesce => exact .execQuiesce hs
  | endQuiesce => exact .execEndQuiesce hs
  | endLaunch => exact .execEndLaunch hs
  | createContext => exact .execCreateContext hs
  | removeContext => exact .execRemoveContext hs
  | switchArm => exact .execSwitchArm hs
  | switchArmPark => exact .execSwitchArmPark hs
  | notice => exact .execNotice hs
  | cutBegin => exact .execCutBegin hs
  | marker => exact .execMarker hs
  | cutComplete => exact .execCutComplete hs
  | contextSaved => exact .execContextSaved hs
  | contextResumed => exact .execContextResumed hs
  | resize => exact .execResize hs
  | trapEntry => exact .execTrapEntry hs
  | userInterruptDelivery => exact .execUserInterruptDelivery hs
  | eventAccept => exact .execEventAccept hs
  | eqheadWrite => exact .execEqheadWrite hs
  | orbitRound => exact .execOrbitRound hs
  | orbitRoundEdge => exact .execOrbitRoundEdge hs
  | orbitMarker => exact .execOrbitMarker hs
  | orbitLapEnd => exact .execOrbitLapEnd hs
  | orbitComplete => exact .execOrbitComplete hs
  | coldBoot => exact .execColdBoot hs
  | recoveryFirmwareImage => exact .execRecoveryFirmwareImage hs
  | warmResetComputeDie => exact .execWarmResetComputeDie hs
  | warmResetIoDie => exact .execWarmResetIoDie hs
  | trustDieWarmReset => exact .execTrustDieWarmReset hs
  | dieLost => exact .execDieLost hs
  | dieLostAck => exact .execDieLostAck hs
  | verifyObject => exact .execVerifyObject hs
  | retireObject => exact .execRetireObject hs
  | loadContextKey => exact .execLoadContextKey hs
  | clearContextKey => exact .execClearContextKey hs
  | ownerKeyInstall => exact .execOwnerKeyInstall hs
  | ownerKeyClear => exact .execOwnerKeyClear hs
  | getMeasurements => exact .execGetMeasurements hs
  | spareStatus => exact .execSpareStatus hs
  | mbcmdWhileBusy => exact .execMbcmdWhileBusy hs
  | spdmGetVersion => exact .execSpdmGetVersion hs
  | spdmGetCapabilities => exact .execSpdmGetCapabilities hs
  | spdmNegotiateAlgorithms => exact .execSpdmNegotiateAlgorithms hs
  | spdmGetDigests => exact .execSpdmGetDigests hs
  | spdmGetCertificate => exact .execSpdmGetCertificate hs
  | spdmChallenge => exact .execSpdmChallenge hs
  | spdmGetMeasurements => exact .execSpdmGetMeasurements hs
  | spdmKeyExchange => exact .execSpdmKeyExchange hs
  | spdmFinish => exact .execSpdmFinish hs
  | spdmHeartbeat => exact .execSpdmHeartbeat hs
  | spdmKeyUpdate => exact .execSpdmKeyUpdate hs
  | spdmEndSession => exact .execSpdmEndSession hs
  | spdmChunkSend => exact .execSpdmChunkSend hs
  | spdmChunkGet => exact .execSpdmChunkGet hs
  | spdmUnsupportedRequest => exact .execSpdmUnsupportedRequest hs
  | windowAccessArrival => exact .execWindowAccessArrival hs
  | rlcAcquireInvalidation => exact .execRlcAcquireInvalidation hs
  | acquireAcknowledgement => exact .execAcquireAcknowledgement hs
  | klaunchPoll => exact .execKlaunchPoll hs
  | vectorSliceEnd => exact .execVectorSliceEnd hs
  | matrixOperationEnd => exact .execMatrixOperationEnd hs
  | timeMasterNamed => exact .execTimeMasterNamed hs
  | mailboxUnknownCommand => exact .execMailboxUnknownCommand hs

theorem Outcome.Kept.issueNext {s : State} (hs : s.Canonical) : Outcome.Kept s.issueNext := by
  unfold State.issueNext
  split
  · next e =>
    have ht := keeps_fetchWord.ok hs e
    dsimp only
    split
    · exact .exec ht.updHart
    · exact .next ht.updHart.takeTrap
  · next e => exact .next (keeps_fetchWord.error hs e).fetchTrap
  · next e => exact .next (keeps_fetchWord.error hs e)

theorem Outcome.Kept.issueStep {s : State} (hs : s.Canonical) : Outcome.Kept s.issueStep := by
  have ht : ({ s with free := s.free + 1 } : State).Canonical := hs
  unfold State.issueStep
  refine .ite (.ite ?_ (.issueNext ht)) (.issueNext hs)
  split
  · next e => exact .next (ht.runQueues.of_fst e)
  · next e => exact .issueNext (ht.runQueues.of_fst e)

theorem Outcome.Kept.boundary {s : State} (hs : s.Canonical) : Outcome.Kept s.boundary :=
  .ite (.exec hs) (.ite (.exec hs) (.issueStep hs))

theorem Outcome.Kept.hartStep {s : State} (hs : s.Canonical) : Outcome.Kept s.hartStep := by
  unfold State.hartStep
  refine .ite (.next hs) ?_
  split
  · exact .next hs
  · exact .next hs
  · exact .next hs.sleepStep
  · exact .boundary hs

theorem Outcome.Kept.orWaits {s : State} (hs : s.Canonical) {l x o} (ho : Outcome.Kept o) : Outcome.Kept (s.orWaits l x o) := by
  unfold State.orWaits
  split
  · exact .ite (.next hs) ho
  · exact ho

theorem Outcome.Kept.agentStep {s : State} (hs : s.Canonical) : Outcome.Kept s.agentStep := by
  unfold State.agentStep
  split
  · exact .next hs
  · exact .ite (.next hs) (.orWaits hs (.exec hs))

theorem Outcome.Kept.turnOf {s : State} (hs : s.Canonical) {h} : Outcome.Kept (s.turnOf h) := by
  have ht : ({ s with time := s.time + 1 } : State).Canonical := hs
  exact .hartStep (State.Canonical.switchTo (.ite hs ht))

theorem Outcome.Kept.turn {s : State} (hs : s.Canonical) : Outcome.Kept s.turn := by
  have ht (l) : ({ s with turns := l } : State).Canonical := hs
  have hu : ({ s with free := s.free + 1 } : State).Canonical := hs
  unfold State.turn
  split
  · exact .ite (.turnOf (ht _)) (.agentStep (ht _))
  · refine .ite (.hartStep hs) ?_
    extract_lets ids k u
    cases ids[k]? with
    | none => exact .agentStep hu
    | some h => exact .turnOf hu

theorem Outcome.Kept.endStep {before : Nat} {o : Host.Outcome State Fault Refusal} (ho : Outcome.Kept o) :
    Outcome.Kept (endStep before o) := by
  cases o with
  | next t => exact .next (ho t rfl).tickOver
  | fault _ => exact .fault
  | refused _ => exact .refused

theorem Outcome.Kept.step {s : State} (hs : s.Canonical) : Outcome.Kept (step s) :=
  .endStep (.turn hs)

/-- Settles O6: each operation of a step writes memory only through the functions that keep the canonical form. -/
theorem memoryStaysCanonical : Obligations.MemoryStaysCanonical := by
  unfold Obligations.MemoryStaysCanonical
  exact fun _ t hs h => Outcome.Kept.step hs t h

end Sys2Proof.Machine
end

section
/-! SUPPORT. The state after reset, field by field. -/
namespace Sys2Proof.Machine
set_option Elab.async false

/-- No hart is placed at reset: each of them is the hart of reset. -/
@[simp] theorem State.getHart_reset (h : Nat) : State.reset.getHart h = Hart.reset := by
  unfold State.getHart
  split <;> rfl

@[simp] theorem State.ctx_reset (n : Nat) : State.reset.ctx n = Ctx.reset := rfl

theorem Hart.slotAt_reset (k : Nat) : Hart.reset.slotAt k = .empty := by
  unfold Hart.slotAt
  split
  · exact Vector.getElem_replicate _
  · rfl

theorem ScalarRegs.x_reset (r : Fin 32) : ScalarRegs.reset.x[r] = 0#64 := Vector.getElem_replicate r.isLt
theorem ScalarRegs.f_reset (r : Fin 32) : ScalarRegs.reset.f[r] = 0#64 := Vector.getElem_replicate r.isLt
theorem UserRegs.tshape_reset (k : Fin 8) : UserRegs.reset.tshape[k] = 0#20 := Vector.getElem_replicate k.isLt

/-- Settles O5: every hart is `Hart.reset`, every resident slot `Ctx.reset`, and their fields are the literals of the tables. -/
theorem resetValues : Obligations.ResetValues := by
  unfold Obligations.ResetValues
  refine ⟨fun h => ?_, fun n => ?_, rfl, rfl, rfl, rfl, Mem.wf_nil⟩
  · rw [State.getHart_reset]
    refine ⟨rfl, rfl, rfl, rfl, rfl, rfl, rfl, rfl, Hart.slotAt_reset, fun r => ⟨ScalarRegs.x_reset r, ScalarRegs.f_reset r⟩, ?_⟩
    refine ⟨rfl, rfl, rfl, rfl, rfl, rfl, rfl, rfl, rfl, rfl, rfl, rfl, rfl, rfl, rfl, rfl, rfl, rfl, rfl, rfl, rfl, rfl, rfl, rfl, rfl,
      UserRegs.tshape_reset, ?_⟩
    decide
  · rw [State.ctx_reset]
    exact ⟨rfl, rfl, rfl⟩

end Sys2Proof.Machine
end

section
/-! SUPPORT. The parts of a step (Machine/Run.lean): when the executing hart issues, what the schedule chooses, what a fetch through the caches
gives, and what the passing of time adds. -/
namespace Sys2Proof.Machine
set_option Elab.async false

/-! ### The executing hart -/

/-- Nothing is due before the next instruction of the executing hart, whose context runs. -/
structure State.Issues (s : State) : Prop where
  runs : s.hartRuns s.cur = true
  phase : s.hart.phase = .running
  noResize : s.hart.resizes = false
  noDelivery : s.hart.delivery = none
  vq : s.hart.vq = []
  mq : s.hart.mq = []

theorem State.hartStep_of_issues {s : State} (hs : s.Issues) : s.hartStep = s.issueNext := by
  have hq : s.hart.queued = false := by simp [Hart.queued, hs.vq, hs.mq]
  simp [State.hartStep, State.boundary, State.issueStep, hs.runs, hs.phase, hs.noResize, hs.noDelivery, hq]

theorem State.issueNext_of_decode {s t : State} {w : BitVec 32} {i : Instr} (hf : fetchWord s = .ok w t) (hd : decode w = some i) :
    s.issueNext = exec i (t.updHart fun h => { h with entering := false }) := by
  simp [State.issueNext, hf, hd]

theorem State.issueNext_of_undecoded {s t : State} {w : BitVec 32} (hf : fetchWord s = .ok w t) (hd : decode w = none) :
    s.issueNext = .next ((t.updHart fun h => { h with entering := false }).takeTrap tcIllegal (w.zeroExtend 64) 0#2 t.hart.pc) := by
  simp [State.issueNext, hf, hd]

/-! ### The schedule -/

theorem State.turn_hart {s : State} {h : Nat} {l : List Nat} (ht : s.turns = h :: l) (hh : h < 2048) :
    s.turn = ({ s with turns := l } : State).turnOf h := by
  simp [State.turn, ht, hh]

theorem State.turn_agent {s : State} {n : Nat} {l : List Nat} (ht : s.turns = n :: l) (hn : 2048 ≤ n) :
    s.turn = ({ s with turns := l } : State).agentStep := by
  simp [State.turn, ht, Nat.not_lt.2 hn]

theorem State.turn_alone {s : State} (ht : s.turns = []) (hi : s.inbox = []) (ho : s.others = []) : s.turn = s.hartStep := by
  simp [State.turn, ht, hi, ho]

/-- Where the schedule names nothing, the executing hart, an agent or a hart that the state lists takes the step. -/
theorem State.turn_free {s : State} (ht : s.turns = []) :
    s.turn = s.hartStep ∨ s.turn = ({ s with free := s.free + 1 } : State).agentStep ∨
      ∃ h ∈ s.hartIds, s.turn = ({ s with free := s.free + 1 } : State).turnOf h := by
  have hpick (k : Nat) (a : Host.Outcome State Fault Refusal) (f : Nat → Host.Outcome State Fault Refusal) :
      s.hartIds[k]?.elim a f = a ∨ ∃ h ∈ s.hartIds, s.hartIds[k]?.elim a f = f h := by
    cases hk : s.hartIds[k]? with
    | none => exact .inl rfl
    | some h => exact .inr ⟨h, List.mem_of_getElem? hk, rfl⟩
  unfold State.turn
  simp only [ht]
  split
  · exact .inl rfl
  · exact .inr (hpick _ _ _)

@[simp] theorem State.switchTo_cur (s : State) (n : Nat) : (s.switchTo n).cur = n := by
  unfold State.switchTo
  split
  · next h => exact h.symm
  · rfl

/-- A hart's turn begins at a time one greater where the hart lies on another die. -/
theorem State.turnOf_eq (s : State) (l : List Nat) (h : Nat) :
    ({ s with turns := l } : State).turnOf h =
      (({ s with turns := l, time := if dieOfHart h = dieOfHart s.cur then s.time else s.time + 1 } : State).switchTo h).hartStep := by
  unfold State.turnOf
  dsimp only
  split <;> rfl

theorem State.agentStep_of_event {s : State} {i : Instr} {m : Msg} {r : List (Instr × Msg)} (hi : s.inbox = (i, m) :: r)
    (he : isEncoded i = false) : s.agentStep = s.orWaits r (i, m) (exec i { s with inbox := r, msg := m }) := by
  simp [State.agentStep, hi, he]

theorem State.orWaits_room {s : State} {l : List (Instr × Msg)} {x : Instr × Msg} {o : Host.Outcome State Fault Refusal}
    (ho : ∀ t, o = .next t → t.waitingEvents ≤ s.waitingEvents) : s.orWaits l x o = o := by
  cases o with
  | next t => exact if_neg (Nat.not_lt.2 (ho t rfl))
  | fault r => rfl
  | refused r => rfl

theorem State.orWaits_full {s t : State} {l : List (Instr × Msg)} {x : Instr × Msg} (h : s.waitingEvents < t.waitingEvents) :
    s.orWaits l x (.next t) = .next { s with inbox := l ++ [x] } := if_pos h

/-! ### A fetch that the caches serve -/

/-- A translation that a first-level structure serves changes nothing (spec/01 R35, R36). -/
theorem translate_of_hit {s : State} {k : TlbKind} {acc : Acc} {va : Word} {e : TlbEntry} (hk : k ≠ .vector) (hc : canonical va = true)
    (hp : s.hart.sregs.sptb.getLsbD 63 = true)
    (hf : (s.tlbOf s.cur k).find? (fun x => x.hits s.hart.ctxid va && x.admits s.hart.sup acc) = some e) :
    translate k acc va s = .ok (e.pa va, e.attr) s := by
  have hany : (s.tlbOf s.cur k).any (fun x => x.hits s.hart.ctxid va && x.admits s.hart.sup acc) = true :=
    List.any_eq_true.2 ⟨e, List.mem_of_find?_eq_some hf, List.find?_some (p := fun x : TlbEntry => x.hits s.hart.ctxid va && x.admits s.hart.sup acc) hf⟩
  have hheld : s.walkHeld (s.walkerOf s.cur) s.cur k acc va = false := by
    simp [State.walkHeld, State.needsWalk, State.walkerOf, hany]
  have hl : s.lookup (s.walkerOf s.cur) s.cur k acc va = (s, .leaf e) := by
    simp [State.lookup, State.walkerOf, hc, hp, hf, hk]
  unfold translate
  simp only [M.get_bind]
  rw [if_neg (by simp [hp]), if_neg (by simp [hheld]), hl]
  rfl

/-- The line of an L1I that a fetch finds gives its bytes; it moves to the front. -/
theorem CoreState.fetchHit_of_find {c : CoreState} {ln : Nat} {l : ILine} (h : c.l1i.find? (fun x => decide (x.line = ln)) = some l) :
    ∃ c', c.fetchHit ln = some (c', l.data) := by
  simp [CoreState.fetchHit, touchFirst, h]

theorem fetchLine_of_hit {s : State} {va : Word} {ln : Nat} {rid : BitVec 4} {c : CoreState} {d : List Byte}
    (h : (s.core (coreOf s.cur)).fetchHit ln = some (c, d)) : fetchLine va ln rid s = .ok d (s.setCore (coreOf s.cur) c) := by
  unfold fetchLine
  simp only [M.get_bind, h]
  rfl

/-- A fetch through a leaf of the instruction TLB from a line of the L1I: the four bytes at the pc. -/
theorem fetchWord_of_hit {s : State} {e : TlbEntry} {l : ILine} (hc : canonical s.hart.pc = true)
    (hp : s.hart.sregs.sptb.getLsbD 63 = true)
    (hf : (s.core (coreOf s.cur)).itlb.find? (fun x => x.hits s.hart.ctxid s.hart.pc && x.admits s.hart.sup .fetch) = some e)
    (ho : s.edgeClosed (e.pa s.hart.pc) = false)
    (hl : (s.core (coreOf s.cur)).l1i.find? (fun x => decide (x.line = e.pa s.hart.pc / 64)) = some l) :
    ∃ c, fetchWord s = .ok (BitVec.ofNat 32 (leNat ((l.data.drop (e.pa s.hart.pc % 64)).take 4))) (s.setCore (coreOf s.cur) c) := by
  obtain ⟨c, hc'⟩ := CoreState.fetchHit_of_find hl
  refine ⟨c, ?_⟩
  have ht : translate .instr .fetch s.hart.pc s = .ok (e.pa s.hart.pc, e.attr) s := translate_of_hit (by decide) hc hp hf
  unfold fetchWord
  simp only [M.get_bind]
  rw [M.bind_ok ht]
  simp only [M.get_bind]
  rw [if_neg (by simp [ho, hc']), M.bind_ok (fetchLine_of_hit hc')]
  rfl

/-! ### Time -/

/-- A tick before the timers. -/
def State.ticked (t : State) : State := { t with time := t.time + Config.elapsed t.tick, tick := t.tick + 1 }

theorem State.tickOver_quiet {t : State} {n : Nat} (hp : t.disp.switch.phase = 0#2) (hw : t.watched = false) : t.tickOver n = t.ticked := by
  have hw' : t.ticked.watched = false := hw
  have hs : t.ticked.switchTimers = t.ticked := if_pos hp
  show (t.ticked.switchTimers).scanTimer n = t.ticked
  rw [hs, State.scanTimer, hw']
  rfl

theorem State.scanTimer_inbox {s : State} {n : Nat} {x : Instr × Msg} (h : x ∈ s.inbox) : x ∈ (s.scanTimer n).inbox := by
  unfold State.scanTimer
  split
  · exact List.mem_append_left _ h
  · exact h

/-- The timers of an armed switch put its cut in the inbox at its T. -/
theorem State.cutBegin_of_switchTimers {s : State} (hp : s.disp.switch.phase ≠ 0#2) (hb : s.disp.switch.begun = false)
    (ht : s.disp.switch.latched.toNat ≤ s.time) (hi : ∀ x ∈ s.inbox, x.1 ≠ .cutBegin) :
    (Instr.cutBegin, ({} : Msg)) ∈ s.switchTimers.inbox := by
  have hnone : s.awaits .cutBegin = false := by simpa [State.awaits] using fun a b hx => hi (a, b) hx
  have hnotice : (s.after [(.notice, {})]).awaits .cutBegin = false := by
    simpa [State.awaits] using fun a b hx => hi (a, b) hx
  unfold State.switchTimers
  simp only [hp, if_false, hb]
  split
  · simp [hnotice, ht]
  · simp [hnone, ht]

/-- Settles O4: the schedule's choice, the boundary before an instruction, the fetch through the caches and the timers, each by its lemma. -/
theorem stepsRunTheDecodedInstruction : Obligations.StepsRunTheDecodedInstruction := by
  unfold Obligations.StepsRunTheDecodedInstruction
  refine ⟨?_, ?_, ?_, ?_, ?_, ?_⟩
  · intro s h l ht hh u v hr hp hz hd hv hm w t hf t'
    have hi : v.Issues := ⟨by rw [State.switchTo_cur]; exact hr, hp, hz, hd, hv, hm⟩
    have hstep : step s = endStep s.time v.issueNext := by
      rw [step, State.turn_hart ht hh, State.turnOf_eq, State.hartStep_of_issues hi]
    exact ⟨fun i hw => by rw [hstep, State.issueNext_of_decode hf hw]; rfl,
      fun hw => by rw [hstep, State.issueNext_of_undecoded hf hw]; rfl⟩
  · intro s ht hi ho hr hp hz hd hv hm w t hf t'
    have hstep : step s = endStep s.time s.issueNext := by
      rw [step, State.turn_alone ht hi ho, State.hartStep_of_issues ⟨hr, hp, hz, hd, hv, hm⟩]
    exact ⟨fun i hw => by rw [hstep, State.issueNext_of_decode hf hw]; rfl,
      fun hw => by rw [hstep, State.issueNext_of_undecoded hf hw]; rfl⟩
  · intro s n l i m r ht hn hi he o
    let u : State := { s with turns := l }
    have hstep : step s = endStep s.time (u.orWaits r (i, m) o) := by
      rw [step, State.turn_agent ht hn, State.agentStep_of_event (s := u) hi he]
    refine ⟨fun ho => ?_, fun t ho hw => ?_⟩
    · rw [hstep, State.orWaits_room (s := u) ho]
    · rw [hstep, ho, State.orWaits_full (s := u) hw]
  · intro s ht
    rcases State.turn_free ht with h | h | ⟨x, hx, h⟩
    · exact .inl (by rw [step, h])
    · exact .inr (.inl (by rw [step, h]))
    · exact .inr (.inr ⟨x, hx, by rw [step, h]⟩)
  · intro s e data va k hc _ hp _ hf ho hl
    obtain ⟨c, h⟩ := fetchWord_of_hit hc hp hf ho hl
    exact ⟨_, h, rfl, rfl, fun _ => rfl⟩
  · intro t n
    refine ⟨rfl, State.tickOver_quiet, fun hp hb ht hi => State.scanTimer_inbox ?_⟩
    exact State.cutBegin_of_switchTimers (s := t.ticked) hp hb ht hi

end Sys2Proof.Machine
end

section
/-! SUPPORT. The two queues (Machine/Queue.lean): how an instruction issues, and what an attempt at the head of a queue can do. -/
namespace Sys2Proof.Machine
set_option Elab.async false

/-! ### Which instructions issue to which queue -/

theorem exec_of_isVectorRegister {i : Instr} (h : isVectorRegister i = true) (s : State) : exec i s = issueVec i s := by
  unfold isVectorRegister at h
  split at h
  any_goals rfl
  cases h

theorem exec_of_isVectorMemory {i : Instr} (h : isVectorMemory i = true) (s : State) : exec i s = issueVec i s := by
  unfold isVectorMemory at h
  split at h
  any_goals rfl
  cases h

theorem exec_of_isMatrixQueue {i : Instr} (h : isMatrixQueue i = true) (s : State) : exec i s = issueMat i s := by
  unfold isMatrixQueue at h
  split at h
  any_goals rfl
  cases h

theorem exec_of_isVector {i : Instr} (h : isVectorRegister i = true ∨ isVectorMemory i = true) (s : State) : exec i s = issueVec i s :=
  h.elim (fun h => exec_of_isVectorRegister h s) (fun h => exec_of_isVectorMemory h s)

/-! ### Issue -/

/-- In user mode an instruction that passes its checks enters its queue where there is room (spec/07 R178). -/
theorem issue_enters {mat : Bool} {chk : M Unit} {i : Instr} {s : State} (hc : chk s = .ok () s) (hu : s.hart.sup = false)
    (hr : s.queueRoom mat = true) : issue mat chk i s = .next (s.enqueue mat (s.qentry i)) := by
  simp [issue, hc, hu, hr]

/-- Where there is none it waits, and nothing changes. -/
theorem issue_waits {mat : Bool} {chk : M Unit} {i : Instr} {s : State} (hc : chk s = .ok () s) (hu : s.hart.sup = false)
    (hr : s.queueRoom mat = false) : issue mat chk i s = .next s := by
  simp [issue, hc, hu, hr]

/-- In supervisor mode it is performed at once (spec/09 R240). -/
theorem issue_direct {mat : Bool} {chk : M Unit} {i : Instr} {s : State} (hc : chk s = .ok () s) (hu : s.hart.sup = true) :
    issue mat chk i s = finish (runDirect mat (s.qentry i)) s := by
  simp [issue, hc, hu]

theorem runDirect_ok {mat : Bool} {q : QEntry} {s t : State} (h : runEntry q s = .ok () t) :
    runDirect mat q s = .ok () (if mat then t else t.clearStart) := by
  unfold runDirect
  rw [M.bind_ok h]
  rfl

theorem runDirect_error {mat : Bool} {q : QEntry} {s t : State} {e : Stop} (h : runEntry q s = .error e t) :
    runDirect mat q s = .error e t := M.bind_error h

theorem issue_completes {mat : Bool} {chk : M Unit} {i : Instr} {s t : State} (hc : chk s = .ok () s) (hu : s.hart.sup = true)
    (h : runEntry (s.qentry i) s = .ok () t) : issue mat chk i s = .next (if mat then t else t.clearStart).advance := by
  rw [issue_direct hc hu, finish_ok (runDirect_ok h)]

theorem issue_traps {mat : Bool} {chk : M Unit} {i : Instr} {s t : State} {c : BitVec 8} {x : Word} (hc : chk s = .ok () s)
    (hu : s.hart.sup = true) (h : runEntry (s.qentry i) s = .error (.trap c x) t) :
    issue mat chk i s = .next (t.takeTrap c x 0#2 t.hart.pc) := by
  rw [issue_direct hc hu, finish_trap (runDirect_error h)]

theorem State.queueRoom_iff (s : State) (mat : Bool) :
    s.queueRoom mat = true ↔ if mat then s.coreMatrixCount < 8 else s.hart.vq.length < 16 := by
  cases mat <;> simp [State.queueRoom]

/-! ### An attempt at the head -/

theorem State.attemptHead_cons {s : State} {mat : Bool} {q : QEntry} {rest : List QEntry}
    (h : (if mat then s.hart.mq else s.hart.vq) = q :: rest) : s.attemptHead mat = s.attemptEntry mat q := by
  simp [State.attemptHead, h]

theorem State.headOf_cons {s : State} {mat : Bool} {e : QEntry} {r : List QEntry}
    (h : (if mat then s.hart.vq else s.hart.mq) = e :: r) : s.headOf (!mat) = some e := by
  cases mat <;> simp_all [State.headOf]

theorem State.headOf_not (s : State) (mat : Bool) : s.headOf (!mat) = (if mat then s.hart.vq else s.hart.mq).head? := by
  cases mat <;> rfl

theorem State.attemptEntry_completes {s t : State} {mat : Bool} {q : QEntry} (hb : s.blocked mat q = false) (h : runEntry q s = .ok () t) :
    s.attemptEntry mat q = ((if mat then t else t.clearStart).retireHead (queueKind mat) q, true) := by
  simp [State.attemptEntry, hb, h]

theorem State.attemptEntry_traps {s t : State} {mat : Bool} {q : QEntry} {c : BitVec 8} {x : Word} (hb : s.blocked mat q = false)
    (h : runEntry q s = .error (.trap c x) t) :
    s.attemptEntry mat q = ((s.earlierTrap (!mat) q.seq).getD (t.entryTrap mat q c x), true) := by
  simp [State.attemptEntry, hb, h]

/-- An earlier head of the other queue that traps too is the one whose trap is taken (spec/09 R261). -/
theorem State.earlierTrap_some {s t : State} {mat : Bool} {e : QEntry} {n : Nat} {c : BitVec 8} {x : Word} (he : s.headOf mat = some e)
    (hn : e.seq < n) (hb : s.blocked mat e = false) (h : runEntry e s = .error (.trap c x) t) :
    s.earlierTrap mat n = some (t.entryTrap mat e c x) := by
  simp [State.earlierTrap, he, h, hb, Nat.not_le.2 hn]

/-- A head of the other queue that is not earlier takes no part. -/
theorem State.earlierTrap_none {s : State} {mat : Bool} {n : Nat} (h : ∀ e ∈ s.headOf mat, n ≤ e.seq) : s.earlierTrap mat n = none := by
  unfold State.earlierTrap
  cases he : s.headOf mat with
  | none => rfl
  | some e => exact if_pos (.inl (h e he))

/-- An entry that completes and holds nothing of plates given away leaves its queue and changes nothing else of the hart. -/
theorem State.retireHead_hart (s : State) (mat : Bool) {q : QEntry} (hd : q.drain = []) :
    s.retireHead (queueKind mat) q =
      s.updHart fun h => { h with vq := if mat then h.vq else h.vq.tail, mq := if mat then h.mq.tail else h.mq } := by
  cases mat <;> simp [State.retireHead, hd, Hart.dropHead, queueKind, State.updHart]

@[simp] theorem Hart.markFaulted_vq_length (h : Hart) (q : QEntry) : (h.markFaulted q).vq.length = h.vq.length := List.length_map _
@[simp] theorem Hart.markFaulted_mq_length (h : Hart) (q : QEntry) : (h.markFaulted q).mq.length = h.mq.length := List.length_map _

/-- A hart holds something in a queue before an entry of it is marked exactly where it does after. -/
theorem Hart.markFaulted_queued (h : Hart) (q : QEntry) : (h.markFaulted q).queued = h.queued := by simp [Hart.queued, Hart.markFaulted]

/-- The trap of an entry with TRENTRY enabled, of a hart whose queues hold something: the registers that spec/09 R237 writes, the entries
kept, the queues frozen. -/
theorem State.entryTrap_enabled {t : State} {mat : Bool} {q : QEntry} {c : BitVec 8} {x : Word} (he : t.hart.trap.trentry.getLsbD 0 = true)
    (hq : t.hart.vq ++ t.hart.mq ≠ []) :
    let u := t.entryTrap mat q c x
    u.hart.trap.trcode = c ∧ u.hart.trap.trarg = x ∧ u.hart.trap.qk = (if mat then 2#2 else 1#2) ∧ u.hart.trap.trpc = q.pc &&& ~~~3#64 ∧
    u.hart.trap.trnext = t.hart.pc &&& ~~~3#64 ∧ u.hart.trap.prior = t.hart.sup ∧ u.hart.sup = true ∧ u.hart.frozen = true ∧
    u.hart.vq.length = t.hart.vq.length ∧ u.hart.mq.length = t.hart.mq.length ∧ u.m = t.m := by
  have hqk : queueKind mat ≠ 0#2 := by cases mat <;> decide
  have hfrz : (!(t.hart.markFaulted q).vq.isEmpty || !(t.hart.markFaulted q).mq.isEmpty) = true := by
    rw [← Hart.queued, Hart.markFaulted_queued]
    cases hv : t.hart.vq <;> cases hm : t.hart.mq <;> simp_all [Hart.queued]
  unfold State.entryTrap
  rw [State.takeTrap_enabled _ _ _ _ _ (show (t.updHart (·.markFaulted q)).hart.trap.trentry.getLsbD 0 = true from he)]
  refine ⟨rfl, rfl, rfl, rfl, ?_, rfl, rfl, ?_, ?_, ?_, rfl⟩
  · simp [TrapRegs.enter, hqk, Hart.markFaulted]
  · simp [hfrz]
  · simp
  · simp

/-- Settles O31: an instruction enters its queue, waits for room or is performed at once as `issue` says, and the attempt at a head ends in
its retirement, its own trap or that of the earlier head. -/
theorem queuedInstructions : Obligations.QueuedInstructions := by
  unfold Obligations.QueuedInstructions
  refine ⟨?_, ?_, ?_⟩
  · intro s i mat hi hu room entered
    obtain ⟨chk, hx, hc⟩ : ∃ chk : M Unit, exec i s = issue mat chk i s ∧ chk s = .ok () s := by
      rcases hi with ⟨rfl, hv, hc⟩ | ⟨rfl, hm, hc⟩
      · exact ⟨_, exec_of_isVector hv s, hc⟩
      · exact ⟨_, exec_of_isMatrixQueue hm s, hc⟩
    refine ⟨fun hr => ?_, fun hr => ?_⟩
    · rw [hx, issue_enters hc hu ((s.queueRoom_iff mat).2 hr)]
      cases mat <;> rfl
    · rw [hx, issue_waits hc hu (Bool.eq_false_iff.2 fun h => hr ((s.queueRoom_iff mat).1 h))]
  · intro s mat q rest hq hb
    have hb : s.blocked mat q = false := hb
    rw [State.attemptHead_cons hq]
    refine ⟨fun t ht hd => ?_, fun c x t e r c' x' t' ht he hlt hbe ht' => ?_, fun c x t ht hle htr hne => ?_⟩
    · rw [State.attemptEntry_completes hb ht, State.retireHead_hart _ _ hd]
      refine ⟨_, rfl, ?_, ?_⟩ <;> cases mat <;> rfl
    · rw [State.attemptEntry_traps hb ht, State.earlierTrap_some (State.headOf_cons he) hlt hbe ht']
      rfl
    · rw [State.attemptEntry_traps hb ht, State.earlierTrap_none (by rwa [State.headOf_not])]
      exact ⟨_, rfl, State.entryTrap_enabled htr hne⟩
  · intro s i hu
    refine ⟨fun hi hc => ?_, fun hi hc => ?_⟩
    · rw [exec_of_isVector hi]
      exact ⟨fun t ht => issue_completes hc hu ht, fun c x t ht => issue_traps hc hu ht⟩
    · rw [exec_of_isMatrixQueue hi]
      exact ⟨fun t ht => issue_completes hc hu ht, fun c x t ht => issue_traps hc hu ht⟩

end Sys2Proof.Machine
end

section
/-! SUPPORT. What the walker and the pre-translator leave of the harts. A walk reads and writes table entries at home (spec/01 R28, R30), and the
most that an update at home does to a hart is the arrival of a watch hit (spec/05 R137). So each operation on the way from `walk` down leaves
every hart as it was but for the event latch and WATCH.EN: `State.Steady.f` for the operation `f`. -/
namespace Sys2Proof.Machine
set_option Elab.async false

/-- A hart without what the arrival of a watch hit writes. -/
def Hart.steady (h : Hart) : Hart := { h with latch := 0#7, user := { h.user with watchEn := false } }

/-- The same hart executes, and no hart differs but in what watch hits write. -/
def State.Steady (s t : State) : Prop := t.cur = s.cur ∧ ∀ n, (t.getHart n).steady = (s.getHart n).steady

namespace State.Steady

theorem refl (s : State) : s.Steady s := ⟨rfl, fun _ => rfl⟩

theorem ite {s : State} {c : Prop} {_ : Decidable c} {a b : State} (ha : s.Steady a) (hb : s.Steady b) : s.Steady (if c then a else b) := by
  split
  · exact ha
  · exact hb

theorem ite_fst {s : State} {β : Type} {c : Prop} {_ : Decidable c} {a b : State × β} (ha : s.Steady a.1) (hb : s.Steady b.1) :
    s.Steady (if c then a else b).1 := by
  split
  · exact ha
  · exact hb

theorem foldl {α : Type} {s t : State} {g : State → α → State} {l : List α} (ht : s.Steady t)
    (hg : ∀ t, s.Steady t → ∀ a, s.Steady (g t a)) : s.Steady (l.foldl g t) := by
  induction l generalizing t with
  | nil => exact ht
  | cons x l ih => exact ih (hg t ht x)

theorem of_fst {β : Type} {s t : State} {p : State × β} {b : β} (h : s.Steady p.1) (e : p = (t, b)) : s.Steady t := by
  subst e
  exact h

section
variable {s t : State} (ht : s.Steady t)
include ht

/-! ### Updates that reach no hart -/

theorem updMem {g} : s.Steady (t.updMem g) := ht
theorem updFab {g} : s.Steady (t.updFab g) := ht
theorem setSlice {k v} : s.Steady (t.setSlice k v) := ht
theorem setChannel {k v} : s.Steady (t.setChannel k v) := ht
theorem addPoison {ln} : s.Steady (t.addPoison ln) := ht
theorem dropUnder {ln} : s.Steady (t.dropUnder ln) := ht
theorem keepUnder {ln} : s.Steady (t.keepUnder ln) := .ite ht ht.updMem
theorem homeStore {slot pa bs} : s.Steady (t.homeStore slot pa bs) := .ite ht.keepUnder.updMem ht.updMem
theorem answerRemote {slot ln} : s.Steady (t.answerRemote slot ln) := .ite ht ht.updFab
theorem tell {dev ln hart what m} : s.Steady (t.tell dev ln hart what m) := .ite ht ht.updFab
theorem fireAgents {pa n} : s.Steady (t.fireAgents pa n) := ht
theorem mapL1 {c ln g} : s.Steady (t.mapL1 c ln g) := .ite ht ht
theorem mapCC {k ln g} : s.Steady (t.mapCC k ln g) := .ite ht ht
theorem revoke {h ln m} : s.Steady (t.revoke h ln m) := .ite ht.tell ht.mapL1.mapCC
theorem mergeUnder {ln} : s.Steady (t.mergeUnder ln) := .ite ht.addPoison ht
theorem homeLeft {v} : s.Steady (t.homeLeft v) := .ite ht (dropUnder (.ite ht.mergeUnder ht))
theorem sliceAdd {key l} : s.Steady (t.sliceAdd key l) := ht
theorem sliceDrop {key v} : s.Steady (t.sliceDrop key v) := ht
theorem openRow {pa} : s.Steady (t.openRow pa) := .ite ht.setChannel ht
theorem walkInstall {iod e} : s.Steady (t.walkInstall iod e) := ht
theorem tlbInstall {h k e} : s.Steady (t.tlbInstall h k e) := by
  cases k <;> exact ht

/-! ### Updates at home -/

/-- The one update of a hart: a watch hit arrives. -/
theorem watchArrival {n} : s.Steady (t.updHartN n (·.watchArrival)) := by
  refine ⟨(State.updHartN_cur ..).trans ht.1, fun k => ?_⟩
  rw [State.getHart_updHartN, ← ht.2 k]
  split
  · next h => subst h; rfl
  · rfl

theorem fireWatches {pa n} : s.Steady (t.fireWatches pa n) :=
  .ite ht.fireAgents <| .foldl ht.fireAgents.setSlice fun _ hu _ => .ite hu.watchArrival hu.tell

theorem homeMark {ln m psn} : s.Steady (t.homeMark ln m psn) := by
  dsimp only [State.homeMark]
  split
  · exact ht.setSlice
  · split
    · exact ht.sliceAdd
    · exact ht
    · exact .ite ht ht.homeLeft.sliceDrop.sliceAdd

theorem homeWriteWords {slot ln words data psn} : s.Steady (t.homeWriteWords slot ln words data psn) := by
  unfold State.homeWriteWords
  extract_lets m u v
  have hu : s.Steady u := ht.answerRemote.homeMark
  have hv : s.Steady v := .ite hu.homeStore.fireWatches <| .foldl hu fun _ h _ => .ite h.homeStore.fireWatches h
  exact .ite ht (.ite hv.addPoison hv)

theorem rlcPass {die ln m data psn} : s.Steady (t.rlcPass die ln m data psn) := by
  dsimp only [State.rlcPass]
  split
  · exact ht
  · split
    · exact ht.setSlice
    · exact ht

theorem dropOwners {key ln m} : s.Steady (t.dropOwners key ln m) := setSlice (.foldl ht fun _ hu _ => hu.revoke)
theorem writeHome {slot ln m data psn} : s.Steady (t.writeHome slot ln m data psn) := .ite ht ht.dropOwners.homeWriteWords
theorem revokeWB {slot point h ln m rlc} : s.Steady (t.revokeWB slot point h ln m rlc) :=
  revoke (.ite ht (.ite ht.rlcPass.writeHome ht.homeWriteWords))
theorem takeFrom {slot key ln m keep wb} : s.Steady (t.takeFrom slot key ln m keep wb) :=
  setSlice (.foldl ht fun _ hu _ => hu.revokeWB.revoke)

theorem sliceAlloc {slot key l} : s.Steady (t.sliceAlloc slot key l) := by
  unfold State.sliceAlloc
  split
  · exact ht.sliceAdd
  · exact ht
  · exact sliceAdd (sliceDrop (.ite ht.takeFrom.homeWriteWords ht.homeLeft))

theorem homeTouch {slot ln dirty} : s.Steady (t.homeTouch slot ln dirty) := by
  dsimp only [State.homeTouch]
  split
  · exact setSlice (.ite ht.answerRemote.openRow.mergeUnder ht.answerRemote)
  · exact sliceAlloc (.ite ht.answerRemote.openRow ht.answerRemote)

theorem takeAll {slot ln m wb} : s.Steady (t.takeAll slot ln m wb) := by
  refine .foldl ht.takeFrom fun u hu d => ?_
  split
  · exact .ite hu hu.takeFrom
  · exact hu

theorem homeTake {slot pa n} : s.Steady (t.homeTake slot pa n).1 := ht.takeAll.homeTouch
theorem homePut {slot pa bs} : s.Steady (t.homePut slot pa bs) := ht.homeTouch.homeStore.fireWatches

end

/-! ### Translation -/

theorem walk {s t : State} (ht : s.Steady t) {w acc va fuel table} : s.Steady (t.walk w acc va fuel table).1 := by
  induction fuel generalizing t table with
  | zero =>
    unfold State.walk
    refine .ite_fst ht ?_
    dsimp only
    refine .ite_fst ht <| .ite_fst ht <| .ite_fst (.ite_fst ht ht) ?_
    split
    · exact ht
    · exact .ite ht ht.homeTake.homePut
  | succ fuel ih =>
    unfold State.walk
    extract_lets level ix
    refine .ite_fst ht ?_
    generalize (if level = 0 then none else t.walkCached w level table ix) = next
    cases next with
    | some next => exact ih ht
    | none =>
      refine .ite_fst ht <| .ite_fst ht <| .ite_fst (.ite_fst ht (ih ht.walkInstall)) ?_
      split
      · exact ht
      · exact .ite ht ht.homeTake.homePut

theorem lookup {s t : State} (ht : s.Steady t) {w h k acc va} : s.Steady (t.lookup w h k acc va).1 := by
  unfold State.lookup
  refine .ite_fst ht <| .ite_fst ht ?_
  dsimp only
  split
  · exact .ite ht.tlbInstall ht
  · split
    · exact ht.tlbInstall
    · split
      · next e => exact (ht.walk.of_fst e).tlbInstall
      · exact ht.walk

theorem formWindow {s : State} {w : Window} (hw : s.Steady w.s) {cap acc pwb l} : s.Steady (formWindow cap acc pwb l w).s := by
  induction l generalizing w with
  | nil => exact hw
  | cons e l ih =>
    unfold Machine.formWindow
    extract_lets put
    split
    · exact ih hw
    · split
      · exact ih hw
      · split
        · exact ih hw
        · split
          · exact ih hw
          · split
            · exact hw
            · split
              · exact ih hw
              · split
                next e => exact ih (w := put _ _) (hw.lookup.of_fst e)

theorem windowFor {s t : State} (ht : s.Steady t) {acc pwb spans elems} : s.Steady (t.windowFor acc pwb spans elems).s := formWindow ht

end State.Steady

/-! ### The pre-translator -/

/-- The pages of the window in progress of an entry, left out. -/
def QEntry.bare (q : QEntry) : QEntry := { q with spans := [] }

/-- Two harts agree in their scalar registers, their pc, their vector configuration and, but for windows in progress, their queues. -/
structure Hart.SameWork (x y : Hart) : Prop where
  regs : y.regs = x.regs
  pc : y.pc = x.pc
  vq : y.vq.map QEntry.bare = x.vq.map QEntry.bare
  mq : y.mq.map QEntry.bare = x.mq.map QEntry.bare
  vec : y.vec = x.vec

theorem Hart.SameWork.refl (x : Hart) : x.SameWork x := ⟨rfl, rfl, rfl, rfl, rfl⟩

theorem Hart.SameWork.trans {x y z : Hart} (h : x.SameWork y) (h' : y.SameWork z) : x.SameWork z :=
  ⟨h'.regs.trans h.regs, h'.pc.trans h.pc, h'.vq.trans h.vq, h'.mq.trans h.mq, h'.vec.trans h.vec⟩

theorem Hart.SameWork.of_steady {x y : Hart} (h : y.steady = x.steady) : x.SameWork y :=
  ⟨(congrArg Hart.regs h :), (congrArg Hart.pc h :), (congrArg (fun z : Hart => z.vq.map QEntry.bare) h :),
    (congrArg (fun z : Hart => z.mq.map QEntry.bare) h :), (congrArg Hart.vec h :)⟩

/-- Keeping the window in progress of an entry changes pages of windows alone. -/
theorem Hart.SameWork.keepSpans (x : Hart) (seq : Nat) (spans : List Span) (sup : Bool) :
    x.SameWork { x.keepSpans seq spans with sup := sup } := by
  have hbare (l : List QEntry) : (l.map fun q => if q.seq = seq then { q with spans } else q).map QEntry.bare = l.map QEntry.bare := by
    rw [List.map_map]
    refine List.map_congr_left fun q _ => ?_
    simp only [Function.comp]
    split <;> rfl
  exact ⟨rfl, rfl, hbare _, hbare _, rfl⟩

theorem State.getHart_updHart (s : State) (g : Hart → Hart) (n : Nat) :
    (s.updHart g).getHart n = if n = s.cur then g s.hart else s.getHart n := by
  by_cases h : n = s.cur <;> simp [State.getHart, State.updHart, h]

/-- An update of the executing hart that leaves its work alone leaves that of every hart. -/
theorem State.sameWork_updHart {s : State} {g : Hart → Hart} (hg : s.hart.SameWork (g s.hart)) (n : Nat) :
    (s.getHart n).SameWork ((s.updHart g).getHart n) := by
  rw [State.getHart_updHart]
  split
  · next h => rw [h, State.getHart_cur]; exact hg
  · exact .refl _

theorem State.sameWork_pretranslate (s : State) (mat : Bool) (n : Nat) : (s.getHart n).SameWork ((s.pretranslate mat).getHart n) := by
  unfold State.pretranslate
  split
  · exact .refl _
  · next q _ =>
    extract_lets sup t
    split
    next l store _ =>
    extract_lets w
    have hu : (s.getHart n).SameWork (t.getHart n) := State.sameWork_updHart ⟨rfl, rfl, rfl, rfl, rfl⟩ n
    have hw : (t.getHart n).SameWork (w.s.getHart n) := .of_steady ((State.Steady.refl t).windowFor.2 n)
    exact (hu.trans hw).trans (State.sameWork_updHart (.keepSpans ..) n)

/-- What one hart's part does to the work of the harts, the device does. -/
theorem State.sameWork_onHart {s : State} {h : Nat} {g : State → State}
    (hg : ∀ n, ((s.switchTo h).getHart n).SameWork ((g (s.switchTo h)).getHart n)) (n : Nat) :
    (s.getHart n).SameWork ((s.onHart h g).getHart n) := by
  have hn := hg n
  rw [State.getHart_switchTo] at hn
  unfold State.onHart
  dsimp only
  rwa [State.getHart_switchTo]

end Sys2Proof.Machine
end

section
/-! SUPPORT. The walker, the memory pipeline and the two arbiters (Machine/Units.lean). -/
namespace Sys2Proof.Machine
set_option Elab.async false

/-! ### The walker (spec/01 R28, R35) -/

theorem mem_keepFirst_head {α : Type} (p : α → Bool) (n : Nat) (a : α) (l : List α) : a ∈ keepFirst p (n + 1) (a :: l) := by
  unfold keepFirst
  split <;> exact List.mem_cons_self

theorem mem_tlbPut (e : TlbEntry) (n : Nat) (l : List TlbEntry) : e ∈ tlbPut e (n + 1) l := List.mem_cons_self
theorem mem_prePut (e : TlbEntry) (l : List TlbEntry) : e ∈ prePut e l := by
  rw [prePut, tlbPut, List.take_succ_cons]
  exact mem_keepFirst_head ..

/-- A leaf installed for a scalar access stands in the pre-translator of the hart's cluster and in the TLB of the access. -/
theorem State.mem_pre_tlbInstall (s : State) (h : Nat) {k : TlbKind} (e : TlbEntry) (hk : k ≠ .sequencer) :
    e ∈ ((s.tlbInstall h k e).cluster (clusterOf h)).pre := by
  cases k <;> simp_all [State.tlbInstall, mem_prePut]

theorem State.mem_itlb_tlbInstall (s : State) (h : Nat) (e : TlbEntry) : e ∈ ((s.tlbInstall h .instr e).core (coreOf h)).itlb := by
  simp [State.tlbInstall, mem_tlbPut]

theorem State.mem_dtlb_tlbInstall (s : State) (h : Nat) (e : TlbEntry) : e ∈ ((s.tlbInstall h .data e).core (coreOf h)).dtlb := by
  simp [State.tlbInstall, mem_tlbPut]

theorem State.tlbInstall_frame (s : State) (h : Nat) (k : TlbKind) (e : TlbEntry) :
    (s.tlbInstall h k e).m.mem = s.m.mem ∧ SameHarts s (s.tlbInstall h k e) := by
  cases k <;> exact ⟨rfl, rfl, rfl, rfl⟩

theorem exec_tableWalk (s : State) : exec .tableWalk s = .next (s.walkFor s.msg.hart.toNat s.msg.value (accOfCode s.msg.size)) := rfl

section
variable {s : State} {h : Nat} {acc : Acc} {va : Word}

/-- The address has a table to walk. -/
def State.Walks (s : State) (h : Nat) (va : Word) : Prop := canonical va = true ∧ (s.getHart h).sregs.sptb.getLsbD 63 = true

theorem State.walkFor_idle (hn : canonical va = false ∨ (s.getHart h).sregs.sptb.getLsbD 63 = false) : s.walkFor h va acc = s := by
  have hc : (!canonical va || !(s.walkerOf h).sptb.getLsbD 63) = true := by
    rcases hn with hn | hn
    · rw [hn]; rfl
    · rw [show (s.walkerOf h).sptb.getLsbD 63 = false from hn, Bool.not_false, Bool.or_true]
  exact if_pos hc

theorem State.Walks.enabled (hw : s.Walks h va) : (!canonical va || !(s.walkerOf h).sptb.getLsbD 63) ≠ true := by
  rw [hw.1, show (s.walkerOf h).sptb.getLsbD 63 = true from hw.2]
  decide

theorem State.walkFor_waits (hw : s.Walks h va) (hh : s.walkWaits (s.walkerOf h) va = true) : s.walkFor h va acc = s.after [(.tableWalk, s.msg)] :=
  (if_neg hw.enabled).trans (if_pos hh)

theorem State.walkFor_leaf {t : State} {e : TlbEntry} (hw : s.Walks h va) (hh : s.walkWaits (s.walkerOf h) va = false)
    (ht : s.walk (s.walkerOf h) acc va 3 (((s.getHart h).sregs.sptb.extractLsb' 16 40).toNat * 4096) = (t, .leaf e)) :
    s.walkFor h va acc = t.tlbInstall h (if acc = .fetch then .instr else .data) e := by
  have ht : s.walk (s.walkerOf h) acc va 3 (((s.walkerOf h).sptb.extractLsb' 16 40).toNat * 4096) = (t, .leaf e) := ht
  unfold State.walkFor
  rw [if_neg hw.enabled, hh, ht]
  rfl

theorem State.walkFor_fault {t : State} {r : BitVec 4} {l : Nat} (hw : s.Walks h va) (hh : s.walkWaits (s.walkerOf h) va = false)
    (ht : s.walk (s.walkerOf h) acc va 3 (((s.getHart h).sregs.sptb.extractLsb' 16 40).toNat * 4096) = (t, .fault r l)) :
    s.walkFor h va acc = t := by
  have ht : s.walk (s.walkerOf h) acc va 3 (((s.walkerOf h).sptb.extractLsb' 16 40).toNat * 4096) = (t, .fault r l) := ht
  unfold State.walkFor
  rw [if_neg hw.enabled, hh, ht]
  rfl

end

theorem exec_pretranslateWindow (s : State) :
    exec .pretranslateWindow s = .next (s.onHart s.msg.hart.toNat fun s => s.pretranslate s.msg.flag) := rfl

theorem State.sameWork_pretranslateWindow (s : State) (n : Nat) :
    (s.getHart n).SameWork ((s.onHart s.msg.hart.toNat fun s => s.pretranslate s.msg.flag).getHart n) :=
  State.sameWork_onHart (State.sameWork_pretranslate _ _) n

/-! ### A hart's queues (spec/09 R249) -/

@[simp] theorem State.hart_switchTo (s : State) (n : Nat) : (s.switchTo n).hart = s.getHart n := by
  rw [← State.getHart_switchTo s n n, State.getHart, if_pos (State.switchTo_cur s n).symm]

theorem State.hartRuns_switchTo (s : State) (n h : Nat) : (s.switchTo n).hartRuns h = s.hartRuns h := by
  simp [State.hartRuns, State.ctxRuns, State.ctx, State.dieHeld, State.getHart_switchTo]

theorem State.headOf_switchTo (s : State) (n : Nat) (mat : Bool) :
    (s.switchTo n).headOf mat = if mat then (s.getHart n).mq.head? else (s.getHart n).vq.head? := by
  simp [State.headOf]

/-- The queues of a hart go on where it is placed, its context runs, it is in user mode and its queues are not frozen. -/
theorem State.serves_switchTo (s : State) (n : Nat) : (s.switchTo n).serves = true ↔
    s.hartRuns n = true ∧ (s.getHart n).placed = true ∧ (s.getHart n).frozen = false ∧ (s.getHart n).sup = false := by
  simp [State.serves, State.hartRuns_switchTo, and_assoc]

theorem serves_of_Serves {s : State} {h : Nat} (hs : Serves s h) : (s.switchTo h).serves = true := by
  obtain ⟨hp, hr, hu, hf⟩ := hs
  exact (s.serves_switchTo h).2 ⟨hr, by simp [Hart.placed, hp], hf, hu⟩

theorem not_serves_of {s : State} {h : Nat} (hs : (s.getHart h).sup = true ∨ (s.getHart h).frozen = true ∨ s.hartRuns h = false) :
    (s.switchTo h).serves = false := by
  rw [Bool.eq_false_iff]
  intro hv
  obtain ⟨hr, -, hf, hu⟩ := (s.serves_switchTo h).1 hv
  simp [hr, hf, hu] at hs

theorem State.performHead_idle {s : State} {mat : Bool} {p : QEntry → Bool} (h : s.serves = false ∨ (s.headOf mat).any p = false) :
    s.performHead mat p = (s, false) := by
  unfold State.performHead
  exact if_neg (by rcases h with h | h <;> simp [h])

theorem State.performHead_attempts {s : State} {mat : Bool} {p : QEntry → Bool} (hs : s.serves = true) (hp : (s.headOf mat).any p = true) :
    s.performHead mat p = s.attemptHead mat := by
  unfold State.performHead
  exact if_pos (by simp [hs, hp])

theorem exec_windowEnterPipeline (s : State) : exec .windowEnterPipeline s =
    .next (s.onHart s.msg.hart.toNat fun s => if s.msg.flag then s.matrixMemory else (s.performHead false (·.inPipeline)).1) := rfl
theorem exec_vpushDelivery (s : State) : exec .vpushDelivery s =
    .next (s.onHart s.msg.hart.toNat fun s => (s.performHead false fun q => q.isPush && q.sliced).1) := rfl
theorem exec_pushTimeout (s : State) : exec .pushTimeout s =
    .next (s.onHart s.msg.hart.toNat fun s => (s.performHead false (QEntry.pushExpired s)).1) := rfl

/-- A part that does nothing as another hart changes no hart and no memory. -/
theorem State.onHart_idle {s : State} {h : Nat} {g : State → State} (hg : g (s.switchTo h) = s.switchTo h) :
    (s.onHart h g).m = s.m ∧ HartsOnly s (s.onHart h g) h id := by
  unfold State.onHart
  dsimp only
  rw [hg]
  refine ⟨by simp, fun n => ?_⟩
  rw [State.getHart_switchTo, State.getHart_switchTo]
  split
  · next e => rw [e]; rfl
  · rfl

/-! ### The steps that attempt the head of a vector queue (spec/09 R249) -/

section
variable {s : State} {q : QEntry} {l : List QEntry}

theorem State.any_headOf_switchTo {n : Nat} {p : QEntry → Bool} (hq : (s.getHart n).vq = q :: l) : ((s.switchTo n).headOf false).any p = p q := by
  simp [State.headOf_switchTo, hq]

theorem State.onHart_attempts {n : Nat} {p : QEntry → Bool} (hs : (s.switchTo n).serves = true) (hq : (s.getHart n).vq = q :: l) (hp : p q = true) :
    ((s.switchTo n).performHead false p).1.switchTo s.cur = ((s.switchTo n).attemptHead false).1.switchTo s.cur := by
  rw [State.performHead_attempts hs (by rw [State.any_headOf_switchTo hq, hp])]

theorem attemptsHead_windowEnterPipeline (hs : (s.switchTo s.msg.hart.toNat).serves = true) (hf : s.msg.flag = false)
    (hq : (s.getHart s.msg.hart.toNat).vq = q :: l) (hp : q.inPipeline = true) : AttemptsHead .windowEnterPipeline s s.msg.hart.toNat false := by
  unfold AttemptsHead
  rw [exec_windowEnterPipeline, ← State.onHart_attempts hs hq hp]
  simp [State.onHart, hf]

theorem attemptsHead_vpushDelivery (hs : (s.switchTo s.msg.hart.toNat).serves = true)
    (hq : (s.getHart s.msg.hart.toNat).vq = q :: l) (hp : (q.isPush && q.sliced) = true) : AttemptsHead .vpushDelivery s s.msg.hart.toNat false := by
  unfold AttemptsHead
  rw [exec_vpushDelivery, ← State.onHart_attempts (p := fun q => q.isPush && q.sliced) hs hq hp]
  rfl

theorem attemptsHead_pushTimeout (hs : (s.switchTo s.msg.hart.toNat).serves = true)
    (hq : (s.getHart s.msg.hart.toNat).vq = q :: l) (hp : QEntry.pushExpired (s.switchTo s.msg.hart.toNat) q = true) :
    AttemptsHead .pushTimeout s s.msg.hart.toNat false := by
  unfold AttemptsHead
  rw [exec_pushTimeout, ← State.onHart_attempts hs hq hp]
  rfl

theorem ends_vpushDelivery_idle (hq : (s.getHart s.msg.hart.toNat).vq = q :: l) (hp : (q.isPush && q.sliced) = false) :
    Ends .vpushDelivery s fun t => t.m = s.m ∧ HartsOnly s t s.msg.hart.toNat id :=
  ⟨_, exec_vpushDelivery s, State.onHart_idle (by rw [State.performHead_idle (.inr (by rw [State.any_headOf_switchTo hq, hp]))])⟩

theorem ends_pushTimeout_idle (hq : (s.getHart s.msg.hart.toNat).vq = q :: l)
    (hp : QEntry.pushExpired (s.switchTo s.msg.hart.toNat) q = false) : Ends .pushTimeout s fun t => t.m = s.m ∧ HartsOnly s t s.msg.hart.toNat id :=
  ⟨_, exec_pushTimeout s, State.onHart_idle (by rw [State.performHead_idle (.inr (by rw [State.any_headOf_switchTo hq, hp]))])⟩

end

/-- The hart at the head of a core queue is one whose queues go on. -/
theorem State.serves_of_matrixHead {s : State} {c h : Nat} (hm : s.matrixHead c = some h) : (s.switchTo h).serves = true := by
  have hmem : h ∈ [2 * c, 2 * c + 1].filter fun h => (s.switchTo h).serves && !(s.getHart h).mq.isEmpty := by
    unfold State.matrixHead at hm
    extract_lets order at hm
    split at hm
    · next a b e =>
      rw [e]
      simp only [Option.some.injEq] at hm
      split at hm <;> simp [hm]
    · next a l _ e =>
      rw [e]
      simp only [Option.some.injEq] at hm
      simp [hm]
    · cases hm
  exact (Bool.and_eq_true _ _ ▸ (List.mem_filter.1 hmem).2).1

theorem State.switchTo_self {s : State} {n : Nat} (h : n = s.cur) : s.switchTo n = s := if_pos h

/-- The matrix memory of a hart whose queues do not go on is left alone. -/
theorem State.matrixMemory_idle {s : State} (hs : s.serves = false) : s.matrixMemory = s := by
  have hne : s.matrixHead (coreOf s.cur) ≠ some s.cur := by
    intro hm
    have := State.serves_of_matrixHead hm
    rw [State.switchTo_self rfl, hs] at this
    cases this
  unfold State.matrixMemory
  split
  · rfl
  · exact if_pos (by simp [hne])

/-- Where a hart's queues do not go on, the steps that serve them change nothing. -/
theorem State.unserved_idle {s : State} (hs : (s.switchTo s.msg.hart.toNat).serves = false) :
    ∀ i ∈ [Instr.windowEnterPipeline, .vpushDelivery, .pushTimeout], Ends i s fun t => t.m = s.m ∧ HartsOnly s t s.msg.hart.toNat id := by
  have hv (p : QEntry → Bool) : ((s.switchTo s.msg.hart.toNat).performHead false p).1 = s.switchTo s.msg.hart.toNat := by
    rw [State.performHead_idle (.inl hs)]
  intro i hi
  simp only [List.mem_cons, List.not_mem_nil, or_false] at hi
  obtain rfl | rfl | rfl := hi
  · refine ⟨_, exec_windowEnterPipeline s, State.onHart_idle ?_⟩
    split
    · exact State.matrixMemory_idle hs
    · exact hv _
  · exact ⟨_, exec_vpushDelivery s, State.onHart_idle (hv _)⟩
  · exact ⟨_, exec_pushTimeout s, State.onHart_idle (hv _)⟩

/-- The operation at the head of a core queue that waits for memory keeps what it has translated and requested (spec/08 R222). -/
theorem State.matrixMemory_waits {s t : State} {q : QEntry} {l : List QEntry} (hm : s.matrixHead (coreOf s.cur) = some s.cur)
    (hq : s.hart.mq = q :: l) (hp : Instr.isMopM q.instr = false) (hb : s.blocked true q = false)
    (hr : runEntry q s = .error .stall t) : s.matrixMemory = t := by
  have hh : s.headOf true = some q := by simp [State.headOf, hq]
  simp [State.matrixMemory, hh, hm, hp, hb, hr]

/-! ### Arbitration (spec/08 R221) -/

theorem largest_mem {l : List Cand} {g : Cand} (h : largest l = some g) : g ∈ l := by
  induction l generalizing g with
  | nil => cases h
  | cons a l ih =>
    unfold largest at h
    split at h
    · cases h; exact List.mem_cons_self
    · next b hb =>
      split at h <;> cases h
      · exact List.mem_cons_self
      · exact List.mem_cons_of_mem _ (ih hb)

theorem largest_none {l : List Cand} (h : largest l = none) : l = [] := by
  cases l with
  | nil => rfl
  | cons a l =>
    unfold largest at h
    split at h
    · cases h
    · split at h <;> cases h

/-- No candidate has a larger counter. -/
theorem le_largest {l : List Cand} {g : Cand} (h : largest l = some g) : ∀ x ∈ l, x.c ≤ g.c := by
  induction l generalizing g with
  | nil => cases h
  | cons a l ih =>
    unfold largest at h
    split at h
    · next hn =>
      cases h
      simp [largest_none hn]
    · next b hb =>
      have hl := ih hb
      split at h <;> cases h
      · next hba => exact List.forall_mem_cons.2 ⟨le_refl _, fun x hx => le_trans (hl x hx) hba⟩
      · next hba => exact List.forall_mem_cons.2 ⟨by omega, hl⟩

/-- The weighted candidates with their weights added to their counters. -/
def raised (l : List Cand) : List Cand := (l.filter fun x => decide (0 < x.w)).map fun x => { x with c := x.c + x.w }

theorem mem_raised {l : List Cand} {y : Cand} : y ∈ raised l ↔ ∃ x ∈ l, 0 < x.w ∧ y = { x with c := x.c + x.w } := by
  simp [raised, and_assoc, eq_comm]

/-- Where some candidate has a weight, the arbiter chooses the largest of them. -/
theorem arbitrate_weighted {l : List Cand} {last g : Nat} {cs : List (Nat × Int)} (h : arbitrate l last = some (g, cs)) (hc : cs ≠ []) :
    ∃ x, largest (raised l) = some x ∧ x.idx = g ∧
      cs = (raised l).map fun y => (y.idx, if y.idx = g then y.c - ((raised l).map fun z => (z.w : Int)).sum else y.c) := by
  unfold arbitrate at h
  change (match largest (raised l) with | some _ => _ | none => _) = _ at h
  split at h
  · next x hx =>
    cases h
    exact ⟨x, hx, rfl, by rw [List.sum_eq_foldl]; rfl⟩
  · next hn =>
    cases hk : ((l.filter fun x => decide (last < x.idx)) ++ l).head? with
    | none => simp [hk] at h
    | some y => simp [hk] at h; exact absurd h.2 hc

/-- The chosen counter is lowered by as much as the others have been raised. -/
theorem sum_lowered {r : List Cand} {x : Cand} (hx : x ∈ r) (hn : (r.map (·.idx)).Nodup) (d : Int) :
    (r.map fun y => if y.idx = x.idx then y.c - d else y.c).sum = (r.map (·.c)).sum - d := by
  have hxy : ∀ y ∈ r, y.idx = x.idx ↔ y = x := fun y hy => ⟨fun e => List.inj_on_of_nodup_map hn hy hx e, fun e => congrArg _ e⟩
  have hmap : (r.map fun y => if y.idx = x.idx then y.c - d else y.c) = r.map fun y => if y = x then y.c - d else y.c :=
    List.map_congr_left fun y hy => if_congr (hxy y hy) rfl rfl
  rw [hmap, List.sum_map_ite_eq, List.count_eq_one_of_mem (List.Nodup.of_map _ hn) hx, one_nsmul]
  ring

/-- The counters keep their sum. -/
theorem sum_arbitrated {l : List Cand} {x : Cand} (hx : x ∈ raised l) (hn : (l.map (·.idx)).Nodup) :
    ((raised l).map fun y => if y.idx = x.idx then y.c - ((raised l).map fun z => (z.w : Int)).sum else y.c).sum =
      ((l.filter fun x => decide (0 < x.w)).map (·.c)).sum := by
  have hn : ((raised l).map (·.idx)).Nodup := by
    simpa [raised, Function.comp_def] using hn.sublist ((List.filter_sublist ..).map _)
  rw [sum_lowered hx hn]
  simp [raised, Function.comp_def, List.sum_map_add]

/-- Where no candidate stands, nothing is chosen. -/
theorem arbitrate_nil (last : Nat) : arbitrate [] last = none := rfl

/-- A candidate that stands alone and has a weight is chosen, and its counter stays. -/
theorem arbitrate_single {x : Cand} (last : Nat) (hw : 0 < x.w) : arbitrate [x] last = some (x.idx, [(x.idx, x.c)]) := by
  simp [arbitrate, hw, largest]

theorem filter_range_single {n i : Nat} {p : Nat → Bool} (hi : i < n) (hp : p i = true) (hj : ∀ j, j < n → j ≠ i → p j = false) :
    (List.range n).filter p = [i] := by
  have h : ∀ j ∈ List.range n, p j = (j == i) := by
    intro j hm
    by_cases e : j = i
    · simp [e, hp]
    · simp [e, hj j (List.mem_range.1 hm) e]
  rw [List.filter_congr h, List.filter_beq, List.count_eq_one_of_mem List.nodup_range (List.mem_range.2 hi), List.replicate_one]

/-! ### Slices of vector instructions (spec/08 R221) -/

theorem exec_vectorSliceEnd {s : State} (hu : s.msg.unit.toNat < 16) :
    exec .vectorSliceEnd s = .next (s.vectorChoice (s.msg.die.toNat * 16 + s.msg.unit.toNat)).1 := by
  show finishEvent (copyUnit fun s k => (s.vectorChoice k).1) s = _
  exact finishEvent_ok (by simp [copyUnit, hu])

theorem State.vectorChoice_idle {s : State} {k : Nat} (h : ∀ i, i < 16 → s.vectorReady (k * 16 + i) = false) : s.vectorChoice k = (s, false) := by
  have hl : ((List.range 16).filter fun i => s.vectorReady (k * 16 + i)) = [] := by simpa using h
  unfold State.vectorChoice
  simp only [hl, List.map_nil, arbitrate_nil]

/-- A hart whose counter is set to what it was. -/
theorem State.updHartN_arb (s : State) (n : Nat) : (s.updHartN n fun h => { h with arb := (s.getHart n).arb }) = s.updHartN n id := rfl

theorem State.vectorChoice_single {s : State} {k i : Nat} (hi : i < 16) (hr : s.vectorReady (k * 16 + i) = true)
    (hj : ∀ j, j < 16 → j ≠ i → s.vectorReady (k * 16 + j) = false) (hw : 0 < (s.getHart (k * 16 + i)).grant.vw.toNat) :
    (s.vectorChoice k).1 = (s.updHartN (k * 16 + i) id).onHart (k * 16 + i) (·.takeSlice) := by
  have hl : ((List.range 16).filter fun i => s.vectorReady (k * 16 + i)) = [i] := filter_range_single hi hr hj
  unfold State.vectorChoice
  simp only [hl, List.map_cons, List.map_nil]
  rw [arbitrate_single _ hw]
  simp only [List.foldl_cons, List.foldl_nil, State.updHartN_arb]
  rfl

theorem State.takeSlice_cons {s : State} {q : QEntry} {l : List QEntry} (hq : s.hart.vq = q :: l) :
    s.takeSlice = if Instr.isPipelined q.instr || decide (q.slices + 1 < q.sliceCount) then s.updHart (·.sliceHead) else (s.attemptHead false).1 := by
  simp [State.takeSlice, State.headOf, hq]

theorem Hart.sliceHead_cons {h : Hart} {q : QEntry} {l : List QEntry} (hq : h.vq = q :: l) :
    h.sliceHead = { h with vq := { q with slices := q.slices + 1 } :: l } := by
  simp [Hart.sliceHead, hq]

/-- One slice of an instruction that is not yet performed changes only its place in the queue. -/
theorem State.slice_frame {s : State} {n : Nat} {q : QEntry} {l : List QEntry} (hq : (s.getHart n).vq = q :: l)
    (hp : Instr.isPipelined q.instr = true ∨ q.slices + 1 < q.sliceCount) :
    ((s.updHartN n id).onHart n (·.takeSlice)).m = s.m ∧
      HartsOnly s ((s.updHartN n id).onHart n (·.takeSlice)) n fun x => { x with vq := { q with slices := q.slices + 1 } :: l } := by
  have hv : ((s.updHartN n id).switchTo n).hart.vq = q :: l := by simp [State.getHart_updHartN, hq]
  have hw : ((s.updHartN n id).switchTo n).takeSlice = ((s.updHartN n id).switchTo n).updHart (·.sliceHead) := by
    rw [State.takeSlice_cons hv]
    exact if_pos (by simpa using hp)
  simp only [State.onHart, hw]
  refine ⟨by simp, fun i => ?_⟩
  rw [State.getHart_switchTo, State.getHart_updHart, State.switchTo_cur, State.getHart_switchTo, State.getHart_updHartN]
  split
  · rw [Hart.sliceHead_cons hv, State.hart_switchTo, State.getHart_updHartN, if_pos rfl]; rfl
  · rfl

/-! ### Operations of the matrix engine (spec/08 R222) -/

theorem exec_matrixOperationEnd {s : State} (hu : s.msg.unit.toNat < 16) :
    exec .matrixOperationEnd s = .next (s.matrixChoice (s.msg.die.toNat * 16 + s.msg.unit.toNat)).1 := by
  show finishEvent (copyUnit fun s k => (s.matrixChoice k).1) s = _
  exact finishEvent_ok (by simp [copyUnit, hu])

theorem filterMap_range_single {β : Type} {n i : Nat} {f : Nat → Option β} {b : β} (hi : i < n) (hf : f i = some b)
    (hj : ∀ j, j < n → j ≠ i → f j = none) : (List.range n).filterMap f = [b] := by
  have hs : (List.range n).filter (fun j => (f j).isSome) = [i] :=
    filter_range_single hi (by simp [hf]) fun j hn hne => by simp [hj j hn hne]
  have hm : ((List.range n).filter fun j => (f j).isSome).filterMap f = (List.range n).filterMap f := by
    rw [List.filterMap_filter]
    congr 1
    funext j
    cases f j <;> rfl
  rw [← hm, hs]
  simp [hf]

theorem State.matrixHead_setCore (s : State) (c n : Nat) (v : CoreState) : (s.setCore c v).matrixHead n = s.matrixHead n := by
  have hs (h : Nat) : ((s.setCore c v).switchTo h).serves = (s.switchTo h).serves := by
    rw [Bool.eq_iff_iff, State.serves_switchTo, State.serves_switchTo]
    exact Iff.rfl
  unfold State.matrixHead
  simp only [hs]
  rfl

/-- A core whose counter is set to what it was. -/
theorem State.setCore_marb (s : State) (n : Nat) : s.setCore n { s.core n with marb := (s.core n).marb } = s.setCore n (s.core n) := rfl

theorem State.matrixChoice_idle {s : State} {k : Nat} (he : (s.cluster k).engine = none) (h : ∀ i, i < 8 → s.matrixHead (k * 8 + i) = none) :
    s.matrixChoice k = (s, false) := by
  have hl : ((List.range 8).filterMap fun i => ((s.matrixHead (k * 8 + i)).filter s.matrixReady).map fun h =>
      ({ idx := i, w := (s.getHart h).grant.mw.toNat, c := (s.core (k * 8 + i)).marb } : Cand)) = [] := by
    refine List.filterMap_eq_nil_iff.2 fun i hi => ?_
    rw [h i (List.mem_range.1 hi)]
    rfl
  unfold State.matrixChoice
  simp only [he, Option.filter_none, hl, arbitrate_nil]

theorem State.matrixChoice_held {s : State} {k h : Nat} (he : (s.cluster k).engine = some h) (hs : s.streams h = true) :
    s.matrixChoice k = (s.operate k h, true) := by
  unfold State.matrixChoice
  simp only [he, Option.filter_some, hs, if_true]

theorem State.matrixChoice_single {s : State} {k i h : Nat} (hi : i < 8) (he : (s.cluster k).engine = none)
    (hm : s.matrixHead (k * 8 + i) = some h) (hr : s.matrixReady h = true) (hj : ∀ j, j < 8 → j ≠ i → s.matrixHead (k * 8 + j) = none)
    (hw : 0 < (s.getHart h).grant.mw.toNat) :
    s.matrixChoice k = ((s.setCore (k * 8 + i) (s.core (k * 8 + i))).operate k h, true) := by
  have hl : ((List.range 8).filterMap fun i => ((s.matrixHead (k * 8 + i)).filter s.matrixReady).map fun h =>
      ({ idx := i, w := (s.getHart h).grant.mw.toNat, c := (s.core (k * 8 + i)).marb } : Cand)) =
      [{ idx := i, w := (s.getHart h).grant.mw.toNat, c := (s.core (k * 8 + i)).marb }] :=
    filterMap_range_single hi (by simp [hm, hr]) fun j hn hne => by simp [hj j hn hne]
  unfold State.matrixChoice
  simp only [he, Option.filter_none, hl]
  rw [arbitrate_single _ hw]
  simp only [List.foldl_cons, List.foldl_nil, State.setCore_marb, List.isEmpty_cons, Bool.false_eq_true, if_false, State.matrixHead_setCore, hm]
  rfl

theorem Operates.of_operate {s t : State} {k h : Nat} (he : exec .matrixOperationEnd s = .next (t.operate k h)) : Operates s t k h := by
  unfold Operates
  rw [he]
  simp [State.operate]

/-- Settles O54: each step runs a part of a hart's units, whose lemmas above say what it does. -/
theorem queuesAreServed : Obligations.QueuesAreServed := by
  unfold Obligations.QueuesAreServed
  refine ⟨fun s => ?_, ?_, ?_⟩
  · intro h x acc va
    refine ⟨?_, ?_, ?_, ?_, ?_, ?_, ?_⟩
    · intro t e hc hp hw ht
      refine ⟨_, (exec_tableWalk s).trans (congrArg _ (State.walkFor_leaf ⟨hc, hp⟩ hw ht)), ?_⟩
      refine ⟨State.mem_pre_tlbInstall _ _ _ (by split <;> decide), fun ha => ?_, fun ha => ?_, State.tlbInstall_frame ..⟩
      · rw [if_pos ha]; exact State.mem_itlb_tlbInstall ..
      · rw [if_neg ha]; exact State.mem_dtlb_tlbInstall ..
    · intro t r l hc hp hw ht
      rw [exec_tableWalk, State.walkFor_fault ⟨hc, hp⟩ hw ht]
    · intro hn
      rw [exec_tableWalk, State.walkFor_idle hn]
    · intro hc hp hw
      rw [exec_tableWalk, State.walkFor_waits ⟨hc, hp⟩ hw]
    · refine ⟨_, exec_pretranslateWindow s, fun n => ?_⟩
      obtain ⟨hr, hpc, hvq, hmq, hv⟩ := s.sameWork_pretranslateWindow n
      exact ⟨hr, hpc, hvq, hmq, hv⟩
    · intro hn
      exact State.unserved_idle (not_serves_of hn)
    · intro hs
      refine ⟨fun q l hf hq hp => ?_, fun q l t hf hm hq hp hb hr => ?_, fun q l hq hp => ⟨fun hl => ?_, fun t ht hw => ?_⟩,
        fun q l hq => ⟨fun hi => ?_, fun hi => ?_⟩⟩
      · exact attemptsHead_windowEnterPipeline (serves_of_Serves hs) hf hq hp
      · have hw : (s.switchTo h).matrixMemory = t :=
          State.matrixMemory_waits (by simpa using hm) (by simpa using hq) hp hb hr
        rw [exec_windowEnterPipeline]
        simp [State.onHart, hf, hw, h]
      · exact attemptsHead_vpushDelivery (serves_of_Serves hs) hq (by simp [hp, hl])
      · exact attemptsHead_pushTimeout (serves_of_Serves hs) hq (by simpa [QEntry.pushExpired, hp, ht] using hw)
      · exact ends_vpushDelivery_idle hq (by rcases hi with hi | hi <;> simp [hi])
      · exact ends_pushTimeout_idle hq (by rcases hi with hi | hi <;> simp [QEntry.pushExpired, hi])
  · intro l last g cs hn h hc
    obtain ⟨x, hx, rfl, rfl⟩ := arbitrate_weighted h hc
    obtain ⟨y, hy, hyw, rfl⟩ := mem_raised.1 (largest_mem hx)
    refine ⟨⟨y, hy, rfl, hyw, fun z hz hzw => le_largest hx _ (mem_raised.2 ⟨z, hz, hzw, rfl⟩)⟩, ?_⟩
    rw [← List.sum_eq_foldl, ← List.sum_eq_foldl, List.map_map]
    exact sum_arbitrated (largest_mem hx) hn
  · intro s hu k
    refine ⟨?_, ?_, ?_, ?_, ?_⟩
    · intro h
      rw [exec_vectorSliceEnd hu, State.vectorChoice_idle h]
    · intro i q l hi hr hj hw hq
      refine ⟨fun hp => ?_, fun hp hc => ?_⟩
      · exact ⟨_, exec_vectorSliceEnd hu, State.vectorChoice_single hi hr hj hw ▸ State.slice_frame hq hp⟩
      · unfold AttemptsAfter
        have hv : ((s.updHartN (k * 16 + i) id).switchTo (k * 16 + i)).hart.vq = q :: l := by simp [State.getHart_updHartN, hq]
        rw [exec_vectorSliceEnd hu, State.vectorChoice_single hi hr hj hw]
        simp [State.onHart, State.takeSlice_cons hv, hp, Nat.not_lt.2 hc]
    · intro he h
      rw [exec_matrixOperationEnd hu, State.matrixChoice_idle he h]
    · intro i h hi he hm hr hj hw
      exact .of_operate (by rw [exec_matrixOperationEnd hu, State.matrixChoice_single hi he hm hr hj hw])
    · intro h he hs
      exact .of_operate (by rw [exec_matrixOperationEnd hu, State.matrixChoice_held he hs])

end Sys2Proof.Machine
end

section
/-! SUPPORT. A register vector instruction over memory that is not in canonical form (spec/09 R240). -/
namespace Sys2Proof.Machine
set_option Elab.async false

/-- A supervisor's hart with a vector configuration that fits its share, over memory out of its canonical form: the byte that
holds the first bits of p1 stands before byte 0 of the device, which is outside the share. -/
def State.unsorted : State :=
  { State.reset with
    hart := { Hart.reset with
      sup := true
      grant := { Hart.reset.grant with vsz := 1#10 }
      vec := { Hart.reset.vec with ill := false, b := 128, vl := 1#14, vrows := 1#4 } }
    m := { State.reset.m with mem := [(0x21000000000 + 72, 1#8), (0, 7#8)] } }

theorem State.vecReady_unsorted : VecReady .unsorted (.pset 1#5 0#5) :=
  ⟨rfl, rfl, rfl, ⟨by decide, by decide, by decide, by decide, by decide, by decide, by decide⟩, rfl⟩

/-- The bit of p1 that `pset` clears. -/
theorem State.runEntry_unsorted : runEntry (State.unsorted.qentry (.pset 1#5 0#5)) .unsorted =
    .ok () (State.unsorted.putPbits State.unsorted.hart.vec 1#5 [((0, 0), false)]) := rfl

/-- Clearing the bit leaves its byte as unlisted storage reads, so its cell is dropped. -/
theorem State.mem_putPbits_unsorted :
    (State.unsorted.putPbits State.unsorted.hart.vec 1#5 [((0, 0), false)]).m.mem = [(0, 7#8)] := by decide

theorem State.pset_unsorted : exec (.pset 1#5 0#5) .unsorted =
    .next (State.unsorted.putPbits State.unsorted.hart.vec 1#5 [((0, 0), false)]).clearStart.advance := by
  obtain ⟨hu, -, -, -, hc⟩ := State.vecReady_unsorted
  rw [exec_of_isVectorRegister rfl]
  exact issue_completes hc hu State.runEntry_unsorted

/-- Byte 0, which the first cell hid. -/
theorem State.read_unsorted : OutsideShare .unsorted 0 ∧ Mem.read State.unsorted.m.mem 0 = none ∧ Mem.read [(0, 7#8)] 0 = some 7#8 :=
  ⟨.inl (by decide), rfl, rfl⟩

/-- Refutes O29: no hypothesis says that memory is in canonical form, and in memory that is not, a write inside the share may
uncover a cell outside it: `pset` drops the cell of its own byte, which stood before that of byte 0. -/
theorem not_vectorInstructionsStayInTheirShare : ¬ Obligations.VectorInstructionsStayInTheirShare := by
  unfold Obligations.VectorInstructionsStayInTheirShare
  intro h
  obtain ⟨t, ht, -, -, -, -, -, -, hmem, -⟩ := h .unsorted (.pset 1#5 0#5) rfl State.vecReady_unsorted
  obtain ⟨hout, hbefore, hafter⟩ := State.read_unsorted
  have hread := hmem 0 hout
  rw [State.pset_unsorted] at ht
  cases ht
  have hlist : (State.unsorted.putPbits State.unsorted.hart.vec 1#5 [((0, 0), false)]).clearStart.advance.m.mem = [(0, 7#8)] :=
    State.mem_putPbits_unsorted
  rw [hlist, hbefore, hafter] at hread
  cases hread

end Sys2Proof.Machine
end

section
/-! SUPPORT. The channel controllers (Machine/Hbm.lean): what each operation makes of the channel it names, and what it leaves. -/
namespace Sys2Proof.Machine
set_option Elab.async false

/-- A step ends in the state that its operation is equal to. -/
theorem Ends.of_step {i : Instr} {s t u : State} {p : State → Prop} (he : exec i s = .next t) (ht : t = u) (hp : p u) : Ends i s p :=
  ⟨u, ht ▸ he, hp⟩

/-! ### Channels and banks -/

@[simp] theorem State.updChannel_eq (s : State) (key : Nat) (g : Channel → Channel) :
    s.updChannel key g = s.setChannel key (g (s.channel key)) := rfl

@[simp] theorem State.setChannel_setChannel (s : State) (key : Nat) (v w : Channel) :
    (s.setChannel key v).setChannel key w = s.setChannel key w := by
  simp [State.setChannel, State.updMem, SMap.set_set]

@[simp] theorem State.channel_after (s : State) (l : List (Instr × Msg)) (k : Nat) : (s.after l).channel k = s.channel k := rfl
@[simp] theorem State.slice_after (s : State) (l : List (Instr × Msg)) (k : Nat) : (s.after l).slice k = s.slice k := rfl

@[simp] theorem State.isPoisoned_setChannel (s : State) (key ln : Nat) (v : Channel) : (s.setChannel key v).isPoisoned ln = s.isPoisoned ln := rfl
@[simp] theorem State.hbmPa_setChannel (s : State) (key la : Nat) (v : Channel) : (s.setChannel key v).hbmPa la = s.hbmPa la := rfl

@[simp] theorem State.after_after (s : State) (l m : List (Instr × Msg)) : (s.after l).after m = s.after (l ++ m) := by
  simp [State.after]

@[simp] theorem Channel.bank_updBank_same (c : Channel) (b : Nat) (g : Bank → Bank) : (c.updBank b g).bank b = g (c.bank b) :=
  SMap.get_set_same ..

theorem Channel.bank_updBank_other (c : Channel) {b k : Nat} (g : Bank → Bank) (h : k ≠ b) : (c.updBank b g).bank k = c.bank k :=
  SMap.get_set_other _ _ _ _ _ h

theorem Channel.updBank_updBank (c : Channel) (b : Nat) (f g : Bank → Bank) :
    (c.updBank b f).updBank b g = c.updBank b fun x => g (f x) := by
  simp [Channel.updBank, Channel.bank, SMap.set_set, SMap.get_set_same]

theorem Channel.updBank_alerts (c : Channel) (n : BitVec 32) (b : Nat) (g : Bank → Bank) :
    Channel.updBank { c with alerts := n } b g = { c.updBank b g with alerts := n } := rfl

/-! ### Refreshes and alerts of a bank (spec/02 R59, R60) -/

theorem State.blockBank_eq (s : State) (key b : Nat) :
    s.blockBank key b = (s.setChannel key ((s.channel key).updBank b fun x => { x with blocked := true, openRow := none })).after
      [(.bankBlockEnd, bankMsg key b)] := rfl

theorem State.payOne_eq (s : State) (key b : Nat) :
    s.payOne key b = (s.setChannel key ((s.channel key).updBank b fun x =>
      { x with owed := x.owed - 1, blocked := true, openRow := none })).after [(.bankBlockEnd, bankMsg key b)] := by
  simp [State.payOne, State.blockBank_eq, Channel.updBank_updBank]

theorem State.serveAlert_eq (s : State) (key b : Nat) :
    s.serveAlert key b = (s.setChannel key { (s.channel key).updBank b fun x =>
        { x with owed := if 8 ≤ x.owed then 0 else x.owed, alerts := x.alerts - 1, blocked := true, openRow := none } with
      alerts := (s.channel key).alerts + 1#32 }).after [(.bankBlockEnd, bankMsg key b)] := by
  rw [State.serveAlert, State.blockBank_eq, State.updChannel_eq, State.channel_setChannel_same, State.setChannel_setChannel,
    Channel.updBank_alerts, Channel.updBank_updBank]

/-! ### Issue (spec/02 R52, R53) -/

theorem exec_hbmIssue {s : State} {key : Nat} (hk : s.msg.channel = key) : exec .hbmIssue s = .next (s.hbmIssue key) := hk ▸ rfl

theorem Channel.choice_idle {c : Channel} (h : c.busy = true ∨ c.ready = []) : c.choice = none := by
  rcases h with h | h <;> simp [Channel.choice, h]

/-- Row hits first, then oldest first. -/
theorem Channel.choice_of_ready {c : Channel} {r : HbmReq} {l m : List HbmReq} (hb : c.busy = false) (hr : c.ready = l ++ r :: m)
    (h : (∀ x ∈ l, c.rowHit x = false) ∧ c.rowHit r = true ∨ (l = [] ∧ ∀ x ∈ c.ready, c.rowHit x = false)) : c.choice = some r := by
  unfold Channel.choice
  rw [if_neg (by simp [hb])]
  rcases h with ⟨hl, hit⟩ | ⟨rfl, hmiss⟩
  · have hf : c.ready.find? c.rowHit = some r := by
      rw [hr, List.find?_append, List.find?_eq_none.2 (by simpa using hl), List.find?_cons_of_pos hit]
      rfl
    rw [hf]
    rfl
  · have hf : c.ready.find? c.rowHit = none := List.find?_eq_none.2 (by simpa using hmiss)
    rw [hf, hr]
    rfl

theorem State.hbmIssue_idle {s : State} {key : Nat} (h : (s.channel key).choice = none) : s.hbmIssue key = s := by
  simp [State.hbmIssue, h]

theorem State.hbmIssue_choice {s : State} {key : Nat} {r : HbmReq} (h : (s.channel key).choice = some r)
    (ho : ((s.channel key).bank r.bank).owed < 8) :
    s.hbmIssue key = s.setChannel key
      { (s.channel key).updBank r.bank fun x => { x with openRow := some r.row } with
        queue := (s.channel key).queue.erase r
        inFlight := (s.channel key).inFlight ++ [r] } := by
  simp [State.hbmIssue, h, Nat.not_le.2 ho]

theorem State.hbmIssue_refreshes {s : State} {key : Nat} {r : HbmReq} (h : (s.channel key).choice = some r)
    (ho : 8 ≤ ((s.channel key).bank r.bank).owed) : s.hbmIssue key = s.payOne key r.bank := by
  simp [State.hbmIssue, h, ho]

/-! ### The end of a fetch (spec/02 R61, spec/03 R77) -/

theorem State.lines_retryWaiting (s : State) (j k : Nat) : ((s.retryWaiting j).slice k).lines = (s.slice k).lines := by
  unfold State.retryWaiting
  by_cases h : k = j
  · subst h; simp
  · simp [State.slice_setSlice_other _ _ _ _ h]

theorem State.lines_foldl_retryWaiting (l : List Nat) (s : State) (k : Nat) :
    ((l.foldl (·.retryWaiting) s).slice k).lines = (s.slice k).lines := by
  induction l generalizing s with
  | nil => rfl
  | cons j l ih => rw [List.foldl_cons, ih, State.lines_retryWaiting]

/-- Main memory without its slices. -/
def MemState.withoutSlices (m : MemState) : MemState := { m with slices := [] }
@[simp] theorem MemState.withoutSlices_mem (m : MemState) : m.withoutSlices.mem = m.mem := rfl
@[simp] theorem MemState.withoutSlices_channels (m : MemState) : m.withoutSlices.channels = m.channels := rfl
@[simp] theorem MemState.withoutSlices_poisoned (m : MemState) : m.withoutSlices.poisoned = m.poisoned := rfl

theorem State.withoutSlices_setSlice (s : State) (k : Nat) (v : SliceState) : (s.setSlice k v).m.withoutSlices = s.m.withoutSlices := rfl
theorem State.withoutSlices_retryWaiting (s : State) (k : Nat) : (s.retryWaiting k).m.withoutSlices = s.m.withoutSlices := rfl

theorem State.withoutSlices_foldl_retryWaiting (l : List Nat) (s : State) :
    (l.foldl (·.retryWaiting) s).m.withoutSlices = s.m.withoutSlices := by
  induction l generalizing s with
  | nil => rfl
  | cons j l ih => exact (ih _).trans (s.withoutSlices_retryWaiting j)

theorem State.withoutSlices_endRlcFill (s : State) (slot ln : Nat) : (s.endRlcFill slot ln).m.withoutSlices = s.m.withoutSlices := by
  unfold State.endRlcFill
  split
  exact State.withoutSlices_foldl_retryWaiting ..

@[simp] theorem SliceLine.rlcFilled_fill (x : SliceLine) (keep : BitVec 16) (d : List Byte) (p : Bool) : (x.rlcFilled keep d p).fill = false := by
  unfold SliceLine.rlcFilled; split <;> rfl
@[simp] theorem SliceLine.rlcFilled_rlc (x : SliceLine) (keep : BitVec 16) (d : List Byte) (p : Bool) : (x.rlcFilled keep d p).rlc = x.rlc := by
  unfold SliceLine.rlcFilled; split <;> rfl

/-- The lines of a slice once the RLC lines that wait for a home line are filled. -/
theorem State.lines_endRlcFill (s : State) (slot ln k : Nat) : ∃ keep d p,
    ((s.endRlcFill slot ln).slice k).lines =
      (s.slice k).lines.map fun x => if (decide (x.line = ln) && x.fill && x.rlc) = true then x.rlcFilled keep d p else x := by
  unfold State.endRlcFill
  split
  next d p _ =>
  refine ⟨s.rlcKeep (k / 16) ln, d, p, ?_⟩
  rw [State.lines_foldl_retryWaiting]
  have hmap := SMap.get_map (β := SliceState) SliceState.reset
    (fun n (t : SliceState) => { t with
      lines := t.lines.map fun x =>
        if (decide (x.line = ln) && x.fill && x.rlc) = true then x.rlcFilled (s.rlcKeep (n / 16) ln) d p else x })
    s.m.slices k .reset rfl
  exact congrArg SliceState.lines hmap

/-- No RLC line waits for the home line any more, and the home lines are as they were. -/
theorem State.fill_endRlcFill {s : State} {slot ln k : Nat} {x : SliceLine} (hx : x ∈ ((s.endRlcFill slot ln).slice k).lines) :
    (x.line = ln → x.rlc = true → x.fill = false) ∧ (x.rlc = false → x ∈ (s.slice k).lines) := by
  obtain ⟨keep, d, p, h⟩ := s.lines_endRlcFill slot ln k
  rw [h] at hx
  obtain ⟨y, hy, hyx⟩ := List.mem_map.1 hx
  by_cases hw : (decide (y.line = ln) && y.fill && y.rlc) = true
  · rw [if_pos hw] at hyx
    subst hyx
    simp only [Bool.and_eq_true, decide_eq_true_eq] at hw
    exact ⟨fun _ _ => by simp, fun hr => by simp [hw.2] at hr⟩
  · rw [if_neg hw] at hyx
    subst hyx
    exact ⟨fun hl hr => by simpa [hl, hr] using hw, fun _ => hy⟩

theorem State.mergeUnder_of_not {s : State} {ln : Nat} (h : s.underPoison ln = false) : s.mergeUnder ln = s := by
  simp [State.mergeUnder, h]

/-- The end of a fetch changes the slices, and poisons a line whose own copy in HBM is poisoned. -/
theorem State.withoutSlices_endFetch (s : State) (pa slot : Nat) :
    (s.endFetch pa slot).m.withoutSlices = s.m.withoutSlices ∨
      (s.endFetch pa slot).m.withoutSlices = (s.mergeUnder (pa / 64)).m.withoutSlices := by
  unfold State.endFetch
  extract_lets ln k u t v
  rw [State.withoutSlices_retryWaiting, State.withoutSlices_endRlcFill, show v = u.setSlice k _ from rfl, State.withoutSlices_setSlice]
  unfold u
  split
  · exact .inr rfl
  · exact .inl rfl

@[simp] theorem State.channels_mergeUnder (s : State) (ln : Nat) : (s.mergeUnder ln).m.channels = s.m.channels := by
  unfold State.mergeUnder; split <;> rfl
@[simp] theorem State.mem_mergeUnder (s : State) (ln : Nat) : (s.mergeUnder ln).m.mem = s.m.mem := by
  unfold State.mergeUnder; split <;> rfl

@[simp] theorem State.channel_endFetch (s : State) (pa slot key : Nat) : (s.endFetch pa slot).channel key = s.channel key := by
  have h : (s.endFetch pa slot).m.channels = s.m.channels := by
    rcases s.withoutSlices_endFetch pa slot with h | h <;> simpa using congrArg MemState.channels h
  simp [State.channel, h]

@[simp] theorem State.mem_endFetch (s : State) (pa slot : Nat) : (s.endFetch pa slot).m.mem = s.m.mem := by
  rcases s.withoutSlices_endFetch pa slot with h | h <;> simpa using congrArg MemState.mem h

theorem State.poisoned_endFetch {s : State} {pa : Nat} (slot : Nat) (hu : s.underPoison (pa / 64) = false) :
    (s.endFetch pa slot).m.poisoned = s.m.poisoned := by
  have h := s.withoutSlices_endFetch pa slot
  rw [State.mergeUnder_of_not hu, or_self] at h
  simpa using congrArg MemState.poisoned h

theorem State.isPoisoned_endFetch {s : State} {pa : Nat} (slot : Nat) (hu : s.underPoison (pa / 64) = false) (ln : Nat) :
    (s.endFetch pa slot).isPoisoned ln = s.isPoisoned ln := by
  rw [State.isPoisoned, State.poisoned_endFetch slot hu, State.isPoisoned]

/-- No slice waits for the line any more: neither its home slice nor an RLC slice. -/
theorem State.fill_endFetch {s : State} {pa slot k : Nat} {x : SliceLine} (hx : x ∈ ((s.endFetch pa slot).slice k).lines)
    (hl : x.line = pa / 64) (hk : k = s.homeKey pa ∨ x.rlc = true) : x.fill = false := by
  unfold State.endFetch at hx
  extract_lets ln j u t v at hx
  rw [State.lines_retryWaiting] at hx
  obtain ⟨hrlc, hhome⟩ := State.fill_endRlcFill hx
  by_cases hr : x.rlc = true
  · exact hrlc hl hr
  have hr' : x.rlc = false := by simpa using hr
  obtain rfl : k = j := hk.resolve_right hr
  have hv : (v.slice j).lines = t.lines.map fun x =>
      if x.line = ln ∧ x.fill = true ∧ x.rlc = false then x.filled (u.isPoisoned ln) else x :=
    congrArg SliceState.lines (State.slice_setSlice_same ..)
  have hy := hhome hr'
  rw [hv] at hy
  obtain ⟨y, -, rfl⟩ := List.mem_map.1 hy
  split
  · rfl
  · next h =>
    rw [if_neg h] at hl hr'
    simpa [show y.line = ln from hl, hr'] using h

/-- A rate switch that waits for the last command of its channel changes nothing but what happens next. -/
@[simp] theorem State.m_switchGoes (s : State) (key : Nat) : (s.switchGoes key).m = s.m := by
  unfold State.switchGoes; dsimp only; split <;> rfl

@[simp] theorem State.channel_switchGoes (s : State) (key k : Nat) : (s.switchGoes key).channel k = s.channel k := by simp [State.channel]
@[simp] theorem State.slice_switchGoes (s : State) (key k : Nat) : (s.switchGoes key).slice k = s.slice k := by simp [State.slice]

@[simp] theorem State.isPoisoned_switchGoes (s : State) (key ln : Nat) : (s.switchGoes key).isPoisoned ln = s.isPoisoned ln := by
  simp [State.isPoisoned]

/-! ### Counted reads and lasting faults (spec/02 R62, spec/21 R476) -/

@[simp] theorem State.m_postEvent (s : State) (src : Nat) (kind : BitVec 8) (detail : Word) (ctxid : BitVec 16) (fofs : BitVec 8)
    (hart : BitVec 27) : (s.postEvent src kind detail ctxid fofs hart).m = s.m := by
  unfold State.postEvent; dsimp only; split <;> rfl
@[simp] theorem State.fab_postEvent (s : State) (src : Nat) (kind : BitVec 8) (detail : Word) (ctxid : BitVec 16) (fofs : BitVec 8)
    (hart : BitVec 27) : (s.postEvent src kind detail ctxid fofs hart).fab = s.fab := by
  unfold State.postEvent; dsimp only; split <;> rfl

@[simp] theorem State.channel_postEvent (s : State) (src : Nat) (kind : BitVec 8) (detail : Word) (ctxid : BitVec 16) (fofs : BitVec 8)
    (hart : BitVec 27) (key : Nat) : (s.postEvent src kind detail ctxid fofs hart).channel key = s.channel key := by
  simp [State.channel]

theorem State.homeKey_congr {s t : State} (h : t.fab = s.fab) (pa : Nat) : t.homeKey pa = s.homeKey pa := by
  simp [State.homeKey, h]
theorem State.underPoison_congr {s t : State} (h : t.m.under = s.m.under) (ln : Nat) : t.underPoison ln = s.underPoison ln := by
  simp [State.underPoison, h]

/-- Main memory without its channels. -/
def MemState.withoutChannels (m : MemState) : MemState := { m with channels := [] }
@[simp] theorem MemState.withoutChannels_mem (m : MemState) : m.withoutChannels.mem = m.mem := rfl
@[simp] theorem MemState.withoutChannels_poisoned (m : MemState) : m.withoutChannels.poisoned = m.poisoned := rfl
@[simp] theorem MemState.withoutChannels_under (m : MemState) : m.withoutChannels.under = m.under := rfl

/-- `t` has a channel in which nothing of `c` differs but its spares and the logs of its lanes; nothing else of its memory and its fabrics
differs from `s`. -/
structure State.Counted (s t : State) (key : Nat) (c : Channel) : Prop where
  chan : ∃ sp cl tl, t.channel key = { c with spared := sp, corrLog := cl, transLog := tl }
  rest : t.m.withoutChannels = s.m.withoutChannels
  fab : t.fab = s.fab

theorem State.Counted.mem {s t : State} {key : Nat} {c : Channel} (h : s.Counted t key c) : t.m.mem = s.m.mem := by
  simpa using congrArg MemState.mem h.rest
theorem State.Counted.poisoned {s t : State} {key : Nat} {c : Channel} (h : s.Counted t key c) : t.m.poisoned = s.m.poisoned := by
  simpa using congrArg MemState.poisoned h.rest
theorem State.Counted.under {s t : State} {key : Nat} {c : Channel} (h : s.Counted t key c) : t.m.under = s.m.under := by
  simpa using congrArg MemState.under h.rest

/-- A spare may be taken; the counts stay. -/
theorem State.counted_spareCheck (s : State) (key lane : Nat) (v : Channel) : s.Counted ((s.setChannel key v).spareCheck key lane) key v := by
  unfold State.spareCheck
  rw [State.channel_setChannel_same]
  dsimp only
  split
  · refine ⟨?_, ?_, ?_⟩
    · rw [State.channel_postEvent, State.updChannel_eq, State.channel_setChannel_same, State.channel_setChannel_same]
      exact ⟨_, _, _, rfl⟩
    · rw [State.m_postEvent]; rfl
    · rw [State.fab_postEvent]; rfl
  · exact ⟨⟨_, _, _, State.channel_setChannel_same ..⟩, rfl, rfl⟩

theorem State.counted_countCorrected (s : State) (key lane : Nat) :
    s.Counted (s.countCorrected key lane) key { s.channel key with corr := satCount (s.channel key).corr } := by
  obtain ⟨⟨sp, cl, tl, h⟩, hr, hf⟩ := s.counted_spareCheck key lane
    { s.channel key with corr := satCount (s.channel key).corr, corrLog := (lane, s.time) :: (s.channel key).corrLog }
  exact ⟨⟨sp, cl, tl, h⟩, hr, hf⟩

theorem State.counted_countTransient (s : State) (key lane : Nat) :
    s.Counted (s.countTransient key lane) key { s.channel key with trans := satCount (s.channel key).trans } := by
  obtain ⟨⟨sp, cl, tl, h⟩, hr, hf⟩ := s.counted_spareCheck key lane
    { s.channel key with trans := satCount (s.channel key).trans, transLog := (lane, s.time) :: (s.channel key).transLog }
  exact ⟨⟨sp, cl, tl, h⟩, hr, hf⟩

theorem mem_natInsert_self (n : Nat) (l : List Nat) : n ∈ natInsert n l := by
  induction l with
  | nil => simp [natInsert]
  | cons k l ih =>
    unfold natInsert
    split
    · simp
    · split
      · next h => simp [h]
      · simp [ih]

/-- The channel of a line's address, as the die records it. -/
def channelKey (pa : Nat) : Nat := dieOf (laOf pa) * 32 + channelOf (laOf pa)

theorem State.m_lastingFault (s : State) (pa : Nat) :
    (s.lastingFault pa).m = { (s.setChannel (channelKey pa) { s.channel (channelKey pa) with
        last := satCount (s.channel (channelKey pa)).last, poisValid := true, poisLine := BitVec.ofNat 36 (laOf pa / 64) }).m with
      poisoned := natInsert (pa / 64) s.m.poisoned } := by
  unfold State.lastingFault
  rw [State.m_postEvent]
  simp only [satCount, beq_iff_eq]
  rfl

theorem State.isPoisoned_lastingFault (s : State) (pa : Nat) : (s.lastingFault pa).isPoisoned (pa / 64) = true := by
  simp [State.isPoisoned, State.m_lastingFault, mem_natInsert_self]

theorem State.channel_lastingFault (s : State) (pa : Nat) : (s.lastingFault pa).channel (channelKey pa) = { s.channel (channelKey pa) with
    last := satCount (s.channel (channelKey pa)).last, poisValid := true, poisLine := BitVec.ofNat 36 (laOf pa / 64) } := by
  unfold State.channel
  rw [State.m_lastingFault]
  exact SMap.get_set_same ..

theorem State.mem_lastingFault (s : State) (pa : Nat) : (s.lastingFault pa).m.mem = s.m.mem := by rw [State.m_lastingFault]; rfl
theorem State.under_lastingFault (s : State) (pa : Nat) : (s.lastingFault pa).m.under = s.m.under := by rw [State.m_lastingFault]; rfl

/-! ### Data returns and retries (spec/02 R61, R62) -/

theorem exec_hbmDataReturn {s : State} {key : Nat} (hk : s.msg.channel = key) :
    exec .hbmDataReturn s = .next (s.hbmReturn key s.msg.kind.toNat s.msg.unit.toNat) := hk ▸ rfl
theorem exec_hbmReadRetry {s : State} {key : Nat} (hk : s.msg.channel = key) :
    exec .hbmReadRetry s = .next (s.hbmRetry key s.msg.kind.toNat s.msg.unit.toNat) := hk ▸ rfl

section
variable {s : State} {key dec lane : Nat} {r : HbmReq} {l : List HbmReq}

theorem State.hbmReturn_done (h : (s.channel key).inFlight = r :: l)
    (hd : r.write = true ∨ s.isPoisoned (s.hbmPa r.la / 64) = true ∨ dec = 0) :
    s.hbmReturn key dec lane =
      ((s.setChannel key { s.channel key with inFlight := l }).endFetch (s.hbmPa r.la) r.slot).switchGoes key := by
  simp only [State.hbmReturn, h]
  split
  · rfl
  · next hn => exact absurd hd (by simpa [and_assoc] using hn)

/-- A read that neither is poisoned nor returns clean. -/
theorem State.hbmReturn_erred (h : (s.channel key).inFlight = r :: l) (hw : r.write = false)
    (hp : s.isPoisoned (s.hbmPa r.la / 64) = false) (hd : dec ≠ 0) :
    let t := s.setChannel key { s.channel key with inFlight := l }
    s.hbmReturn key dec lane =
      if dec = 1 then ((t.countCorrected key lane).endFetch (s.hbmPa r.la) r.slot).switchGoes key
      else t.updChannel key fun c => { c with retry := c.retry ++ [r] } := by
  simp only [State.hbmReturn, h]
  split
  · next hn => simp [hw, hp, hd] at hn
  · rfl

theorem State.hbmReturn_corrected (h : (s.channel key).inFlight = r :: l) (hw : r.write = false)
    (hp : s.isPoisoned (s.hbmPa r.la / 64) = false) :
    s.hbmReturn key 1 lane =
      (((s.setChannel key { s.channel key with inFlight := l }).countCorrected key lane).endFetch (s.hbmPa r.la) r.slot).switchGoes key := by
  rw [State.hbmReturn_erred h hw hp Nat.one_ne_zero, if_pos rfl]

theorem State.hbmReturn_failed (h : (s.channel key).inFlight = r :: l) (hw : r.write = false)
    (hp : s.isPoisoned (s.hbmPa r.la / 64) = false) (hd : 2 ≤ dec) :
    s.hbmReturn key dec lane = s.setChannel key { s.channel key with inFlight := l, retry := (s.channel key).retry ++ [r] } := by
  rw [State.hbmReturn_erred h hw hp (by omega), if_neg (by omega), State.updChannel_eq, State.channel_setChannel_same,
    State.setChannel_setChannel]

theorem State.hbmRetry_waits (h : (s.channel key).retry = r :: l)
    (hb : ((s.channel key).bank r.bank).blocked = true ∨ ((s.channel key).busy = false ∧ ((s.channel key).bank r.bank).alerts ≠ 0)) :
    s.hbmRetry key dec lane = s.after [(.hbmReadRetry, s.msg)] := by
  simp only [State.hbmRetry, h]
  rw [if_pos (by simpa [Nat.pos_iff_ne_zero] using hb)]

/-- The bank of the retry is neither blocked nor has an alert to serve first. -/
def Channel.retryReady (c : Channel) (r : HbmReq) : Prop := (c.bank r.bank).blocked = false ∧ (c.busy = true ∨ (c.bank r.bank).alerts = 0)

theorem Channel.retryReady.not_waits {c : Channel} (h : c.retryReady r) :
    ¬ ((c.bank r.bank).blocked || (!c.busy && decide (0 < (c.bank r.bank).alerts))) = true := by
  obtain ⟨hb, ha⟩ := h
  rcases ha with ha | ha <;> simp [hb, ha]

theorem State.hbmRetry_refreshes (h : (s.channel key).retry = r :: l) (hr : (s.channel key).retryReady r)
    (ho : 8 ≤ ((s.channel key).bank r.bank).owed) :
    s.hbmRetry key dec lane = (s.payOne key r.bank).after [(.hbmReadRetry, s.msg)] := by
  simp only [State.hbmRetry, h]
  rw [if_neg hr.not_waits, if_pos ho]

/-- The retry leaves its list, and its row is open. -/
def State.retryTaken (s : State) (key : Nat) (r : HbmReq) (l : List HbmReq) : State :=
  s.setChannel key { (s.channel key).updBank r.bank fun x => { x with openRow := some r.row } with retry := l }

theorem State.hbmRetry_goes (h : (s.channel key).retry = r :: l) (hr : (s.channel key).retryReady r)
    (ho : ((s.channel key).bank r.bank).owed < 8) (hp : s.isPoisoned (s.hbmPa r.la / 64) = false) :
    s.hbmRetry key dec lane =
      ((if dec < 2 then (s.retryTaken key r l).countTransient key lane
        else (s.retryTaken key r l).lastingFault (s.hbmPa r.la)).endFetch (s.hbmPa r.la) r.slot).switchGoes key := by
  simp only [State.hbmRetry, h, State.updChannel_eq, State.hbmPa_setChannel]
  rw [if_neg hr.not_waits, if_neg (Nat.not_le.2 ho), if_neg (by simp [hp])]
  rfl

theorem State.hbmRetry_transient (h : (s.channel key).retry = r :: l) (hr : (s.channel key).retryReady r)
    (ho : ((s.channel key).bank r.bank).owed < 8) (hp : s.isPoisoned (s.hbmPa r.la / 64) = false) (hd : dec < 2) :
    s.hbmRetry key dec lane =
      (((s.retryTaken key r l).countTransient key lane).endFetch (s.hbmPa r.la) r.slot).switchGoes key := by
  rw [State.hbmRetry_goes h hr ho hp, if_pos hd]

theorem State.hbmRetry_lasting (h : (s.channel key).retry = r :: l) (hr : (s.channel key).retryReady r)
    (ho : ((s.channel key).bank r.bank).owed < 8) (hp : s.isPoisoned (s.hbmPa r.la / 64) = false) (hd : 2 ≤ dec) :
    s.hbmRetry key dec lane =
      (((s.retryTaken key r l).lastingFault (s.hbmPa r.la)).endFetch (s.hbmPa r.la) r.slot).switchGoes key := by
  rw [State.hbmRetry_goes h hr ho hp, if_neg (Nat.not_lt.2 hd)]

theorem State.channel_retryTaken (s : State) (key : Nat) (r : HbmReq) (l : List HbmReq) : (s.retryTaken key r l).channel key =
    { (s.channel key).updBank r.bank fun x => { x with openRow := some r.row } with retry := l } := State.channel_setChannel_same ..

end

/-! ### Rows and ages (spec/02 R52, R53) -/

theorem exec_rowCloseTimeout {s : State} {key : Nat} (hk : s.msg.channel = key) :
    exec .rowCloseTimeout s = .next (s.closeRow key s.msg.bank.toNat) := hk ▸ rfl

theorem State.closeRow_named {s : State} {key b : Nat}
    (h : ∃ r ∈ (s.channel key).queue, r.bank = b ∧ ((s.channel key).bank b).openRow = some r.row) :
    s.closeRow key b = s.setChannel key (s.channel key) := by
  unfold State.closeRow
  rw [State.updChannel_eq, if_pos (by simpa using h)]

theorem State.closeRow_unnamed {s : State} {key b : Nat}
    (h : ∀ r ∈ (s.channel key).queue, ¬ (r.bank = b ∧ ((s.channel key).bank b).openRow = some r.row)) :
    s.closeRow key b = s.setChannel key ((s.channel key).updBank b fun x => { x with openRow := none }) := by
  unfold State.closeRow
  rw [State.updChannel_eq, if_neg (by simpa using h)]

theorem exec_requestAgeExpiry {s : State} {key : Nat} (hk : s.msg.channel = key) :
    exec .requestAgeExpiry s =
      .next (s.setChannel key { s.channel key with queue := ageFirst (s.msg.addr.toNat / 64) (s.channel key).queue }) := hk ▸ rfl

theorem ageFirst_append {ln : Nat} {l m : List HbmReq} {r : HbmReq} (hr : r.line = ln) (hl : ∀ x ∈ l, x.line ≠ ln) :
    ageFirst ln (l ++ r :: m) = l ++ { r with aged := true } :: m := by
  induction l with
  | nil => simp [ageFirst, hr]
  | cons x l ih =>
    rw [List.cons_append, ageFirst, if_neg (hl x (by simp)), ih fun y hy => hl y (by simp [hy])]
    rfl

/-- Settles O45: each step is one operation on the channel that its message names, and that operation's equations above give the case. -/
theorem channelRequests : Obligations.ChannelRequests := by
  unfold Obligations.ChannelRequests
  intro s key c
  have hk : s.msg.channel = key := rfl
  clear_value key
  refine ⟨fun h => ?_, fun r l m hb hr h => ⟨fun ho => ?_, fun ho => ?_⟩, fun r l h => ⟨fun hd => ?_, fun hw hp hd => ?_, fun hw hp hd => ?_⟩,
    fun r l h hb ha ho hp hu => ⟨fun hd => ?_, fun hd hkey => ?_⟩, fun r l h => ⟨fun hw => ?_, fun hb ha ho => ?_⟩,
    ⟨fun h => ?_, fun h => ?_⟩, fun l r m hq hr hl => ?_⟩
  · rw [exec_hbmIssue hk, State.hbmIssue_idle (Channel.choice_idle h)]
  · refine .of_step (exec_hbmIssue hk) (State.hbmIssue_choice (Channel.choice_of_ready hb hr h) ho) ⟨⟨rfl, rfl, rfl⟩, rfl, ?_⟩
    rw [State.channel_setChannel_same]
    exact ⟨rfl, rfl, SMap.get_set_same ..⟩
  · refine .of_step (exec_hbmIssue hk) (State.hbmIssue_refreshes (Channel.choice_of_ready hb hr h) ho) ?_
    rw [State.payOne_eq, State.channel_after, State.channel_setChannel_same]
    exact ⟨rfl, Channel.bank_updBank_same ..⟩
  · have hd' : r.write = true ∨ s.isPoisoned (s.hbmPa r.la / 64) = true ∨ s.msg.kind.toNat = 0 :=
      hd.imp_right (Or.imp_right fun h => by rw [h]; rfl)
    refine .of_step (exec_hbmDataReturn hk) (State.hbmReturn_done h hd') ⟨by simp [c], fun k x hx hl hx' => ?_, by simp⟩
    rw [State.slice_switchGoes] at hx
    exact State.fill_endFetch hx hl hx'
  · have hd' : s.msg.kind.toNat = 1 := by rw [hd]; rfl
    have hc := (s.setChannel key { c with inFlight := l }).counted_countCorrected key s.msg.unit.toNat
    obtain ⟨sp, cl, tl, hchan⟩ := hc.chan
    have hex := exec_hbmDataReturn hk
    rw [hd'] at hex
    refine .of_step hex (State.hbmReturn_corrected h hw hp) ?_
    rw [State.channel_switchGoes, State.channel_endFetch, hchan, State.channel_setChannel_same, State.m_switchGoes, State.mem_endFetch,
      hc.mem]
    refine ⟨rfl, rfl, rfl, fun k x hx hl hx' => ?_, rfl⟩
    rw [State.slice_switchGoes] at hx
    exact State.fill_endFetch hx hl (hx'.imp_left fun h => h.trans (State.homeKey_congr hc.fab _).symm)
  · exact .of_step (exec_hbmDataReturn hk) (State.hbmReturn_failed h hw hp hd) rfl
  · have hc := (s.retryTaken key r l).counted_countTransient key s.msg.unit.toNat
    obtain ⟨sp, cl, tl, hchan⟩ := hc.chan
    refine .of_step (exec_hbmReadRetry hk) (State.hbmRetry_transient h ⟨hb, ha⟩ ho hp hd) ?_
    rw [State.channel_switchGoes, State.channel_endFetch, hchan, State.channel_retryTaken, State.m_switchGoes,
      State.poisoned_endFetch _ ((State.underPoison_congr hc.under _).trans hu), hc.poisoned, State.mem_endFetch, hc.mem]
    exact ⟨rfl, rfl, rfl, rfl, rfl⟩
  · have hchan := (s.retryTaken key r l).channel_lastingFault (s.hbmPa r.la)
    rw [show channelKey (s.hbmPa r.la) = key from hkey, State.channel_retryTaken] at hchan
    have hu' : ((s.retryTaken key r l).lastingFault (s.hbmPa r.la)).underPoison (s.hbmPa r.la / 64) = false :=
      (State.underPoison_congr (State.under_lastingFault ..) _).trans hu
    refine .of_step (exec_hbmReadRetry hk) (State.hbmRetry_lasting h ⟨hb, ha⟩ ho hp hd) ?_
    rw [State.channel_switchGoes, State.channel_endFetch, hchan, State.m_switchGoes, State.mem_endFetch, State.mem_lastingFault]
    refine ⟨rfl, rfl, rfl, rfl, ?_, rfl⟩
    rw [State.isPoisoned_switchGoes, State.isPoisoned_endFetch _ hu']
    exact State.isPoisoned_lastingFault ..
  · rw [exec_hbmReadRetry hk, State.hbmRetry_waits h hw]
  · refine .of_step (exec_hbmReadRetry hk) (State.hbmRetry_refreshes h ⟨hb, ha⟩ ho) ?_
    rw [State.payOne_eq, State.after_after, State.channel_after, State.channel_setChannel_same]
    exact ⟨rfl, Channel.bank_updBank_same .., rfl⟩
  · exact .of_step (exec_rowCloseTimeout hk) (State.closeRow_named h) (State.channel_setChannel_same ..)
  · refine .of_step (exec_rowCloseTimeout hk) (State.closeRow_unnamed h) ?_
    rw [State.channel_setChannel_same]
    exact ⟨Channel.bank_updBank_same .., rfl, fun k hk => Channel.bank_updBank_other _ _ hk⟩
  · refine ⟨_, exec_requestAgeExpiry hk, ?_⟩
    rw [show (s.channel key).queue = _ from hq, ageFirst_append hr hl]

end Sys2Proof.Machine
end

section
/-! SUPPORT. Rates, refreshes, alerts, the patrol scrub and the key slots of a channel (Machine/Hbm.lean). -/
namespace Sys2Proof.Machine
set_option Elab.async false

/-! ### Rates (spec/02 R54 to R57) -/

section
variable {s : State} {key : Nat} (hk : s.msg.channel = key)
include hk

theorem exec_hcrateCeilWrite : exec .hcrateCeilWrite s = .next (s.ceilWrite key (s.msg.value.setWidth 2)) := hk ▸ rfl
theorem exec_rateSwitch : exec .rateSwitch s = .next (s.rateSwitch key) := hk ▸ rfl
theorem exec_rateSwitchComplete : exec .rateSwitchComplete s = .next (s.rateDone key) := hk ▸ rfl
theorem exec_refreshDue : exec .refreshDue s = .next (s.refreshDue key s.msg.bank.toNat) := hk ▸ rfl
theorem exec_owedRefreshPaid : exec .owedRefreshPaid s = .next (s.payOwed key s.msg.bank.toNat) := hk ▸ rfl
theorem exec_activationAlert : exec .activationAlert s = .next (s.alert key s.msg.bank.toNat) := hk ▸ rfl
theorem exec_bankBlockEnd : exec .bankBlockEnd s = .next (s.blockEnd key s.msg.bank.toNat) := hk ▸ rfl
theorem exec_keySlotLoad : exec .keySlotLoad s = .next (s.keyLoad key s.msg.station.toNat) := hk ▸ rfl

theorem exec_rateLimitChange (h : s.msg.value.toNat < 3) : exec .rateLimitChange s = .next (s.limitChange key (s.msg.value.setWidth 2)) := by
  subst hk
  exact finishEvent_ok (by simp [Nat.not_le.2 h, chanStep])

end

theorem exec_rateLimitChange_reserved {s : State} (h : 3 ≤ s.msg.value.toNat) : exec .rateLimitChange s = .next s :=
  finishEvent_ok (by simp [h])

theorem exec_temperatureReport (s : State) :
    exec .temperatureReport s = .next (s.updMem fun m => { m with hot := m.hot.set s.msg.die.toNat s.msg.flag }) := rfl

theorem exec_patrolScrubRead {s : State} (h : isHbm s.msg.addr.toNat = true) : exec .patrolScrubRead s =
    .next (s.scrubRead s.msg.addr.toNat s.msg.kind.toNat s.msg.unit.toNat s.msg.flag) :=
  finishEvent_ok (by simp [h])

@[simp] theorem State.after_nil (s : State) : s.after [] = s := by
  simp [State.after]

theorem State.ite_after (s : State) (p : Prop) [Decidable p] (l : List (Instr × Msg)) :
    (if p then s.after l else s) = s.after (if p then l else []) := by
  split
  · rfl
  · exact s.after_nil.symm

/-- A change of the wanted rate sends RATE_SWITCH, unless one is in progress. -/
theorem State.rateCheck_setChannel (s : State) (key : Nat) (v : Channel) : (s.setChannel key v).rateCheck key =
    (s.setChannel key v).after (if v.wanted ≠ v.cur ∧ v.busy = false then [(.rateSwitch, chanMsg key)] else []) := by
  unfold State.rateCheck
  rw [State.channel_setChannel_same]
  exact State.ite_after ..

/-- A stalled channel whose commands are all finished sends RATE_SWITCH_COMPLETE. -/
theorem State.switchGoes_setChannel (s : State) (key : Nat) {v : Channel} (hv : v.busy = true) : (s.setChannel key v).switchGoes key =
    (s.setChannel key v).after (if v.quiet = true then [(.rateSwitchComplete, chanMsg key)] else []) := by
  unfold State.switchGoes
  rw [State.channel_setChannel_same]
  dsimp only
  rw [hv, Bool.true_and]
  exact State.ite_after ..

theorem State.ceilWrite_reserved (s : State) (key : Nat) : s.ceilWrite key 3#2 = s := if_pos rfl

theorem State.ceilWrite_eq {s : State} {key : Nat} {v : BitVec 2} (hv : v ≠ 3#2) :
    s.ceilWrite key v = (s.setChannel key { s.channel key with ceil := v }).rateCheck key := if_neg hv

theorem State.rateSwitch_idle {s : State} {key : Nat} (h : (s.channel key).busy = true ∨ (s.channel key).wanted = (s.channel key).cur) :
    s.rateSwitch key = s := if_pos h

theorem State.rateSwitch_eq {s : State} {key : Nat} (hb : (s.channel key).busy = false) (hw : (s.channel key).wanted ≠ (s.channel key).cur) :
    s.rateSwitch key =
      (s.setChannel key { s.channel key with busy := true, goal := (s.channel key).wanted }).switchGoes key :=
  if_neg (by simp [hb, hw])

/-- The channel once a rate switch has ended: the owed refreshes are paid, every bank is closed, and the new rate holds. -/
def Channel.switched (c : Channel) : Channel :=
  { c with busy := false, cur := c.goal, banks := c.banks.map fun b => (b.1, { b.2 with owed := 0, openRow := none }) }

theorem State.rateDone_waits {s : State} {key : Nat} (h : (s.channel key).quiet = false) : s.rateDone key = s := by
  simp [State.rateDone, h]

theorem Channel.quiet_iff {c : Channel} : c.quiet = true ↔ c.inFlight = [] ∧ c.retry = [] ∧ ∀ k ∈ c.banks, k.2.blocked = false := by
  simp [Channel.quiet, and_assoc]

/-- Where no bank has latched an alert, the switch serves none as it ends. -/
theorem State.rateDone_eq {s : State} {key : Nat} (hb : (s.channel key).busy = true) (hq : (s.channel key).quiet = true)
    (ha : ∀ k ∈ (s.channel key).banks, k.2.alerts = 0) :
    s.rateDone key = (s.setChannel key (s.channel key).switched).rateCheck key := by
  have hnone : (s.channel key).switched.banks.filter (fun b => decide (0 < b.2.alerts)) = [] := by
    refine List.filter_eq_nil_iff.2 fun y hy => ?_
    obtain ⟨x, hx, rfl⟩ := List.mem_map.1 hy
    simp [ha x hx]
  unfold State.rateDone
  dsimp only
  rw [if_pos (by simp [hb, hq]), State.updChannel_eq, State.channel_setChannel_same]
  dsimp only [Channel.switched] at hnone ⊢
  rw [hnone, List.foldl_nil]

/-! ### Refreshes (spec/02 R59) -/

section
variable {s : State} {key b : Nat}

theorem State.refreshDue_postponed
    (h : (s.channel key).busy = true ∨ (s.channel key).wants b = true ∨ ((s.channel key).bank b).blocked = true)
    (ho : ((s.channel key).bank b).owed < 8) :
    s.refreshDue key b = s.setChannel key ((s.channel key).updBank b fun x => { x with owed := x.owed + 1 }) :=
  if_pos (by simpa [ho, or_assoc] using h)

theorem State.refreshDue_again (h : (s.channel key).busy = true ∨ ((s.channel key).bank b).blocked = true)
    (ho : 8 ≤ ((s.channel key).bank b).owed) : s.refreshDue key b = s.after [(.refreshDue, bankMsg key b)] := by
  unfold State.refreshDue
  dsimp only
  rw [if_neg (by simp [Nat.not_lt.2 ho]), if_pos (by simpa using h)]

theorem State.refreshDue_issued (hb : (s.channel key).busy = false) (hx : ((s.channel key).bank b).blocked = false)
    (h : (s.channel key).wants b = false ∨ 8 ≤ ((s.channel key).bank b).owed) : s.refreshDue key b = s.blockBank key b := by
  unfold State.refreshDue
  dsimp only
  rw [if_neg, if_neg (by simp [hb, hx])]
  rcases h with h | h
  · simp [hb, hx, h]
  · simp [Nat.not_lt.2 h]

theorem State.payOwed_eq (hb : (s.channel key).busy = false) (hw : (s.channel key).wants b = false)
    (hx : ((s.channel key).bank b).blocked = false) (ho : ((s.channel key).bank b).owed ≠ 0) :
    s.payOwed key b = (s.setChannel key ((s.channel key).updBank b fun x =>
      { x with owed := 0, blocked := true, openRow := none })).after [(.bankBlockEnd, bankMsg key b)] := by
  unfold State.payOwed
  dsimp only
  rw [if_neg (by simp [hb, hw, hx, ho]), State.blockBank_eq, State.updChannel_eq, State.channel_setChannel_same,
    State.setChannel_setChannel, Channel.updBank_updBank]

/-! ### Activation alerts (spec/02 R60) -/

theorem State.alert_latched (h : (s.channel key).busy = true ∨ ((s.channel key).bank b).blocked = true) :
    s.alert key b = s.setChannel key ((s.channel key).updBank b fun x => { x with alerts := x.alerts + 1 }) :=
  if_pos (by simpa using h)

theorem State.alert_served (hb : (s.channel key).busy = false) (hx : ((s.channel key).bank b).blocked = false) :
    s.alert key b = (s.setChannel key ((s.channel key).updBank b fun x => { x with alerts := x.alerts + 1 })).serveAlert key b :=
  if_neg (by simp [hb, hx])

/-- A bank whose block has ended. -/
def State.unblocked (s : State) (key b : Nat) : State :=
  s.setChannel key ((s.channel key).updBank b fun x => { x with blocked := false })

theorem State.channel_unblocked (s : State) (key b : Nat) :
    (s.unblocked key b).channel key = (s.channel key).updBank b fun x => { x with blocked := false } := State.channel_setChannel_same ..

@[simp] theorem State.busy_unblocked (s : State) (key b : Nat) : ((s.unblocked key b).channel key).busy = (s.channel key).busy := by
  rw [State.channel_unblocked]; rfl
@[simp] theorem State.alerts_unblocked (s : State) (key b : Nat) :
    (((s.unblocked key b).channel key).bank b).alerts = ((s.channel key).bank b).alerts := by
  rw [State.channel_unblocked, Channel.bank_updBank_same]

theorem State.blockEnd_eq (s : State) (key b : Nat) : s.blockEnd key b =
    if ((s.unblocked key b).channel key).busy then (s.unblocked key b).switchGoes key
    else if (((s.unblocked key b).channel key).bank b).alerts = 0 then s.unblocked key b else (s.unblocked key b).serveAlert key b := rfl

theorem State.blockEnd_stalled (hb : (s.channel key).busy = true) : s.blockEnd key b = (s.unblocked key b).switchGoes key := by
  rw [State.blockEnd_eq, if_pos (by simpa using hb)]

theorem State.blockEnd_quiet (hb : (s.channel key).busy = false) (ha : ((s.channel key).bank b).alerts = 0) :
    s.blockEnd key b = s.unblocked key b := by
  rw [State.blockEnd_eq, if_neg (by simp [hb]), if_pos (by simpa using ha)]

theorem State.blockEnd_alerted (hb : (s.channel key).busy = false) (ha : ((s.channel key).bank b).alerts ≠ 0) :
    s.blockEnd key b = (s.unblocked key b).serveAlert key b := by
  rw [State.blockEnd_eq, if_neg (by simp [hb]), if_neg (by simpa using ha)]

end

/-! ### The patrol scrub (spec/02 R63) -/

/-- A scrub that may read a line neither it nor whose copy in HBM is poisoned. -/
structure State.Scrubs (s : State) (la : Nat) : Prop where
  may : (s.channel (dieOf la * 32 + channelOf la)).mayScrub la = true
  clean : s.isPoisoned (s.hbmPa la / 64) = false
  under : s.underPoison (s.hbmPa la / 64) = false

theorem State.scrubRead_clean (s : State) (la lane : Nat) (again : Bool) : s.scrubRead la 0 lane again = s := if_pos (by simp)

theorem State.scrubRead_erred {s : State} {la dec lane : Nat} {again : Bool} (h : s.Scrubs la) (hd : dec ≠ 0) :
    s.scrubRead la dec lane again =
      if dec = 1 then s.countCorrected (dieOf la * 32 + channelOf la) lane
      else if again then s.countTransient (dieOf la * 32 + channelOf la) lane
      else s.scrubFault (s.hbmPa la) := if_neg (by simp [h.may, h.clean, h.under, hd])

theorem State.scrubFault_absent {s : State} {pa : Nat} (h : sliceFind (pa / 64) false (s.slice (s.homeKey pa)).lines = none) :
    s.scrubFault pa = s.lastingFault pa := if_neg (by simp [h])

/-! ### Key slots (spec/02 R65, spec/21 R469) -/

theorem State.keyLoad_waits {s : State} {key slot : Nat} (h : (s.channel key).names slot = true) :
    s.keyLoad key slot = s.after [(.keySlotLoad, { chanMsg key with station := BitVec.ofNat 4 slot })] := if_pos h

/-- The channel loads the slot, and holds no key of its own for it any more. -/
def State.keyTaken (s : State) (key slot : Nat) : State :=
  (s.setChannel key ((s.channel key).loaded slot)).updMem fun m => { m with chanKeys := m.chanKeys.filter fun x => decide (x.1 ≠ key * 16 + slot) }

/-- Where no mailbox command goes on, or another channel has still to load the slot, the load is all that happens. -/
theorem State.keyLoad_taken {s : State} {key slot : Nat} (h : (s.channel key).names slot = false)
    (hw : s.trust.busy = false ∨ ∃ y ∈ s.m.chanKeys, y.1 % 16 = slot ∧ y.1 ≠ key * 16 + slot) : s.keyLoad key slot = s.keyTaken key slot := by
  unfold State.keyLoad
  rw [if_neg (by simp [h])]
  refine if_neg fun hdone => ?_
  simp only [Bool.and_eq_true, Bool.not_eq_true'] at hdone
  obtain ⟨⟨hbusy, -⟩, hnone⟩ := hdone
  rcases hw with hb | ⟨y, hy, hslot, hother⟩
  · exact absurd (hb.symm.trans hbusy) (by decide)
  · have hleft : (s.keyTaken key slot).m.chanKeys.any (fun x => decide (x.1 % 16 = slot)) = true :=
      List.any_eq_true.2 ⟨y, List.mem_filter.2 ⟨hy, decide_eq_true hother⟩, decide_eq_true hslot⟩
    exact absurd (hleft.symm.trans hnone) (by decide)

theorem setWidth_two_eq_three (v : Word) : v.setWidth 2 = 3#2 ↔ v.toNat % 4 = 3 := by
  rw [← BitVec.toNat_inj]
  simp

/-- Settles O46: each step is one operation on the channel that its message names, and that operation's equations above give the case. -/
theorem ratesRefreshesAndAlerts : Obligations.RatesRefreshesAndAlerts := by
  unfold Obligations.RatesRefreshesAndAlerts
  intro s key c b x
  have hk : s.msg.channel = key := rfl
  clear_value key
  refine ⟨fun hv => ?_, fun hv => ?_, fun hv => ?_, exec_rateLimitChange_reserved, fun h => ?_, fun hb hw => ?_, fun hb hf hr ha => ?_,
    fun hb hq => ?_, fun h ho => ?_, fun h ho => ?_, fun hb hx h => ?_, fun hb hw hx ho => ?_, fun h => ?_, fun hb hx => ?_, fun hb ha => ?_,
    fun hb => ?_, fun hb ha => ?_, ?_, fun la hla hh hmay hp hu => ?_, fun h => ?_, fun h hw => ?_⟩
  · rw [exec_hcrateCeilWrite hk, (setWidth_two_eq_three _).2 hv, State.ceilWrite_reserved]
  · have hv' := mt (setWidth_two_eq_three _).1 hv
    refine .of_step (exec_hcrateCeilWrite hk) ((State.ceilWrite_eq hv').trans (State.rateCheck_setChannel ..)) ?_
    rw [State.channel_after, State.channel_setChannel_same]
    exact ⟨rfl, ⟨rfl, rfl, rfl⟩, rfl, rfl⟩
  · refine .of_step (exec_rateLimitChange hk hv) (State.rateCheck_setChannel ..) ?_
    rw [State.channel_after, State.channel_setChannel_same]
    exact ⟨rfl, ⟨rfl, rfl, rfl⟩, rfl, rfl⟩
  · rw [exec_rateSwitch hk, State.rateSwitch_idle h]
  · refine .of_step (exec_rateSwitch hk) ((State.rateSwitch_eq hb hw).trans (State.switchGoes_setChannel _ _ rfl)) ?_
    rw [State.channel_after, State.channel_setChannel_same]
    exact ⟨rfl, rfl, rfl, rfl, rfl, rfl⟩
  · have hq : c.quiet = true := Channel.quiet_iff.2 ⟨hf, hr, fun k hk => (ha k hk).2⟩
    refine .of_step (exec_rateSwitchComplete hk) ((State.rateDone_eq hb hq fun k hk => (ha k hk).1).trans (State.rateCheck_setChannel ..)) ?_
    rw [State.channel_after, State.channel_setChannel_same]
    exact ⟨rfl, congrArg _ (if_congr (and_iff_left rfl) rfl rfl)⟩
  · rw [exec_rateSwitchComplete hk, State.rateDone_waits hq]
  · refine .of_step (exec_refreshDue hk) (State.refreshDue_postponed h ho) ?_
    rw [State.channel_setChannel_same]
    exact ⟨Channel.bank_updBank_same .., rfl⟩
  · rw [exec_refreshDue hk, State.refreshDue_again h ho]
  · refine .of_step (exec_refreshDue hk) (State.refreshDue_issued hb hx h) ?_
    rw [State.blockBank_eq, State.channel_after, State.channel_setChannel_same]
    exact ⟨Channel.bank_updBank_same .., rfl⟩
  · refine .of_step (exec_owedRefreshPaid hk) (State.payOwed_eq hb hw hx ho) ?_
    rw [State.channel_after, State.channel_setChannel_same]
    exact ⟨Channel.bank_updBank_same .., rfl⟩
  · refine .of_step (exec_activationAlert hk) (State.alert_latched h) ?_
    rw [State.channel_setChannel_same]
    exact ⟨Channel.bank_updBank_same .., rfl⟩
  · refine .of_step (exec_activationAlert hk) ((State.alert_served hb hx).trans (State.serveAlert_eq ..)) ?_
    rw [State.channel_after, State.channel_setChannel_same, State.channel_setChannel_same, Channel.updBank_updBank]
    exact ⟨rfl, SMap.get_set_same ..⟩
  · refine .of_step (exec_bankBlockEnd hk) (State.blockEnd_quiet hb ha) ?_
    rw [State.channel_unblocked]
    exact ⟨Channel.bank_updBank_same .., rfl⟩
  · refine .of_step (exec_bankBlockEnd hk) ((State.blockEnd_stalled hb).trans (State.switchGoes_setChannel _ _ hb)) ?_
    rw [State.channel_after, State.channel_setChannel_same]
    exact ⟨Channel.bank_updBank_same .., rfl⟩
  · refine .of_step (exec_bankBlockEnd hk) ((State.blockEnd_alerted hb ha).trans (State.serveAlert_eq ..)) ?_
    rw [State.channel_after, State.channel_setChannel_same, State.channel_unblocked, Channel.updBank_updBank]
    exact ⟨rfl, SMap.get_set_same .., rfl⟩
  · exact ⟨_, exec_temperatureReport s, SMap.get_set_same .., fun d hd => SMap.get_set_other _ _ _ _ _ hd⟩
  · have hs : s.Scrubs s.msg.addr.toNat := ⟨hla ▸ hmay, hla ▸ hp, hla ▸ hu⟩
    subst hla
    refine ⟨fun hd => ?_, fun hd => ?_, fun hd hf => ?_, fun hd hf hn => ?_⟩
    · rw [exec_patrolScrubRead hh, hd]
      exact congrArg _ (State.scrubRead_clean ..)
    · have hc := s.counted_countCorrected (dieOf s.msg.addr.toNat * 32 + channelOf s.msg.addr.toNat) s.msg.unit.toNat
      obtain ⟨sp, cl, tl, hchan⟩ := hc.chan
      have hd' : s.msg.kind.toNat = 1 := by rw [hd]; rfl
      refine .of_step (exec_patrolScrubRead hh) ((State.scrubRead_erred hs (by omega)).trans (if_pos hd')) ⟨?_, hc.mem⟩
      rw [hchan]
    · have hc := s.counted_countTransient (dieOf s.msg.addr.toNat * 32 + channelOf s.msg.addr.toNat) s.msg.unit.toNat
      obtain ⟨sp, cl, tl, hchan⟩ := hc.chan
      refine .of_step (exec_patrolScrubRead hh)
        ((State.scrubRead_erred hs (by omega)).trans ((if_neg (by omega)).trans (if_pos hf))) ⟨?_, hc.mem⟩
      rw [hchan]
    · refine .of_step (exec_patrolScrubRead hh) ((State.scrubRead_erred hs (by omega)).trans ((if_neg (by omega)).trans
        ((if_neg (by simp [hf])).trans (State.scrubFault_absent hn)))) ⟨State.isPoisoned_lastingFault .., State.mem_lastingFault ..⟩
  · rw [exec_keySlotLoad hk, State.keyLoad_waits h, BitVec.ofNat_toNat, BitVec.setWidth_eq]
  · refine .of_step (exec_keySlotLoad hk) (State.keyLoad_taken h hw) ⟨fun y hy => ?_, fun y hy hne => ?_, ⟨rfl, rfl, rfl⟩, rfl⟩
    · exact of_decide_eq_true (List.mem_filter.1 hy).2
    · exact List.mem_filter.2 ⟨hy, decide_eq_true hne⟩

end Sys2Proof.Machine
end

section
/-! SUPPORT. A vector header of a segment homed on another device (spec/04 R98 to R101). -/
namespace Sys2Proof.Machine
set_option Elab.async false

/-- A masked read of one position, which is not active, at PA 0x40000200000 of device 1, for slice 2, from cluster 0 of die 0 under tag 0. (Whether
a line of another device comes at a step is a free value, so the header names none.) -/
def VHead.far : VHead :=
  { op := 1, rid := 0, key := 1, pa := 0x40000200000, stride := 0, count := 0, row0 := 0, col0 := 0, pitch := 0, len := 0, width := 64,
    masked := true, slices := 4#16, dev := 0, die := 0, cluster := 0, hart := 0, tag := 0, masks := [0#64] }

/-- A device after reset whose slice 2 of die 0 that header reaches. -/
def State.farHeader : State :=
  { State.reset with msg := { slice := 2#4, words := [0x1010040000200000#64, 0#64, 0x281#64, 0x0004000000000000#64, 0#64] } }

theorem vhead_farHeader : vhead State.farHeader.msg.words = some .far := by decide
theorem VHead.lines_far : VHead.far.lines = [] := by decide
theorem State.isRemote_farHeader : State.farHeader.isRemote VHead.far.pa = true := by decide

theorem State.exec_farHeader :
    exec .vectorHeader .farHeader = .next ((State.farHeader.openSegment .far).remoteServe .far 0 []) := by
  rfl

/-- The step opens the segment at the requesting cluster, in which none was outstanding. -/
theorem State.segments_farHeader :
    (((State.farHeader.openSegment .far).remoteServe .far 0 []).cluster 0).segments = [(0, 0)] ∧ (State.farHeader.cluster 0).segments = [] := by
  decide

/-- Refutes O48: of a read of a segment homed on another device it says both that memory stays as it is, caches and clusters included, and that
the segment is opened at its cluster. The step opens it, so the list of the cluster's segments is not what it was. -/
theorem not_vectorHeadersAndBeats : ¬ Obligations.VectorHeadersAndBeats := by
  unfold Obligations.VectorHeadersAndBeats
  rintro ⟨-, -, -, -, -, hremote, -, -⟩
  obtain ⟨-, -, hserve⟩ := hremote .farHeader .far vhead_farHeader (by decide) (by decide) rfl State.isRemote_farHeader
  obtain ⟨t, ht, -, -, -, hm, -⟩ := hserve rfl (by simp [VHead.lines_far])
  rw [State.exec_farHeader] at ht
  cases ht
  obtain ⟨hopen, hnone⟩ := State.segments_farHeader
  rw [State.cluster, hm, ← State.cluster, hnone] at hopen
  cases hopen

end Sys2Proof.Machine
end

section
/-! SUPPORT. Scalar accesses through the plate window (spec/03 R82, R85, spec/12 R317, R318). -/
namespace Sys2Proof.Machine
set_option Elab.async false

/-! ### Storage of a plate -/

/-- The bytes from the place of an access lie in the plate's window, which is not HBM. -/
theorem isHbm_platePhys {s : State} {va : Word} {p n i : Nat} (hc : s.cur < 2048) (hp : p < 128) (hn : plateOfs va + n ≤ 0x40000)
    (hi : i < n) : isHbm (laOf (platePhys s va p + i)) = false := by
  have hd : dieOfHart s.cur < 8 := by unfold dieOfHart; omega
  refine decide_eq_false ?_
  unfold laOf platePhys plateLa
  omega

/-- The number in bytes that are read where nothing has a key, the lowest address least significant. -/
theorem leNat_homeBytes_window {s : State} {slot n : Nat} : ∀ {pa : Nat}, (∀ i < n, isHbm (laOf (pa + i)) = false) →
    leNat (s.homeBytes slot pa n) = storedNat s pa n := by
  induction n with
  | zero => intro pa _; rfl
  | succ n ih =>
    intro pa h
    have hhead : s.homeByte slot pa = (Mem.read s.m.mem pa).getD 0#8 := by simp [State.homeByte, show isHbm (laOf pa) = false from h 0 (by omega)]
    have htail : leNat (s.homeBytes slot (pa + 1) n) = storedNat s (pa + 1) n :=
      ih fun i hi => by rw [Nat.add_assoc, Nat.add_comm 1]; exact h (i + 1) (by omega)
    rw [State.homeBytes, leNat, hhead, htail, storedNat, storedNat, List.range_succ_eq_map, List.map_cons, List.sum_cons, List.map_map,
      ← List.sum_map_mul_left]
    congr 1
    · simp
    · refine congrArg List.sum (List.map_congr_left fun i _ => ?_)
      simp only [Function.comp_apply, pow_succ, Nat.add_assoc, Nat.add_comm 1]
      ring

/-! ### The checks of an access, and what it waits for -/

theorem State.ahead_of_idle {s : State} (h : Idle s) : s.ahead = [] := by
  obtain ⟨hv, hm, -, -⟩ := h
  unfold State.ahead; split <;> simp [hv, hm]

theorem waitPlace_of_idle {s : State} (h : Idle s) (p : Place) (n : Nat) (store : Bool) : waitPlace p n store s = .ok () s := by
  have ho : ∀ pa, waitOverlap pa n store s = .ok () s := fun pa => by simp [waitOverlap, s.ahead_of_idle h]
  have hs : waitSy p.sy s = .ok () s := by simp [waitSy, s.ahead_of_idle h]
  rw [waitPlace, M.get_bind, M.bind_ok (ho _), hs]

section
variable {s : State} {va : Word} {n p : Nat} (h : PlateAccess s va n p)
include h

theorem PlateAccess.accessCheck (acc : Acc) : accessCheck acc va n s = .ok (.plate (dieOfHart s.cur * 128 + p) (plateOfs va)) s := by
  obtain ⟨-, -, -, hal, hw, hslot, -, hn, -⟩ := h
  have hr : resolveSlot va n s = .ok (dieOfHart s.cur * 128 + p, plateOfs va) s := by
    simp [resolveSlot, show ¬ 0x40000 < plateOfs va + n by omega, hslot]
  simp only [Machine.accessCheck, hal, M.get_bind, hw, ne_eq, not_true_eq_false, if_false, if_true]
  rw [M.bind_ok hr]; rfl

/-- The place that the checks give stands at the physical address of the access. -/
theorem PlateAccess.platePhys_eq : s.fab.dev.toNat * 2 ^ 42 +
    plateLa ((dieOfHart s.cur * 128 + p) / 128) ((dieOfHart s.cur * 128 + p) % 128) (plateOfs va) = platePhys s va p := by
  obtain ⟨-, -, -, -, -, -, hp, -, -⟩ := h
  rw [platePhys, show (dieOfHart s.cur * 128 + p) / 128 = dieOfHart s.cur by omega, show (dieOfHart s.cur * 128 + p) % 128 = p by omega]

/-- A load through the window reads the plate's bytes, and changes nothing. -/
theorem PlateAccess.loadBytes : loadBytes va n s = .ok (s.homeBytes 0 (platePhys s va p) n) s := by
  have hpa := h.platePhys_eq
  have hacc := h.accessCheck .load
  obtain ⟨-, hidle, hmarks, -, -, -, -, -, hready⟩ := h
  rw [Machine.loadBytes, M.bind_ok hacc, M.bind_ok (waitPlace_of_idle hidle _ _ _)]
  have hwin : ∀ la, windowLoad va la n s = .ok (s.homeBytes 0 (s.fab.dev.toNat * 2 ^ 42 + la) n) s := fun la => by
    simp [windowLoad, natAny, hmarks]
  have hopen : (s.plate (dieOfHart s.cur * 128 + p)).admits false = true := by simp [Plate.admits, hready]
  rw [loadFrom, plateLoad, M.get_bind, if_pos hopen, hwin, hpa]

/-- A store through the window stores its bytes in the plate. -/
theorem PlateAccess.storeBytes {bs : List Byte} (hbs : bs.length = n) : storeBytes va bs s = .ok () (s.homeStore 0 (platePhys s va p) bs) := by
  have hpa := h.platePhys_eq
  have hacc := h.accessCheck .store
  obtain ⟨-, hidle, -, -, -, -, -, -, hready⟩ := h
  subst hbs
  rw [Machine.storeBytes, M.bind_ok hacc, M.bind_ok (waitPlace_of_idle hidle _ _ _)]
  have hopen : (s.plate (dieOfHart s.cur * 128 + p)).admits true = true := by simp [Plate.admits, hready]
  rw [storeTo, plateStore, M.get_bind, if_pos hopen, windowStore, M.modify_apply, hpa]

theorem PlateAccess.leNat_homeBytes : leNat (s.homeBytes 0 (platePhys s va p) n) = storedNat s (platePhys s va p) n := by
  obtain ⟨hc, -, -, -, -, -, hp, hn, -⟩ := h
  exact leNat_homeBytes_window fun i hi => isHbm_platePhys hc hp hn hi

end

/-! ### Loads -/

/-- A write of x[d] and the move to the next instruction is what `WritesX` says. -/
theorem writesX_setX (s : State) (d : Reg) (v : Word) : WritesX s (s.setX d v).advance d v := by
  refine ⟨by simp [State.xr_setX_same], fun r hr => by simp [State.xr_setX_other _ _ _ _ hr], fun _ => rfl, ?_⟩
  unfold State.setX Hart.setX
  split <;> exact ⟨_, rfl⟩

theorem yields_loadX {i : Instr} {s : State} {va : Word} {n p : Nat} (h : PlateAccess s va n p) {d : Reg} {g : List Byte → Word}
    {ext : Nat → Word} (he : exec i s = finish (loadX d va n g) s) (hg : ∀ bs, bs.length = n → g bs = ext (leNat bs)) :
    Yields i s d (ext (storedNat s (platePhys s va p) n)) := by
  refine ⟨_, he.trans (finish_ok (M.bind_ok h.loadBytes)), ?_⟩
  rw [hg _ (homeBytes_length _ _ _ _), h.leNat_homeBytes]
  exact writesX_setX s d _

/-- A write of f[d] with flags and the move to the next instruction is what `YieldsF` says. -/
theorem yieldsF_of_next {i : Instr} {s : State} {d : Reg} {v : Word} {e : Exc}
    (he : exec i s = .next ((s.setF d v).raiseFlags e).advance) : YieldsF i s d v e :=
  ⟨_, he, State.fr_setF_same s d v, fun r hr => State.fr_setF_other s d r v hr, fun _ => rfl, _, rfl⟩

theorem yieldsF_loadF {i : Instr} {s : State} {va : Word} {n p : Nat} (h : PlateAccess s va n p) {d : Reg}
    (he : exec i s = finish (loadF d va n unsignedLoad) s) : YieldsF i s d (BitVec.ofNat 64 (storedNat s (platePhys s va p) n)) {} := by
  have hnone : ∀ t : State, t.raiseFlags {} = t := fun t => by
    have : t.hart.user.fflags ||| Exc.bits {} = t.hart.user.fflags := BitVec.or_zero
    simp [State.raiseFlags, State.orFflags, State.updUser, State.updHart, this]
  refine yieldsF_of_next ?_
  rw [he, hnone, ← h.leNat_homeBytes]
  exact finish_ok (M.bind_ok h.loadBytes)

theorem yieldsF_fldH {s : State} {p : Nat} {a d : Reg} {o : BitVec 13} (h : PlateAccess s (s.ea a o) 2 p) :
    let r := fmt32.encode .rn (fmt16.decode (storedNat s (platePhys s (s.ea a o) p) 2))
    YieldsF (.fldH d a o) s d (BitVec.ofNat 64 r.1) r.2 := by
  refine yieldsF_of_next ?_
  rw [← h.leNat_homeBytes]
  exact finish_ok (M.bind_ok h.loadBytes)

theorem yields_of_mem_loadOps {s : State} {a d : Reg} {o : BitVec 13} {p : Nat} {e : LoadOp} (he : e ∈ loadOps)
    (h : PlateAccess s (s.ea a o) e.n p) : Yields (e.op d a o) s d (e.ext (storedNat s (platePhys s (s.ea a o) p) e.n)) := by
  simp only [loadOps, List.mem_cons, List.not_mem_nil, or_false] at he
  rcases he with rfl | rfl | rfl | rfl | rfl | rfl | rfl <;> exact yields_loadX h rfl fun _ _ => rfl

/-! ### Stores -/

theorem getElem?_toBytes {n i : Nat} (hi : i < n) : ∀ v, (toBytes n v)[i]? = some (BitVec.ofNat 8 (v / 256 ^ i)) := by
  induction n generalizing i with
  | zero => omega
  | succ n ih =>
    intro v
    cases i with
    | zero => simp [toBytes]
    | succ i => rw [toBytes, List.getElem?_cons_succ, ih (by omega), Nat.div_div_eq_div_mul, pow_succ']

theorem PlateAccess.storesAt {s : State} {va : Word} {n p : Nat} (h : PlateAccess s va n p) (hm : Mem.wf s.m.mem = true) (hn : 0 < n) (v : Nat) :
    StoresAt s (s.homeStore 0 (platePhys s va p) (toBytes n v)).advance (platePhys s va p) n v := by
  obtain ⟨hc, -, hmarks, -, -, -, hp, hofs, -⟩ := h
  have hw : isHbm (laOf (platePhys s va p)) = false := by
    have h0 := isHbm_platePhys hc hp hofs hn
    rwa [Nat.add_zero] at h0
  refine ⟨fun x => ?_, Mem.writes (platePhys s va p) (toBytes n v) s.m.mem, ?_⟩
  · rw [State.advance_m, State.homeStore_window _ _ _ _ hw hm, toBytes_length]
    exact ite_congr rfl (fun hx => getElem?_toBytes (by omega) v) fun _ => rfl
  · simp [State.homeStore, hw, natDrop, hmarks, State.advance, State.setPc, State.updHart, State.updMem]

theorem stores_of_exec {i : Instr} {s : State} {va : Word} {n p v : Nat} (h : PlateAccess s va n p) (hm : Mem.wf s.m.mem = true) (hn : 0 < n)
    (he : exec i s = finish (storeBytes va (toBytes n v)) s) : ∃ t, exec i s = .next t ∧ StoresAt s t (platePhys s va p) n v :=
  ⟨_, he.trans (finish_ok (h.storeBytes (toBytes_length n v))), h.storesAt hm hn v⟩

theorem stores_of_mem_storeOps {s : State} {a d : Reg} {o : BitVec 13} {p : Nat} {e : StoreOp} (he : e ∈ storeOps) (hm : Mem.wf s.m.mem = true)
    (h : PlateAccess s (s.ea a o) e.n p) : ∃ t, exec (e.op d a o) s = .next t ∧ StoresAt s t (platePhys s (s.ea a o) p) e.n (e.value s d) := by
  simp only [storeOps, List.mem_cons, List.not_mem_nil, or_false] at he
  rcases he with rfl | rfl | rfl | rfl | rfl | rfl <;> exact stores_of_exec h hm (by decide) rfl

theorem storeHalf_eq (va : Word) (c : Nat) : storeHalf va c = (do
    storeBytes va (toBytes 2 (fmt16.encode .rn (fmt32.decode c)).1)
    modify fun s => s.raiseFlags (fmt16.encode .rn (fmt32.decode c)).2) := by
  unfold storeHalf
  generalize fmt16.encode .rn (fmt32.decode c) = r
  rfl

theorem exec_fstH {s : State} {a d : Reg} {o : BitVec 13} {p : Nat} (h : PlateAccess s (s.ea a o) 2 p) {r : Nat × Exc}
    (hr : r = fmt16.encode .rn (fmt32.decode ((s.fr d).toNat % 2 ^ 32))) :
    exec (.fstH d a o) s = .next ((s.homeStore 0 (platePhys s (s.ea a o) p) (toBytes 2 r.1)).raiseFlags r.2).advance := by
  have hcode : s.fcode 0#1 d = (s.fr d).toNat % 2 ^ 32 := if_neg (by decide)
  have he : exec (.fstH d a o) s = finish (storeHalf (s.ea a o) (s.fcode 0#1 d)) s := rfl
  rw [he, hcode, storeHalf_eq, ← hr]
  exact finish_ok (M.bind_ok (h.storeBytes (toBytes_length 2 r.1)))

/-- Flags that are raised after a store are all that it does besides. -/
theorem StoresAt.raiseFlags {s t : State} {pa n v : Nat} (h : StoresAt s t.advance pa n v) (hu : t.hart.user = s.hart.user) (e : Exc) :
    StoresAt s { (t.raiseFlags e).advance with hart := { (t.raiseFlags e).advance.hart with user := s.hart.user } } pa n v := by
  obtain ⟨hr, mem, ht⟩ := h
  refine ⟨hr, mem, Eq.trans ?_ ht⟩
  simp [State.raiseFlags, State.orFflags, State.updUser, State.advance, State.setPc, State.updHart, ← hu]

theorem stores_fstH {s : State} {a d : Reg} {o : BitVec 13} {p : Nat} (hm : Mem.wf s.m.mem = true) (h : PlateAccess s (s.ea a o) 2 p) :
    let r := fmt16.encode .rn (fmt32.decode ((s.fr d).toNat % 2 ^ 32))
    ∃ t, exec (.fstH d a o) s = .next t ∧ t.hart.user.fflags = s.hart.user.fflags ||| r.2.bits ∧
      StoresAt s { t with hart := { t.hart with user := s.hart.user } } (platePhys s (s.ea a o) p) 2 r.1 := by
  intro r
  refine ⟨_, exec_fstH h rfl, ?_, (h.storesAt hm (by decide) r.1).raiseFlags (by rw [State.homeStore_hart]) r.2⟩
  rw [State.advance_hart, State.raiseFlags, State.orFflags_hart, State.homeStore_hart]

/-- Settles O11: a plate is always reached through `resolveSlot`, its state admits the access, and its storage is no HBM, so a load reads
memory itself and a store is one write of it. -/
theorem plateWindowAccesses : Obligations.PlateWindowAccesses := by
  refine ⟨fun s a d o p => ⟨fun e he h => yields_of_mem_loadOps he h, fun h => yieldsF_fldH h, fun h => yieldsF_loadF h rfl, fun h => yieldsF_loadF h rfl⟩,
    fun s a d o p hm => ⟨fun e he h => stores_of_mem_storeOps he hm h, fun h => stores_fstH hm h⟩⟩

end Sys2Proof.Machine
end

section
/-! SUPPORT. The plate instructions and the hand-over of a plate (spec/03 R80 to R89, spec/17 R425 to R429). -/
namespace Sys2Proof.Machine
set_option Elab.async false

/-! ### Traps and results of an instruction with a status -/

/-- A trap of a hart with its queues empty and its entry enabled is what `TrapsTo` says. -/
theorem trapsTo_takeTrap {s : State} (h : Settled s) (c : BitVec 8) (a : Word) : TrapsTo s (s.takeTrap c a 0#2 s.hart.pc) c a := by
  obtain ⟨hv, hm, he⟩ := h
  have hfrom : (if (0#2 = 0#2 && !s.hart.sup) = true then none else s.hart.trapFrom) = if s.hart.sup then s.hart.trapFrom else none := by
    cases s.hart.sup <;> rfl
  rw [TrapsTo, State.takeTrap_enabled _ _ _ _ _ he, hfrom]
  simp [hv, hm, TrapRegs.enter, trapVector]

/-- A write of x[d] over registers as they were. -/
theorem gets_setX {s t : State} (h : ∀ r, t.xr r = s.xr r) (d : Reg) (v : Word) : Gets s (t.setX d v).advance d v :=
  ⟨by simp [State.xr_setX_same], fun r hr => by rw [State.xr_advance, State.xr_setX_other _ _ _ _ hr, h]⟩

theorem extractLsb'_four_ne_zero {x : Word} : x.extractLsb' 4 60 ≠ 0#60 ↔ 16 ≤ x.toNat := by
  rw [ne_eq, ← BitVec.toNat_inj, BitVec.extractLsb'_toNat, Nat.shiftRight_eq_div_pow]
  have := x.isLt
  simp only [BitVec.toNat_ofNat]
  omega

theorem extractLsb'_twenty_ne_zero {x : Word} : x.extractLsb' 20 44 ≠ 0#44 ↔ x.toNat / 2 ^ 20 ≠ 0 := by
  rw [ne_eq, ← BitVec.toNat_inj, BitVec.extractLsb'_toNat, Nat.shiftRight_eq_div_pow]
  have := x.isLt
  simp only [BitVec.toNat_ofNat]
  omega

/-- The target slot that x[b] names. -/
theorem toNat_extractLsb'_sixteen {x : Word} (h : x.toNat / 2 ^ 20 = 0) : (x.extractLsb' 16 4).toNat = x.toNat / 2 ^ 16 := by
  rw [BitVec.extractLsb'_toNat, Nat.shiftRight_eq_div_pow]
  omega

/-- The hart number that x[b] names. -/
theorem zeroExtend_extractLsb'_zero (x : Word) : (x.extractLsb' 0 16).zeroExtend 64 = x &&& 0xFFFF#64 := by
  refine BitVec.eq_of_toNat_eq ?_
  rw [BitVec.zeroExtend, BitVec.toNat_setWidth, BitVec.extractLsb'_toNat, BitVec.toNat_and, Nat.shiftRight_zero,
    show (0xFFFF#64 : Word).toNat = 2 ^ 16 - 1 from rfl, Nat.and_two_pow_sub_one_eq_mod]
  omega

section
variable {s t : State} {i : Instr} {d a : Reg} {run : Nat → M Nat}

/-- A slot number of 16 and up. -/
theorem plateOp_malformed (h : 16 ≤ (s.xr a).toNat) : plateOp i d a run s = .ok () (s.setX d 7#64) := by
  simp only [plateOp, M.get_bind, if_pos (extractLsb'_four_ne_zero.2 h)]
  rfl

theorem plateOp_reserved (h : (s.xr a).toNat < 16) (hr : s.hart.grant.reserves (s.xr a).toNat = true) :
    plateOp i d a run s = .error (.trap tcGrant (instrWord i)) s := by
  simp only [plateOp, M.get_bind, if_neg (mt extractLsb'_four_ne_zero.1 (Nat.not_le.2 h)), if_pos hr]
  rfl

theorem plateOp_eq (h : (s.xr a).toNat < 16) (hr : s.hart.grant.reserves (s.xr a).toNat = false) :
    plateOp i d a run s = (run (s.xr a).toNat >>= fun st => modify fun s => s.setX d (BitVec.ofNat 64 st)) s := by
  simp only [plateOp, M.get_bind, if_neg (mt extractLsb'_four_ne_zero.1 (Nat.not_le.2 h)), hr, Bool.false_eq_true, if_false]

theorem plateOp_ok (h : (s.xr a).toNat < 16) (hr : s.hart.grant.reserves (s.xr a).toNat = false) {st : Nat} (hrun : run (s.xr a).toNat s = .ok st t) :
    plateOp i d a run s = .ok () (t.setX d (BitVec.ofNat 64 st)) := by
  rw [plateOp_eq h hr, M.bind_ok hrun]; rfl

theorem plateOp_error (h : (s.xr a).toNat < 16) (hr : s.hart.grant.reserves (s.xr a).toNat = false) {e : Stop} (hrun : run (s.xr a).toNat s = .error e t) :
    plateOp i d a run s = .error e t := by
  rw [plateOp_eq h hr, M.bind_error hrun]

end

/-! ### Slots -/

theorem Hart.slotAt_setSlot (h : Hart) {i : Nat} (hi : i < 16) (j : Nat) (v : Slot) : (h.setSlot i v).slotAt j = if j = i then v else h.slotAt j := by
  unfold Hart.slotAt Hart.setSlot
  rw [dif_pos hi]
  by_cases hj : j < 16
  · simp only [dif_pos hj, Vector.getElem_set, eq_comm]
  · simp only [dif_neg hj]
    rw [if_neg (by omega)]

theorem Hart.slotAt_setSlot_same (h : Hart) {i : Nat} (hi : i < 16) (v : Slot) : (h.setSlot i v).slotAt i = v := by
  rw [h.slotAt_setSlot hi, if_pos rfl]

theorem Hart.slotAt_setSlot_other (h : Hart) {i j : Nat} (hi : i < 16) (hj : j ≠ i) (v : Slot) : (h.setSlot i v).slotAt j = h.slotAt j := by
  rw [h.slotAt_setSlot hi, if_neg hj]

theorem Hart.lt_of_slotAt {h : Hart} {k : Nat} (hk : h.slotAt k ≠ .empty) : k < 16 := by
  by_contra hc; exact hk (dif_neg hc)

@[simp] theorem Hart.setSlot_regs (h : Hart) (i : Nat) (v : Slot) : (h.setSlot i v).regs = h.regs := by unfold Hart.setSlot; split <;> rfl
@[simp] theorem Hart.setSlot_vq (h : Hart) (i : Nat) (v : Slot) : (h.setSlot i v).vq = h.vq := by unfold Hart.setSlot; split <;> rfl
@[simp] theorem Hart.setSlot_mq (h : Hart) (i : Nat) (v : Slot) : (h.setSlot i v).mq = h.mq := by unfold Hart.setSlot; split <;> rfl
@[simp] theorem Hart.setX_slotAt (h : Hart) (r : Reg) (v : Word) (k : Nat) : (h.setX r v).slotAt k = h.slotAt k := by simp [Hart.slotAt]

/-! ### What a status in x[d] and a change of another hart leave -/

theorem State.plate_setX_advance (s : State) (d : Reg) (v : Word) (p : Nat) : (s.setX d v).advance.plate p = s.plate p := rfl
theorem State.plate_updHartN (s : State) (n : Nat) (g : Hart → Hart) (p : Nat) : (s.updHartN n g).plate p = s.plate p := by simp [State.plate]

theorem State.slotAt_setX_advance (s : State) (d : Reg) (v : Word) (n k : Nat) :
    ((s.setX d v).advance.getHart n).slotAt k = (s.getHart n).slotAt k := by
  show (((s.updHart (·.setX d v)).updHart fun h => { h with pc := _ }).getHart n).slotAt k = _
  rw [State.getHart_updHart, State.getHart_updHart]
  simp only [State.updHart_cur]
  split
  · next e => rw [e, State.getHart_cur]; exact Hart.setX_slotAt ..
  · rfl

theorem State.hart_updHartN (s : State) (n : Nat) (g : Hart → Hart) : (s.updHartN n g).hart = if s.cur = n then g s.hart else s.hart := by
  rw [← State.getHart_cur, State.updHartN_cur, State.getHart_updHartN]
  split
  · next e => rw [← e, State.getHart_cur]
  · exact s.getHart_cur

theorem State.xr_updHartN_of_regs (s : State) (n : Nat) {g : Hart → Hart} (hg : ∀ h, (g h).regs = h.regs) (r : Reg) : (s.updHartN n g).xr r = s.xr r := by
  have hregs : (s.updHartN n g).hart.regs = s.hart.regs := by
    rw [State.hart_updHartN]; split
    · exact hg _
    · rfl
  simp only [State.xr, hregs]

/-! ### The pool (spec/17 R426) -/

theorem State.pool_pairwise (s : State) (die : Nat) (ctx : BitVec 3) : (s.pool die ctx).Pairwise (· < ·) :=
  List.Pairwise.filter _ (List.Pairwise.map _ (fun _ _ h => Nat.add_lt_add_left h (die * 128)) List.pairwise_lt_range)

theorem head?_of_pairwise {l : List Nat} (hl : l.Pairwise (· < ·)) {p : Nat} (hp : p ∈ l) (hmin : ∀ q ∈ l, p ≤ q) : l.head? = some p := by
  cases l with
  | nil => cases hp
  | cons q l =>
    have hq : p ≤ q := hmin q List.mem_cons_self
    rcases List.mem_cons.1 hp with rfl | hp
    · rfl
    · exact absurd (List.rel_of_pairwise_cons hl hp) (Nat.not_lt.2 hq)

/-! ### The drain of a plate (spec/03 R87) -/

theorem SMap.mem_set {α : Type} {n : Nat} {v : α} {x : Nat × α} : ∀ {m : SMap α}, x ∈ SMap.set n v m → x = (n, v) ∨ x ∈ m := by
  intro m
  induction m with
  | nil => intro h; exact .inl (List.mem_singleton.1 h)
  | cons y m ih =>
    obtain ⟨k, w⟩ := y
    intro h
    rw [SMap.set] at h
    split at h
    · rcases List.mem_cons.1 h with rfl | h
      · exact .inl rfl
      · exact .inr (List.mem_cons_of_mem _ h)
    · split at h
      · rcases List.mem_cons.1 h with rfl | h
        · exact .inl rfl
        · exact .inr h
      · rcases List.mem_cons.1 h with rfl | h
        · exact .inr List.mem_cons_self
        · exact (ih h).imp_right (List.mem_cons_of_mem _)

/-- A plate that nothing uses is used by nothing after a change that adds no queued access and no copy. -/
theorem State.plateUsed_of_subset {s t : State} {p : Nat} (hids : t.hartIds = s.hartIds)
    (hq : ∀ h, (t.getHart h).vq = (s.getHart h).vq ∧ (t.getHart h).mq = (s.getHart h).mq)
    (hc : ∀ c ∈ t.m.clusters, c ∈ s.m.clusters ∨ c.2.copies = []) (hs : s.plateUsed p = false) : t.plateUsed p = false := by
  rw [State.plateUsed, Bool.or_eq_false_iff] at hs ⊢
  obtain ⟨hharts, hclusters⟩ := hs
  refine ⟨?_, ?_⟩
  · simpa only [hids, (hq _).1, (hq _).2] using hharts
  · rw [List.any_eq_false] at hclusters ⊢
    intro c hct
    rcases hc c hct with hcs | hcs
    · exact hclusters c hcs
    · simp [hcs]

/-- Nothing of a hart is queued or copying: a hand-over of its plate leaves its accesses as they are. -/
theorem State.keepDrain_quiet {s : State} (hv : s.hart.vq = []) (hm : s.hart.mq = []) (hc : (s.cluster (clusterOf s.cur)).copies = []) (k p : Nat) :
    s.keepDrain s.cur k p = s.setCluster (clusterOf s.cur) (s.cluster (clusterOf s.cur)) := by
  have hs : ∀ g : QEntry → QEntry, (s.updHartN s.cur fun x => { x with vq := x.vq.map g, mq := x.mq.map g }) = s := fun g => by
    have hh : { s.hart with vq := s.hart.vq.map g, mq := s.hart.mq.map g } = s.hart := by
      show _ = { s.hart with vq := s.hart.vq, mq := s.hart.mq }
      rw [hv, hm]; rfl
    simp only [State.updHartN, State.setHart, State.getHart_cur, if_true, hh]
  simp only [State.keepDrain, hs, hc, List.map_nil]
  rw [← hc]

/-- The executing hart without the plate in a slot from which nothing of its own is queued or copying. -/
def State.unslotted (s : State) (k : Nat) : State :=
  (s.updHart (·.setSlot k .empty)).setCluster (clusterOf s.cur) (s.cluster (clusterOf s.cur))

/-- The same as the hand-over of that plate begins, with the message that ends it. -/
def State.handing (s : State) (k p : Nat) (dest : HandTo) : State :=
  ((s.unslotted k).setPlate p (leaving (s.plate p) dest)).after
    [(.plateReattach, { die := BitVec.ofNat 3 (p / 128), unit := BitVec.ofNat 32 (p % 128) })]

theorem State.getHart_unslotted (s : State) (k h : Nat) :
    (s.unslotted k).getHart h = if h = s.cur then s.hart.setSlot k .empty else s.getHart h :=
  State.getHart_updHart s (·.setSlot k .empty) h

theorem State.plateUsed_unslotted {s : State} {p : Nat} (k : Nat) (hc : (s.cluster (clusterOf s.cur)).copies = []) (hused : s.plateUsed p = false) :
    (s.unslotted k).plateUsed p = false := by
  refine s.plateUsed_of_subset rfl (fun h => ?_) (fun c hcl => ?_) hused
  · rw [State.getHart_unslotted]
    split
    · next e => rw [e, State.getHart_cur]; exact ⟨Hart.setSlot_vq .., Hart.setSlot_mq ..⟩
    · exact ⟨rfl, rfl⟩
  · rcases SMap.mem_set hcl with rfl | hcl
    · exact .inr hc
    · exact .inl hcl

/-- A plate that nothing fills drains as its hand-over begins. -/
theorem State.handOver_eq {s u : State} {h k p : Nat} (dest : HandTo)
    (hu : (if (s.getHart h).slotAt k = .attached (p % 128) then (s.updHartN h (·.setSlot k .empty)).keepDrain h k p else s) = u)
    (hst : (u.plate p).state = 0#2 ∨ (u.plate p).state = 2#2) :
    s.handOver h k p dest = (u.setPlate p (leaving (u.plate p) dest)).drainCheck p := by
  have hleave : ¬ ((u.plate p).state = 1#2 ∨ (u.plate p).state = 3#2) := by rcases hst with e | e <;> rw [e] <;> decide
  simp only [State.handOver, hu, if_neg hleave]
  rfl

theorem State.drainCheck_leaving {u : State} {p : Nat} (x : Plate) (dest : HandTo) (hused : u.plateUsed p = false) :
    (u.setPlate p (leaving x dest)).drainCheck p = (u.setPlate p (leaving x dest)).after
      [(.plateReattach, { die := BitVec.ofNat 3 (p / 128), unit := BitVec.ofNat 32 (p % 128) })] := by
  have hx : (u.setPlate p (leaving x dest)).plate p = leaving x dest := State.plate_setPlate_same _ _ _
  have hused' : (u.setPlate p (leaving x dest)).plateUsed p = false := hused
  simp only [State.drainCheck, hx, hused']
  rfl

theorem State.handOver_quiet {s : State} {k p : Nat} (h : HoldsQuietly s k p) (dest : HandTo)
    (hst : (s.plate (s.die * 128 + p)).state = 0#2 ∨ (s.plate (s.die * 128 + p)).state = 2#2) :
    s.handOver s.cur k (s.die * 128 + p) dest = s.handing k (s.die * 128 + p) dest := by
  obtain ⟨hslot, hp, hv, hm, hc, hused, -⟩ := h
  have hslot' : (s.getHart s.cur).slotAt k = .attached ((s.die * 128 + p) % 128) := by
    rw [State.getHart_cur, hslot, show (s.die * 128 + p) % 128 = p by omega]
  have hupd : s.updHartN s.cur (·.setSlot k .empty) = s.updHart (·.setSlot k .empty) := by simp [State.updHartN, State.setHart, State.updHart]
  have hkeep : (s.updHart (·.setSlot k .empty)).keepDrain s.cur k (s.die * 128 + p) = s.unslotted k :=
    State.keepDrain_quiet (s := s.updHart _) (by simpa using hv) (by simpa using hm) hc k _
  rw [s.handOver_eq (u := s.unslotted k) dest (by rw [if_pos hslot', hupd, hkeep]) hst, State.drainCheck_leaving _ _ (s.plateUsed_unslotted k hc hused)]
  rfl

/-! ### The instructions of a slot (spec/17 R425 to R428) -/

theorem yields_of_malformed {s : State} {i : Instr} {d a : Reg} {run : Nat → M Nat} (h : 16 ≤ (s.xr a).toNat)
    (he : exec i s = finish (plateOp i d a run) s) : Yields i s d 7#64 := ⟨_, he.trans (finish_ok (plateOp_malformed h)), writesX_setX s d _⟩

theorem ends_of_reserved {s : State} {i : Instr} {d a : Reg} {run : Nat → M Nat} (h : (s.xr a).toNat < 16)
    (hr : s.hart.grant.reserves (s.xr a).toNat = true) (hs : Settled s) (he : exec i s = finish (plateOp i d a run) s) :
    Ends i s fun t => TrapsTo s t tcGrant ((encode i).zeroExtend 64) :=
  ⟨_, he.trans (finish_trap (plateOp_reserved h hr)), trapsTo_takeTrap hs _ _⟩

theorem needHart_some {s : State} {n : Word} {g : Nat} (h : s.logicalHart n = some g) : needHart n s = .ok g s := by simp only [needHart, M.get_bind, h]; rfl

theorem Grant.reserves_iff {g : Grant} {k : Nat} : g.reserves k = true ↔ g.orb = true ∧ 14 ≤ k := by simp [Grant.reserves]

section
variable {s : State} {d a b : Reg} (hk : (s.xr a).toNat < 16) (hr : s.hart.grant.reserves (s.xr a).toNat = false)
include hk hr

/-- A refused instruction changes x[d] and the pc alone. -/
theorem yields_of_run {i : Instr} {run : Nat → M Nat} {st : Nat} (he : exec i s = finish (plateOp i d a run) s)
    (hrun : run (s.xr a).toNat s = .ok st s) : Yields i s d (BitVec.ofNat 64 st) :=
  ⟨_, he.trans (finish_ok (plateOp_ok hk hr hrun)), writesX_setX s d _⟩

/-- One that is performed ends in the state it makes, with its status in x[d]. -/
theorem ends_of_run {i : Instr} {run : Nat → M Nat} {t : State} {p : State → Prop} (he : exec i s = finish (plateOp i d a run) s)
    (hrun : run (s.xr a).toNat s = .ok 0 t) (hp : p (t.setX d 0#64).advance) : Ends i s p :=
  ⟨_, he.trans (finish_ok (plateOp_ok hk hr hrun)), hp⟩

theorem yields_pclaim_taken (h : s.hart.slotAt (s.xr a).toNat ≠ .empty) : Yields (.pclaim d a) s d 2#64 :=
  yields_of_run hk hr rfl (by simp only [pclaimRun, M.get_bind, if_pos h]; rfl)

theorem yields_pclaim_none (h : s.hart.slotAt (s.xr a).toNat = .empty) (hp : s.pool s.die s.hart.ctx = []) : Yields (.pclaim d a) s d 3#64 :=
  yields_of_run hk hr rfl (by simp only [pclaimRun, M.get_bind, h, hp, ne_eq, not_true_eq_false, if_false]; rfl)

theorem ends_pclaim {p : Nat} (hp : p ∈ s.pool s.die s.hart.ctx) (h : s.hart.slotAt (s.xr a).toNat = .empty)
    (hmin : ∀ q ∈ s.pool s.die s.hart.ctx, p ≤ q) : Ends (.pclaim d a) s fun t =>
      t.plate p = { s.plate p with state := 0#2, attach := 2#2, target := s.cur % 256 * 16 + (s.xr a).toNat } ∧
      (∀ q, q ≠ p → t.plate q = s.plate q) ∧ t.hart.slotAt (s.xr a).toNat = .attached (p % 128) ∧
      (∀ j, j ≠ (s.xr a).toNat → t.hart.slotAt j = s.hart.slotAt j) ∧ Gets s t d 0#64 ∧ t.m.mem = s.m.mem ∧ t.others = s.others := by
  have hhead := head?_of_pairwise (s.pool_pairwise s.die s.hart.ctx) hp hmin
  have hrun : pclaimRun (s.xr a).toNat s = .ok 0 ((s.setPlate p { s.plate p with state := 0#2, attach := 2#2, target := s.cur % 256 * 16 + (s.xr a).toNat }).updHart
      (·.setSlot (s.xr a).toNat (.attached (p % 128)))) := by
    simp only [pclaimRun, M.get_bind, h, hhead, ne_eq, not_true_eq_false, if_false]; rfl
  refine ends_of_run hk hr rfl hrun ⟨?_, fun q hq => ?_, ?_, fun j hj => ?_, ?_, rfl, rfl⟩
  · exact State.plate_setPlate_same s p _
  · exact State.plate_setPlate_other s p q _ hq
  · exact (Hart.setX_slotAt ..).trans (Hart.slotAt_setSlot_same _ hk _)
  · exact (Hart.setX_slotAt ..).trans (Hart.slotAt_setSlot_other _ hk hj _)
  · exact gets_setX (fun r => by simp [State.xr]) d _

theorem yields_prel_none (h : ∀ p, s.hart.slotAt (s.xr a).toNat ≠ .attached p) : Yields (.prel d a) s d 1#64 := by
  refine yields_of_run hk hr rfl ?_
  rw [prelRun, M.get_bind]
  cases e : s.hart.slotAt (s.xr a).toNat with
  | attached p => exact absurd e (h p)
  | empty => rfl
  | pending => rfl

theorem yields_pmark_none (h : ∀ p, s.hart.slotAt (s.xr a).toNat ≠ .attached p) : Yields (.pmark d a b) s d 1#64 := by
  refine yields_of_run hk hr rfl ?_
  rw [pmarkRun, M.get_bind]
  cases e : s.hart.slotAt (s.xr a).toNat with
  | attached p => exact absurd e (h p)
  | empty => rfl
  | pending => rfl

section
variable {p : Nat} (h : HoldsQuietly s (s.xr a).toNat p)
include h

theorem ends_prel (hst : (s.plate (s.die * 128 + p)).state = 0#2 ∨ (s.plate (s.die * 128 + p)).state = 2#2) : Ends (.prel d a) s fun t =>
    Gets s t d 0#64 ∧ t.plate (s.die * 128 + p) = leaving (s.plate (s.die * 128 + p)) .pool ∧
    (∀ q, q ≠ s.die * 128 + p → t.plate q = s.plate q) ∧ t.hart.slotAt (s.xr a).toNat = .empty ∧
    (∀ j, j ≠ (s.xr a).toNat → t.hart.slotAt j = s.hart.slotAt j) ∧ t.m.mem = s.m.mem ∧
    t.inbox = s.inbox ++ [(.plateReattach, { die := BitVec.ofNat 3 s.die, unit := BitVec.ofNat 32 p })] := by
  have hrun : prelRun (s.xr a).toNat s = .ok 0 (s.handing (s.xr a).toNat (s.die * 128 + p) .pool) := by
    simp only [prelRun, M.get_bind, h.1, ← s.handOver_quiet h .pool hst]; rfl
  obtain ⟨-, hp, -⟩ := h
  refine ends_of_run hk hr rfl hrun ⟨gets_setX (fun r => ?_) d _, ?_, fun q hq => ?_, ?_, fun j hj => ?_, rfl, ?_⟩
  · simp [State.handing, State.unslotted, State.xr]
  · exact State.plate_setPlate_same _ _ _
  · exact State.plate_setPlate_other _ _ _ _ hq
  · exact (Hart.setX_slotAt ..).trans (Hart.slotAt_setSlot_same _ hk _)
  · exact (Hart.setX_slotAt ..).trans (Hart.slotAt_setSlot_other _ hk hj _)
  · simp only [State.advance_inbox, State.setX_inbox, State.handing, State.after_inbox, show (s.die * 128 + p) / 128 = s.die by omega,
      show (s.die * 128 + p) % 128 = p by omega]
    rfl

theorem yields_pmark_refused (hx : (s.xr b ≠ 0#64 ∧ s.xr b ≠ 2#64) ∨ (s.plate (s.die * 128 + p)).state = 1#2) : Yields (.pmark d a b) s d 6#64 :=
  yields_of_run hk hr rfl (by simp only [pmarkRun, M.get_bind, h.1, if_pos hx]; rfl)

theorem ends_pmark (hx : s.xr b = 0#64 ∨ s.xr b = 2#64) (hst : (s.plate (s.die * 128 + p)).state ≠ 1#2) : Ends (.pmark d a b) s fun t =>
    Gets s t d 0#64 ∧ t.plate (s.die * 128 + p) = { s.plate (s.die * 128 + p) with state := (s.xr b).setWidth 2 } ∧
    (∀ q, q ≠ s.die * 128 + p → t.plate q = s.plate q) ∧ t.hart.slots = s.hart.slots ∧ t.m.mem = s.m.mem := by
  obtain ⟨hslot, -, hv, hm, -⟩ := h
  have hx' : ¬ ((s.xr b ≠ 0#64 ∧ s.xr b ≠ 2#64) ∨ (s.plate (s.die * 128 + p)).state = 1#2) := by tauto
  have hq : s.queuedOn (s.xr a).toNat (s.die * 128 + p) = false := by
    have hahead : s.ahead = [] := by unfold State.ahead; split <;> simp [hv, hm]
    simp [State.queuedOn, hahead]
  have hrun : pmarkRun (s.xr b) (s.xr a).toNat s = .ok 0
      (s.setPlate (s.die * 128 + p) { s.plate (s.die * 128 + p) with state := (s.xr b).extractLsb' 0 2 }).copyRetry := by
    simp only [pmarkRun, M.get_bind, hslot, if_neg hx', hq, Bool.false_eq_true, if_false]; rfl
  refine ends_of_run hk hr rfl hrun ⟨gets_setX (fun _ => rfl) d _, ?_, fun q hq => ?_, ?_, rfl⟩
  · rw [BitVec.setWidth_eq_extractLsb' (by decide)]
    exact State.plate_setPlate_same _ _ _
  · exact State.plate_setPlate_other _ _ _ _ hq
  · exact Hart.setX_slots ..

end

/-! ### `pgive` (spec/17 R427) -/

theorem yields_pgive_malformed (hx : (s.xr b).toNat / 2 ^ 20 ≠ 0) : Yields (.pgive d a b) s d 7#64 :=
  yields_of_run hk hr rfl (by simp only [pgiveRun, if_pos (extractLsb'_twenty_ne_zero.2 hx)]; rfl)

theorem ends_pgive_unknown (hx : (s.xr b).toNat / 2 ^ 20 = 0) (hl : s.logicalHart (s.xr b &&& 0xFFFF#64) = none) (hs : Settled s) :
    Ends (.pgive d a b) s fun t => TrapsTo s t tcAccessFault (s.xr b &&& 0xFFFF#64) := by
  have hneed : needHart (s.xr b &&& 0xFFFF#64) s = .error (.trap tcAccessFault (s.xr b &&& 0xFFFF#64)) s := by
    simp only [needHart, M.get_bind, hl]; rfl
  have hrun : pgiveRun (s.xr b) (s.xr a).toNat s = .error (.trap tcAccessFault (s.xr b &&& 0xFFFF#64)) s := by
    simp only [pgiveRun, if_neg (not_not.2 hx ∘ extractLsb'_twenty_ne_zero.1), zeroExtend_extractLsb'_zero]
    exact M.bind_error hneed
  exact ⟨_, finish_trap (plateOp_error (i := .pgive d a b) (d := d) hk hr hrun), trapsTo_takeTrap hs _ _⟩

section
variable {g : Nat} (hx : (s.xr b).toNat / 2 ^ 20 = 0) (hl : s.logicalHart (s.xr b &&& 0xFFFF#64) = some g)
include hx hl

theorem yields_pgive_none (h : ∀ p, s.hart.slotAt (s.xr a).toNat ≠ .attached p) : Yields (.pgive d a b) s d 1#64 := by
  refine yields_of_run hk hr rfl ?_
  simp only [pgiveRun, if_neg (not_not.2 hx ∘ extractLsb'_twenty_ne_zero.1), zeroExtend_extractLsb'_zero, M.bind_ok (needHart_some hl), M.get_bind]
  cases e : s.hart.slotAt (s.xr a).toNat with
  | attached p => exact absurd e (h p)
  | empty => rfl
  | pending => rfl

omit hk hr in
/-- With a plate in the slot and a target of the launch named: what `pgive` gives, in the order of its checks. -/
theorem pgiveRun_eq {k p : Nat} (h : s.hart.slotAt k = .attached p) :
    pgiveRun (s.xr b) k s =
      if s.hasRetired g then .ok 5 s
      else if dieOfHart g ≠ s.die ∨ (s.getHart g).grant.reserves ((s.xr b).toNat / 2 ^ 16) = true ∨
        ((s.getHart g).slotAt ((s.xr b).toNat / 2 ^ 16) ≠ .empty ∧ ¬ (g = s.cur ∧ (s.xr b).toNat / 2 ^ 16 = k)) then .ok 4 s
      else .ok 0 ((s.handOver s.cur k (s.die * 128 + p) (.slot g ((s.xr b).toNat / 2 ^ 16) true)).updHartN g
        (·.setSlot ((s.xr b).toNat / 2 ^ 16) .pending)) := by
  simp only [pgiveRun, if_neg (not_not.2 hx ∘ extractLsb'_twenty_ne_zero.1), zeroExtend_extractLsb'_zero, M.bind_ok (needHart_some hl), M.get_bind, h,
    toNat_extractLsb'_sixteen hx]
  by_cases h1 : s.hasRetired g = true
  · simp only [h1, if_true]; rfl
  by_cases h2 : dieOfHart g ≠ s.die
  · simp only [h1, h2, ne_eq, not_false_eq_true, true_or, if_true]; rfl
  by_cases h3 : (s.getHart g).grant.reserves ((s.xr b).toNat / 2 ^ 16) = true
  · simp only [h1, h2, h3, true_or, or_true, if_true]; rfl
  simp only [h1, h2, h3, false_or, Bool.false_eq_true, if_false]
  split <;> rfl

variable {p : Nat} (h : HoldsQuietly s (s.xr a).toNat p)
include h

theorem yields_pgive_retired (hg : s.hasRetired g = true) : Yields (.pgive d a b) s d 5#64 :=
  yields_of_run hk hr rfl (by rw [pgiveRun_eq hx hl h.1, if_pos hg])

theorem yields_pgive_refused (hg : s.hasRetired g = false) (hj : dieOfHart g ≠ s.die ∨
    ((s.getHart g).grant.orb = true ∧ 14 ≤ (s.xr b).toNat / 2 ^ 16) ∨
    ((s.getHart g).slotAt ((s.xr b).toNat / 2 ^ 16) ≠ .empty ∧ ¬ (g = s.cur ∧ (s.xr b).toNat / 2 ^ 16 = (s.xr a).toNat))) :
    Yields (.pgive d a b) s d 4#64 := by
  rw [← Grant.reserves_iff] at hj
  exact yields_of_run hk hr rfl (by rw [pgiveRun_eq hx hl h.1, if_neg (by simp [hg]), if_pos hj])

theorem ends_pgive (hg : s.hasRetired g = false) (hd : dieOfHart g = s.die)
    (ho : ¬ ((s.getHart g).grant.orb = true ∧ 14 ≤ (s.xr b).toNat / 2 ^ 16))
    (hj : (s.getHart g).slotAt ((s.xr b).toNat / 2 ^ 16) = .empty ∨ (g = s.cur ∧ (s.xr b).toNat / 2 ^ 16 = (s.xr a).toNat))
    (hst : (s.plate (s.die * 128 + p)).state = 0#2 ∨ (s.plate (s.die * 128 + p)).state = 2#2) : Ends (.pgive d a b) s fun t =>
      Gets s t d 0#64 ∧ t.plate (s.die * 128 + p) = leaving (s.plate (s.die * 128 + p)) (.slot g ((s.xr b).toNat / 2 ^ 16) true) ∧
      (t.getHart g).slotAt ((s.xr b).toNat / 2 ^ 16) = .pending ∧
      (¬ (g = s.cur ∧ (s.xr b).toNat / 2 ^ 16 = (s.xr a).toNat) → t.hart.slotAt (s.xr a).toNat = .empty) ∧ t.m.mem = s.m.mem := by
  have hj16 : (s.xr b).toNat / 2 ^ 16 < 16 := by omega
  have hgo : ¬ (dieOfHart g ≠ s.die ∨ (s.getHart g).grant.reserves ((s.xr b).toNat / 2 ^ 16) = true ∨
      ((s.getHart g).slotAt ((s.xr b).toNat / 2 ^ 16) ≠ .empty ∧ ¬ (g = s.cur ∧ (s.xr b).toNat / 2 ^ 16 = (s.xr a).toNat))) := by
    rw [Grant.reserves_iff]; tauto
  have hrun := pgiveRun_eq hx hl h.1
  rw [if_neg (by simp [hg]), if_neg hgo, s.handOver_quiet h _ hst] at hrun
  generalize (s.xr b).toNat / 2 ^ 16 = j at *
  refine ends_of_run hk hr rfl hrun ⟨gets_setX (fun r => ?_) d _, ?_, ?_, fun hne => ?_, ?_⟩
  · rw [State.xr_updHartN_of_regs _ _ fun _ => Hart.setSlot_regs ..]
    simp [State.handing, State.unslotted, State.xr]
  · rw [State.plate_setX_advance, State.plate_updHartN]
    exact State.plate_setPlate_same _ _ _
  · rw [State.slotAt_setX_advance, State.getHart_updHartN, if_pos rfl, Hart.slotAt_setSlot_same _ hj16]
  · have hcur : (s.handing (s.xr a).toNat (s.die * 128 + p) (.slot g j true)).hart.slotAt (s.xr a).toNat = .empty :=
      Hart.slotAt_setSlot_same _ hk _
    refine (Hart.setX_slotAt ..).trans ?_
    rw [State.hart_updHartN]
    split
    · next e => rw [Hart.slotAt_setSlot_other _ hj16 fun e' => hne ⟨e.symm, e'.symm⟩]; exact hcur
    · exact hcur
  · simp [State.handing, State.unslotted]

end

end

/-- `pstat` (spec/17 R429). -/
theorem yields_pstat (s : State) (d a : Reg) : Yields (.pstat d a) s d (s.pstat (s.xr a)) := ⟨_, rfl, writesX_setX s d _⟩

theorem State.pstat_eq (s : State) (x : Word) : s.pstat x =
    (if x.toNat = 16 then BitVec.ofNat 64 (s.pool s.die s.hart.ctx).length
     else match s.hart.slotAt x.toNat with
       | .empty => 0#64
       | .attached p => let r := s.plate (s.die * 128 + p)
         BitVec.ofNat 64 (p % 128) <<< 16 ||| 0x10#64 ||| r.held.zeroExtend 64 <<< 2 ||| r.state.zeroExtend 64
       | .pending => match s.incoming s.cur x.toNat with
         | none => 0x20#64
         | some n => let r := s.plate n
           BitVec.ofNat 64 (n % 128) <<< 16 ||| 0x20#64 ||| r.held.zeroExtend 64 <<< 2 ||| r.state.zeroExtend 64) := by
  have h16 : x = 16#64 ↔ x.toNat = 16 := by rw [← BitVec.toNat_inj]; rfl
  unfold State.pstat
  simp only [h16]
  by_cases h : x.toNat = 16
  · rw [if_pos h, if_pos h]
  rw [if_neg h, if_neg h]
  by_cases hlt : 16 < x.toNat
  · have he : s.hart.slotAt x.toNat = .empty := dif_neg (by omega)
    rw [if_pos hlt, he]
  rw [if_neg hlt]
  cases s.hart.slotAt x.toNat with
  | empty => rfl
  | attached p => rfl
  | pending => cases s.incoming s.cur x.toNat <;> rfl

/-! ### The end of a hand-over (spec/03 R87) -/

theorem exec_plateReattach (s : State) : exec .plateReattach s = .next (s.reattach (s.msg.die.toNat * 128 + s.msg.unit.toNat % 128)) := rfl

theorem State.reattach_waits {s : State} {n : Nat} (h : (s.plate n).hand = none ∨ (s.plate n).state ≠ 3#2 ∨ s.plateUsed n = true) :
    s.reattach n = s := by
  cases e : (s.plate n).hand with
  | none => simp only [State.reattach, e]
  | some dest => simp only [State.reattach, e, if_pos (h.resolve_left (by simp [e]))]

/-- Giving a plate that drains to the pool changes that plate, and asks the copy units and the placement engine again. -/
theorem State.toPool_eq {s : State} {n : Nat} (hst : (s.plate n).state = 3#2) : ∃ l, s.toPool n =
    (s.setPlate n { s.plate n with state := (s.plate n).held, attach := 1#2, target := 0, hand := none }).after l := by
  simp only [State.toPool, if_pos hst, State.placeAgain, State.copyRetry]
  split
  · exact ⟨_, rfl⟩
  · exact ⟨_, State.after_after ..⟩

section
variable {s : State} {n : Nat} (hst : (s.plate n).state = 3#2) (hu : s.plateUsed n = false)
include hst hu

theorem State.reattach_toPool (h : (s.plate n).hand = some .pool ∨ (∃ h k g, (s.plate n).hand = some (.slot h k g) ∧ (s.getHart h).slotAt k ≠ .pending)) :
    s.reattach n = s.toPool n := by
  have hgo : ¬ ((s.plate n).state ≠ 3#2 ∨ s.plateUsed n = true) := by simp [hst, hu]
  rcases h with e | ⟨h, k, g, e, hk⟩
  · simp only [State.reattach, e, if_neg hgo]
  · simp only [State.reattach, e, if_neg hgo, if_neg hk]

theorem State.reattach_slot {h k : Nat} {give : Bool} (e : (s.plate n).hand = some (.slot h k give)) (hk : (s.getHart h).slotAt k = .pending) :
    s.reattach n =
      ((s.setPlate n { s.plate n with state := (s.plate n).held, attach := 2#2, target := h % 256 * 16 + k, hand := none }).copyRetry).updHartN h
        fun y => { y.setSlot k (.attached (n % 128)) with latch := if give then y.latch ||| 0b0001000#7 else y.latch } := by
  have hgo : ¬ ((s.plate n).state ≠ 3#2 ∨ s.plateUsed n = true) := by simp [hst, hu]
  simp only [State.reattach, e, if_neg hgo, if_pos hk]

end

/-- Settles O38: a plate instruction is the run of its checks on a slot that is neither malformed nor reserved (`plateOp_eq`), a hand-over from
a hart with nothing queued detaches the slot and lets the plate drain (`State.handOver_quiet`), and `State.reattach` ends it. -/
theorem platesAndTheirHandOvers : Obligations.PlatesAndTheirHandOvers := by
  refine ⟨fun s d a b => ?_, fun s => ?_⟩
  · intro x k h
    refine ⟨fun hk i hi => ?_, fun hk h14 ho hs i hi => ?_, fun hk hno => ?_, ?_⟩
    · simp only [List.mem_cons, List.not_mem_nil, or_false] at hi
      rcases hi with rfl | rfl | rfl | rfl <;> exact yields_of_malformed hk rfl
    · have hr : s.hart.grant.reserves (s.xr a).toNat = true := Grant.reserves_iff.2 ⟨ho, h14⟩
      simp only [List.mem_cons, List.not_mem_nil, or_false] at hi
      rcases hi with rfl | rfl | rfl | rfl <;> exact ends_of_reserved hk hr hs rfl
    · have hr : s.hart.grant.reserves (s.xr a).toNat = false := Bool.eq_false_iff.2 (mt Grant.reserves_iff.1 hno)
      exact ⟨yields_pclaim_taken hk hr, yields_pclaim_none hk hr, fun p hp he hmin => ends_pclaim hk hr hp he hmin,
        fun hp => ⟨yields_prel_none hk hr hp, yields_pmark_none hk hr hp⟩,
        fun p hq => ⟨ends_prel hk hr hq, yields_pmark_refused hk hr hq, ends_pmark hk hr hq⟩,
        yields_pgive_malformed hk hr, ends_pgive_unknown hk hr,
        fun g hx hl => ⟨yields_pgive_none hk hr hx hl, fun p hq => ⟨yields_pgive_retired hk hr hx hl hq, yields_pgive_refused hk hr hx hl hq,
          ends_pgive hk hr hx hl hq⟩⟩⟩
    · have hp := yields_pstat s d a
      rw [State.pstat_eq] at hp
      exact hp
  · intro n x
    refine ⟨fun h => ?_, fun hst hu => ⟨fun h => ?_, fun h k give e hk hk16 => ?_⟩⟩
    · rw [exec_plateReattach, State.reattach_waits h]
    · obtain ⟨l, hl⟩ := s.toPool_eq hst
      refine ⟨_, exec_plateReattach s, ?_⟩
      rw [State.reattach_toPool hst hu h, hl]
      exact ⟨State.plate_setPlate_same _ _ _, fun q hq => State.plate_setPlate_other _ _ _ _ hq, ⟨rfl, rfl, rfl⟩, rfl⟩
    · refine ⟨_, exec_plateReattach s, ?_⟩
      rw [State.reattach_slot hst hu e hk]
      refine ⟨?_, fun q hq => ?_, ?_, ?_, fun g hg => ?_, ?_⟩
      · rw [State.plate_updHartN]; exact State.plate_setPlate_same _ _ _
      · rw [State.plate_updHartN]; exact State.plate_setPlate_other _ _ _ _ hq
      · rw [State.getHart_updHartN, if_pos rfl]; exact Hart.slotAt_setSlot_same _ hk16 _
      · rw [State.getHart_updHartN, if_pos rfl]; rfl
      · rw [State.getHart_updHartN, if_neg hg]; rfl
      · rw [State.updHartN_m]; rfl

end Sys2Proof.Machine
end

section
/-! SUPPORT. What the operations between the caches and main memory leave alone (spec/03 R66 to R77, spec/05 R118 to R137). Each of them is built of a
few updates of the state. A property that those updates keep is kept by the operation: it is stated for every such property at once, in three
steps, as the operations write no bytes (`Inv.Base`), write bytes at home (`Inv.Home`), or open rows and queue requests at the channels
(`Inv.Fill`). -/
namespace Sys2Proof.Machine
set_option Elab.async false

/-- A property that the updates of slices, caches, poison, messages and watches keep. -/
structure Inv.Base (P : State → Prop) : Prop where
  slices : ∀ {s : State} {x : MemState → SMap SliceState}, P s → P (s.updMem fun m => { m with slices := x m })
  poison : ∀ {s : State} {x : MemState → List Nat}, P s → P (s.updMem fun m => { m with poisoned := x m })
  under : ∀ {s : State} {x : MemState → SMap Under}, P s → P (s.updMem fun m => { m with under := x m })
  l1 : ∀ {s : State} {c : Nat} {g : List CacheLine → List CacheLine}, P s → P (s.updL1 c g)
  cc : ∀ {s : State} {k : Nat} {g : List CacheLine → List CacheLine}, P s → P (s.updCC k g)
  fabric : ∀ {s : State} {r : FabricState → List Remote} {p : FabricState → List Packet} {a : FabricState → Answer}, P s →
    P (s.updFab fun f => { f with remotes := r f, sent := p f, answer := a f })
  agents : ∀ {s : State} {pa n : Nat}, P s → P (s.fireAgents pa n)
  wake : ∀ {s : State} {h : Nat}, P s → P (s.updHartN h (·.watchArrival))

/-- One that writes of bytes keep too. -/
structure Inv.Home (P : State → Prop) : Prop extends Inv.Base P where
  store : ∀ {s : State} {b : MemState → List Host.Cell} {k : MemState → SMap LineKey} {p q : MemState → List Nat}, P s →
    P (s.updMem fun m => { m with mem := b m, lineKeys := k m, poisoned := p m, marks := q m })

/-- One that changes of channels and new steps of other agents keep too. -/
structure Inv.Fill (P : State → Prop) : Prop extends Inv.Home P where
  channel : ∀ {s : State} {k : Nat} {c : Channel}, P s → P (s.setChannel k c)
  after : ∀ {s : State} {l : List (Instr × Msg)}, P s → P (s.after l)

theorem Inv.ite {P : State → Prop} {c : Prop} {_ : Decidable c} {a b : State} (ha : P a) (hb : P b) : P (if c then a else b) := by
  split
  · exact ha
  · exact hb

theorem Inv.elim {P : State → Prop} {α : Type} {o : Option α} {d : State} {f : α → State} (hd : P d) (h : ∀ a, P (f a)) : P (o.elim d f) := by
  cases o with
  | none => exact hd
  | some a => exact h a

theorem Inv.foldl {P : State → Prop} {α : Type} {g : State → α → State} {l : List α} {s : State} (hs : P s) (hg : ∀ t, P t → ∀ a, P (g t a)) :
    P (l.foldl g s) := by
  induction l generalizing s with
  | nil => exact hs
  | cons a l ih => exact ih (hg s hs a)

/-! ### Operations that write no bytes -/

namespace Inv.Base
section
variable {P : State → Prop} (hP : Inv.Base P) {s : State} (hs : P s)
include hP hs

theorem setSlice {k v} : P (s.setSlice k v) := hP.slices hs
theorem addPoison {ln} : P (s.addPoison ln) := hP.poison hs
theorem mergeUnder {ln} : P (s.mergeUnder ln) := Inv.ite (hP.addPoison hs) hs
theorem dropUnder {ln} : P (s.dropUnder ln) := hP.under hs
theorem keepUnder {ln} : P (s.keepUnder ln) := Inv.ite hs (hP.under hs)
theorem homeLeft {v} : P (s.homeLeft v) := Inv.ite hs (hP.dropUnder (Inv.ite (hP.mergeUnder hs) hs))
theorem answerRemote {slot ln} : P (s.answerRemote slot ln) := Inv.ite hs (hP.fabric hs)
theorem tell {dev ln hart what m} : P (s.tell dev ln hart what m) := Inv.ite hs (hP.fabric hs)
theorem reply {b p} : P (s.reply b p) := hP.fabric hs

theorem fireWatches {pa n} : P (s.fireWatches pa n) :=
  Inv.ite (hP.agents hs) (Inv.foldl (hP.setSlice (hP.agents hs)) fun _ ht _ => Inv.ite (hP.wake ht) (hP.tell ht))

theorem mapL1 {c ln g} : P (s.mapL1 c ln g) := Inv.ite (hP.l1 hs) hs
theorem mapCC {k ln g} : P (s.mapCC k ln g) := Inv.ite (hP.cc hs) hs
theorem revoke {h ln m} : P (s.revoke h ln m) := Inv.ite (hP.tell hs) (hP.mapCC (hP.mapL1 hs))
theorem sliceAdd {key l} : P (s.sliceAdd key l) := hP.setSlice hs
theorem sliceDrop {key v} : P (s.sliceDrop key v) := hP.setSlice hs
theorem dropOwners {key ln m} : P (s.dropOwners key ln m) := hP.setSlice (Inv.foldl hs fun _ ht _ => hP.revoke ht)
theorem waitAt {k q p} : P (s.waitAt k q p) := hP.setSlice hs

theorem homeMark {ln m psn} : P (s.homeMark ln m psn) := by
  dsimp only [State.homeMark]
  split
  · exact hP.setSlice hs
  · split
    · exact hP.sliceAdd hs
    · exact hs
    · exact Inv.ite hs (hP.sliceAdd (hP.sliceDrop (hP.homeLeft hs)))

theorem rlcPass {die ln m data psn} : P (s.rlcPass die ln m data psn) := by
  dsimp only [State.rlcPass]
  split
  · exact hs
  · split
    · exact hP.setSlice hs
    · exact hs

theorem deregister {die ln m p} : P (s.deregister die ln m p) := by
  dsimp only [State.deregister]
  split
  · exact hP.setSlice hs
  · exact hP.setSlice (hP.setSlice hs)

end
end Inv.Base

/-! ### Operations that write bytes at home -/

namespace Inv.Home
section
variable {P : State → Prop} (hP : Inv.Home P) {s : State} (hs : P s)
include hP hs

theorem homeStore {slot pa bs} : P (s.homeStore slot pa bs) := Inv.ite (hP.store (hP.keepUnder hs)) (hP.store hs)

theorem homeWriteWords {slot ln words data psn} : P (s.homeWriteWords slot ln words data psn) := by
  unfold State.homeWriteWords
  extract_lets m t u
  have ht : P t := hP.homeMark (hP.answerRemote hs)
  have hu : P u := Inv.ite (hP.fireWatches (hP.homeStore ht)) (Inv.foldl ht fun _ h _ => Inv.ite (hP.fireWatches (hP.homeStore h)) h)
  exact Inv.ite hs (Inv.ite (hP.addPoison hu) hu)

theorem writeHome {slot ln m data psn} : P (s.writeHome slot ln m data psn) := Inv.ite hs (hP.homeWriteWords (hP.dropOwners hs))

theorem revokeWB {slot point h ln m rlc} : P (s.revokeWB slot point h ln m rlc) :=
  hP.revoke (Inv.ite hs (Inv.ite (hP.writeHome (hP.rlcPass hs)) (hP.homeWriteWords hs)))

theorem takeFrom {slot key ln m keep wb} : P (s.takeFrom slot key ln m keep wb) :=
  hP.setSlice (Inv.foldl hs fun _ ht _ => hP.revoke (hP.revokeWB ht))

theorem sliceAlloc {slot key l} : P (s.sliceAlloc slot key l) := by
  unfold State.sliceAlloc
  split
  · exact hP.sliceAdd hs
  · exact hs
  · exact hP.sliceAdd (hP.sliceDrop (Inv.ite (hP.homeWriteWords (hP.takeFrom hs)) (hP.homeLeft hs)))

theorem writeBack {slot die ln m data psn} : P (s.writeBack slot die ln m data psn) := by
  unfold State.writeBack
  refine Inv.ite hs (hP.writeHome (hP.rlcPass ?_))
  split
  · exact hs
  · exact hP.dropOwners hs

theorem toPoint {slot die ln m data psn p} : P (s.toPoint slot die ln m data psn p) := hP.writeBack (hP.writeHome (hP.deregister hs))

theorem sliceWrite {slot k ln rlc m data psn} : P (s.sliceWrite slot k ln rlc m data psn) :=
  Inv.ite (hP.writeHome (hP.dropOwners hs)) (hP.writeHome hs)

end
end Inv.Home

/-! ### Evictions and fills -/

namespace Inv.Fill
section
variable {P : State → Prop} (hP : Inv.Fill P) {s : State} (hs : P s)
include hP hs

theorem openRow {pa} : P (s.openRow pa) := Inv.ite (hP.channel hs) hs

theorem homeTouch {slot ln dirty} : P (s.homeTouch slot ln dirty) := by
  have ha := hP.answerRemote hs (slot := slot) (ln := ln)
  dsimp only [State.homeTouch]
  split
  · exact hP.setSlice (Inv.ite (hP.mergeUnder (hP.openRow ha)) ha)
  · exact hP.sliceAlloc (Inv.ite (hP.openRow ha) ha)

theorem fetchLine {slot die ln} : P (s.fetchLine slot die ln).1 := by
  dsimp only [State.fetchLine]
  split
  · exact hP.homeTouch hs
  · split
    · exact hP.setSlice (hP.homeTouch hs)
    · exact hP.sliceAlloc (hP.homeTouch hs)

theorem evictCC {slot k ln} : P (s.evictCC slot k ln) := by
  unfold State.evictCC
  split
  · exact hs
  · extract_lets t die mine u dirty
    have hu : P u := Inv.foldl (hP.cc hs) fun _ h _ => Inv.ite (hP.mapL1 h) h
    split
    extract_lets v
    have hv : P v := Inv.ite hu (hP.toPoint hu)
    exact Inv.ite hv (hP.writeBack (hP.deregister hv))

theorem trimCC {slot k ln} : P (s.trimCC slot k ln) := Inv.ite hs (Inv.elim hs fun _ => hP.evictCC hs)
theorem ccOpen_add {slot k ln rid} : P (State.ccOpen.add slot k ln rid s) := hP.trimCC (hP.cc hs)

theorem ccOpen {slot k ln rid} : P (s.ccOpen slot k ln rid) := by
  unfold State.ccOpen
  split
  · exact Inv.ite (hP.cc hs) (hP.ccOpen_add (hP.evictCC hs))
  · exact hP.ccOpen_add hs

theorem disownOthers {h ln m} : P (s.disownOthers h ln m) := Inv.foldl hs fun _ ht _ => hP.mapL1 ht
theorem ccDirty {slot h ln rid m data psn} : P (s.ccDirty slot h ln rid m data psn) := Inv.ite hs (hP.mapCC (hP.disownOthers (hP.ccOpen hs)))

theorem evictL1 {slot c ln} : P (s.evictL1 slot c ln) := by
  unfold State.evictL1
  split
  · exact hs
  · extract_lets t die mine atPoint u v low w
    have hu : P u := Inv.ite (hP.l1 hs) (hP.toPoint (hP.l1 hs))
    have hv : P v := Inv.ite hu (hP.mapCC hu)
    have hw : P w := Inv.ite hv (hP.mapCC hv)
    exact hP.ccDirty hw

theorem trimL1 {slot c ln} : P (s.trimL1 slot c ln) := Inv.ite hs (Inv.elim hs fun _ => hP.evictL1 hs)
theorem l1Open_add {slot c ln rid} : P (State.l1Open.add slot c ln rid s) := hP.trimL1 (hP.l1 hs)

theorem l1Open {slot c ln rid} : P (s.l1Open slot c ln rid) := by
  unfold State.l1Open
  split
  · exact Inv.ite (hP.l1 hs) (hP.l1Open_add (hP.evictL1 hs))
  · exact hP.l1Open_add hs

theorem ccFill {slot k ln rid need} : P (s.ccFill slot k ln rid need) := by
  dsimp only [State.ccFill]
  split
  · exact hP.ccOpen hs
  · exact Inv.ite (hP.ccOpen hs) (hP.mapCC (hP.fetchLine (hP.ccOpen hs)))

theorem l1Fill {slot c ln rid need} : P (s.l1Fill slot c ln rid need) := by
  have ho := hP.l1Open hs (slot := slot) (c := c) (ln := ln) (rid := rid)
  dsimp only [State.l1Fill]
  split
  · exact ho
  · split
    · exact ho
    · split
      · exact hP.ccFill ho
      · exact hP.mapL1 (hP.ccFill ho)

theorem fillReturn {slot h ln rid toL1 stale} : P (s.fillReturn slot h ln rid toL1 stale) :=
  Inv.ite (hP.reply hs) (Inv.ite (hP.l1Fill (hP.reply hs)) (hP.ccFill (hP.reply hs)))

/-! ### Requests at a slice -/

theorem hbmQueue {slot la write} : P (s.hbmQueue slot la write) := hP.channel hs
theorem burst {slot v} : P (s.burst slot v) := Inv.ite hs (hP.hbmQueue (Inv.ite hs (hP.hbmQueue hs)))
theorem fetchFor {slot la rlc} : P (s.fetchFor slot la rlc) := Inv.ite (hP.after hs) (hP.hbmQueue hs)
theorem retryWaiting {k} : P (s.retryWaiting k) := hP.after (hP.setSlice hs)
theorem endRlcFill {slot ln} : P (s.endRlcFill slot ln) := Inv.foldl (hP.slices hs) fun _ ht _ => hP.retryWaiting ht

theorem sliceServe {k la rlc q} : P (s.sliceServe k la rlc q) := by
  unfold State.sliceServe
  extract_lets ln data t
  split
  next slot write pin m e =>
    extract_lets n answer
    have hanswer : ∀ u, P u → P (answer u) := fun u hu => Inv.ite hu (hP.reply hu)
    clear_value answer
    split
    · extract_lets lacks y u v
      have hv : P v := Inv.ite (hP.sliceWrite (hP.setSlice hs)) (hP.setSlice hs)
      exact Inv.ite (hP.waitAt hs) (Inv.ite (hP.waitAt (hP.fetchFor hv)) (hanswer _ (Inv.ite hv (hP.endRlcFill hv))))
    · split
      · exact hP.waitAt hs
      · extract_lets u
        have hu : P u := hP.sliceAlloc (Inv.elim hs fun _ => hP.burst hs)
        exact Inv.ite (hP.waitAt hs) (Inv.ite (hP.sliceWrite hu) (hP.waitAt (hP.fetchFor hu)))

end
end Inv.Fill

/-! ### The counts of corrected errors and the instruction caches (spec/03 R71, R79) -/

/-- Two states have the same counts of corrected array errors, and the same lines in every L1I. -/
def State.SameArrays (s t : State) : Prop := t.m.arrayCorr = s.m.arrayCorr ∧ ∀ c, (t.core c).l1i = (s.core c).l1i

theorem State.l1i_updL1 (s : State) (c n : Nat) (g : List CacheLine → List CacheLine) : ((s.updL1 c g).core n).l1i = (s.core n).l1i := by
  unfold State.updL1
  by_cases h : n = c
  · subst h; rw [State.core_setCore_same]
  · rw [State.core_setCore_other _ _ _ _ h]

theorem State.SameArrays.inv (s : State) : Inv.Fill s.SameArrays where
  slices h := h
  poison h := h
  under h := h
  l1 h := ⟨h.1, fun n => (State.l1i_updL1 _ _ n _).trans (h.2 n)⟩
  cc h := h
  fabric h := h
  agents h := h
  wake h := ⟨by rw [State.updHartN_m]; exact h.1, fun n => by rw [State.core, State.updHartN_m]; exact h.2 n⟩
  store h := h
  channel h := h
  after h := h

end Sys2Proof.Machine
end

section
/-! SUPPORT. Bytes at home (spec/02 R58, R65, spec/03 R73): what a read at home depends on, and what it gives after bytes or words of a line were
written there. -/
namespace Sys2Proof.Machine
set_option Elab.async false

/-! ### What a read at home depends on -/

/-- Two states hold the same bytes at home under the same keys, and the same text is protected. -/
structure State.SameHome (s t : State) : Prop where
  mem : t.m.mem = s.m.mem
  lineKeys : t.m.lineKeys = s.m.lineKeys
  areas : t.m.areas = s.m.areas
  slotKeys : t.m.slotKeys = s.m.slotKeys
  chanKeys : t.m.chanKeys = s.m.chanKeys
  scrubs : t.m.scrubs = s.m.scrubs
  dev : t.fab.dev = s.fab.dev
  disp : t.disp = s.disp
  tick : t.tick = s.tick
  trust : t.trust = s.trust

namespace State.SameHome

theorem refl (s : State) : s.SameHome s := ⟨rfl, rfl, rfl, rfl, rfl, rfl, rfl, rfl, rfl, rfl⟩

/-- States whose memories differ in what no read at home depends on. -/
theorem of_m {s t u : State} (h : s.SameHome t) (mem : u.m.mem = t.m.mem := by rfl) (lineKeys : u.m.lineKeys = t.m.lineKeys := by rfl)
    (areas : u.m.areas = t.m.areas := by rfl) (slotKeys : u.m.slotKeys = t.m.slotKeys := by rfl) (chanKeys : u.m.chanKeys = t.m.chanKeys := by rfl)
    (scrubs : u.m.scrubs = t.m.scrubs := by rfl) (dev : u.fab.dev = t.fab.dev := by rfl) (disp : u.disp = t.disp := by rfl)
    (tick : u.tick = t.tick := by rfl) (trust : u.trust = t.trust := by rfl) : s.SameHome u :=
  ⟨mem.trans h.mem, lineKeys.trans h.lineKeys, areas.trans h.areas, slotKeys.trans h.slotKeys, chanKeys.trans h.chanKeys, scrubs.trans h.scrubs,
    dev.trans h.dev, disp.trans h.disp, tick.trans h.tick, trust.trans h.trust⟩

/-- Operations that write no bytes leave what is read at home alone. -/
theorem inv (s : State) : Inv.Base s.SameHome where
  slices h := h.of_m
  poison h := h.of_m
  under h := h.of_m
  l1 h := h.of_m
  cc h := h.of_m
  fabric h := h.of_m
  agents h := h.of_m
  wake h := by
    refine h.of_m ?_ ?_ ?_ ?_ ?_ ?_ ?_ ?_ ?_ ?_ <;> simp

variable {s t : State} (h : s.SameHome t)
include h

theorem keyAt (slot pa : Nat) : t.keyAt slot pa = s.keyAt slot pa := by
  simp [State.keyAt, State.ctx, h.slotKeys, h.chanKeys, h.dev, h.disp]
theorem lineKey (ln : Nat) : t.lineKey ln = s.lineKey ln := by simp [State.lineKey, h.lineKeys, h.areas]
theorem homeByte (slot pa : Nat) : t.homeByte slot pa = s.homeByte slot pa := by
  simp [State.homeByte, State.hbmByte, h.keyAt, h.lineKey, h.mem, h.scrubs, h.dev, h.tick]
theorem homeBytes (slot pa n : Nat) : t.homeBytes slot pa n = s.homeBytes slot pa n := by
  induction n generalizing pa with
  | zero => rfl
  | succ n ih => simp [State.homeBytes, h.homeByte, ih]
theorem protectedWords (ln : Nat) : t.protectedWords ln = s.protectedWords ln := by
  have hp : t.isProtected = s.isProtected := by
    funext pa n
    rw [State.isProtected, State.isProtected, h.trust]
  rw [State.protectedWords, State.protectedWords, hp]
theorem homeKey (pa : Nat) : t.homeKey pa = s.homeKey pa := by simp [State.homeKey, h.dev]

end State.SameHome

/-! ### Addresses of one line -/

section
variable {a b : Nat} (h : a / 64 = b / 64)
include h

theorem bitsOf_line {lo w : Nat} (hlo : 6 ≤ lo) : bitsOf (laOf a) lo w = bitsOf (laOf b) lo w := by
  have hla : laOf a / 64 = laOf b / 64 := by unfold laOf; omega
  have hdiv : ∀ x : Nat, x / 2 ^ lo = x / 64 / 2 ^ (lo - 6) := fun x => by
    rw [Nat.div_div_eq_div_mul, show (64 : Nat) = 2 ^ 6 from rfl, ← pow_add, Nat.add_sub_cancel' hlo]
  unfold bitsOf
  rw [Nat.shiftRight_eq_div_pow, Nat.shiftRight_eq_div_pow, hdiv, hdiv (laOf b), hla]

theorem devOf_line : devOf a = devOf b := by unfold devOf; omega
theorem isHbm_line : isHbm (laOf a) = isHbm (laOf b) := by
  unfold isHbm laOf
  exact decide_eq_decide.2 (by omega)
theorem dieOf_line : dieOf (laOf a) = dieOf (laOf b) := bitsOf_line h (by omega)
theorem channelOf_line : channelOf (laOf a) = channelOf (laOf b) := by
  unfold channelOf
  rw [bitsOf_line h (show 6 ≤ 8 by omega), bitsOf_line h (show 6 ≤ 20 by omega)]
theorem State.keyAt_line (s : State) (slot : Nat) : s.keyAt slot a = s.keyAt slot b := by
  unfold State.keyAt
  rw [devOf_line h, dieOf_line h, channelOf_line h]
theorem State.homeKey_line (s : State) : s.homeKey a = s.homeKey b := by
  unfold State.homeKey sliceOf
  rw [devOf_line h, dieOf_line h, channelOf_line h]

end

/-! ### Bytes written at home -/

theorem SMap.find?_set_same {α : Type} (m : SMap α) (n : Nat) (v : α) : (SMap.set n v m).find? (fun x => decide (x.1 = n)) = some (n, v) := by
  induction m with
  | nil => simp [SMap.set]
  | cons y m ih =>
    obtain ⟨k, w⟩ := y
    unfold SMap.set
    split
    · simp
    · next hk =>
      split
      · simp
      · rw [List.find?_cons_of_neg (by simpa using hk), ih]

/-- A byte of an HBM line of this device, after bytes were written to the line under the key slot that reads it. A line that another key wrote
last takes the new key, and its other bytes read as they did under it (R65). -/
theorem State.homeByte_homeStore {s : State} {slot pa a : Nat} {bs : List Byte} (hwf : Mem.wf s.m.mem = true) (hbm : isHbm (laOf pa) = true)
    (hdev : devOf pa = s.fab.dev.toNat) (hline : a / 64 = pa / 64) :
    (s.homeStore slot pa bs).homeByte slot a = if pa ≤ a ∧ a < pa + bs.length then bs.getD (a - pa) 0#8 else s.homeByte slot a := by
  have hk : s.SameHome (s.keepUnder (pa / 64)) := (State.SameHome.inv s).keepUnder (.refl s)
  rw [← hk.homeByte slot a]
  have hwf' : Mem.wf (s.keepUnder (pa / 64)).m.mem = true := by rw [hk.mem]; exact hwf
  have hdev' : devOf a = (s.keepUnder (pa / 64)).fab.dev.toNat := by rw [hk.dev, ← hdev, devOf_line hline]
  have hbm' : isHbm (laOf a) = true := by rw [isHbm_line hline, hbm]
  unfold State.homeStore
  rw [if_pos hbm]
  extract_lets ln u r k r' base
  rw [show s.keepUnder (pa / 64) = u from rfl] at hwf' hdev' ⊢
  clear_value u
  have hbase : Mem.wf base = true := by
    unfold base
    split
    · exact hwf'
    · exact Mem.wf_drop hwf'
  have hrk : r'.key = k := by
    unfold r'
    split
    · next e => exact e
    · rfl
  generalize ht : State.updMem u _ = t
  have hmem : t.m.mem = Mem.writes pa bs base := by rw [← ht]; rfl
  have hread : Mem.read t.m.mem a = if pa ≤ a ∧ a < pa + bs.length then bs[a - pa]? else Mem.read base a := by rw [hmem, Mem.read_writes hbase]
  have hlk : t.lineKey (a / 64) = r' := by
    rw [← ht, hline]
    simp only [State.lineKey, State.updMem]
    rw [SMap.find?_set_same]
  have hkey : t.keyAt slot a = k := by
    rw [← ht, State.keyAt_line hline]
    rfl
  have hscrubs : t.m.scrubs = u.m.scrubs := by rw [← ht]; rfl
  have hr : u.lineKey (a / 64) = r := by rw [hline]
  have hku : u.keyAt slot a = k := State.keyAt_line hline u slot
  have hfab : t.fab = u.fab := by rw [← ht]; rfl
  clear_value r k
  rw [State.homeByte, State.homeByte, if_pos hbm', if_pos hbm', hfab, if_pos hdev', if_pos hdev', State.hbmByte, State.hbmByte]
  rw [hr, hku, hkey, hlk, if_pos hrk, hread, hscrubs]
  by_cases hin : pa ≤ a ∧ a < pa + bs.length
  · rw [if_pos hin, if_pos hin, List.getElem?_eq_getElem (by omega), List.getD_eq_getElem _ _ (by omega)]
    rfl
  · rw [if_neg hin, if_neg hin]
    by_cases e : r.key = k
    · rw [if_pos e]
      simp [base, r', e]
    · have hnone : Mem.read (Mem.drop (ln * 64) 64 u.m.mem) a = none := by
        rw [Mem.read_drop hwf', if_pos (by omega), Mem.unlisted, if_pos hbm']
      rw [if_neg e]
      simp [base, r', e, hnone]

/-! ### Words written at home -/

theorem State.homeBytes_eq (s : State) (slot pa n : Nat) : s.homeBytes slot pa n = (List.range n).map fun j => s.homeByte slot (pa + j) := by
  induction n generalizing pa with
  | zero => rfl
  | succ n ih =>
    rw [State.homeBytes, ih, List.range_succ_eq_map, List.map_cons, List.map_map]
    congr 1
    exact List.map_congr_left fun j _ => congrArg (s.homeByte slot) (by simp; omega)

theorem wordOf_eq {data : List Byte} {i : Nat} (h : 4 * i + 4 ≤ data.length) :
    wordOf data i = (List.range 4).map fun j => data.getD (4 * i + j) 0#8 := by
  refine List.ext_getElem (by simp [wordOf]; omega) fun j h1 h2 => ?_
  have hj : j < 4 := by simpa using h2
  simp only [wordOf, List.getElem_take, List.getElem_drop, List.getElem_map, List.getElem_range]
  rw [List.getD_eq_getElem _ _ (by omega)]

theorem wordOf_getD {data : List Byte} {i j : Nat} (h : 4 * i + 4 ≤ data.length) (hj : j < 4) : (wordOf data i).getD j 0#8 = data.getD (4 * i + j) 0#8 := by
  rw [wordOf_eq h, List.getD_eq_getElem _ _ (by simpa using hj)]
  simp

theorem wordOf_length {data : List Byte} {i : Nat} (h : 4 * i + 4 ≤ data.length) : (wordOf data i).length = 4 := by
  rw [wordOf_eq h]
  simp

/-- Two stretches of bytes at home and of a line's bytes agree where each byte does. -/
theorem State.homeBytes_eq_wordOf {s : State} {slot pa i : Nat} {data : List Byte} (h : 4 * i + 4 ≤ data.length)
    (hb : ∀ j, j < 4 → s.homeByte slot (pa + j) = data.getD (4 * i + j) 0#8) : s.homeBytes slot pa 4 = wordOf data i := by
  rw [State.homeBytes_eq, wordOf_eq h]
  exact List.map_congr_left fun j hj => hb j (List.mem_range.1 hj)

/-- Memory is in its canonical form, and a line is one of this device's HBM. -/
structure State.OwnLine (s : State) (ln : Nat) : Prop where
  wf : s.Canonical
  hbm : isHbm (laOf (ln * 64)) = true
  dev : devOf (ln * 64) = s.fab.dev.toNat

/-- The device of the state. -/
theorem State.dev_inv (d : BitVec 10) : Inv.Home fun t => t.fab.dev = d where
  slices h := h
  poison h := h
  under h := h
  l1 h := h
  cc h := h
  fabric h := h
  agents h := h
  wake h := by rw [State.updHartN_fab]; exact h
  store h := h

namespace State.OwnLine

variable {s : State} {ln : Nat} (h : s.OwnLine ln)
include h

theorem homeStore {slot pa bs} : (s.homeStore slot pa bs).OwnLine ln := ⟨h.wf.homeStore, h.hbm, by rw [State.homeStore_fab]; exact h.dev⟩
theorem fireWatches {pa n} : (s.fireWatches pa n).OwnLine ln :=
  ⟨h.wf.fireWatches, h.hbm, by rw [(State.dev_inv s.fab.dev).fireWatches rfl]; exact h.dev⟩

/-- A byte of the line after bytes were stored there and the watches fired. -/
theorem homeByte_store {slot i j n : Nat} {bs : List Byte} (hi : i < 64) (hj : j < 64) :
    ((s.homeStore slot (ln * 64 + i) bs).fireWatches (ln * 64 + i) n).homeByte slot (ln * 64 + j) =
      if i ≤ j ∧ j < i + bs.length then bs.getD (j - i) 0#8 else s.homeByte slot (ln * 64 + j) := by
  have hline : (ln * 64 + i) / 64 = ln * 64 / 64 := by omega
  rw [((State.SameHome.inv _).fireWatches (.refl _)).homeByte,
    State.homeByte_homeStore h.wf (by rw [isHbm_line hline]; exact h.hbm) (by rw [devOf_line hline]; exact h.dev) (by omega)]
  have hsub : ln * 64 + j - (ln * 64 + i) = j - i := by omega
  have hiff : (ln * 64 + i ≤ ln * 64 + j ∧ ln * 64 + j < ln * 64 + i + bs.length) ↔ (i ≤ j ∧ j < i + bs.length) := by omega
  rw [hsub]
  simp only [hiff]

end State.OwnLine

/-- Words of a line stored one by one. -/
def State.storeWords (s : State) (slot ln : Nat) (m : BitVec 16) (data : List Byte) (l : List Nat) : State :=
  l.foldl (fun s i => if bitAt m i then (s.homeStore slot (ln * 64 + 4 * i) (wordOf data i)).fireWatches (ln * 64 + 4 * i) 4 else s) s

theorem State.OwnLine.homeByte_storeWords {s : State} {slot ln j : Nat} {m : BitVec 16} {data : List Byte} {l : List Nat} (h : s.OwnLine ln)
    (hl : ∀ i ∈ l, i < 16) (hd : data.length = 64) (hj : j < 64) :
    (s.storeWords slot ln m data l).homeByte slot (ln * 64 + j) =
      if j / 4 ∈ l ∧ bitAt m (j / 4) = true then data.getD j 0#8 else s.homeByte slot (ln * 64 + j) := by
  induction l generalizing s with
  | nil => rw [if_neg (by simp)]; rfl
  | cons i l ih =>
    obtain ⟨hi, hl⟩ := List.forall_mem_cons.1 hl
    unfold State.storeWords
    rw [List.foldl_cons]
    by_cases hm : bitAt m i = true
    · rw [if_pos hm]
      refine (ih h.homeStore.fireWatches hl).trans ?_
      rw [h.homeByte_store (by omega) hj, wordOf_length (by omega)]
      by_cases hji : j / 4 = i
      · subst hji
        rw [if_pos (c := 4 * (j / 4) ≤ j ∧ j < 4 * (j / 4) + 4) (by omega), wordOf_getD (by omega) (by omega),
          show 4 * (j / 4) + (j - 4 * (j / 4)) = j by omega, ite_self, if_pos ⟨List.mem_cons_self, hm⟩]
      · rw [if_neg (c := 4 * i ≤ j ∧ j < 4 * i + 4) (by omega)]
        exact if_congr (by simp [hji]) rfl rfl
    · rw [if_neg hm]
      refine (ih h hl).trans (if_congr ?_ rfl rfl)
      have : j / 4 = i → ¬ bitAt m (j / 4) = true := fun e => e ▸ hm
      rw [List.mem_cons]
      tauto

namespace State.OwnLine

variable {s : State} {ln : Nat} (h : s.OwnLine ln)
include h

/-- A word of the line after words were written there: the new one where the mask names it and it is not protected. -/
theorem homeByte_homeWriteWords {slot j : Nat} {words : BitVec 16} {data : List Byte} {psn : Bool} (hd : data.length = 64) (hj : j < 64) :
    (s.homeWriteWords slot ln words data psn).homeByte slot (ln * 64 + j) =
      if bitAt (words &&& ~~~s.protectedWords ln) (j / 4) = true then data.getD j 0#8 else s.homeByte slot (ln * 64 + j) := by
  unfold State.homeWriteWords
  extract_lets m t u
  by_cases h0 : m = 0#16
  · rw [if_pos h0, if_neg (by rw [show words &&& ~~~s.protectedWords ln = 0#16 from h0]; simp [bitAt])]
  rw [if_neg h0]
  have hst : s.SameHome t := (State.SameHome.inv s).homeMark ((State.SameHome.inv s).answerRemote (.refl s))
  have ht : t.OwnLine ln := ⟨h.wf.answerRemote.homeMark, h.hbm, by rw [hst.dev]; exact h.dev⟩
  have hu : u.homeByte slot (ln * 64 + j) = if bitAt m (j / 4) = true then data.getD j 0#8 else s.homeByte slot (ln * 64 + j) := by
    rw [← hst.homeByte]
    by_cases hm : m = 0xFFFF#16
    · have hbit : bitAt m (j / 4) = true := by
        rw [hm, bitAt]
        have : j / 4 < 16 := by omega
        interval_cases j / 4 <;> rfl
      rw [show u = (t.homeStore slot (ln * 64) data).fireWatches (ln * 64) 64 from if_pos hm, if_pos hbit]
      exact (ht.homeByte_store (i := 0) (by omega) hj).trans (by rw [if_pos (by omega), Nat.sub_zero])
    · rw [show u = t.storeWords slot ln m data words16 from if_neg hm, ht.homeByte_storeWords (by decide) hd hj]
      have hmem : j / 4 ∈ words16 := by
        have : j / 4 < 16 := by omega
        interval_cases j / 4 <;> decide
      simp [hmem]
  by_cases hp : psn = true
  · rw [if_pos hp, ((State.SameHome.inv u).addPoison (.refl u)).homeByte, hu]
  · rw [if_neg hp, hu]

theorem homeBytes_homeWriteWords {slot i : Nat} {words : BitVec 16} {data : List Byte} {psn : Bool} (hp : s.protectedWords ln = 0#16)
    (hd : data.length = 64) (hi : i < 16) : (s.homeWriteWords slot ln words data psn).homeBytes slot (ln * 64 + 4 * i) 4 =
      if bitAt words i = true then wordOf data i else s.homeBytes slot (ln * 64 + 4 * i) 4 := by
  have hb : ∀ k, k < 4 → (s.homeWriteWords slot ln words data psn).homeByte slot (ln * 64 + 4 * i + k) =
      if bitAt words i = true then data.getD (4 * i + k) 0#8 else s.homeByte slot (ln * 64 + 4 * i + k) := fun k hk => by
    have := h.homeByte_homeWriteWords (slot := slot) (words := words) (psn := psn) hd (j := 4 * i + k) (by omega)
    rwa [hp, BitVec.not_zero, BitVec.and_allOnes, show (4 * i + k) / 4 = i by omega, ← Nat.add_assoc] at this
  by_cases hw : bitAt words i = true
  · rw [if_pos hw]
    exact State.homeBytes_eq_wordOf (by omega) fun k hk => by rw [hb k hk, if_pos hw]
  · rw [if_neg hw, State.homeBytes_eq, State.homeBytes_eq]
    exact List.map_congr_left fun k hk => by rw [hb k (List.mem_range.1 hk), if_neg hw]

theorem homeBytes_writeHome {slot i : Nat} {words : BitVec 16} {data : List Byte} {psn : Bool} (hp : s.protectedWords ln = 0#16)
    (hd : data.length = 64) (hi : i < 16) : (s.writeHome slot ln words data psn).homeBytes slot (ln * 64 + 4 * i) 4 =
      if bitAt words i = true then wordOf data i else s.homeBytes slot (ln * 64 + 4 * i) 4 := by
  unfold State.writeHome
  by_cases h0 : words = 0#16
  · rw [if_pos h0, if_neg (by rw [h0]; simp [bitAt])]
  · have hs : s.SameHome (s.dropOwners (s.homeKey (ln * 64)) ln words) := (State.SameHome.inv s).dropOwners (.refl s)
    have ho : (s.dropOwners (s.homeKey (ln * 64)) ln words).OwnLine ln := ⟨h.wf.dropOwners, h.hbm, by rw [hs.dev]; exact h.dev⟩
    rw [if_neg h0, ho.homeBytes_homeWriteWords (by rw [hs.protectedWords, hp]) hd hi, hs.homeBytes]

end State.OwnLine

end Sys2Proof.Machine
end

section
/-! SUPPORT. Words of a line's bytes (spec/03 R66, R67): lists of 64 bytes made of sixteen words, masks made of words, and lines of a cache that an
operation changes in their place. -/
namespace Sys2Proof.Machine
set_option Elab.async false

/-! ### Words of 64 bytes -/

theorem mem_words16 {i : Nat} : i ∈ words16 ↔ i < 16 := by
  constructor
  · intro h
    have hall : ∀ i ∈ words16, i < 16 := by decide
    exact hall i h
  · intro h
    interval_cases i <;> decide

theorem words16_getElem {i : Nat} (h : i < words16.length) : words16[i] = i := by
  have : i < 16 := h
  interval_cases i <;> rfl

theorem drop_take_flatMap {α : Type} {l : List α} {f : α → List Byte} {i : Nat} (hf : ∀ a ∈ l, (f a).length = 4) (hi : i < l.length) :
    ((l.flatMap f).drop (4 * i)).take 4 = f l[i] := by
  induction l generalizing i with
  | nil => simp at hi
  | cons a l ih =>
    obtain ⟨ha, hl⟩ := List.forall_mem_cons.1 hf
    rw [List.flatMap_cons]
    cases i with
    | zero => exact List.take_left' ha
    | succ i =>
      rw [show 4 * (i + 1) = (f a).length + 4 * i by omega, List.drop_length_add_append]
      exact ih hl (by simpa using hi)

/-- Word `i` of sixteen words put together. -/
theorem wordOf_flatMap {f : Nat → List Byte} {i : Nat} (hf : ∀ i, i < 16 → (f i).length = 4) (hi : i < 16) : wordOf (words16.flatMap f) i = f i :=
  (drop_take_flatMap (fun a ha => hf a (mem_words16.1 ha)) hi).trans (congrArg f (words16_getElem hi))

theorem length_flatMap_words {f : Nat → List Byte} (hf : ∀ i, i < 16 → (f i).length = 4) : (words16.flatMap f).length = 64 := by
  rw [List.length_flatMap, List.map_congr_left fun i hi => hf i (mem_words16.1 hi)]
  rfl

theorem wordOf_getElem (data : List Byte) (j : Nat) : (wordOf data (j / 4))[j % 4]? = data[j]? := by
  rw [wordOf, List.getElem?_take, if_pos (by omega), List.getElem?_drop, Nat.div_add_mod]

/-- Lists of 64 bytes are equal where their words are. -/
theorem eq_of_wordOf {a b : List Byte} (ha : a.length = 64) (hb : b.length = 64) (h : ∀ i, i < 16 → wordOf a i = wordOf b i) : a = b := by
  refine List.ext_getElem? fun j => ?_
  by_cases hj : j < 64
  · rw [← wordOf_getElem a, ← wordOf_getElem b, h _ (by omega)]
  · rw [List.getElem?_eq_none (by omega), List.getElem?_eq_none (by omega)]

theorem State.wordOf_homeBytes (s : State) (slot pa : Nat) {i : Nat} (hi : i < 16) :
    wordOf (s.homeBytes slot pa 64) i = s.homeBytes slot (pa + 4 * i) 4 := by
  symm
  refine State.homeBytes_eq_wordOf (by simp; omega) fun j hj => ?_
  rw [State.homeBytes_eq, List.getD_eq_getElem _ _ (by simp; omega)]
  simp [Nat.add_assoc]

theorem length_putBytes (l : List Byte) (i : Nat) (bs : List Byte) : (putBytes l i bs).length = l.length := by
  induction bs generalizing l i with
  | nil => rfl
  | cons b bs ih => rw [putBytes, ih, List.length_set]

theorem getElem?_putBytes {l bs : List Byte} {i j : Nat} (h : i + bs.length ≤ l.length) :
    (putBytes l i bs)[j]? = if i ≤ j ∧ j < i + bs.length then bs[j - i]? else l[j]? := by
  induction bs generalizing l i with
  | nil => simp [putBytes]
  | cons b bs ih =>
    rw [List.length_cons] at h ⊢
    rw [putBytes, ih (by rw [List.length_set]; omega), List.getElem?_set]
    by_cases hj : i = j
    · subst hj
      rw [if_neg (by omega), if_pos rfl, if_pos (by omega), if_pos (by omega)]
      simp
    · rw [if_neg hj]
      by_cases hin : i + 1 ≤ j ∧ j < i + 1 + bs.length
      · rw [if_pos hin, if_pos (by omega), show j - i = j - (i + 1) + 1 by omega, List.getElem?_cons_succ]
      · rw [if_neg hin, if_neg (by omega)]

theorem wordOf_putWord {data w : List Byte} {i j : Nat} (hd : data.length = 64) (hw : w.length = 4) (hi : i < 16) :
    wordOf (putWord data i w) j = if i = j then w else wordOf data j := by
  refine List.ext_getElem? fun n => ?_
  have hget : (putWord data i w)[4 * j + n]? = if 4 * i ≤ 4 * j + n ∧ 4 * j + n < 4 * i + w.length then w[4 * j + n - 4 * i]? else data[4 * j + n]? :=
    getElem?_putBytes (by omega)
  by_cases hn : n < 4
  · rw [wordOf, List.getElem?_take, if_pos hn, List.getElem?_drop, hget]
    by_cases hij : i = j
    · subst hij
      rw [if_pos rfl, if_pos (by omega), Nat.add_sub_cancel_left]
    · rw [if_neg hij, if_neg (by omega), wordOf, List.getElem?_take, if_pos hn, List.getElem?_drop]
  · rw [List.getElem?_eq_none (by simp [wordOf]; omega)]
    split
    · rw [List.getElem?_eq_none (by omega)]
    · rw [List.getElem?_eq_none (by simp [wordOf]; omega)]

/-- The words of a list of words merged, from bytes that have them, into a line. -/
theorem foldl_putWord {m : BitVec 16} {src dst : List Byte} {l : List Nat} (hs : src.length = 64) (hd : dst.length = 64) (hl : ∀ i ∈ l, i < 16) :
    (l.foldl (fun d i => if bitAt m i then putWord d i (wordOf src i) else d) dst).length = 64 ∧
      ∀ j, wordOf (l.foldl (fun d i => if bitAt m i then putWord d i (wordOf src i) else d) dst) j =
        if j ∈ l ∧ bitAt m j = true then wordOf src j else wordOf dst j := by
  induction l generalizing dst with
  | nil => exact ⟨hd, fun j => by simp⟩
  | cons i l ih =>
    obtain ⟨hi, hl⟩ := List.forall_mem_cons.1 hl
    rw [List.foldl_cons]
    by_cases hm : bitAt m i = true
    · rw [if_pos hm]
      obtain ⟨hlen, hw⟩ := ih (dst := putWord dst i (wordOf src i)) ((length_putBytes _ _ _).trans hd) hl
      refine ⟨hlen, fun j => ?_⟩
      rw [hw, wordOf_putWord hd (wordOf_length (by omega)) hi]
      by_cases hij : i = j
      · subst hij
        simp [hm]
      · rw [if_neg hij]
        exact if_congr (by simp [Ne.symm hij]) rfl rfl
    · rw [if_neg hm]
      obtain ⟨hlen, hw⟩ := ih hd hl
      refine ⟨hlen, fun j => (hw j).trans (if_congr ?_ rfl rfl)⟩
      have : j = i → ¬ bitAt m j = true := fun e => e ▸ hm
      rw [List.mem_cons]
      tauto

theorem length_mergeWords {m : BitVec 16} {src dst : List Byte} (hs : src.length = 64) (hd : dst.length = 64) : (mergeWords m src dst).length = 64 :=
  (foldl_putWord hs hd fun _ h => mem_words16.1 h).1

theorem wordOf_mergeWords {m : BitVec 16} {src dst : List Byte} {i : Nat} (hs : src.length = 64) (hd : dst.length = 64) (hi : i < 16) :
    wordOf (mergeWords m src dst) i = if bitAt m i = true then wordOf src i else wordOf dst i := by
  rw [mergeWords, (foldl_putWord hs hd fun _ h => mem_words16.1 h).2]
  simp [mem_words16.2 hi]

theorem bitAt_all {i : Nat} (hi : i < 16) : bitAt 0xFFFF#16 i = true := by interval_cases i <;> rfl

/-- All sixteen words merged are the bytes they come from. -/
theorem mergeWords_all {src dst : List Byte} (hs : src.length = 64) (hd : dst.length = 64) : mergeWords 0xFFFF#16 src dst = src :=
  eq_of_wordOf (length_mergeWords hs hd) hs fun i hi => by rw [wordOf_mergeWords hs hd hi, if_pos (bitAt_all hi)]

/-! ### Masks of words -/

theorem bitAt_bitMask {i j : Nat} (hi : i < 16) : bitAt (bitMask i) j = decide (i = j) := by
  rw [bitAt, bitMask, BitVec.getLsbD_shiftLeft, BitVec.getLsbD_one]
  by_cases h : i = j
  · subst h
    simp [hi]
  · simp [h]
    omega

theorem bitAt_foldl_bitMask {p : Nat → Bool} {l : List Nat} {m : BitVec 16} {j : Nat} (hl : ∀ i ∈ l, i < 16) :
    bitAt (l.foldl (fun g i => if p i then g ||| bitMask i else g) m) j = (bitAt m j || (decide (j ∈ l) && p j)) := by
  induction l generalizing m with
  | nil => simp
  | cons i l ih =>
    obtain ⟨hi, hl⟩ := List.forall_mem_cons.1 hl
    rw [List.foldl_cons, ih hl]
    by_cases hp : p i = true
    · rw [if_pos hp]
      have hor : bitAt (m ||| bitMask i) j = (bitAt m j || decide (i = j)) := by
        rw [← bitAt_bitMask hi, bitAt, BitVec.getLsbD_or]
        rfl
      rw [hor]
      by_cases hij : i = j
      · subst hij
        simp [hp]
      · simp [hij, Ne.symm hij]
    · rw [if_neg hp]
      by_cases hij : j = i
      · subst hij
        simp [hp]
      · simp [hij]

/-- The mask of the words that satisfy a property. -/
theorem bitAt_maskOf {p : Nat → Bool} {i : Nat} (hi : i < 16) : bitAt (words16.foldl (fun g i => if p i then g ||| bitMask i else g) 0#16) i = p i := by
  rw [bitAt_foldl_bitMask fun _ h => mem_words16.1 h]
  simp [mem_words16.2 hi, bitAt]

theorem mask_ext {a b : BitVec 16} (h : ∀ i, i < 16 → bitAt a i = bitAt b i) : a = b := BitVec.eq_of_getLsbD_eq fun i hi => h i hi

/-! ### Lines changed in their place -/

theorem mapLine_of_findLine_none {ln : Nat} {g : CacheLine → CacheLine} {l : List CacheLine} (h : findLine ln l = none) : mapLine ln g l = l := by
  have hne : ∀ x ∈ l, x.line ≠ ln := by simpa [findLine] using h
  exact (List.map_congr_left fun x hx => if_neg (hne x hx)).trans (List.map_id' l)

end Sys2Proof.Machine
end

section
/-! SUPPORT. Steps on a line that a message names, lines that are quiet at home, and what a revocation takes from the caches (spec/03 R73 to R75,
spec/05 R126, R127). -/
namespace Sys2Proof.Machine
set_option Elab.async false

/-! ### Steps on the line that a message names -/

theorem ends_msgLine {i : Instr} {s : State} {g : State → Nat → State} {P : State → Prop} (he : exec i s = finishEvent (msgLine g) s)
    (hpa : s.msg.addr.toNat < 2 ^ 52) (hbm : isHbm (laOf s.msg.addr.toNat) = true) (h : P (g s (s.msg.addr.toNat / 64))) : Ends i s P := by
  refine ⟨_, ?_, h⟩
  rw [he]
  refine finishEvent_ok ?_
  show (if s.msg.addr.toNat < 2 ^ 52 ∧ isHbm (laOf s.msg.addr.toNat) = true then _ else _ : M Unit) s = _
  rw [if_pos ⟨hpa, hbm⟩]
  rfl

theorem ends_homeLine {i : Instr} {s : State} {slot die : State → Nat} {g : State → Nat → State} {P : State → Prop}
    (he : exec i s = finishEvent (homeLine i slot die g) s)
    (hpa : s.msg.addr.toNat < 2 ^ 52) (hbm : isHbm (laOf s.msg.addr.toNat) = true)
    (hw : s.homeWaits (slot s) (die s) (s.msg.addr.toNat / 64 * 64) = false) (h : P (g s (s.msg.addr.toNat / 64))) : Ends i s P := by
  refine ends_msgLine he hpa hbm ?_
  rw [if_neg (by rw [hw]; exact Bool.false_ne_true)]
  exact h

theorem homeLine_waits {i : Instr} {s : State} {slot die : State → Nat} {g : State → Nat → State} (he : exec i s = finishEvent (homeLine i slot die g) s)
    (hpa : s.msg.addr.toNat < 2 ^ 52) (hbm : isHbm (laOf s.msg.addr.toNat) = true)
    (hw : s.homeWaits (slot s) (die s) (s.msg.addr.toNat / 64 * 64) = true) : exec i s = .next (s.after [(i, s.msg)]) := by
  obtain ⟨t, ht, rfl⟩ : Ends i s (· = s.after [(i, s.msg)]) := ends_msgLine he hpa hbm (by rw [if_pos hw])
  exact ht

/-! ### A line that is quiet at home -/

section
variable {s : State} {slot ln : Nat} (h : QuietHome s slot (ln * 64))
include h

theorem QuietHome.ownLine : s.OwnLine ln := ⟨h.1, h.2.1, h.2.2.1⟩
theorem QuietHome.noLines : (s.slice (s.homeKey (ln * 64))).lines = [] := by
  obtain ⟨-, -, -, -, hl, -⟩ := h
  exact hl

theorem QuietHome.homeKey_lt : s.homeKey (ln * 64) < 128 := by
  have hd : dieOf (laOf (ln * 64)) < 8 := Nat.mod_lt _ (by decide)
  have hs : sliceOf (laOf (ln * 64)) < 16 := Nat.mod_lt _ (by decide)
  rw [State.homeKey, if_pos h.ownLine.dev]
  omega

theorem QuietHome.noRegs : (s.slice (s.homeKey (ln * 64))).regs = [] := by
  obtain ⟨-, -, -, -, -, hr, -⟩ := id h
  exact hr _ h.homeKey_lt
theorem QuietHome.noWatches : (s.slice (s.homeKey (ln * 64))).watches = [] := by
  obtain ⟨-, -, -, -, -, -, hw, -⟩ := h
  exact hw
theorem QuietHome.noAgents : s.m.agentWatches = [] := by
  obtain ⟨-, -, -, -, -, -, -, ha, -⟩ := h
  exact ha
theorem QuietHome.notPoisoned : s.isPoisoned ln = false := by
  obtain ⟨-, -, -, -, -, -, -, -, hp, -⟩ := h
  rwa [Nat.mul_div_cancel _ (by decide)] at hp
theorem QuietHome.notProtected : s.protectedWords ln = 0#16 := by
  obtain ⟨-, -, -, -, -, -, -, -, -, hp⟩ := h
  rwa [Nat.mul_div_cancel _ (by decide)] at hp

theorem QuietHome.homeWord (slot' i : Nat) : s.homeWord slot' ln i = (s.homeBytes slot' (ln * 64 + 4 * i) 4, false) := by
  simp [State.homeWord, SliceState.ownerOf, h.noRegs, h.notPoisoned]

end

theorem State.pointWord_of_home {s : State} {die ln : Nat} (h : s.rlcKey die (ln * 64) = none) (slot i : Nat) :
    s.pointWord slot die ln i = s.homeWord slot ln i := by
  simp [State.pointWord, h]

/-- The bytes of a line that is quiet at home, as a fill finds them. -/
theorem QuietHome.pointLine {s : State} {slot ln die : Nat} (h : QuietHome s slot (ln * 64)) (hk : s.rlcKey die (ln * 64) = none) (slot' : Nat) :
    s.pointLine slot' die ln = (s.homeBytes slot' (ln * 64) 64, false) := by
  have hw : ∀ i, s.pointWord slot' die ln i = (s.homeBytes slot' (ln * 64 + 4 * i) 4, false) := fun i => by
    rw [State.pointWord_of_home hk, h.homeWord]
  have hlen : ∀ i, i < 16 → (s.homeBytes slot' (ln * 64 + 4 * i) 4).length = 4 := fun i _ => homeBytes_length ..
  rw [State.pointLine, List.map_congr_left fun i _ => hw i]
  refine Prod.ext ?_ ?_
  · refine (List.flatMap_map ..).trans (eq_of_wordOf (length_flatMap_words hlen) (homeBytes_length ..) fun i hi => ?_)
    rw [wordOf_flatMap hlen hi, State.wordOf_homeBytes _ _ _ hi]
  · simp

/-! ### Words gathered under a mask -/

theorem wordOf_gatherWords {m : BitVec 16} {f : Nat → List Byte × Bool} {i : Nat} (hf : ∀ i, i < 16 → bitAt m i = true → (f i).1.length = 4)
    (hi : i < 16) : wordOf (gatherWords m f).1 i = if bitAt m i = true then (f i).1 else List.replicate 4 0#8 := by
  rw [gatherWords]
  dsimp only
  rw [List.flatMap_map, wordOf_flatMap (fun j hj => ?_) hi]
  · split <;> rfl
  · split
    · next h => exact hf j hj h
    · rfl

theorem length_gatherWords {m : BitVec 16} {f : Nat → List Byte × Bool} (hf : ∀ i, i < 16 → bitAt m i = true → (f i).1.length = 4) :
    (gatherWords m f).1.length = 64 := by
  rw [gatherWords]
  dsimp only
  rw [List.flatMap_map, length_flatMap_words fun j hj => ?_]
  split
  · next h => exact hf j hj h
  · rfl

/-! ### The words that an owner holds -/

theorem State.bitAt_ownerWords (s : State) (h ln : Nat) (m : BitVec 16) {i : Nat} (hi : i < 16) :
    bitAt (s.ownerWords h ln m).1 i = (bitAt m i && (s.ownerWord h ln i).isSome) :=
  bitAt_maskOf (p := fun i => bitAt m i && (s.ownerWord h ln i).isSome) hi

section
variable {s : State} {h ln : Nat} (m : BitVec 16) (hl : ∀ j v q, s.ownerWord h ln j = some (v, q) → v.length = 4)
include hl

theorem State.length_ownerWord (j : Nat) : ((s.ownerWord h ln j).getD (List.replicate 4 0#8, false)).1.length = 4 := by
  cases e : s.ownerWord h ln j with
  | none => rfl
  | some x => exact hl j x.1 x.2 e

theorem State.length_ownerWords : (s.ownerWords h ln m).2.1.length = 64 := by
  unfold State.ownerWords
  extract_lets got ws
  show (ws.flatMap (·.1)).length = 64
  rw [List.flatMap_map, length_flatMap_words fun j _ => ?_]
  split
  · exact State.length_ownerWord hl j
  · rfl

theorem State.wordOf_ownerWords {i : Nat} {w : List Byte} {p : Bool} (hi : i < 16) (hm : bitAt m i = true) (hw : s.ownerWord h ln i = some (w, p)) :
    wordOf (s.ownerWords h ln m).2.1 i = w := by
  have hgot : bitAt (s.ownerWords h ln m).1 i = true := by rw [s.bitAt_ownerWords h ln m hi, hm, hw]; rfl
  unfold State.ownerWords
  extract_lets got ws
  show wordOf (ws.flatMap (·.1)) i = w
  rw [List.flatMap_map, wordOf_flatMap (fun j _ => ?_) hi]
  · rw [if_pos (by exact hgot), hw]
    rfl
  · split
    · exact State.length_ownerWord hl j
    · rfl

end

/-! ### Revocations -/

section
variable (s : State) (c k ln : Nat) (g : CacheLine → CacheLine)

theorem State.l1d_mapL1 : ((s.mapL1 c ln g).core c).l1d = mapLine ln g (s.core c).l1d := by
  unfold State.mapL1
  split
  · rw [State.updL1, State.core_setCore_same]
  · next h =>
    rw [mapLine_of_findLine_none]
    simpa [State.l1Line] using h

theorem State.core_mapL1_other {n : Nat} (hn : n ≠ c) : (s.mapL1 c ln g).core n = s.core n := by
  unfold State.mapL1
  split
  · exact State.core_setCore_other _ _ _ _ hn
  · rfl

theorem State.cluster_mapL1 (n : Nat) : (s.mapL1 c ln g).cluster n = s.cluster n := by
  unfold State.mapL1
  split <;> rfl

theorem State.cc_mapCC : ((s.mapCC k ln g).cluster k).cc = mapLine ln g (s.cluster k).cc := by
  unfold State.mapCC
  split
  · rw [State.updCC, State.cluster_setCluster_same]
  · next h =>
    rw [mapLine_of_findLine_none]
    simpa [State.ccLine] using h

theorem State.core_mapCC (n : Nat) : (s.mapCC k ln g).core n = s.core n := by
  unfold State.mapCC
  split <;> rfl

end

theorem CacheLine.clear_words (l : CacheLine) (m : BitVec 16) : ((l.clear m).wv ||| (l.clear m).wd ||| (l.clear m).wo) &&& m = 0#16 := by
  refine BitVec.eq_of_getLsbD_eq fun i _ => ?_
  simp only [CacheLine.clear, BitVec.getLsbD_and, BitVec.getLsbD_or, BitVec.getLsbD_not, BitVec.getLsbD_zero]
  cases m.getLsbD i <;> simp

theorem clear_of_mem_mapLine {ln : Nat} {m : BitVec 16} {l : List CacheLine} {x : CacheLine} (hx : x ∈ mapLine ln (·.clear m) l) (hln : x.line = ln) :
    (x.wv ||| x.wd ||| x.wo) &&& m = 0#16 := by
  obtain ⟨y, -, rfl⟩ := List.mem_map.1 hx
  split
  · exact y.clear_words m
  · next h =>
    rw [if_neg h] at hln
    exact absurd hln h

section
variable (s : State) {h : Nat} (ln : Nat) (m : BitVec 16) (hh : h < 2048)
include hh

theorem State.revoke_here : s.revoke h ln m = (s.mapL1 (coreOf h) ln (·.clear m)).mapCC (clusterOf h) ln (·.clear m) := if_neg (by omega)

/-- A revocation leaves none of the words in the caches of the hart. -/
theorem State.revoke_clears {l : CacheLine}
    (hl : l ∈ ((s.revoke h ln m).core (coreOf h)).l1d ++ ((s.revoke h ln m).cluster (clusterOf h)).cc) (hln : l.line = ln) :
    (l.wv ||| l.wd ||| l.wo) &&& m = 0#16 := by
  rw [State.revoke_here s ln m hh, State.core_mapCC, State.l1d_mapL1, State.cc_mapCC, List.mem_append] at hl
  rcases hl with hl | hl <;> exact clear_of_mem_mapLine hl hln

theorem State.mem_l1d_revoke {l : CacheLine} (hl : l ∈ (s.core (coreOf h)).l1d) (hln : l.line ≠ ln) : l ∈ ((s.revoke h ln m).core (coreOf h)).l1d := by
  rw [State.revoke_here s ln m hh, State.core_mapCC, State.l1d_mapL1]
  exact List.mem_map.2 ⟨l, hl, if_neg hln⟩

theorem State.core_revoke_other {c : Nat} (hc : c ≠ coreOf h) : (s.revoke h ln m).core c = s.core c := by
  rw [State.revoke_here s ln m hh, State.core_mapCC, State.core_mapL1_other _ _ _ _ hc]

theorem State.sameHarts_revoke : SameHarts s (s.revoke h ln m) := by
  rw [State.revoke_here s ln m hh, State.mapCC, State.mapL1]
  split <;> split <;> exact ⟨rfl, rfl, rfl⟩

end

end Sys2Proof.Machine
end

section
/-! SUPPORT. A registration at a quiet home, words written back, and a fill of empty caches (spec/03 R66, R68, R69, R74, R75, spec/05 R127). -/
namespace Sys2Proof.Machine
set_option Elab.async false

/-! ### Registration at a quiet home (R74, R75, R137) -/

theorem State.fireAgents_none {s : State} (h : s.m.agentWatches = []) (pa n : Nat) : s.fireAgents pa n = s := by
  simp [State.fireAgents, h]

theorem State.fireWatches_none {s : State} {pa : Nat} (n : Nat) (ha : s.m.agentWatches = []) (hw : (s.slice (s.homeKey pa)).watches = []) :
    s.fireWatches pa n = s := by
  simp [State.fireWatches, State.fireAgents_none ha, hw]

theorem State.setSlice_setSlice (s : State) (k : Nat) (v w : SliceState) : (s.setSlice k v).setSlice k w = s.setSlice k w :=
  congrArg (fun x => s.updMem fun m => { m with slices := x }) (SMap.set_set s.m.slices k v w)

@[simp] theorem State.homeKey_setSlice (s : State) (k : Nat) (v : SliceState) (pa : Nat) : (s.setSlice k v).homeKey pa = s.homeKey pa := rfl

theorem State.ownerDev_here {s : State} {h : Nat} (hh : h < 2048) : s.ownerDev h = s.fab.dev := if_pos hh

/-- A point with no registrations takes one as its only entry. -/
theorem State.registerAt_first {s : State} {key : Nat} (hr : (s.slice key).regs = []) (hk : key < 1024) (slot h ln : Nat) (m : BitVec 16) :
    s.registerAt slot key h ln m =
      s.setSlice key { s.slice key with regs := [{ line := ln, dev := s.ownerDev h, hart := h, mask := m, slot }] } := by
  have htake : s.takeFrom slot key ln m (some h) 0#16 = s.setSlice key { s.slice key with regs := [] } := by
    simp [State.takeFrom, SliceState.ownersOf, dropRegs, hr]
  rw [State.registerAt, htake]
  simp only [if_pos hk, State.slice_setSlice_same, List.find?_nil, List.filter_nil, List.length_nil, Nat.zero_lt_succ, if_true]
  exact State.setSlice_setSlice ..

section
variable {s : State} {slot ln : Nat} (q : QuietHome s slot (ln * 64))
include q

/-- Words registered at a quiet home by a hart of this device: no watch fires. -/
theorem QuietHome.registerWords {h : Nat} (hk : s.rlcKey (dieOfHart h) (ln * 64) = none) (slot' : Nat) (scope : BitVec 2) (m : BitVec 16) :
    s.registerWords slot' h scope ln m = s.setSlice (s.homeKey (ln * 64))
      { s.slice (s.homeKey (ln * 64)) with regs := [{ line := ln, dev := s.ownerDev h, hart := h, mask := m, slot := slot' }] } := by
  have hlt : s.homeKey (ln * 64) < 1024 := lt_trans q.homeKey_lt (by decide)
  rw [State.registerWords, hk, ite_self, State.registerAt_first q.noRegs hlt]
  generalize hu : s.setSlice (s.homeKey (ln * 64)) _ = u
  refine List.foldl_fixed' (fun i => ite_eq_right_iff.2 fun hi => State.fireWatches_none _ ?_ ?_) words16
  · rw [← hu]
    exact q.noAgents
  · have hi16 : i < 16 := BitVec.lt_of_getLsbD hi
    rw [← hu, State.homeKey_setSlice, State.homeKey_line (show (ln * 64 + 4 * i) / 64 = ln * 64 / 64 by omega), State.slice_setSlice_same]
    exact q.noWatches

theorem QuietHome.ends_registration (hpa : s.msg.addr.toNat < 2 ^ 52) (hbm : isHbm (laOf s.msg.addr.toNat) = true)
    (hln : s.msg.addr.toNat / 64 = ln) (hslot : slot = keySlot (s.getHart s.msg.hart.toNat).ctx) (hf : s.msg.flag2 = false)
    (hk : s.rlcKey (dieOfHart s.msg.hart.toNat) (ln * 64) = none) : Ends .registration s fun t =>
      (t.slice (s.homeKey (ln * 64))).regs =
        [{ line := ln, dev := s.fab.dev, hart := s.msg.hart.toNat, mask := s.msg.words16, slot := slot }] ∧
      (t.getHart s.msg.hart.toNat).acks.reg = (s.getHart s.msg.hart.toNat).acks.reg + 1 ∧
      t.inbox = s.inbox ++ [(.registrationAck, { hart := s.msg.hart })] ∧ t.m.mem = s.m.mem := by
  have hsrc : Msg.source s s.msg = s.fab.dev := by rw [Msg.source, hf]; rfl
  refine ends_msgLine rfl hpa hbm ?_
  have hkey : s.ownerKey s.fab.dev s.msg.hart.toNat = s.msg.hart.toNat := if_pos rfl
  have hreg : s.registration s.fab.dev s.msg.hart.toNat s.msg.scope ln slot s.msg.words16 =
      ((s.setSlice (s.homeKey (ln * 64)) { s.slice (s.homeKey (ln * 64)) with
          regs := [{ line := ln, dev := s.fab.dev, hart := s.msg.hart.toNat, mask := s.msg.words16, slot }] }).updHartN s.msg.hart.toNat
        fun x => { x with acks := { x.acks with reg := x.acks.reg + 1 } }).after [(.registrationAck, { hart := s.msg.hart })] := by
    rw [State.registration, hkey, q.registerWords hk, State.ownerDev_here s.msg.hart.isLt, BitVec.ofNat_toNat, BitVec.setWidth_eq]
    exact if_pos rfl
  rw [hln, hsrc, State.senderSlot, if_pos hsrc, ← hslot, hreg]
  refine ⟨?_, ?_, ?_, ?_⟩
  · rw [State.slice_after, State.slice, State.updHartN_m, ← State.slice, State.slice_setSlice_same]
  · exact congrArg (fun x : Hart => x.acks.reg) ((State.getHart_updHartN ..).trans (if_pos rfl))
  · rw [State.after, State.updHartN_inbox]
    rfl
  · rw [State.after, State.updHartN_m]
    rfl

/-- What a line's words are at home after the owner's words that a revocation with write-back names were written. -/
theorem QuietHome.homeBytes_revokeWB {h : Nat} (hslot : slot = keySlot (s.getHart h).ctx) (m : BitVec 16)
    (hlen : ∀ j v q, s.ownerWord h ln j = some (v, q) → v.length = 4) {i : Nat} (hi : i < 16) :
    (s.revokeWB slot (s.homeKey (ln * 64)) h ln m false).homeBytes slot (ln * 64 + 4 * i) 4 =
      if bitAt (s.ownerWords h ln m).1 i = true then wordOf (s.ownerWords h ln m).2.1 i else s.homeBytes slot (ln * 64 + 4 * i) 4 := by
  have hkey : s.ownerSlot slot (s.homeKey (ln * 64)) ln h = slot := by
    simp [State.ownerSlot, q.noRegs, ← hslot]
  rw [State.revokeWB, hkey, ((State.SameHome.inv _).revoke (.refl _)).homeBytes]
  by_cases h0 : (s.ownerWords h ln m).1 = 0#16
  · rw [if_pos h0, h0, if_neg (by simp [bitAt])]
  · rw [if_neg h0, if_neg Bool.false_ne_true, q.ownLine.homeBytes_homeWriteWords q.notProtected (State.length_ownerWords m hlen) hi]

end

/-- Words that leave a die for a line of that die go home. -/
theorem State.writeBack_home {s : State} {die ln : Nat} (hk : s.rlcKey die (ln * 64) = none) (slot : Nat) (m : BitVec 16) (data : List Byte) (psn : Bool) :
    s.writeBack slot die ln m data psn = s.writeHome slot ln m data psn := by
  unfold State.writeBack
  split
  · next h0 => rw [State.writeHome, if_pos h0]
  · simp [State.rlcPass, hk]

/-! ### A fill of empty caches (R66, R68) -/

theorem State.sliceAlloc_empty {s : State} {key : Nat} (h : (s.slice key).lines = []) (slot : Nat) (l : SliceLine) :
    s.sliceAlloc slot key l = s.sliceAdd key l := by
  have hv : (s.slice key).victim (sliceSet (laOf (l.line * 64))) l.rlc = none := by simp [SliceState.victim, h]
  rw [State.sliceAlloc, hv]

@[simp] theorem State.m_answerRemote (s : State) (slot ln : Nat) : (s.answerRemote slot ln).m = s.m := by
  unfold State.answerRemote
  split <;> rfl

@[simp] theorem State.homeKey_answerRemote (s : State) (slot ln pa : Nat) : (s.answerRemote slot ln).homeKey pa = s.homeKey pa :=
  ((State.SameHome.inv s).answerRemote (.refl s)).homeKey pa

/-- The caches of the cores and clusters of two states are the same. -/
def State.SameCaches (s t : State) : Prop := t.m.cores = s.m.cores ∧ t.m.clusters = s.m.clusters

theorem State.SameCaches.openRow (s : State) (pa : Nat) : s.SameCaches (s.openRow pa) := by
  unfold State.openRow
  split <;> exact ⟨rfl, rfl⟩

/-- A request of words of a line at an empty home slice changes no cache. -/
theorem State.SameCaches.homeTouch {s : State} {ln : Nat} (h : (s.slice (s.homeKey (ln * 64))).lines = []) (slot : Nat) :
    s.SameCaches (s.homeTouch slot ln 0#16) := by
  have hl : ∀ u : State, u.m.slices = s.m.slices → (u.slice (s.homeKey (ln * 64))).lines = [] := fun u hu => by rwa [State.slice, hu]
  unfold State.homeTouch
  extract_lets u k t reads
  have hm : u.m = s.m := State.m_answerRemote s slot ln
  have hk : k = s.homeKey (ln * 64) := State.homeKey_answerRemote ..
  have ht : t.lines = [] := by rw [show t = u.slice k from rfl, hk]; exact hl u (by rw [hm])
  have hr : (u.openRow (ln * 64)).m.slices = s.m.slices := by
    rw [← hm]
    unfold State.openRow
    split <;> rfl
  rw [ht, hk]
  show s.SameCaches ((u.openRow (ln * 64)).sliceAlloc slot (s.homeKey (ln * 64)) _)
  rw [State.sliceAlloc_empty (hl _ hr)]
  obtain ⟨h1, h2⟩ := State.SameCaches.openRow u (ln * 64)
  exact ⟨h1.trans (by rw [hm]), h2.trans (by rw [hm])⟩

theorem State.l1Open_empty {s : State} {c : Nat} (h : (s.core c).l1d = []) (slot ln : Nat) (rid : BitVec 4) :
    s.l1Open slot c ln rid = s.setCore c { s.core c with l1d := [.empty ln rid] } := by
  rw [State.l1Open, State.l1Line, h]
  show State.l1Open.add slot c ln rid s = _
  rw [State.l1Open.add, State.updL1, h, State.trimL1]
  refine if_pos ?_
  rw [State.core_setCore_same]
  exact le_trans (List.length_filter_le _ _) (show 1 ≤ 8 by decide)

theorem State.ccOpen_empty {s : State} {k : Nat} (h : (s.cluster k).cc = []) (slot ln : Nat) (rid : BitVec 4) :
    s.ccOpen slot k ln rid = s.setCluster k { s.cluster k with cc := [.empty ln rid] } := by
  rw [State.ccOpen, State.ccLine, h]
  show State.ccOpen.add slot k ln rid s = _
  rw [State.ccOpen.add, State.updCC, h, State.trimCC]
  refine if_pos ?_
  rw [State.cluster_setCluster_same]
  exact le_trans (List.length_filter_le _ _) (show 1 ≤ 16 by decide)

theorem State.cores_mapCC (s : State) (k ln : Nat) (g : CacheLine → CacheLine) : (s.mapCC k ln g).m.cores = s.m.cores := by
  unfold State.mapCC
  split <;> rfl

/-- A line of a cache, valid and clean, with its bytes. -/
def CacheLine.filled (ln : Nat) (rid : BitVec 4) (data : List Byte) : CacheLine := { CacheLine.empty ln rid with wv := 0xFFFF#16, data }

theorem CacheLine.empty_lacks (ln : Nat) (rid : BitVec 4) : ¬ 0xFFFF#16 &&& ~~~(CacheLine.empty ln rid).wv = 0#16 := by
  show ¬ 0xFFFF#16 &&& ~~~0#16 = 0#16
  decide

theorem CacheLine.empty_filled {ln : Nat} {rid : BitVec 4} {data : List Byte} (hd : data.length = 64) :
    { CacheLine.empty ln rid with
      wv := 0xFFFF#16, data := mergeWords (~~~(CacheLine.empty ln rid).wv) data (CacheLine.empty ln rid).data
      psn := (CacheLine.empty ln rid).psn || false } = CacheLine.filled ln rid data := by
  have hwv : ~~~(CacheLine.empty ln rid).wv = 0xFFFF#16 := by
    show ~~~(0#16) = 0xFFFF#16
    decide
  rw [hwv, mergeWords_all hd (show (CacheLine.empty ln rid).data.length = 64 from List.length_replicate)]
  rfl

theorem findLine_single {x : CacheLine} : findLine x.line [x] = some x := by simp [findLine]

section
variable {s : State} {slot ln : Nat} (q : QuietHome s slot (ln * 64)) (rid : BitVec 4)
include q

/-- A line filled in an empty cluster cache of the die of its home. -/
theorem QuietHome.ccFill {k : Nat} (hcc : (s.cluster k).cc = []) (hk : s.rlcKey (k / 16) (ln * 64) = none) :
    ((s.ccFill slot k ln rid 0xFFFF#16).cluster k).cc = [.filled ln rid (s.homeBytes slot (ln * 64) 64)] ∧
      (s.ccFill slot k ln rid 0xFFFF#16).m.cores = s.m.cores := by
  have hu : ∀ u : State, u = s.setCluster k { s.cluster k with cc := [.empty ln rid] } →
      u.fetchLine slot (k / 16) ln = (u.homeTouch slot ln 0#16, s.homeBytes slot (ln * 64) 64, false) ∧ s.SameHome u ∧
        s.m.cores = u.m.cores ∧ (u.cluster k).cc = [.empty ln rid] ∧ (u.slice (u.homeKey (ln * 64))).lines = [] := by
    rintro u rfl
    have qu : QuietHome (s.setCluster k { s.cluster k with cc := [.empty ln rid] }) slot (ln * 64) := q
    have hs : s.SameHome (s.setCluster k { s.cluster k with cc := [.empty ln rid] }) := (State.SameHome.inv s).cc (g := fun _ => [.empty ln rid]) (.refl s)
    have hku : (s.setCluster k { s.cluster k with cc := [.empty ln rid] }).rlcKey (k / 16) (ln * 64) = none := hk
    refine ⟨?_, hs, rfl, by rw [State.cluster_setCluster_same], qu.noLines⟩
    rw [State.fetchLine, qu.pointLine hku, hku, hs.homeBytes]
  rw [State.ccFill, State.ccOpen_empty hcc]
  obtain ⟨hf, hs, hcores, hc, hl⟩ := hu _ rfl
  generalize s.setCluster k _ = u at hf hs hcores hc hl
  rw [State.ccLine, hc, show findLine ln [CacheLine.empty ln rid] = _ from findLine_single]
  dsimp only
  rw [if_neg (CacheLine.empty_lacks ln rid), hf]
  dsimp only
  obtain ⟨h1, h2⟩ := State.SameCaches.homeTouch hl slot
  refine ⟨?_, ?_⟩
  · rw [State.cc_mapCC, State.cluster, h2, ← State.cluster, hc]
    refine congrArg (fun x => [x]) ((if_pos rfl).trans ?_)
    exact CacheLine.empty_filled (homeBytes_length ..)
  · rw [State.cores_mapCC, h1, hcores]

/-- A line filled in an empty L1D and an empty cluster cache of the die of its home. -/
theorem QuietHome.l1Fill {c : Nat} (hl1 : (s.core c).l1d = []) (hcc : (s.cluster (c / 8)).cc = []) (hk : s.rlcKey (c / 8 / 16) (ln * 64) = none) :
    ((s.l1Fill slot c ln rid 0xFFFF#16).core c).l1d = [.filled ln rid (s.homeBytes slot (ln * 64) 64)] := by
  rw [State.l1Fill, State.l1Open_empty hl1]
  have hu : ∀ u : State, u = s.setCore c { s.core c with l1d := [.empty ln rid] } → QuietHome u slot (ln * 64) ∧ s.SameHome u ∧
      u.rlcKey (c / 8 / 16) (ln * 64) = none ∧ (u.cluster (c / 8)).cc = [] ∧ (u.core c).l1d = [.empty ln rid] := by
    rintro u rfl
    exact ⟨q, (State.SameHome.inv s).l1 (g := fun _ => [.empty ln rid]) (.refl s), hk, hcc, by rw [State.core_setCore_same]⟩
  obtain ⟨qu, hs, hku, hccu, hl⟩ := hu _ rfl
  generalize s.setCore c _ = u at qu hs hku hccu hl
  have qu : QuietHome u slot (ln * 64) := qu
  obtain ⟨hcc', hcores⟩ := qu.ccFill rid hccu hku
  rw [State.l1Line, hl, show findLine ln [CacheLine.empty ln rid] = _ from findLine_single]
  dsimp only
  rw [if_neg (CacheLine.empty_lacks ln rid), State.ccLine, hcc', show findLine ln [CacheLine.filled ln rid _] = _ from findLine_single]
  dsimp only
  rw [State.l1d_mapL1, State.core, hcores, ← State.core, hl, ← hs.homeBytes]
  have hlen : (u.homeBytes slot (ln * 64) 64).length = 64 := homeBytes_length ..
  generalize u.homeBytes slot (ln * 64) 64 = data at hlen
  have hw : ∀ i, (u.ccFill slot (c / 8) ln rid 0xFFFF#16).ccWord c ln (.filled ln rid data) i = (wordOf data i, false) := fun i => by
    rw [State.ccWord, if_neg (by simp [CacheLine.filled, CacheLine.empty, bitAt])]
    rfl
  have hdata : (words16.map fun i => (wordOf data i, false)).flatMap (·.1) = data := by
    rw [List.flatMap_map]
    have h4 : ∀ i, i < 16 → (wordOf data i).length = 4 := fun i hi => wordOf_length (by omega)
    exact eq_of_wordOf (length_flatMap_words h4) hlen fun i hi => wordOf_flatMap h4 hi
  simp only [hw, hdata]
  refine congrArg (fun x => [x]) ((if_pos rfl).trans ?_)
  exact CacheLine.empty_filled hlen

end

/-! ### A fill that meets no error -/

theorem State.cacheError_none (s : State) (slot h ln : Nat) (toL1 : Bool) (words : BitVec 16) (la : Nat) : s.cacheError slot h ln toL1 0 words la = s := rfl

theorem State.fillReturn_l1 (s : State) (slot h ln : Nat) (rid : BitVec 4) : s.fillReturn slot h ln rid true false =
    (s.reply (s.pointLine slot (dieOfHart h) ln).1 (s.pointLine slot (dieOfHart h) ln).2).l1Fill slot (coreOf h) ln rid 0xFFFF#16 := by
  rw [State.fillReturn]
  dsimp only
  rw [if_neg Bool.false_ne_true, if_pos rfl]

end Sys2Proof.Machine
end

section
/-! PROOF. O49: the coherence messages (spec/03 R69, R74, R75, R79, spec/05 R121 to R128). -/
namespace Sys2Proof.Machine
set_option Elab.async false

/-! ### The steps, one by one -/

section
variable {s : State} {h ln : Nat} (hpa : s.msg.addr.toNat < 2 ^ 52) (hbm : isHbm (laOf s.msg.addr.toNat) = true)
include hpa hbm

theorem ends_revocation : Ends .revocation s fun t => SameHarts s t ∧ t.m.mem = s.m.mem ∧
    (∀ l ∈ (t.core (coreOf s.msg.hart.toNat)).l1d ++ (t.cluster (clusterOf s.msg.hart.toNat)).cc,
      l.line = s.msg.addr.toNat / 64 → (l.wv ||| l.wd ||| l.wo) &&& s.msg.words16 = 0#16) ∧
    (∀ l ∈ (s.core (coreOf s.msg.hart.toNat)).l1d, l.line ≠ s.msg.addr.toNat / 64 → l ∈ (t.core (coreOf s.msg.hart.toNat)).l1d) ∧
    (∀ c, c ≠ coreOf s.msg.hart.toNat → t.core c = s.core c) :=
  have hh := s.msg.hart.isLt
  ends_msgLine rfl hpa hbm ⟨s.sameHarts_revoke _ _ hh, ((State.SameHome.inv s).revoke (.refl s)).mem, fun _ => State.revoke_clears _ _ _ hh,
    fun _ => State.mem_l1d_revoke _ _ _ hh, fun _ => State.core_revoke_other _ _ _ hh⟩

theorem ends_revocationWithWriteBack (hf : s.msg.flag = false) (hln : s.msg.addr.toNat / 64 = ln) (hh : s.msg.hart.toNat = h)
    {slot : Nat} (hslot : slot = keySlot (s.getHart h).ctx) (q : QuietHome s slot (ln * 64))
    (hlen : ∀ j v q, s.ownerWord h ln j = some (v, q) → v.length = 4) : Ends .revocationWithWriteBack s fun t =>
    (∀ l ∈ (t.core (coreOf h)).l1d ++ (t.cluster (clusterOf h)).cc, l.line = ln → (l.wv ||| l.wd ||| l.wo) &&& s.msg.words16 = 0#16) ∧
    (∀ i, i < 16 → bitAt s.msg.words16 i = true → ∀ w p, s.ownerWord h ln i = some (w, p) → t.homeBytes slot (ln * 64 + 4 * i) 4 = w) ∧
    (∀ i, i < 16 → bitAt s.msg.words16 i = false → t.homeBytes slot (ln * 64 + 4 * i) 4 = s.homeBytes slot (ln * 64 + 4 * i) 4) := by
  have hlt : h < 2048 := hh ▸ s.msg.hart.isLt
  refine ends_msgLine rfl hpa hbm ?_
  dsimp only
  rw [hln, hh, hf, ← hslot, if_neg Bool.false_ne_true]
  refine ⟨fun l => State.revoke_clears _ _ _ hlt, fun i hi hm w p hw => ?_, fun i hi hm => ?_⟩
  · rw [q.homeBytes_revokeWB hslot _ hlen hi, if_pos (by rw [State.bitAt_ownerWords _ _ _ _ hi, hm, hw]; rfl),
      State.wordOf_ownerWords _ hlen hi hm hw]
  · rw [q.homeBytes_revokeWB hslot _ hlen hi, if_neg (by rw [State.bitAt_ownerWords _ _ _ _ hi, hm]; simp)]

theorem ends_writeBack (hln : s.msg.addr.toNat / 64 = ln) {key : Nat} (hkey : key = keySlot s.msg.slot) (hd : s.msg.bytes.length = 64)
    (hk : s.rlcKey s.msg.die.toNat (ln * 64) = none) (q : QuietHome s key (ln * 64)) (hw : s.homeWaits key s.msg.die.toNat (ln * 64) = false) :
    Ends .writeBack s fun t => ∀ i, i < 16 → t.homeBytes key (ln * 64 + 4 * i) 4 =
      if bitAt s.msg.words16 i = true then wordOf s.msg.bytes i else s.homeBytes key (ln * 64 + 4 * i) 4 := by
  subst hkey hln
  have he : exec .writeBack s = finishEvent (if s.msg.bytes.length = 64 then homeLine .writeBack (·.msg.key) (·.msg.die.toNat) fun s ln =>
    s.writeBack s.msg.key s.msg.die.toNat ln s.msg.words16 s.msg.bytes s.msg.flag else badMsg) s := rfl
  rw [if_pos hd] at he
  refine ends_homeLine he hpa hbm hw fun i hi => ?_
  rw [State.writeBack_home hk]
  exact q.ownLine.homeBytes_writeHome q.notProtected hd hi

omit hpa hbm in
theorem writeBack_otherLength (hd : s.msg.bytes.length ≠ 64) : exec .writeBack s = .next s := by
  have he : exec .writeBack s = finishEvent (if s.msg.bytes.length = 64 then homeLine .writeBack (·.msg.key) (·.msg.die.toNat) fun s ln =>
    s.writeBack s.msg.key s.msg.die.toNat ln s.msg.words16 s.msg.bytes s.msg.flag else badMsg) s := rfl
  rw [he, if_neg hd]
  rfl

/-! A fill arrives -/

section
variable (hh : s.msg.hart.toNat = h) (hln : s.msg.addr.toNat / 64 = ln) {slot : Nat} (hslot : slot = keySlot (s.getHart h).ctx)
include hh hln hslot

theorem cacheFillReturn_waits (hw : s.homeWaits slot (dieOfHart h) (ln * 64) = true) :
    exec .cacheFillReturn s = .next (s.after [(.cacheFillReturn, s.msg)]) := by
  subst hh hln hslot
  exact homeLine_waits rfl hpa hbm hw

/-- A fill that does not wait meets the error of its message and returns. -/
theorem ends_cacheFillReturn {P : State → Prop} (hw : s.homeWaits slot (dieOfHart h) (ln * 64) = false)
    (hP : P ((s.cacheError slot h ln s.msg.flag s.msg.kind.toNat (s.msg.value.setWidth 16) s.msg.mask.toNat).fillReturn slot h ln s.msg.region
      s.msg.flag s.msg.flag2)) : Ends .cacheFillReturn s P := by
  subst hh hln hslot
  exact ends_homeLine rfl hpa hbm hw hP

variable (hw : s.homeWaits slot (dieOfHart h) (ln * 64) = false)
include hw

theorem ends_cacheFillReturn_stale (hk : s.msg.kind = 0#8) (hf : s.msg.flag2 = true) : Ends .cacheFillReturn s fun t =>
    t.m = s.m ∧ SameHarts s t ∧ t.inbox = s.inbox ∧ t.fab.answer.bytes = (s.pointLine slot (dieOfHart h) ln).1 ∧ t.fab.answer.refused = false := by
  refine ends_cacheFillReturn hpa hbm hh hln hslot hw ?_
  rw [hk, hf]
  exact ⟨rfl, ⟨rfl, rfl, rfl⟩, rfl, rfl, rfl⟩

theorem ends_cacheFillReturn_corrected (hk : s.msg.kind = 1#8) : Ends .cacheFillReturn s fun t =>
    t.m.arrayCorr.get 0 (dieOfHart h) = s.m.arrayCorr.get 0 (dieOfHart h) + 1 := by
  refine ends_cacheFillReturn hpa hbm hh hln hslot hw ?_
  rw [hk]
  have hsame := (State.SameArrays.inv (s.countArray (dieOfHart h) false)).fillReturn ⟨rfl, fun _ => rfl⟩ (slot := slot) (h := h) (ln := ln)
    (rid := s.msg.region) (toL1 := s.msg.flag) (stale := s.msg.flag2)
  exact (congrArg (SMap.get 0 · (dieOfHart h)) hsame.1).trans (SMap.get_set_same ..)

theorem ends_cacheFillReturn_l1i (hk : s.msg.kind = 3#8) : Ends .cacheFillReturn s fun t => ∀ x ∈ (t.core (coreOf h)).l1i, x.line ≠ ln := by
  refine ends_cacheFillReturn hpa hbm hh hln hslot hw ?_
  rw [hk]
  intro x hx
  have hsame := (State.SameArrays.inv (s.cacheError slot h ln s.msg.flag 3 (s.msg.value.setWidth 16) s.msg.mask.toNat)).fillReturn
    ⟨rfl, fun _ => rfl⟩ (slot := slot) (h := h) (ln := ln) (rid := s.msg.region) (toL1 := s.msg.flag) (stale := s.msg.flag2)
  have hx' := hsame.2 (coreOf h) ▸ hx
  have herr : ((s.cacheError slot h ln s.msg.flag 3 (s.msg.value.setWidth 16) s.msg.mask.toNat).core (coreOf h)).l1i =
      (s.core (coreOf h)).l1i.filter fun x => decide (x.line ≠ ln) := congrArg CoreState.l1i (State.core_setCore_same ..)
  rw [herr] at hx'
  exact of_decide_eq_true (List.mem_filter.1 hx').2

theorem ends_cacheFillReturn_empty (hk : s.msg.kind = 0#8) (hf2 : s.msg.flag2 = false) (hf : s.msg.flag = true)
    (hl1 : (s.core (coreOf h)).l1d = []) (hcc : (s.cluster (clusterOf h)).cc = []) (q : QuietHome s slot (ln * 64))
    (hrlc : s.rlcKey (dieOfHart h) (ln * 64) = none) : Ends .cacheFillReturn s fun t =>
      (t.core (coreOf h)).l1d = [.filled ln s.msg.region (s.homeBytes slot (ln * 64) 64)] := by
  refine ends_cacheFillReturn hpa hbm hh hln hslot hw ?_
  rw [hk, hf, hf2]
  have hdie : coreOf h / 8 / 16 = dieOfHart h := by unfold coreOf dieOfHart; omega
  have hcl : coreOf h / 8 = clusterOf h := by unfold coreOf clusterOf; omega
  have hu : ∀ u : State, u = s.reply (s.pointLine slot (dieOfHart h) ln).1 (s.pointLine slot (dieOfHart h) ln).2 →
      QuietHome u slot (ln * 64) ∧ s.SameHome u ∧ (u.core (coreOf h)).l1d = [] ∧ (u.cluster (coreOf h / 8)).cc = [] ∧
        u.rlcKey (coreOf h / 8 / 16) (ln * 64) = none := by
    rintro u rfl
    exact ⟨q, (State.SameHome.inv s).reply (.refl s), hl1, hcl ▸ hcc, hdie ▸ hrlc⟩
  rw [show (0#8).toNat = 0 from rfl, State.cacheError_none, State.fillReturn_l1]
  have hu' := hu _ rfl
  generalize s.reply _ _ = u at hu' ⊢
  obtain ⟨hq, hs, hl, hc, hr⟩ := hu'
  have hq : QuietHome u slot (ln * 64) := hq
  rw [hq.l1Fill s.msg.region hl hc hr, hs.homeBytes]

end

/-! Forwarded reads -/

section
variable (hh : s.msg.hart.toNat = h) (hln : s.msg.addr.toNat / 64 = ln)
include hh hln

theorem ends_forwardedRead_owned (ho : ∀ i, i < 16 → bitAt s.msg.words16 i = true → (s.ownerWord h ln i).isSome = true) :
    Ends .forwardedRead s fun t => t.inbox = s.inbox ∧ t.m = s.m ∧ SameHarts s t ∧ ∀ i w p, i < 16 → bitAt s.msg.words16 i = true →
      (∀ j v q, s.ownerWord h ln j = some (v, q) → v.length = 4) → s.ownerWord h ln i = some (w, p) → wordOf t.fab.answer.bytes i = w := by
  have hgot : (s.ownerWords h ln s.msg.words16).1 = s.msg.words16 := mask_ext fun i hi => by
    rw [State.bitAt_ownerWords _ _ _ _ hi]
    cases hm : bitAt s.msg.words16 i with
    | false => rfl
    | true => rw [ho i hi hm]; rfl
  refine ends_msgLine rfl hpa hbm ?_
  rw [hh, hln, State.forwarded]
  dsimp only
  rw [hgot, if_pos (by simp)]
  exact ⟨rfl, rfl, ⟨rfl, rfl, rfl⟩, fun i w p hi hm hlen hw => State.wordOf_ownerWords _ hlen hi hm hw⟩

theorem ends_forwardedRead_lost (ho : ∀ i, i < 16 → bitAt s.msg.words16 i = true → s.ownerWord h ln i = none) (hm : s.msg.words16 ≠ 0#16) :
    Ends .forwardedRead s fun t => t.inbox = s.inbox ++ [(.forwardUnanswered,
      { slot := (s.getHart h).ctx, die := BitVec.ofNat 3 (dieOfHart h), flag := s.msg.flag, addr := BitVec.ofNat 64 (ln * 64),
        mask := s.msg.words16.zeroExtend 64 })] := by
  have hgot : (s.ownerWords h ln s.msg.words16).1 = 0#16 := mask_ext fun i hi => by
    rw [State.bitAt_ownerWords _ _ _ _ hi]
    cases hm : bitAt s.msg.words16 i with
    | false => simp [bitAt]
    | true => rw [ho i hi hm]; simp [bitAt]
  have hlost : s.msg.words16 &&& ~~~0#16 = s.msg.words16 := by rw [BitVec.not_zero, BitVec.and_allOnes]
  refine ends_msgLine rfl hpa hbm ?_
  rw [hh, hln, State.forwarded]
  dsimp only
  rw [hgot, hlost, if_neg hm]
  rfl

end

theorem ends_forwardUnanswered (hln : s.msg.addr.toNat / 64 = ln) {key : Nat} (hkey : key = keySlot s.msg.slot) {f : Nat → List Byte × Bool}
    (hf : ∀ i, (if s.msg.flag = true then s.pointWord key s.msg.die.toNat ln i else s.homeWord key ln i) = f i)
    (hlen : ∀ i, i < 16 → (f i).1.length = 4) :
    Ends .forwardUnanswered s fun t => ∀ i, i < 16 → bitAt s.msg.words16 i = true → wordOf t.fab.answer.bytes i = (f i).1 := by
  subst hln hkey
  refine ends_msgLine rfl hpa hbm fun i hi hm => ?_
  refine (wordOf_gatherWords (fun j hj _ => ?_) hi).trans ((if_pos hm).trans (congrArg Prod.fst (hf i)))
  exact (congrArg (List.length ∘ Prod.fst) (hf j)).trans (hlen j hj)

end

/-! ### Acquires at the RLC (R123, R124) -/

/-- What an acquire leaves of a slice line: an RLC line's dirty words. -/
def SliceLine.dirtyOnly (x : SliceLine) : SliceLine :=
  if x.rlc then { x with wv := x.wv &&& x.wd, psn := x.psn && x.wv &&& x.wd != 0#16, stale := x.stale || x.fill } else x

theorem SliceLine.acquired_eq {x : SliceLine} (h : x.rlc = true) : x.acquired = x.dirtyOnly := by
  simp [SliceLine.acquired, SliceLine.without, SliceLine.dirtyOnly, h, BitVec.not_not]

theorem State.lines_clearRlc (s : State) (k : Nat) : ((s.clearRlc k fun _ => true).slice k).lines = (s.slice k).lines.map (·.dirtyOnly) := by
  unfold State.clearRlc
  extract_lets t
  split
  · rw [State.slice_setSlice_same]
    refine List.map_congr_left fun x _ => ?_
    cases hr : x.rlc with
    | true => exact SliceLine.acquired_eq hr
    | false => simp [SliceLine.dirtyOnly, hr]
  · next h =>
    have hid : ∀ x ∈ (s.slice k).lines, x.dirtyOnly = x := fun x hx => by
      have : x.rlc ≠ true := fun hr => h (List.any_eq_true.2 ⟨x, hx, by simp [hr]⟩)
      simp [SliceLine.dirtyOnly, this]
    exact ((List.map_congr_left hid).trans (List.map_id' _)).symm

theorem State.regs_clearRlc (s : State) (k : Nat) : ((s.clearRlc k fun _ => true).slice k).regs = (s.slice k).regs := by
  unfold State.clearRlc
  extract_lets t
  split
  · rw [State.slice_setSlice_same]
  · rfl

theorem State.slice_clearRlc_other (s : State) {k n : Nat} (h : n ≠ k) : (s.clearRlc k fun _ => true).slice n = s.slice n := by
  unfold State.clearRlc
  extract_lets t
  split
  · exact State.slice_setSlice_other _ _ _ _ h
  · rfl

/-- Only the slice changes. -/
theorem State.clearRlc_eq (s : State) (k : Nat) : ∃ v, s.clearRlc k (fun _ => true) = s.updMem fun m => { m with slices := v } := by
  unfold State.clearRlc
  extract_lets t
  split
  · exact ⟨_, rfl⟩
  · exact ⟨s.m.slices, rfl⟩

theorem ends_rlcAcquireInvalidation (s : State) {k : Nat} (hk : k = s.msg.die.toNat * 16 + s.msg.slice.toNat) : Ends .rlcAcquireInvalidation s fun t =>
    (t.slice k).lines = (s.slice k).lines.map (·.dirtyOnly) ∧ (t.slice k).regs = (s.slice k).regs ∧ (∀ n, n ≠ k → t.slice n = s.slice n) ∧
      (t.getHart s.msg.hart.toNat).acks.acq = (s.getHart s.msg.hart.toNat).acks.acq + 1 ∧
      t.inbox = s.inbox ++ [(.acquireAcknowledgement, { hart := s.msg.hart })] ∧ t.m.mem = s.m.mem := by
  refine ⟨((s.clearRlc k fun _ => true).updHartN s.msg.hart.toNat fun x => { x with acks := { x.acks with acq := x.acks.acq + 1 } }).after
    [(.acquireAcknowledgement, { hart := s.msg.hart })], by rw [hk]; rfl, ?_⟩
  have hlines := s.lines_clearRlc k
  have hregs := s.regs_clearRlc k
  have hother : ∀ n, n ≠ k → _ := fun n hn => s.slice_clearRlc_other hn
  obtain ⟨v, hv⟩ := s.clearRlc_eq k
  rw [hv] at hlines hregs hother ⊢
  have hslice : ∀ n, (State.after (State.updHartN (s.updMem fun m => { m with slices := v }) s.msg.hart.toNat
      fun x => { x with acks := { x.acks with acq := x.acks.acq + 1 } }) [(.acquireAcknowledgement, { hart := s.msg.hart })]).slice n =
        (s.updMem fun m => { m with slices := v }).slice n := fun n => by
    rw [State.slice_after, State.slice, State.updHartN_m, ← State.slice]
  refine ⟨by rw [hslice, hlines], by rw [hslice, hregs], fun n hn => by rw [hslice, hother n hn], ?_, ?_, ?_⟩
  · exact congrArg (fun x : Hart => x.acks.acq) ((State.getHart_updHartN ..).trans (if_pos rfl))
  · rw [State.after, State.updHartN_inbox]
    rfl
  · rw [State.after, State.updHartN_m]
    rfl

/-! ### The obligation -/

/-- Settles O49: each message is taken through what its step does to the caches, to the registrations at its point and to the bytes at home. -/
theorem coherenceMessages : Obligations.CoherenceMessages := by
  unfold Obligations.CoherenceMessages
  refine ⟨fun s => ?_, fun s => ⟨⟨_, rfl, rfl⟩, ⟨_, rfl, rfl⟩, ends_rlcAcquireInvalidation s rfl⟩⟩
  intro h pa ln m slot hpa hbm
  refine ⟨fun hf hk q => ?_, ?_, fun hf q hlen => ?_, fun key hkey hd hk q hw => ?_, fun hd => writeBack_otherLength hd, fun hw => ?_,
    fun hw hk hf => ?_, fun hw hk => ?_, fun hw hk => ?_, fun hk hf2 hf hl1 hcc q hrlc hw => ?_, fun ho => ?_, fun ho hm => ?_,
    fun key hkey hf hlen => ?_, fun key hkey hf q => ?_⟩
  · exact q.ends_registration hpa hbm rfl rfl hf hk
  · exact ends_revocation hpa hbm
  · exact ends_revocationWithWriteBack hpa hbm hf rfl rfl rfl q hlen
  · exact ends_writeBack hpa hbm rfl hkey hd hk q hw
  · exact cacheFillReturn_waits hpa hbm rfl rfl rfl hw
  · exact ends_cacheFillReturn_stale hpa hbm rfl rfl rfl hw hk hf
  · exact ends_cacheFillReturn_corrected hpa hbm rfl rfl rfl hw hk
  · exact ends_cacheFillReturn_l1i hpa hbm rfl rfl rfl hw hk
  · obtain ⟨t, ht, hl⟩ := ends_cacheFillReturn_empty hpa hbm rfl rfl rfl hw hk hf2 hf hl1 hcc q hrlc
    exact ⟨t, ht, _, hl, rfl, rfl, rfl, rfl, rfl, rfl, rfl⟩
  · exact ends_forwardedRead_owned hpa hbm rfl rfl ho
  · exact ends_forwardedRead_lost hpa hbm rfl rfl ho hm
  · exact ends_forwardUnanswered hpa hbm rfl hkey (fun i => by rw [if_pos hf]) hlen
  · exact ends_forwardUnanswered hpa hbm rfl hkey (fun i => by rw [hf, if_neg Bool.false_ne_true, q.homeWord]) fun i _ => homeBytes_length ..

end Sys2Proof.Machine
end

section
/-! SUPPORT. Requests at a slice (spec/03 R72 to R77): the cases of `State.sliceServe` as equations, what a write does to the lines of the slices, the
slices that an LA names, and what a read that a slice serves finds. -/
namespace Sys2Proof.Machine
set_option Elab.async false

/-! ### What a slice does with a request, case by case (R76, R77) -/

/-- A line that is not filling serves a request whose pin, if it brings one, finds room. -/
theorem SliceLine.not_waits {x : SliceLine} {pin : Bool} {n : Nat} (hfill : x.fill = false) (hpin : pin = false ∨ x.pin ≠ 0 ∨ n < 8) :
    ¬ (x.fill || (pin && decide (x.pin = 0) && decide (8 ≤ n))) = true := by
  simpa [hfill, ← or_iff_not_imp_left, imp_iff_not_or, or_assoc] using hpin

section
variable {s : State} {k la : Nat} {rlc : Bool} {q : Msg} {x : SliceLine}

/-- A slice line as a read leaves it: pinned once more for an engine, and filling where words that it asks for are missing. -/
def SliceLine.read (x : SliceLine) (pin lacks : Bool) : SliceLine := { x with pin := min 8 (x.pin + if pin then 1 else 0), fill := lacks }

/-- The state in which a slice line is put in front of the lines of its slice, in its own place. -/
def State.putAt (s : State) (k : Nat) (y : SliceLine) : State := s.setSlice k { s.slice k with lines := slicePut y (s.slice k).lines }

variable (hx : sliceFind (s.ownPa la / 64) rlc (s.slice k).lines = some x)
include hx

theorem State.sliceServe_waits (hw : x.fill = true ∨ q.flag2 = true ∧ x.pin = 0 ∧ 8 ≤ (s.slice k).pinned (s.ownPa la / 64)) :
    s.sliceServe k la rlc q = s.waitAt k q false := by
  have hc : (x.fill || (q.flag2 && decide (x.pin = 0) && decide (8 ≤ (s.slice k).pinned (s.ownPa la / 64)))) = true := by
    simpa [and_assoc] using hw
  rw [State.sliceServe]
  dsimp only
  rw [hx]
  exact if_pos hc

variable (hf : q.flag = false) (hfill : x.fill = false) (hpin : q.flag2 = false ∨ x.pin ≠ 0 ∨ (s.slice k).pinned (s.ownPa la / 64) < 8)
include hf hfill hpin

theorem State.sliceServe_lacks (hl : q.words16 &&& ~~~x.wv ≠ 0#16) :
    s.sliceServe k la rlc q = ((s.putAt k (x.read q.flag2 true)).fetchFor q.key la rlc).waitAt k q true := by
  rw [State.sliceServe]
  dsimp only
  rw [hx]
  dsimp only
  have hl' : (q.words16 &&& ~~~x.wv != 0#16) = true := by simpa using hl
  rw [if_neg (SliceLine.not_waits hfill hpin), hf, hl']
  rfl

/-- A read that the slice can serve: the requests that waited for a home line are met as well, and the words are answered. -/
theorem State.sliceServe_hit (hl : q.words16 &&& ~~~x.wv = 0#16) :
    s.sliceServe k la rlc q =
      let v := if rlc then s.putAt k (x.read q.flag2 false) else (s.putAt k (x.read q.flag2 false)).endRlcFill q.key (s.ownPa la / 64)
      v.reply
        (gatherWords q.words16 fun i =>
          if rlc then v.pointWord q.key (k / 16) (s.ownPa la / 64) i else v.homeWord q.key (s.ownPa la / 64) i).1
        (gatherWords q.words16 fun i =>
          if rlc then v.pointWord q.key (k / 16) (s.ownPa la / 64) i else v.homeWord q.key (s.ownPa la / 64) i).2 := by
  rw [State.sliceServe]
  dsimp only
  rw [hx]
  dsimp only
  have hl' : (q.words16 &&& ~~~x.wv != 0#16) = false := by simpa using hl
  rw [if_neg (SliceLine.not_waits hfill hpin), hf, hl']
  cases rlc <;> rfl

end

/-! A line that is not there, in an empty slice -/

section
variable {s : State} {k la : Nat} {rlc : Bool} {q : Msg} (hl : (s.slice k).lines = [])
include hl

/-- The line that a request allocates. -/
def State.newLine (s : State) (la : Nat) (rlc : Bool) (q : Msg) : SliceLine :=
  { SliceLine.plain (s.ownPa la / 64) rlc (if q.flag then q.words16 else 0#16) (if q.flag && !rlc then q.words16 else 0#16)
      (if q.flag then q.flag3 else s.isPoisoned (s.ownPa la / 64))
      (if q.flag then (q.bytes ++ List.replicate 64 0#8).take 64 else List.replicate 64 0#8) with
    pin := if q.flag2 then 1 else 0, fill := !q.flag }

theorem State.sliceServe_empty : s.sliceServe k la rlc q =
    if q.flag then (s.sliceAdd k (s.newLine la rlc q)).sliceWrite q.key k (s.ownPa la / 64) rlc q.words16
      ((q.bytes ++ List.replicate 64 0#8).take 64) q.flag3
    else ((s.sliceAdd k (s.newLine la rlc q)).fetchFor q.key la rlc).waitAt k q true := by
  have hfind : sliceFind (s.ownPa la / 64) rlc (s.slice k).lines = none := by rw [hl]; rfl
  have hv : (s.slice k).victim (sliceSet la) rlc = none := by simp [SliceState.victim, hl]
  have hp : ¬ (q.flag2 && decide (8 ≤ (s.slice k).pinned (s.ownPa la / 64))) = true := by simp [SliceState.pinned, hl]
  rw [State.sliceServe]
  dsimp only
  rw [hfind]
  dsimp only
  rw [hv]
  dsimp only
  rw [if_neg hp]
  rw [show (Option.elim (Option.bind none id) s fun x => s.burst q.key x) = s from rfl, State.sliceAlloc_empty hl]
  rfl

end

/-! ### What a write does to the lines of the slices (R73) -/

/-- The slices hold the same lines in two states. -/
def State.SameLines (s t : State) : Prop := ∀ n, (t.slice n).lines = (s.slice n).lines

namespace State.SameLines

theorem refl (s : State) : s.SameLines s := fun _ => rfl

theorem of_slices {s t u : State} (h : s.SameLines t) (hu : u.m.slices = t.m.slices) : s.SameLines u := fun n => by
  rw [State.slice, hu, ← State.slice, h n]

theorem foldl {α : Type} {s t : State} {g : State → α → State} {l : List α} (h : s.SameLines t) (hg : ∀ u, s.SameLines u → ∀ a, s.SameLines (g u a)) :
    s.SameLines (l.foldl g t) := by
  induction l generalizing t with
  | nil => exact h
  | cons a l ih => exact ih (hg t h a)

theorem setSlice {s t : State} {k : Nat} {v : SliceState} (h : s.SameLines t) (hv : v.lines = (t.slice k).lines) : s.SameLines (t.setSlice k v) := fun n => by
  by_cases hn : n = k
  · subst hn
    rw [State.slice_setSlice_same, hv, h n]
  · rw [State.slice_setSlice_other _ _ _ _ hn, h n]

variable {s t : State} (h : s.SameLines t)
include h

theorem tell {dev ln hart what m} : s.SameLines (t.tell dev ln hart what m) := by
  refine h.of_slices ?_
  unfold State.tell
  split <;> rfl

theorem revoke {hart ln m} : s.SameLines (t.revoke hart ln m) := by
  unfold State.revoke
  split
  · exact h.tell
  · refine h.of_slices ?_
    unfold State.mapCC State.mapL1
    split <;> split <;> rfl

theorem dropOwners {key ln m} : s.SameLines (t.dropOwners key ln m) :=
  (h.foldl fun _ hu _ => hu.revoke).setSlice rfl

theorem addPoison {ln} : s.SameLines (t.addPoison ln) := h

theorem homeStore {slot pa bs} : s.SameLines (t.homeStore slot pa bs) := by
  refine h.of_slices ?_
  have hk : (t.keepUnder (pa / 64)).m.slices = t.m.slices := by
    unfold State.keepUnder
    split <;> rfl
  unfold State.homeStore
  split
  · exact hk
  · rfl

theorem fireWatches {pa n} : s.SameLines (t.fireWatches pa n) := by
  have ha : s.SameLines (t.fireAgents pa n) := h
  unfold State.fireWatches
  extract_lets u k v hit w
  split
  · exact ha
  · have hw : s.SameLines w := ha.setSlice rfl
    refine hw.foldl fun x hx y => ?_
    split
    · exact hx.of_slices (by rw [State.updHartN_m])
    · exact hx.tell

end State.SameLines

theorem State.SameLines.trans {s t u : State} (h : s.SameLines t) (h' : t.SameLines u) : s.SameLines u := fun n => (h' n).trans (h n)

/-- Words that are not protected are put in the slices' lines as `homeMark` puts them; their bytes change no line. -/
theorem State.lines_homeWriteWords {s : State} {ln : Nat} {words : BitVec 16} (hp : s.protectedWords ln = 0#16) (hw : words ≠ 0#16) (slot : Nat)
    (data : List Byte) (psn : Bool) : ((s.answerRemote slot ln).homeMark ln words psn).SameLines (s.homeWriteWords slot ln words data psn) := by
  unfold State.homeWriteWords
  rw [hp, BitVec.not_zero, BitVec.and_allOnes]
  extract_lets m t u
  rw [if_neg hw]
  have hu : t.SameLines u := by
    unfold u
    split
    · exact (State.SameLines.refl t).homeStore.fireWatches
    · refine (State.SameLines.refl t).foldl fun v hv i => ?_
      split
      · exact hv.homeStore.fireWatches
      · exact hv
  split
  · exact hu.addPoison
  · exact hu

theorem mergePsn_same (m : BitVec 16) (p : Bool) : mergePsn m p p = p := by
  unfold mergePsn
  split
  · rfl
  · exact Bool.or_self p

/-- Marking words in the only line of the home slice, which has them already, leaves it. -/
theorem State.lines_homeMark_single {s : State} {ln : Nat} {m : BitVec 16} {psn : Bool} {x : SliceLine} (hx : (s.slice (s.homeKey (ln * 64))).lines = [x])
    (hln : x.line = ln) (hrlc : x.rlc = false) (hv : x.wv = m) (hd : x.wd = m) (hp : x.psn = psn) :
    ((s.homeMark ln m psn).slice (s.homeKey (ln * 64))).lines = [x] := by
  have hfind : sliceFind ln false [x] = some x := by simp [sliceFind, hln, hrlc]
  unfold State.homeMark
  extract_lets k t
  rw [show t.lines = [x] from hx, hfind]
  dsimp only
  rw [State.slice_setSlice_same]
  have h1 : x.wv ||| m = x.wv := by rw [hv, BitVec.or_self]
  have h2 : x.wd ||| m = x.wd := by rw [hd, BitVec.or_self]
  have h3 : mergePsn m x.psn psn = x.psn := by rw [hp, mergePsn_same]
  rw [h1, h2, h3]
  simp [slicePut]

theorem State.slice_homeLeft (s : State) (v : SliceLine) (n : Nat) : (s.homeLeft v).slice n = s.slice n := by
  have h : (s.homeLeft v).m.slices = s.m.slices := by
    unfold State.homeLeft State.mergeUnder
    split
    · rfl
    · split
      · split <;> rfl
      · rfl
  rw [State.slice, h, ← State.slice]

/-- Marking words at home changes no other slice. -/
theorem State.slice_homeMark_other {s : State} {ln n : Nat} (hn : n ≠ s.homeKey (ln * 64)) (m : BitVec 16) (psn : Bool) :
    (s.homeMark ln m psn).slice n = s.slice n := by
  unfold State.homeMark
  extract_lets k t
  split
  · exact State.slice_setSlice_other _ _ _ _ hn
  · split
    · exact State.slice_setSlice_other _ _ _ _ hn
    · rfl
    · split
      · rfl
      · exact (State.slice_setSlice_other _ _ _ _ hn).trans ((State.slice_setSlice_other _ _ _ _ hn).trans (State.slice_homeLeft ..))

section
variable {s : State} {ln k : Nat} {m : BitVec 16} {psn : Bool} {x : SliceLine} (hp : s.protectedWords ln = 0#16) (hx : (s.slice k).lines = [x])
include hp hx

theorem State.lines_writeHome_single (hk : k = s.homeKey (ln * 64)) (hln : x.line = ln) (hrlc : x.rlc = false) (hv : x.wv = m) (hd : x.wd = m)
    (hpsn : x.psn = psn) (slot : Nat) (data : List Byte) : ((s.writeHome slot ln m data psn).slice k).lines = [x] := by
  subst hk
  unfold State.writeHome
  split
  · exact hx
  · next h0 =>
    have hu : s.SameHome (s.dropOwners (s.homeKey (ln * 64)) ln m) := (State.SameHome.inv s).dropOwners (.refl s)
    have hlu : s.SameLines (s.dropOwners (s.homeKey (ln * 64)) ln m) := (State.SameLines.refl s).dropOwners
    generalize s.dropOwners _ ln m = u at hu hlu
    have hxu : ((u.answerRemote slot ln).slice ((u.answerRemote slot ln).homeKey (ln * 64))).lines = [x] := by
      rw [State.homeKey_answerRemote, State.slice, State.m_answerRemote, ← State.slice, hu.homeKey, hlu, hx]
    have hkey : (u.answerRemote slot ln).homeKey (ln * 64) = s.homeKey (ln * 64) := by rw [State.homeKey_answerRemote, hu.homeKey]
    rw [State.lines_homeWriteWords (by rw [hu.protectedWords, hp]) h0, ← hkey]
    exact State.lines_homeMark_single hxu hln hrlc hv hd hpsn

theorem State.lines_writeHome_other (hk : k ≠ s.homeKey (ln * 64)) (slot : Nat) (data : List Byte) :
    ((s.writeHome slot ln m data psn).slice k).lines = [x] := by
  unfold State.writeHome
  split
  · exact hx
  · next h0 =>
    have hu : s.SameHome (s.dropOwners (s.homeKey (ln * 64)) ln m) := (State.SameHome.inv s).dropOwners (.refl s)
    have hlu : s.SameLines (s.dropOwners (s.homeKey (ln * 64)) ln m) := (State.SameLines.refl s).dropOwners
    generalize s.dropOwners _ ln m = u at hu hlu
    rw [State.lines_homeWriteWords (by rw [hu.protectedWords, hp]) h0,
      State.slice_homeMark_other (by rw [State.homeKey_answerRemote, hu.homeKey]; exact hk), State.slice, State.m_answerRemote, ← State.slice, hlu, hx]

/-- Words written to a slice whose only line is the one allocated for them. -/
theorem State.lines_sliceWrite {rlc : Bool} (hk : rlc = false ↔ k = s.homeKey (ln * 64)) (hln : x.line = ln) (hrlc : x.rlc = rlc) (hv : x.wv = m)
    (hd : x.wd = if rlc then 0#16 else m) (hpsn : x.psn = psn) (slot : Nat) (data : List Byte) :
    ((s.sliceWrite slot k ln rlc m data psn).slice k).lines = [x] := by
  cases rlc with
  | false => exact State.lines_writeHome_single hp hx (hk.1 rfl) hln hrlc hv hd hpsn slot data
  | true =>
    have hu : s.SameHome (s.dropOwners k ln m) := (State.SameHome.inv s).dropOwners (.refl s)
    have hlu : s.SameLines (s.dropOwners k ln m) := (State.SameLines.refl s).dropOwners
    have hne : k ≠ s.homeKey (ln * 64) := fun e => Bool.noConfusion (hk.2 e)
    exact State.lines_writeHome_other (by rw [hu.protectedWords, hp]) (by rw [hlu, hx]) (by rw [hu.homeKey]; exact hne) slot data

end

/-- A word at home after words were written to a slice: they go home from an RLC slice too. -/
theorem State.OwnLine.homeBytes_sliceWrite {s : State} {ln i : Nat} (h : s.OwnLine ln) (hp : s.protectedWords ln = 0#16) {data : List Byte}
    (hd : data.length = 64) (hi : i < 16) {slot k : Nat} {rlc : Bool} {m : BitVec 16} {psn : Bool} :
    (s.sliceWrite slot k ln rlc m data psn).homeBytes slot (ln * 64 + 4 * i) 4 =
      if bitAt m i = true then wordOf data i else s.homeBytes slot (ln * 64 + 4 * i) 4 := by
  unfold State.sliceWrite
  split
  · have hu : s.SameHome (s.dropOwners k ln m) := (State.SameHome.inv s).dropOwners (.refl s)
    have ho : (s.dropOwners k ln m).OwnLine ln := ⟨h.wf.dropOwners, h.hbm, by rw [hu.dev]; exact h.dev⟩
    rw [ho.homeBytes_writeHome (by rw [hu.protectedWords, hp]) hd hi, hu.homeBytes]
  · exact h.homeBytes_writeHome hp hd hi

/-! ### Who hears of a write (R137) -/

/-- No step of another agent is added and no request queued, while no agent of the queues watches. -/
theorem State.quietAgents_inv (s : State) : Inv.Home fun t => t.m.agentWatches = [] ∧ t.inbox = s.inbox ∧ t.m.channels = s.m.channels where
  slices h := h
  poison h := h
  under h := h
  l1 h := h
  cc h := h
  fabric h := h
  agents h := by rw [State.fireAgents_none h.1]; exact h
  wake h := by rw [State.updHartN_m, State.updHartN_inbox]; exact h
  store h := h

/-! ### The line of an LA (R72) -/

section
variable (s : State) {la : Nat} (hbm : isHbm la = true)
include hbm

theorem lt_of_isHbm : la < 2 ^ 39 := of_decide_eq_true hbm
theorem State.laOf_ownPa : laOf (s.ownPa la) = la := by
  have := lt_of_isHbm hbm
  unfold laOf State.ownPa
  omega
theorem State.devOf_ownPa : devOf (s.ownPa la) = s.fab.dev.toNat := by
  have := lt_of_isHbm hbm
  unfold devOf State.ownPa
  omega

end

theorem State.line_ownPa (s : State) (la : Nat) : s.ownPa la / 64 * 64 / 64 = s.ownPa la / 64 := Nat.mul_div_cancel _ (by decide)

section
variable {s : State} {la : Nat} (hbm : isHbm la = true)
include hbm

theorem State.dieOf_ownLine : dieOf (laOf (s.ownPa la / 64 * 64)) = dieOf la := by rw [dieOf_line (s.line_ownPa la), s.laOf_ownPa hbm]
theorem State.sliceOf_ownLine : sliceOf (laOf (s.ownPa la / 64 * 64)) = sliceOf la := by
  rw [sliceOf, channelOf_line (s.line_ownPa la), s.laOf_ownPa hbm, sliceOf]
theorem State.devOf_ownLine : devOf (s.ownPa la / 64 * 64) = s.fab.dev.toNat := by rw [devOf_line (s.line_ownPa la), s.devOf_ownPa hbm]
theorem State.ownLine_ownPa (hwf : s.Canonical) : s.OwnLine (s.ownPa la / 64) :=
  ⟨hwf, by rw [isHbm_line (s.line_ownPa la), s.laOf_ownPa hbm]; exact hbm, State.devOf_ownLine hbm⟩

/-- The home slice of a line of this device. -/
theorem State.homeKey_ownPa : s.homeKey (s.ownPa la / 64 * 64) = dieOf la * 16 + sliceOf la := by
  rw [State.homeKey, if_pos (State.devOf_ownLine hbm), State.dieOf_ownLine hbm, State.sliceOf_ownLine hbm]

theorem State.rlcKey_ownPa {die : Nat} (h : dieOf la ≠ die) : s.rlcKey die (s.ownPa la / 64 * 64) = some (die * 16 + sliceOf la) := by
  rw [State.rlcKey, if_pos ⟨State.devOf_ownLine hbm, by rw [State.dieOf_ownLine hbm]; exact h⟩, State.sliceOf_ownLine hbm]

end

/-! ### What a read that the slice serves finds (R101, R126) -/

theorem sliceFind_some {ln : Nat} {rlc : Bool} {l : List SliceLine} {x : SliceLine} (h : sliceFind ln rlc l = some x) : x.line = ln ∧ x.rlc = rlc := by
  have := List.find?_some h
  simpa using this

theorem sliceFind_slicePut (y : SliceLine) (l : List SliceLine) : sliceFind y.line y.rlc (slicePut y l) = some y := by
  simp [sliceFind, slicePut]

/-- Nothing differs but the slices and what happens next. -/
def State.Meets (s t : State) : Prop := ∃ v l, t = { s with m := { s.m with slices := v }, inbox := l }

theorem State.Meets.retryWaiting {s t : State} (h : s.Meets t) (k : Nat) : s.Meets (t.retryWaiting k) := by
  obtain ⟨v, l, rfl⟩ := h
  exact ⟨_, _, rfl⟩

theorem State.Meets.foldl {s t : State} (h : s.Meets t) (l : List Nat) : s.Meets (l.foldl (·.retryWaiting) t) := by
  induction l generalizing t with
  | nil => exact h
  | cons k l ih => exact ih (h.retryWaiting k)

theorem State.Meets.endRlcFill (s : State) (slot ln : Nat) : s.Meets (s.endRlcFill slot ln) := by
  unfold State.endRlcFill
  split
  exact State.Meets.foldl ⟨_, s.inbox, rfl⟩ _

theorem State.regs_retryWaiting (s : State) (j k : Nat) : ((s.retryWaiting j).slice k).regs = (s.slice k).regs := by
  unfold State.retryWaiting
  by_cases h : k = j
  · subst h
    rw [State.slice_after, State.slice_setSlice_same]
  · rw [State.slice_after, State.slice_setSlice_other _ _ _ _ h]

theorem State.regs_foldl_retryWaiting (l : List Nat) (s : State) (k : Nat) : ((l.foldl (·.retryWaiting) s).slice k).regs = (s.slice k).regs := by
  induction l generalizing s with
  | nil => rfl
  | cons j l ih => rw [List.foldl_cons, ih, State.regs_retryWaiting]

theorem State.regs_endRlcFill (s : State) (slot ln k : Nat) : ((s.endRlcFill slot ln).slice k).regs = (s.slice k).regs := by
  unfold State.endRlcFill
  split
  next d p _ =>
  rw [State.regs_foldl_retryWaiting]
  have hmap := SMap.get_map (β := SliceState) SliceState.reset
    (fun n (t : SliceState) => { t with
      lines := t.lines.map fun x => if (decide (x.line = ln) && x.fill && x.rlc) = true then x.rlcFilled (s.rlcKeep (n / 16) ln) d p else x })
    s.m.slices k .reset rfl
  exact (congrArg SliceState.regs hmap :)

/-- A home line in front of its slice stays there as RLC lines are filled. -/
theorem State.sliceFind_endRlcFill {s : State} {k : Nat} {y : SliceLine} {l : List SliceLine} (hk : (s.slice k).lines = slicePut y l) (hr : y.rlc = false)
    (slot ln : Nat) : sliceFind y.line false ((s.endRlcFill slot ln).slice k).lines = some y := by
  obtain ⟨keep, d, p, h⟩ := s.lines_endRlcFill slot ln k
  rw [h, hk, slicePut, List.map_cons, if_neg (by simp [hr])]
  simp [sliceFind, hr]

section
variable {s t : State} (h : s.Meets t) (hr : ∀ k, (t.slice k).regs = (s.slice k).regs)
include h hr

theorem State.Meets.homeWord (slot ln i : Nat) : t.homeWord slot ln i = s.homeWord slot ln i := by
  have hown : ∀ k, (t.slice k).ownerOf ln i = (s.slice k).ownerOf ln i := fun k => by rw [SliceState.ownerOf, hr, ← SliceState.ownerOf]
  obtain ⟨v, l, rfl⟩ := h
  have hs : s.SameHome { s with m := { s.m with slices := v }, inbox := l } := (State.SameHome.refl s).of_m
  rw [State.homeWord, State.homeWord, hs.homeBytes, hs.homeKey, hown]
  rfl

/-- The RLC slice has its line of the address in another form, with the same words. -/
theorem State.Meets.pointWord {die k ln : Nat} {x y : SliceLine} (hk : s.rlcKey die (ln * 64) = some k)
    (hx : sliceFind ln true (s.slice k).lines = some x) (hy : sliceFind ln true (t.slice k).lines = some y) (hwv : y.wv = x.wv) (hdata : y.data = x.data)
    (hpsn : y.psn = x.psn) (slot i : Nat) : t.pointWord slot die ln i = s.pointWord slot die ln i := by
  have hown : ∀ k, (t.slice k).ownerOf ln i = (s.slice k).ownerOf ln i := fun k => by rw [SliceState.ownerOf, hr, ← SliceState.ownerOf]
  have hw := h.homeWord hr slot ln i
  obtain ⟨v, l, rfl⟩ := h
  have hkt : State.rlcKey { s with m := { s.m with slices := v }, inbox := l } die (ln * 64) = some k := hk
  rw [State.pointWord, State.pointWord, hk, hkt]
  dsimp only
  rw [hown, hx, hy]
  dsimp only
  rw [hwv, hdata, hpsn, hw]
  rfl

end

end Sys2Proof.Machine
end

section
/-! PROOF. O47: requests at a slice, the end of a pin, and requests of lines at home (spec/03 R72, R73, R76, R77, R79, R97, R101). -/
namespace Sys2Proof.Machine
set_option Elab.async false

/-! ### The steps at a slice that a message names -/

/-- A step on the slice of a die that a message names, at an LA. -/
theorem ends_msgSlice {i : Instr} {s : State} {g : State → Nat → Nat → State} {P : State → Prop} (he : exec i s = finishEvent (msgSlice g) s)
    (hbm : isHbm s.msg.addr.toNat = true) (hs : sliceOf s.msg.addr.toNat = s.msg.slice.toNat)
    (h : P (g s (s.msg.die.toNat * 16 + s.msg.slice.toNat) s.msg.addr.toNat)) : Ends i s P := by
  refine ⟨_, ?_, h⟩
  rw [he]
  refine finishEvent_ok ?_
  show (if isHbm s.msg.addr.toNat = true ∧ sliceOf s.msg.addr.toNat = s.msg.slice.toNat then _ else _ : M Unit) s = _
  rw [if_pos ⟨hbm, hs⟩]
  rfl

theorem msgSlice_other {i : Instr} {s : State} {g : State → Nat → Nat → State} (he : exec i s = finishEvent (msgSlice g) s)
    (h : isHbm s.msg.addr.toNat = false ∨ sliceOf s.msg.addr.toNat ≠ s.msg.slice.toNat) : exec i s = .next s := by
  rw [he]
  refine finishEvent_ok ?_
  show (if isHbm s.msg.addr.toNat = true ∧ sliceOf s.msg.addr.toNat = s.msg.slice.toNat then _ else _ : M Unit) s = _
  rw [if_neg]
  · rfl
  · rintro ⟨hbm, hs⟩
    rcases h with h | h
    · rw [h] at hbm
      exact Bool.false_ne_true hbm
    · exact h hs

/-- A request of a line of HBM at a slice of its die or of another die of the package. -/
structure State.AtSlice (s : State) (la k : Nat) (rlc : Bool) : Prop where
  la_eq : s.msg.addr.toNat = la
  key : s.msg.die.toNat * 16 + s.msg.slice.toNat = k
  rlc_eq : decide (dieOf la ≠ s.msg.die.toNat) = rlc
  hbm : isHbm la = true
  slice : sliceOf la = s.msg.slice.toNat

namespace State.AtSlice
section
variable {s : State} {la k : Nat} {rlc : Bool} (h : s.AtSlice la k rlc)
include h

theorem die : k / 16 = s.msg.die.toNat := by
  have := s.msg.slice.isLt
  rw [← h.key]
  omega

theorem home : rlc = false ↔ k = s.homeKey (s.ownPa la / 64 * 64) := by
  rw [State.homeKey_ownPa h.hbm, ← h.key, ← h.rlc_eq, h.slice, decide_eq_false_iff_not, not_not]
  omega

theorem rlcKey (hr : rlc = true) : s.rlcKey s.msg.die.toNat (s.ownPa la / 64 * 64) = some k := by
  rw [State.rlcKey_ownPa h.hbm (of_decide_eq_true (h.rlc_eq.trans hr)), h.slice, h.key]

theorem ends {P : State → Prop} (hP : P ((s.sliceError s.msg.key k (s.ownPa la / 64) rlc s.msg.kind.toNat (s.msg.value.setWidth 16)).sliceServe k la rlc s.msg)) :
    Ends .sliceRequest s P := by
  have hdie := h.die
  obtain ⟨hla, hk, hr, hbm, hs⟩ := h
  subst hla hk
  refine ends_msgSlice rfl hbm hs ?_
  rw [hdie, hr]
  exact hP

/-- One that meets no error is served. -/
theorem ends_served {P : State → Prop} (hk : s.msg.kind = 0#8) (hP : P (s.sliceServe k la rlc s.msg)) : Ends .sliceRequest s P := by
  refine h.ends ?_
  rw [hk]
  exact hP

theorem ends_corrected (hk : s.msg.kind = 1#8) :
    Ends .sliceRequest s fun t => t.m.arrayCorr.get 0 s.msg.die.toNat = s.m.arrayCorr.get 0 s.msg.die.toNat + 1 := by
  refine h.ends ?_
  rw [hk, ← h.die]
  have hsame := (State.SameArrays.inv (s.countArray (k / 16) false)).sliceServe ⟨rfl, fun _ => rfl⟩ (k := k) (la := la) (rlc := rlc) (q := s.msg)
  exact (congrArg (SMap.get 0 · (k / 16)) hsame.1).trans (SMap.get_set_same ..)

end
end State.AtSlice

/-! An empty slice -/

theorem Msg.met_again {q : Msg} (hk : q.kind = 0#8) : { q with kind := 0#8, flag2 := q.flag2 && !false } = q := by
  rw [← hk, Bool.not_false, Bool.and_true]

theorem State.lines_sliceAdd {s : State} {k : Nat} (hl : (s.slice k).lines = []) (x : SliceLine) : ((s.sliceAdd k x).slice k).lines = [x] := by
  rw [State.sliceAdd, State.slice_setSlice_same, hl]

theorem State.lines_waitAt (s : State) (k : Nat) (q : Msg) (p : Bool) : ((s.waitAt k q p).slice k).lines = (s.slice k).lines := by
  rw [State.waitAt, State.slice_setSlice_same]
theorem State.waiting_waitAt (s : State) (k : Nat) (q : Msg) (p : Bool) :
    ((s.waitAt k q p).slice k).waiting = (s.slice k).waiting ++ [{ q with kind := 0#8, flag2 := q.flag2 && !p }] := by
  rw [State.waitAt, State.slice_setSlice_same]
theorem State.slice_fetchFor (s : State) (slot la : Nat) (rlc : Bool) (k : Nat) : (s.fetchFor slot la rlc).slice k = s.slice k := by
  unfold State.fetchFor
  split <;> rfl

/-- The line that a write allocates, whose words are valid and, at home, dirty. -/
def State.writtenLine (s : State) (la : Nat) (rlc : Bool) : SliceLine :=
  { line := s.ownPa la / 64, rlc, wv := s.msg.words16, wd := if rlc then 0#16 else s.msg.words16, psn := s.msg.flag3, pin := if s.msg.flag2 then 1 else 0,
    fill := false, stale := false, data := (s.msg.bytes ++ List.replicate 64 0#8).take 64 }

theorem State.newLine_write {s : State} (hf : s.msg.flag = true) (la : Nat) (rlc : Bool) : s.newLine la rlc s.msg = s.writtenLine la rlc := by
  unfold State.newLine
  rw [hf]
  cases rlc <;> rfl

section
variable {s : State} {la k : Nat} {rlc : Bool} (h : s.AtSlice la k rlc) (hk : s.msg.kind = 0#8) (hl : (s.slice k).lines = [])
include h hk hl

theorem State.AtSlice.ends_write (hf : s.msg.flag = true) (ha : s.m.agentWatches = []) (hwf : s.Canonical)
    (hp : s.protectedWords (s.ownPa la / 64) = 0#16) : Ends .sliceRequest s fun t => (t.slice k).lines = [s.writtenLine la rlc] ∧
      (∀ i, i < 16 → bitAt s.msg.words16 i = true → t.homeBytes s.msg.key (s.ownPa la / 64 * 64 + 4 * i) 4 =
        wordOf ((s.msg.bytes ++ List.replicate 64 0#8).take 64) i) ∧ t.inbox = s.inbox ∧ t.m.channels = s.m.channels := by
  refine h.ends_served hk ?_
  rw [State.sliceServe_empty hl, if_pos hf, State.newLine_write hf]
  have hlen : ((s.msg.bytes ++ List.replicate 64 0#8).take 64).length = 64 := by simp
  have hlines := State.lines_sliceAdd hl (s.writtenLine la rlc)
  have hsame : s.SameHome (s.sliceAdd k (s.writtenLine la rlc)) := (State.SameHome.inv s).sliceAdd (.refl s)
  have hown : (s.sliceAdd k (s.writtenLine la rlc)).OwnLine (s.ownPa la / 64) := State.ownLine_ownPa h.hbm hwf
  have hq : s.m.agentWatches = [] ∧ s.inbox = s.inbox ∧ s.m.channels = s.m.channels := ⟨ha, rfl, rfl⟩
  obtain ⟨-, hinbox, hchan⟩ := (State.quietAgents_inv s).sliceWrite ((State.quietAgents_inv s).sliceAdd hq (key := k) (l := s.writtenLine la rlc))
    (slot := s.msg.key) (k := k) (ln := s.ownPa la / 64) (rlc := rlc) (m := s.msg.words16) (data := (s.msg.bytes ++ List.replicate 64 0#8).take 64)
    (psn := s.msg.flag3)
  have hp' := (hsame.protectedWords (s.ownPa la / 64)).trans hp
  refine ⟨State.lines_sliceWrite hp' hlines (by rw [hsame.homeKey]; exact h.home) rfl rfl rfl rfl rfl .., ?_, hinbox, hchan⟩
  intro i hi hm
  rw [hown.homeBytes_sliceWrite hp' hlen hi, if_pos hm]

/-- A read at an empty slice fetches the line and waits for it. -/
theorem State.AtSlice.ends_read (hf : s.msg.flag = false) : Ends .sliceRequest s fun t =>
    (∃ x, (t.slice k).lines = [x] ∧ x.line = s.ownPa la / 64 ∧ x.rlc = rlc ∧ x.wv = 0#16 ∧ x.fill = true) ∧
      (t.slice k).waiting = (s.slice k).waiting ++ [{ s.msg with flag2 := false }] ∧
      (rlc = false → (t.channel (dieOf la * 32 + channelOf la)).queue = (s.channel (dieOf la * 32 + channelOf la)).queue ++
        [{ la := la / 64 * 64, write := false, slot := s.msg.key, aged := false,
           late := s.m.chanKeys.any fun y => decide (y.1 = (dieOf la * 32 + channelOf la) * 16 + s.msg.key) }] ∧ t.inbox = s.inbox) ∧
      (rlc = true → t.m.channels = s.m.channels ∧ t.inbox = s.inbox ++ [(.sliceRequest,
        { die := BitVec.ofNat 3 (dieOf la), slice := s.msg.slice, slot := s.msg.slot, addr := BitVec.ofNat 64 (la / 64 * 64), mask := 0xFFFF#64 })]) := by
  refine h.ends_served hk ?_
  rw [State.sliceServe_empty hl, if_neg (by rw [hf]; exact Bool.false_ne_true)]
  have hwait : ∀ q : Msg, q.kind = 0#8 → ({ q with kind := 0#8, flag2 := q.flag2 && !true } : Msg) = { q with flag2 := false } := fun q e => by
    rw [← e, Bool.not_true, Bool.and_false]
  refine ⟨⟨s.newLine la rlc s.msg, ?_, rfl, rfl, ?_, ?_⟩, ?_, ?_, ?_⟩
  · rw [State.lines_waitAt, State.slice_fetchFor, State.lines_sliceAdd hl]
  · unfold State.newLine
    rw [hf]
    rfl
  · unfold State.newLine
    rw [hf]
    rfl
  · rw [State.waiting_waitAt, State.slice_fetchFor, hwait _ hk, State.sliceAdd, State.slice_setSlice_same]
  · rintro rfl
    exact ⟨congrArg Channel.queue (State.channel_setChannel_same ..), rfl⟩
  · rintro rfl
    refine ⟨rfl, ?_⟩
    have hslice : BitVec.ofNat 4 (sliceOf la) = s.msg.slice := by rw [h.slice, BitVec.ofNat_toNat, BitVec.setWidth_eq]
    have hslot : BitVec.ofNat 3 (s.msg.key - 1) = s.msg.slot := by
      rw [Msg.key, keySlot, Nat.add_sub_cancel, BitVec.ofNat_toNat, BitVec.setWidth_eq]
    rw [← hslice]
    conv_rhs => rw [← hslot]
    rfl

end

/-! A line that is there -/

theorem SliceLine.read_served {x : SliceLine} (hfill : x.fill = false) (pin : Bool) :
    x.read pin false = { x with pin := min 8 (x.pin + if pin then 1 else 0) } := by
  rw [SliceLine.read, ← hfill]

theorem State.slice_putAt (s : State) (k : Nat) (y : SliceLine) :
    (s.putAt k y).slice k = { s.slice k with lines := slicePut y (s.slice k).lines } := State.slice_setSlice_same ..

theorem State.regs_putAt (s : State) (k : Nat) (y : SliceLine) (n : Nat) : ((s.putAt k y).slice n).regs = (s.slice n).regs := by
  by_cases hn : n = k
  · subst hn
    rw [State.slice_putAt]
  · rw [State.putAt, State.slice_setSlice_other _ _ _ _ hn]

/-- The state in which a slice answers a read from its line: the requests that waited for a home line have been met. -/
def State.served (s : State) (k la : Nat) (rlc : Bool) (y : SliceLine) (slot : Nat) : State :=
  if rlc then s.putAt k y else (s.putAt k y).endRlcFill slot (s.ownPa la / 64)

section
variable (s : State) (k la : Nat) (rlc : Bool) (y : SliceLine) (slot : Nat)

theorem State.meets_putAt : s.Meets (s.putAt k y) := ⟨_, s.inbox, rfl⟩

theorem State.meets_served : s.Meets (s.served k la rlc y slot) := by
  unfold State.served
  split
  · exact s.meets_putAt k y
  · obtain ⟨v, l, hv⟩ := s.meets_putAt k y
    obtain ⟨v', l', hv'⟩ := State.Meets.endRlcFill (s.putAt k y) slot (s.ownPa la / 64)
    exact ⟨v', l', by rw [hv', hv]⟩

theorem State.regs_served (n : Nat) : ((s.served k la rlc y slot).slice n).regs = (s.slice n).regs := by
  unfold State.served
  split
  · exact s.regs_putAt k y n
  · rw [State.regs_endRlcFill, State.regs_putAt]

theorem State.channels_served : (s.served k la rlc y slot).m.channels = s.m.channels := by
  obtain ⟨v, l, h⟩ := s.meets_served k la rlc y slot
  rw [h]

/-- The line stands in the slice as it was put there. -/
theorem State.sliceFind_served (hln : y.line = s.ownPa la / 64) (hr : y.rlc = rlc) :
    sliceFind (s.ownPa la / 64) rlc ((s.served k la rlc y slot).slice k).lines = some y := by
  subst hr
  rw [← hln, State.served]
  cases hy : y.rlc with
  | true =>
    rw [if_pos rfl, State.slice_putAt]
    exact hy ▸ sliceFind_slicePut y _
  | false =>
    rw [if_neg Bool.false_ne_true]
    exact State.sliceFind_endRlcFill (congrArg SliceState.lines (s.slice_putAt k y)) hy ..

end

section
variable {s : State} {la k : Nat} {rlc : Bool} {x : SliceLine} (h : s.AtSlice la k rlc) (hk : s.msg.kind = 0#8)
  (hx : sliceFind (s.ownPa la / 64) rlc (s.slice k).lines = some x)
include h hk hx

/-- A request that meets the line's fill, or a ninth pin of the set, waits. -/
theorem State.AtSlice.ends_waits (hw : x.fill = true ∨ s.msg.flag2 = true ∧ x.pin = 0 ∧ 8 ≤ (s.slice k).pinned (s.ownPa la / 64)) :
    Ends .sliceRequest s fun t => t = s.setSlice k { s.slice k with waiting := (s.slice k).waiting ++ [s.msg] } := by
  refine h.ends_served hk ?_
  rw [State.sliceServe_waits hx hw, State.waitAt, Msg.met_again hk]

variable (hf : s.msg.flag = false) (hfill : x.fill = false)
include hf hfill

/-- A read that finds words missing fetches the line and waits. -/
theorem State.AtSlice.ends_missing (hf2 : s.msg.flag2 = false) (hm : s.msg.words16 &&& ~~~x.wv ≠ 0#16) : Ends .sliceRequest s fun t =>
    sliceFind (s.ownPa la / 64) rlc (t.slice k).lines = some { x with pin := min 8 x.pin, fill := true } ∧
      (t.slice k).waiting = (s.slice k).waiting ++ [s.msg] ∧ (rlc = false → t.inbox = s.inbox) ∧ (rlc = true → t.m.channels = s.m.channels) := by
  refine h.ends_served hk ?_
  rw [State.sliceServe_lacks hx hf hfill (.inl hf2) hm, hf2]
  obtain ⟨hln, hr⟩ := sliceFind_some hx
  refine ⟨?_, ?_, ?_, ?_⟩
  · rw [State.lines_waitAt, State.slice_fetchFor, State.slice_putAt, ← hln, ← hr]
    exact sliceFind_slicePut (x.read false true) _
  · have hq : ({ s.msg with kind := 0#8, flag2 := s.msg.flag2 && !true } : Msg) = s.msg := by
      rw [hf2, ← hk, Bool.false_and, ← hf2]
    rw [State.waiting_waitAt, State.slice_fetchFor, State.slice_putAt, hq]
  · rintro rfl
    rfl
  · rintro rfl
    rfl

variable (hfull : x.wv = 0xFFFF#16)
include hfull

theorem State.AtSlice.ends_hit {P : State → Prop} (hpin : s.msg.flag2 = false ∨ x.pin ≠ 0 ∨ (s.slice k).pinned (s.ownPa la / 64) < 8)
    (hP : ∀ v, v = s.served k la rlc (x.read s.msg.flag2 false) s.msg.key →
      P (v.reply
        (gatherWords s.msg.words16 fun i =>
          if rlc then v.pointWord s.msg.key s.msg.die.toNat (s.ownPa la / 64) i else v.homeWord s.msg.key (s.ownPa la / 64) i).1
        (gatherWords s.msg.words16 fun i =>
          if rlc then v.pointWord s.msg.key s.msg.die.toNat (s.ownPa la / 64) i else v.homeWord s.msg.key (s.ownPa la / 64) i).2)) :
    Ends .sliceRequest s P := by
  refine h.ends_served hk ?_
  have hl : s.msg.words16 &&& ~~~x.wv = 0#16 := by
    rw [hfull, show ~~~0xFFFF#16 = 0#16 by decide, BitVec.and_zero]
  rw [State.sliceServe_hit hx hf hfill hpin hl, h.die]
  exact hP _ rfl

/-- An engine's read pins the line once more. -/
theorem State.AtSlice.ends_pinned (hf2 : s.msg.flag2 = true) (hpin : x.pin ≠ 0 ∨ (s.slice k).pinned (s.ownPa la / 64) < 8) :
    Ends .sliceRequest s fun t => sliceFind (s.ownPa la / 64) rlc (t.slice k).lines = some { x with pin := min 8 (x.pin + 1) } := by
  obtain ⟨hln, hr⟩ := sliceFind_some hx
  refine h.ends_hit hk hx hf hfill hfull (.inr hpin) fun v hv => ?_
  have hread : x.read s.msg.flag2 false = { x with pin := min 8 (x.pin + 1) } := by rw [SliceLine.read_served hfill, hf2]; rfl
  rw [hread] at hv
  rw [hv]
  exact s.sliceFind_served k la rlc _ _ hln hr

/-- A read is answered with the words as they stand at the point. -/
theorem State.AtSlice.ends_answered (hf2 : s.msg.flag2 = false) {word : Nat → List Byte × Bool}
    (hword : ∀ i, word i = if rlc then s.pointWord s.msg.key s.msg.die.toNat (s.ownPa la / 64) i else s.homeWord s.msg.key (s.ownPa la / 64) i) :
    Ends .sliceRequest s fun t => t.m.channels = s.m.channels ∧ (rlc = true → t.inbox = s.inbox) ∧
      sliceFind (s.ownPa la / 64) rlc (t.slice k).lines = some { x with pin := min 8 x.pin } ∧ t.fab.answer.refused = false ∧
      ((∀ i, i < 16 → (word i).1.length = 4) → ∀ i, i < 16 → bitAt s.msg.words16 i = true → wordOf t.fab.answer.bytes i = (word i).1) := by
  obtain ⟨hln, hr⟩ := sliceFind_some hx
  refine h.ends_hit hk hx hf hfill hfull (.inl hf2) fun v hv => ?_
  have hread : x.read s.msg.flag2 false = { x with pin := min 8 x.pin } := by rw [SliceLine.read_served hfill, hf2]; rfl
  rw [hread] at hv
  have hfind : sliceFind (s.ownPa la / 64) rlc (v.slice k).lines = some { x with pin := min 8 x.pin } := by
    rw [hv]
    exact s.sliceFind_served k la rlc _ _ hln hr
  have hmeets : s.Meets v := hv ▸ s.meets_served ..
  have hregs : ∀ n, (v.slice n).regs = (s.slice n).regs := fun n => by rw [hv, State.regs_served]
  have hsame : ∀ i, (if rlc then v.pointWord s.msg.key s.msg.die.toNat (s.ownPa la / 64) i else v.homeWord s.msg.key (s.ownPa la / 64) i) = word i :=
    fun i => by
      rw [hword]
      cases hrlc : rlc with
      | false =>
        rw [if_neg Bool.false_ne_true, if_neg Bool.false_ne_true]
        exact hmeets.homeWord hregs ..
      | true =>
        rw [if_pos rfl, if_pos rfl]
        exact hmeets.pointWord (x := x) (y := { x with pin := min 8 x.pin }) hregs (h.rlcKey hrlc) (by rw [← hrlc]; exact hx) (by rw [← hrlc]; exact hfind)
          rfl rfl rfl ..
  have hinbox : rlc = true → v.inbox = s.inbox := by
    rintro rfl
    rw [hv]
    rfl
  have hchan : v.m.channels = s.m.channels := by rw [hv, State.channels_served]
  clear hv
  rw [show (fun i => if rlc then v.pointWord s.msg.key s.msg.die.toNat (s.ownPa la / 64) i else v.homeWord s.msg.key (s.ownPa la / 64) i) = word from
    funext hsame]
  generalize hg : gatherWords s.msg.words16 word = g
  refine ⟨hchan, hinbox, hfind, rfl, fun hlen i hi hm => ?_⟩
  show wordOf g.1 i = (word i).1
  rw [← hg, wordOf_gatherWords (fun j hj _ => hlen j hj) hi, if_pos hm]

end

/-! The end of a pin, and a request of a line at home -/

theorem ends_slicePinRelease {s : State} {la k : Nat} (hla : s.msg.addr.toNat = la) (hk : s.msg.die.toNat * 16 + s.msg.slice.toNat = k)
    (hbm : isHbm la = true) (hs : sliceOf la = s.msg.slice.toNat) : Ends .slicePinRelease s fun t =>
      (t.slice k).waiting = [] ∧
      (t.slice k).lines = (s.slice k).lines.map (fun x => if x.line = s.ownPa la / 64 then { x with pin := x.pin - 1 } else x) ∧
      t.inbox = s.inbox ++ (s.slice k).waiting.map (fun w => (.sliceRequest, w)) ∧ t.m.mem = s.m.mem := by
  subst hla hk
  refine ends_msgSlice rfl hbm hs ?_
  rw [State.unpin]
  refine ⟨?_, ?_, ?_, rfl⟩
  · rw [State.retryWaiting, State.slice_after, State.slice_setSlice_same]
  · rw [State.lines_retryWaiting, State.slice_setSlice_same]
  · rw [State.retryWaiting, State.slice_setSlice_same]
    rfl

theorem gatherWords_clean {m : BitVec 16} {f : Nat → List Byte × Bool} (hf : ∀ i, (f i).2 = false) : (gatherWords m f).2 = false := by
  rw [gatherWords]
  dsimp only
  rw [List.any_map, List.any_eq_false]
  intro i _
  show ¬ (if bitAt m i = true then f i else _).2 = true
  split
  · rw [hf]
    exact Bool.false_ne_true
  · exact Bool.false_ne_true

/-- The words asked for of a line that is quiet at home. -/
theorem QuietHome.ends_lineRequest {s : State} {slot ln : Nat} (q : QuietHome s slot (ln * 64)) (hslot : s.msg.key = slot)
    (hln : s.msg.addr.toNat / 64 = ln) (hpa : s.msg.addr.toNat < 2 ^ 52) (hk : s.rlcKey s.msg.die.toNat (ln * 64) = none)
    (hw : s.homeWaits slot s.msg.die.toNat (ln * 64) = false) : Ends .lineRequest s fun t =>
      t.fab.answer.refused = false ∧ t.fab.answer.poisoned = false ∧ t.fab.answer.bytes.length = 64 ∧
      ∀ i, i < 16 → wordOf t.fab.answer.bytes i =
        if bitAt s.msg.words16 i = true then s.homeBytes slot (ln * 64 + 4 * i) 4 else List.replicate 4 0#8 := by
  subst hslot hln
  have hbm : isHbm (laOf s.msg.addr.toNat) = true := by
    rw [isHbm_line (show s.msg.addr.toNat / 64 = s.msg.addr.toNat / 64 * 64 / 64 by omega)]
    exact q.ownLine.hbm
  refine ends_homeLine rfl hpa hbm hw ?_
  have hword : (fun i => s.pointWord s.msg.key s.msg.die.toNat (s.msg.addr.toNat / 64) i) =
      fun i => (s.homeBytes s.msg.key (s.msg.addr.toNat / 64 * 64 + 4 * i) 4, false) := funext fun i => by
    rw [State.pointWord_of_home hk, q.homeWord]
  rw [hword]
  have hlen : ∀ i, i < 16 → bitAt s.msg.words16 i = true → (s.homeBytes s.msg.key (s.msg.addr.toNat / 64 * 64 + 4 * i) 4).length = 4 :=
    fun i _ _ => homeBytes_length ..
  exact ⟨rfl, gatherWords_clean fun _ => rfl, length_gatherWords hlen, fun i hi => wordOf_gatherWords hlen hi⟩

/-! ### The obligation -/

/-- Settles O47: a request is taken through the cases in which a slice can meet it, each an equation of `State.sliceServe`. -/
theorem slicesServeTheirRequests : Obligations.SlicesServeTheirRequests := by
  unfold Obligations.SlicesServeTheirRequests
  intro s la k rlc ln slot m data word
  refine ⟨fun h => ⟨msgSlice_other rfl h, msgSlice_other rfl h⟩, fun hbm hs => ?_, fun l hl hpa q hk hw => ?_⟩
  · have h : s.AtSlice la k rlc := ⟨rfl, rfl, rfl, hbm, hs⟩
    refine ⟨h.ends_corrected, fun hk hl => ⟨fun hf ha hwf hp => h.ends_write hk hl hf ha hwf hp, fun hf => h.ends_read hk hl hf⟩,
      fun x hk hx hf hfull => ⟨fun hfill => h.ends_waits hk hx (.inl hfill), fun hf2 hfill => ?_, fun hf2 hpin hroom => ?_, fun hf2 hfill hpin => ?_⟩,
      fun x hk hx hf hf2 hfill hm => h.ends_missing hk hx hf hfill hf2 hm, ends_slicePinRelease rfl rfl hbm hs⟩
    · exact h.ends_answered hk hx hf hfill hfull hf2 fun _ => rfl
    · exact h.ends_waits hk hx (.inr ⟨hf2, hpin, hroom⟩)
    · exact h.ends_pinned hk hx hf hfill hfull hf2 hpin
  · subst hl
    exact q.ends_lineRequest rfl rfl hpa hk hw

end Sys2Proof.Machine
end

section
/-! SUPPORT. What a step that acts as another hart leaves (spec/09 R235, R237), ports, planes and links (spec/04 R107, R108), and requests that
are sent again. -/
namespace Sys2Proof.Machine
set_option Elab.async false

/-! ### Acting as another hart -/

/-- A part that changes as hart `h` nothing of the other harts changes hart `h` alone. -/
theorem State.hartsOnly_onHart {s : State} {h : Nat} {f : State → State} {g : Hart → Hart} (hcur : (f (s.switchTo h)).cur = h)
    (hothers : (f (s.switchTo h)).others = (s.switchTo h).others) (hg : (f (s.switchTo h)).hart = g (s.getHart h)) : HartsOnly s (s.onHart h f) h g := by
  intro n
  unfold State.onHart
  dsimp only
  rw [State.getHart_switchTo, State.getHart, hcur, hg]
  split
  · rfl
  · next hn => rw [hothers, ← State.getHart_switchTo s h n, State.getHart, State.switchTo_cur, if_neg hn]

@[simp] theorem State.m_onHart (s : State) (h : Nat) (f : State → State) : (s.onHart h f).m = (f (s.switchTo h)).m := by simp [State.onHart]
@[simp] theorem State.fab_onHart (s : State) (h : Nat) (f : State → State) : (s.onHart h f).fab = (f (s.switchTo h)).fab := by simp [State.onHart]

/-- A trap taken with its entry enabled changes the hart as `trapped` says, and nothing else. -/
theorem State.takeTrap_trapped {s : State} (h : s.hart.trap.trentry.getLsbD 0 = true) (c : BitVec 8) (a : Word) (qk : BitVec 2) (pc : Word) :
    s.takeTrap c a qk pc = { s with hart := trapped s.hart c a qk pc } := s.takeTrap_enabled c a qk pc h

/-- The trap of an element or a step of the vector queue's head. -/
theorem State.trapEntry_vector {s : State} {q : QEntry} {l : List QEntry} (hq : s.hart.vq = q :: l) (h : s.hart.trap.trentry.getLsbD 0 = true)
    (c : BitVec 8) (a : Word) : s.trapEntry c a 1#2 = { s with hart := trapped (s.hart.markFaulted q) c a 1#2 q.pc } := by
  rw [State.trapEntry, if_pos rfl, hq]
  exact State.takeTrap_trapped (s := s.updHart (·.markFaulted q)) h ..

/-! ### Steps on a port and on a link -/

section
variable {i : Instr} {s : State} {g : State → Nat → State} {P : State → Prop}

theorem ends_portStep (he : exec i s = finishEvent (portStep g) s) (hp : s.msg.unit.toNat < 16) (h : P (g s s.msg.unit.toNat)) : Ends i s P := by
  refine ⟨_, he.trans (finishEvent_ok ?_), h⟩
  rw [portStep, M.get_bind, if_pos hp]
  rfl

theorem portStep_outside (he : exec i s = finishEvent (portStep g) s) (hp : 16 ≤ s.msg.unit.toNat) : exec i s = .next s := by
  refine he.trans (finishEvent_ok ?_)
  rw [portStep, M.get_bind, if_neg (Nat.not_lt.2 hp)]
  rfl

theorem ends_linkStep (he : exec i s = finishEvent (linkStep g) s) (hk : s.msg.unit.toNat < 14) (h : P (g s s.msg.unit.toNat)) : Ends i s P := by
  refine ⟨_, he.trans (finishEvent_ok ?_), h⟩
  rw [linkStep, M.get_bind, if_pos hk]
  rfl

/-- A step whose outcome is one state ends there. -/
theorem exec_of_ends {t : State} (h : Ends i s (· = t)) : exec i s = .next t := by
  obtain ⟨_, he, rfl⟩ := h
  exact he

end

/-! ### Events -/

/-- An event changes what the dispatchers hold of events, and nothing else. -/
theorem State.postEvent_eq (s : State) (src : Nat) (kind : BitVec 8) (detail : Word) (ctxid : BitVec 16) (fofs : BitVec 8) (hart : BitVec 27) :
    ∃ d, s.postEvent src kind detail ctxid fofs hart = { s with disp := d } := by
  unfold State.postEvent
  dsimp only
  split <;> exact ⟨_, rfl⟩

theorem State.lastingEvent_eq (s : State) (src : Nat) : ∃ d, s.lastingEvent src = { s with disp := d, free := s.free + 2 } :=
  State.postEvent_eq { s with free := s.free + 2 } ..

/-! ### Requests that are sent again (R107) -/

theorem planeOf_mem {up : List Nat} (h : up ≠ []) (line : Nat) : planeOf up line ∈ up := by
  rw [planeOf, List.getD_eq_getElem _ _ (Nat.mod_lt _ (List.length_pos_iff.2 h))]
  exact List.getElem_mem _

section
variable (s : State)

theorem State.tags_resendRemotes : s.resendRemotes.fab.remotes.map (·.tag) = s.fab.remotes.map (·.tag) := by
  simp only [State.resendRemotes, State.updFab, List.map_map]
  refine List.map_congr_left fun r _ => ?_
  simp only [Function.comp_apply]
  split <;> rfl

/-- A request that was moved has the plane over which requests for its address go, where a plane is up. -/
theorem State.mem_resendRemotes {x : Remote} (hx : x ∈ s.resendRemotes.fab.remotes) :
    x ∈ s.fab.remotes ∨ s.planesTo (devOf x.pa) = [] ∨ x.plane ∈ s.planesTo (devOf x.pa) := by
  obtain ⟨r, hr, rfl⟩ := List.mem_map.1 hx
  split
  · refine .inr ?_
    by_cases hne : s.planesTo (devOf r.pa) = []
    · exact .inl hne
    · refine .inr ?_
      show (if (s.planesTo (devOf r.pa)).isEmpty then 16 else s.planeFor r.pa) ∈ s.planesTo (devOf r.pa)
      rw [if_neg (by simpa using hne)]
      exact planeOf_mem hne _
  · exact .inl hr

theorem State.request_mem_resendRemotes {x : Remote} (hx : x ∈ s.fab.remotes) (hheld : x.held = false) (hlost : x.plane ∉ s.planesTo (devOf x.pa))
    (hne : s.planesTo (devOf x.pa) ≠ []) :
    Packet.request (s.planeFor x.pa) (x.pa / 64) (s.ctx x.ctx.toNat).dtag x.tag ∈ s.resendRemotes.fab.sent := by
  refine List.mem_append_left _ (List.mem_reverse.2 (List.mem_map.2 ⟨x, List.mem_filter.2 ⟨hx, ?_⟩, rfl⟩))
  simp [hheld, hlost, hne]

end

/-! ### A port that goes down -/

/-- In a map in rising order of its numbers a number that was set has one entry. -/
theorem SMap.eq_of_mem_set {α : Type} {n : Nat} {v : α} {x : Nat × α} {m : SMap α} (hm : (m.map (·.1)).Pairwise (· < ·)) (hx : x ∈ SMap.set n v m)
    (hn : x.1 = n) : x = (n, v) := by
  induction m with
  | nil => exact List.mem_singleton.1 hx
  | cons y m ih =>
    obtain ⟨k, w⟩ := y
    obtain ⟨hk, hm⟩ := List.pairwise_cons.1 hm
    have hlt : x ∈ m → k < n := fun h => hn ▸ hk _ (List.mem_map_of_mem h)
    rw [SMap.set] at hx
    split at hx
    · next e =>
      rcases List.mem_cons.1 hx with h | h
      · exact h
      · have := hlt h
        omega
    · split at hx
      · rcases List.mem_cons.1 hx with h | h
        · exact h
        · rcases List.mem_cons.1 h with rfl | h
          · exact absurd hn (by assumption)
          · have := hlt h
            omega
      · rcases List.mem_cons.1 hx with rfl | h
        · exact absurd hn (by assumption)
        · exact ih hm h

/-- A port without its mode, its plane neither in use nor measured. -/
def State.portOut (s : State) (p : Nat) : State :=
  let x := s.fab.ports.get .reset p
  s.updFab fun f =>
    { f with ports := f.ports.set p { x with mode := 0#4, inuse := false, streak := 0, failed := x.failed || x.mode != 0#4 }
             clock := { f.clock with rtt := f.clock.rtt.filter fun c => decide (c.1 ≠ p) } }

/-- Nothing but events and a free value stands between a port that goes down and the requests that are sent again. -/
theorem State.portDown_eq (s : State) (p : Nat) : ∃ d n, s.portDown p = { (s.portOut p).resendRemotes with disp := d, free := n } := by
  unfold State.portDown
  dsimp only
  split
  · exact ⟨_, _, rfl⟩
  · obtain ⟨d, h⟩ := (s.portOut p).resendRemotes.lastingEvent_eq (8 + p / 8)
    exact ⟨d, _, h⟩

theorem State.not_mem_planesUp_portOut {s : State} {p : Nat} (h : (s.fab.ports.map (·.1)).Pairwise (· < ·)) : p ∉ (s.portOut p).planesUp := by
  intro hp
  obtain ⟨x, hx, hn⟩ := List.mem_map.1 hp
  obtain ⟨hx, huse⟩ := List.mem_filter.1 hx
  rw [SMap.eq_of_mem_set h hx hn] at huse
  exact Bool.false_ne_true huse

/-- The nearer of a measured plane and the best so far. -/
def nearerPlane (b : Option (Nat × BitVec 32)) (x : Nat × BitVec 32) : Option (Nat × BitVec 32) := match b with
  | some y => if x.2 < y.2 then some x else some y
  | none => some x

theorem bestPlane_eq (l : SMap (BitVec 32)) : bestPlane l = (l.foldl nearerPlane none).map (·.1) := rfl

theorem mem_of_nearerPlane {l : SMap (BitVec 32)} {b : Option (Nat × BitVec 32)} {y : Nat × BitVec 32} (h : l.foldl nearerPlane b = some y) :
    b = some y ∨ y ∈ l := by
  induction l generalizing b with
  | nil => exact .inl h
  | cons x l ih =>
    have hx : nearerPlane b x = some y → b = some y ∨ x = y := fun hb => by
      cases b with
      | none => exact .inr (Option.some.inj hb)
      | some z =>
        rw [nearerPlane] at hb
        split at hb
        · exact .inr (Option.some.inj hb)
        · exact .inl hb
    rcases ih h with hb | hl
    · exact (hx hb).imp_right fun e => List.mem_cons.2 (.inl e.symm)
    · exact .inr (List.mem_cons_of_mem _ hl)

/-- The plane with the least round trip is one that was measured. -/
theorem mem_of_bestPlane {l : SMap (BitVec 32)} {p : Nat} (h : bestPlane l = some p) : p ∈ l.map (·.1) := by
  rw [bestPlane_eq] at h
  obtain ⟨y, hy, rfl⟩ := Option.map_eq_some_iff.1 h
  rcases mem_of_nearerPlane hy with hn | hl
  · cases hn
  · exact List.mem_map_of_mem hl

theorem State.bestPlane_portOut (s : State) (p : Nat) : bestPlane (s.portOut p).fab.clock.rtt ≠ some p := fun h => by
  obtain ⟨x, hx, hn⟩ := List.mem_map.1 (mem_of_bestPlane h)
  exact of_decide_eq_true (List.mem_filter.1 hx).2 hn

end Sys2Proof.Machine
end

section
/-! SUPPORT. Remote requests that time out (spec/04 R108, spec/09 R236), and the end of a copy (spec/13 R345). -/
namespace Sys2Proof.Machine
set_option Elab.async false

/-! ### A hart whose request times out -/

theorem Hart.placed_of_running {h : Hart} (hp : h.phase = .running) : h.placed = true := by rw [Hart.placed, hp]

/-- A request of the executing hart for the line that a message names is outstanding. -/
def State.outstanding (s : State) (m : Msg) (r : Remote) : Bool := decide (r.hart = s.cur) && !r.held && decide (r.pa / 64 = m.addr.toNat / 64)

/-- No such request is outstanding any more. -/
def State.dropOutstanding (s : State) (m : Msg) : State := s.updFab fun f => { f with remotes := f.remotes.filter fun r => !s.outstanding m r }

/-- A hart with VSTART at an element. -/
def Hart.startAt (h : Hart) (k : Nat) : Hart := { h with vec := { h.vec with vstart := BitVec.ofNat 32 k } }

theorem State.failedAt_vector (s : State) (k : Nat) : s.failedAt false k = s.updHart (·.startAt k) := rfl

section
variable {s : State} {m : Msg}

theorem State.remoteTimeout_eq : s.remoteTimeout m =
    if (if m.kind = 1#8 then !s.isRemote m.addr.toNat else !s.fab.remotes.any (s.outstanding m)) then s else
    let u := if m.kind = 1#8 then s else s.dropOutstanding m
    if m.kind = 1#8 then (u.updHart (·.resends m.addr.toNat m.bytes m.value2 m.mask.toNat)).takeTrap tcAccessFault m.value 3#2 m.value2
    else if m.kind = 2#8 then (u.failedAt m.flag m.unit.toNat).trapEntry tcAccessFault m.value (queueKind m.flag)
    else u.takeTrap tcAccessFault m.value 0#2 u.hart.pc := rfl

theorem State.remoteTimeout_none (hk : m.kind ≠ 1#8) (ho : s.fab.remotes.any (s.outstanding m) = false) : s.remoteTimeout m = s := by
  rw [State.remoteTimeout_eq, if_neg hk, ho]
  rfl

theorem State.remoteTimeout_scalar (hk : m.kind = 0#8) (ho : s.fab.remotes.any (s.outstanding m) = true) :
    s.remoteTimeout m = (s.dropOutstanding m).takeTrap tcAccessFault m.value 0#2 s.hart.pc := by
  rw [State.remoteTimeout_eq, hk, ho]
  rfl

theorem State.remoteTimeout_element (hk : m.kind = 2#8) (ho : s.fab.remotes.any (s.outstanding m) = true) : s.remoteTimeout m =
    ((s.dropOutstanding m).failedAt m.flag m.unit.toNat).trapEntry tcAccessFault m.value (queueKind m.flag) := by
  rw [State.remoteTimeout_eq, hk, ho]
  rfl

theorem State.remoteTimeout_store (hk : m.kind = 1#8) (hr : s.isRemote m.addr.toNat = true) : s.remoteTimeout m =
    (s.updHart (·.resends m.addr.toNat m.bytes m.value2 m.mask.toNat)).takeTrap tcAccessFault m.value 3#2 m.value2 := by
  rw [State.remoteTimeout_eq, hk, hr]
  rfl

end

section
variable {s : State}

theorem remoteTimeout_unknown (hk : 4 ≤ s.msg.kind.toNat) : exec .remoteTimeout s = .next s := by
  have h3 : s.msg.kind ≠ 3#8 := fun h => by rw [h] at hk; exact absurd hk (by decide)
  refine finishEvent_ok ?_
  rw [M.get_bind, if_neg h3, if_pos (show 3 < s.msg.kind.toNat from hk)]
  rfl

/-- A hart that is placed meets its timeout as itself. -/
theorem ends_remoteTimeout_hart {P : State → Prop} (hk : s.msg.kind.toNat < 3) (hrun : (s.getHart s.msg.hart.toNat).phase = .running)
    (h : P (s.onHart s.msg.hart.toNat (·.remoteTimeout s.msg))) : Ends .remoteTimeout s P := by
  have h3 : s.msg.kind ≠ 3#8 := fun h => by rw [h] at hk; exact absurd hk (by decide)
  have hp : s.onHart s.msg.hart.toNat (fun u => if u.hart.placed then u.remoteTimeout u.msg else u) =
      s.onHart s.msg.hart.toNat (·.remoteTimeout s.msg) := by
    have hpl : (s.switchTo s.msg.hart.toNat).hart.placed = true := by rw [State.hart_switchTo]; exact Hart.placed_of_running hrun
    exact congrArg (State.switchTo · s.cur) ((if_pos hpl).trans (by rw [State.switchTo_msg]))
  refine ⟨_, finishEvent_ok ?_, h⟩
  rw [M.get_bind, if_neg h3, if_neg (Nat.not_lt.2 (Nat.le_of_lt hk))]
  exact congrArg (EStateM.Result.ok ()) hp

theorem ends_remoteTimeout_copy {P : State → Prop} (hk : s.msg.kind = 3#8) (h : P (s.copyTimeout s.msg.hart.toNat)) : Ends .remoteTimeout s P := by
  refine ⟨_, finishEvent_ok ?_, h⟩
  rw [M.get_bind, if_pos hk]
  rfl

end

/-! ### The end of a copy -/

namespace Inv.Fill
section
variable {P : State → Prop} (hP : Inv.Fill P) {s : State} (hs : P s)
include hP hs

theorem takeAll {slot ln m wb} : P (s.takeAll slot ln m wb) := by
  refine Inv.foldl (hP.takeFrom hs) fun u hu d => ?_
  split
  · exact Inv.ite hu (hP.takeFrom hu)
  · exact hu

theorem homePut {slot pa bs} : P (s.homePut slot pa bs) := hP.fireWatches (hP.homeStore (hP.homeTouch hs))
theorem engineWrite {slot pa bs} : P (s.engineWrite slot pa bs) := hP.homePut (hP.takeAll hs)
theorem writeProgress {c} : P (s.writeProgress c) := hP.engineWrite hs
theorem pinBy {x g} : P (s.pinBy x g) := hP.setSlice hs
theorem unpinAll {l} : P (s.unpinAll l) := Inv.foldl hs fun _ ht _ => hP.retryWaiting (hP.pinBy ht)

end
end Inv.Fill

/-- The copies of every cluster are the same. -/
def State.SameCopies (s t : State) : Prop := ∀ k, (t.cluster k).copies = (s.cluster k).copies

theorem State.SameCopies.inv (s : State) : Inv.Fill s.SameCopies where
  slices h := h
  poison h := h
  under h := h
  l1 h := h
  cc {t k g} h j := by
    rw [← h j]
    unfold State.updCC
    by_cases hj : j = k
    · subst hj
      rw [State.cluster_setCluster_same]
    · rw [State.cluster_setCluster_other _ _ _ _ hj]
  fabric h := h
  agents h := h
  wake h j := by rw [← h j, State.cluster, State.updHartN_m]; rfl
  store h := h
  channel h := h
  after h := h

/-- Bytes that an engine writes reach no hart but by a watch hit. -/
theorem State.Steady.engineWrite {s t : State} (ht : s.Steady t) {slot pa bs} : s.Steady (t.engineWrite slot pa bs) := ht.takeAll.homePut
theorem State.Steady.writeProgress {s t : State} (ht : s.Steady t) {c} : s.Steady (t.writeProgress c) := ht.engineWrite
theorem State.Steady.unpinAll {s t : State} (ht : s.Steady t) {l} : s.Steady (t.unpinAll l) := ht.foldl fun _ hu _ => hu
theorem State.Steady.setCluster {s t : State} (ht : s.Steady t) {k v} : s.Steady (t.setCluster k v) := ht

/-- Nothing of the harts and of the clusters differs. -/
def State.SameUnits (s t : State) : Prop := SameHarts s t ∧ t.m.clusters = s.m.clusters

namespace State.SameUnits

theorem refl (s : State) : s.SameUnits s := ⟨⟨rfl, rfl, rfl⟩, rfl⟩

variable {s t : State} (h : s.SameUnits t)
include h

theorem getHart (n : Nat) : t.getHart n = s.getHart n := by
  obtain ⟨⟨hcur, hhart, hothers⟩, -⟩ := h
  rw [State.getHart, State.getHart, hcur, hhart, hothers]
theorem cluster (k : Nat) : t.cluster k = s.cluster k := by rw [State.cluster, h.2, ← State.cluster]
theorem after {l} : s.SameUnits (t.after l) := h
theorem setPlate {p v} : s.SameUnits (t.setPlate p v) := h
theorem drainCheck {p} : s.SameUnits (t.drainCheck p) := by
  unfold State.drainCheck
  dsimp only
  split
  · exact h
  · exact h

theorem endFill {p ok} : s.SameUnits (t.endFill p ok) := by
  unfold State.endFill
  refine State.SameUnits.after ?_
  split
  · split
    · exact h.setPlate.drainCheck
    · exact h
  · split
    · exact h.setPlate.drainCheck
    · exact h

theorem foldl {α : Type} {g : State → α → State} {l : List α} (hg : ∀ u, s.SameUnits u → ∀ a, s.SameUnits (g u a)) : s.SameUnits (l.foldl g t) := by
  induction l generalizing t with
  | nil => exact h
  | cons a l ih => exact ih (hg t h a)

end State.SameUnits

/-- A copy that was the only one of its cluster ends: it leaves the cluster, its record enters e1 and the event latch is set. -/
theorem State.endCopy_only {s : State} {k h : Nat} {c d : CopyCmd} (hc : (s.cluster k).copies = [c]) (hd : d.hart = h) (status : BitVec 8) :
    ((s.endCopy k 0 d status).cluster k).copies = [] ∧ ((s.endCopy k 0 d status).getHart h).latch.getLsbD 0 = true ∧
      ((s.endCopy k 0 d status).getHart h).e1 = (s.getHart h).e1 ++ [d.record status] := by
  subst hd
  unfold State.endCopy
  extract_lets x u v w
  have hu : (u.cluster k).copies = [] ∧ (u.getHart d.hart).e1 = (s.getHart d.hart).e1 := by
    have hdrop : ((s.setCluster k { x with copies := x.copies.eraseIdx 0 }).cluster k).copies = [] := by
      rw [State.cluster_setCluster_same, show x.copies = [c] from hc]
      rfl
    have hst : s.Steady u := (State.Steady.refl s).setCluster.unpinAll.writeProgress
    refine ⟨((State.SameCopies.inv _).writeProgress ((State.SameCopies.inv _).unpinAll fun _ => rfl) k).trans hdrop, ?_⟩
    exact (congrArg Hart.e1 (hst.2 d.hart) :)
  obtain ⟨hcopies, he1⟩ := hu
  have hw : v.SameUnits w := (State.SameUnits.refl v).foldl fun _ h _ => h.endFill
  have ht : v.SameUnits ((d.drained.foldl (fun s d => s.drainCheck d.2) w).after [(.copyStart, copyMsg k)]) :=
    (hw.foldl fun _ h _ => h.drainCheck).after
  have hv : v.getHart d.hart = { u.getHart d.hart with
      e1 := (u.getHart d.hart).e1 ++ [d.record status], latch := (u.getHart d.hart).latch ||| 1#7
      pendingUser := if d.irq && d.handler != 0#64 then (u.getHart d.hart).pendingUser ++ [.copyDone d.id d.handler] else (u.getHart d.hart).pendingUser } :=
    (State.getHart_updHartN ..).trans (if_pos rfl)
  rw [ht.cluster, ht.getHart, hv, ← he1]
  refine ⟨?_, by simp, rfl⟩
  rw [State.cluster, State.updHartN_m]
  exact hcopies

/-- An ordered copy with nothing read and not written fails where it stands. -/
theorem State.failCopy_ordered {s : State} {c : CopyCmd} (ho : c.ordered = true) (s0 : State) (k i j : Nat) (st : BitVec 8) :
    (s.failCopy s0 k i { c with buffer := [] } j st).1 = s.endCopy k i { c with progress := j, buffer := [] } st := by
  rw [State.failCopy]
  simp only [List.filter_nil, State.copyFlush, List.foldl_nil]
  rw [if_pos ho]

section
variable {s : State} {h : Nat}

theorem State.copyTimeout_none (hc : (s.cluster (clusterOf h)).copies = []) : s.copyTimeout h = s := by
  rw [State.copyTimeout, hc]
  rfl

theorem State.copyTimeout_ordered {c : CopyCmd} (hc : (s.cluster (clusterOf h)).copies = [c]) (hh : c.hart = h) (ha : c.active = true)
    (ho : c.ordered = true) (hr : s.copyRemote c = true) :
    s.copyTimeout h = s.endCopy (clusterOf h) 0 { c with progress := c.counted.progress, buffer := [] } 5#8 := by
  have hi : ([c].findIdx? fun c => decide (c.hart = h) && c.active && s.copyRemote c) = some 0 := by simp [List.findIdx?_cons, hh, ha, hr]
  rw [State.copyTimeout, hc, hi]
  exact State.failCopy_ordered ho ..

end

end Sys2Proof.Machine
end

section
/-! PROOF. O51: ports, planes, links, timeouts of remote requests and meridian time (spec/04 R107, R108, R115, R116, spec/09 R236, spec/21 R476). -/
namespace Sys2Proof.Machine
set_option Elab.async false

/-! ### Ports (R107, R108) -/

section
variable (s : State) (p : Nat)

theorem State.fab_portDown : (s.portDown p).fab = (s.portOut p).resendRemotes.fab := by
  obtain ⟨d, n, h⟩ := s.portDown_eq p
  rw [h]
theorem State.m_portDown : (s.portDown p).m = s.m := by
  obtain ⟨d, n, h⟩ := s.portDown_eq p
  rw [h]
  rfl
theorem State.sameHarts_portDown : SameHarts s (s.portDown p) := by
  obtain ⟨d, n, h⟩ := s.portDown_eq p
  rw [h]
  exact ⟨rfl, rfl, rfl⟩

theorem State.get_ports_portDown : let r := s.fab.ports.get .reset p
    (s.portDown p).fab.ports.get .reset p = { r with mode := 0#4, inuse := false, streak := 0, failed := r.failed || r.mode != 0#4 } := by
  rw [State.fab_portDown]
  exact SMap.get_set_same ..

theorem State.planesTo_portDown (dev : Nat) : (s.portDown p).planesTo dev = (s.portOut p).planesTo dev := by
  rw [State.planesTo, State.planesUp, State.fab_portDown]
  rfl

end

theorem ends_portDown_own {s : State} (hp : s.msg.unit.toNat < 16) (hf : s.msg.flag = false) {P : State → Prop} (h : P (s.portDown s.msg.unit.toNat)) :
    Ends .portDown s P := ends_portStep rfl hp (by rw [hf]; exact h)

theorem ends_portDown_peer {s : State} (hp : s.msg.unit.toNat < 16) (hf : s.msg.flag = true) {P : State → Prop}
    (h : P (s.peerPlaneDown s.msg.dev.toNat s.msg.unit.toNat)) : Ends .portDown s P := ends_portStep rfl hp (by rw [hf]; exact h)

/-- Requests that are outstanding keep their tags, and each is on a plane that is up at both ends, where there is one and it was moved. -/
theorem State.remotes_portDown (s : State) (p : Nat) : (s.portDown p).fab.remotes.map (·.tag) = s.fab.remotes.map (·.tag) ∧
    ∀ x ∈ (s.portDown p).fab.remotes, x ∈ s.fab.remotes ∨ (s.portDown p).planesTo (devOf x.pa) = [] ∨ x.plane ∈ (s.portDown p).planesTo (devOf x.pa) := by
  simp only [State.planesTo_portDown, State.fab_portDown]
  exact ⟨(s.portOut p).tags_resendRemotes, fun x => (s.portOut p).mem_resendRemotes⟩

theorem State.sent_portDown {s : State} {p : Nat} (h : (s.fab.ports.map (·.1)).Pairwise (· < ·)) : p ∉ (s.portDown p).planesUp ∧
    ∀ x ∈ s.fab.remotes, x.plane = p → x.held = false → (s.portDown p).planesTo (devOf x.pa) ≠ [] →
      Packet.request ((s.portDown p).planeFor x.pa) (x.pa / 64) (s.ctx x.ctx.toNat).dtag x.tag ∈ (s.portDown p).fab.sent := by
  have hup : p ∉ (s.portOut p).planesUp := State.not_mem_planesUp_portOut h
  simp only [State.planeFor, State.planesTo_portDown, State.planesUp, State.fab_portDown]
  refine ⟨hup, fun x hx hplane hheld hne => ?_⟩
  refine (s.portOut p).request_mem_resendRemotes hx hheld (fun hin => hup ?_) hne
  rw [hplane] at hin
  exact List.mem_of_mem_filter hin

/-- A plane that goes down at another device's end is not one to that device. -/
theorem State.peerPlaneDown_frame (s : State) (dev p : Nat) : (s.peerPlaneDown dev p).fab.ports = s.fab.ports ∧ p ∉ (s.peerPlaneDown dev p).planesTo dev ∧
    (s.peerPlaneDown dev p).fab.remotes.map (·.tag) = s.fab.remotes.map (·.tag) ∧ SameHarts s (s.peerPlaneDown dev p) ∧
    (s.peerPlaneDown dev p).m = s.m := by
  have hnot : ∀ t : State, (dev, p) ∈ t.fab.peerDown → p ∉ t.planesTo dev := fun t ht hp => by
    simpa [ht] using (List.mem_filter.1 hp).2
  unfold State.peerPlaneDown
  split
  · next h => exact ⟨rfl, hnot _ (by simpa using h), rfl, ⟨rfl, rfl, rfl⟩, rfl⟩
  · exact ⟨rfl, hnot _ List.mem_cons_self, State.tags_resendRemotes _, ⟨rfl, rfl, rfl⟩, rfl⟩

/-- A port with a retry counted. -/
def State.portRetried (s : State) (p : Nat) (fails : Bool) : State :=
  s.updFab fun f => { f with ports := f.ports.set p ((f.ports.get .reset p).retried fails) }

theorem State.get_ports_portRetried (s : State) (p : Nat) (fails : Bool) :
    (s.portRetried p fails).fab.ports.get .reset p = (s.fab.ports.get .reset p).retried fails := SMap.get_set_same ..

/-- A retry of a row that is not sixteen failed ones is only counted. -/
theorem ends_flitRetry_counts {s : State} (hp : s.msg.unit.toNat < 16)
    (h : s.msg.flag = false ∨ (s.fab.ports.get .reset s.msg.unit.toNat).streak < 15) {P : State → Prop}
    (hP : P (s.portRetried s.msg.unit.toNat s.msg.flag)) : Ends .ualinkFlitRetry s P := by
  have hstreak : ¬ 16 ≤ ((s.fab.ports.get .reset s.msg.unit.toNat).retried s.msg.flag).streak := by
    rcases h with h | h
    · rw [Port.retried, h]
      exact Nat.not_succ_le_zero _
    · unfold Port.retried
      dsimp only
      split <;> omega
  exact ends_portStep rfl hp (by rw [State.flitRetry, if_neg hstreak]; exact hP)

theorem ends_flitRetry_fails {s : State} (hp : s.msg.unit.toNat < 16) (hf : s.msg.flag = true)
    (h : 15 ≤ (s.fab.ports.get .reset s.msg.unit.toNat).streak) {P : State → Prop}
    (hP : P ((s.portRetried s.msg.unit.toNat true).portDown s.msg.unit.toNat)) : Ends .ualinkFlitRetry s P := by
  have hstreak : 16 ≤ ((s.fab.ports.get .reset s.msg.unit.toNat).retried s.msg.flag).streak := by
    rw [Port.retried, hf]
    exact Nat.succ_le_succ h
  exact ends_portStep rfl hp (by rw [State.flitRetry, if_pos hstreak, hf]; exact hP)

/-! ### Meridian time (R115, R116) -/

theorem State.sync_ignored {s : State} {p : Nat} (h : s.fab.clock.master = true ∨ bestPlane s.fab.clock.rtt ≠ some p) (t : Word) : s.sync p t = s :=
  if_pos (by simpa using h)

/-- The time from the master's, less this device's own, that a SYNC gives. -/
def State.syncOffset (s : State) (p : Nat) (t : Word) : Int := (t.toNat : Int) + ((s.fab.clock.rtt.get 0#32 p).toNat / 2 : Nat) - s.time

theorem State.sync_accepted {s : State} {p : Nat} (hm : s.fab.clock.master = false) (hb : bestPlane s.fab.clock.rtt = some p) (t : Word) :
    let now := if s.inBringUp = true then s.time + (s.syncOffset p t).toNat else s.time
    s.sync p t = { s with time := now, fab := { s.fab with clock := { s.fab.clock with
      offset := BitVec.ofInt 32 (s.syncOffset p t), lock := decide ((s.syncOffset p t).natAbs ≤ 20), hold := false, lastSync := now } } } := by
  have hc : ¬ (s.fab.clock.master || bestPlane s.fab.clock.rtt ≠ some p) = true := by simp [hm, hb]
  have hlock : (decide (-20 ≤ s.syncOffset p t) && decide (s.syncOffset p t ≤ 20)) = decide ((s.syncOffset p t).natAbs ≤ 20) := by
    rw [← Bool.decide_and]
    exact decide_eq_decide.2 (by omega)
  rw [← hlock]
  refine (if_neg hc).trans ?_
  dsimp only
  split <;> rfl

theorem State.syncHold_ignored {s : State} (h : s.fab.clock.master = true ∨ s.fab.clock.hold = true ∨ s.time < s.fab.clock.lastSync + 10000000) :
    s.syncHold = s := if_pos (by simpa [or_assoc] using h)

theorem State.syncHold_holds {s : State} (hm : s.fab.clock.master = false) (hh : s.fab.clock.hold = false)
    (ht : s.fab.clock.lastSync + 10000000 ≤ s.time) :
    s.syncHold = (s.updClock fun c => { c with hold := true }).postEvent 8 5#8 0#64 0#16 0#8 0#27 := by
  refine if_neg ?_
  simpa [hm, hh] using ht

/-! ### Requests that are not answered (R108) -/

/-- A request of the hart of a message that the message's timeout is of. -/
def State.timedOut (s : State) (r : Remote) : Bool :=
  decide (r.hart = s.msg.hart.toNat) && !r.held && decide (r.pa / 64 = s.msg.addr.toNat / 64)

theorem State.outstanding_switchTo (s : State) : (s.switchTo s.msg.hart.toNat).outstanding s.msg = s.timedOut := by
  funext r
  rw [State.outstanding, State.switchTo_cur, State.timedOut]

theorem State.any_outstanding_switchTo {s : State} {b : Bool} (ho : s.fab.remotes.any s.timedOut = b) :
    (s.switchTo s.msg.hart.toNat).fab.remotes.any ((s.switchTo s.msg.hart.toNat).outstanding s.msg) = b := by
  rw [State.outstanding_switchTo, State.switchTo_fab, ho]

section
variable {s : State} (hrun : (s.getHart s.msg.hart.toNat).phase = .running)
  (he : (s.getHart s.msg.hart.toNat).trap.trentry.getLsbD 0 = true)
include hrun

theorem ends_remoteTimeout_none (hk : s.msg.kind = 0#8 ∨ s.msg.kind = 2#8) (ho : s.fab.remotes.any s.timedOut = false) :
    Ends .remoteTimeout s fun t => t.m = s.m ∧ HartsOnly s t s.msg.hart.toNat id := by
  have hlt : s.msg.kind.toNat < 3 := by rcases hk with h | h <;> rw [h] <;> decide
  have hne : s.msg.kind ≠ 1#8 := by rcases hk with h | h <;> rw [h] <;> decide
  exact ends_remoteTimeout_hart hlt hrun (State.onHart_idle (State.remoteTimeout_none hne (State.any_outstanding_switchTo ho)))

include he

/-- A scalar access traps. -/
theorem ends_remoteTimeout_scalar (hk : s.msg.kind = 0#8) (ho : s.fab.remotes.any s.timedOut = true) : Ends .remoteTimeout s fun t =>
    t.fab.remotes = s.fab.remotes.filter (fun r => !s.timedOut r) ∧ t.m = s.m ∧
      HartsOnly s t s.msg.hart.toNat fun x => trapped x tcAccessFault s.msg.value 0#2 x.pc := by
  have hu := State.remoteTimeout_scalar hk (State.any_outstanding_switchTo ho)
  rw [State.takeTrap_trapped (by rw [← State.hart_switchTo] at he; exact he)] at hu
  refine ends_remoteTimeout_hart (by rw [hk]; decide) hrun ⟨?_, ?_, State.hartsOnly_onHart ?_ ?_ ?_⟩
  · rw [State.fab_onHart, hu, ← State.outstanding_switchTo, ← State.switchTo_fab s s.msg.hart.toNat]
    rfl
  · rw [State.m_onHart, hu]
    exact State.switchTo_m ..
  · rw [hu]
    exact State.switchTo_cur ..
  · rw [hu]
    rfl
  · rw [hu, ← State.hart_switchTo]
    rfl

/-- A store that has retired traps with QK = 3, and is kept for sret. -/
theorem ends_remoteTimeout_store (hk : s.msg.kind = 1#8) (hr : s.isRemote s.msg.addr.toNat = true) : Ends .remoteTimeout s fun t => t.m = s.m ∧
    HartsOnly s t s.msg.hart.toNat fun x =>
      trapped (x.resends s.msg.addr.toNat s.msg.bytes s.msg.value2 s.msg.mask.toNat) tcAccessFault s.msg.value 3#2 s.msg.value2 := by
  have hr' : (s.switchTo s.msg.hart.toNat).isRemote s.msg.addr.toNat = true := by rw [State.isRemote, State.switchTo_fab]; exact hr
  have hu := State.remoteTimeout_store hk hr'
  rw [State.takeTrap_trapped (by rw [← State.hart_switchTo] at he; exact he)] at hu
  refine ends_remoteTimeout_hart (by rw [hk]; decide) hrun ⟨?_, State.hartsOnly_onHart ?_ ?_ ?_⟩
  · rw [State.m_onHart, hu]
    exact State.switchTo_m ..
  · rw [hu]
    exact State.switchTo_cur ..
  · rw [hu]
    rfl
  · rw [hu, ← State.hart_switchTo]
    rfl

/-- An element of the access at the head of the vector queue traps, with VSTART at it. -/
theorem ends_remoteTimeout_element {q : QEntry} {l : List QEntry} (hq : (s.getHart s.msg.hart.toNat).vq = q :: l) (hk : s.msg.kind = 2#8)
    (ho : s.fab.remotes.any s.timedOut = true) (hf : s.msg.flag = false) : Ends .remoteTimeout s fun t => t.m = s.m ∧
      t.getHart s.msg.hart.toNat =
        trapped (((s.getHart s.msg.hart.toNat).startAt s.msg.unit.toNat).markFaulted q) tcAccessFault s.msg.value 1#2 q.pc := by
  have hu := State.remoteTimeout_element hk (State.any_outstanding_switchTo ho)
  rw [← State.hart_switchTo] at hq he
  rw [hf, State.failedAt_vector, show queueKind false = 1#2 from rfl] at hu
  have hu := hu.trans (State.trapEntry_vector (q := q) (l := l) (by exact hq) (by exact he) _ _)
  have hcur : ((s.switchTo s.msg.hart.toNat).remoteTimeout s.msg).cur = s.msg.hart.toNat := by
    rw [hu]
    exact State.switchTo_cur ..
  refine ends_remoteTimeout_hart (by rw [hk]; decide) hrun ⟨?_, ?_⟩
  · rw [State.m_onHart, hu]
    exact State.switchTo_m ..
  · refine (State.getHart_switchTo ..).trans ?_
    refine (if_pos hcur.symm).trans ?_
    show ((s.switchTo s.msg.hart.toNat).remoteTimeout s.msg).hart = _
    rw [hu, ← State.hart_switchTo]
    rfl

end

/-- An ordered copy that was the only one of its cluster ends with status 5. -/
theorem ends_remoteTimeout_ordered {s : State} {c : CopyCmd} (hc : (s.cluster (clusterOf s.msg.hart.toNat)).copies = [c]) (hk : s.msg.kind = 3#8)
    (hh : c.hart = s.msg.hart.toNat) (ha : c.active = true) (ho : c.ordered = true) (hr : s.copyRemote c = true) :
    Ends .remoteTimeout s fun t => (t.cluster (clusterOf s.msg.hart.toNat)).copies = [] ∧
      (t.getHart s.msg.hart.toNat).latch.getLsbD 0 = true ∧
      (t.getHart s.msg.hart.toNat).e1.map (·.word) = (s.getHart s.msg.hart.toNat).e1.map (·.word) ++ [5#64 <<< 32 ||| c.id.zeroExtend 64] := by
  refine ends_remoteTimeout_copy hk ?_
  rw [State.copyTimeout_ordered hc hh ha ho hr]
  obtain ⟨hcopies, hlatch, he1⟩ := State.endCopy_only (d := { c with progress := c.counted.progress, buffer := [] }) hc hh 5#8
  refine ⟨hcopies, hlatch, ?_⟩
  rw [he1, List.map_append]
  rfl

/-! ### The obligation -/

/-- Settles O51: each step is an equation of the state operation behind it, and what follows is read off the operation. -/
theorem fabricAndClockMessages : Obligations.FabricAndClockMessages := by
  unfold Obligations.FabricAndClockMessages
  refine ⟨fun s => ?ports, fun s => ?links, fun s => ?timeouts, fun s => ?clock⟩
  case ports =>
    intro p r
    refine ⟨fun hp => ⟨portStep_outside rfl hp, portStep_outside rfl hp⟩, fun hp => ⟨fun hf => ?_, fun hf => ?_, ⟨fun h => ?_, fun hf h => ?_⟩, ?_,
      fun h => ?_, fun hm hb => ?_⟩⟩
    · obtain ⟨htags, hplanes⟩ := s.remotes_portDown p
      refine ends_portDown_own hp hf ⟨s.get_ports_portDown p, fun q hq => ?_, htags, hplanes, State.sent_portDown, ?_, s.sameHarts_portDown p, s.m_portDown p⟩
      · rw [State.fab_portDown]
        exact SMap.get_set_other _ _ _ _ _ hq
      · rw [State.fab_portDown]
        exact s.bestPlane_portOut p
    · exact ends_portDown_peer hp hf (s.peerPlaneDown_frame _ _)
    · exact ends_flitRetry_counts hp h ⟨⟨rfl, rfl, rfl⟩, rfl, s.get_ports_portRetried p _⟩
    · refine ends_flitRetry_fails hp hf h ⟨(s.portRetried p true).sameHarts_portDown p, (s.portRetried p true).m_portDown p, ?_⟩
      refine ((s.portRetried p true).get_ports_portDown p).trans ?_
      rw [s.get_ports_portRetried p]
      rfl
    · exact ends_portStep rfl hp ⟨SMap.get_set_same .., ⟨rfl, rfl, rfl⟩, rfl⟩
    · exact exec_of_ends (ends_portStep rfl hp (State.sync_ignored h _))
    · exact ends_portStep rfl hp (State.sync_accepted hm hb _)
  case links =>
    intro k l hk
    refine ⟨ends_linkStep rfl hk ⟨SMap.get_set_same .., ⟨rfl, rfl, rfl⟩, rfl⟩, fun hh => exec_of_ends (ends_linkStep rfl hk (if_pos hh)),
      fun hh hl => ends_linkStep rfl hk ?_, fun hh hl => ends_linkStep rfl hk ?_⟩
    · exact (if_neg (by rw [hh]; exact Bool.false_ne_true)).trans (if_pos hl)
    · exact (if_neg (by rw [hh]; exact Bool.false_ne_true)).trans (if_neg (Nat.not_lt.2 hl))
  case timeouts =>
    intro h x
    refine ⟨remoteTimeout_unknown, fun hrun he => ⟨ends_remoteTimeout_none hrun, ends_remoteTimeout_scalar hrun he, ends_remoteTimeout_store hrun he,
        fun q l hq hk ho hf => ?_⟩,
      fun hc hk => exec_of_ends (ends_remoteTimeout_copy hk (State.copyTimeout_none hc)), fun c => ends_remoteTimeout_ordered⟩
    obtain ⟨t, ht, hm, hy⟩ := ends_remoteTimeout_element hrun he hq hk ho hf
    refine ⟨t, ht, hm, ?_⟩
    have hq : (s.getHart s.msg.hart.toNat).vq = q :: l := hq
    rw [hy]
    refine ⟨rfl, rfl, rfl, rfl, rfl, rfl, ?_⟩
    simp [trapped, Hart.markFaulted, Hart.startAt, hq]
  case clock =>
    refine ⟨fun hm => ?_, fun hm => ?_, fun h => ?_, fun hm hh ht => ?_, ⟨_, rfl, rfl, ⟨rfl, rfl, rfl⟩, rfl⟩⟩
    · exact congrArg Host.Outcome.next (if_neg (by rw [hm]; exact Bool.false_ne_true))
    · refine ⟨_, congrArg Host.Outcome.next (if_pos hm), rfl, rfl, ⟨rfl, rfl, rfl⟩, rfl⟩
    · exact congrArg Host.Outcome.next (State.syncHold_ignored h)
    · refine ⟨_, congrArg Host.Outcome.next (State.syncHold_holds hm hh ht), ?_, ?_⟩
      · rw [State.fab_postEvent]
        rfl
      · rw [State.m_postEvent]
        rfl

end Sys2Proof.Machine
end

section
/-! SUPPORT. What an engine or the host reads and writes of a line that is quiet at its home (spec/04 R114, spec/05 R141, R142). -/
namespace Sys2Proof.Machine
set_option Elab.async false

/-! ### Reads -/

theorem bitAt_wordMask {o n i : Nat} (hi : i < 16) : bitAt (wordMask o n) i = decide (o < 4 * i + 4 ∧ 4 * i < o + n) := by
  have h := bitAt_maskOf (p := fun i => decide (o < 4 * i + 4 ∧ 4 * i < o + n)) hi
  rw [← h, wordMask]
  congr 2
  funext m j
  by_cases hj : 4 * j + 4 ≤ o ∨ o + n ≤ 4 * j
  · rw [if_pos hj, if_neg (by simp; omega)]
  · rw [if_neg hj, if_pos (by simp; omega)]

theorem State.getElem?_homeBytes (s : State) (slot pa : Nat) {n j : Nat} (hj : j < n) : (s.homeBytes slot pa n)[j]? = some (s.homeByte slot (pa + j)) := by
  rw [State.homeBytes_eq, List.getElem?_map, List.getElem?_range hj]
  rfl

/-- Bytes of a line gathered from words under a mask that covers them. -/
theorem State.take_gatherWords {s : State} {slot ln o n : Nat} {m : BitVec 16} {f : Nat → List Byte × Bool}
    (hf : ∀ i, (f i).1 = s.homeBytes slot (ln * 64 + 4 * i) 4) (hm : ∀ i, i < 16 → o < 4 * i + 4 → 4 * i < o + n → bitAt m i = true) (ho : o + n ≤ 64) :
    ((gatherWords m f).1.drop o).take n = s.homeBytes slot (ln * 64 + o) n := by
  have hlen : ∀ i, i < 16 → bitAt m i = true → (f i).1.length = 4 := fun i _ _ => by rw [hf, homeBytes_length]
  refine List.ext_getElem? fun j => ?_
  by_cases hj : j < n
  · have hi : (o + j) / 4 < 16 := by omega
    rw [List.getElem?_take, if_pos hj, List.getElem?_drop, ← wordOf_getElem, wordOf_gatherWords hlen hi, if_pos (hm _ hi (by omega) (by omega)), hf,
      State.getElem?_homeBytes _ _ _ (by omega), State.getElem?_homeBytes _ _ _ hj]
    congr 2
    omega
  · rw [List.getElem?_eq_none (by simp; omega), List.getElem?_eq_none (by simp; omega)]

theorem State.engineRead_eq (s : State) (slot die pa n : Nat) : s.engineRead slot die pa n =
    (((gatherWords (wordMask (pa % 64) n) fun i => s.pointWord slot die (pa / 64) i).1.drop (pa % 64)).take n,
      (gatherWords (wordMask (pa % 64) n) fun i => s.pointWord slot die (pa / 64) i).2) := rfl

/-- An engine's read of bytes of one line is a read of that line. -/
theorem State.engineReads_line (s : State) (slot die pa : Nat) {n : Nat} (hn : 0 < n) (hl : pa % 64 + n ≤ 64) :
    s.engineReads slot die pa n = s.engineRead slot die pa n := by
  have hone : (pa % 64 + n + 63) / 64 = 1 := by omega
  have hlo : max pa ((pa / 64 + 0) * 64) = pa := by omega
  have hhi : min (pa + n) ((pa / 64 + 0 + 1) * 64) - pa = n := by omega
  rw [State.engineReads, hone]
  show ([] ++ (s.engineRead slot die _ _).1, false || (s.engineRead slot die _ _).2) = _
  rw [hlo, hhi, List.nil_append, Bool.false_or]

/-- No RLC slice stands between the die of an address and its home. -/
theorem State.rlcKey_ownDie (s : State) (pa : Nat) : s.rlcKey (dieOf (laOf pa)) (pa / 64 * 64) = none := by
  rw [State.rlcKey, dieOf_line (show pa / 64 * 64 / 64 = pa / 64 from Nat.mul_div_cancel _ (by decide))]
  exact if_neg fun hc => hc.2 rfl

section
variable {s : State} {slot pa : Nat} (h : QuietHome s slot pa)
include h

theorem QuietHome.atLine : QuietHome s slot (pa / 64 * 64) := by
  have hl : pa / 64 * 64 / 64 = pa / 64 := Nat.mul_div_cancel _ (by decide)
  rw [QuietHome, isHbm_line hl, devOf_line hl, State.keyAt_line hl, State.homeKey_line hl, hl]
  exact h

theorem QuietHome.engineReads (slot' : Nat) {n : Nat} (hn : 0 < n) (hl : pa % 64 + n ≤ 64) :
    s.engineReads slot' (dieOf (laOf pa)) pa n = (s.homeBytes slot' pa n, false) := by
  have hw : ∀ i, s.pointWord slot' (dieOf (laOf pa)) (pa / 64) i = (s.homeBytes slot' (pa / 64 * 64 + 4 * i) 4, false) := fun i => by
    rw [State.pointWord_of_home (s.rlcKey_ownDie pa), h.atLine.homeWord]
  rw [s.engineReads_line slot' _ pa hn hl, State.engineRead_eq]
  refine Prod.ext ?_ (gatherWords_clean fun i => congrArg Prod.snd (hw i))
  refine (State.take_gatherWords (fun i => congrArg Prod.fst (hw i)) (fun i hi h1 h2 => ?_) hl).trans ?_
  · rw [bitAt_wordMask hi]
    exact decide_eq_true ⟨h1, h2⟩
  · rw [show pa / 64 * 64 + pa % 64 = pa by omega]

theorem QuietHome.not_remote : s.isRemote (pa / 64 * 64) = false := by
  rw [State.isRemote, h.atLine.ownLine.dev]
  simp

theorem QuietHome.answerRemote (slot' : Nat) : s.answerRemote slot' (pa / 64) = s := if_pos (by rw [h.not_remote]; rfl)

end

/-! ### Writes -/

theorem foldl_fixed_of_mem {α β : Type} {f : α → β → α} {a : α} {l : List β} (h : ∀ b ∈ l, f a b = a) : l.foldl f a = a := by
  induction l with
  | nil => rfl
  | cons b l ih =>
    obtain ⟨hb, hl⟩ := List.forall_mem_cons.1 h
    rw [List.foldl_cons, hb, ih hl]

/-- The harts, what is read at home, the watches of a slice and those of the queue agents are the same. -/
structure State.SameAt (key : Nat) (s t : State) : Prop where
  home : s.SameHome t
  harts : SameHarts s t
  watches : (t.slice key).watches = (s.slice key).watches
  agents : t.m.agentWatches = s.m.agentWatches

namespace State.SameAt

variable {s t : State} {key : Nat} (h : s.SameAt key t)
include h

theorem setSlice {k : Nat} {v : SliceState} (hv : v.watches = (t.slice k).watches) : s.SameAt key (t.setSlice k v) := by
  refine ⟨(State.SameHome.inv s).setSlice h.home, h.harts, ?_, h.agents⟩
  rw [← h.watches]
  by_cases hk : key = k
  · subst hk
    rw [State.slice_setSlice_same, hv]
  · rw [State.slice_setSlice_other _ _ _ _ hk]

theorem openRow {pa : Nat} : s.SameAt key (t.openRow pa) := by
  unfold State.openRow
  split
  · exact ⟨h.home.of_m, h.harts, h.watches, h.agents⟩
  · exact h

end State.SameAt

theorem State.SameAt.refl (key : Nat) (s : State) : s.SameAt key s := ⟨.refl s, ⟨rfl, rfl, rfl⟩, rfl, rfl⟩

/-- Bytes written under the key that wrote the line last. -/
theorem State.mem_homeStore {s : State} {slot pa : Nat} (hbm : isHbm (laOf pa) = true) (hk : (s.lineKey (pa / 64)).key = s.keyAt slot pa) (bs : List Byte) :
    (s.homeStore slot pa bs).m.mem = Mem.writes pa bs s.m.mem := by
  have hs : s.SameHome (s.keepUnder (pa / 64)) := (State.SameHome.inv s).keepUnder (.refl s)
  unfold State.homeStore
  rw [if_pos hbm]
  dsimp only
  rw [hs.lineKey, hs.keyAt, if_pos hk, hs.mem]
  rfl

theorem State.keepUnder_eq (s : State) (ln : Nat) : ∃ v, s.keepUnder ln = s.updMem fun m => { m with under := v } := by
  unfold State.keepUnder
  split
  · exact ⟨s.m.under, rfl⟩
  · exact ⟨_, rfl⟩

theorem State.homeStore_frame (s : State) (slot pa : Nat) (bs : List Byte) : SameHarts s (s.homeStore slot pa bs) ∧
    (s.homeStore slot pa bs).m.slices = s.m.slices ∧ (s.homeStore slot pa bs).m.agentWatches = s.m.agentWatches := by
  unfold State.homeStore
  split
  · obtain ⟨v, hv⟩ := s.keepUnder_eq (pa / 64)
    dsimp only
    rw [hv]
    exact ⟨⟨rfl, rfl, rfl⟩, rfl, rfl⟩
  · exact ⟨⟨rfl, rfl, rfl⟩, rfl, rfl⟩

section
variable {s : State} {slot pa : Nat} (h : QuietHome s slot pa)
include h

/-- No word of a quiet line is registered, so none is taken from an owner. -/
theorem QuietHome.takeAll (slot' : Nat) (m wb : BitVec 16) :
    s.takeAll slot' (pa / 64) m wb = s.setSlice (s.homeKey (pa / 64 * 64)) (s.slice (s.homeKey (pa / 64 * 64))) := by
  have hregs : ∀ k, k < 128 → (s.slice k).regs = [] := by
    obtain ⟨-, -, -, -, -, hr, -⟩ := h
    exact hr
  have htake : s.takeFrom slot' (s.homeKey (pa / 64 * 64)) (pa / 64) m none wb =
      s.setSlice (s.homeKey (pa / 64 * 64)) (s.slice (s.homeKey (pa / 64 * 64))) := by
    have hk := hregs _ h.atLine.homeKey_lt
    have hself : { s.slice (s.homeKey (pa / 64 * 64)) with regs := [] } = s.slice (s.homeKey (pa / 64 * 64)) := by rw [← hk]
    simp [State.takeFrom, SliceState.ownersOf, dropRegs, hk, hself]
  unfold State.takeAll
  rw [htake]
  refine foldl_fixed_of_mem fun d hd => ?_
  split
  · next k hk =>
    have hk' : s.rlcKey d (pa / 64 * 64) = some k := hk
    have hlt : k < 128 := by
      have hd : d < 8 := List.mem_range.1 hd
      have hsl : sliceOf (laOf (pa / 64 * 64)) < 16 := Nat.mod_lt _ (by decide)
      unfold State.rlcKey at hk'
      split at hk'
      · have := Option.some.inj hk'
        omega
      · cases hk'
    have hk0 : ((s.setSlice (s.homeKey (pa / 64 * 64)) (s.slice (s.homeKey (pa / 64 * 64)))).slice k).regs = [] := by
      by_cases he : k = s.homeKey (pa / 64 * 64)
      · rw [he, State.slice_setSlice_same]
        exact hregs _ h.atLine.homeKey_lt
      · rw [State.slice_setSlice_other _ _ _ _ he]
        exact hregs _ hlt
    simp [SliceState.ownersOf, hk0]
  · rfl

/-- A request of words of a quiet line allocates the line in its home slice. -/
theorem QuietHome.homeTouch {t : State} (ht : t = s.setSlice (s.homeKey (pa / 64 * 64)) (s.slice (s.homeKey (pa / 64 * 64)))) (slot' : Nat) (dirty : BitVec 16) :
    s.SameAt (s.homeKey (pa / 64 * 64)) (t.homeTouch slot' (pa / 64) dirty) := by
  have hst : s.SameAt (s.homeKey (pa / 64 * 64)) t := ht ▸ (State.SameAt.refl _ s).setSlice rfl
  have hlines : (t.slice (s.homeKey (pa / 64 * 64))).lines = [] := by
    rw [ht, State.slice_setSlice_same]
    exact h.atLine.noLines
  have hrem : t.answerRemote slot' (pa / 64) = t := by
    refine if_pos ?_
    rw [show t.isRemote (pa / 64 * 64) = false by rw [State.isRemote, hst.home.dev]; exact h.not_remote]
    rfl
  unfold State.homeTouch
  rw [hrem]
  dsimp only
  rw [hst.home.homeKey, hlines]
  dsimp only [sliceFind, List.find?_nil]
  have hadd : ∀ u : State, s.SameAt (s.homeKey (pa / 64 * 64)) u → (u.slice (s.homeKey (pa / 64 * 64))).lines = [] → ∀ l,
      s.SameAt (s.homeKey (pa / 64 * 64)) (u.sliceAlloc slot' (s.homeKey (pa / 64 * 64)) l) := fun u hu hl l => by
    rw [State.sliceAlloc_empty hl]
    exact hu.setSlice rfl
  split
  · refine hadd _ hst.openRow ?_ _
    unfold State.openRow
    split <;> exact hlines
  · exact hadd _ hst hlines _

/-- An engine's write to a quiet line: the bytes stand at home and nothing else of memory changes. -/
theorem QuietHome.engineWrite {bs : List Byte} (hl : pa % 64 + bs.length ≤ 64) :
    (s.engineWrite slot pa bs).homeBytes slot pa bs.length = bs ∧ SameHarts s (s.engineWrite slot pa bs) ∧
      ∀ a, ¬ (pa ≤ a ∧ a < pa + bs.length) → Mem.read (s.engineWrite slot pa bs).m.mem a = Mem.read s.m.mem a := by
  obtain ⟨hwf, hbm, hdev, hkey, -, -, hw, ha, -, -⟩ := id h
  have hline : pa / 64 * 64 / 64 = pa / 64 := Nat.mul_div_cancel _ (by decide)
  unfold State.engineWrite
  dsimp only
  rw [h.takeAll, State.homePut]
  have hu := h.homeTouch rfl slot (wordMask (pa % 64) bs.length)
  generalize (State.setSlice s _ _).homeTouch slot (pa / 64) (wordMask (pa % 64) bs.length) = u at hu
  have hwfu : Mem.wf u.m.mem = true := by rw [hu.home.mem, hwf]
  obtain ⟨hharts, hslices, hagents⟩ := u.homeStore_frame slot pa bs
  have hhk : (u.homeStore slot pa bs).homeKey pa = u.homeKey pa := State.homeKey_congr (State.homeStore_fab ..) pa
  have hfire : (u.homeStore slot pa bs).fireWatches pa bs.length = u.homeStore slot pa bs := by
    refine State.fireWatches_none _ (by rw [hagents, hu.agents, ha]) ?_
    rw [hhk, hu.home.homeKey, State.slice, hslices, ← State.slice, ← State.homeKey_line hline, hu.watches, State.homeKey_line hline, hw]
  rw [hfire]
  refine ⟨?_, ?_, fun a hn => ?_⟩
  · refine List.ext_getElem? fun j => ?_
    by_cases hj : j < bs.length
    · rw [State.getElem?_homeBytes _ _ _ hj, State.homeByte_homeStore hwfu hbm (by rw [hu.home.dev, hdev]) (by omega), if_pos (by omega),
        Nat.add_sub_cancel_left, List.getD_eq_getElem _ _ hj, List.getElem?_eq_getElem hj]
    · rw [List.getElem?_eq_none (by simp; omega), List.getElem?_eq_none (by omega)]
  · obtain ⟨h1, h2, h3⟩ := hu.harts
    obtain ⟨g1, g2, g3⟩ := hharts
    exact ⟨g1.trans h1, g2.trans h2, g3.trans h3⟩
  · rw [State.mem_homeStore hbm (by rw [hu.home.lineKey, hu.home.keyAt, hkey]), Mem.read_writes hwfu, if_neg hn, hu.home.mem]

end

end Sys2Proof.Machine
end

section
/-! PROOF. O52: the host and other devices, the domain, the event queues and register writes (spec/04 R108 to R114, spec/09 R259, R260, spec/02 R55). -/
namespace Sys2Proof.Machine
set_option Elab.async false

/-! ### The host (R112 to R114) -/

section
variable {s : State}

theorem hostAccess_elsewhere (h : s.fab.hostDev = false) : exec .hostRead s = .next s ∧ exec .hostWrite s = .next s := by
  have hc : (!s.fab.hostDev) = true := by rw [h]; rfl
  constructor <;>
  · refine finishEvent_ok ?_
    rw [M.get_bind, if_pos hc]
    rfl

variable (hk : s.msg.kind = 0#8)
include hk

theorem hostAccess_misaligned (h : s.msg.addr.toNat % 2 ^ s.msg.size.toNat ≠ 0) : exec .hostRead s = .next s ∧ exec .hostWrite s = .next s := by
  have h1 : ¬ s.msg.kind = 1#8 := by rw [hk]; decide
  have h2 : ¬ s.msg.kind = 2#8 := by rw [hk]; decide
  by_cases hd : (!s.fab.hostDev) = true
  · exact hostAccess_elsewhere (by simpa using hd)
  · constructor
    · refine finishEvent_ok ?_
      rw [M.get_bind, if_neg hd, if_neg h1, if_pos h]
      rfl
    · refine finishEvent_ok ?_
      rw [M.get_bind, if_neg hd, if_neg h1, if_neg h2, if_pos h]
      rfl

variable (hh : s.fab.hostDev = true) (ha : s.msg.addr.toNat % 2 ^ s.msg.size.toNat = 0) (hlt : s.msg.addr.toNat < 2 ^ 44) (hf : s.msg.flag = false)
include hh ha hlt hf

/-- An access of the host through BAR2. -/
theorem exec_hostRead_bar2 : exec .hostRead s =
    .next (s.hostRead (2 ^ s.msg.size.toNat) (s.apertureAt s.msg.addr.toNat (2 ^ s.msg.size.toNat))) := by
  have hd : ¬ (!s.fab.hostDev) = true := by rw [hh]; decide
  have h1 : ¬ s.msg.kind = 1#8 := by rw [hk]; decide
  refine finishEvent_ok ?_
  rw [M.get_bind, if_neg hd, if_neg h1, if_neg (not_not.2 ha), if_neg (by rw [hf]; exact Bool.false_ne_true), if_pos hlt]
  rfl

theorem exec_hostWrite_bar2 : exec .hostWrite s =
    .next (s.hostWrite (2 ^ s.msg.size.toNat) (BitVec.ofNat 64 (2 ^ 2 ^ s.msg.size.toNat - 1)) (toBytes (2 ^ s.msg.size.toNat) s.msg.value.toNat)
      (s.apertureAt s.msg.addr.toNat (2 ^ s.msg.size.toNat))) := by
  have hd : ¬ (!s.fab.hostDev) = true := by rw [hh]; decide
  have h1 : ¬ s.msg.kind = 1#8 := by rw [hk]; decide
  have h2 : ¬ s.msg.kind = 2#8 := by rw [hk]; decide
  refine finishEvent_ok ?_
  rw [M.get_bind, if_neg hd, if_neg h1, if_neg h2, if_neg (not_not.2 ha), if_neg (by rw [hf]; exact Bool.false_ne_true), if_pos hlt]
  rfl

end

section
variable {s : State} {slot pa n : Nat} {mask : Word} {bs : List Byte}

/-- Byte enables that name the first `n` bytes. -/
theorem getLsbD_firstBytes {n i : Nat} (hn : n ≤ 64) : (BitVec.ofNat 64 (2 ^ n - 1)).getLsbD i = decide (i < n) := by
  rw [BitVec.getLsbD_ofNat, Nat.testBit_two_pow_sub_one]
  by_cases h : i < n
  · simp [h, Nat.lt_of_lt_of_le h hn]
  · simp [h]

theorem State.enabledProtected_iff (hn : n ≤ 64) :
    s.enabledProtected pa (BitVec.ofNat 64 (2 ^ n - 1)) = true ↔ ∃ i, i < n ∧ s.isProtected (pa + i) 1 = true := by
  simp only [State.enabledProtected, getLsbD_firstBytes hn, List.any_eq_true, List.mem_range, Bool.and_eq_true, decide_eq_true_eq]
  exact ⟨fun ⟨i, _, h⟩ => ⟨i, h⟩, fun ⟨i, h⟩ => ⟨i, Nat.lt_of_lt_of_le h.1 hn, h⟩⟩

theorem State.enabledWrite_all (hn : bs.length ≤ 64) :
    s.enabledWrite slot pa (BitVec.ofNat 64 (2 ^ bs.length - 1)) bs = s.engineWrite slot pa bs := by
  refine if_pos (List.all_eq_true.2 fun i hi => ?_)
  rw [getLsbD_firstBytes hn]
  exact decide_eq_true (List.mem_range.1 hi)

theorem State.hostPlace_goes (i : Instr) (g : Nat → Nat → State) (hw : s.engineWaits slot (dieOf (laOf pa)) pa = false) :
    s.hostPlace i n (some (pa, slot)) g = g slot pa := if_neg (by rw [hw]; exact Bool.false_ne_true)

theorem State.hostPlace_waits (i : Instr) (g : Nat → Nat → State) (hw : s.engineWaits slot (dieOf (laOf pa)) pa = true) :
    s.hostPlace i n (some (pa, slot)) g = s.againInOrder isHostAccess (i, s.msg) := if_pos hw

/-- The host reads the bytes of a line that is quiet at its home. -/
theorem QuietHome.hostRead (h : QuietHome s slot pa) (hn : 0 < n) (hl : pa % 64 + n ≤ 64) (hw : s.engineWaits slot (dieOf (laOf pa)) pa = false) :
    s.hostRead n (some (pa, slot)) = s.reply (s.homeBytes slot pa n) false := by
  rw [State.hostRead, State.hostPlace_goes _ _ hw, h.engineReads slot hn hl, h.answerRemote]

theorem State.hostWrite_refused (hn : n ≤ 64) (hw : s.engineWaits slot (dieOf (laOf pa)) pa = false) (hp : ∃ i, i < n ∧ s.isProtected (pa + i) 1 = true) :
    s.hostWrite n (BitVec.ofNat 64 (2 ^ n - 1)) bs (some (pa, slot)) = s.unsupported n := by
  rw [State.hostWrite, State.hostPlace_goes _ _ hw, if_pos ((State.enabledProtected_iff hn).2 hp)]

theorem State.hostWrite_written (hn : n ≤ 64) (hbs : bs.length = n) (hw : s.engineWaits slot (dieOf (laOf pa)) pa = false)
    (hp : ∀ i, i < n → s.isProtected (pa + i) 1 = false) :
    s.hostWrite n (BitVec.ofNat 64 (2 ^ n - 1)) bs (some (pa, slot)) = (s.engineWrite slot pa bs).reply [] false := by
  subst hbs
  have hnot : ¬ s.enabledProtected pa (BitVec.ofNat 64 (2 ^ bs.length - 1)) = true := fun hc => by
    obtain ⟨i, hi, hpi⟩ := (State.enabledProtected_iff hn).1 hc
    rw [hp i hi] at hpi
    exact Bool.false_ne_true hpi
  rw [State.hostWrite, State.hostPlace_goes _ _ hw, if_neg hnot, State.enabledWrite_all hn]

end

/-! ### Requests of other devices (R108) -/

section
variable {s : State}

theorem exec_ualinkRequestIngress (hla : s.msg.addr.toNat < 2 ^ 42) (ha : s.msg.addr.toNat % 64 = 0) (hk : s.msg.kind = 0#8) :
    exec .ualinkRequestIngress s = .next (s.ingress s.msg) := by
  refine finishEvent_ok ?_
  rw [M.get_bind]
  have hok : (decide (s.msg.addr.toNat < 2 ^ 42) && (if s.msg.kind = 2#8 then decide (s.msg.addr.toNat % (if s.msg.flag then 8 else 4) = 0)
      else decide (s.msg.addr.toNat % 64 = 0)) && decide (s.msg.kind.toNat < 3) && (decide (s.msg.kind ≠ 1#8) || decide (s.msg.bytes.length = 64))) = true := by
    rw [decide_eq_true hla, hk]
    simp [ha]
  rw [if_pos hok]
  rfl

variable {m : Msg}

theorem State.ingress_again {r : Saved} (h : s.savedAnswer m.dev (m.unit.setWidth 16) = some r) : s.ingress m =
    s.updFab fun f => { f with answer := { bytes := toBytes 64 r.answer.toNat, poisoned := r.poisoned, refused := r.refused } } := by
  rw [State.ingress]
  dsimp only
  rw [h]

variable (h : s.savedAnswer m.dev (m.unit.setWidth 16) = none)
include h

theorem State.ingress_refused (hn : s.isMember m.dev.toNat = false ∨ s.slotOfTag (m.value2.setWidth 16) = none) :
    s.ingress m = s.refuse.keepAnswer m.dev (m.unit.setWidth 16) := by
  have hslot : (if s.isMember m.dev.toNat then s.slotOfTag (m.value2.setWidth 16) else none) = none := by
    rcases hn with hn | hn
    · rw [hn]; rfl
    · rw [hn, ite_self]
  rw [State.ingress]
  dsimp only
  rw [h, hslot]

variable {n : Nat} (hmem : s.isMember m.dev.toNat = true) (hslot : s.slotOfTag (m.value2.setWidth 16) = some n) (hf : m.flag3 = false)
include hmem hslot hf

theorem State.ingress_held : s.ingress m =
    if s.ingressWaits n m.addr.toNat m then s.againInOrder (· == .ualinkRequestIngress) (.ualinkRequestIngress, m)
    else (s.ingressPerform n m.kind.toNat m.addr.toNat m).keepAnswer m.dev (m.unit.setWidth 16) := by
  have hn : (if s.isMember m.dev.toNat then s.slotOfTag (m.value2.setWidth 16) else none) = some n := by rw [hmem, ← hslot]; rfl
  rw [State.ingress]
  dsimp only
  rw [h, hn]
  dsimp only
  rw [hf]
  rfl

end

theorem laKind_hbm {la : Nat} (h : isHbm la = true) : laKind la = .hbm := if_pos (lt_of_isHbm h)

/-- A read of a line of memory by another device. -/
theorem State.ingressPerform_read {s : State} {n kind la : Nat} {b : List Byte} {p : Bool} (hbm : isHbm la = true) (hk : kind = 0)
    (hr : s.engineReads (n + 1) (dieOf la) (s.ownPa la) 64 = (b, p)) (m : Msg) : s.ingressPerform n kind la m = s.reply b p := by
  -- the `let`s stay: with them gone the kernel would evaluate the discriminant `laKind la`
  rw [State.ingressPerform.eq_def]
  extract_lets slot pa
  rw [laKind_hbm hbm]
  refine (if_pos hk).trans ?_
  rw [show s.engineReads slot (dieOf la) pa 64 = (b, p) from hr]

/-- Another device reads a line that is quiet at its home. -/
theorem QuietHome.ingressPerform {s : State} {n kind la : Nat} (h : QuietHome s (n + 1) (s.ownPa la)) (hbm : isHbm la = true) (ha : la % 64 = 0)
    (hk : kind = 0) (m : Msg) : s.ingressPerform n kind la m = s.reply (s.homeBytes (n + 1) (s.ownPa la) 64) false := by
  have hpa : s.ownPa la % 64 = 0 := by unfold State.ownPa; omega
  have hr := h.engineReads (n + 1) (n := 64) (by decide) (by omega)
  rw [s.laOf_ownPa hbm] at hr
  exact State.ingressPerform_read hbm hk hr m

/-- An answer that was kept is found again, with its time. -/
theorem State.savedAnswer_keepAnswer (s : State) (src : BitVec 10) (rtag : BitVec 16) :
    ((s.keepAnswer src rtag).savedAnswer src rtag).map (·.time) = some s.time := by
  unfold State.savedAnswer State.keepAnswer
  dsimp only [State.updFab]
  rw [List.find?_cons_of_pos (by simp)]
  rfl

/-! ### The domain (R109) -/

theorem exec_domainConfig_ignored {s : State} (h : s.trust.booted = false ∨ ∃ n, n < 8 ∧ (s.ctx n).state = 1#2) : exec .domainConfig s = .next s := by
  refine finishEvent_ok ?_
  rw [M.get_bind, if_pos (by simpa using h)]
  rfl

theorem exec_domainConfig {s : State} (hb : s.trust.booted = true) (hc : ∀ n, n < 8 → (s.ctx n).state ≠ 1#2) : exec .domainConfig s =
    .next (s.domainConfig s.msg.dev s.msg.station.toNat s.msg.value s.msg.flag s.msg.flag2 s.msg.mask) := by
  refine finishEvent_ok ?_
  rw [M.get_bind, if_neg (by simpa [hb] using hc)]
  rfl

/-- What a map gives at a number after some numbers of a list were each set from what they gave. -/
theorem SMap.get_foldl_set {α : Type} {d : α} {c : Nat → Bool} {g : Nat → α → α} {l : List Nat} (hl : l.Nodup) (m : SMap α) (k : Nat) :
    SMap.get d (l.foldl (fun m p => if c p then SMap.set p (g p (SMap.get d m p)) m else m) m) k =
      if k ∈ l ∧ c k = true then g k (SMap.get d m k) else SMap.get d m k := by
  induction l generalizing m with
  | nil => simp
  | cons p l ih =>
    obtain ⟨hp, hl⟩ := List.nodup_cons.1 hl
    rw [List.foldl_cons, ih hl]
    by_cases hk : k = p
    · subst hk
      rw [if_neg fun h => hp h.1]
      by_cases hc : c k = true
      · rw [if_pos hc, SMap.get_set_same, if_pos ⟨List.mem_cons_self, hc⟩]
      · rw [if_neg hc, if_neg fun h => hc h.2]
    · have hget : SMap.get d (if c p then SMap.set p (g p (SMap.get d m p)) m else m) k = SMap.get d m k := by
        split
        · exact SMap.get_set_other _ _ _ _ _ hk
        · rfl
      rw [hget]
      exact if_congr (by simp [hk]) rfl rfl

theorem State.ports_bringUp (s : State) (host cxl : Bool) (links : Word) {p : Nat} (hp : p < 16) : (s.bringUp host cxl links).fab.ports.get .reset p =
    if links.getLsbD p = true then (s.fab.ports.get .reset p).bringUp (isHostPort host p) else s.fab.ports.get .reset p := by
  refine (SMap.get_foldl_set (c := links.getLsbD) (g := fun p x => x.bringUp (isHostPort host p)) List.nodup_range s.fab.ports p).trans ?_
  exact if_congr (by simp [hp]) rfl rfl

/-! ### Event queues (R259, R260) -/

theorem exec_eqheadWrite {s : State} (h : s.msg.unit.toNat < 2) : exec .eqheadWrite s = .next (s.eqheadWrite s.msg.unit.toNat s.msg.value) := by
  refine finishEvent_ok ?_
  rw [M.get_bind, if_pos h]
  rfl

/-- Room in a queue lets held records enter. -/
theorem State.eqheadWrite_moves {s : State} {i : Nat} {v : Word} (h : v.toNat ≤ (s.evQueue i).tail.toNat) : s.eqheadWrite i v =
    (s.setEvQueue i { s.evQueue i with head := v }).after
      (((List.range 10).filter fun k => decide (iodOfSource k = i)).map fun k => (.eventAccept, { unit := BitVec.ofNat 32 k })) :=
  if_neg (Nat.not_lt.2 h)

theorem exec_eventAccept {s : State} (h : s.msg.unit.toNat < 10) : exec .eventAccept s = .next (s.acceptNext s.msg.unit.toNat) := by
  refine finishEvent_ok ?_
  rw [M.get_bind, if_pos h]
  rfl

/-- Harts that are freed one after another. -/
def State.freeHarts (s : State) (l : List Nat) : State := l.foldl (fun s h => s.updHartN h fun x => { x with phase := .idle }) s

theorem State.freeHarts_frame (s : State) (l : List Nat) : (s.freeHarts l).disp = s.disp ∧ (s.freeHarts l).m = s.m :=
  Inv.foldl (P := fun t => t.disp = s.disp ∧ t.m = s.m) ⟨rfl, rfl⟩ fun t ht h => by rw [State.updHartN_disp, State.updHartN_m]; exact ht

theorem State.phase_freeHarts {s : State} {l : List Nat} {h : Nat} (hh : h ∈ l ∨ (s.getHart h).phase = .idle) :
    ((s.freeHarts l).getHart h).phase = .idle := by
  induction l generalizing s with
  | nil => exact hh.resolve_left List.not_mem_nil
  | cons a l ih =>
    refine ih (s := s.updHartN a fun x => { x with phase := .idle }) ?_
    rw [State.getHart_updHartN]
    by_cases ha : h = a
    · rw [if_pos ha]
      exact .inr rfl
    · rw [if_neg ha]
      exact hh.imp_left fun hm => (List.mem_cons.1 hm).resolve_left ha

theorem State.placeAgain_eq (s : State) : ∃ l, s.placeAgain = s.after l := by
  unfold State.placeAgain
  split
  · exact ⟨[], by rw [State.after, List.append_nil]⟩
  · exact ⟨_, rfl⟩

section
variable (s : State) (src : Nat) (r : EvRec)

/-- The harts that a record stands for. -/
def State.stopped : List Nat := s.hartIds.filter fun h => (s.getHart h).stoppedBy src r

/-- The same state, where the images of contexts no longer hold them. -/
def State.unsaved : State := s.updDisp fun d =>
  { d with saved := d.saved.map fun x => (x.1, { x.2 with harts := x.2.harts.filter fun y => !y.hart.stoppedBy src r }) }

theorem State.freeStopped_eq : ∃ l, s.freeStopped src r = ((s.unsaved src r).freeHarts (s.stopped src r)).after l := by
  unfold State.freeStopped
  dsimp only
  split
  · next h =>
    refine ⟨[], ?_⟩
    rw [State.stopped, List.isEmpty_iff.1 h, State.after, List.append_nil]
    rfl
  · exact State.placeAgain_eq _

theorem State.freeStopped_frame : (s.freeStopped src r).disp.evq = s.disp.evq ∧ (s.freeStopped src r).disp.evs = s.disp.evs ∧ (s.freeStopped src r).m = s.m := by
  obtain ⟨l, h⟩ := s.freeStopped_eq src r
  obtain ⟨hd, hm⟩ := (s.unsaved src r).freeHarts_frame (s.stopped src r)
  rw [h]
  exact ⟨(congrArg DispatchState.evq hd :), (congrArg DispatchState.evs hd :), hm⟩

variable {s src r}

theorem State.phase_freeStopped {h : Nat} (hh : h ∈ s.hartIds) (hs : (s.getHart h).stoppedBy src r = true) :
    ((s.freeStopped src r).getHart h).phase = .idle := by
  obtain ⟨l, he⟩ := s.freeStopped_eq src r
  rw [he]
  exact State.phase_freeHarts (s := s.unsaved src r) (.inl (List.mem_filter.2 ⟨hh, hs⟩))

/-- A record of another kind stands for no hart. -/
theorem State.sameHarts_freeStopped (hk : r.kind ≠ 1#8) : SameHarts s (s.freeStopped src r) := by
  obtain ⟨l, he⟩ := s.freeStopped_eq src r
  have hnone : s.stopped src r = [] := by simp [State.stopped, Hart.stoppedBy, hk]
  rw [he, hnone]
  exact ⟨rfl, rfl, rfl⟩

end

section
variable {s : State} {src : Nat} {r : EvRec} {l : List EvRec}

/-- The oldest held record enters its queue. -/
theorem State.eventAccept_moves (hr : (s.evSource src).hold = r :: l) (hs : (s.evSource src).spill = []) (hq : (s.evQueue (iodOfSource src)).full = false)
    (hd : s.dieHeld (8 + iodOfSource src) = false) : s.eventAccept src =
      ((s.setEvQueue (iodOfSource src) ((s.evQueue (iodOfSource src)).put r)).freeStopped src r).setEvSource src { s.evSource src with hold := l } := by
  rw [State.eventAccept]
  dsimp only
  rw [hr]
  dsimp only
  rw [if_neg (by rw [hq, hd]; decide), hs]

theorem State.acceptNext_eq (s : State) (src : Nat) : ∃ l, s.acceptNext src = (s.eventAccept src).after l := by
  unfold State.acceptNext
  dsimp only
  split
  · exact ⟨[], by rw [State.after, List.append_nil]⟩
  · exact ⟨_, rfl⟩

end

/-! ### Register writes (R16, R55) -/

/-- The local address of HCERR of a channel. -/
def hcerrLa (die ch : Nat) : Nat := 0x30000000000 + die * 0x1000000 + 0x100000 + ch * 0x100 + 8

theorem laKind_control {la : Nat} (hlo : 0x30000000000 ≤ la) (hhi : la < 0x3F000000000) : laKind la = .control := by
  rw [laKind, if_neg (by omega), if_neg (by omega), if_neg (by omega), if_neg (by omega), if_neg (by omega), if_neg (by omega), if_pos hhi]

theorem State.ctlWrite_hcerr (s : State) {die ch : Nat} (hd : die < 8) (hc : ch < 32) (v w : Word) : s.ctlWrite (hcerrLa die ch) v w =
    s.setChannel (die * 32 + ch) { s.channel (die * 32 + ch) with
      last := v.extractLsb' 40 20, trans := v.extractLsb' 20 20, corr := v.extractLsb' 0 20 } := by
  have ho : hcerrLa die ch / 8 * 8 - 0x30000000000 = die * 0x1000000 + (0x100000 + ch * 0x100 + 8) := by unfold hcerrLa; omega
  have hmod : (die * 0x1000000 + (0x100000 + ch * 0x100 + 8)) % 0x1000000 = 0x100000 + ch * 0x100 + 8 := by omega
  have hdiv : (die * 0x1000000 + (0x100000 + ch * 0x100 + 8)) / 0x1000000 = die := by omega
  have hkey : (0x100000 + ch * 0x100 + 8 - 0x100000) / 0x100 = ch := by omega
  have hofs : (0x100000 + ch * 0x100 + 8) % 0x100 = 8 := by omega
  rw [State.ctlWrite]
  dsimp only
  rw [ho, if_pos (by omega), hmod, if_pos (by omega), hdiv, hkey, hofs]
  rfl

theorem exec_registerWrite {s : State} (hk : laKind s.msg.addr.toNat = .control) (ha : s.msg.addr.toNat % 8 = 0) :
    exec .registerWrite s = .next (s.ctlWrite s.msg.addr.toNat s.msg.value s.msg.value) := by
  refine finishEvent_ok ?_
  rw [M.get_bind, if_pos ⟨hk, ha⟩]
  rfl

theorem exec_registerWrite_ignored {s : State} (h : laKind s.msg.addr.toNat ≠ .control ∨ s.msg.addr.toNat % 8 ≠ 0) : exec .registerWrite s = .next s := by
  refine finishEvent_ok ?_
  rw [M.get_bind, if_neg (by tauto)]
  rfl

/-! ### What the steps of the domain, the queues and the registers leave -/

section
variable {s : State} {src : Nat} {r : EvRec} {l : List EvRec} (hr : (s.evSource src).hold = r :: l) (hs : (s.evSource src).spill = [])
  (hq : (s.evQueue (iodOfSource src)).full = false) (hd : s.dieHeld (8 + iodOfSource src) = false)
include hr hs hq hd

/-- The step that accepts a record: the queue takes it, its source holds the rest. -/
theorem State.acceptNext_moves : (s.acceptNext src).evQueue (iodOfSource src) = (s.evQueue (iodOfSource src)).put r ∧
    ((s.acceptNext src).evSource src).hold = l ∧ (s.acceptNext src).m = s.m ∧ (r.kind ≠ 1#8 → SameHarts s (s.acceptNext src)) ∧
    ∀ h ∈ s.hartIds, (s.getHart h).stoppedBy src r = true → ((s.acceptNext src).getHart h).phase = .idle := by
  obtain ⟨k, hk⟩ := s.acceptNext_eq src
  rw [hk, State.eventAccept_moves hr hs hq hd]
  generalize hu : s.setEvQueue (iodOfSource src) ((s.evQueue (iodOfSource src)).put r) = u
  obtain ⟨hevq, -, hm⟩ := u.freeStopped_frame src r
  refine ⟨?_, ?_, ?_, fun hkind => ?_, fun h hh hst => ?_⟩
  · refine (congrArg (SMap.get EvQueue.reset · (iodOfSource src)) hevq :).trans ?_
    rw [← hu]
    exact SMap.get_set_same ..
  · exact congrArg EvSource.hold (SMap.get_set_same ..)
  · refine hm.trans ?_
    rw [← hu]
    rfl
  · subst hu
    exact State.sameHarts_freeStopped (s := s.setEvQueue ..) hkind
  · subst hu
    exact State.phase_freeStopped (s := s.setEvQueue ..) hh hst

end

theorem State.fab_domainConfig (s : State) (dev : BitVec 10) (k : Nat) (mem : Word) (host cxl : Bool) (links : Word) :
    let u := if s.fab.devValid then s else s.bringUp host cxl links
    (s.domainConfig dev k mem host cxl links).fab =
      { u.fab with devValid := true, dev := if s.fab.devValid then s.fab.dev else dev, members := s.fab.members.set k mem } := by
  rw [State.domainConfig]
  cases hv : s.fab.devValid <;> simp only [State.updFab, State.bringUp, hv, if_true, Bool.false_eq_true, if_false]

theorem State.domainConfig_frame (s : State) (dev : BitVec 10) (k : Nat) (mem : Word) (host cxl : Bool) (links : Word) :
    SameHarts s (s.domainConfig dev k mem host cxl links) ∧ (s.domainConfig dev k mem host cxl links).m = s.m := by
  unfold State.domainConfig
  dsimp only
  split <;> exact ⟨⟨rfl, rfl, rfl⟩, rfl⟩

/-- A port of the host's link, or one of a UALink plane, comes up. -/
theorem Port.bringUp_host (x : Port) (host : Bool) (p : Nat) : x.bringUp (isHostPort host p) =
    { x with mode := (if host = true ∧ 4 ≤ p ∧ p < 8 then 2#4 else 1#4), inuse := !(host && decide (4 ≤ p ∧ p < 8)), failed := false } := by
  have hlink : isHostPort host p = (host && decide (4 ≤ p ∧ p < 8)) := by rw [isHostPort, Bool.decide_and, Bool.and_assoc]
  rw [hlink, Port.bringUp]
  simp only [Bool.and_eq_true, decide_eq_true_eq]

/-! ### Apertures (R113) -/

/-- An aperture with the fields that a write of HAPCTL names. -/
def Aperture.written (a : Aperture) (v : Word) : Aperture := { a with err := a.err && !v.getLsbD 7, sync := v.getLsbD 4, key := v.setWidth 4 }

/-- What an aperture is after a write of HAPCTL: as written, or with ERR alone. -/
def State.hapctlResult (s : State) (n : Nat) (v : Word) : Aperture :=
  let a := s.fab.apertures.get .reset n
  if s.apertureOk n (a.written v) then a.written v else { a with err := true }

theorem State.hapctlWrite_eq (s : State) (n : Nat) (v : Word) :
    s.hapctlWrite n v v = s.updFab fun f => { f with apertures := f.apertures.set n (s.hapctlResult n v) } := by
  have hkey : v.extractLsb' 0 4 = v.setWidth 4 := (BitVec.setWidth_eq_extractLsb' (by decide)).symm
  rw [State.hapctlWrite, hkey]
  rfl

theorem ends_hapctlWrite {s : State} {a : Aperture} (ha : s.hapctlResult (s.msg.unit.toNat % 32) s.msg.value = a) : Ends .hapctlWrite s fun t =>
    t.fab.apertures.get .reset (s.msg.unit.toNat % 32) = a ∧
      (∀ m, m ≠ s.msg.unit.toNat % 32 → t.fab.apertures.get .reset m = s.fab.apertures.get .reset m) ∧ t.m = s.m := by
  refine ⟨_, congrArg Host.Outcome.next (s.hapctlWrite_eq _ _), ?_, fun m hm => ?_, rfl⟩
  · exact (SMap.get_set_same ..).trans ha
  · exact SMap.get_set_other _ _ _ _ _ hm

/-! ### The obligation -/

/-- Settles O52: each step is an equation of the state operation behind it, and what an engine reads and writes of a quiet line is that of its home. -/
theorem hostAndRemoteRequests : Obligations.HostAndRemoteRequests := by
  unfold Obligations.HostAndRemoteRequests
  refine ⟨fun s => ?host, fun s => ?devices, fun s => ?apertures, fun s => ?others⟩
  case host =>
    intro ofs n
    have hn : 0 < n ∧ n ≤ 64 := by
      have hsize : s.msg.size.toNat < 4 := s.msg.size.isLt
      exact ⟨Nat.two_pow_pos _, (Nat.pow_le_pow_right (by decide) (show s.msg.size.toNat ≤ 6 by omega) : _ ≤ 2 ^ 6)⟩
    obtain ⟨hpos, h64⟩ := hn
    refine ⟨hostAccess_elsewhere, hostAccess_misaligned, fun hh hk ha hlt hf => ?_⟩
    have hread := exec_hostRead_bar2 hk hh ha hlt hf
    have hwrite := exec_hostWrite_bar2 hk hh ha hlt hf
    refine ⟨fun hno => ⟨?_, ?_⟩, fun pa slot hap hw => ⟨?_, ?_⟩, fun pa slot hap hw hp => ?_, fun pa slot hap hw hq hl => ⟨?_, fun hp => ?_⟩⟩
    · rw [hno] at hread
      exact ⟨_, hread, rfl, rfl, ⟨rfl, rfl, rfl⟩⟩
    · rw [hno] at hwrite
      exact ⟨_, hwrite, rfl, rfl, ⟨rfl, rfl, rfl⟩⟩
    · rw [hread, hap]
      exact congrArg Host.Outcome.next (State.hostPlace_waits _ _ hw)
    · rw [hwrite, hap]
      exact congrArg Host.Outcome.next (State.hostPlace_waits _ _ hw)
    · rw [hap, State.hostWrite_refused h64 hw hp] at hwrite
      exact ⟨_, hwrite, rfl, rfl, ⟨rfl, rfl, rfl⟩⟩
    · rw [hap, hq.hostRead hpos hl hw] at hread
      exact ⟨_, hread, rfl, rfl, ⟨rfl, rfl, rfl⟩⟩
    · rw [hap, State.hostWrite_written h64 (toBytes_length ..) hw hp] at hwrite
      obtain ⟨hbytes, hharts, hmem⟩ := hq.engineWrite (bs := toBytes n s.msg.value.toNat) (by rw [toBytes_length]; exact hl)
      rw [toBytes_length] at hbytes hmem
      exact ⟨_, hwrite, rfl, ((State.SameHome.inv _).reply (.refl _)).homeBytes .. |>.trans hbytes, hharts, hmem⟩
  case devices =>
    intro la tag hla ha hk
    have hin := exec_ualinkRequestIngress hla ha hk
    refine ⟨fun r hr => ?_, fun hno hn => ?_, fun n hno hmem hslot hbm hf hw => ?_, fun n hno hmem hslot hbm hf hw hq => ?_⟩
    · rw [State.ingress_again hr] at hin
      exact ⟨_, hin, rfl, rfl, ⟨rfl, rfl, rfl⟩⟩
    · rw [State.ingress_refused hno hn] at hin
      exact ⟨_, hin, rfl, rfl, ⟨rfl, rfl, rfl⟩⟩
    · rw [hin, State.ingress_held hno hmem hslot hf, if_pos hw]
    · rw [State.ingress_held hno hmem hslot hf, if_neg (by rw [hw]; exact Bool.false_ne_true), hq.ingressPerform hbm ha (by rw [hk]; rfl)] at hin
      exact ⟨_, hin, rfl, rfl, ⟨rfl, rfl, rfl⟩, State.savedAnswer_keepAnswer ..⟩
  case apertures =>
    intro n a b
    exact ⟨fun hok => ends_hapctlWrite (if_pos hok), fun hok => ends_hapctlWrite (if_neg fun h => Bool.false_ne_true (hok.symm.trans h))⟩
  case others =>
    refine ⟨exec_domainConfig_ignored, fun hb hc => ⟨_, exec_domainConfig hb hc, ?_⟩, fun hu => ⟨fun hv => ?_, fun hv => ⟨_, exec_eqheadWrite hu, ?_⟩⟩,
      fun src r l hsrc h10 hr hs hq hd => ?_, exec_registerWrite_ignored, fun die ch hd hc hla => ?_⟩
    · obtain ⟨hharts, hm⟩ := s.domainConfig_frame s.msg.dev s.msg.station.toNat s.msg.value s.msg.flag s.msg.flag2 s.msg.mask
      rw [State.fab_domainConfig]
      refine ⟨rfl, rfl, SMap.get_set_same .., fun k hk => SMap.get_set_other _ _ _ _ _ hk, fun hv => ?_, fun hv => ?_, hharts, hm⟩
      · rw [hv]
        exact ⟨rfl, rfl⟩
      · rw [hv]
        refine ⟨rfl, fun p hp => ?_⟩
        rw [← Port.bringUp_host]
        exact s.ports_bringUp _ s.msg.flag2 _ hp
    · exact (exec_eqheadWrite hu).trans (congrArg Host.Outcome.next (if_pos hv))
    · rw [State.eqheadWrite_moves hv]
      refine ⟨SMap.get_set_same .., fun k hk hi => List.mem_append_right _ (List.mem_map.2 ⟨k, ?_, rfl⟩), ⟨rfl, rfl, rfl⟩, rfl⟩
      exact List.mem_filter.2 ⟨List.mem_range.2 hk, decide_eq_true hi⟩
    · subst hsrc
      obtain ⟨hevq, hhold, hm, hharts, hidle⟩ := State.acceptNext_moves hr hs hq hd
      refine ⟨_, exec_eventAccept h10, ?_, ?_, ?_, hhold, hm, hharts, hidle⟩
      · rw [hevq]
        rfl
      · rw [hevq]
        rfl
      · rw [hevq]
        exact SMap.find?_set_same ..
    · have hla : s.msg.addr.toNat = hcerrLa die ch := hla
      have hctl : laKind s.msg.addr.toNat = .control := laKind_control (by rw [hla, hcerrLa]; omega) (by rw [hla, hcerrLa]; omega)
      refine ⟨_, exec_registerWrite hctl (by rw [hla, hcerrLa]; omega), ?_⟩
      rw [hla, State.ctlWrite_hcerr s hd hc]
      exact ⟨State.channel_setChannel_same .., fun k hk => State.channel_setChannel_other _ _ _ _ hk, ⟨rfl, rfl, rfl⟩, rfl⟩

end Sys2Proof.Machine
end

section
/-! SUPPORT. Reads and writes of a word at a quiet home (spec/05 R134, R135, R139): what they give, and that they leave every hart, the fabric and all
of the home slice but its lines. -/
namespace Sys2Proof.Machine
set_option Elab.async false

/-! ### Bytes of other lines -/

theorem SMap.find?_set_other {α : Type} (m : SMap α) {n k : Nat} (v : α) (h : k ≠ n) :
    (SMap.set n v m).find? (fun x => decide (x.1 = k)) = m.find? fun x => decide (x.1 = k) := by
  induction m with
  | nil => simp [SMap.set, Ne.symm h]
  | cons y m ih =>
    obtain ⟨j, w⟩ := y
    unfold SMap.set
    split
    · next e =>
      subst e
      simp [Ne.symm h]
    · split
      · simp [List.find?_cons, Ne.symm h]
      · simp only [List.find?_cons, ih]

/-- Bytes written to a line of HBM leave what every other line reads. -/
theorem State.homeByte_homeStore_other {s : State} {slot slot' pa a : Nat} {bs : List Byte} (hwf : Mem.wf s.m.mem = true) (hbm : isHbm (laOf pa) = true)
    (hl : pa % 64 + bs.length ≤ 64) (hline : a / 64 ≠ pa / 64) : (s.homeStore slot pa bs).homeByte slot' a = s.homeByte slot' a := by
  have hk : s.SameHome (s.keepUnder (pa / 64)) := (State.SameHome.inv s).keepUnder (.refl s)
  rw [← hk.homeByte slot' a]
  have hwf' : Mem.wf (s.keepUnder (pa / 64)).m.mem = true := by rw [hk.mem]; exact hwf
  unfold State.homeStore
  rw [if_pos hbm]
  extract_lets ln u r k r' base
  rw [show s.keepUnder (pa / 64) = u from rfl] at hwf' ⊢
  clear_value u
  have hread : Mem.read (Mem.writes pa bs base) a = Mem.read u.m.mem a := by
    have hout : ¬ (pa ≤ a ∧ a < pa + bs.length) := by omega
    unfold base
    split
    · rw [Mem.read_writes hwf', if_neg hout]
    · rw [Mem.read_writes (Mem.wf_drop hwf'), if_neg hout, Mem.read_drop hwf', if_neg (by omega)]
  generalize ht : State.updMem u _ = t
  have hlk : t.lineKey (a / 64) = u.lineKey (a / 64) := by
    rw [← ht]
    simp only [State.lineKey, State.updMem]
    rw [SMap.find?_set_other _ _ hline]
  have hkey : t.keyAt slot' a = u.keyAt slot' a := by rw [← ht]; rfl
  have hmem : Mem.read t.m.mem a = Mem.read u.m.mem a := by rw [← ht]; exact hread
  have hscrubs : t.m.scrubs = u.m.scrubs := by rw [← ht]; rfl
  have hfab : t.fab = u.fab := by rw [← ht]; rfl
  have htick : t.tick = u.tick := by rw [← ht]; rfl
  simp only [State.homeByte, State.hbmByte, hlk, hkey, hmem, hscrubs, hfab, htick]

/-! ### What an access at a quiet home leaves -/

/-- An access to the line of `pa` at its home has changed no hart, nothing of the fabric and no message, and of the home slice only its lines, of
which it has left one. -/
structure State.AtHome (s t : State) (pa : Nat) : Prop where
  harts : SameHarts s t
  fab : t.fab = s.fab
  inbox : t.inbox = s.inbox
  msg : t.msg = s.msg
  agents : t.m.agentWatches = s.m.agentWatches
  slice : ∃ x : SliceLine, x.line = pa / 64 ∧ x.rlc = false ∧ t.slice (s.homeKey pa) = { s.slice (s.homeKey pa) with lines := [x] }

theorem State.openRow_frame (s : State) (pa : Nat) : ∃ c, s.openRow pa = s.updMem fun m => { m with channels := c } := by
  unfold State.openRow
  split
  · exact ⟨_, rfl⟩
  · exact ⟨s.m.channels, rfl⟩

section
variable {s : State} {slot pa : Nat} (q : QuietHome s slot pa)
include q

theorem QuietHome.isRemote_eq : s.isRemote pa = false := by
  obtain ⟨-, -, hdev, -⟩ := q
  simp [State.isRemote, hdev]

/-- A read of bytes of a quiet line at its home gives the bytes there, and allocates the line in its slice. -/
theorem QuietHome.homeTake (slot' n : Nat) :
    ∃ t, s.homeTake slot' pa n = (t, s.homeBytes slot' pa n, false) ∧ s.AtHome t pa ∧ s.SameHome t := by
  have hline : pa / 64 * 64 / 64 = pa / 64 := Nat.mul_div_cancel _ (by decide)
  have hkey : s.homeKey (pa / 64 * 64) = s.homeKey pa := State.homeKey_line hline s
  have htake := q.takeAll slot' (wordMask (pa % 64) n) 0xFFFF#16
  have hlines := q.atLine.noLines
  have hpsn : s.isPoisoned (pa / 64) = false := by
    obtain ⟨-, -, -, -, -, -, -, -, hp, -⟩ := q
    exact hp
  rw [hkey] at htake hlines
  obtain ⟨c, hc⟩ := (s.setSlice (s.homeKey pa) (s.slice (s.homeKey pa))).openRow_frame (pa / 64 * 64)
  let u := (s.setSlice (s.homeKey pa) (s.slice (s.homeKey pa))).updMem fun m => { m with channels := c }
  let x := SliceLine.plain (pa / 64) false 0xFFFF#16 0#16 (u.isPoisoned (pa / 64) && 0#16 != 0xFFFF#16) []
  have hul : (u.slice (s.homeKey pa)).lines = [] := (congrArg SliceState.lines (State.slice_setSlice_same ..)).trans hlines
  have htouch : (s.setSlice (s.homeKey pa) (s.slice (s.homeKey pa))).homeTouch slot' (pa / 64) 0#16 = u.sliceAdd (s.homeKey pa) x := by
    have hrem : (s.setSlice (s.homeKey pa) (s.slice (s.homeKey pa))).answerRemote slot' (pa / 64) =
        s.setSlice (s.homeKey pa) (s.slice (s.homeKey pa)) := if_pos (by
      rw [show (s.setSlice (s.homeKey pa) (s.slice (s.homeKey pa))).isRemote (pa / 64 * 64) = false from q.not_remote]
      rfl)
    unfold State.homeTouch
    rw [hrem]
    dsimp only
    rw [State.homeKey_setSlice, hkey, State.slice_setSlice_same, hlines]
    dsimp only [sliceFind, List.find?_nil]
    rw [beq_self_eq_true, if_pos rfl, if_pos rfl, hc]
    exact State.sliceAlloc_empty hul slot' x
  have hhome : s.SameHome (u.sliceAdd (s.homeKey pa) x) := (State.SameHome.refl s).of_m
  refine ⟨u.sliceAdd (s.homeKey pa) x, ?_, ⟨⟨rfl, rfl, rfl⟩, rfl, rfl, rfl, rfl, x, rfl, rfl, ?_⟩, hhome⟩
  · unfold State.homeTake
    dsimp only
    rw [htake, htouch, hhome.homeBytes]
    exact congrArg (fun b => (_, _, b)) hpsn
  · unfold State.sliceAdd
    rw [State.slice_setSlice_same, hul]
    exact congrArg (fun y : SliceState => { y with lines := [x] }) (State.slice_setSlice_same ..)

end

/-- Bytes put at home in a line that its slice holds: the line keeps its place, the bytes are stored and no watch fires. -/
theorem State.homePut_held {t : State} {slot pa : Nat} {bs : List Byte} {x : SliceLine} (hm : wordMask (pa % 64) bs.length ≠ 0#16)
    (hr : t.isRemote (pa / 64 * 64) = false) (hl : (t.slice (t.homeKey pa)).lines = [x]) (hln : x.line = pa / 64) (hrlc : x.rlc = false)
    (ha : t.m.agentWatches = []) (hw : (t.slice (t.homeKey pa)).watches = []) :
    ∃ y : SliceLine, y.line = x.line ∧ y.rlc = x.rlc ∧
      t.homePut slot pa bs = (t.setSlice (t.homeKey pa) { t.slice (t.homeKey pa) with lines := [y] }).homeStore slot pa bs := by
  have hline : pa / 64 * 64 / 64 = pa / 64 := Nat.mul_div_cancel _ (by decide)
  have hkey : t.homeKey (pa / 64 * 64) = t.homeKey pa := State.homeKey_line hline t
  have hrem : t.answerRemote slot (pa / 64) = t := if_pos (by rw [hr]; rfl)
  have hreads : (wordMask (pa % 64) bs.length == 0#16) = false := beq_eq_false_iff_ne.2 hm
  have hfind : sliceFind (pa / 64) false [x] = some x := by simp [sliceFind, hln, hrlc]
  obtain ⟨y, hyl, hyr, hy⟩ : ∃ y : SliceLine, y.line = x.line ∧ y.rlc = x.rlc ∧
      t.homeTouch slot (pa / 64) (wordMask (pa % 64) bs.length) = t.setSlice (t.homeKey pa) { t.slice (t.homeKey pa) with lines := [y] } := by
    unfold State.homeTouch
    rw [hrem]
    dsimp only
    rw [hkey, hl, hfind]
    dsimp only
    rw [hreads]
    refine ⟨{ x with wv := x.wv ||| wordMask (pa % 64) bs.length, wd := x.wd ||| wordMask (pa % 64) bs.length
                     psn := (x.psn || t.isPoisoned (pa / 64)) && wordMask (pa % 64) bs.length != 0xFFFF#16 }, rfl, rfl, ?_⟩
    simp only [Bool.false_and, Bool.false_eq_true, if_false]
    refine congrArg (fun l => t.setSlice (t.homeKey pa) { t.slice (t.homeKey pa) with lines := l }) ?_
    simp [slicePut]
  refine ⟨y, hyl, hyr, ?_⟩
  unfold State.homePut
  rw [hy]
  obtain ⟨-, hslices, hagents⟩ := (t.setSlice (t.homeKey pa) { t.slice (t.homeKey pa) with lines := [y] }).homeStore_frame slot pa bs
  refine State.fireWatches_none _ (by rw [hagents]; exact ha) ?_
  rw [State.homeKey_congr (State.homeStore_fab ..), State.homeKey_setSlice, State.slice, hslices, ← State.slice, State.slice_setSlice_same]
  exact hw

/-- A mask of at least one byte of a line names a word. -/
theorem wordMask_ne_zero {o n : Nat} (ho : o < 64) (hn : 0 < n) : wordMask o n ≠ 0#16 := fun h => by
  have hb : bitAt (wordMask o n) (o / 4) = true := by
    rw [bitAt_wordMask (by omega)]
    exact decide_eq_true (by omega)
  rw [h] at hb
  simp [bitAt] at hb

theorem State.homeStore_messages (s : State) (slot pa : Nat) (bs : List Byte) :
    (s.homeStore slot pa bs).inbox = s.inbox ∧ (s.homeStore slot pa bs).msg = s.msg := by
  unfold State.homeStore
  split
  · obtain ⟨v, hv⟩ := s.keepUnder_eq (pa / 64)
    dsimp only
    rw [hv]
    exact ⟨rfl, rfl⟩
  · exact ⟨rfl, rfl⟩

section
variable {s t : State} {slot pa a' : Nat} {bs : List Byte} (q : QuietHome s slot pa) (h : s.AtHome t pa) (hs : s.SameHome t)
  (hline : a' / 64 = pa / 64) (hl : a' % 64 + bs.length ≤ 64) (hn : 0 < bs.length)
include q h hs hline hl hn

/-- A write of bytes of a quiet line that was read there first: the bytes stand at home, and no other byte of memory changes. -/
theorem QuietHome.homePut : s.AtHome (t.homePut slot a' bs) pa ∧
    (∀ a, (t.homePut slot a' bs).homeByte slot a = if a' ≤ a ∧ a < a' + bs.length then bs.getD (a - a') 0#8 else s.homeByte slot a) ∧
    ∀ a, ¬ (a' ≤ a ∧ a < a' + bs.length) → Mem.read (t.homePut slot a' bs).m.mem a = Mem.read s.m.mem a := by
  obtain ⟨hharts, hfab, hinbox, hmsg, hagents, x, hxl, hxr, hx⟩ := h
  obtain ⟨hwf, hbm, hdev, hlk, -, -, hwatch, hag, -, -⟩ := id q
  have hkey : t.homeKey a' = s.homeKey pa := by rw [State.homeKey_congr hfab, State.homeKey_line hline]
  have hbm' : isHbm (laOf a') = true := by rw [isHbm_line hline, hbm]
  have hdev' : devOf a' = s.fab.dev.toNat := by rw [devOf_line hline, hdev]
  have hr : t.isRemote (a' / 64 * 64) = false := by
    rw [State.isRemote, hfab, hline]
    exact q.not_remote
  obtain ⟨y, hyl, hyr, hput⟩ := State.homePut_held (slot := slot) (wordMask_ne_zero (Nat.mod_lt _ (by decide)) hn) hr (by rw [hkey, hx]) (hxl.trans hline.symm) hxr
    (hagents.trans hag) (by rw [hkey, hx]; exact hwatch)
  rw [hput, hkey]
  have hu : s.SameHome (t.setSlice (s.homeKey pa) { t.slice (s.homeKey pa) with lines := [y] }) := (State.SameHome.inv s).setSlice hs
  have huh : SameHarts s (t.setSlice (s.homeKey pa) { t.slice (s.homeKey pa) with lines := [y] }) := hharts
  have hui : (t.setSlice (s.homeKey pa) { t.slice (s.homeKey pa) with lines := [y] }).inbox = s.inbox := hinbox
  have hum : (t.setSlice (s.homeKey pa) { t.slice (s.homeKey pa) with lines := [y] }).msg = s.msg := hmsg
  have huf : (t.setSlice (s.homeKey pa) { t.slice (s.homeKey pa) with lines := [y] }).fab = s.fab := hfab
  have hua : (t.setSlice (s.homeKey pa) { t.slice (s.homeKey pa) with lines := [y] }).m.agentWatches = s.m.agentWatches := hagents
  have hus : (t.setSlice (s.homeKey pa) { t.slice (s.homeKey pa) with lines := [y] }).slice (s.homeKey pa) = { s.slice (s.homeKey pa) with lines := [y] } := by
    rw [State.slice_setSlice_same, hx]
  generalize t.setSlice (s.homeKey pa) { t.slice (s.homeKey pa) with lines := [y] } = u at hu huh hui hum huf hua hus
  obtain ⟨⟨g1, g2, g3⟩, hslices, hga⟩ := u.homeStore_frame slot a' bs
  obtain ⟨hi, hm⟩ := u.homeStore_messages slot a' bs
  obtain ⟨h1, h2, h3⟩ := huh
  have hwfu : Mem.wf u.m.mem = true := by rw [hu.mem, hwf]
  refine ⟨⟨⟨g1.trans h1, g2.trans h2, g3.trans h3⟩, (State.homeStore_fab ..).trans huf, hi.trans hui, hm.trans hum, hga.trans hua,
    y, hyl.trans hxl, hyr.trans hxr, ?_⟩, fun a => ?_, fun a hout => ?_⟩
  · rw [State.slice, hslices]
    exact hus
  · rw [← hu.homeByte slot a]
    by_cases hal : a / 64 = a' / 64
    · exact State.homeByte_homeStore hwfu hbm' (by rw [hu.dev, hdev']) hal
    · rw [State.homeByte_homeStore_other hwfu hbm' hl hal, if_neg (by omega)]
  · rw [State.mem_homeStore hbm' (by rw [hu.lineKey, hu.keyAt, hline, State.keyAt_line hline, hlk]), Mem.read_writes hwfu, if_neg hout, hu.mem]

theorem QuietHome.homeBytes_homePut : (t.homePut slot a' bs).homeBytes slot a' bs.length = bs := by
  obtain ⟨-, hb, -⟩ := q.homePut h hs hline hl hn
  refine List.ext_getElem? fun j => ?_
  by_cases hj : j < bs.length
  · rw [State.getElem?_homeBytes _ _ _ hj, hb, if_pos (by omega), Nat.add_sub_cancel_left, List.getD_eq_getElem _ _ hj, List.getElem?_eq_getElem hj]
  · rw [List.getElem?_eq_none (by simp; omega), List.getElem?_eq_none (by omega)]

end

end Sys2Proof.Machine
end

section
/-! PROOF. O21: acquires, releases, fences, own and disown (spec/05 R123, R124, R130, R131, spec/13 R336, R337). -/
namespace Sys2Proof.Machine
set_option Elab.async false

/-! ### Acquires (R123, R124) -/

theorem waitEntries_of_idle {s : State} (h : Idle s) (p : QEntry → Bool) : waitEntries p s = .ok () s := by
  rw [waitEntries, M.get_bind, s.ahead_of_idle h]
  rfl

theorem doAcquire_of_idle {s : State} (h : Idle s) (scope : BitVec 2) (regions : BitVec 16) :
    doAcquire scope regions s = .ok () (s.acquire s.cur scope regions) := by
  obtain ⟨-, -, -, hacq⟩ := id h
  rw [doAcquire, M.bind_ok (waitEntries_of_idle h _), M.get_bind, if_pos hacq]
  rfl

theorem doRelease_of_idle {s : State} (h : Idle s) {scope : BitVec 2} {regions : BitVec 16} (hw : s.releaseWaits s.cur scope regions = none) :
    doRelease scope regions s = .ok () (s.release s.cur scope regions) := by
  obtain ⟨-, -, hreg, -⟩ := id h
  rw [doRelease, M.bind_ok (waitEntries_of_idle h _), M.get_bind, if_pos hreg, hw]
  rfl

theorem lines_acquireLines {p : CacheLine → Bool} {l : List CacheLine} {x : CacheLine} (hx : x ∈ acquireLines p l) (hpx : p x = true) :
    x.wv &&& ~~~(x.wd ||| x.wo) = 0#16 := by
  obtain ⟨hm, -⟩ := List.mem_filter.1 hx
  obtain ⟨y, -, rfl⟩ := List.mem_map.1 hm
  by_cases hy : p y = true
  · simp only [if_pos hy]
    rw [BitVec.and_assoc, BitVec.and_not_self]
    exact BitVec.and_zero
  · rw [if_neg hy] at hpx
    exact absurd hpx hy

theorem mem_acquireLines_kept {p : CacheLine → Bool} {l : List CacheLine} {x : CacheLine} (hx : x ∈ l) (hp : p x = true)
    (hk : x.wv &&& (x.wd ||| x.wo) ≠ 0#16) : { x with wv := x.wv &&& (x.wd ||| x.wo) } ∈ acquireLines p l :=
  List.mem_filter.2 ⟨List.mem_map.2 ⟨x, hx, if_pos hp⟩, decide_eq_true hk⟩

theorem mem_acquireLines_other {p : CacheLine → Bool} {l : List CacheLine} {x : CacheLine} (hx : x ∈ l) (hp : p x = false) (hk : x.wv ≠ 0#16) :
    x ∈ acquireLines p l :=
  List.mem_filter.2 ⟨List.mem_map.2 ⟨x, hx, if_neg (by rw [hp]; exact Bool.false_ne_true)⟩, decide_eq_true hk⟩

theorem State.acquireRlc_eq (s : State) (die : Nat) : ∃ v, s.acquireRlc die (fun _ => true) = s.updMem fun m => { m with slices := v } := by
  unfold State.acquireRlc
  generalize words16 = l
  induction l generalizing s with
  | nil => exact ⟨s.m.slices, rfl⟩
  | cons i l ih =>
    obtain ⟨v, hv⟩ := s.clearRlc_eq (die * 16 + i)
    obtain ⟨w, hw⟩ := ih (s.clearRlc (die * 16 + i) fun _ => true)
    exact ⟨w, by rw [List.foldl_cons, hw, hv]; rfl⟩

/-- What an acquire leaves of the harts and of the caches: the lines of the hart's L1D and, from a wider scope than the core, of its cluster cache
lose their clean words that nobody owns. -/
structure State.Acquired (s t : State) (h : Nat) (scope : BitVec 2) (regions : BitVec 16) : Prop where
  harts : SameHarts s t
  mem : t.m.mem = s.m.mem
  l1d : (t.core (coreOf h)).l1d = acquireLines (fun x => inRegions regions x.rid) (s.core (coreOf h)).l1d
  cc : scope ≠ 0#2 → (t.cluster (clusterOf h)).cc = acquireLines (fun x => inRegions regions x.rid) (s.cluster (clusterOf h)).cc

theorem State.acquired_acquire (s : State) (h : Nat) (scope : BitVec 2) (regions : BitVec 16) :
    s.Acquired (s.acquire h scope regions) h scope regions := by
  unfold State.acquire
  extract_lets u v w
  have hv : SameHarts s v ∧ v.m.mem = s.m.mem ∧
      (v.core (coreOf h)).l1d = acquireLines (fun x => inRegions regions x.rid) (s.core (coreOf h)).l1d ∧ v.m.clusters = s.m.clusters :=
    ⟨⟨rfl, rfl, rfl⟩, rfl, congrArg CoreState.l1d (State.core_setCore_same ..), rfl⟩
  have hw : s.Acquired w h scope regions := by
    obtain ⟨hharts, hmem, hl1, hcl⟩ := hv
    by_cases h0 : scope = 0#2
    · rw [show w = v from if_pos h0]
      exact ⟨hharts, hmem, hl1, fun h => absurd h0 h⟩
    · rw [show w = v.updCC (clusterOf h) (acquireLines fun x => inRegions regions x.rid) from if_neg h0]
      refine ⟨hharts, hmem, hl1, fun _ => (congrArg ClusterState.cc (State.cluster_setCluster_same ..)).trans ?_⟩
      rw [State.cluster, hcl]
      rfl
  split
  · exact hw
  · obtain ⟨x, hx⟩ := w.acquireRlc_eq (dieOfHart h)
    rw [hx]
    exact ⟨hw.harts, hw.mem, hw.l1d, hw.cc⟩

theorem exec_acq {s : State} (h : Idle s) (sc : BitVec 2) (g : BitVec 4) :
    exec (.acq sc g) s = .next (s.acquire s.cur sc (regionMask g)).advance := finish_ok (doAcquire_of_idle h ..)

/-! ### Releases and fences (R131) -/

theorem exec_rel {s : State} (h : Idle s) {sc : BitVec 2} {g : BitVec 4} (hw : s.releaseWaits s.cur sc (regionMask g) = none) :
    exec (.rel sc g) s = .next (s.release s.cur sc (regionMask g)).advance := finish_ok (doRelease_of_idle h hw)

theorem exec_rel_nothing {s : State} (h : Idle s) (hl : s.releaseLines s.cur = []) (sc : BitVec 2) (g : BitVec 4) :
    exec (.rel sc g) s = .next (atPc s (s.hart.pc + 4#64)) := by
  have hw : s.releaseWaits s.cur sc (regionMask g) = none := by
    rw [State.releaseWaits, hl]
    exact ite_self none
  rw [exec_rel h hw, State.release, hl]
  rfl

theorem exec_fence {s : State} (h : Idle s) {sc : BitVec 2} {g : BitVec 4} (hw : s.releaseWaits s.cur sc (regionMask g) = none)
    (hu : Idle (s.release s.cur sc (regionMask g))) : exec (.fence sc g) s =
      .next ((s.release s.cur sc (regionMask g)).acquire (s.release s.cur sc (regionMask g)).cur sc (regionMask g)).advance := by
  refine finish_ok ?_
  rw [fenceBody, M.bind_ok (doRelease_of_idle h hw), doAcquire_of_idle hu]

/-! ### own and disown (R130, R337) -/

theorem ownApplies_iff {attr : Attr} {g : BitVec 4} :
    ownApplies attr g = true ↔ attr.rid ≠ 0#4 ∧ attr.sy = false ∧ (g = 0#4 ∨ g = attr.rid) := by
  simp [ownApplies, and_assoc]

section
variable {s t : State} {a : Reg} {g : BitVec 4} {pa : Nat} {attr : Attr} (sc : BitVec 2) (h : homeAddr (s.xr a) s = .ok (pa, attr) t)
include h

theorem exec_own : exec (.own a sc g) s =
    .next (if ownApplies attr g then t.ownLine (keySlot t.hart.ctx) t.cur sc (pa / 64) attr.rid else t).advance := by
  refine finish_ok ?_
  rw [ownBody, M.get_bind, M.bind_ok h]
  dsimp only
  split <;> rfl

theorem exec_disown : exec (.disown a sc g) s =
    .next (if ownApplies attr g then t.disownLine (keySlot t.hart.ctx) t.cur sc (pa / 64) else t).advance := by
  refine finish_ok ?_
  rw [disownBody, M.get_bind, M.bind_ok h]
  dsimp only
  split <;> rfl

end

theorem homeAddr_plateWindow {s : State} {va : Word} (h : inPlateWindow s.hart.user.pwb va = true) :
    homeAddr va s = .error (.trap tcAccessFault va) s := by
  rw [homeAddr, M.get_bind, if_pos h]
  rfl

/-- Settles O21: an acquire is one change of the lines of the hart's caches; fence, rel, own and disown are their state operations once nothing
holds them back. -/
theorem acquireReleaseOwnAndDisown : Obligations.AcquireReleaseOwnAndDisown := by
  unfold Obligations.AcquireReleaseOwnAndDisown
  refine ⟨fun s sc g h => ⟨?_, exec_rel h, fun hl => exec_rel_nothing h hl sc g, exec_fence h⟩, fun s a sc g => ⟨fun pa attr t ht => ?_, fun hset hw i hi => ?_⟩⟩
  · obtain ⟨⟨-, hhart, hothers⟩, hmem, hl1, hcc⟩ := s.acquired_acquire s.cur sc (regionMask g)
    refine ⟨_, exec_acq h sc g, by rw [State.advance_hart, hhart], hothers, hmem, fun l hl hr => ?_, fun l hl hr hk => ?_, fun l hl hr hk => ?_,
      fun h0 l hl hr => ?_⟩
    · exact lines_acquireLines (hl1 ▸ hl) hr
    · exact hl1 ▸ mem_acquireLines_kept hl hr hk
    · exact hl1 ▸ mem_acquireLines_other hl hr hk
    · exact lines_acquireLines (hcc h0 ▸ hl) hr
  · refine ⟨fun ha => ?_, fun ha => ?_⟩
    · have hy := ownApplies_iff.2 ha
      exact ⟨by rw [exec_own sc ht, if_pos hy], by rw [exec_disown sc ht, if_pos hy]⟩
    · have hn := mt ownApplies_iff.1 ha
      exact ⟨by rw [exec_own sc ht, if_neg hn], by rw [exec_disown sc ht, if_neg hn]⟩
  · have hf := homeAddr_plateWindow hw
    have htrap : TrapsTo s (s.takeTrap tcAccessFault (s.xr a) 0#2 s.hart.pc) tcAccessFault (s.xr a) := trapsTo_takeTrap hset ..
    simp only [List.mem_cons, List.not_mem_nil, or_false] at hi
    rcases hi with rfl | rfl
    · exact ⟨_, finish_trap (by rw [ownBody, M.get_bind, M.bind_error hf]), htrap⟩
    · exact ⟨_, finish_trap (by rw [disownBody, M.get_bind, M.bind_error hf]), htrap⟩

end Sys2Proof.Machine
end

section
/-! PROOF. O44: watches and writes of VL (spec/05 R136, R137, spec/12 R330, spec/15 R369). -/
namespace Sys2Proof.Machine
set_option Elab.async false

/-! ### A part that a placed hart runs -/

theorem ends_hartPart {i : Instr} {m : M Unit} {s t : State} {P : State → Prop} (he : exec i s = finishEvent (hartPart i m) s)
    (hrun : (s.getHart s.msg.hart.toNat).phase = .running) (hm : m (s.switchTo s.msg.hart.toNat) = .ok () t) (h : P (t.switchTo s.cur)) : Ends i s P := by
  refine ⟨_, he.trans (finishEvent_modify _ s), ?_⟩
  unfold State.onHart
  dsimp only
  have hp : (!(s.switchTo s.msg.hart.toNat).hart.placed) = false := by
    rw [State.hart_switchTo, Hart.placed_of_running hrun]
    rfl
  rw [hp, if_neg Bool.false_ne_true, hm]
  exact h

/-- What a part that changes one hart leaves of the harts. -/
theorem State.hartsOnly_switchBack {s t : State} {h : Nat} {g : Hart → Hart} (hcur : t.cur = h) (hothers : t.others = (s.switchTo h).others)
    (hg : t.hart = g (s.getHart h)) : HartsOnly s (t.switchTo s.cur) h g := State.hartsOnly_onHart (f := fun _ => t) hcur hothers hg

theorem State.getHart_switchBack {t : State} {h : Nat} (hcur : t.cur = h) (n : Nat) : (t.switchTo n).getHart h = t.hart := by
  rw [State.getHart_switchTo, State.getHart, if_pos hcur.symm]

/-! ### The fields of WATCH (R136) -/

theorem onlyBits_congr {v w : Word} {lo : Nat} (h : v >>> lo = w >>> lo) (n : Nat) : onlyBits v lo n = onlyBits w lo n := by
  rw [onlyBits, onlyBits, h]

theorem onlyBits_or_one (v : Word) : onlyBits (v ||| 1#64) 3 45 = onlyBits v 3 45 := by
  refine onlyBits_congr ?_ 45
  rw [BitVec.ushiftRight_or_distrib, show 1#64 >>> 3 = 0#64 by decide, BitVec.or_zero]

theorem onlyBits_and_not_one (v : Word) : onlyBits (v &&& ~~~1#64) 3 45 = onlyBits v 3 45 := by
  refine onlyBits_congr (BitVec.eq_of_getLsbD_eq fun i _ => ?_) 45
  rw [BitVec.getLsbD_ushiftRight, BitVec.getLsbD_ushiftRight, BitVec.getLsbD_and, BitVec.getLsbD_not, BitVec.getLsbD_one]
  by_cases hi : 3 + i < 64
  · simp [hi]
  · rw [BitVec.getLsbD_of_ge v _ (Nat.not_lt.1 hi), Bool.false_and]

theorem getLsbD_or_one (v : Word) : (v ||| 1#64).getLsbD 0 = true := by simp
theorem getLsbD_and_not_one (v : Word) : (v &&& ~~~1#64).getLsbD 0 = false := by simp

/-- A write of WATCH after its side effect: EN stays as written unless the watch table was full. -/
theorem cregWrite_watch {v : Word} {s t : State} {full : Bool} (h : watchWrite v s = .ok full t) :
    cregWrite 0x041#16 v s = .ok () (t.updUser fun u => { u with watchVa := onlyBits v 3 45, watchEn := v.getLsbD 0 && !full }) := by
  rw [cregWrite, if_pos rfl, M.bind_ok h, M.modify_bind]
  cases full with
  | false =>
    refine congrArg (EStateM.Result.ok ()) ?_
    rw [Bool.not_false, Bool.and_true]
    rfl
  | true =>
    refine congrArg (EStateM.Result.ok ()) ?_
    rw [Bool.not_true, Bool.and_false]
    rfl

/-! ### Watches that go and come (R136) -/

/-- A slice without the watches of a hart. -/
def SliceState.unwatched (t : SliceState) (h : Nat) : SliceState := { t with watches := t.watches.filter fun w => decide (w.2 ≠ h) }

theorem State.slice_unwatch (s : State) (h n : Nat) : (s.unwatch h).slice n = (s.slice n).unwatched h :=
  SMap.get_map SliceState.reset (fun _ t => t.unwatched h) s.m.slices n SliceState.reset rfl

theorem watchWrite_disarm {v : Word} (h : v.getLsbD 0 = false) (s : State) : watchWrite v s = .ok false (s.unwatch s.cur) := by
  rw [watchWrite, M.get_bind, if_pos (by rw [h]; rfl)]
  rfl

theorem watchWrite_arm {v : Word} {s t : State} {pa : Nat} {attr : Attr} (hv : v.getLsbD 0 = true)
    (hw : inPlateWindow s.hart.user.pwb (((onlyBits v 3 45).extractLsb' 0 48).signExtend 64) = false)
    (ht : translate .data .load (((onlyBits v 3 45).extractLsb' 0 48).signExtend 64) s = .ok (pa, attr) t)
    (hh : t.target t.hart.ctx t.hart.sup pa 8 = .hbm) : watchWrite v s = installWatch pa t := by
  rw [watchWrite, M.get_bind, if_neg (by rw [hv]; exact Bool.false_ne_true)]
  dsimp only
  rw [if_neg (by rw [hw]; exact Bool.false_ne_true), M.bind_ok ht]
  dsimp only
  rw [M.get_bind, hh, if_pos (by rfl)]

section
variable {s : State} (pa : Nat)

theorem installWatch_full (h : 256 ≤ ((s.slice (s.homeKey pa)).watches.filter fun w => decide (w.2 ≠ s.cur)).length) :
    installWatch pa s = .ok true ((s.unwatch s.cur).updHart fun h => { h with latch := h.latch ||| 0b0000100#7 }) := by
  have hfull : (((s.unwatch s.cur).slice ((s.unwatch s.cur).homeKey pa)).watchFull) = true := by
    rw [State.slice_unwatch]
    exact decide_eq_true h
  rw [installWatch, M.get_bind]
  exact congrFun (if_pos hfull) _

theorem installWatch_room (h : ((s.slice (s.homeKey pa)).watches.filter fun w => decide (w.2 ≠ s.cur)).length < 256) :
    installWatch pa s = .ok false ((s.unwatch s.cur).setSlice (s.homeKey pa) { (s.unwatch s.cur).slice (s.homeKey pa) with
      watches := ((s.slice (s.homeKey pa)).watches.filter fun w => decide (w.2 ≠ s.cur)) ++ [(pa, s.cur)] }) := by
  have hroom : ¬ (((s.unwatch s.cur).slice ((s.unwatch s.cur).homeKey pa)).watchFull) = true := by
    rw [State.slice_unwatch]
    exact mt of_decide_eq_true (Nat.not_le.2 h)
  have hwatches : ((s.unwatch s.cur).slice (s.homeKey pa)).watches = (s.slice (s.homeKey pa)).watches.filter fun w => decide (w.2 ≠ s.cur) :=
    congrArg SliceState.watches (s.slice_unwatch s.cur (s.homeKey pa))
  rw [installWatch, M.get_bind, ← hwatches]
  exact congrFun (if_neg hroom) _

end

/-! ### The steps of a hart -/

section
variable {s : State} (hrun : (s.getHart s.msg.hart.toNat).phase = .running)
include hrun

theorem ends_watchDisarm : Ends .watchDisarm s fun t => (∀ n, ∀ w ∈ (t.slice n).watches, w.2 ≠ s.msg.hart.toNat) ∧ t.m.mem = s.m.mem ∧
    HartsOnly s t s.msg.hart.toNat fun x => { x with user := { x.user with watchEn := false, watchVa := onlyBits x.user.watchVa 3 45 } } := by
  have hw := cregWrite_watch (watchWrite_disarm (getLsbD_and_not_one (s.switchTo s.msg.hart.toNat).hart.user.watchVa) (s.switchTo s.msg.hart.toNat))
  rw [getLsbD_and_not_one, onlyBits_and_not_one, Bool.false_and, State.switchTo_cur] at hw
  refine ends_hartPart rfl hrun hw ⟨fun n w hm => ?_, ?_, State.hartsOnly_switchBack (State.switchTo_cur ..) rfl ?_⟩
  · rw [State.slice, State.switchTo_m] at hm
    have hs := (s.switchTo s.msg.hart.toNat).slice_unwatch s.msg.hart.toNat n
    rw [show ((s.switchTo s.msg.hart.toNat).unwatch s.msg.hart.toNat).slice n = SMap.get .reset _ n from rfl] at hs
    rw [State.updUser_m, hs] at hm
    exact of_decide_eq_true (List.mem_filter.1 hm).2
  · rw [State.switchTo_m]
    exact (congrArg MemState.mem (s.switchTo_m s.msg.hart.toNat) :)
  · rw [← State.hart_switchTo]
    rfl

section
variable {pa : Nat} {attr : Attr} {t : State}
  (hw : inPlateWindow (s.getHart s.msg.hart.toNat).user.pwb (((onlyBits s.msg.value 3 45).extractLsb' 0 48).signExtend 64) = false)
  (ht : translate .data .load (((onlyBits s.msg.value 3 45).extractLsb' 0 48).signExtend 64) (s.switchTo s.msg.hart.toNat) = .ok (pa, attr) t)
  (hh : t.target t.hart.ctx t.hart.sup pa 8 = .hbm) (hcur : t.cur = s.msg.hart.toNat)
include hw ht hh hcur

omit hcur in
/-- WATCH_ARM after its translation: what the watch table answers is the write's side effect. -/
theorem ends_watchArm {full : Bool} {u : State} (hi : installWatch pa t = .ok full u) {P : State → Prop}
    (h : P ((u.updUser fun x => { x with watchVa := onlyBits s.msg.value 3 45, watchEn := !full }).switchTo s.cur)) : Ends .watchArm s P := by
  have hv := getLsbD_or_one s.msg.value
  have hb := onlyBits_or_one s.msg.value
  have harm : watchWrite (s.msg.value ||| 1#64) (s.switchTo s.msg.hart.toNat) = .ok full u := by
    rw [← hi]
    exact watchWrite_arm hv (by rw [hb, State.hart_switchTo, hw]) (by rw [hb, ht]) hh
  have hc := cregWrite_watch harm
  rw [hv, hb, Bool.true_and] at hc
  exact ends_hartPart rfl hrun hc h

theorem ends_watchArm_room (hr : ((t.slice (t.homeKey pa)).watches.filter fun w => decide (w.2 ≠ s.msg.hart.toNat)).length < 256) :
    Ends .watchArm s fun u =>
      (u.slice (t.homeKey pa)).watches = ((t.slice (t.homeKey pa)).watches.filter fun w => decide (w.2 ≠ s.msg.hart.toNat)) ++ [(pa, s.msg.hart.toNat)] ∧
      (u.getHart s.msg.hart.toNat).user.watchEn = true ∧ (u.getHart s.msg.hart.toNat).user.watchVa = onlyBits s.msg.value 3 45 ∧
      (u.getHart s.msg.hart.toNat).latch = t.hart.latch := by
  have hi := installWatch_room pa (s := t) (by rw [hcur]; exact hr)
  rw [hcur] at hi
  refine ends_watchArm hrun hw ht hh hi ⟨?_, ?_, ?_, ?_⟩
  · rw [State.slice, State.switchTo_m]
    exact congrArg SliceState.watches (State.slice_setSlice_same ..)
  all_goals
    rw [State.getHart_switchBack (by exact hcur)]
    rfl

theorem ends_watchArm_full (hr : 256 ≤ ((t.slice (t.homeKey pa)).watches.filter fun w => decide (w.2 ≠ s.msg.hart.toNat)).length) :
    Ends .watchArm s fun u => (u.slice (t.homeKey pa)).watches = ((t.slice (t.homeKey pa)).watches.filter fun w => decide (w.2 ≠ s.msg.hart.toNat)) ∧
      (u.getHart s.msg.hart.toNat).user.watchEn = false ∧ (u.getHart s.msg.hart.toNat).latch = t.hart.latch ||| 0b0000100#7 := by
  have hi := installWatch_full pa (s := t) (by rw [hcur]; exact hr)
  rw [hcur] at hi
  refine ends_watchArm hrun hw ht hh hi ⟨?_, ?_, ?_⟩
  · rw [State.slice, State.switchTo_m]
    exact congrArg SliceState.watches (t.slice_unwatch s.msg.hart.toNat (t.homeKey pa))
  all_goals
    rw [State.getHart_switchBack (by exact hcur)]
    rfl

end

theorem ends_vlWrite (hsup : (s.getHart s.msg.hart.toNat).sup = true) : Ends .vlWrite s fun t => t.m = s.m ∧
    HartsOnly s t s.msg.hart.toNat fun x => { x with vec := { x.vec with vl := BitVec.ofNat 14 (min (s.msg.value.toNat % 2 ^ 14) x.vec.vcap) } } := by
  have hm : vlWriteBody s.msg.value (s.switchTo s.msg.hart.toNat) =
      .ok () ((s.switchTo s.msg.hart.toNat).updVec fun r => { r with vl := r.clampVl (s.msg.value.extractLsb' 0 14).toNat }) := by
    rw [vlWriteBody, M.get_bind, if_pos (by rw [State.hart_switchTo]; exact hsup)]
    rfl
  refine ends_hartPart rfl hrun hm ⟨?_, State.hartsOnly_switchBack (State.switchTo_cur ..) rfl ?_⟩
  · rw [State.switchTo_m, State.updVec_m, State.switchTo_m]
  · rw [State.updVec_hart, State.hart_switchTo, BitVec.extractLsb'_toNat, Nat.shiftRight_zero]
    rfl

end

/-! ### Hits (R137) -/

theorem State.tell_frame (s : State) (dev ln hart : Nat) (what : FabricMsg) (m : BitVec 16) : SameHarts s (s.tell dev ln hart what m) ∧
    (s.tell dev ln hart what m).m = s.m ∧ (s.tell dev ln hart what m).inbox = s.inbox := by
  unfold State.tell
  split
  · exact ⟨⟨rfl, rfl, rfl⟩, rfl, rfl⟩
  · exact ⟨⟨rfl, rfl, rfl⟩, rfl, rfl⟩

theorem ends_msgWord {i : Instr} {s : State} {g : State → Nat → State} {P : State → Prop} (he : exec i s = finishEvent (msgWord g) s)
    (hpa : s.msg.addr.toNat < 2 ^ 52) (hbm : isHbm (laOf s.msg.addr.toNat) = true) (ha : s.msg.addr.toNat % 8 = 0) (h : P (g s s.msg.addr.toNat)) :
    Ends i s P := by
  refine ⟨_, he.trans (finishEvent_ok ?_), h⟩
  rw [msgWord, M.get_bind]
  exact congrFun (if_pos ⟨hpa, hbm, ha⟩) s

theorem State.watchMsg_frame {s : State} (ha : s.m.agentWatches = []) (pa : Nat) :
    ((s.watchMsg pa).slice (s.homeKey pa)).watches = (s.slice (s.homeKey pa)).watches.filter (fun w => !watchHit pa 8 w.1) ∧
      (s.watchMsg pa).inbox = s.inbox ++ (((s.slice (s.homeKey pa)).watches.filter fun w => watchHit pa 8 w.1 && decide (w.2 < 2048)).map fun w =>
        (.watchHitArrival, { hart := BitVec.ofNat 11 w.2 })) ∧ SameHarts s (s.watchMsg pa) ∧ (s.watchMsg pa).m.mem = s.m.mem := by
  unfold State.watchMsg
  rw [State.fireAgents_none ha]
  extract_lets v k t hit u
  have hu : SameHarts s u ∧ u.m = (s.setSlice k { t with watches := t.watches.filter fun w => !watchHit pa 8 w.1 }).m ∧ u.inbox = s.inbox := by
    refine Inv.foldl (P := fun v => SameHarts s v ∧ v.m = (s.setSlice k { t with watches := t.watches.filter fun w => !watchHit pa 8 w.1 }).m ∧
      v.inbox = s.inbox) ⟨⟨rfl, rfl, rfl⟩, rfl, rfl⟩ fun v hv w => ?_
    obtain ⟨⟨h1, h2, h3⟩, hm, hi⟩ := hv
    obtain ⟨⟨g1, g2, g3⟩, gm, gi⟩ := v.tell_frame (v.ownerDev w.2).toNat (pa / 64) (ownerHart w.2) .wake 0#16
    exact ⟨⟨g1.trans h1, g2.trans h2, g3.trans h3⟩, gm.trans hm, gi.trans hi⟩
  obtain ⟨hharts, hm, hi⟩ := hu
  refine ⟨?_, ?_, hharts, (congrArg MemState.mem hm :)⟩
  · rw [State.slice_after, State.slice, hm]
    exact congrArg SliceState.watches (State.slice_setSlice_same ..)
  · rw [State.after, hi]
    refine congrArg (s.inbox ++ List.map _ ·) ?_
    rw [show hit = t.watches.filter fun w => watchHit pa 8 w.1 from rfl, List.filter_filter]
    exact List.filter_congr fun w _ => Bool.and_comm ..

/-- Settles O44: WATCH_ARM, WATCH_DISARM and VL_WRITE are parts that the hart runs, each a write of a control register with its side effect; a hit takes
the watches of the word from the home slice and sends each on. -/
theorem watchesArmAndFire : Obligations.WatchesArmAndFire := by
  unfold Obligations.WatchesArmAndFire
  refine ⟨fun s hrun => ⟨ends_watchDisarm hrun, fun pa attr t hw ht hh hcur => ⟨ends_watchArm_room hrun hw ht hh hcur, ends_watchArm_full hrun hw ht hh hcur⟩,
    ends_vlWrite hrun⟩, fun s hpa hbm ha hag => ends_msgWord rfl hpa hbm ha (State.watchMsg_frame hag _), fun s => ⟨_, rfl, rfl⟩⟩

end Sys2Proof.Machine
end

section
/-! PROOF. O50: SY accesses and far atomics at home, window accesses (spec/05 R134, R135, spec/13 R331, spec/21 R473, spec/01 R23, R25, spec/03 R82). -/
namespace Sys2Proof.Machine
set_option Elab.async false

/-! ### Answers -/

theorem State.SameHome.reply {s t : State} (h : s.SameHome t) (b : List Byte) (p : Bool) : s.SameHome (t.reply b p) := (State.SameHome.inv s).reply h

/-- Bytes of a size that a message names, aligned to it, lie in one line. -/
theorem aligned_in_line {k a : Nat} (hk : k < 4) (ha : a % 2 ^ k = 0) : 0 < 2 ^ k ∧ a % 64 + 2 ^ k ≤ 64 := by
  interval_cases k <;> omega

/-- A message that is checked, met again or performed. -/
theorem M.set_checked {c d : Prop} {_ : Decidable c} {_ : Decidable d} (a b s : State) :
    (if c then (if d then set a else set b) else badMsg : M Unit) s = .ok () (if c then if d then a else b else s) := by
  by_cases hc : c
  · by_cases hd : d
    · rw [if_pos hc, if_pos hd, if_pos hc, if_pos hd]
      rfl
    · rw [if_pos hc, if_neg hd, if_pos hc, if_neg hd]
      rfl
  · rw [if_neg hc, if_neg hc]
    rfl

/-! ### SY accesses (R134) -/

theorem exec_syAccessAtHome (s : State) : exec .syAccessAtHome s = .next
    (if s.msg.addr.toNat < 2 ^ 52 ∧ isHbm (laOf s.msg.addr.toNat) = true ∧ s.msg.addr.toNat % 2 ^ s.msg.size.toNat = 0 then
      if s.homeWaits (keySlot s.msg.slot) (dieOf (laOf s.msg.addr.toNat)) s.msg.addr.toNat then s.after [(.syAccessAtHome, s.msg)]
      else s.syMsg (keySlot s.msg.slot) s.msg.addr.toNat (2 ^ s.msg.size.toNat) s.msg.flag s.msg.value
    else s) := finishEvent_ok (M.set_checked ..)

section
variable {s : State} {slot pa n : Nat} (q : QuietHome s slot pa) (hn : 0 < n) (hl : pa % 64 + n ≤ 64)
include q

theorem QuietHome.syMsg_read (v : Word) : ∃ t, s.syMsg slot pa n false v = t ∧
    t.fab.answer = { bytes := s.homeBytes slot pa n, poisoned := false, refused := false } ∧ t.m.mem = s.m.mem ∧ SameHarts s t := by
  obtain ⟨t, htake, hat, hs⟩ := q.homeTake slot n
  refine ⟨_, rfl, ?_⟩
  rw [State.syMsg, if_neg Bool.false_ne_true, htake]
  exact ⟨rfl, hs.mem, hat.harts⟩

include hn hl

theorem QuietHome.syMsg_write (hp : s.isProtected pa n = false) (v : Word) : ∃ t, s.syMsg slot pa n true v = t ∧ t.fab.answer.refused = false ∧
    t.homeBytes slot pa n = toBytes n v.toNat ∧ SameHarts s t ∧ ∀ a, ¬ (pa ≤ a ∧ a < pa + n) → Mem.read t.m.mem a = Mem.read s.m.mem a := by
  obtain ⟨t, htake, hat, hs⟩ := q.homeTake slot n
  have hlen : (toBytes n v.toNat).length = n := toBytes_length ..
  obtain ⟨hput, -, hmem⟩ := q.homePut hat hs (a' := pa) (bs := toBytes n v.toNat) rfl (by rw [hlen]; exact hl) (by rw [hlen]; exact hn)
  have hbytes := q.homeBytes_homePut hat hs (a' := pa) (bs := toBytes n v.toNat) rfl (by rw [hlen]; exact hl) (by rw [hlen]; exact hn)
  rw [hlen] at hmem hbytes
  refine ⟨_, rfl, ?_⟩
  rw [State.syMsg, if_pos rfl, hp, if_neg Bool.false_ne_true, htake]
  exact ⟨rfl, (((State.SameHome.refl _).reply [] false).homeBytes ..).trans hbytes, hput.harts, hmem⟩

end

theorem State.syMsg_refused {s : State} {pa n : Nat} (h : s.isProtected pa n = true) (slot : Nat) (v : Word) : s.syMsg slot pa n true v = s.refuse := by
  rw [State.syMsg, if_pos rfl, if_pos h]

/-! ### Far atomics (R135, R331) -/

theorem exec_farAtomicAtHome {s : State} {op : AtomicOp} (ho : atomicOfCode s.msg.station.toNat = some op) : exec .farAtomicAtHome s = .next
    (if s.msg.addr.toNat < 2 ^ 52 ∧ isHbm (laOf s.msg.addr.toNat) = true ∧ s.msg.addr.toNat % (if s.msg.flag then 8 else 4) = 0 then
      if s.homeWaits (keySlot s.msg.slot) (dieOf (laOf s.msg.addr.toNat)) s.msg.addr.toNat then s.after [(.farAtomicAtHome, s.msg)]
      else s.atomicMsg (keySlot s.msg.slot) s.msg.addr.toNat op s.msg.flag s.msg.value s.msg.value2
    else s) := by
  refine finishEvent_ok ?_
  rw [M.get_bind, ho]
  exact M.set_checked ..

/-- The new value that an operation gives is that of the table. -/
theorem AtomicOp.result_of_mem {e : AtomOp} (he : e ∈ atomOps) {n : Nat} (m v c : BitVec n) : (e.op.result m v c).1 = e.new n m v c := by
  have hmin : (if m.slt v then m else v) = if m.toInt ≤ v.toInt then m else v := by
    rcases lt_trichotomy m.toInt v.toInt with h | h | h
    · rw [if_pos (BitVec.slt_iff_toInt_lt.2 h), if_pos h.le]
    · rw [BitVec.eq_of_toInt_eq h, ite_self, ite_self]
    · rw [if_neg (mt BitVec.slt_iff_toInt_lt.1 h.not_gt), if_neg h.not_ge]
  have hmax : (if m.slt v then v else m) = if v.toInt ≤ m.toInt then m else v := by
    by_cases h : m.toInt < v.toInt
    · rw [if_pos (BitVec.slt_iff_toInt_lt.2 h), if_neg h.not_ge]
    · rw [if_neg (mt BitVec.slt_iff_toInt_lt.1 h), if_pos (not_lt.1 h)]
  have hminu : (if m.ult v then m else v) = if m.toNat ≤ v.toNat then m else v := by
    rcases lt_trichotomy m.toNat v.toNat with h | h | h
    · rw [if_pos (BitVec.ult_iff_lt.2 h), if_pos h.le]
    · rw [BitVec.eq_of_toNat_eq h, ite_self, ite_self]
    · rw [if_neg (mt BitVec.ult_iff_lt.1 h.not_gt), if_neg h.not_ge]
  have hmaxu : (if m.ult v then v else m) = if v.toNat ≤ m.toNat then m else v := by
    by_cases h : m.toNat < v.toNat
    · rw [if_pos (BitVec.ult_iff_lt.2 h), if_neg h.not_ge]
    · rw [if_neg (mt BitVec.ult_iff_lt.1 h), if_pos (not_lt.1 h)]
  simp only [atomOps, List.mem_cons, List.not_mem_nil, or_false] at he
  rcases he with rfl | rfl | rfl | rfl | rfl | rfl | rfl | rfl | rfl | rfl | rfl
  case inr.inr.inr.inr.inl => exact hmin
  case inr.inr.inr.inr.inr.inl => exact hmax
  case inr.inr.inr.inr.inr.inr.inl => exact hminu
  case inr.inr.inr.inr.inr.inr.inr.inl => exact hmaxu
  all_goals rfl

theorem toBytes_congr {n a b : Nat} (h : a % 256 ^ n = b % 256 ^ n) : toBytes n a = toBytes n b := by
  induction n generalizing a b with
  | zero => rfl
  | succ n ih =>
    rw [pow_succ'] at h
    have hlow : a % 256 = b % 256 := by
      rw [← Nat.mod_mul_right_mod a 256 (256 ^ n), h, Nat.mod_mul_right_mod]
    have hhigh : a / 256 % 256 ^ n = b / 256 % 256 ^ n := by
      rw [← Nat.mod_mul_right_div_self, ← Nat.mod_mul_right_div_self, h]
    rw [toBytes, toBytes, ih hhigh]
    congr 1
    exact BitVec.eq_of_toNat_eq (by simpa using hlow)

theorem toBytes_leNat (bs : List Byte) : toBytes bs.length (leNat bs) = bs := by
  induction bs with
  | nil => rfl
  | cons b bs ih =>
    have hb : b.toNat < 256 := b.isLt
    rw [List.length_cons, toBytes, leNat, show (b.toNat + 256 * leNat bs) / 256 = leNat bs by omega, ih]
    congr 1
    exact BitVec.eq_of_toNat_eq (by simpa using hb)

/-- The value that a far atomic reads, as a register takes it. -/
def oldValue (wide : Bool) (m : Nat) : Word := if wide then BitVec.ofNat 64 m else (BitVec.ofNat 32 m).signExtend 64

/-- Its low bytes are the bytes read. -/
theorem toBytes_oldValue {wide : Bool} {bs : List Byte} (h : bs.length = if wide then 8 else 4) :
    toBytes (if wide then 8 else 4) (oldValue wide (leNat bs)).toNat = bs := by
  have hlt := leNat_lt bs
  rw [h] at hlt
  refine (toBytes_congr (b := leNat bs) ?_).trans (h ▸ toBytes_leNat bs)
  cases wide with
  | true => exact congrArg (· % 256 ^ 8) (Nat.mod_eq_of_lt hlt)
  | false =>
    have hset : ((BitVec.ofNat 32 (leNat bs)).signExtend 64).setWidth 32 = BitVec.ofNat 32 (leNat bs) := by
      refine BitVec.eq_of_getLsbD_eq fun i hi => ?_
      rw [BitVec.getLsbD_setWidth, BitVec.getLsbD_signExtend]
      simp [hi, show i < 64 by omega]
    have hnat := congrArg BitVec.toNat hset
    rw [BitVec.toNat_setWidth, BitVec.toNat_ofNat] at hnat
    exact hnat

/-- The value that a far atomic of the table leaves. -/
def AtomOp.newValue (e : AtomOp) (wide : Bool) (m : Nat) (v c : Word) : Nat :=
  let n := if wide then 8 else 4
  (e.new (8 * n) (BitVec.ofNat (8 * n) m) (v.setWidth (8 * n)) (c.setWidth (8 * n))).toNat

section
variable {s : State} {slot pa : Nat} {e : AtomOp} (he : e ∈ atomOps) (wide : Bool) (v c : Word) (q : QuietHome s slot pa)
include he q

/-- The read-modify-write of a far atomic at a quiet home. -/
theorem QuietHome.atomicHome : ∃ t x, s.AtHome t pa ∧ s.SameHome t ∧ s.atomicHome slot pa e.op wide v c =
    (t.homePut slot pa (toBytes (if wide then 8 else 4) (e.newValue wide (leNat (s.homeBytes slot pa (if wide then 8 else 4))) v c)),
      { old := oldValue wide (leNat (s.homeBytes slot pa (if wide then 8 else 4))), poisoned := false, exc := x }) := by
  obtain ⟨t, htake, hat, hs⟩ := q.homeTake slot (if wide then 8 else 4)
  unfold State.atomicHome
  dsimp only
  rw [htake]
  dsimp only
  rw [if_neg Bool.false_ne_true]
  generalize leNat (s.homeBytes slot pa (if wide then 8 else 4)) = m
  cases wide with
  | true =>
    have hr : (e.op.result (BitVec.ofNat 64 m) v c).1.toNat = e.newValue true m v c := by
      rw [AtomicOp.result_of_mem he]
      show _ = (e.new 64 (BitVec.ofNat 64 m) (v.setWidth 64) (c.setWidth 64)).toNat
      rw [BitVec.setWidth_eq, BitVec.setWidth_eq]
    exact ⟨t, _, hat, hs, by rw [← hr]; rfl⟩
  | false =>
    have hr : (e.op.result (BitVec.ofNat 32 m) (v.setWidth 32) (c.setWidth 32)).1.toNat = e.newValue false m v c := by
      rw [AtomicOp.result_of_mem he]
      rfl
    exact ⟨t, _, hat, hs, by rw [← hr]; rfl⟩

theorem QuietHome.atomicMsg (hp : s.isProtected pa (if wide then 8 else 4) = false) (ha : pa % (if wide then 8 else 4) = 0) :
    ∃ t, s.atomicMsg slot pa e.op wide v c = t ∧
      t.fab.answer = { bytes := s.homeBytes slot pa (if wide then 8 else 4), poisoned := false, refused := false } ∧ SameHarts s t ∧
      t.homeBytes slot pa (if wide then 8 else 4) =
        toBytes (if wide then 8 else 4) (e.newValue wide (leNat (s.homeBytes slot pa (if wide then 8 else 4))) v c) ∧
      ∀ a, ¬ (pa ≤ a ∧ a < pa + if wide then 8 else 4) → t.homeByte slot a = s.homeByte slot a := by
  obtain ⟨t, x, hat, hs, hatomic⟩ := q.atomicHome he wide v c
  have hin : 0 < (if wide then 8 else 4) ∧ pa % 64 + (if wide then 8 else 4) ≤ 64 := by
    cases wide with
    | true => exact aligned_in_line (k := 3) (by decide) ha
    | false => exact aligned_in_line (k := 2) (by decide) ha
  have hold := toBytes_oldValue (wide := wide) (homeBytes_length s slot pa (if wide then 8 else 4))
  have hmsg : s.atomicMsg slot pa e.op wide v c = (t.homePut slot pa (toBytes (if wide then 8 else 4)
      (e.newValue wide (leNat (s.homeBytes slot pa (if wide then 8 else 4))) v c))).reply (s.homeBytes slot pa (if wide then 8 else 4)) false := by
    rw [State.atomicMsg, hp, if_neg Bool.false_ne_true, hatomic]
    exact congrArg (State.reply _ · false) hold
  rw [hmsg]
  generalize e.newValue wide (leNat (s.homeBytes slot pa (if wide then 8 else 4))) v c = new
  generalize (if wide then 8 else 4) = n at hin
  have hlen : (toBytes n new).length = n := toBytes_length ..
  obtain ⟨hput, hbyte, -⟩ := q.homePut hat hs (a' := pa) (bs := toBytes n new) rfl (by rw [hlen]; exact hin.2) (by rw [hlen]; exact hin.1)
  have hbytes := q.homeBytes_homePut hat hs (a' := pa) (bs := toBytes n new) rfl (by rw [hlen]; exact hin.2) (by rw [hlen]; exact hin.1)
  rw [hlen] at hbyte hbytes
  have hr := (State.SameHome.refl (t.homePut slot pa (toBytes n new))).reply (s.homeBytes slot pa n) false
  exact ⟨_, rfl, rfl, hput.harts, (hr.homeBytes ..).trans hbytes, fun a ha => (hr.homeByte ..).trans ((hbyte a).trans (if_neg ha))⟩

end

theorem State.atomicMsg_refused {s : State} {pa : Nat} {wide : Bool} (h : s.isProtected pa (if wide then 8 else 4) = true) (slot : Nat) (op : AtomicOp)
    (v c : Word) : s.atomicMsg slot pa op wide v c = s.refuse := by
  rw [State.atomicMsg, if_pos h]

/-! ### Window accesses (R23, R25, R82) -/

/-- Storage of a cluster: vector registers, tiles or accumulators. -/
def ClusterStorage (la : Nat) : Prop := (∃ c o, laKind la = .vreg c o) ∨ (∃ c o, laKind la = .tile c o) ∨ (∃ c o, laKind la = .acc c o)

theorem ClusterStorage.not_hbm {la : Nat} (h : ClusterStorage la) : isHbm la = false := by
  refine Bool.eq_false_iff.2 fun hb => ?_
  have hk := laKind_hbm hb
  rcases h with ⟨c, o, h⟩ | ⟨c, o, h⟩ | ⟨c, o, h⟩
  all_goals
    rw [hk] at h
    cases h

theorem exec_windowAccessArrival {s : State} (hla : s.msg.addr.toNat < 2 ^ 42) (ha : s.msg.addr.toNat % 2 ^ s.msg.size.toNat = 0)
    (hk : ClusterStorage s.msg.addr.toNat) : exec .windowAccessArrival s =
      .next (s.windowAccess s.msg.hart.toNat s.msg.addr.toNat (2 ^ s.msg.size.toNat) s.msg.flag s.msg.value) := by
  refine finishEvent_ok ?_
  rw [M.get_bind, if_pos ⟨hla, ha⟩]
  rcases hk with ⟨c, o, hk⟩ | ⟨c, o, hk⟩ | ⟨c, o, hk⟩
  all_goals
    rw [hk]
    rfl

/-- Bytes stored where nothing has a key read back as they were stored. -/
theorem State.homeBytes_homeStore_window {s : State} {pa : Nat} {bs : List Byte} (hw : ∀ i < bs.length, isHbm (laOf (pa + i)) = false)
    (hn : 0 < bs.length) (hm : Mem.wf s.m.mem = true) (slot slot' : Nat) : (s.homeStore slot pa bs).homeBytes slot' pa bs.length = bs := by
  have h0 : isHbm (laOf pa) = false := hw 0 hn
  refine List.ext_getElem? fun j => ?_
  by_cases hj : j < bs.length
  · rw [State.getElem?_homeBytes _ _ _ hj, State.homeByte, if_neg (by rw [hw j hj]; exact Bool.false_ne_true),
      State.homeStore_window _ _ _ _ h0 hm, if_pos (by omega), Nat.add_sub_cancel_left, List.getElem?_eq_getElem hj]
    rfl
  · rw [List.getElem?_eq_none (by simp; omega), List.getElem?_eq_none (by omega)]

section
variable {s : State} {h la n : Nat} {v : Word}

theorem State.windowAccess_read (ht : s.target (s.getHart h).ctx (s.getHart h).sup (s.ownPa la) n = .window) :
    s.windowAccess h la n false v = s.reply (s.homeBytes 0 (s.ownPa la) n) (natAny (8 * s.ownPa la) (8 * n) s.m.marks) := by
  conv in State.windowAccess => delta State.windowAccess
  extract_lets x pa perform
  rw [show s.target x.ctx x.sup pa n = .window from ht]
  rfl

theorem State.windowAccess_write (ht : s.target (s.getHart h).ctx (s.getHart h).sup (s.ownPa la) n = .window) :
    s.windowAccess h la n true v = (s.homeStore 0 (s.ownPa la) (toBytes n v.toNat)).reply [] false := by
  conv in State.windowAccess => delta State.windowAccess
  extract_lets x pa perform
  rw [show s.target x.ctx x.sup pa n = .window from ht]
  rfl

theorem State.windowAccess_refused (ht : s.target (s.getHart h).ctx (s.getHart h).sup (s.ownPa la) n = .refused) (wr : Bool) :
    s.windowAccess h la n wr v = s.refuse := by
  conv in State.windowAccess => delta State.windowAccess
  extract_lets x pa perform
  rw [show s.target x.ctx x.sup pa n = .refused from ht]

/-- No byte of an aligned access to a cluster's storage lies in HBM. -/
theorem ClusterStorage.bytes_not_hbm (hk : ClusterStorage la) (hla : la < 2 ^ 42) (hl : la % 64 + n ≤ 64) {i : Nat} (hi : i < n) :
    isHbm (laOf (s.ownPa la + i)) = false := by
  have hlo : ¬ la < 2 ^ 39 := of_decide_eq_false hk.not_hbm
  have hself : laOf (s.ownPa la + i) = la + i := by
    unfold laOf State.ownPa
    omega
  rw [hself]
  exact decide_eq_false fun h => hlo (lt_of_le_of_lt (Nat.le_add_right la i) h)

end

/-- A store of bytes on chip, answered. -/
theorem State.windowStored {s : State} {pa n : Nat} {v : Word} (hw : ∀ i < n, isHbm (laOf (pa + i)) = false) (hn : 0 < n) (hm : Mem.wf s.m.mem = true) :
    let t := (s.homeStore 0 pa (toBytes n v.toNat)).reply [] false
    t.fab.answer.refused = false ∧ t.homeBytes 0 pa n = toBytes n v.toNat ∧ SameHarts s t ∧
      ∀ a, ¬ (pa ≤ a ∧ a < pa + n) → Mem.read t.m.mem a = Mem.read s.m.mem a := by
  intro t
  have hlen : (toBytes n v.toNat).length = n := toBytes_length ..
  have h0 : isHbm (laOf pa) = false := hw 0 hn
  have hbytes := State.homeBytes_homeStore_window (s := s) (pa := pa) (bs := toBytes n v.toNat) (by rw [hlen]; exact hw) (by rw [hlen]; exact hn) hm 0 0
  rw [hlen] at hbytes
  refine ⟨rfl, (((State.SameHome.refl _).reply [] false).homeBytes ..).trans hbytes, (s.homeStore_frame ..).1, fun a ha => ?_⟩
  refine (State.homeStore_window _ _ _ _ h0 hm a).trans ?_
  rw [hlen, if_neg ha]

/-! ### The obligation -/

/-- Settles O50: each message is checked, met again or performed; performed at a quiet home it is a read there and a write of the same bytes, and
storage of a cluster is memory itself. -/
theorem synchronisedAndWindowAccesses : Obligations.SynchronisedAndWindowAccesses := by
  unfold Obligations.SynchronisedAndWindowAccesses
  refine ⟨fun s => ?_, fun s e he => ?_, fun s => ?_⟩
  · intro pa n slot
    have hin : pa % n = 0 → 0 < n ∧ pa % 64 + n ≤ 64 := aligned_in_line s.msg.size.isLt
    have hexec := exec_syAccessAtHome s
    have hperform : pa < 2 ^ 52 → isHbm (laOf pa) = true → pa % n = 0 → s.homeWaits slot (dieOf (laOf pa)) pa = false →
        exec .syAccessAtHome s = .next (s.syMsg slot pa n s.msg.flag s.msg.value) := fun h52 hbm ha hw => by
      rw [hexec, if_pos ⟨h52, hbm, ha⟩, if_neg (by rw [hw]; exact Bool.false_ne_true)]
    refine ⟨fun hn => by rw [hexec, if_neg hn], fun h52 hbm ha hw => by rw [hexec, if_pos ⟨h52, hbm, ha⟩, if_pos hw], fun h52 hbm ha hw hf hp => ?_,
      fun h52 hbm ha hw q => ⟨fun hf => ?_, fun hf hp => ?_⟩⟩
    · refine ⟨_, hperform h52 hbm ha hw, ?_⟩
      rw [hf, State.syMsg_refused hp]
      exact ⟨rfl, rfl, rfl, rfl, rfl⟩
    · obtain ⟨t, ht, hread⟩ := q.syMsg_read (n := n) s.msg.value
      exact ⟨t, by rw [hperform h52 hbm ha hw, hf, ht], hread⟩
    · obtain ⟨t, ht, hwrite⟩ := q.syMsg_write (hin ha).1 (hin ha).2 hp s.msg.value
      exact ⟨t, by rw [hperform h52 hbm ha hw, hf, ht], hwrite⟩
  · intro pa n slot hop
    have hexec := exec_farAtomicAtHome hop
    have hperform : pa < 2 ^ 52 → isHbm (laOf pa) = true → pa % n = 0 → s.homeWaits slot (dieOf (laOf pa)) pa = false →
        exec .farAtomicAtHome s = .next (s.atomicMsg slot pa e.op s.msg.flag s.msg.value s.msg.value2) := fun h52 hbm ha hw => by
      rw [hexec, if_pos ⟨h52, hbm, ha⟩, if_neg (by rw [hw]; exact Bool.false_ne_true)]
    refine ⟨fun hn => by rw [hexec, if_neg hn], fun h52 hbm ha hw => by rw [hexec, if_pos ⟨h52, hbm, ha⟩, if_pos hw], fun h52 hbm ha hw => ⟨fun hp => ?_, fun hp q => ?_⟩⟩
    · refine ⟨_, hperform h52 hbm ha hw, ?_⟩
      rw [State.atomicMsg_refused hp]
      exact ⟨rfl, rfl, rfl, rfl, rfl⟩
    · obtain ⟨t, ht, hr⟩ := q.atomicMsg he s.msg.flag s.msg.value s.msg.value2 hp ha
      exact ⟨t, by rw [hperform h52 hbm ha hw, ht], hr⟩
  · intro la n x pa h42 ha hk
    have hexec := exec_windowAccessArrival h42 ha hk
    refine ⟨fun ht => ⟨fun hf hm => ⟨_, hexec, ?_⟩, fun hf hm => ⟨_, hexec, ?_⟩⟩, fun ht => ⟨_, hexec, ?_⟩⟩
    · rw [hf, State.windowAccess_read ht]
      exact ⟨rfl, rfl, rfl, rfl, rfl, rfl⟩
    · rw [hf, State.windowAccess_write ht]
      obtain ⟨hn, hl⟩ := aligned_in_line s.msg.size.isLt ha
      exact State.windowStored (fun i => ClusterStorage.bytes_not_hbm (la := la) hk h42 hl) hn hm
    · rw [State.windowAccess_refused ht]
      exact ⟨rfl, rfl, rfl, rfl, rfl⟩

end Sys2Proof.Machine
end

section
/-! PROOF. O22: queue locks (spec/05 R138, R139, R140, spec/13 R338). -/
namespace Sys2Proof.Machine
set_option Elab.async false

/-! ### Lock words at home -/

/-- A lock word is two words of 32 bits, each with bytes of its own. -/
theorem lockWord_eq (s : State) (slot pa : Nat) :
    lockWord s slot pa = (BitVec.ofNat 32 (leNat (s.homeBytes slot pa 4)), BitVec.ofNat 32 (leNat (s.homeBytes slot (pa + 4) 4))) := by
  have hsplit : leNat (s.homeBytes slot pa 8) = leNat (s.homeBytes slot pa 4) + 2 ^ 32 * leNat (s.homeBytes slot (pa + 4) 4) := by
    simp only [State.homeBytes, leNat, Nat.add_assoc, Nat.reduceAdd]
    omega
  have hlow : leNat (s.homeBytes slot pa 4) < 2 ^ 32 := by
    have h := leNat_lt (s.homeBytes slot pa 4)
    rwa [homeBytes_length] at h
  unfold lockWord
  rw [hsplit]
  refine Prod.ext (BitVec.eq_of_toNat_eq ?_) (congrArg (BitVec.ofNat 32) ?_)
  · simp only [BitVec.toNat_ofNat]
    omega
  · omega

theorem State.SameHome.lockWord {s t : State} (h : s.SameHome t) (slot pa : Nat) : lockWord t slot pa = Machine.lockWord s slot pa := by
  unfold Machine.lockWord
  rw [h.homeBytes]

theorem lockWord_setSlice (s : State) (k : Nat) (v : SliceState) (slot pa : Nat) : lockWord (s.setSlice k v) slot pa = lockWord s slot pa :=
  ((State.SameHome.inv s).setSlice (.refl s)).lockWord slot pa

theorem ofNat_leNat_toBytes (v : BitVec 32) : BitVec.ofNat 32 (leNat (toBytes 4 v.toNat)) = v := by
  rw [leNat_toBytes, Nat.mod_eq_of_lt (b := 256 ^ 4) v.isLt, BitVec.ofNat_toNat, BitVec.setWidth_eq]

theorem State.homeBytes_congr {s t : State} {slot : Nat} {n pa : Nat} (h : ∀ a, pa ≤ a → a < pa + n → t.homeByte slot a = s.homeByte slot a) :
    t.homeBytes slot pa n = s.homeBytes slot pa n := by
  rw [State.homeBytes_eq, State.homeBytes_eq]
  refine List.map_congr_left fun j hj => h _ (Nat.le_add_right ..) ?_
  have := List.mem_range.1 hj
  omega

section
variable {s t : State} {slot pa : Nat} (q : QuietHome s slot pa) (h : s.AtHome t pa) (hs : s.SameHome t) (ha : pa % 8 = 0) (v : BitVec 32)
include q h hs ha

theorem QuietHome.homePut_ticket : s.AtHome (t.homePut slot pa (toBytes 4 v.toNat)) pa ∧
    lockWord (t.homePut slot pa (toBytes 4 v.toNat)) slot pa = (v, (lockWord s slot pa).2) := by
  have hlen : (toBytes 4 v.toNat).length = 4 := toBytes_length ..
  have hl : pa % 64 + (toBytes 4 v.toNat).length ≤ 64 := by omega
  have hn : 0 < (toBytes 4 v.toNat).length := by omega
  obtain ⟨hat, hb, -⟩ := q.homePut h hs rfl hl hn
  have hlow := q.homeBytes_homePut h hs rfl hl hn
  rw [hlen] at hlow hb
  refine ⟨hat, ?_⟩
  rw [lockWord_eq, lockWord_eq, hlow, ofNat_leNat_toBytes, State.homeBytes_congr fun a h1 h2 => (hb a).trans (if_neg (by omega))]

theorem QuietHome.homePut_serving : s.AtHome (t.homePut slot (pa + 4) (toBytes 4 v.toNat)) pa ∧
    lockWord (t.homePut slot (pa + 4) (toBytes 4 v.toNat)) slot pa = ((lockWord s slot pa).1, v) := by
  have hlen : (toBytes 4 v.toNat).length = 4 := toBytes_length ..
  have hline : (pa + 4) / 64 = pa / 64 := by omega
  have hl : (pa + 4) % 64 + (toBytes 4 v.toNat).length ≤ 64 := by omega
  have hn : 0 < (toBytes 4 v.toNat).length := by omega
  obtain ⟨hat, hb, -⟩ := q.homePut h hs hline hl hn
  have hhigh := q.homeBytes_homePut h hs hline hl hn
  rw [hlen] at hhigh hb
  refine ⟨hat, ?_⟩
  rw [lockWord_eq, lockWord_eq, hhigh, ofNat_leNat_toBytes, State.homeBytes_congr fun a h1 h2 => (hb a).trans (if_neg (by omega))]

end

/-! ### Draws and increments (R139) -/

/-- The hart's park entry for a ticket that it waits for. -/
def parkOf (pa : Nat) (ticket : BitVec 32) (h : Nat) : Park := { pa, ticket := ticket.zeroExtend 64, hart := h, launch := false }

/-- The record of a ticket that a draw takes now: granted where it is being served, polled for where no park entry is left. -/
def State.drawn (s : State) (slot pa : Nat) : Kept :=
  let mine := (lockWord s slot pa).1 = (lockWord s slot pa).2
  .qlock pa (lockWord s slot pa).1 (!decide mine && decide (256 ≤ (s.slice (s.homeKey pa)).parks.length)) (decide mine)

theorem State.AtHome.slice_parks {s t : State} {pa : Nat} (h : s.AtHome t pa) :
    (t.slice (s.homeKey pa)).parks = (s.slice (s.homeKey pa)).parks ∧ (t.slice (s.homeKey pa)).tickets = (s.slice (s.homeKey pa)).tickets := by
  obtain ⟨x, -, -, hx⟩ := h.slice
  rw [hx]
  exact ⟨rfl, rfl⟩

/-- A park entry waits for a ticket of a lock word as a hart does, not a launch. -/
def Park.waitsFor (pa : Nat) (n : BitVec 32) (p : Park) : Bool := decide (p.pa = pa) && p.ticket == n.zeroExtend 64 && !p.launch

/-- The grant of a ticket to the hart parked for it at a slice. -/
def State.grantNext (u : State) (k pa : Nat) (n : BitVec 32) : State :=
  ((u.slice k).parks.find? (Park.waitsFor pa n)).elim u fun p =>
    let v := u.setSlice k { u.slice k with parks := (u.slice k).parks.eraseP (Park.waitsFor pa n) }
    if p.hart < 2048 then v.after [grantMsg p.hart pa p.ticket] else v.tell (v.ownerDev p.hart).toNat (pa / 64) (ownerHart p.hart) (.lockGrant n) 0#16

/-- Where no ticket is outstanding, now-serving takes its new value and that ticket is granted. -/
theorem State.serve_noTickets {t : State} {slot pa : Nat} (h : (t.slice (t.homeKey pa)).tickets = []) (old n : BitVec 32) :
    t.serve slot pa old n =
      let w := t.homePut slot (pa + 4) (toBytes 4 n.toNat)
      let x := w.slice (t.homeKey pa)
      (w.setSlice (t.homeKey pa) { x with tickets := passTickets x.tickets pa old n }).grantNext (t.homeKey pa) pa n := by
  have hskip : skipLost (t.slice (t.homeKey pa)).tickets pa (t.slice (t.homeKey pa)).tickets.length n = n := by rw [h]; rfl
  unfold State.serve State.grantNext
  dsimp only
  rw [hskip, State.slice_setSlice_same]
  dsimp only
  generalize t.homePut slot (pa + 4) (toBytes 4 n.toNat) = w
  change (match (w.slice (t.homeKey pa)).parks.find? (Park.waitsFor pa n) with | none => _ | some p => _) = _
  cases (w.slice (t.homeKey pa)).parks.find? (Park.waitsFor pa n) with
  | none => rfl
  | some p => rfl

section
variable {s : State} {slot pa : Nat} (q : QuietHome s slot pa) (ha : pa % 8 = 0)
include q

theorem QuietHome.syRead : ∃ t, s.syRead slot pa = (t, leNat (s.homeBytes slot pa 8), false) ∧ s.AtHome t pa ∧ s.SameHome t := by
  obtain ⟨t, ht, hat, hsame⟩ := q.homeTake slot 8
  exact ⟨t, by rw [State.syRead, ht], hat, hsame⟩

include ha

/-- A draw leaves next-ticket + 1 and gives the record of its ticket; the ticket is parked where its turn has not come and there is room. -/
theorem QuietHome.drawTicket (h : Nat) :
    let ticket := (lockWord s slot pa).1
    let mine := ticket = (lockWord s slot pa).2
    let full := 256 ≤ (s.slice (s.homeKey pa)).parks.length
    ∃ t, s.drawTicket slot pa h = (t, some (s.drawn slot pa)) ∧ SameHarts s t ∧ t.fab = s.fab ∧ t.msg = s.msg ∧
      lockWord t slot pa = (ticket + 1#32, (lockWord s slot pa).2) ∧
      (t.slice (s.homeKey pa)).parks = (s.slice (s.homeKey pa)).parks ++ if ¬ mine ∧ ¬ full then [parkOf pa ticket h] else [] := by
  intro ticket mine full
  obtain ⟨t, ht, hat, hsame⟩ := q.syRead
  obtain ⟨hat', hword⟩ := q.homePut_ticket hat hsame ha (ticket + 1#32)
  have hkey : t.homeKey pa = s.homeKey pa := State.homeKey_congr hat.fab pa
  obtain ⟨hparks, -⟩ := hat'.slice_parks
  let k := s.homeKey pa
  let w := t.homePut slot pa (toBytes 4 (ticket + 1#32).toNat)
  let u := w.setSlice k { w.slice k with tickets := { pa, slot, ticket, hart := h, lost := false } :: (w.slice k).tickets }
  have hdraw : s.drawTicket slot pa h = if (lockWord s slot pa).2 = ticket then (u, some (.qlock pa ticket false true))
      else if (u.slice k).parkFull then (u, some (.qlock pa ticket true false))
      else (u.setSlice k { u.slice k with parks := (u.slice k).parks ++ [parkOf pa ticket h] }, some (.qlock pa ticket false false)) := by
    unfold State.drawTicket
    rw [if_neg (by rw [q.isRemote_eq]; exact Bool.false_ne_true), ht]
    dsimp only
    rw [if_neg Bool.false_ne_true, hkey]
    rfl
  have hu : (u.slice k).parks = (s.slice k).parks := (congrArg SliceState.parks (State.slice_setSlice_same ..)).trans hparks
  have hfull : (u.slice k).parkFull = decide full := by rw [SliceState.parkFull, hu]
  have hword' : lockWord u slot pa = (ticket + 1#32, (lockWord s slot pa).2) := (lockWord_setSlice ..).trans hword
  have huh : SameHarts s u := hat'.harts
  have huf : u.fab = s.fab := hat'.fab
  have hum : u.msg = s.msg := hat'.msg
  have hdrawn : s.drawn slot pa = .qlock pa ticket (!decide mine && decide full) (decide mine) := rfl
  rw [hdraw, hfull, hdrawn]
  clear_value u
  by_cases hm : mine
  · refine ⟨u, ?_, huh, huf, hum, hword', ?_⟩
    · rw [if_pos hm.symm, decide_eq_true hm]
      rfl
    · rw [if_neg fun h => h.1 hm, List.append_nil, hu]
  · rw [if_neg (Ne.symm hm), decide_eq_false hm]
    by_cases hf : full
    · refine ⟨u, ?_, huh, huf, hum, hword', ?_⟩
      · rw [if_pos (decide_eq_true hf), decide_eq_true hf]
        rfl
      · rw [if_neg fun h => h.2 hf, List.append_nil, hu]
    · refine ⟨u.setSlice k { u.slice k with parks := (u.slice k).parks ++ [parkOf pa ticket h] }, ?_, huh, huf, hum,
        (lockWord_setSlice ..).trans hword', ?_⟩
      · rw [decide_eq_false hf, if_neg Bool.false_ne_true]
        rfl
      · rw [if_pos ⟨hm, hf⟩, State.slice_setSlice_same, hu]

/-- An increment leaves now-serving + 1, where no ticket drawn is lost, and grants it to the hart parked for it. -/
theorem QuietHome.advanceServing (hnone : (s.slice (s.homeKey pa)).tickets = []) :
    let n := (lockWord s slot pa).2 + 1#32
    ∃ u, SameHarts s u ∧ u.inbox = s.inbox ∧ lockWord u slot pa = ((lockWord s slot pa).1, n) ∧
      (u.slice (s.homeKey pa)).parks = (s.slice (s.homeKey pa)).parks ∧ (s.advanceServing slot pa).1 = u.grantNext (s.homeKey pa) pa n := by
  intro n
  obtain ⟨t, ht, hat, hsame⟩ := q.syRead
  have hkey : t.homeKey pa = s.homeKey pa := State.homeKey_congr hat.fab pa
  obtain ⟨-, htickets⟩ := hat.slice_parks
  have hserve : (s.advanceServing slot pa).1 = t.serve slot pa (lockWord s slot pa).2 n := by
    unfold State.advanceServing
    rw [if_neg (by rw [q.isRemote_eq]; exact Bool.false_ne_true), ht]
    dsimp only
    rw [if_neg Bool.false_ne_true]
    rfl
  obtain ⟨hat', hword⟩ := q.homePut_serving hat hsame ha n
  obtain ⟨hparks, -⟩ := hat'.slice_parks
  rw [hserve, State.serve_noTickets (by rw [hkey, htickets, hnone]), hkey]
  generalize t.homePut slot (pa + 4) (toBytes 4 n.toNat) = w at hat' hword hparks
  obtain ⟨hharts, -, hinbox, -, -, -⟩ := hat'
  refine ⟨_, ?_, ?_, ?_, ?_, rfl⟩
  · exact hharts
  · exact hinbox
  · exact (lockWord_setSlice ..).trans hword
  · rw [State.slice_setSlice_same]
    exact hparks

end

/-! ### The instructions (R338) -/

/-- A hart without a record that polls has none to look up. -/
theorem State.pollLocks_of_granted {s : State} {h : Nat} (hk : ∀ k ∈ (s.getHart h).held, ∀ p u, k.kept ≠ .qlock p u true false) : s.pollLocks h = s := by
  unfold State.pollLocks
  refine foldl_fixed_of_mem fun k hm => ?_
  split
  · next p u he => exact absurd he (hk k hm p u)
  · rfl

/-- A granted `qlock` acquires, drops its record and gives its ticket. -/
theorem exec_qlock_granted {s : State} {pa : Nat} {t : BitVec 32} {poll : Bool} {rest : List Held} (h : Idle s)
    (hheld : s.hart.held = { pc := s.hart.pc, sup := s.hart.sup, inh := s.hart.irq.inh, kept := .qlock pa t poll true } :: rest)
    (hrest : ∀ k ∈ rest, ∀ p u gr, k.kept ≠ .qlock p u true gr) (d a : Reg) (sc : BitVec 2) (g : BitVec 4) :
    exec (.qlock d a sc g) s = .next (((s.acquire s.cur sc (regionMask g)).updHart (·.release)).setX d (t.zeroExtend 64)).advance := by
  have hown : s.getHart s.cur = s.hart := if_pos rfl
  have hpoll : s.pollLocks s.cur = s := State.pollLocks_of_granted fun k hk p u he => by
    rw [hown, hheld] at hk
    rcases List.mem_cons.1 hk with rfl | hk
    · exact absurd he (by simp)
    · exact hrest k hk p u false he
  have hhere : s.hart.heldHere = some (.qlock pa t poll true) := by
    rw [Hart.heldHere, hheld, List.find?_cons_of_pos (by simp [Hart.isHere])]
    rfl
  have hwait : lockWait d sc g s = .ok () (((s.acquire s.cur sc (regionMask g)).updHart (·.release)).setX d (t.zeroExtend 64)) := by
    have hmod : (modify fun s => s.pollLocks s.cur : M Unit) s = .ok () s := congrArg (EStateM.Result.ok ()) hpoll
    rw [lockWait, M.bind_ok hmod, M.get_bind, hhere]
    exact M.bind_ok (doAcquire_of_idle h sc (regionMask g))
  refine finish_ok ?_
  rw [qlockBody, M.get_bind, hhere]
  exact hwait

/-- `qunlock` releases and increments now-serving at its home. -/
theorem exec_qunlock {s t : State} {a : Reg} {sc : BitVec 2} {g : BitVec 4} {pa : Nat} (hc : lockCheck (s.xr a) s = .ok pa t) (h : Idle t)
    (hw : t.releaseWaits t.cur sc (regionMask g) = none)
    (hok : ((t.release t.cur sc (regionMask g)).advanceServing (keySlot (t.release t.cur sc (regionMask g)).hart.ctx) pa).2 = true) :
    exec (.qunlock a sc g) s =
      .next ((t.release t.cur sc (regionMask g)).advanceServing (keySlot (t.release t.cur sc (regionMask g)).hart.ctx) pa).1.advance := by
  have ho : waitOverlap pa 8 true t = .ok () t := by simp [waitOverlap, t.ahead_of_idle h]
  have hs : waitSy true t = .ok () t := by simp [waitSy, t.ahead_of_idle h]
  refine finish_ok ?_
  rw [qunlockBody, M.get_bind, M.bind_ok hc, M.bind_ok ho, M.bind_ok hs, M.bind_ok (doRelease_of_idle h hw), M.get_bind]
  dsimp only
  rw [M.set_bind]
  exact congrFun (if_pos hok) _

/-! ### The messages (R139) -/

/-- A request that does not wait at its home is performed there. -/
theorem ends_homeWordStep {i j : Instr} {slot : State → Nat} {g : State → Nat → State} {s : State} {P : State → Prop}
    (he : exec i s = finishEvent (homeWordStep j slot g) s) (hpa : s.msg.addr.toNat < 2 ^ 52) (hbm : isHbm (laOf s.msg.addr.toNat) = true)
    (ha : s.msg.addr.toNat % 8 = 0) (hw : s.homeWaits (slot s) (dieOf (laOf s.msg.addr.toNat)) s.msg.addr.toNat = false)
    (h : P (g s s.msg.addr.toNat)) : Ends i s P := by
  refine ends_msgWord he hpa hbm ha ?_
  rw [if_neg (by rw [hw]; exact Bool.false_ne_true)]
  exact h

theorem SameHarts.getHart {s t : State} (h : SameHarts s t) (n : Nat) : t.getHart n = s.getHart n := by
  obtain ⟨hcur, hhart, hothers⟩ := h
  unfold State.getHart
  rw [hcur, hhart, hothers]

section
variable {s : State} (hpa : s.msg.addr.toNat < 2 ^ 52) (ha : s.msg.addr.toNat % 8 = 0) (hbm : isHbm (laOf s.msg.addr.toNat) = true)
include hpa ha hbm

/-- A draw for a hart of this device (R139). -/
theorem ends_draw (hf : s.msg.flag = false) (q : QuietHome s (keySlot (s.getHart s.msg.hart.toNat).ctx) s.msg.addr.toNat)
    (hw : s.homeWaits (keySlot (s.getHart s.msg.hart.toNat).ctx) (dieOf (laOf s.msg.addr.toNat)) s.msg.addr.toNat = false) {P : State → Prop}
    (hP : ∀ t k, s.drawTicket (keySlot (s.getHart s.msg.hart.toNat).ctx) s.msg.addr.toNat s.msg.hart.toNat = (t, some k) →
      P (t.updHartN s.msg.hart.toNat (·.keep k))) : Ends .qlockTicketDraw s P := by
  obtain ⟨t, ht, -⟩ := q.drawTicket ha s.msg.hart.toNat
  refine ends_homeWordStep rfl hpa hbm ha (by rw [hf]; exact hw) ?_
  rw [if_neg (by rw [hf]; exact Bool.false_ne_true), ht]
  exact hP t _ ht

/-- A draw for a hart of another device (R139). -/
theorem ends_drawRemote (hf : s.msg.flag = true) (q : QuietHome s (keySlot s.msg.slot) s.msg.addr.toNat)
    (hw : s.homeWaits (keySlot s.msg.slot) (dieOf (laOf s.msg.addr.toNat)) s.msg.addr.toNat = false) {P : State → Prop}
    (hP : ∀ t k, s.drawTicket (keySlot s.msg.slot) s.msg.addr.toNat (s.ownerKey s.msg.dev s.msg.hart.toNat) = (t, some k) →
      P (t.answerDraw s.msg.addr.toNat t.msg.dev s.msg.hart.toNat k)) : Ends .qlockTicketDraw s P := by
  obtain ⟨t, k, hk⟩ : ∃ t k, s.drawTicket (keySlot s.msg.slot) s.msg.addr.toNat (s.ownerKey s.msg.dev s.msg.hart.toNat) = (t, some k) := by
    obtain ⟨t, ht, -⟩ := q.drawTicket ha (s.ownerKey s.msg.dev s.msg.hart.toNat)
    exact ⟨t, _, ht⟩
  refine ends_homeWordStep rfl hpa hbm ha ?_ ?_
  · rw [if_pos hf]
    exact hw
  · rw [if_pos hf, hk]
    exact hP t k hk

end

theorem State.sameHome_tell (s : State) (dev ln hart : Nat) (what : FabricMsg) (m : BitVec 16) : s.SameHome (s.tell dev ln hart what m) :=
  (State.SameHome.inv s).tell (.refl s)

theorem State.answerDraw_frame (s : State) (pa : Nat) (dev : BitVec 10) (h : Nat) (k : Kept) :
    SameHarts s (s.answerDraw pa dev h k) ∧ s.SameHome (s.answerDraw pa dev h k) := by
  unfold State.answerDraw
  split
  · exact ⟨(s.tell_frame ..).1, s.sameHome_tell ..⟩
  · exact ⟨(s.tell_frame ..).1, s.sameHome_tell ..⟩
  · exact ⟨⟨rfl, rfl, rfl⟩, .refl s⟩

theorem State.slice_updHartN (s : State) (n k : Nat) (g : Hart → Hart) : (s.updHartN n g).slice k = s.slice k := by simp [State.slice]

theorem State.sameHome_updHartN (s : State) (n : Nat) (g : Hart → Hart) : s.SameHome (s.updHartN n g) := by
  refine (State.SameHome.refl s).of_m ?_ ?_ ?_ ?_ ?_ ?_ ?_ ?_ ?_ ?_ <;> simp

/-- A draw granted at once is answered with a message to the device of its hart. -/
theorem State.answerDraw_granted {s : State} {dev : BitVec 10} (hdev : dev ≠ s.fab.dev) (pa h : Nat) (p : Nat) (t : BitVec 32) (poll : Bool) :
    ∃ plane, (s.answerDraw pa dev h (.qlock p t poll true)).fab.sent.head? =
      some (.message plane s.fab.dev.toNat dev.toNat (.lockGrant t) (pa / 64) h 0#16) := by
  have hne : dev.toNat ≠ s.fab.dev.toNat := fun e => hdev (BitVec.eq_of_toNat_eq e)
  have hsent : s.answerDraw pa dev h (.qlock p t poll true) = s.tell dev.toNat (pa / 64) h (.lockGrant t) 0#16 := rfl
  rw [hsent, State.tell, if_neg hne]
  exact ⟨_, rfl⟩

theorem SameHarts.trans {s t u : State} (h : SameHarts s t) (g : SameHarts t u) : SameHarts s u := by
  obtain ⟨h1, h2, h3⟩ := h
  obtain ⟨g1, g2, g3⟩ := g
  exact ⟨g1.trans h1, g2.trans h2, g3.trans h3⟩

/-- The grant of the next ticket changes no hart and no byte. -/
theorem State.grantNext_frame (u : State) (k pa : Nat) (n : BitVec 32) : SameHarts u (u.grantNext k pa n) ∧ u.SameHome (u.grantNext k pa n) := by
  unfold State.grantNext
  cases (u.slice k).parks.find? (Park.waitsFor pa n) with
  | none => exact ⟨⟨rfl, rfl, rfl⟩, .refl u⟩
  | some p =>
    dsimp only [Option.elim]
    have hv : u.SameHome (u.setSlice k { u.slice k with parks := (u.slice k).parks.eraseP (Park.waitsFor pa n) }) := (State.SameHome.inv u).setSlice (.refl u)
    have hh : SameHarts u (u.setSlice k { u.slice k with parks := (u.slice k).parks.eraseP (Park.waitsFor pa n) }) := ⟨rfl, rfl, rfl⟩
    generalize u.setSlice k { u.slice k with parks := (u.slice k).parks.eraseP (Park.waitsFor pa n) } = v at hv hh
    split
    · exact ⟨hh, hv.of_m⟩
    · exact ⟨hh.trans (v.tell_frame ..).1, (State.SameHome.inv u).tell hv⟩

/-- The only entry parked for a ticket is granted to its hart and leaves the table. -/
theorem State.grantNext_single {u : State} {k pa : Nat} {n : BitVec 32} {p : Park} (hp : (u.slice k).parks = [p]) (hw : Park.waitsFor pa n p = true)
    (hh : p.hart < 2048) : ((u.grantNext k pa n).slice k).parks = [] ∧ (u.grantNext k pa n).inbox = u.inbox ++ [grantMsg p.hart pa p.ticket] := by
  have hg : u.grantNext k pa n = (u.setSlice k { u.slice k with parks := [] }).after [grantMsg p.hart pa p.ticket] := by
    unfold State.grantNext
    rw [hp, List.find?_cons_of_pos hw, List.eraseP_cons_of_pos hw]
    exact if_pos hh
  rw [hg, State.slice_after, State.slice_setSlice_same]
  exact ⟨rfl, rfl⟩

/-- A poll that finds now-serving at the ticket of the only record marks it granted. -/
theorem QuietHome.pollLocks {s : State} {pa h : Nat} {k : Held} {ticket : BitVec 32} (q : QuietHome s (keySlot (s.getHart h).ctx) pa)
    (hheld : (s.getHart h).held = [k]) (hk : k.kept = .qlock pa ticket true false) (hs : (lockWord s (keySlot (s.getHart h).ctx) pa).2 = ticket) :
    ∃ t, SameHarts s t ∧ s.SameHome t ∧ s.pollLocks h =
      t.updHartN h fun x => { x with held := x.held.map fun y => if y = k then { y with kept := .qlock pa ticket true true } else y } := by
  obtain ⟨t, ht, hat, hsame⟩ := q.syRead
  refine ⟨t, hat.harts, hsame, ?_⟩
  unfold State.pollLocks
  rw [hheld]
  dsimp only [List.foldl_cons, List.foldl_nil]
  rw [hk]
  dsimp only
  rw [ht]
  exact if_pos hs

theorem mem_ite_singleton {α : Type} (p : Prop) [Decidable p] (x : α) : (x ∈ if p then [x] else []) ↔ p := by
  split
  · next h => exact iff_of_true (List.mem_singleton_self x) h
  · next h => exact iff_of_false List.not_mem_nil h

/-- Settles O22: a lock word at a quiet home is two words of its line, of which a draw advances the lower and an increment the upper; what a hart keeps
of them is its record. -/
theorem queueLocks : Obligations.QueueLocks := by
  unfold Obligations.QueueLocks
  refine ⟨fun s d a sc g h => ⟨fun pa t poll rest hheld hrest => ?_, fun pa t hc ht => ?_⟩, fun s => ?_⟩
  · obtain ⟨⟨-, hhart, -⟩, hmem, hl1, -⟩ := s.acquired_acquire s.cur sc (regionMask g)
    have hkept : ((s.acquire s.cur sc (regionMask g)).updHart (·.release)).hart = s.hart.release := by rw [State.updHart_hart, hhart]
    refine ⟨_, exec_qlock_granted h hheld hrest d a sc g, ?_, fun r hr => ?_, ?_, hmem, fun k hk => ?_, fun l hl hr => ?_⟩
    · rw [State.xr_advance, State.xr_setX_same]
    · rw [State.xr_advance, State.xr_setX_other _ _ _ _ hr, State.xr, hkept]
      rfl
    · rw [State.advance_hart, State.setX_hart, hkept]
      simp [Hart.release]
    · have hin : k ∈ s.hart.held ∧ s.hart.isHere k = false := by
        rw [State.advance_hart, State.setX_hart, hkept] at hk
        simpa [Hart.release] using hk
      obtain ⟨hmem, hfalse⟩ := hin
      rw [hheld] at hmem
      rcases List.mem_cons.1 hmem with rfl | hin
      · exact absurd hfalse (by simp [Hart.isHere])
      · exact ⟨hin, hfalse⟩
    · exact lines_acquireLines (hl1 ▸ hl) hr
  · intro u hw hok
    exact exec_qunlock hc ht hw hok
  · intro h pa hpa ha hbm others free
    refine ⟨?_, ?_, ?_, ?_, ?_⟩
    · intro slot hf ⟨q, hw⟩
      refine ends_draw hpa ha hbm hf q hw fun t k hk => ?_
      obtain ⟨t', ht', hharts, -, -, hword, hparks⟩ := q.drawTicket ha h
      obtain ⟨rfl, hk'⟩ := Prod.mk.inj (hk.symm.trans ht')
      obtain rfl := Option.some.inj hk'
      have hhome : t.SameHome (t.updHartN h (·.keep (s.drawn slot pa))) := t.sameHome_updHartN ..
      refine ⟨fun n hn => ?_, (hhome.lockWord slot pa).trans hword,
        { pc := (s.getHart h).pc, sup := (s.getHart h).sup, inh := (s.getHart h).irq.inh, kept := s.drawn slot pa }, ?_, rfl, rfl, ?_⟩
      · rw [State.getHart_updHartN, if_neg hn, hharts.getHart]
      · rw [State.getHart_updHartN, if_pos rfl, hharts.getHart]
        rfl
      · rw [State.slice_updHartN, hparks, List.drop_left]
        exact (mem_ite_singleton ..).symm
    · intro slot hf hdev ⟨q, hw⟩
      refine ends_drawRemote hpa ha hbm hf q hw fun t k hk => ?_
      obtain ⟨t', ht', hharts, hfab, hmsg, hword, hparks⟩ := q.drawTicket ha (s.ownerKey s.msg.dev h)
      obtain ⟨rfl, hk'⟩ := Prod.mk.inj (hk.symm.trans ht')
      obtain rfl := Option.some.inj hk'
      obtain ⟨gharts, ghome⟩ := t.answerDraw_frame pa t.msg.dev h (s.drawn slot pa)
      refine ⟨hharts.trans gharts, (ghome.lockWord slot pa).trans hword, fun hmine => ?_⟩
      rw [State.drawn, decide_eq_true hmine, hmsg, ← hfab]
      exact State.answerDraw_granted (by rw [hfab]; exact hdev) ..
    · intro slot ⟨q, hw⟩ hnone
      refine ends_homeWordStep rfl hpa hbm ha hw ?_
      obtain ⟨u, hharts, hinbox, hword, hparks, hserve⟩ := q.advanceServing ha hnone
      obtain ⟨gharts, ghome⟩ := u.grantNext_frame (s.homeKey pa) pa ((lockWord s slot pa).2 + 1#32)
      change SameHarts s (s.advanceServing slot pa).1 ∧ lockWord (s.advanceServing slot pa).1 slot pa = _ ∧ _
      rw [hserve]
      refine ⟨hharts.trans gharts, (ghome.lockWord slot pa).trans hword, fun p hp hppa hl hh ht => ?_⟩
      have hwait : Park.waitsFor pa ((lockWord s slot pa).2 + 1#32) p = true := by simp [Park.waitsFor, hppa, hl, ht]
      obtain ⟨hnil, hmsg⟩ := State.grantNext_single (hparks.trans hp) hwait hh
      exact ⟨hnil, by rw [hmsg, hinbox]; rfl⟩
    · exact ends_msgWord rfl hpa hbm ha rfl
    · intro k ticket hheld hk hserving q
      obtain ⟨t, hharts, hsame, hpoll⟩ := q.pollLocks hheld hk hserving
      refine ⟨s.pollLocks h, rfl, ?_⟩
      rw [hpoll]
      refine ⟨fun n hn => ?_, ?_, ?_⟩
      · rw [State.getHart_updHartN, if_neg hn, hharts.getHart]
      · rw [State.getHart_updHartN, if_pos rfl, hharts.getHart, hheld]
        simp
      · exact ((t.sameHome_updHartN ..).lockWord ..).trans (hsame.lockWord ..)

end Sys2Proof.Machine
end

section
/-! PROOF. O42: copies that start and copies that end (spec/05 R141, spec/08 R223, spec/13 R341, R345, R346). -/
namespace Sys2Proof.Machine
set_option Elab.async false

/-! ### Starting a copy (R223) -/

theorem copyUnit_of_lt {s : State} (hu : s.msg.unit.toNat < 16) (g : State → Nat → State) :
    copyUnit g s = .ok () (g s (s.msg.die.toNat * 16 + s.msg.unit.toNat)) := by
  rw [copyUnit, M.get_bind]
  exact congrFun (if_pos hu) s

section
variable {s : State} {k : Nat}

theorem State.startCopy_none (h : 16 ≤ ((s.cluster k).copies.filter (·.active)).length ∨ ∀ c ∈ (s.cluster k).copies, c.active = true) :
    s.startCopy k = s := by
  have hnone : (if ((s.cluster k).copies.filter (·.active)).length < 16 then (s.cluster k).copies.findIdx? (!·.active) else none) = none := by
    rcases h with h | h
    · exact if_neg (Nat.not_lt.2 h)
    · rw [List.findIdx?_eq_none_iff.2 fun c hc => by rw [h c hc]; rfl]
      exact ite_self none
  unfold State.startCopy
  dsimp only
  rw [hnone]

theorem State.startCopy_waiting {l r : List CopyCmd} {c : CopyCmd} (hroom : ((s.cluster k).copies.filter (·.active)).length < 16)
    (hc : (s.cluster k).copies = l ++ c :: r) (hl : ∀ y ∈ l, y.active = true) (ha : c.active = false) :
    s.startCopy k = (s.setCluster k { s.cluster k with copies := l ++ { c with active := true } :: r }).after [(.copyComplete, copyMsg k)] := by
  have hidx : (s.cluster k).copies.findIdx? (!·.active) = some l.length := by
    have hnone : l.findIdx? (!·.active) = none := List.findIdx?_eq_none_iff.2 fun y hy => by rw [hl y hy]; rfl
    rw [hc, List.findIdx?_append, hnone, List.findIdx?_cons, ha]
    simp
  have hmod : (l ++ c :: r).modify l.length (fun c => { c with active := true }) = l ++ { c with active := true } :: r := by
    rw [List.modify_eq_take_cons_drop (by simp)]
    simp
  unfold State.startCopy
  dsimp only
  rw [if_pos hroom, hidx]
  dsimp only
  rw [hc, hmod]

end

/-! ### What an engine's write at a quiet home depends on -/

/-- A quiet line stays quiet where nothing that it rests on changes. -/
theorem QuietHome.of_same {s t : State} {slot pa : Nat} (q : QuietHome s slot pa) (hm : Mem.wf t.m.mem = true)
    (hlines : ∀ k, (s.slice k).lines = [] → (t.slice k).lines = []) (hregs : ∀ k, (t.slice k).regs = (s.slice k).regs)
    (hwatches : ∀ k, (t.slice k).watches = (s.slice k).watches) (hkeys : t.m.lineKeys = s.m.lineKeys := by rfl) (hareas : t.m.areas = s.m.areas := by rfl)
    (hslot : t.m.slotKeys = s.m.slotKeys := by rfl) (hchan : t.m.chanKeys = s.m.chanKeys := by rfl) (hpsn : t.m.poisoned = s.m.poisoned := by rfl)
    (hagents : t.m.agentWatches = s.m.agentWatches := by rfl) (hfab : t.fab = s.fab := by rfl) (hdisp : t.disp = s.disp := by rfl)
    (htrust : t.trust = s.trust := by rfl) : QuietHome t slot pa := by
  obtain ⟨-, hbm, hdev, hkey, hl, hr, hw, ha, hp, htext⟩ := q
  have hhome : t.homeKey pa = s.homeKey pa := State.homeKey_congr hfab pa
  have hline : t.lineKey (pa / 64) = s.lineKey (pa / 64) := by simp [State.lineKey, hkeys, hareas]
  have hat : t.keyAt slot pa = s.keyAt slot pa := by simp [State.keyAt, State.ctx, hslot, hchan, hfab, hdisp]
  have htexts : t.isProtected = s.isProtected := by
    funext a n
    rw [State.isProtected, State.isProtected, htrust]
  have hprot : t.protectedWords (pa / 64) = s.protectedWords (pa / 64) := by rw [State.protectedWords, State.protectedWords, htexts]
  refine ⟨hm, hbm, hfab ▸ hdev, by rw [hline, hat, hkey], ?_, fun k hk => (hregs k).trans (hr k hk), ?_, hagents.trans ha, ?_, hprot.trans htext⟩
  · rw [hhome]
    exact hlines _ hl
  · rw [hhome]
    exact (hwatches _).trans hw
  · rw [State.isPoisoned, hpsn]
    exact hp

theorem QuietHome.setSlice {s : State} {slot pa k : Nat} (q : QuietHome s slot pa) {v : SliceState} (hl : (s.slice k).lines = [] → v.lines = [])
    (hr : v.regs = (s.slice k).regs) (hw : v.watches = (s.slice k).watches) : QuietHome (s.setSlice k v) slot pa := by
  have hslice : ∀ j, (s.setSlice k v).slice j = if j = k then v else s.slice j := fun j => by
    split
    · next e => rw [e, State.slice_setSlice_same]
    · next e => exact State.slice_setSlice_other _ _ _ _ e
  have hm : Mem.wf s.m.mem = true := by
    obtain ⟨hwf, -⟩ := q
    exact hwf
  refine q.of_same hm (fun j => ?_) (fun j => ?_) (fun j => ?_)
  all_goals
    rw [hslice j]
    split
  · next e => exact e ▸ hl
  · exact id
  · next e => rw [e, hr]
  · rfl
  · next e => rw [e, hw]
  · rfl

/-- An engine that lets go of its pins leaves a quiet line quiet. -/
theorem QuietHome.unpinAll {s : State} {slot pa : Nat} (q : QuietHome s slot pa) (l : List (Nat × Nat)) : QuietHome (s.unpinAll l) slot pa := by
  refine Inv.foldl (P := fun u => QuietHome u slot pa) q fun u hu x => ?_
  have hpin : QuietHome (u.pinBy x (· - 1)) slot pa := hu.setSlice (fun h => by rw [h]; rfl) rfl rfl
  have hretry : QuietHome ((u.pinBy x (· - 1)).setSlice x.1 { (u.pinBy x (· - 1)).slice x.1 with waiting := [] }) slot pa := hpin.setSlice id rfl rfl
  exact hretry

/-! ### The end of a copy (R345) -/

/-- The plates are as given. -/
theorem Inv.Fill.plates (p : SMap Plate) : Inv.Fill fun t => t.m.plates = p where
  slices h := h
  poison h := h
  under h := h
  l1 h := h
  cc h := h
  fabric h := h
  agents h := h
  wake h := by rw [State.updHartN_m]; exact h
  store h := h
  channel h := h
  after h := h

theorem State.SameHome.drainCheck {s t : State} (h : s.SameHome t) (p : Nat) : s.SameHome (t.drainCheck p) := Inv.ite h.of_m h

theorem State.SameHome.setPlate {s t : State} (h : s.SameHome t) (p : Nat) (v : Plate) : s.SameHome (t.setPlate p v) := h.of_m

theorem State.SameHome.after {s t : State} (h : s.SameHome t) (l : List (Instr × Msg)) : s.SameHome (t.after l) := h.of_m

theorem State.SameHome.endFill {s t : State} (h : s.SameHome t) (p : Nat) (ok : Bool) : s.SameHome (t.endFill p ok) := by
  unfold State.endFill
  refine State.SameHome.after ?_ _
  split
  · split
    · exact (h.setPlate ..).drainCheck p
    · exact h.setPlate ..
  · split
    · exact (h.setPlate ..).drainCheck p
    · exact h

/-- The state in which the records of a copy that ends are written: it has left its unit and its progress word stands. -/
def State.copyLeft (s : State) (k i : Nat) (c : CopyCmd) : State :=
  ((s.setCluster k { s.cluster k with copies := (s.cluster k).copies.eraseIdx i }).unpinAll c.pins).writeProgress c

/-- What the end of a copy gives its hart. -/
def CopyCmd.noticed (c : CopyCmd) (status : BitVec 8) (h : Hart) : Hart :=
  { h with e1 := h.e1 ++ [c.record status], latch := h.latch ||| 1#7
           pendingUser := if c.irq && c.handler != 0#64 then h.pendingUser ++ [.copyDone c.id c.handler] else h.pendingUser }

theorem State.endCopy_eq (s : State) (k i : Nat) (c : CopyCmd) (status : BitVec 8) : s.endCopy k i c status =
    (c.drained.foldl (fun s d => s.drainCheck d.2)
      (c.filling.foldl (fun s p => s.endFill p (status == 0#8)) ((s.copyLeft k i c).updHartN c.hart (c.noticed status)))).after
      [(.copyStart, copyMsg k)] := rfl

section
variable (s : State) (k i : Nat) (c : CopyCmd) (status : BitVec 8)

theorem State.copies_copyLeft : ((s.copyLeft k i c).cluster k).copies = (s.cluster k).copies.eraseIdx i := by
  refine ((State.SameCopies.inv _).writeProgress ((State.SameCopies.inv _).unpinAll fun _ => rfl) k).trans ?_
  rw [State.cluster_setCluster_same]

theorem State.steady_copyLeft : s.Steady (s.copyLeft k i c) := (State.Steady.refl s).setCluster.unpinAll.writeProgress

theorem State.plate_copyLeft (p : Nat) : (s.copyLeft k i c).plate p = s.plate p := by
  have h : (s.copyLeft k i c).m.plates = s.m.plates := (Inv.Fill.plates _).writeProgress ((Inv.Fill.plates _).unpinAll rfl)
  rw [State.plate, h, ← State.plate]

theorem State.sameUnits_endCopy : ((s.copyLeft k i c).updHartN c.hart (c.noticed status)).SameUnits (s.endCopy k i c status) := by
  rw [State.endCopy_eq]
  exact (((State.SameUnits.refl _).foldl fun _ h _ => h.endFill).foldl fun _ h _ => h.drainCheck).after

theorem State.sameHome_endCopy : (s.copyLeft k i c).SameHome (s.endCopy k i c status) := by
  rw [State.endCopy_eq]
  have h : (s.copyLeft k i c).SameHome ((s.copyLeft k i c).updHartN c.hart (c.noticed status)) := by
    refine (State.SameHome.refl _).of_m ?_ ?_ ?_ ?_ ?_ ?_ ?_ ?_ ?_ ?_ <;> simp
  exact State.SameHome.after (Inv.foldl (Inv.foldl h fun _ h p => State.SameHome.endFill h p _) fun _ h d => State.SameHome.drainCheck h d.2) _

/-- A copy that ends leaves its unit, and its hart has its record, its latch bit and its interrupt. -/
theorem State.endCopy_frame : ((s.endCopy k i c status).cluster k).copies = (s.cluster k).copies.eraseIdx i ∧
    ((s.endCopy k i c status).getHart c.hart).e1.map (·.word) =
      (s.getHart c.hart).e1.map (·.word) ++ [status.zeroExtend 64 <<< 32 ||| c.id.zeroExtend 64] ∧
    ((s.endCopy k i c status).getHart c.hart).latch.getLsbD 0 = true ∧
    ((s.endCopy k i c status).getHart c.hart).pendingUser =
      (s.getHart c.hart).pendingUser ++ if c.irq = true ∧ c.handler ≠ 0#64 then [.copyDone c.id c.handler] else [] := by
  have hu := s.sameUnits_endCopy k i c status
  have hv : ((s.copyLeft k i c).updHartN c.hart (c.noticed status)).getHart c.hart = c.noticed status ((s.copyLeft k i c).getHart c.hart) :=
    (State.getHart_updHartN ..).trans (if_pos rfl)
  have hst := (s.steady_copyLeft k i c).2 c.hart
  have he1 : ((s.copyLeft k i c).getHart c.hart).e1 = (s.getHart c.hart).e1 := (congrArg Hart.e1 hst :)
  have hpu : ((s.copyLeft k i c).getHart c.hart).pendingUser = (s.getHart c.hart).pendingUser := (congrArg Hart.pendingUser hst :)
  rw [hu.cluster, hu.getHart, hv]
  refine ⟨?_, ?_, ?_, ?_⟩
  · rw [State.cluster, State.updHartN_m]
    exact s.copies_copyLeft k i c
  · rw [← he1]
    exact List.map_append
  · simp [CopyCmd.noticed]
  · rw [← hpu]
    have hif : (c.irq && c.handler != 0#64) = true ↔ c.irq = true ∧ c.handler ≠ 0#64 := by simp
    dsimp only [CopyCmd.noticed]
    split
    · next h => rw [if_pos (hif.1 h)]
    · next h => rw [if_neg (mt hif.2 h), List.append_nil]

end

/-- Its block lying at a quiet home, the progress word holds the elements performed and no other byte of memory has changed. -/
theorem QuietHome.endCopy {s : State} {c : CopyCmd} (q : QuietHome s (keySlot c.ctx) (c.blockPa + 0x28)) (ha : (c.blockPa + 0x28) % 8 = 0)
    (k i : Nat) (status : BitVec 8) :
    (s.endCopy k i c status).homeBytes (keySlot c.ctx) (c.blockPa + 0x28) 8 = toBytes 8 c.progress ∧
      ∀ a, ¬ (c.blockPa + 0x28 ≤ a ∧ a < c.blockPa + 0x28 + 8) → Mem.read (s.endCopy k i c status).m.mem a = Mem.read s.m.mem a := by
  have hm : Mem.wf s.m.mem = true := by
    obtain ⟨hwf, -⟩ := q
    exact hwf
  have hq : QuietHome ((s.setCluster k { s.cluster k with copies := (s.cluster k).copies.eraseIdx i }).unpinAll c.pins) (keySlot c.ctx) (c.blockPa + 0x28) :=
    (q.of_same (t := s.setCluster k { s.cluster k with copies := (s.cluster k).copies.eraseIdx i }) hm (fun _ => id) (fun _ => rfl) fun _ => rfl).unpinAll _
  have hmem : ((s.setCluster k { s.cluster k with copies := (s.cluster k).copies.eraseIdx i }).unpinAll c.pins).m.mem = s.m.mem :=
    Inv.foldl (P := fun u => u.m.mem = s.m.mem) rfl fun _ hu _ => hu
  have hlen : (toBytes 8 c.progress).length = 8 := toBytes_length ..
  obtain ⟨hb, -, hother⟩ := hq.engineWrite (bs := toBytes 8 c.progress) (by omega)
  have hhome := s.sameHome_endCopy k i c status
  rw [hlen] at hb hother
  refine ⟨(hhome.homeBytes ..).trans hb, fun a hout => ?_⟩
  rw [hhome.mem, ← hmem]
  exact hother a hout

/-! ### The first active command (R223, R345) -/

section
variable {s t : State} {k : Nat} {c : CopyCmd} {r : List CopyCmd}

theorem State.copyFirst_head (hc : (s.cluster k).copies = c :: r) (ha : c.active = true) (hrun : s.runCopy k 0 c = (t, true)) :
    State.copyFirst k (List.range (s.cluster k).copies.length) s = t := by
  have hrange : List.range (s.cluster k).copies.length = 0 :: (List.range r.length).map Nat.succ := by
    rw [hc, List.length_cons, List.range_succ_eq_map]
  rw [hrange, State.copyFirst, hc, List.getElem?_cons_zero]
  dsimp only
  rw [if_pos ha, hrun]

theorem ends_copyComplete {P : State → Prop} (hu : s.msg.unit.toNat < 16) (hk : k = s.msg.die.toNat * 16 + s.msg.unit.toNat)
    (hc : (s.cluster k).copies = c :: r) (ha : c.active = true) (hrun : s.runCopy k 0 c = (t, true)) (h : P t) : Ends .copyComplete s P := by
  refine ⟨_, finishEvent_ok (copyUnit_of_lt hu _), ?_⟩
  rw [← hk, State.copyFirst_head hc ha hrun]
  exact h

theorem State.runCopy_failed {i : Nat} {st : BitVec 8} (hctx : s.ctxRuns c.ctx.toNat (k / 16) = true) (hf : c.failed = some st) :
    s.runCopy k i c = (s.endCopy k i c st, true) := by
  rw [State.runCopy, hctx, hf]

theorem State.copyRun_single {s0 s v : State} {j : Nat} {c c' : CopyCmd} (h : State.copyRun s0 [j] s c = (v, c', none)) :
    ∃ l, c' = { c with progress := j + 1, buffer := l, served := c.served + 1 } := by
  rw [State.copyRun] at h
  split at h
  · next u bs _ =>
    dsimp only at h
    split at h
    · next hs =>
      obtain ⟨-, -, hn⟩ := Prod.mk.inj h |>.imp_right Prod.mk.inj
      rw [hn] at hs
      cases hs
    · exact ⟨_, (Prod.mk.inj (Prod.mk.inj h).2).1.symm⟩
  · cases (Prod.mk.inj (Prod.mk.inj h).2).2

/-- A copy of which one element is left, which its turn still allows, ends once that element is read and all that it keeps is written. -/
theorem State.runCopy_last {u v : State} {i : Nat} {c' c'' : CopyCmd} (hctx : s.ctxRuns c.ctx.toNat (k / 16) = true) (hf : c.failed = none)
    (hb : s.copyBegin c = some (u, c')) (hlast : c'.progress + 1 = c'.src.total) (hserved : c'.served < 256 / max c'.size.toNat 1)
    (hrun : State.copyRun { u with free := u.free + 1 } [c'.progress] { u with free := u.free + 1 } c' = (v, c'', none))
    (hflush : (v.copyFlush c'' true).stop = none) :
    s.runCopy k i c = ((v.copyFlush c'' true).s.endCopy k i { c'' with buffer := [] } 0#8, true) := by
  obtain ⟨l, rfl⟩ := State.copyRun_single hrun
  have hmost : min (c'.src.total - c'.progress) (256 / max c'.size.toNat 1 - c'.served) = 1 := by omega
  have hlist : (List.range 1).map (c'.progress + ·) = [c'.progress] := rfl
  rw [State.runCopy, hctx, hf, hb]
  dsimp only
  rw [hmost, if_neg Nat.one_ne_zero, Nat.mod_one, Nat.zero_add, hlist, hrun]
  dsimp only
  rw [if_neg (by omega), hflush]

theorem State.copyBegin_filling {u : State} {c' : CopyCmd} (h : s.copyBegin c = some (u, c')) : ∃ l, c' = { c with filling := l } := by
  unfold State.copyBegin at h
  split at h
  · exact ⟨c.filling, (Prod.mk.inj (Option.some.inj h)).2.symm⟩
  · dsimp only at h
    split at h
    · exact ⟨_, (Prod.mk.inj (Option.some.inj h)).2.symm⟩
    · cases h

end

/-- The record of a copy that is done holds its ID alone. -/
theorem recordWord_done (id : BitVec 32) : (0#8 : BitVec 8).zeroExtend 64 <<< 32 ||| id.zeroExtend 64 = id.zeroExtend 64 := by simp

/-! ### A copy of one element between two plates (R344) -/

theorem isHbm_platePa {s : State} {p ofs i : Nat} (hp : p < 1024) (ho : ofs + i < 0x40000) : isHbm (laOf (platePa s p ofs + i)) = false := by
  have hla : plateLa (p / 128) (p % 128) ofs + i < 2 ^ 42 ∧ 2 ^ 39 ≤ plateLa (p / 128) (p % 128) ofs + i := by
    unfold plateLa
    omega
  unfold platePa
  generalize plateLa (p / 128) (p % 128) ofs = la at hla
  have hself : laOf (s.ownPa la + i) = la + i := by
    unfold laOf State.ownPa
    omega
  rw [hself]
  exact decide_eq_false (Nat.not_lt.2 hla.2)

theorem platePa_congr {s t : State} (h : t.fab = s.fab) (p ofs : Nat) : platePa t p ofs = platePa s p ofs := by
  unfold platePa State.ownPa
  rw [h]

/-- The bytes of an element within the unit that is written together lie at its offset of the plate. -/
theorem platePa_unit {s : State} {p u : Nat} {a : Word} (hu : u ∈ [4, 8]) : platePa s p (plateOfs a / u * u) + a.toNat % u = platePa s p (plateOfs a) := by
  have hofs : plateOfs a = a.toNat % 2 ^ 19 := by simp [plateOfs]
  have hdiv : plateOfs a / u * u + a.toNat % u = plateOfs a := by
    rw [hofs]
    simp only [List.mem_cons, List.not_mem_nil, or_false] at hu
    rcases hu with rfl | rfl
    · omega
    · omega
  have hadd : ∀ o i, platePa s p o + i = platePa s p (o + i) := fun o i => by
    unfold platePa State.ownPa plateLa
    simp only [Nat.add_assoc]
  rw [hadd, hdiv]

/-- Element 0 of a side of a copy lies in the plate that a slot of its hart holds. -/
structure PlateEnd (s : State) (c : CopyCmd) (side : CopySide) (p : Nat) : Prop where
  kind : side.kind = 1#2
  window : inPlateWindow c.pwb (side.addr 0) = true
  fits : plateOfs (side.addr 0) + c.size.toNat ≤ 0x40000
  drained : c.drained = []
  slot : (s.getHart c.hart).slotAt (plateSlotOf (side.addr 0)).toNat = .attached p

/-- The plate of a die that a slot of a copy's hart names. -/
def CopyCmd.plate (c : CopyCmd) (p : Nat) : Nat := dieOfHart c.hart * 128 + p

/-- A copy of one element, not yet begun, from a READY plate to another that may be filled. -/
structure PlateCopy (s : State) (c : CopyCmd) (p q : Nat) : Prop where
  src : PlateEnd s c c.src p
  dst : PlateEnd s c c.dst q
  size : c.size.toNat ∈ [1, 2, 4, 8]
  one : c.src.total = 1 ∧ c.dst.total = 1
  fresh : c.progress = 0 ∧ c.buffer = [] ∧ c.served = 0 ∧ c.filling = []
  differ : p ≠ q
  ready : (s.plate (c.plate p)).state = 2#2
  fills : (s.plate (c.plate q)).state = 0#2 ∨ (s.plate (c.plate q)).state = 2#2
  marks : s.m.marks = []

/-- The element's place in its plate. -/
def State.endPa (s : State) (c : CopyCmd) (side : CopySide) (p : Nat) : Nat := platePa s (c.plate p) (plateOfs (side.addr 0))

section
variable {s : State} {c : CopyCmd}

theorem PlateEnd.copyPlace {store : Bool} {side : CopySide} {p : Nat} (h : PlateEnd s c side p) (hside : (if store then c.dst else c.src) = side) :
    s.copyPlace c store (side.addr 0) = (s, .ok (.plate (c.plate p) (plateOfs (side.addr 0)) false)) := by
  obtain ⟨hk, hw, ho, hd, hs⟩ := h
  unfold State.copyPlace
  dsimp only
  rw [hside, hk, if_neg (by decide), if_pos rfl, hw, if_neg (by simp [ho]), hd]
  dsimp only [List.find?_nil]
  rw [hs]
  rfl

/-- An element of a READY plate is read there. -/
theorem PlateEnd.copyTake {p : Nat} (h : PlateEnd s c c.src p) (hready : (s.plate (c.plate p)).state = 2#2) (hmarks : s.m.marks = []) :
    s.copyTake s c 0 = (s, .data (s.homeBytes 0 (s.endPa c c.src p) c.size.toNat)) := by
  have hread : s.copyRead c 0 = (s, .data (s.homeBytes 0 (s.endPa c c.src p) c.size.toNat)) := by
    unfold State.copyRead
    rw [h.copyPlace rfl]
    dsimp only
    rw [Plate.admits, hready, State.copyWindow, hmarks]
    rfl
  rw [State.copyTake, hread]
  exact if_pos rfl

/-- The only element kept is written to the plate that the copy fills. -/
theorem PlateEnd.copyPut {q : Nat} (h : PlateEnd s c c.dst q) (hn : c.size.toNat ∈ [1, 2, 4, 8]) (hfill : c.filling = [c.plate q]) (bs : List Byte) (n : Nat) :
    State.copyPut { s with free := n } c [(0, bs)] = (State.homeStore { s with free := n } 0 (s.endPa c c.dst q) bs, .data bs) := by
  have hunit : c.unit ∈ [4, 8] := by
    unfold CopyCmd.unit
    simp only [List.mem_cons, List.not_mem_nil, or_false] at hn
    rcases hn with h | h | h | h <;> simp [h]
  have hfree : PlateEnd { s with free := n } c c.dst q := ⟨h.kind, h.window, h.fits, h.drained, h.slot⟩
  unfold State.copyPut
  dsimp only
  rw [hfree.copyPlace rfl]
  dsimp only
  rw [if_pos (by simp [hfill]), List.map_singleton, List.foldl_cons, List.foldl_nil,
    platePa_congr (show ({ s with free := n } : State).fab = s.fab from rfl), platePa_unit hunit]
  rfl

/-- The state and what is left once that element has been met: it is written, or put off where the copy may keep it. -/
theorem PlateEnd.copyFlush {q : Nat} (h : PlateEnd s c c.dst q) {bs : List Byte} (hn : c.size.toNat ∈ [1, 2, 4, 8]) (hfill : c.filling = [c.plate q])
    (hb : c.buffer = [(0, bs)]) (hp : c.progress = 1) (fin : Bool) :
    (∃ n, s.copyFlush c fin = { s := State.homeStore { s with free := n } 0 (s.endPa c c.dst q) bs, left := [], stop := none }) ∨
    (fin = false ∧ s.copyFlush c fin = { s, left := [(0, bs)], stop := none }) := by
  have hmates : c.mates 0 = [0] := by simp [CopyCmd.mates, CopySide.inMemory, h.kind]
  have hflush : s.copyFlush c fin = flushOne c fin { s, left := [(0, bs)], stop := none } (0, bs) := by
    rw [State.copyFlush, hb]
    rfl
  rw [hflush]
  unfold flushOne
  dsimp only
  rw [hmates, hp]
  by_cases hlate : c.ordered = false ∧ fin = false ∧ Config.freeBool s.free = true
  · obtain ⟨hord, hfin, hfree⟩ := hlate
    refine .inr ⟨hfin, if_pos ?_⟩
    simp [hord, hfin, hfree]
  · refine .inl ⟨if c.ordered then s.free else s.free + 2, ?_⟩
    rw [if_neg (by simpa using hlate)]
    have hstate : (if c.ordered then s else { s with free := s.free + 2 }) = { s with free := if c.ordered then s.free else s.free + 2 } := by
      split <;> rfl
    have hkept : (if !c.ordered && Config.freeBool (s.free + 1) then [(0, bs)].reverse else [(0, bs)]) = [(0, bs)] := ite_self _
    have hin : [(0, bs)].filter (fun y => [0].contains y.1) = [(0, bs)] := rfl
    rw [hin, hkept, hstate, h.copyPut hn hfill]
    rfl

/-- A plate that is EMPTY or READY goes FILLING as the copy begins. -/
theorem PlateEnd.copyBegin {q : Nat} (h : PlateEnd s c c.dst q) (ht : c.dst.total = 1) (hf : c.filling = [])
    (hq : (s.plate (c.plate q)).state = 0#2 ∨ (s.plate (c.plate q)).state = 2#2) :
    s.copyBegin c = some (s.setPlate (c.plate q) { s.plate (c.plate q) with state := 1#2 }, { c with filling := [c.plate q] }) := by
  have hplates : s.copyPlates c = [(c.plate q, false)] := by
    rw [State.copyPlates, ht, List.range_one, List.filterMap_cons, h.copyPlace rfl]
    rfl
  have hne : (s.plate (c.plate q)).state ≠ 3#2 := by
    rcases hq with h | h <;> rw [h] <;> decide
  have hnew : [(c.plate q, false)].filter (fun x => !([] : List Nat).contains x.1) = [(c.plate q, false)] := rfl
  unfold State.copyBegin
  rw [if_neg (by rw [h.kind]; decide), hplates, hf]
  dsimp only
  rw [hnew, if_pos (by rcases hq with h | h <;> simp [h]), List.foldl_cons, List.foldl_nil, if_neg hne]
  rfl

end

/-- The state once the plate that a copy fills holds its bytes. -/
def State.filled (s : State) (p free a : Nat) (bs : List Byte) : State :=
  State.homeStore { s.setPlate p { s.plate p with state := 1#2 } with free } 0 a bs

/-- The command as it ends once its one element has been performed. -/
def CopyCmd.performed (c : CopyCmd) (q : Nat) : CopyCmd := { c with filling := [c.plate q], progress := 1, buffer := [], served := 1 }

/-- A copy of one element between two plates ends with the element in its destination. -/
theorem PlateCopy.runCopy {s : State} {c : CopyCmd} {k i p q : Nat} (h : PlateCopy s c p q) (hctx : s.ctxRuns c.ctx.toNat (k / 16) = true)
    (hfail : c.failed = none) : ∃ n, s.runCopy k i c =
      ((s.filled (c.plate q) n (s.endPa c c.dst q) (s.homeBytes 0 (s.endPa c c.src p) c.size.toNat)).endCopy k i (c.performed q) 0#8, true) := by
  obtain ⟨hsrc, hdst, hn, ⟨hst, hdt⟩, ⟨hprog, hbuf, hserved, hfill⟩, hpq, hready, hq, hmarks⟩ := h
  let bs := s.homeBytes 0 (s.endPa c c.src p) c.size.toNat
  let u := s.setPlate (c.plate q) { s.plate (c.plate q) with state := 1#2 }
  let d : CopyCmd := { c with filling := [c.plate q] }
  let e : CopyCmd := { d with progress := 1, buffer := [(0, bs)], served := 1 }
  let w : State := { u with free := u.free + 1 }
  have hbegin : s.copyBegin c = some (u, d) := hdst.copyBegin hdt hfill hq
  have hsame : s.SameHome w := (State.SameHome.refl s).of_m
  have hne : c.plate p ≠ c.plate q := fun h => hpq (Nat.add_left_cancel h)
  have hplate : w.plate (c.plate p) = s.plate (c.plate p) := State.plate_setPlate_other _ _ _ _ hne
  have hpa : ∀ side p, w.endPa c side p = s.endPa c side p := fun _ _ => platePa_congr rfl _ _
  have htake : w.copyTake w d 0 = (w, .data bs) := by
    have hend : PlateEnd w d d.src p := ⟨hsrc.kind, hsrc.window, hsrc.fits, hsrc.drained, hsrc.slot⟩
    rw [hend.copyTake (hplate ▸ hready) hmarks, hsame.homeBytes]
    exact congrArg (fun a => (w, CopyRes.data (s.homeBytes 0 a c.size.toNat))) (hpa c.src p)
  have hread : ({ d with progress := 0 + 1, buffer := d.buffer ++ [(0, bs)], served := d.served + 1 } : CopyCmd) = e := by simp [d, e, hbuf, hserved]
  have hrun : ∀ f, w.copyFlush e false = f → f.stop = none → State.copyRun w [d.progress] w d = (f.s, { e with buffer := f.left }, none) := fun f hf hs => by
    have h0 : d.progress = 0 := hprog
    rw [h0, State.copyRun, htake]
    dsimp only
    rw [hread, hf, hs, show d.served = 0 from hserved]
    rfl
  have hlast : d.progress + 1 = d.src.total := by rw [show d.progress = 0 from hprog, show d.src.total = 1 from hst]
  have hturn : d.served < 256 / max d.size.toNat 1 := by
    have hpos : 0 < 256 / max c.size.toNat 1 := Nat.div_pos (by have := c.size.isLt; omega) (by omega)
    exact hserved ▸ hpos
  have hend : PlateEnd w e e.dst q := ⟨hdst.kind, hdst.window, hdst.fits, hdst.drained, hdst.slot⟩
  have hflush := hend.copyFlush (bs := bs) hn rfl rfl rfl
  rcases hflush false with ⟨n, hf⟩ | ⟨-, hf⟩
  · refine ⟨n, ?_⟩
    rw [State.runCopy_last hctx hfail hbegin hlast hturn (hrun _ hf rfl) rfl, ← hpa]
    rfl
  · rcases hflush true with ⟨n, hg⟩ | ⟨h, -⟩
    · refine ⟨n, ?_⟩
      have hkept : ({ e with buffer := [(0, bs)] } : CopyCmd) = e := rfl
      rw [State.runCopy_last hctx hfail hbegin hlast hturn (hrun _ hf rfl) (by rw [hkept, hg]), hkept, hg, ← hpa]
      rfl
    · cases h

/-- A store to on-chip storage leaves a quiet line quiet. -/
theorem QuietHome.windowStore {s : State} {slot pa a : Nat} (q : QuietHome s slot pa) (ha : isHbm (laOf a) = false) (slot' : Nat) (bs : List Byte) :
    QuietHome (s.homeStore slot' a bs) slot pa := by
  have hm : Mem.wf s.m.mem = true := by
    obtain ⟨hwf, -⟩ := q
    exact hwf
  unfold State.homeStore
  rw [if_neg (by rw [ha]; exact Bool.false_ne_true)]
  exact q.of_same (Mem.wf_writes hm) (fun _ => id) (fun _ => rfl) fun _ => rfl

/-- A plate that nobody has asked for is READY once its fill is done. -/
theorem State.plate_endFill {s : State} {p : Nat} (hs : (s.plate p).state = 1#2) (hh : (s.plate p).hand = none) :
    ((s.endFill p true).plate p).state = 2#2 := by
  unfold State.endFill
  dsimp only
  rw [if_pos hs, hh, if_neg (by simp)]
  exact congrArg Plate.state (State.plate_setPlate_same ..)

section
variable {s : State} {p a : Nat} {bs : List Byte} (n : Nat) (ha : isHbm (laOf a) = false)
include ha

/-- A plate that is filled changes no hart and no copy; it is FILLING and holds the bytes. -/
theorem State.filled_frame (hm : Mem.wf s.m.mem = true) : (∀ h, (s.filled p n a bs).getHart h = s.getHart h) ∧
    (∀ k, ((s.filled p n a bs).cluster k).copies = (s.cluster k).copies) ∧ (s.filled p n a bs).plate p = { s.plate p with state := 1#2 } ∧
    ∀ x, Mem.read (s.filled p n a bs).m.mem x = if a ≤ x ∧ x < a + bs.length then bs[x - a]? else Mem.read s.m.mem x := by
  have hplates : (s.filled p n a bs).m.plates = (s.setPlate p { s.plate p with state := 1#2 }).m.plates := (Inv.Fill.plates _).homeStore rfl
  have hu : s.SameCopies { s.setPlate p { s.plate p with state := 1#2 } with free := n } := fun _ => rfl
  have hcopies : s.SameCopies (s.filled p n a bs) := (State.SameCopies.inv s).homeStore hu
  refine ⟨fun h => (State.homeStore_frame ..).1.getHart h, hcopies, ?_, State.homeStore_window _ _ _ _ ha hm⟩
  rw [State.plate, hplates]
  exact State.plate_setPlate_same ..

theorem QuietHome.filled {slot pa : Nat} (q : QuietHome s slot pa) : QuietHome (s.filled p n a bs) slot pa := by
  have hm : Mem.wf s.m.mem = true := by
    obtain ⟨hwf, -⟩ := q
    exact hwf
  have hu : QuietHome { s.setPlate p { s.plate p with state := 1#2 } with free := n } slot pa := q.of_same hm (fun _ => id) (fun _ => rfl) fun _ => rfl
  exact hu.windowStore ha 0 bs

end

/-- A plate that only the ending copy filled is READY after it. -/
theorem State.plate_endCopy_filled {s : State} {c : CopyCmd} {q : Nat} (k i : Nat) (hd : c.drained = []) (hf : c.filling = [q])
    (hs : (s.plate q).state = 1#2) (hh : (s.plate q).hand = none) : ((s.endCopy k i c 0#8).plate q).state = 2#2 := by
  have hplate : ((s.copyLeft k i c).updHartN c.hart (c.noticed 0#8)).plate q = s.plate q := by
    rw [State.plate_updHartN, State.plate_copyLeft]
  rw [State.endCopy_eq, hd, hf]
  exact State.plate_endFill (by rw [hplate, hs]) (by rw [hplate, hh])

/-- After a copy of one element between two plates the destination is READY with the source's bytes, and the progress word is 1. -/
theorem PlateCopy.ends {s : State} {c : CopyCmd} {k p q : Nat} (h : PlateCopy s c p q) (hctx : s.ctxRuns c.ctx.toNat (k / 16) = true)
    (hfail : c.failed = none) (hhart : c.hart < 2048) (hp : p < 128) (hq : q < 128) (hhand : (s.plate (c.plate q)).hand = none)
    (ha8 : (c.blockPa + 0x28) % 8 = 0) (hquiet : QuietHome s (keySlot c.ctx) (c.blockPa + 0x28)) (r : List CopyCmd) (hc : (s.cluster k).copies = c :: r) :
    ∃ t, s.runCopy k 0 c = (t, true) ∧ (t.cluster k).copies = r ∧
      (t.getHart c.hart).e1.map (·.word) = (s.getHart c.hart).e1.map (·.word) ++ [c.id.zeroExtend 64] ∧
      (t.getHart c.hart).latch.getLsbD 0 = true ∧
      (t.getHart c.hart).pendingUser = (s.getHart c.hart).pendingUser ++ (if c.irq = true ∧ c.handler ≠ 0#64 then [.copyDone c.id c.handler] else []) ∧
      (t.plate (c.plate q)).state = 2#2 ∧
      (∀ i, i < c.size.toNat → (Mem.read t.m.mem (s.endPa c c.dst q + i)).getD 0#8 = (Mem.read s.m.mem (s.endPa c c.src p + i)).getD 0#8) ∧
      t.homeBytes (keySlot c.ctx) (c.blockPa + 0x28) 8 = toBytes 8 1 := by
  have hplate : ∀ x, x < 128 → c.plate x < 1024 := fun x hx => by
    unfold CopyCmd.plate dieOfHart
    omega
  have hsize : 0 < c.size.toNat := by
    have hn := h.size
    simp only [List.mem_cons, List.not_mem_nil, or_false] at hn
    omega
  have hdst : ∀ i < c.size.toNat, isHbm (laOf (s.endPa c c.dst q + i)) = false := fun i hi => isHbm_platePa (hplate q hq) (by have := h.dst.fits; omega)
  have hsrc : ∀ i < c.size.toNat, isHbm (laOf (s.endPa c c.src p + i)) = false := fun i hi => isHbm_platePa (hplate p hp) (by have := h.src.fits; omega)
  have hdst0 : isHbm (laOf (s.endPa c c.dst q)) = false := by
    have h0 := hdst 0 hsize
    rwa [Nat.add_zero] at h0
  obtain ⟨hm, hbm, -⟩ := id hquiet
  obtain ⟨n, hrun⟩ := h.runCopy (i := 0) hctx hfail
  have hlen : (s.homeBytes 0 (s.endPa c c.src p) c.size.toNat).length = c.size.toNat := homeBytes_length ..
  have hbyte : ∀ i < c.size.toNat, (s.homeBytes 0 (s.endPa c c.src p) c.size.toNat)[i]? = some ((Mem.read s.m.mem (s.endPa c c.src p + i)).getD 0#8) :=
    fun i hi => by rw [State.getElem?_homeBytes _ _ _ hi, State.homeByte, if_neg (by rw [hsrc i hi]; exact Bool.false_ne_true)]
  generalize s.homeBytes 0 (s.endPa c c.src p) c.size.toNat = bs at hrun hlen hbyte
  obtain ⟨gharts, gcopies, gplate, gread⟩ := State.filled_frame (s := s) (p := c.plate q) (bs := bs) n hdst0 hm
  have gquiet := hquiet.filled (p := c.plate q) (bs := bs) n hdst0
  generalize s.filled (c.plate q) n (s.endPa c c.dst q) bs = z at hrun gharts gcopies gplate gread gquiet
  obtain ⟨hcopies, he1, hlatch, hitem⟩ := z.endCopy_frame k 0 (c.performed q) 0#8
  obtain ⟨hprogress, hbytes⟩ := QuietHome.endCopy (c := c.performed q) gquiet ha8 k 0 0#8
  refine ⟨_, hrun, ?_, ?_, hlatch, ?_, ?_, fun i hi => ?_, hprogress⟩
  · rw [hcopies, gcopies, hc]
    rfl
  · rw [recordWord_done, gharts] at he1
    exact he1
  · rw [gharts] at hitem
    exact hitem
  · exact State.plate_endCopy_filled k 0 h.dst.drained rfl (by rw [gplate]) (by rw [gplate]; exact hhand)
  · have hout : ¬ (c.blockPa + 0x28 ≤ s.endPa c c.dst q + i ∧ s.endPa c c.dst q + i < c.blockPa + 0x28 + 8) := fun hin => by
      rw [isHbm_line (b := s.endPa c c.dst q + i) (by omega), hdst i hi] at hbm
      cases hbm
    have hread : Mem.read z.m.mem (s.endPa c c.dst q + i) = bs[i]? := by rw [gread, if_pos (by omega), Nat.add_sub_cancel_left]
    refine (congrArg (Option.getD · 0#8) ((hbytes _ hout).trans hread)).trans ?_
    rw [hbyte i hi]
    rfl

/-- Settles O42: a copy ends by its record, latch bit and interrupt whatever ends it; its last element performed, the progress word counts them all,
and a copy between two plates performs its one element in its destination. -/
theorem copiesStartAndComplete : Obligations.CopiesStartAndComplete := by
  unfold Obligations.CopiesStartAndComplete
  intro s k x hu
  refine ⟨fun h => ?_, fun l c r hroom hc hl ha => ?_, fun c r hc ha hctx => ⟨fun st hf => ?_, ?_, ?_⟩⟩
  · exact (finishEvent_ok (copyUnit_of_lt hu _)).trans (by rw [State.startCopy_none h])
  · refine ⟨_, finishEvent_ok (copyUnit_of_lt hu _), ?_⟩
    rw [State.startCopy_waiting hroom hc hl ha]
    exact ⟨State.cluster_setCluster_same .., ⟨rfl, rfl, rfl⟩, rfl, rfl⟩
  · obtain ⟨hcopies, he1, hlatch, hitem⟩ := s.endCopy_frame k 0 c st
    refine ends_copyComplete hu rfl hc ha (State.runCopy_failed hctx hf) ⟨?_, he1, hlatch, hitem, fun ⟨hal, q⟩ => (q.endCopy hal k 0 st).1⟩
    rw [hcopies, show (s.cluster k).copies = c :: r from hc]
    rfl
  · intro p q a b n plateOf hf hprog hbuf hserved hfill hdr hn hst hdt hsk hdk hal hbl hsw hdw hso hdo hhart hp hq hpq hss hds hready hstate hhand hmarks ⟨ha8, hquiet⟩
    have hcopy : PlateCopy s c p q := ⟨⟨hsk, hsw, hso, hdr, hss⟩, ⟨hdk, hdw, hdo, hdr, hds⟩, hn, ⟨hst, hdt⟩, ⟨hprog, hbuf, hserved, hfill⟩, hpq, hready, hstate, hmarks⟩
    obtain ⟨t, hrun, hend⟩ := hcopy.ends hctx hf hhart hp hq hhand ha8 hquiet r hc
    exact ends_copyComplete hu rfl hc ha hrun hend
  · intro u c' v c'' hf hb hlast hserved hrun hflush z
    obtain ⟨f, rfl⟩ := State.copyBegin_filling hb
    have hend := State.runCopy_last (i := 0) hctx hf hb hlast hserved hrun hflush
    obtain ⟨l, rfl⟩ := State.copyRun_single hrun
    obtain ⟨hcopies, he1, hlatch, hitem⟩ := z.endCopy_frame k 0 { c with filling := f, progress := c.progress + 1, buffer := [], served := c.served + 1 } 0#8
    refine ends_copyComplete hu rfl hc ha hend ⟨hcopies, ?_, hlatch, hitem, fun ⟨hal, q⟩ => ?_⟩
    · rw [recordWord_done] at he1
      exact he1
    · rw [← hlast]
      exact (QuietHome.endCopy (c := { c with filling := f, progress := c.progress + 1, buffer := [], served := c.served + 1 }) q hal k 0 0#8).1

end Sys2Proof.Machine
end

section
/-! PROOF. O23: waits and wakes (spec/07 R198, R199, spec/13 R339). -/
namespace Sys2Proof.Machine
set_option Elab.async false

/-- The latch as `wait` finds it: the TIMEOUT bit is set where the time has passed (R199). -/
def State.metTimeout (s : State) (u : Word) : State := if u ≠ 0#64 ∧ u.toNat ≤ s.time then s.updHart (·.setLatch latchTimeout) else s

theorem Hart.wakes_iff (h : Hart) : h.wakes = true ↔ h.latch ≠ 0#7 ∨ h.hasRecord = true := by simp [Hart.wakes]

theorem State.latch_metTimeout (s : State) (u : Word) :
    (s.metTimeout u).hart.latch = s.hart.latch ||| (if u ≠ 0#64 ∧ u.toNat ≤ s.time then 0b0100000#7 else 0#7) := by
  unfold State.metTimeout
  split
  · rfl
  · exact (BitVec.or_zero ..).symm

theorem State.metTimeout_frame (s : State) (u : Word) : (∀ r, (s.metTimeout u).xr r = s.xr r) ∧ (s.metTimeout u).m = s.m ∧
    (s.metTimeout u).hart.hasRecord = s.hart.hasRecord ∧ (s.metTimeout u).hart.pc = s.hart.pc := by
  unfold State.metTimeout
  split <;> exact ⟨fun _ => rfl, rfl, rfl, rfl⟩

theorem State.metTimeout_early {s : State} {u : Word} (h : ¬ (u ≠ 0#64 ∧ u.toNat ≤ s.time)) : s.metTimeout u = s := if_neg h

theorem State.wakes_metTimeout {s : State} {u : Word} :
    (s.metTimeout u).hart.wakes = true ↔ s.hart.latch ≠ 0#7 ∨ s.hart.hasRecord = true ∨ u ≠ 0#64 ∧ u.toNat ≤ s.time := by
  obtain ⟨-, -, hrec, -⟩ := s.metTimeout_frame u
  rw [Hart.wakes_iff, hrec, State.latch_metTimeout]
  split
  · next h => simp [h]
  · next h => simp [h]

theorem exec_wait_ends {s : State} {a : Reg} (h : (s.metTimeout (s.xr a)).hart.wakes = true) (d : Reg) :
    exec (.wait d a) s = .next ((s.metTimeout (s.xr a)).endWait d).advance := 
  finish_ok (congrFun (if_pos h) s)

theorem exec_wait_sleeps {s : State} {a : Reg} (h : ¬ (s.metTimeout (s.xr a)).hart.wakes = true) (d : Reg) :
    exec (.wait d a) s = .next ((s.metTimeout (s.xr a)).updHart fun x => { x with phase := .waiting (s.xr a) d }) := 
  finish_stall (congrFun (if_neg h) s)

/-- The end of a `wait`: x[d] receives the latch, with the port bit where a record stands, and the latch is cleared. -/
theorem State.endWait_frame (s : State) (d : Reg) :
    (s.endWait d).xr d = (if d = 0#5 then 0#64 else (s.hart.latch ||| (if s.hart.hasRecord then 0b0000001#7 else 0#7)).zeroExtend 64) ∧
    (∀ r, r ≠ d → (s.endWait d).xr r = s.xr r) ∧ (s.endWait d).hart.latch = 0#7 ∧ (s.endWait d).hart.phase = .running ∧
    (s.endWait d).hart.pc = s.hart.pc ∧ (s.endWait d).m = s.m := by
  refine ⟨?_, fun r hr => (State.xr_setX_other _ _ _ _ hr).trans rfl, ?_, Hart.setX_phase .., Hart.setX_pc .., rfl⟩
  · rw [State.endWait, State.xr_setX_same]
    cases s.hart.hasRecord
    · rw [if_neg Bool.false_ne_true, if_neg Bool.false_ne_true, BitVec.or_zero]; rfl
    · rfl
  · exact Hart.setX_latch ..

theorem exec_wake {s : State} {a : Reg} {h : Nat} (hl : s.logicalHart (s.xr a) = some h) : exec (.wake a) s = .next (if s.hasRetired h then s
    else s.after [(.wakeArrival, { hart := BitVec.ofNat 11 h, unit := BitVec.ofNat 32 (s.hart.launch.getD 128) })]).advance := by
  refine finish_ok ?_
  rw [wakeBody, M.get_bind, M.bind_ok (needHart_some hl)]
  rfl

theorem needHart_none {s : State} {n : Word} (h : s.logicalHart n = none) : needHart n s = .error (.trap tcAccessFault n) s := by
  simp only [needHart, M.get_bind, h]
  rfl

theorem exec_wake_unknown {s : State} {a : Reg} (hl : s.logicalHart (s.xr a) = none) :
    exec (.wake a) s = .next (s.takeTrap tcAccessFault (s.xr a) 0#2 s.hart.pc) := by
  refine finish_trap ?_
  rw [wakeBody, M.get_bind, M.bind_error (needHart_none hl)]

theorem exec_wakeArrival (s : State) : exec .wakeArrival s = .next (
    if (s.getHart s.msg.hart.toNat).phase = .idle ∨ (s.getHart s.msg.hart.toNat).launch.getD 128 ≠ s.msg.unit.toNat then s
    else s.updHartN s.msg.hart.toNat (·.setLatch latchWake)) := rfl

theorem exec_waitTimeout (s : State) : exec .waitTimeout s = .next (s.updHartN s.msg.hart.toNat (·.timedOut s.time)) := rfl

theorem Hart.timedOut_past {x : Hart} {u : Word} {d : Reg} {n : Nat} (hp : x.phase = .waiting u d) (h : u ≠ 0#64 ∧ u.toNat ≤ n) :
    x.timedOut n = x.setLatch latchTimeout := by
  rw [Hart.timedOut, hp]
  exact if_pos h

theorem Hart.timedOut_early {x : Hart} {u : Word} {d : Reg} {n : Nat} (hp : x.phase = .waiting u d) (h : ¬ (u ≠ 0#64 ∧ u.toNat ≤ n)) :
    x.timedOut n = x := by
  rw [Hart.timedOut, hp]
  exact if_neg h

/-- Settles O23: a `wait` ends where its latch, a record or its time says so, and `wake` and the timeout reach the hart they name alone. -/
theorem waitAndWake : Obligations.WaitAndWake := by
  unfold Obligations.WaitAndWake
  refine ⟨fun s d a => ⟨fun h => ?_, fun hl hr ht => ?_, fun h hl hr => ?_, fun h hl hr => ?_, fun hl hs => ?_⟩,
    fun s => ⟨fun h => ?_, fun h => ?_, fun u d hp hu ht => ?_, fun u d hp hu => ?_⟩⟩
  · obtain ⟨hx, hm, hrec, hpc⟩ := s.metTimeout_frame (s.xr a)
    obtain ⟨hd, ho, hlatch, hphase, hpc', hm'⟩ := (s.metTimeout (s.xr a)).endWait_frame d
    refine ⟨_, exec_wait_ends (State.wakes_metTimeout.2 h) d, ?_, fun r hr => (ho r hr).trans (hx r), hlatch, hphase, ?_, hm'.trans hm⟩
    · rw [State.xr_advance, hd, hrec, State.latch_metTimeout]
    · rw [State.advance_hart, hpc', hpc]
  · have hn : ¬ (s.metTimeout (s.xr a)).hart.wakes = true := fun hw => by
      rcases State.wakes_metTimeout.1 hw with h | h | h
      · exact h hl
      · exact hr h
      · exact ht h
    rw [exec_wait_sleeps hn, State.metTimeout_early ht]
    rfl
  · rw [exec_wake hl, hr]; rfl
  · rw [exec_wake hl, hr]; rfl
  · exact ⟨_, exec_wake_unknown hl, trapsTo_takeTrap hs _ _⟩
  · refine ⟨_, (exec_wakeArrival s).trans (congrArg _ (if_neg ?_)), rfl⟩
    exact not_or.2 ⟨h.1, not_not.2 h.2⟩
  · exact (exec_wakeArrival s).trans (congrArg _ (if_pos (by tauto)))
  · exact ⟨_, exec_waitTimeout s, congrArg (s.setHart _) (Hart.timedOut_past hp ⟨hu, ht⟩)⟩
  · exact ⟨_, exec_waitTimeout s, congrArg (s.setHart _) (Hart.timedOut_early hp (by rcases hu with h | h <;> simp [h]))⟩

end Sys2Proof.Machine
end

section
/-! PROOF. O27: the return from a user handler, halts and invalidations (spec/07 R192, R206, spec/09 R239, R252, spec/13 R348, spec/01 R45, R46). -/
namespace Sys2Proof.Machine
set_option Elab.async false

/-! ### uret (R252) -/

theorem exec_uret {s : State} (hs : s.hart.sup = false) (hi : s.hart.irq.inh = true) : exec .uret s = .next s.returnFromHandler := by
  refine finishPc_ok (congrFun (if_neg ?_) s)
  simp [hs, hi]

theorem exec_uret_illegal {s : State} (h : s.hart.sup = true ∨ s.hart.irq.inh = false) :
    exec .uret s = .next (s.takeTrap tcIllegal (instrWord .uret) 0#2 s.hart.pc) := by
  refine finishPc_trap (congrFun (if_pos ?_) s)
  rcases h with h | h <;> simp [h]

theorem State.orbit_setOrbit_same (s : State) (n : Nat) (o : Orbit) : (s.setOrbit n o).orbit n = o := SMap.get_set_same ..

theorem Orbit.getElem?_setStation {o : Orbit} {k : Nat} {t : Station} (h : o.stations[k]? = some t) (u : Station) :
    (o.setStation k u).stations[k]? = some u :=
  List.getElem?_set_self (List.getElem?_eq_some_iff.1 h).1

/-- The end of a task changes the orbits and posts what comes next, and nothing else. -/
theorem State.taskEnded_eq (s : State) (n k : Nat) : ∃ d l, s.taskEnded n k = { s with disp := d, inbox := l } := by
  dsimp only [State.taskEnded]
  split
  · exact ⟨s.disp, s.inbox, rfl⟩
  · split
    · split
      · exact ⟨_, _, rfl⟩
      · exact ⟨_, _, rfl⟩
    · exact ⟨s.disp, s.inbox, rfl⟩

/-- The task is counted, and its station has none. -/
theorem State.orbit_taskEnded {s : State} {n k : Nat} {t : Station} (h : (s.orbit n).stations[k]? = some t) (ht : t.task = true) :
    ((s.taskEnded n k).orbit n).dcount = (s.orbit n).dcount + 1 ∧
    ((s.taskEnded n k).orbit n).stations[k]? = some { t with task := false } := by
  have hset := Orbit.getElem?_setStation h { t with task := false }
  simp only [State.taskEnded, h, if_pos ht]
  split
  · simp only [State.orbitDone, State.orbit, State.after, State.setOrbit, State.updDisp, SMap.get_set_same]
    exact ⟨trivial, hset⟩
  · simp only [State.orbit, State.after, State.setOrbit, State.updDisp, SMap.get_set_same]
    exact ⟨trivial, hset⟩

theorem State.taskOf_updHart {s : State} {g : Hart → Hart} (hg : ∀ h, (g h).ctx = h.ctx) (h : Nat) : (s.updHart g).taskOf h = s.taskOf h := by
  have hc : ((s.updHart g).getHart h).ctx = (s.getHart h).ctx := by
    rw [State.getHart_updHart]
    split
    · next hh => rw [hh, State.getHart_cur, hg]
    · rfl
  rw [State.taskOf, hc]
  rfl

/-- x4 to x6 as an orbit task gives them back. -/
theorem State.xr_backTask (s : State) : (s.updHart (·.backTask)).xr 4#5 = s.hart.irq.keep4 ∧ (s.updHart (·.backTask)).xr 5#5 = s.hart.irq.keep5 ∧
    (s.updHart (·.backTask)).xr 6#5 = s.hart.irq.keep6 ∧ ∀ r, r ≠ 4#5 → r ≠ 5#5 → r ≠ 6#5 → (s.updHart (·.backTask)).xr r = s.xr r := by
  have hb : s.updHart (·.backTask) = ((s.setX 4#5 s.hart.irq.keep4).setX 5#5 s.hart.irq.keep5).setX 6#5 s.hart.irq.keep6 := by
    simp [State.setX, State.updHart, Hart.backTask]
  rw [hb]
  refine ⟨?_, ?_, State.xr_setX_same .., fun r h4 h5 h6 => ?_⟩
  · rw [State.xr_setX_other _ _ _ _ (by decide), State.xr_setX_other _ _ _ _ (by decide)]
    exact State.xr_setX_same ..
  · rw [State.xr_setX_other _ _ _ _ (by decide)]
    exact State.xr_setX_same ..
  · rw [State.xr_setX_other _ _ _ _ h6, State.xr_setX_other _ _ _ _ h5, State.xr_setX_other _ _ _ _ h4]

theorem Hart.backTask_frame (h : Hart) : h.backTask.irq = h.irq ∧ h.backTask.regs.f = h.regs.f ∧ h.backTask.ctx = h.ctx := by
  simp [Hart.backTask]

/-- The hart as its handler leaves it (R252). -/
def Hart.leavesHandler (h : Hart) : Hart := { h with irq := { h.irq with inh := false }, pc := h.irq.xepc }

theorem State.returnFromHandler_other {s : State} (hc : s.hart.irq.cause ≠ 3#4) : s.returnFromHandler = s.updHart (·.leavesHandler) := by
  rw [State.returnFromHandler, if_neg hc]
  rfl

theorem State.returnFromHandler_task {s : State} (hc : s.hart.irq.cause = 3#4) : s.returnFromHandler =
    ((s.taskOf s.cur).elim (s.updHart (·.backTask)) fun t => (s.updHart (·.backTask)).taskEnded t.1 t.2).updHart (·.leavesHandler) := by
  have ht := s.taskOf_updHart (g := (·.backTask)) (fun h => h.backTask_frame.2.2) s.cur
  rw [State.returnFromHandler, if_pos hc]
  dsimp only
  rw [State.updHart_cur, ht]
  rfl

/-- What the end of a task leaves of the hart and of the rest. -/
theorem State.elim_taskEnded_eq (s : State) (o : Option (Nat × Nat)) : ∃ d l, o.elim s (fun t => s.taskEnded t.1 t.2) = { s with disp := d, inbox := l } := by
  cases o with
  | none => exact ⟨s.disp, s.inbox, rfl⟩
  | some t => exact s.taskEnded_eq t.1 t.2

theorem uret_task {s : State} (hs : s.hart.sup = false) (hi : s.hart.irq.inh = true) (hc : s.hart.irq.cause = 3#4) : ∃ t, exec .uret s = .next t ∧
    t.hart.pc = s.hart.irq.xepc ∧ t.hart.irq = { s.hart.irq with inh := false } ∧ t.xr 4#5 = s.hart.irq.keep4 ∧
    t.xr 5#5 = s.hart.irq.keep5 ∧ t.xr 6#5 = s.hart.irq.keep6 ∧ (∀ r, r ≠ 4#5 → r ≠ 5#5 → r ≠ 6#5 → t.xr r = s.xr r) ∧
    t.hart.regs.f = s.hart.regs.f ∧ t.m = s.m ∧ t.others = s.others ∧ (s.taskOf s.cur = none → t.disp = s.disp) ∧
    (∀ n k st, s.taskOf s.cur = some (n, k) → (s.orbit n).stations[k]? = some st → st.task = true →
      (t.orbit n).dcount = (s.orbit n).dcount + 1 ∧ (t.orbit n).stations[k]? = some { st with task := false }) := by
  obtain ⟨hirq, hf, -⟩ := s.hart.backTask_frame
  obtain ⟨h4, h5, h6, hx⟩ := s.xr_backTask
  refine ⟨_, exec_uret hs hi, ?_⟩
  rw [State.returnFromHandler_task hc]
  have hnone : s.taskOf s.cur = none → (((s.taskOf s.cur).elim (s.updHart (·.backTask)) fun t => (s.updHart (·.backTask)).taskEnded t.1 t.2)).disp = s.disp :=
    fun h => by rw [h]; rfl
  have htask : ∀ n k st, s.taskOf s.cur = some (n, k) → (s.orbit n).stations[k]? = some st → st.task = true →
      ((((s.taskOf s.cur).elim (s.updHart (·.backTask)) fun t => (s.updHart (·.backTask)).taskEnded t.1 t.2)).orbit n).dcount = (s.orbit n).dcount + 1 ∧
      ((((s.taskOf s.cur).elim (s.updHart (·.backTask)) fun t => (s.updHart (·.backTask)).taskEnded t.1 t.2)).orbit n).stations[k]? = some { st with task := false } :=
    fun n k st h hk ht => by rw [h]; exact State.orbit_taskEnded (s := s.updHart (·.backTask)) hk ht
  obtain ⟨d, l, hu⟩ := (s.updHart (·.backTask)).elim_taskEnded_eq (s.taskOf s.cur)
  rw [hu] at hnone htask ⊢
  exact ⟨congrArg UserIrq.xepc hirq, congrArg (fun q : UserIrq => { q with inh := false }) hirq, h4, h5, h6, hx, hf, rfl, rfl, hnone, htask⟩

/-! ### halt (R192) -/

namespace Inv.Fill
section
variable {P : State → Prop} (hP : Inv.Fill P) {s : State} (hs : P s)
include hP hs

theorem rlcDrop {die ln m} : P (s.rlcDrop die ln m) := by
  unfold State.rlcDrop
  split
  · exact hs
  · dsimp only
    split
    · exact hP.setSlice hs
    · exact hs

theorem revokeOthers {h ln m} : P (s.revokeOthers h ln m) := Inv.foldl hs fun _ ht _ => hP.mapL1 ht

theorem registerAt {slot key h ln m} : P (s.registerAt slot key h ln m) := by
  unfold State.registerAt
  extract_lets t u x
  have hu : P u := Inv.ite (hP.takeFrom hs) (hP.tell (hP.takeFrom hs))
  split
  · exact hP.setSlice hu
  · exact hP.setSlice (Inv.ite hu (Inv.elim hu fun _ => hP.takeFrom hu))

theorem takeSameDie {slot die ln m h} : P (s.takeSameDie slot die ln m h) := Inv.foldl hs fun _ ht _ => hP.setSlice (hP.revokeWB ht)

theorem registerWords {slot h scope ln m} : P (s.registerWords slot h scope ln m) := by
  have hfire : ∀ {u : State}, P u → P (words16.foldl (fun s i => if bitAt m i then s.fireWatches (ln * 64 + 4 * i) 4 else s) u) :=
    fun hu => Inv.foldl hu fun _ ht _ => Inv.ite (hP.fireWatches ht) ht
  unfold State.registerWords
  split
  · exact Inv.ite (hP.registerAt (hP.takeSameDie hs)) (hfire (hP.registerAt (hP.rlcDrop (hP.setSlice (hP.takeFrom hs)))))
  · exact hfire (hP.registerAt hs)

theorem releaseLine {slot h scope ln regions} : P (s.releaseLine slot h scope ln regions) := by
  unfold State.releaseLine
  extract_lets c k l1 m1 s1 cc mc m s2 s3
  have h1 : P s1 := Inv.elim hs fun _ => Inv.ite hs (hP.mapCC (hP.ccOpen hs))
  have h3 : P s3 := Inv.ite (hP.revokeOthers h1) (hP.registerWords (hP.revokeOthers h1))
  exact Inv.ite h1 (hP.mapL1 (hP.mapCC h3))

theorem release {h scope regions} : P (s.release h scope regions) := Inv.foldl hs fun _ ht _ => hP.releaseLine ht

theorem l1Flush {slot h ln} : P (s.l1Flush slot h ln) := by
  unfold State.l1Flush
  split
  · exact hs
  · exact Inv.ite hs (hP.ccDirty (hP.mapL1 hs))

theorem flushPrivate {h p} : P (s.flushPrivate h p) :=
  Inv.foldl (Inv.foldl hs fun _ ht _ => hP.l1Flush ht) fun _ ht _ => hP.mapCC (hP.writeBack ht)

theorem disownLine {slot h scope ln} : P (s.disownLine slot h scope ln) := by
  unfold State.disownLine
  extract_lets c k die isH rlc key m t s1
  have h1 : P s1 := Inv.ite (hP.deregister hs) (hP.setSlice hs)
  refine Inv.ite ?_ (Inv.ite hs ?_)
  · split
    · exact hs
    · exact Inv.ite hs (hP.mapL1 (hP.mapCC hs))
  · clear_value s1
    split
    exact hP.mapL1 (hP.mapCC (Inv.ite (hP.writeBack h1) (hP.writeHome h1)))

theorem disownAll {h} : P (s.disownAll h) := Inv.foldl hs fun _ ht _ => hP.disownLine (hP.disownLine (hP.disownLine ht))

end
end Inv.Fill

/-- What the memory system does below the caches reaches no hart but by a watch hit. -/
theorem State.Steady.inv (s : State) : Inv.Fill s.Steady where
  slices h := h
  poison h := h
  under h := h
  l1 h := h
  cc h := h
  fabric h := h
  agents h := h
  wake h := h.watchArrival
  store h := h
  channel h := h
  after h := h

/-- What a hart has written goes home, and it owns nothing any more: the first steps of its retirement (R192, steps 3 and 4). -/
theorem State.steady_written (s : State) (h : Nat) : s.Steady (((s.release h 3#2 0xFFFE#16).flushPrivate h fun _ => true).disownAll h) :=
  (State.Steady.inv s).disownAll ((State.Steady.inv s).flushPrivate ((State.Steady.inv s).release (.refl s)))

namespace State.SameUnits
variable {s t : State} (h : s.SameUnits t)
include h

theorem placeAgain : s.SameUnits t.placeAgain := by
  unfold State.placeAgain
  split
  · exact h
  · exact h
theorem toPool {p} : s.SameUnits (t.toPool p) := placeAgain (setPlate h)
theorem plateFreed {p} : s.SameUnits (t.plateFreed p) := by
  unfold State.plateFreed
  split
  · exact h
  · exact h.toPool

end State.SameUnits

theorem State.harts_redirect (s : State) (h : Nat) : SameHarts s (s.redirect h) := by
  unfold State.redirect
  dsimp only
  split <;> exact ⟨rfl, rfl, rfl⟩

/-- A hart that runs has not stopped for an event. -/
theorem State.awaitsEvent_of_running {s : State} {h : Nat} (hp : (s.getHart h).phase = .running) : s.awaitsEvent h = false := by
  rw [State.awaitsEvent, hp]

/-- The executing hart, where it runs and has nothing queued, leaves its place when it is freed. -/
theorem State.hart_freeHart {s : State} (hp : s.hart.phase = .running) (hv : s.hart.vq = []) (hm : s.hart.mq = []) :
    (s.freeHart s.cur).cur = s.cur ∧ (s.freeHart s.cur).hart = s.hart.retired := by
  have hr := ((s.unwatch s.cur).unpark s.cur).harts_redirect s.cur
  unfold State.freeHart
  extract_lets plates queued r phase f
  obtain ⟨hcur, hhart, -⟩ := hr
  have hrh : r.hart = s.hart := hhart
  have hrc : r.cur = s.cur := hcur
  have hphase : phase = .idle := by
    have hrun : (r.getHart s.cur).phase = .running := by rw [← hrc, State.getHart_cur, hrh, hp]
    exact if_neg (by rw [State.awaitsEvent_of_running hrun]; exact Bool.false_ne_true)
  have hq : queued = [] := by
    show (s.getHart s.cur).vq ++ (s.getHart s.cur).mq = []
    rw [State.getHart_cur, hv, hm]
    rfl
  have hf : f.cur = s.cur ∧ f.hart = s.hart.retired := by
    have : f = r.updHartN s.cur fun x => { x.retired with phase } := by
      show State.releaseDrains _ queued = _
      rw [hq]
      rfl
    rw [this, State.updHartN_cur, State.hart_updHartN, if_pos hrc, hphase, hrh]
    exact ⟨hrc, rfl⟩
  obtain ⟨⟨hcur', hhart', -⟩, -⟩ : f.SameUnits (plates.foldl (fun s p => s.plateFreed (dieOfHart f.cur * 128 + p)) f) :=
    (State.SameUnits.refl f).foldl fun _ hu _ => hu.plateFreed
  rw [hf.1] at hcur' hhart'
  exact ⟨hcur', hhart'.trans hf.2⟩

theorem State.countHalt_frame (s : State) (l : Option Nat) (n : Nat) : SameHarts s (s.countHalt l n) := by
  unfold State.countHalt
  split
  · exact ⟨rfl, rfl, rfl⟩
  · dsimp only
    split <;> exact ⟨rfl, rfl, rfl⟩

theorem exec_halt {s : State} (h : Idle s) (hc : s.copying s.cur = false) (ho : s.inOrbit s.cur = false) : exec .halt s = .next s.retireHart := by
  refine finishPc_ok ?_
  rw [haltBody, waitQueues, M.bind_ok (waitEntries_of_idle h _), M.get_bind, hc, ho]
  rfl

theorem State.retireHart_eq (s : State) : s.retireHart =
    ((((s.release s.cur 3#2 0xFFFE#16).flushPrivate s.cur fun _ => true).disownAll s.cur).freeHart s.cur).countHalt s.hart.launch s.hart.logical := rfl

theorem State.hart_retireHart {s : State} (hi : Idle s) (hp : s.hart.phase = .running) : s.retireHart.cur = s.cur ∧
    s.retireHart.hart.phase = .idle ∧ s.retireHart.hart.launch = none ∧ s.retireHart.hart.vq = [] ∧ s.retireHart.hart.mq = [] := by
  obtain ⟨hv, hm, -, -⟩ := hi
  obtain ⟨hcur, hst⟩ := s.steady_written s.cur
  rw [State.retireHart_eq]
  generalize ((s.release s.cur 3#2 0xFFFE#16).flushPrivate s.cur fun _ => true).disownAll s.cur = u at hcur hst
  have hu : u.hart.steady = s.hart.steady := by
    have := hst s.cur
    rwa [State.getHart_cur, ← hcur, State.getHart_cur] at this
  have hup : u.hart.phase = .running := (congrArg Hart.phase hu).trans hp
  obtain ⟨hc, hh⟩ := State.hart_freeHart hup ((congrArg Hart.vq hu).trans hv) ((congrArg Hart.mq hu).trans hm)
  obtain ⟨hc', hh', -⟩ := (u.freeHart s.cur).countHalt_frame s.hart.launch s.hart.logical
  rw [hcur] at hc hh
  rw [hc', hh', hh]
  exact ⟨hc, rfl, rfl, rfl, rfl⟩

/-! ### icinv (R348) -/

theorem exec_icinv (s : State) : exec .icinv s =
    .next (s.setCore (coreOf s.cur) { s.core (coreOf s.cur) with l1i := [] }).advance := rfl

/-! ### tlbinv (R45, R46, R239) -/

theorem extractLsb'_two_ne_zero {x : Word} : x.extractLsb' 2 62 ≠ 0#62 ↔ 4 ≤ x.toNat := by
  rw [ne_eq, ← BitVec.toNat_inj, BitVec.extractLsb'_toNat, Nat.shiftRight_eq_div_pow]
  have := x.isLt
  simp only [BitVec.toNat_ofNat]
  omega

theorem exec_tlbinv_illegal {s : State} {b : Reg} (h : 4 ≤ (s.xr b).toNat) (a : Reg) :
    exec (.tlbinv a b) s = .next (s.takeTrap tcIllegal (instrWord (.tlbinv a b)) 0#2 s.hart.pc) :=
  finish_trap (congrFun (if_pos (extractLsb'_two_ne_zero.2 h)) s)

section
variable {s : State} {b : Reg} (hx : (s.xr b).toNat < 4) (a : Reg)
include hx

theorem exec_tlbinv_user (hu : s.hart.sup = false) :
    exec (.tlbinv a b) s = .next (s.takeTrap tcPrivileged (instrWord (.tlbinv a b)) 0#2 s.hart.pc) := by
  refine finish_trap ?_
  rw [tlbinvBody, M.get_bind, if_neg (mt extractLsb'_two_ne_zero.1 (Nat.not_le.2 hx)), M.bind_error (needSup_user hu)]

/-- A `tlbinv` that has sent its messages retires once every acknowledgement is in. -/
theorem exec_tlbinv_acknowledged (hs : s.hart.sup = true) (hheld : s.hart.heldHere = some .tlbinv) (hacks : s.hart.acks.tlb = 0) :
    exec (.tlbinv a b) s = .next (s.updHart (·.release)).advance := by
  refine finish_ok ?_
  rw [tlbinvBody, M.get_bind, if_neg (mt extractLsb'_two_ne_zero.1 (Nat.not_le.2 hx)), M.bind_ok (needSup_sup hs), hheld]
  exact congrFun (if_pos hacks) s

/-- A `tlbinv` as its messages leave. -/
def State.invalidating (s : State) (va sel : Word) : State :=
  (s.updHart fun h => { h.keep .tlbinv with acks := { h.acks with tlb := h.acks.tlb + (s.tlbMessages va sel).length } }).after (s.tlbMessages va sel)

/-- A `tlbinv` with nothing to release sends its messages and waits for their acknowledgements. -/
theorem exec_tlbinv_sends (hs : s.hart.sup = true) (hheld : s.hart.heldHere = none) (h : Idle s) (hl : s.releaseLines s.cur = [])
    (hd : s.tlbMessages (s.xr a) (s.xr b) ≠ []) : exec (.tlbinv a b) s = .next (s.invalidating (s.xr a) (s.xr b)) := by
  have hw : s.releaseWaits s.cur 2#2 0xFFFE#16 = none := by
    rw [State.releaseWaits, hl]
    exact ite_self none
  have hr : s.release s.cur 2#2 0xFFFE#16 = s := by rw [State.release, hl]; rfl
  have hn : (s.invalidating (s.xr a) (s.xr b)).hart.acks.tlb ≠ 0 := by
    have := List.length_pos_iff.2 hd
    show s.hart.acks.tlb + _ ≠ 0
    omega
  refine finish_stall ?_
  rw [tlbinvBody, M.get_bind, if_neg (mt extractLsb'_two_ne_zero.1 (Nat.not_le.2 hx)), M.bind_ok (needSup_sup hs), hheld]
  dsimp only
  rw [M.bind_ok (doRelease_of_idle h hw), hr, M.get_bind]
  exact congrFun (if_neg hn) _

end

theorem State.length_tlbMessages (s : State) (va sel : Word) :
    (s.tlbMessages va sel).length = if sel.extractLsb' 0 2 = 3#2 then 8 else (s.ctx s.hart.ctx.toNat).dies.length := by
  rw [State.tlbMessages, List.length_map]
  split <;> rfl

/-! ### The messages of an invalidation (R46) -/

theorem exec_tlbInvalidateMsg (s : State) : exec .tlbInvalidateMsg s = .next (s.tlbRecipient s.msg) := rfl

theorem exec_tlbInvalidateAck (s : State) : exec .tlbInvalidateAck s =
    .next (s.updHartN s.msg.hart.toNat fun x => { x with acks := { x.acks with tlb := x.acks.tlb - 1 } }) := rfl

theorem State.tlbRecipient_dropped {s : State} {m : Msg} (hf : m.flag = true)
    (ht : s.translated m.die.toNat (m.kind.toNat % 4) (m.value.setWidth 16) m.addr = false) :
    s.tlbRecipient m = s.after [(.tlbInvalidateAck, { hart := m.hart })] := by
  simp [State.tlbRecipient, hf, ht]

/-- The recipients drop what the message names; what was translated before is looked for in the harts. -/
theorem State.tlbRecipient_first {s : State} {m : Msg} (hf : m.flag = false) : s.tlbRecipient m =
    (s.tlbDrop m.die.toNat (m.kind.toNat % 4) (m.value.setWidth 16) m.addr ((m.value2.extractLsb' 16 40).toNat * 4096)).after
      [if s.translated m.die.toNat (m.kind.toNat % 4) (m.value.setWidth 16) m.addr then (.tlbInvalidateMsg, { m with flag := true })
        else (.tlbInvalidateAck, { hart := m.hart })] := by
  have ht : ∀ r, (s.tlbDrop m.die.toNat (m.kind.toNat % 4) (m.value.setWidth 16) m.addr r).translated m.die.toNat (m.kind.toNat % 4) (m.value.setWidth 16) m.addr =
      s.translated m.die.toNat (m.kind.toNat % 4) (m.value.setWidth 16) m.addr := fun _ => rfl
  simp only [State.tlbRecipient, hf, Bool.false_eq_true, if_false, ht]
  split <;> rfl

section
variable {s : State} {die kind root : Nat} {ctx : BitVec 16} {va : Word}

theorem State.not_dropped_of_core_tlbDrop {x : Nat × CoreState} (hx : x ∈ (s.tlbDrop die kind ctx va root).m.cores) (hd : x.1 / 128 = die)
    {e : TlbEntry} (he : e ∈ x.2.itlb ++ x.2.dtlb) : e.dropped false kind ctx va = false := by
  obtain ⟨c, -, rfl⟩ := List.mem_map.1 hx
  have hc : c.1 / 128 = die := by
    dsimp only at hd
    split at hd
    · assumption
    · exact hd
  simp only [if_pos hc, ← List.filter_append] at he
  simpa using (List.mem_filter.1 he).2

theorem State.not_dropped_of_cluster_tlbDrop {x : Nat × ClusterState} (hx : x ∈ (s.tlbDrop die kind ctx va root).m.clusters) (hd : x.1 / 16 = die)
    {e : TlbEntry} (he : e ∈ x.2.pre) : e.dropped false kind ctx va = false := by
  obtain ⟨c, -, rfl⟩ := List.mem_map.1 hx
  have hc : c.1 / 16 = die := by
    dsimp only at hd
    split at hd
    · assumption
    · exact hd
  simp only [if_pos hc] at he
  simpa using (List.mem_filter.1 he).2

theorem State.core_tlbDrop_other {x : Nat × CoreState} (hx : x ∈ s.m.cores) (hd : x.1 / 128 ≠ die) : x ∈ (s.tlbDrop die kind ctx va root).m.cores :=
  List.mem_map.2 ⟨x, hx, if_neg hd⟩

end

/-! ### The obligation -/

/-- Settles O27: `uret` by the cause of its handler, `halt` through what a release and a freed hart leave, and the invalidations by what each structure
keeps. -/
theorem handlersHaltsAndInvalidations : Obligations.HandlersHaltsAndInvalidations := by
  unfold Obligations.HandlersHaltsAndInvalidations
  refine ⟨fun s => ⟨fun hs hi hc => ?_, fun hs hi hc => uret_task hs hi hc, fun hset h => ?_, fun hi hp hc ho => ?_, ?_, fun a b =>
    ⟨fun hset h => ?_, fun hset h hu => ?_, fun hs h hheld hacks => ?_, fun hs h hheld hi hacks hl hd => ?_⟩⟩, fun s => ⟨fun hf => ?_, fun hf ht => ?_, ?_⟩⟩
  · rw [exec_uret hs hi, State.returnFromHandler_other hc]; rfl
  · exact ⟨_, exec_uret_illegal h, trapsTo_takeTrap hset _ _⟩
  · exact ⟨_, exec_halt hi hc ho, State.hart_retireHart hi hp⟩
  · refine ⟨_, exec_icinv s, rfl, ?_, ?_, fun c hc => State.core_setCore_other _ _ _ _ hc, rfl⟩
    · exact congrArg CoreState.l1i (State.core_setCore_same ..)
    · exact (congrArg CoreState.l1d (State.core_setCore_same ..)).trans rfl
  · exact ⟨_, exec_tlbinv_illegal h a, trapsTo_takeTrap hset _ _⟩
  · exact ⟨_, exec_tlbinv_user h a hu, trapsTo_takeTrap hset _ _⟩
  · exact exec_tlbinv_acknowledged h a hs hheld hacks
  · have hlen := s.length_tlbMessages (s.xr a) (s.xr b)
    have hne : s.tlbMessages (s.xr a) (s.xr b) ≠ [] := by
      rw [← List.length_pos_iff, hlen]
      split <;> omega
    have hsum : (s.invalidating (s.xr a) (s.xr b)).hart.acks.tlb = (s.tlbMessages (s.xr a) (s.xr b)).length := by
      show s.hart.acks.tlb + _ = _
      omega
    refine ⟨_, exec_tlbinv_sends h a hs hheld hi hl hne, rfl, hsum.trans hlen, ?_⟩
    rw [hsum]
    exact List.length_append
  · refine ⟨_, (exec_tlbInvalidateMsg s).trans (congrArg _ (State.tlbRecipient_first hf)), rfl, rfl, rfl, fun x hx hd e he => ?_, fun x hx hd e he => ?_,
      fun x hx hd => ?_⟩
    · exact State.not_dropped_of_core_tlbDrop hx hd he
    · exact State.not_dropped_of_cluster_tlbDrop hx hd he
    · exact State.core_tlbDrop_other hx hd
  · rw [exec_tlbInvalidateMsg, State.tlbRecipient_dropped hf ht]; rfl
  · exact ⟨_, exec_tlbInvalidateAck s, rfl⟩

end Sys2Proof.Machine
end

section
/-! SUPPORT. Orbits (Machine/Orbit.lean): what a hand-over of a tile leaves, and what a station gives onward (spec/07 R206 to R210). -/
namespace Sys2Proof.Machine
set_option Elab.async false

/-! ### The hand-over of a tile (R207, spec/03 R87) -/

/-- What a hand-over leaves: the orbits and the rest of the dispatch state, the bytes, every plate but the one it moves; it may send messages. -/
structure State.Moves (s t : State) (p : Option Nat) : Prop where
  disp : t.disp = s.disp
  mem : t.m.mem = s.m.mem
  inbox : ∃ l, t.inbox = s.inbox ++ l
  plate : ∀ q, some q ≠ p → t.plate q = s.plate q

namespace State.Moves
variable {s t : State} {p : Option Nat}

theorem refl (s : State) (p : Option Nat) : s.Moves s p := ⟨rfl, rfl, ⟨[], (List.append_nil _).symm⟩, fun _ _ => rfl⟩

theorem trans {u : State} (h : s.Moves t p) (h' : t.Moves u none) : s.Moves u p := by
  obtain ⟨l, hl⟩ := h.inbox
  obtain ⟨l', hl'⟩ := h'.inbox
  exact ⟨h'.disp.trans h.disp, h'.mem.trans h.mem, ⟨l ++ l', by rw [hl', hl, List.append_assoc]⟩,
    fun q hq => (h'.plate q (by simp)).trans (h.plate q hq)⟩

theorem weaken (h : s.Moves t none) (p : Option Nat) : s.Moves t p := ⟨h.disp, h.mem, h.inbox, fun q _ => h.plate q (by simp)⟩

theorem updHartN (h : s.Moves t p) (n : Nat) (g : Hart → Hart) : s.Moves (t.updHartN n g) p :=
  ⟨(State.updHartN_disp ..).trans h.disp, (congrArg MemState.mem (State.updHartN_m ..)).trans h.mem, (State.updHartN_inbox t n g).symm ▸ h.inbox,
    fun q hq => (State.plate_updHartN ..).trans (h.plate q hq)⟩

theorem setCluster (h : s.Moves t p) (k : Nat) (v : ClusterState) : s.Moves (t.setCluster k v) p := ⟨h.disp, h.mem, h.inbox, h.plate⟩

theorem after (h : s.Moves t p) (l : List (Instr × Msg)) : s.Moves (t.after l) p := by
  obtain ⟨k, hk⟩ := h.inbox
  exact ⟨h.disp, h.mem, ⟨k ++ l, by rw [State.after_inbox, hk, List.append_assoc]⟩, h.plate⟩

theorem drainCheck (h : s.Moves t p) (q : Nat) : s.Moves (t.drainCheck q) p := by
  unfold State.drainCheck
  dsimp only
  split
  · exact h.after _
  · exact h

theorem keepDrain (h : s.Moves t p) (n k q : Nat) : s.Moves (t.keepDrain n k q) p := (h.updHartN ..).setCluster ..

theorem slotFreed (h : s.Moves t p) (n k : Nat) : s.Moves (t.slotFreed n k) p := by
  unfold State.slotFreed
  split
  · exact h
  · cases t.dueAt n k with
    | none => exact h
    | some q => exact (h.updHartN ..).drainCheck q

end State.Moves

/-- A plate that is given away has its destination, and nothing but it has changed among the plates. -/
theorem State.moves_handOver (s : State) (h k p : Nat) (dest : HandTo) :
    s.Moves (s.handOver h k p dest) (some p) ∧ ((s.handOver h k p dest).plate p).hand = some dest := by
  unfold State.handOver
  extract_lets u x v
  have hu : s.Moves u none := by
    unfold u
    split
    · exact (State.Moves.updHartN (.refl s none) ..).keepDrain ..
    · exact .refl s none
  have hv : s.Moves v (some p) := ⟨hu.disp, hu.mem, hu.inbox, fun q hq =>
    (State.plate_setPlate_other _ _ _ _ fun e => hq (congrArg some e)).trans (hu.plate q (by simp))⟩
  refine ⟨hv.drainCheck p, ?_⟩
  rw [((State.Moves.refl v none).drainCheck p).plate p (by simp), State.plate_setPlate_same]
  split <;> rfl

theorem State.moves_handTile (s : State) (n k slot : Nat) (t : OTile) (dest : Nat) : s.Moves (s.handTile n k slot t dest) t.plate := by
  unfold State.handTile
  split
  · next p a b hp ha hb =>
    rw [hp]
    refine State.Moves.slotFreed ?_ _ _
    split
    · exact (s.moves_handOver ..).1.updHartN ..
    · exact (s.moves_handOver ..).1
  · exact .refl s _

/-- The tile's plate goes to the station named. -/
theorem State.hand_handTile {s : State} {n k slot dest p : Nat} {t : OTile} {a b : Station} (hp : t.plate = some p)
    (ha : (s.orbit n).stations[k]? = some a) (hb : (s.orbit n).stations[dest]? = some b) :
    ((s.handTile n k slot t dest).plate p).hand = some (.station b.hart slot n) := by
  simp only [State.handTile, hp, ha, hb]
  rw [((State.Moves.refl _ none).slotFreed ..).plate p (by simp)]
  have hand := (s.moves_handOver a.hart slot p (.station b.hart slot n)).2
  split
  · rw [State.plate_updHartN]; exact hand
  · exact hand

/-! ### What a station gives onward (R207, R208) -/

/-- The station at a place changed. -/
def Orbit.updStation (o : Orbit) (j : Nat) (g : Station → Station) : Orbit :=
  match o.stations[j]? with
  | some x => o.setStation j (g x)
  | none => o

theorem Orbit.getElem?_updStation (o : Orbit) (j : Nat) (g : Station → Station) (i : Nat) :
    (o.updStation j g).stations[i]? = if i = j then o.stations[i]?.map g else o.stations[i]? := by
  unfold Orbit.updStation
  split
  · next x hx =>
    split
    · next e => rw [e, Orbit.getElem?_setStation hx, hx]; rfl
    · next e => exact List.getElem?_set_ne (Ne.symm e)
  · next hx =>
    split
    · next e => rw [e, hx]; rfl
    · rfl

theorem Orbit.updStation_frame (o : Orbit) (j : Nat) (g : Station → Station) : (o.updStation j g).size = o.size ∧ (o.updStation j g).laps = o.laps ∧
    (o.updStation j g).complete = o.complete := by
  unfold Orbit.updStation
  split
  · exact ⟨List.length_set .., rfl, rfl⟩
  · exact ⟨rfl, rfl, rfl⟩

/-- A station that has given its tiles: the retrograde one stays at the dwell edge. -/
def Station.gave (t : Station) (stay : Bool) : Station :=
  { t with pro := nullTile, retro := if stay then t.retro else nullTile, ended := true, looked := false }

/-- The orbit after station `k` has given its tiles onward. -/
def Orbit.gave (o : Orbit) (k : Nat) (t : Station) : Orbit :=
  let u := (o.setStation k (t.gave (o.dwell t.round))).updStation (o.next k) fun x => { x with inPro := x.inPro ++ [t.pro] }
  if o.dwell t.round then u else u.updStation (o.prev k) fun x => { x with inRetro := x.inRetro ++ [t.retro] }

theorem Orbit.gave_frame (o : Orbit) (k : Nat) (t : Station) : (o.gave k t).size = o.size ∧ (o.gave k t).laps = o.laps ∧ (o.gave k t).complete = o.complete := by
  unfold Orbit.gave
  extract_lets u
  have hu : u.size = o.size ∧ u.laps = o.laps ∧ u.complete = o.complete := by
    obtain ⟨h1, h2, h3⟩ := (o.setStation k (t.gave (o.dwell t.round))).updStation_frame (o.next k) fun x => { x with inPro := x.inPro ++ [t.pro] }
    exact ⟨h1.trans (List.length_set ..), h2, h3⟩
  split
  · exact hu
  · obtain ⟨h1, h2, h3⟩ := u.updStation_frame (o.prev k) fun x => { x with inRetro := x.inRetro ++ [t.retro] }
    exact ⟨h1.trans hu.1, h2.trans hu.2.1, h3.trans hu.2.2⟩

/-- The station at place `j` with the tiles that station `k` gives it. -/
def Orbit.receives (o : Orbit) (k : Nat) (t : Station) (j : Nat) (x : Station) : Station :=
  { x with inPro := if j = o.next k then x.inPro ++ [t.pro] else x.inPro
           inRetro := if o.dwell t.round = false ∧ j = o.prev k then x.inRetro ++ [t.retro] else x.inRetro }

/-- What stands at each place after the gift. -/
theorem Orbit.getElem?_gave {o : Orbit} {k : Nat} {t : Station} (j : Nat) (hj : j ≠ k) : (o.gave k t).stations[j]? = o.stations[j]?.map (o.receives k t j) := by
  have hset : (o.setStation k (t.gave (o.dwell t.round))).stations[j]? = o.stations[j]? := List.getElem?_set_ne (Ne.symm hj)
  unfold Orbit.gave
  dsimp only
  cases hd : o.dwell t.round with
  | true =>
    rw [hd] at hset
    rw [if_pos rfl, Orbit.getElem?_updStation, hset]
    cases o.stations[j]? with
    | none => simp only [Option.map_none, ite_self]
    | some x => simp only [Option.map_some, Orbit.receives, hd, Bool.true_eq_false, false_and, if_false]; split_ifs <;> rfl
  | false =>
    rw [hd] at hset
    rw [if_neg Bool.false_ne_true, Orbit.getElem?_updStation, Orbit.getElem?_updStation, hset]
    cases o.stations[j]? with
    | none => simp only [Option.map_none, ite_self]
    | some x => simp only [Option.map_some, Orbit.receives, hd, true_and]; split_ifs <;> rfl

section
variable {o : Orbit} {k : Nat} {t : Station} (hk : o.stations[k]? = some t)
include hk

theorem Orbit.lt_size : k < o.size := (List.getElem?_eq_some_iff.1 hk).1

theorem Orbit.next_ne (h : 2 ≤ o.stations.length) : o.next k ≠ k := by
  have hlt := Orbit.lt_size hk
  have : o.size = o.stations.length := rfl
  unfold Orbit.next
  by_cases he : k + 1 = o.size
  · rw [he, Nat.mod_self]; omega
  · rw [Nat.mod_eq_of_lt (by omega)]; omega

theorem Orbit.prev_ne (h : 2 ≤ o.stations.length) : o.prev k ≠ k := by
  have hlt := Orbit.lt_size hk
  have : o.size = o.stations.length := rfl
  unfold Orbit.prev
  by_cases he : k = 0
  · rw [he, Nat.mod_eq_of_lt (by omega)]; omega
  · rw [show k + o.size - 1 = k - 1 + o.size by omega, Nat.add_mod_right, Nat.mod_eq_of_lt (by omega)]; omega

theorem Orbit.getElem?_gave_self (h : 2 ≤ o.stations.length) : (o.gave k t).stations[k]? = some (t.gave (o.dwell t.round)) := by
  have hset : (o.setStation k (t.gave (o.dwell t.round))).stations[k]? = some (t.gave (o.dwell t.round)) := Orbit.getElem?_setStation hk _
  unfold Orbit.gave
  dsimp only
  split
  · rw [Orbit.getElem?_updStation, if_neg (Ne.symm (Orbit.next_ne hk h)), hset]
  · rw [Orbit.getElem?_updStation, if_neg (Ne.symm (Orbit.prev_ne hk h)), Orbit.getElem?_updStation, if_neg (Ne.symm (Orbit.next_ne hk h)), hset]

end

/-- The markers that a station sends at the end of its round. -/
def Orbit.markers (o : Orbit) (n k : Nat) : List (Instr × Msg) :=
  [(.orbitMarker, orbitMsg n (o.next k) 0 true), (.orbitMarker, orbitMsg n (o.prev k) 0 false), (.orbitMarker, orbitMsg n k 1 false)]

/-- The state once the prograde tile of a station is on its way. -/
def State.gavePro (s : State) (n k : Nat) (t : Station) : State :=
  (s.setOrbit n ((s.orbit n).gave k t)).handTile n k 14 t.pro ((s.orbit n).next k)

/-- The same once the retrograde tile is on its way too, but at the dwell edge. -/
def State.gaveTiles (s : State) (n k : Nat) (t : Station) : State :=
  if (s.orbit n).dwell t.round then s.gavePro n k t else (s.gavePro n k t).handTile n k 15 t.retro ((s.orbit n).prev k)

theorem Orbit.places_of_size {o u : Orbit} (h : u.size = o.size) (k : Nat) : u.next k = o.next k ∧ u.prev k = o.prev k := by
  simp [Orbit.next, Orbit.prev, h]

theorem State.giveOn_eq {s : State} {n k : Nat} {t : Station} (h : (s.orbit n).stations[k]? = some t) :
    s.giveOn n k = (s.gaveTiles n k t).after ((s.orbit n).markers n k) := by
  have hput : s.giveOn n k =
      let o := (s.orbit n).setStation k (t.gave ((s.orbit n).dwell t.round))
      let u := o.updStation (o.next k) fun x => { x with inPro := x.inPro ++ [t.pro] }
      let v := if (s.orbit n).dwell t.round then u else u.updStation (u.prev k) fun x => { x with inRetro := x.inRetro ++ [t.retro] }
      let w := (s.setOrbit n v).handTile n k 14 t.pro (v.next k)
      (if (s.orbit n).dwell t.round then w else w.handTile n k 15 t.retro (v.prev k)).after (v.markers n k) := by
    simp only [State.giveOn, h]
    rfl
  rw [hput]
  extract_lets o u v w
  have ho := Orbit.places_of_size (o := s.orbit n) (u := o) (List.length_set ..) k
  have hu := Orbit.places_of_size (o := s.orbit n) (u := u) ((o.updStation_frame _ _).1.trans (List.length_set ..)) k
  have hv : v = (s.orbit n).gave k t := by
    unfold v u
    rw [hu.2, ho.1]
    rfl
  have hplaces := Orbit.places_of_size ((s.orbit n).gave_frame k t).1 k
  unfold w
  rw [hv, hplaces.1, hplaces.2, Orbit.markers, hplaces.1, hplaces.2]
  rfl

theorem State.orbit_of_disp {s t : State} (h : t.disp = s.disp) (n : Nat) : t.orbit n = s.orbit n := by rw [State.orbit, h, State.orbit]

/-- What a gift leaves, and where the tiles' plates go. -/
theorem State.gaveTiles_frame (s : State) (n k : Nat) (t : Station) : (s.gaveTiles n k t).orbit n = (s.orbit n).gave k t ∧
    (s.gaveTiles n k t).m.mem = s.m.mem ∧ ∃ l, (s.gaveTiles n k t).inbox = s.inbox ++ l := by
  obtain ⟨hd, hm, ⟨l, hl⟩, -⟩ := (s.setOrbit n ((s.orbit n).gave k t)).moves_handTile n k 14 t.pro ((s.orbit n).next k)
  have ho : (s.gavePro n k t).orbit n = (s.orbit n).gave k t :=
    (State.orbit_of_disp hd n).trans (State.orbit_setOrbit_same ..)
  unfold State.gaveTiles
  split
  · exact ⟨ho, hm, l, hl⟩
  · obtain ⟨hd', hm', ⟨l', hl'⟩, -⟩ := (s.gavePro n k t).moves_handTile n k 15 t.retro ((s.orbit n).prev k)
    refine ⟨(State.orbit_of_disp hd' n).trans ho, hm'.trans hm, l ++ l', ?_⟩
    rw [hl', State.gavePro, hl, List.append_assoc]
    rfl

theorem State.orbit_gavePro (s : State) (n k : Nat) (t : Station) : (s.gavePro n k t).orbit n = (s.orbit n).gave k t :=
  (State.orbit_of_disp ((s.setOrbit n ((s.orbit n).gave k t)).moves_handTile n k 14 t.pro _).disp n).trans
    (State.orbit_setOrbit_same ..)

section
variable {s : State} {n k p : Nat} {t x : Station} (hk : (s.orbit n).stations[k]? = some t) (h2 : 2 ≤ (s.orbit n).stations.length)
include hk h2

/-- The prograde tile goes to the next station, unless the retrograde one, of the same plate, goes the other way. -/
theorem State.hand_gaveTiles_pro (hx : (s.orbit n).stations[(s.orbit n).next k]? = some x) (hp : t.pro.plate = some p)
    (hr : (s.orbit n).dwell t.round = true ∨ t.retro.plate ≠ some p) : ((s.gaveTiles n k t).plate p).hand = some (.station x.hart 14 n) := by
  have hand : ((s.gavePro n k t).plate p).hand = some (.station x.hart 14 n) := by
    refine State.hand_handTile (a := t.gave ((s.orbit n).dwell t.round)) (b := (s.orbit n).receives k t ((s.orbit n).next k) x) hp ?_ ?_
    · rw [State.orbit_setOrbit_same]
      exact Orbit.getElem?_gave_self hk h2
    · rw [State.orbit_setOrbit_same, Orbit.getElem?_gave _ (Orbit.next_ne hk h2), hx]
      rfl
  unfold State.gaveTiles
  split
  · exact hand
  · next hd =>
    have hne : some p ≠ t.retro.plate := fun e => hr.elim (absurd · hd) fun h => h e.symm
    rw [((s.gavePro n k t).moves_handTile n k 15 t.retro _).plate p hne]
    exact hand

/-- The retrograde tile goes to the previous station, but at the dwell edge. -/
theorem State.hand_gaveTiles_retro (hx : (s.orbit n).stations[(s.orbit n).prev k]? = some x) (hp : t.retro.plate = some p)
    (hd : (s.orbit n).dwell t.round = false) : ((s.gaveTiles n k t).plate p).hand = some (.station x.hart 15 n) := by
  unfold State.gaveTiles
  rw [if_neg (by rw [hd]; exact Bool.false_ne_true)]
  refine State.hand_handTile (a := t.gave ((s.orbit n).dwell t.round)) (b := (s.orbit n).receives k t ((s.orbit n).prev k) x) hp ?_ ?_
  · rw [State.orbit_gavePro]
    exact Orbit.getElem?_gave_self hk h2
  · rw [State.orbit_gavePro, Orbit.getElem?_gave _ (Orbit.prev_ne hk h2), hx]
    rfl

end

/-- A lap's first gifts leave the orbit's counts and the bytes. -/
theorem State.giveOn_frame (s : State) (n k : Nat) : ((s.giveOn n k).orbit n).laps = (s.orbit n).laps ∧
    ((s.giveOn n k).orbit n).complete = (s.orbit n).complete ∧ (s.giveOn n k).m.mem = s.m.mem := by
  cases h : (s.orbit n).stations[k]? with
  | none =>
    have : s.giveOn n k = s := by simp only [State.giveOn, h]
    rw [this]
    exact ⟨rfl, rfl, rfl⟩
  | some t =>
    obtain ⟨ho, hm, -⟩ := s.gaveTiles_frame n k t
    obtain ⟨-, hl, hc⟩ := (s.orbit n).gave_frame k t
    rw [State.giveOn_eq h]
    exact ⟨(congrArg Orbit.laps ho).trans hl, (congrArg Orbit.complete ho).trans hc, hm⟩

end Sys2Proof.Machine
end

section
/-! PROOF. O40: the rounds and laps of an orbit (spec/07 R206, R207, R208, R210, spec/17 R433). -/
namespace Sys2Proof.Machine
set_option Elab.async false

/-! ### The steps of a station (R206, R207) -/

section
variable {s : State} (h : s.msg.unit.toNat < 512)
include h

theorem finishEvent_orbitStep (g : State → Nat → Nat → State) :
    finishEvent (orbitStep g) s = .next (g s s.msg.unit.toNat s.msg.station.toNat) := finishEvent_ok (congrFun (if_pos h) s)

theorem exec_orbitRound : exec .orbitRound s = .next (s.orbitRound s.msg.unit.toNat s.msg.station.toNat) := finishEvent_orbitStep h _
theorem exec_orbitRoundEdge : exec .orbitRoundEdge s = .next (s.orbitRoundEdge s.msg.unit.toNat s.msg.station.toNat) := finishEvent_orbitStep h _
theorem exec_orbitMarker : exec .orbitMarker s =
    .next (s.orbitMarker s.msg.unit.toNat s.msg.station.toNat s.msg.kind.toNat s.msg.flag) := finishEvent_orbitStep h _
theorem exec_orbitLapEnd : exec .orbitLapEnd s = .next (s.orbitLapEnd s.msg.unit.toNat) := finishEvent_orbitStep h _
theorem exec_orbitComplete : exec .orbitComplete s = .next (s.orbitComplete s.msg.unit.toNat) := finishEvent_orbitStep h _

end

section
variable {s : State} {n k : Nat} {t : Station}

theorem State.orbitRound_stopped (h : s.orbitRuns n = false) : s.orbitRound n k = s := by
  unfold State.orbitRound
  dsimp only
  split
  · rfl
  · exact if_pos (by simp [h])

theorem State.orbitRoundEdge_stopped (h : s.orbitRuns n = false) : s.orbitRoundEdge n k = s := by
  unfold State.orbitRoundEdge
  dsimp only
  split
  · rfl
  · exact if_pos (by simp [h])

theorem State.orbitLapEnd_stopped (h : s.orbitRuns n = false) : s.orbitLapEnd n = s := if_pos (by simp [h])
theorem State.orbitComplete_stopped (h : s.orbitRuns n = false) : s.orbitComplete n = s := if_pos (by simp [h])

/-- A station whose round goes on, or whose orbit does not run, enters no round. -/
theorem State.tryEnter_stays (h : s.orbitRuns n = false ∨ ∀ t, (s.orbit n).stations[k]? = some t → t.ended = false) : s.tryEnter n k = s := by
  unfold State.tryEnter
  dsimp only
  split
  · rfl
  · next t ht =>
    split
    · refine if_neg fun hc => ?_
      simp only [Bool.and_eq_true] at hc
      obtain ⟨⟨⟨⟨⟨⟨⟨hr, -⟩, he⟩, -⟩, -⟩, -⟩, -⟩, -⟩ := hc
      rcases h with h | h
      · rw [h] at hr; cases hr
      · rw [h t ht] at he; cases he
    · rfl

theorem State.orbitMarker_arrived (h : s.orbitRuns n = false) (flag : Bool) : s.orbitMarker n k 1 flag = s := by
  unfold State.orbitMarker
  dsimp only
  split
  · rfl
  · rw [if_pos rfl]
    exact State.tryEnter_stays (.inl h)

theorem State.orbitMarker_none (h : (s.orbit n).stations[k]? = none) (kind : Nat) (flag : Bool) : s.orbitMarker n k kind flag = s := by
  simp only [State.orbitMarker, h]

/-- A marker counted at its side. -/
def Station.marked (t : Station) (flag : Bool) : Station :=
  if flag then { t with markPrev := t.markPrev + 1 } else { t with markNext := t.markNext + 1 }

/-- A marker is counted; it moves a station onward that has ended its round in a running orbit alone. -/
theorem State.orbitMarker_counts (ht : (s.orbit n).stations[k]? = some t) {kind : Nat} (hkind : kind ≠ 1) (h : s.orbitRuns n = false ∨ t.ended = false)
    (flag : Bool) : s.orbitMarker n k kind flag = s.setOrbit n ((s.orbit n).setStation k (t.marked flag)) := by
  have hset := s.orbit_setOrbit_same n ((s.orbit n).setStation k (t.marked flag))
  simp only [State.orbitMarker, ht, if_neg hkind]
  change (s.setOrbit n ((s.orbit n).setStation k (t.marked flag))).tryEnter n k = _
  refine State.tryEnter_stays (h.imp (fun hr => ?_) fun he u hu => ?_)
  · refine Eq.trans ?_ hr
    unfold State.orbitRuns
    rw [hset]
    rfl
  · rw [hset, Orbit.getElem?_setStation ht] at hu
    cases hu
    unfold Station.marked
    split <;> exact he

/-! ### A round (R206) -/

/-- A station of a running orbit that looks up its pair. -/
structure State.LooksUp (s : State) (n k : Nat) (t : Station) : Prop where
  runs : s.orbitRuns n = true
  station : (s.orbit n).stations[k]? = some t
  going : (s.orbit n).complete = false
  fresh : t.looked = false
  open' : t.ended = false
  pro : s.holdsTile t.hart 14 t.pro = true
  retro : s.holdsTile t.hart 15 t.retro = true

theorem Orbit.fires_none {o : Orbit} {p r : BitVec 12} (h : p = 0xFFF#12 ∨ r = 0xFFF#12 ∨ ∀ e ∈ o.eph, e.pro ≠ p ∨ e.retro ≠ r ∨ e.fired = true) :
    o.fires p r = none := by
  unfold Orbit.fires
  split
  · rfl
  · next hn =>
    rw [not_or] at hn
    rw [List.findIdx?_eq_none_iff]
    intro e he
    have := (h.resolve_left hn.1).resolve_left hn.2 e he
    rcases this with h | h | h <;> simp [h]

theorem Orbit.fires_some {o : Orbit} {p r : BitVec 12} {i : Nat} {e : EphEntry} (he : o.eph[i]? = some e) (hp : p ≠ 0xFFF#12) (hr : r ≠ 0xFFF#12)
    (hep : e.pro = p) (her : e.retro = r) (hf : e.fired = false)
    (hmin : ∀ j, j < i → ∀ g, o.eph[j]? = some g → g.pro ≠ p ∨ g.retro ≠ r ∨ g.fired = true) : o.fires p r = some i := by
  obtain ⟨hi, hget⟩ := List.getElem?_eq_some_iff.1 he
  rw [Orbit.fires, if_neg (not_or.2 ⟨hp, hr⟩), List.findIdx?_eq_some_iff_getElem]
  refine ⟨hi, by simp [hget, hep, her, hf], fun j hj => ?_⟩
  rcases hmin j hj _ (List.getElem?_eq_getElem (by omega)) with h | h | h <;> simp [h]

theorem State.LooksUp.not_idle (h : s.LooksUp n k t) : ¬ (!s.orbitRuns n || (s.orbit n).complete || t.looked || t.ended ||
    !s.holdsTile t.hart 14 t.pro || !s.holdsTile t.hart 15 t.retro) = true := by
  simp [h.runs, h.going, h.fresh, h.open', h.pro, h.retro]

theorem State.LooksUp.nothing (h : s.LooksUp n k t) (hf : (s.orbit n).fires t.pro.id t.retro.id = none) : s.orbitRound n k =
    (s.setOrbit n ((s.orbit n).setStation k { t with looked := true })).after [(.orbitRoundEdge, orbitMsg n k 0 false)] := by
  simp only [State.orbitRound, h.station, if_neg h.not_idle, hf]

/-- The orbit once a pair has fired an entry. -/
def Orbit.firing (o : Orbit) (k : Nat) (t : Station) (i : Nat) (e : EphEntry) : Orbit :=
  { o.setStation k { t with looked := true, task := true } with eph := o.eph.set i { e with fired := true }, fcount := o.fcount + 1 }

theorem State.LooksUp.fires {i : Nat} {e : EphEntry} (h : s.LooksUp n k t) (hf : (s.orbit n).fires t.pro.id t.retro.id = some i)
    (he : (s.orbit n).eph[i]? = some e) : s.orbitRound n k = (s.setOrbit n ((s.orbit n).firing k t i e)).updHartN t.hart fun h =>
      { h with pendingUser := h.pendingUser ++ [.orbitTask n k ((s.orbit n).handlers.getD e.task.toNat 0#64) (BitVec.ofNat 64 i)
        (zext (e.arg.extractLsb' 0 32)) (zext (e.arg.extractLsb' 32 32))] } := by
  simp only [State.orbitRound, h.station, if_neg h.not_idle, hf, he]
  rfl

theorem zext_extractLsb'_low (x : Word) : zext (x.extractLsb' 0 32) = (x.setWidth 32).zeroExtend 64 := by
  unfold zext
  refine BitVec.eq_of_toNat_eq ?_
  simp only [BitVec.zeroExtend, BitVec.toNat_setWidth, BitVec.extractLsb'_toNat, Nat.shiftRight_zero]

theorem zext_extractLsb'_high (x : Word) : zext (x.extractLsb' 32 32) = x >>> 32 := by
  unfold zext
  refine BitVec.eq_of_toNat_eq ?_
  have := x.isLt
  simp only [BitVec.zeroExtend, BitVec.toNat_setWidth, BitVec.extractLsb'_toNat, BitVec.toNat_ushiftRight, Nat.shiftRight_eq_div_pow]
  omega

/-! ### The end of a round (R207, R210) -/

/-- A station of a running orbit that has looked up its pair and runs no task. -/
structure State.AtEdge (s : State) (n k : Nat) (t : Station) : Prop where
  runs : s.orbitRuns n = true
  station : (s.orbit n).stations[k]? = some t
  looked : t.looked = true
  idle : t.task = false
  open' : t.ended = false

theorem State.AtEdge.not_idle (h : s.AtEdge n k t) : ¬ (!s.orbitRuns n || !t.looked || t.task || t.ended) = true := by
  simp [h.runs, h.looked, h.idle, h.open']

theorem State.AtEdge.keeps (h : s.AtEdge n k t) (hl : (s.orbit n).complete = true ∨ (s.orbit n).lastRound t.round = true) : ∃ l,
    s.orbitRoundEdge n k = (s.setOrbit n ((s.orbit n).setStation k { t with ended := true })).after l := by
  have hc : ((s.orbit n).complete || (s.orbit n).lastRound t.round) = true := by rcases hl with h | h <;> simp [h]
  simp only [State.orbitRoundEdge, h.station, if_neg h.not_idle, if_pos hc]
  split
  · exact ⟨_, rfl⟩
  · exact ⟨[], (State.after_nil _).symm⟩

theorem State.AtEdge.gives (h : s.AtEdge n k t) (hc : (s.orbit n).complete = false) (hl : (s.orbit n).lastRound t.round = false) :
    s.orbitRoundEdge n k = (s.gaveTiles n k t).after ((s.orbit n).markers n k) := by
  rw [← State.giveOn_eq h.station]
  simp only [State.orbitRoundEdge, h.station, if_neg h.not_idle, hc, hl, Bool.or_self, Bool.false_eq_true, if_false]

end

/-! ### Completion (R210, R433) -/

/-- The orbit with every tile in its place. -/
def Orbit.settled (o : Orbit) : Orbit := { o with stations := o.stations.map Station.settle }

theorem State.foldl_drainCheck_eq (l : List Nat) (s : State) : ∃ k, l.foldl (·.drainCheck ·) s = s.after k := by
  induction l generalizing s with
  | nil => exact ⟨[], (State.after_nil s).symm⟩
  | cons p l ih =>
    obtain ⟨k, hk⟩ := ih (s.drainCheck p)
    rw [List.foldl_cons, hk, State.drainCheck]
    split
    · exact ⟨_, State.after_after ..⟩
    · exact ⟨k, rfl⟩

theorem State.settleAll_eq (s : State) (n : Nat) : ∃ l, s.settleAll n = (s.setOrbit n (s.orbit n).settled).after l :=
  State.foldl_drainCheck_eq _ _

theorem State.Steady.writeFired {s t : State} (ht : s.Steady t) {o : Orbit} : s.Steady (t.writeFired o) :=
  .foldl ht fun _ hu _ => .ite hu.engineWrite hu.homeStore

/-- Every tile of an orbit stands where it was sent. -/
def State.Stand (s : State) (o : Orbit) : Prop :=
  ∀ t ∈ o.stations, (∀ p ∈ t.beside, (s.plate p).hand = none) ∧ s.holdsTile t.hart 14 t.pro = true ∧ s.holdsTile t.hart 15 t.retro = true

theorem State.all_of_stand {s : State} {o : Orbit} (h : s.Stand o) :
    (o.stations.all fun t => (t.beside.all fun p => (s.plate p).hand.isNone) && s.holdsTile t.hart 14 t.pro && s.holdsTile t.hart 15 t.retro) = true := by
  rw [List.all_eq_true]
  intro t ht
  obtain ⟨hb, hp, hr⟩ := h t ht
  rw [hp, hr, Bool.and_true, Bool.and_true, List.all_eq_true]
  exact fun p hp => by rw [hb p hp]; rfl

/-- The state once a completed orbit has written its fired bits. -/
def State.completed (s : State) (n : Nat) (l : List (Instr × Msg)) : State :=
  ((((s.setOrbit n (s.orbit n).settled).after l).writeFired (s.orbit n).settled).setOrbit n { (s.orbit n).settled with state := 3#2 })

/-- The owner's hart as the record and its latch bit arrive. -/
def Hart.takesRecord (h : Hart) (o : Orbit) (n : Nat) : Hart :=
  { h with e2 := h.e2 ++ [{ word := o.record n, region := o.ephRegion, lines := (o.eph.map fun e => e.pa / 64).eraseDups }]
           latch := h.latch ||| 1#7 }

theorem State.orbitComplete_eq {s : State} {n : Nat} (hr : s.orbitRuns n = true) (hc : (s.orbit n).complete = true) (hs : s.Stand (s.orbit n).settled) :
    ∃ l, s.orbitComplete n =
      if ((s.completed n l).getHart (s.orbit n).owner).launch ≠ (s.orbit n).launch ∨ ((s.completed n l).getHart (s.orbit n).owner).ctx ≠ (s.orbit n).ctx
      then s.completed n l else (s.completed n l).updHartN (s.orbit n).owner (·.takesRecord (s.orbit n).settled n) := by
  obtain ⟨l, hl⟩ := s.settleAll_eq n
  have ho : ((s.setOrbit n (s.orbit n).settled).after l).orbit n = (s.orbit n).settled := s.orbit_setOrbit_same n _
  refine ⟨l, ?_⟩
  rw [State.orbitComplete, if_neg (by simp [hr, hc]), hl]
  simp only [ho]
  exact if_pos (State.all_of_stand hs)

theorem State.orbit_completed (s : State) (n : Nat) (l : List (Instr × Msg)) : (s.completed n l).orbit n = { (s.orbit n).settled with state := 3#2 } :=
  State.orbit_setOrbit_same ..

theorem State.steady_completed (s : State) (n : Nat) (l : List (Instr × Msg)) : s.Steady (s.completed n l) :=
  State.Steady.writeFired (t := (s.setOrbit n (s.orbit n).settled).after l) (.refl s)

theorem State.completed_bare {s : State} {n : Nat} (h : (s.orbit n).eph = []) (l : List (Instr × Msg)) :
    s.completed n l = ((s.setOrbit n (s.orbit n).settled).after l).setOrbit n { (s.orbit n).settled with state := 3#2 } := by
  have he : (s.orbit n).settled.eph = [] := h
  rw [State.completed, State.writeFired, he]
  rfl

theorem ofNat_shiftLeft_or {b k : Nat} (h : b < 2 ^ k) (a : Nat) :
    BitVec.ofNat 64 a <<< k ||| BitVec.ofNat 64 b = BitVec.ofNat 64 (a * 2 ^ k + b) := by
  rw [Nat.mul_comm, Nat.two_pow_add_eq_or_of_lt h, Nat.mul_comm, ← Nat.shiftLeft_eq]
  refine BitVec.eq_of_getLsbD_eq fun i hi => ?_
  simp only [BitVec.getLsbD_or, BitVec.getLsbD_shiftLeft, BitVec.getLsbD_ofNat, Nat.testBit_or, Nat.testBit_shiftLeft, hi, decide_true, Bool.true_and]
  by_cases hk : i < k
  · simp [hk]
  · simp [hk, show i - k < 64 by omega, Nat.le_of_not_lt hk]

/-- The fields of the record lie side by side. -/
theorem Orbit.record_eq {o : Orbit} (hl : o.laps < 256) (he : o.entries < 65536) (n : Nat) :
    o.record n = BitVec.ofNat 64 (o.laps * 2 ^ 24 + (o.entries - o.fcount) * 2 ^ 8 + n % 64) := by
  have hn : n % 64 < 2 ^ 8 := by omega
  have hsplit : o.laps * 2 ^ 24 + (o.entries - o.fcount) * 2 ^ 8 = (o.laps * 2 ^ 16 + (o.entries - o.fcount)) * 2 ^ 8 := by ring
  rw [Orbit.record, Nat.mod_eq_of_lt hl, Nat.mod_eq_of_lt (show o.entries - o.fcount < 65536 by omega), hsplit, ← ofNat_shiftLeft_or hn,
    ← ofNat_shiftLeft_or (show o.entries - o.fcount < 2 ^ 16 by omega), BitVec.shiftLeft_or_distrib, ← BitVec.shiftLeft_add]

/-! ### The obligation -/

theorem State.lapEnd_gives {s : State} {n : Nat} (hr : s.orbitRuns n = true) (hc : (s.orbit n).complete = false) (he : (s.orbit n).lapEnded = true)
    (hl : (s.orbit n).laps < (s.orbit n).lapLimit) : ((s.orbitLapEnd n).orbit n).laps = (s.orbit n).laps + 1 ∧
    ((s.orbitLapEnd n).orbit n).complete = false ∧ (s.orbitLapEnd n).m.mem = s.m.mem := by
  rw [State.orbitLapEnd, if_neg (by simp [hr, hc, he]), if_pos hl]
  have ho := s.orbit_setOrbit_same n { s.orbit n with laps := (s.orbit n).laps + 1 }
  refine Inv.foldl (P := fun t : State => (t.orbit n).laps = (s.orbit n).laps + 1 ∧ (t.orbit n).complete = false ∧ t.m.mem = s.m.mem)
    ⟨by rw [ho], by rw [ho]; exact hc, rfl⟩ fun t ⟨h1, h2, h3⟩ k => ?_
  obtain ⟨g1, g2, g3⟩ := t.giveOn_frame n k
  exact ⟨g1.trans h1, g2.trans h2, g3.trans h3⟩

theorem State.lapEnd_done {s : State} {n : Nat} (hr : s.orbitRuns n = true) (hc : (s.orbit n).complete = false) (he : (s.orbit n).lapEnded = true)
    (hl : (s.orbit n).lapLimit ≤ (s.orbit n).laps) : s.orbitLapEnd n = s.orbitDone n := by
  rw [State.orbitLapEnd, if_neg (by simp [hr, hc, he]), if_neg (Nat.not_lt.2 hl)]

/-- What the end of an orbit leaves of its owner. -/
theorem State.orbitComplete_frame {s : State} {n : Nat} (hr : s.orbitRuns n = true) (hc : (s.orbit n).complete = true)
    (hs : s.Stand (s.orbit n).settled) (hl : (s.orbit n).laps < 256) (he : (s.orbit n).entries < 65536) :
    let o := s.orbit n
    let h := s.getHart o.owner
    let u := s.orbitComplete n
    let stands := h.launch = o.launch ∧ h.ctx = o.ctx
    u.orbit n = { o with state := 3#2, stations := o.stations.map Station.settle } ∧
    (stands → (u.getHart o.owner).latch.getLsbD 0 = true ∧ (u.getHart o.owner).e2.map (·.word) = h.e2.map (·.word) ++
      [BitVec.ofNat 64 (o.laps * 2 ^ 24 + (o.entries - o.fcount) * 2 ^ 8 + n % 64)]) ∧
    (¬ stands → (u.getHart o.owner).e2 = h.e2) ∧
    (o.eph = [] → u.m = s.m ∧ (stands → (u.getHart o.owner).latch = h.latch ||| 1#7) ∧ (¬ stands → SameHarts s u)) := by
  intro o h u stands
  obtain ⟨l, hu⟩ := State.orbitComplete_eq hr hc hs
  have hsteady := (s.steady_completed n l).2 o.owner
  have hlaunch := congrArg Hart.launch hsteady
  have hctx := congrArg Hart.ctx hsteady
  have he2 : ((s.completed n l).getHart o.owner).e2 = h.e2 := (congrArg Hart.e2 hsteady).trans rfl
  have horbit := s.orbit_completed n l
  change ((s.completed n l).getHart o.owner).launch = h.launch at hlaunch
  change ((s.completed n l).getHart o.owner).ctx = h.ctx at hctx
  rw [hlaunch, hctx] at hu
  have hrec := Orbit.record_eq (o := o.settled) hl he n
  by_cases hst : stands
  · have hu' : u = (s.completed n l).updHartN o.owner (·.takesRecord o.settled n) := hu.trans (if_neg (not_or.2 ⟨not_not.2 hst.1, not_not.2 hst.2⟩))
    have howner : u.getHart o.owner = ((s.completed n l).getHart o.owner).takesRecord o.settled n := by
      rw [hu', State.getHart_updHartN, if_pos rfl]
    refine ⟨?_, fun _ => ⟨?_, ?_⟩, fun hn => absurd hst hn, fun heph => ⟨?_, fun _ => ?_, fun hn => absurd hst hn⟩⟩
    · rw [hu', State.orbit_of_disp (State.updHartN_disp ..), horbit]; rfl
    · rw [howner]; simp [Hart.takesRecord]
    · rw [howner, Hart.takesRecord, he2, List.map_append, List.map_singleton, hrec]; rfl
    · rw [hu', State.updHartN_m, State.completed_bare heph]; rfl
    · rw [howner, State.completed_bare heph]; rfl
  · have hu' : u = s.completed n l := hu.trans (if_pos (not_and_or.1 hst))
    refine ⟨by rw [hu', horbit]; rfl, fun h => absurd h hst, fun _ => by rw [hu', he2], fun heph => ⟨?_, fun h => absurd h hst, fun _ => ?_⟩⟩
    · rw [hu', State.completed_bare heph]; rfl
    · rw [hu', State.completed_bare heph]; exact ⟨rfl, rfl, rfl⟩

/-- Settles O40: each step of an orbit by what its station has done, and its completion by the owner of its record. -/
theorem orbitRoundsAndLaps : Obligations.OrbitRoundsAndLaps := by
  unfold Obligations.OrbitRoundsAndLaps
  intro s n k o hn
  refine ⟨fun hr => ⟨?_, ?_, ?_, ?_, fun h => ?_, fun t ht hkind => ?_⟩, fun hr => ⟨fun t ht hc hl he hp hq => ⟨fun hf => ?_, fun i e hi hp' hq' hep her hef hmin => ?_⟩,
    fun t ht hl hk he hlast => ?_, fun t ht hl hk he hc hlast h2 => ?_, fun t ht hl he hkind => ?_, fun hc he hl => ?_, fun hc he hl => ?_,
    fun hc hs hl hf he => ?_⟩⟩
  · rw [exec_orbitRound hn, State.orbitRound_stopped hr]
  · rw [exec_orbitRoundEdge hn, State.orbitRoundEdge_stopped hr]
  · rw [exec_orbitLapEnd hn, State.orbitLapEnd_stopped hr]
  · rw [exec_orbitComplete hn, State.orbitComplete_stopped hr]
  · rw [exec_orbitMarker hn]
    rcases h with h | h
    · rw [State.orbitMarker_none h]
    · rw [show s.msg.kind.toNat = 1 by rw [h]; rfl, State.orbitMarker_arrived hr]
  · refine ⟨_, exec_orbitMarker hn, ?_⟩
    rw [State.orbitMarker_counts ht (fun h => hkind (BitVec.eq_of_toNat_eq h)) (.inl hr)]
    exact ⟨⟨rfl, rfl, rfl⟩, rfl, rfl, State.orbit_setOrbit_same ..⟩
  · have hu : s.LooksUp n k t := ⟨hr, ht, hc, hl, he, hp, hq⟩
    refine ⟨_, exec_orbitRound hn, ?_⟩
    rw [hu.nothing (Orbit.fires_none hf)]
    have ho := s.orbit_setOrbit_same n (o.setStation k { t with looked := true })
    refine ⟨?_, (congrArg Orbit.eph ho).trans rfl, (congrArg Orbit.fcount ho).trans rfl, rfl, ⟨rfl, rfl, rfl⟩⟩
    exact (congrArg (·.stations[k]?) ho).trans (Orbit.getElem?_setStation ht _)
  · have hu : s.LooksUp n k t := ⟨hr, ht, hc, hl, he, hp, hq⟩
    refine ⟨_, exec_orbitRound hn, ?_⟩
    rw [hu.fires (Orbit.fires_some hi hp' hq' hep her hef hmin) hi]
    have ho : ∀ g, ((s.setOrbit n (o.firing k t i e)).updHartN t.hart g).orbit n = o.firing k t i e := fun g =>
      (State.orbit_of_disp (State.updHartN_disp ..) n).trans (State.orbit_setOrbit_same ..)
    refine ⟨?_, congrArg Orbit.eph (ho _), congrArg Orbit.fcount (ho _), ?_, State.updHartN_m ..⟩
    · exact (congrArg (·.stations[k]?) (ho _)).trans (Orbit.getElem?_setStation ht _)
    · rw [State.getHart_updHartN, if_pos rfl, zext_extractLsb'_low, zext_extractLsb'_high]
      rfl
  · obtain ⟨l, hu⟩ := State.AtEdge.keeps ⟨hr, ht, hl, hk, he⟩ hlast
    refine ⟨_, exec_orbitRoundEdge hn, ?_⟩
    rw [hu]
    refine ⟨?_, ⟨rfl, rfl, rfl⟩, rfl⟩
    exact (congrArg (·.stations[k]?) (s.orbit_setOrbit_same n _)).trans (Orbit.getElem?_setStation ht _)
  · refine ⟨_, exec_orbitRoundEdge hn, ?_⟩
    rw [State.AtEdge.gives ⟨hr, ht, hl, hk, he⟩ hc hlast]
    obtain ⟨ho, hm, l, hin⟩ := s.gaveTiles_frame n k t
    have hst : ∀ j : Nat, (((s.gaveTiles n k t).after (o.markers n k)).orbit n).stations[j]? = (o.gave k t).stations[j]? :=
      fun j => congrArg (·.stations[j]?) ho
    refine ⟨?_, fun x hx hs => ?_, fun x hx hs hne => ?_, fun x p hx hp hs => ?_, fun x p hx hp hs => ?_, ⟨l, ?_⟩, hm⟩
    · rw [hst, Orbit.getElem?_gave_self ht h2]; rfl
    · have : ¬ (o.dwell t.round = false ∧ o.next k = o.prev k) := fun h => hs.elim (by rw [h.1]; exact Bool.false_ne_true) fun hn => hn h.2
      rw [hst, Orbit.getElem?_gave _ (Orbit.next_ne ht h2), hx, Option.map_some, Orbit.receives, if_pos rfl, if_neg this]
    · rw [hst, Orbit.getElem?_gave _ (Orbit.prev_ne ht h2), hx, Option.map_some, Orbit.receives, if_neg (Ne.symm hne), if_pos ⟨hs, rfl⟩]
    · exact State.hand_gaveTiles_pro ht h2 hx hp hs
    · exact State.hand_gaveTiles_retro ht h2 hx hp hs
    · rw [State.after_inbox, hin]; rfl
  · refine ⟨_, exec_orbitMarker hn, ?_⟩
    rw [State.orbitMarker_counts ht (fun h => hkind (BitVec.eq_of_toNat_eq h)) (.inr he)]
    exact ⟨(congrArg (·.stations[k]?) (s.orbit_setOrbit_same n _)).trans (Orbit.getElem?_setStation ht _), ⟨rfl, rfl, rfl⟩, rfl⟩
  · refine ⟨_, exec_orbitLapEnd hn, ?_⟩
    rw [State.lapEnd_done hr hc he hl]
    exact ⟨s.orbit_setOrbit_same n _, rfl, ⟨rfl, rfl, rfl⟩, rfl⟩
  · exact ⟨_, exec_orbitLapEnd hn, State.lapEnd_gives hr hc he hl⟩
  · exact ⟨_, exec_orbitComplete hn, State.orbitComplete_frame hr hc hs hl he⟩

end Sys2Proof.Machine
end

section
/-! PROOF. O55 fails at RECORD_COMMIT of a context whose heads are not placed: the step reads the queue's entry all the same, and the walk that
translates the ring sets the accessed bit of a page-table entry, which fires a hart's watch on that word (spec/01 R30, spec/05 R137). -/
namespace Sys2Proof.Machine
set_option Elab.async false

/-- A parked context with a record in its first queue. Its page tables map the ring through a leaf at 0x501008 that has not been accessed yet; hart 0
watches the word in which that leaf stands. -/
def parkedWatched : State :=
  let s := (Tests.queued 4 1).updCtx 0 fun c => { c with state := 2#2, ptb := 0x8000000005000000#64 }
  let s := s.updMem fun m =>
    { m with
      seqTlb := []
      mem := m.mem ++ (Tests.cells 0x500000 (toBytes 8 0x5010001) ++ Tests.cells 0x501008 (toBytes 8 3)) }
  s.setSlice (s.homeKey 0x501008) { SliceState.reset with watches := [(0x501008, 0)] }

theorem places_parkedWatched : parkedWatched.places 0 = false := by decide +kernel

/-- Hart 0 has heard of no event before the step. -/
theorem latch_parkedWatched : parkedWatched.hart.latch = 0#7 := by decide +kernel

/-- After it, its latch holds the watch bit. -/
theorem latch_recordCommit_parkedWatched :
    (match exec .recordCommit parkedWatched with | .next t => some t.hart.latch | _ => none) = some 0b0000100#7 := by decide +kernel

/-- A RECORD_COMMIT of a context that is not placed can change a hart. -/
theorem not_sameHarts_recordCommit : ¬ Ends .recordCommit parkedWatched (SameHarts parkedWatched) := by
  intro ⟨t, ht, hsame⟩
  obtain ⟨-, hhart, -⟩ := hsame
  have hlatch := latch_recordCommit_parkedWatched
  rw [ht, Option.some_inj, hhart, latch_parkedWatched] at hlatch
  exact absurd hlatch (by decide)

/-- Refutes O55: RECORD_COMMIT of a context that is not placed still walks for its queue's ring, and the accessed bit that the walk sets fires
the watch of hart 0 on that table entry. -/
theorem not_queuesAndLaunches : ¬ Obligations.QueuesAndLaunches := by
  unfold Obligations.QueuesAndLaunches
  intro ⟨_, _, hcommit, _⟩
  obtain ⟨hidle, -⟩ := hcommit parkedWatched
  obtain ⟨t, ht, hsame, -⟩ := hidle places_parkedWatched
  exact not_sameHarts_recordCommit ⟨t, ht, hsame⟩

end Sys2Proof.Machine
end

section
/-! PROOF. O56: the commands that create, remove, quiesce and end a quiesce of a context (spec/07 R184, spec/08 R212 to R214, R225 to R227, spec/21
R474). -/
namespace Sys2Proof.Machine
set_option Elab.async false

/-! ### A slot's dispatch block -/

@[simp] theorem State.ctx_updCtx_same (s : State) (n : Nat) (g : Ctx → Ctx) : (s.updCtx n g).ctx n = g (s.ctx n) := State.ctx_setCtx_same ..
theorem State.ctx_updCtx_other (s : State) (n : Nat) (g : Ctx → Ctx) {m : Nat} (h : m ≠ n) : (s.updCtx n g).ctx m = s.ctx m :=
  State.ctx_setCtx_other _ _ _ _ h

theorem State.mem_heldDies {s : State} {n d : Nat} :
    d ∈ s.heldDies n ↔ ∃ m, m < 8 ∧ m ≠ n ∧ (s.ctx m).state = 1#2 ∧ d ∈ (s.ctx m).dies := by
  simp [State.heldDies, and_assoc]

/-- A die of a context is held by another one. -/
theorem State.any_heldDies {s : State} {n : Nat} : (s.ctx n).dies.any (s.heldDies n).contains = true ↔
    ∃ d ∈ (s.ctx n).dies, ∃ m, m < 8 ∧ m ≠ n ∧ (s.ctx m).state = 1#2 ∧ d ∈ (s.ctx m).dies := by
  simp only [List.any_eq_true, List.contains_iff_mem, State.mem_heldDies]

theorem State.any_takenDies {s : State} {n : Nat} : (s.ctx n).dies.any (s.heldDies n ++ s.promisedDies).contains = true ↔
    (∃ d ∈ (s.ctx n).dies, ∃ m, m < 8 ∧ m ≠ n ∧ (s.ctx m).state = 1#2 ∧ d ∈ (s.ctx m).dies) ∨ ∃ d ∈ (s.ctx n).dies, d ∈ s.promisedDies := by
  simp only [List.any_eq_true, List.contains_iff_mem, List.mem_append, State.mem_heldDies, and_or_left, exists_or]

theorem State.createOk_iff {s : State} {n : Nat} : s.createOk n = true ↔
    (s.ctx n).state = 0#2 ∧ (s.ctx n).dtag ≠ 0#16 ∧ (∀ m, m < 8 → m ≠ n → (s.ctx m).state = 0#2 ∨ (s.ctx m).dtag ≠ (s.ctx n).dtag) ∧
      (s.ctx n).dies ≠ [] ∧ (s.ctx n).plates ≤ 128 ∧ (s.ctx n).ptb.getLsbD 63 = true ∧ (s.ctx n).keyLoaded = true := by
  simp [State.createOk, and_assoc, or_assoc, imp_iff_not_or]

theorem State.saveOk_iff {s : State} {n : Nat} :
    s.saveOk n = true ↔ (s.ctx n).save.getLsbD 0 = true ∧ s.needOf n ≤ ((s.ctx n).save.extractLsb' 9 12).toNat := by
  simp [State.saveOk]

/-- A refused command sets CMDERR. -/
theorem State.dcDone_refused (s : State) (n : Nat) :
    s.dcDone n false = s.updCtx n fun c => { c with busy := s.stillBusy n, cmderr := true } := by simp [State.dcDone]

/-- BUSY falls with the command where nothing else keeps it. -/
theorem State.ctx_dcDone (s : State) (n : Nat) : (s.dcDone n true).ctx n = { s.ctx n with busy := s.stillBusy n } := by simp [State.dcDone]

/-! ### The registry entries of a slot (R474) -/

theorem State.object_retireEntry_same (s : State) (i : Nat) :
    (s.retireEntry i).trust.objects.get .reset i = { RegObj.reset with gen := (s.trust.objects.get .reset i).gen + 1#16 } := SMap.get_set_same ..
theorem State.object_retireEntry_other (s : State) {i j : Nat} (h : j ≠ i) :
    (s.retireEntry i).trust.objects.get .reset j = s.trust.objects.get .reset j := SMap.get_set_other _ _ _ _ _ h

/-- Of entries that are retired one by one, each is no longer live, and the others stay. -/
theorem State.live_retireEntries (l : List Nat) (s : State) {j : Nat} (hl : ((l.foldl (·.retireEntry) s).trust.objects.get .reset j).live = true) :
    j ∉ l ∧ (l.foldl (·.retireEntry) s).trust.objects.get .reset j = s.trust.objects.get .reset j := by
  induction l generalizing s with
  | nil => exact ⟨List.not_mem_nil, rfl⟩
  | cons i l ih =>
    obtain ⟨hj, he⟩ := ih (s.retireEntry i) hl
    have hne : j ≠ i := by
      rintro rfl
      rw [List.foldl_cons, he, State.object_retireEntry_same] at hl
      exact Bool.false_ne_true hl
    exact ⟨List.not_mem_cons_of_ne_of_not_mem hne hj, he.trans (State.object_retireEntry_other s hne)⟩

theorem SMap.mem_of_get_ne {α : Type} {d : α} {m : SMap α} {n : Nat} (h : SMap.get d m n ≠ d) : (n, SMap.get d m n) ∈ m := by
  induction m with
  | nil => exact absurd rfl h
  | cons x m ih =>
    obtain ⟨k, v⟩ := x
    by_cases hk : k = n
    · simp [SMap.get, hk]
    · rw [SMap.get, if_neg hk] at h ⊢
      exact .tail _ (ih h)

/-- No live entry of a slot is left where all of its entries are retired. -/
theorem State.slot_retireSlot (s : State) (n : Nat) {j : Nat} (hl : ((s.retireSlot n).trust.objects.get .reset j).live = true) :
    ((s.retireSlot n).trust.objects.get .reset j).slot.toNat ≠ n := by
  obtain ⟨hj, he⟩ := State.live_retireEntries _ s hl
  intro hn
  refine hj (List.mem_map.2 ⟨(j, s.trust.objects.get .reset j), List.mem_filter.2 ⟨SMap.mem_of_get_ne ?_, ?_⟩, rfl⟩)
  · intro hreset
    rw [State.retireSlot, he, hreset] at hl
    exact Bool.false_ne_true hl
  · rw [State.retireSlot, he] at hl hn
    simp [hl, hn]

/-- Retiring the entries of a slot changes the registry alone. -/
theorem State.retireSlot_eq (s : State) (n : Nat) : ∃ t, s.retireSlot n = { s with trust := t } :=
  Inv.foldl (P := fun u => ∃ t, u = { s with trust := t }) ⟨_, rfl⟩ fun _ ⟨_, e⟩ _ => e ▸ ⟨_, rfl⟩

/-! ### The sequencer's translations -/

/-- No leaf of a context is left in the sequencer's TLBs where they are dropped. -/
theorem State.ctx_of_mem_dropSequencer {s : State} {ctxid : BitVec 16} {k : Nat} {e : TlbEntry}
    (he : e ∈ (s.dropSequencer ctxid).m.seqTlb.get [] k) : e.ctx ≠ ctxid := by
  have hm : (s.dropSequencer ctxid).m.seqTlb.get [] k = (s.m.seqTlb.get [] k).filter fun e => e.ctx != ctxid :=
    SMap.get_map [] (fun _ l => l.filter fun e : TlbEntry => e.ctx != ctxid) s.m.seqTlb k [] rfl
  rw [hm] at he
  simpa using (List.mem_filter.1 he).2

/-! ### Create (R214, R80) -/

/-- What setting up a pool for context `n` leaves of a state: plates that were attached to nothing may be the context's, zeroed and EMPTY. -/
structure State.PoolGrows (s : State) (n : Nat) (t : State) : Prop where
  harts : SameHarts s t
  disp : t.disp = s.disp
  inbox : t.inbox = s.inbox
  trust : t.trust = s.trust
  seqTlb : t.m.seqTlb = s.m.seqTlb
  plates : ∀ p, t.plate p = s.plate p ∨ ((s.plate p).attach = 0#2 ∧ t.plate p = { Plate.reset with attach := 1#2, ctx := BitVec.ofNat 3 n })

namespace State.PoolGrows

theorem refl (s : State) (n : Nat) : s.PoolGrows n s := ⟨⟨rfl, rfl, rfl⟩, rfl, rfl, rfl, rfl, fun _ => .inl rfl⟩

/-- One plate that is attached to nothing joins the pool. -/
theorem join {s t : State} {n p : Nat} {g : MemState → MemState} (h : s.PoolGrows n t) (hp : (t.plate p).attach = 0#2)
    (hg : ∀ m, (g m).plates = m.plates ∧ (g m).seqTlb = m.seqTlb) :
    s.PoolGrows n ((({ t with free := t.free + 1 } : State).setPlate p { Plate.reset with attach := 1#2, ctx := BitVec.ofNat 3 n }).updMem g) := by
  refine ⟨h.harts, h.disp, h.inbox, h.trust, (hg _).2.trans h.seqTlb, fun q => ?_⟩
  have hplate : ∀ v : State, (v.updMem g).plate q = v.plate q := fun v => by rw [State.plate, State.updMem, (hg _).1, State.plate]
  rw [hplate]
  by_cases hq : q = p
  · subst hq
    rw [State.plate_setPlate_same]
    refine .inr ⟨?_, rfl⟩
    rcases h.plates q with he | ⟨ha, -⟩
    · exact he ▸ hp
    · exact ha
  · rw [State.plate_setPlate_other _ _ _ _ hq]
    exact h.plates q

end State.PoolGrows

/-- One plate of a die that is attached to nothing joins the pool of context `n`, zeroed, where there is one. -/
def State.joinPool (s : State) (n d : Nat) : State :=
  match s.pickOne (((List.range 128).map (d * 128 + ·)).filter fun p => (s.plate p).attach == 0#2) with
  | (s, none) => s
  | (s, some p) =>
    let a := s.ownPa (plateLa d (p % 128) 0)
    (s.setPlate p { Plate.reset with attach := 1#2, ctx := BitVec.ofNat 3 n }).updMem fun m =>
      { m with mem := Mem.drop a 0x40000 m.mem, marks := natDrop (8 * a) (8 * 0x40000) m.marks }

/-- The pool of a context as `setupPool` fills it. -/
def State.pooled (s : State) (n : Nat) : State :=
  let c := s.ctx n
  (c.dies.filter fun d => !c.ranOn.getLsbD d).foldl (fun s d => (List.range c.plates).foldl (fun s _ => s.joinPool n d) s) s

theorem State.PoolGrows.joinPool {s t : State} {n : Nat} (h : s.PoolGrows n t) (d : Nat) : s.PoolGrows n (t.joinPool n d) := by
  unfold State.joinPool
  split
  · next hpick =>
    obtain ⟨rfl, -⟩ := Prod.mk.inj hpick
    exact ⟨h.harts, h.disp, h.inbox, h.trust, h.seqTlb, h.plates⟩
  · next v p hpick =>
    obtain ⟨rfl, hp⟩ := Prod.mk.inj hpick
    have hmem := List.mem_of_getElem? hp
    refine h.join ?_ fun _ => ⟨rfl, rfl⟩
    simpa using (List.mem_filter.1 hmem).2

/-- A context as it is created: its slot has a new generation, and what it kept is gone. -/
def Ctx.created (c : Ctx) : Ctx := { c with gen := c.gen + 1#13, ranOn := 0#8, queues := [], epoch := 0#8, moves := [] }

/-- The state in which a context is created, before it gets its pool or is parked. -/
def State.creating (s : State) (n : Nat) : State :=
  ((((s.dropSequencer (s.ctxidOf n)).retireSlot n).updCtx n (·.created)).updDisp fun d => { d with saved := d.saved.filter fun x => decide (x.1 ≠ n) })

theorem State.createContext_refused {s : State} {n : Nat} (h : ¬ s.createOk n = true ∨
    ((s.ctx n).dies.any (s.heldDies n ++ s.promisedDies).contains = true ∧ ¬ s.saveOk n = true)) : s.createContext n = s.dcDone n false := by
  rw [State.createContext, if_pos]
  simpa [-List.any_eq_true] using h
theorem State.createContext_runs {s : State} {n : Nat} (hok : s.createOk n = true)
    (hfree : (s.ctx n).dies.any (s.heldDies n ++ s.promisedDies).contains = false) :
    s.createContext n = (((((s.creating n).setupPool n).updCtx n fun c => { c with state := 1#2 }).dcDone n true).after scanMsgs) := by
  simp only [State.createContext, hok, hfree]
  rfl
theorem State.createContext_parks {s : State} {n : Nat} (hok : s.createOk n = true)
    (hheld : (s.ctx n).dies.any (s.heldDies n ++ s.promisedDies).contains = true) (hs : s.saveOk n = true) :
    s.createContext n = (((s.creating n).updCtx n fun c => { c with state := 2#2 }).dcDone n true) := by
  simp only [State.createContext, hok, hheld, hs]
  rfl
theorem State.setupPool_eq (s : State) (n : Nat) : s.setupPool n =
    (s.pooled n).updCtx n fun c => { c with ranOn := c.dies.foldl (fun m d => m ||| (1#8 <<< d)) c.ranOn } := by
  rfl
theorem State.poolGrows_pooled (s : State) (n : Nat) : s.PoolGrows n (s.pooled n) :=
  Inv.foldl (P := s.PoolGrows n) (.refl s n) fun _ ht d => Inv.foldl (P := s.PoolGrows n) ht fun _ hu _ => hu.joinPool d

/-! What a create that is admitted leaves in either case (R214, R474, spec/01 R35). -/

/-- A state that differs from `s` in what a create takes: the harts and the other slots are as they were, no live registry entry is of slot `n`, and no
leaf in the sequencer's TLBs is of the context that the slot held. -/
structure State.Renews (s : State) (n : Nat) (t : State) : Prop where
  harts : SameHarts s t
  waits : t.commandWaits n = s.commandWaits n
  cuts : t.disp.cuts = s.disp.cuts
  others : ∀ m, m ≠ n → t.ctx m = s.ctx m
  objects : ∀ i, (t.trust.objects.get .reset i).live = true → (t.trust.objects.get .reset i).slot.toNat ≠ n
  leaves : ∀ k e, e ∈ t.m.seqTlb.get [] k → e.ctx ≠ s.ctxidOf n

namespace State.Renews
variable {s t : State} {n : Nat} (h : s.Renews n t)
include h

theorem updCtx {g : Ctx → Ctx} : s.Renews n (t.updCtx n g) :=
  ⟨h.harts, h.waits, h.cuts, fun m hm => (State.ctx_updCtx_other t n g hm).trans (h.others m hm), h.objects, h.leaves⟩
theorem pooled {u : State} (hu : t.PoolGrows n u) : s.Renews n u := by
  obtain ⟨⟨hcur, hhart, hothers⟩, hdisp, hinbox, htrust, htlb, -⟩ := hu
  obtain ⟨hc, hh, ho⟩ := h.harts
  refine ⟨⟨hcur.trans hc, hhart.trans hh, hothers.trans ho⟩, ?_, hdisp ▸ h.cuts, fun m hm => ?_, htrust ▸ h.objects, htlb ▸ h.leaves⟩
  · rw [State.commandWaits, hinbox]
    exact h.waits
  · rw [State.ctx, hdisp]
    exact h.others m hm
/-- What keeps the slot busy is what kept it busy before. -/
theorem stillBusy : t.stillBusy n = s.stillBusy n := by
  rw [State.stillBusy, State.cutting, h.cuts, h.waits]
  rfl
theorem dcDone : s.Renews n (t.dcDone n true) := h.updCtx
theorem ctx_dcDone : (t.dcDone n true).ctx n = { t.ctx n with busy := s.stillBusy n } := (t.ctx_dcDone n).trans (h.stillBusy ▸ rfl)
theorem after_scanMsgs : s.Renews n (t.after scanMsgs) := by
  refine ⟨h.harts, ?_, h.cuts, h.others, h.objects, h.leaves⟩
  rw [← h.waits]
  simp [State.commandWaits, State.after, scanMsgs]

end State.Renews

theorem State.renews_creating (s : State) (n : Nat) : s.Renews n (s.creating n) ∧ (s.creating n).ctx n = (s.ctx n).created ∧
    (s.creating n).m.mem = s.m.mem ∧ (s.creating n).m.plates = s.m.plates ∧ (s.creating n).inbox = s.inbox := by
  obtain ⟨t, ht⟩ := State.retireSlot_eq (s.dropSequencer (s.ctxidOf n)) n
  have hslot := @State.slot_retireSlot (s.dropSequencer (s.ctxidOf n)) n
  rw [ht] at hslot
  rw [State.creating, ht]
  exact ⟨⟨⟨rfl, rfl, rfl⟩, rfl, rfl, fun m hm => SMap.get_set_other _ _ _ _ _ hm, fun i => hslot, fun k e => State.ctx_of_mem_dropSequencer⟩,
    SMap.get_set_same .., rfl, rfl, rfl⟩

/-- A context whose dies are free is created running, with its pool. -/
theorem State.createContext_running {s : State} {n : Nat} (hok : s.createOk n = true)
    (hfree : (s.ctx n).dies.any (s.heldDies n ++ s.promisedDies).contains = false) :
    s.Renews n (s.createContext n) ∧ (∃ x, (s.createContext n).ctx n =
      { (s.ctx n).created with state := 1#2, ranOn := x, busy := s.stillBusy n }) ∧ (s.createContext n).inbox = s.inbox ++ scanMsgs ∧
    ∀ p, (s.createContext n).plate p = s.plate p ∨
      ((s.plate p).attach = 0#2 ∧ (s.createContext n).plate p = { Plate.reset with attach := 1#2, ctx := BitVec.ofNat 3 n }) := by
  obtain ⟨hr, hctx, -, hplates, hinbox⟩ := s.renews_creating n
  have hg := (s.creating n).poolGrows_pooled n
  have hp := (hr.pooled hg).updCtx (g := fun c => { c with ranOn := c.dies.foldl (fun m d => m ||| (1#8 <<< d)) c.ranOn })
  have hu := hp.updCtx (g := fun c => { c with state := 1#2 })
  have hc : ((s.creating n).pooled n).ctx n = (s.ctx n).created := by rw [State.ctx, hg.disp, ← State.ctx, hctx]
  have hend := hu.ctx_dcDone
  rw [State.ctx_updCtx_same, State.ctx_updCtx_same, hc] at hend
  rw [State.createContext_runs hok hfree, State.setupPool_eq]
  generalize (s.creating n).pooled n = c at *
  refine ⟨hu.dcDone.after_scanMsgs, ⟨_, hend⟩, congrArg (· ++ scanMsgs) (hg.inbox.trans hinbox), fun p => ?_⟩
  have h := hg.plates p
  rw [State.plate.eq_def (s.creating n), hplates] at h
  exact h

/-- One whose dies are taken is created parked. -/
theorem State.createContext_parked {s : State} {n : Nat} (hok : s.createOk n = true)
    (hheld : (s.ctx n).dies.any (s.heldDies n ++ s.promisedDies).contains = true) (hs : s.saveOk n = true) :
    s.Renews n (s.createContext n) ∧ (∃ x, (s.createContext n).ctx n =
      { (s.ctx n).created with state := 2#2, ranOn := x, busy := s.stillBusy n }) ∧ (s.createContext n).m.mem = s.m.mem ∧
    (s.createContext n).m.plates = s.m.plates ∧ (s.createContext n).inbox = s.inbox := by
  obtain ⟨hr, hctx, hframe⟩ := s.renews_creating n
  have hu := hr.updCtx (g := fun c => { c with state := 2#2 })
  have hend := hu.ctx_dcDone
  rw [State.ctx_updCtx_same, hctx] at hend
  rw [State.createContext_parks hok hheld hs]
  generalize s.creating n = c at *
  exact ⟨hu.dcDone, ⟨0#8, hend⟩, hframe⟩

/-! ### Remove (R184) -/

/-- The plate of a slot that is removed is reset. -/
def Plate.removed (n : Nat) (p : Plate) : Plate := if p.attach ≠ 0#2 ∧ p.ctx.toNat = n then Plate.reset else p

theorem Plate.ctx_of_removed {n : Nat} {p : Plate} (h : (p.removed n).attach ≠ 0#2) : (p.removed n).ctx.toNat ≠ n := by
  unfold Plate.removed at h ⊢
  split at h
  · exact absurd rfl h
  · next hk =>
    rw [if_neg hk]
    exact fun hc => hk ⟨h, hc⟩

/-- The leaves of a translation structure that stay at a removal (R184): those of other contexts, and global ones. -/
def keepLeaves (ctxid : BitVec 16) (l : List TlbEntry) : List TlbEntry := l.filter fun e => !(e.ctx == ctxid && !e.attr.g)

theorem g_of_mem_keepLeaves {ctxid : BitVec 16} {l : List TlbEntry} {e : TlbEntry} (he : e ∈ keepLeaves ctxid l) (hc : e.ctx = ctxid) :
    e.attr.g = true := by
  simpa [hc] using (List.mem_filter.1 he).2

def CoreState.keepLeaves (ctxid : BitVec 16) (c : CoreState) : CoreState :=
  { c with itlb := Machine.keepLeaves ctxid c.itlb, dtlb := Machine.keepLeaves ctxid c.dtlb }
def ClusterState.keepLeaves (ctxid : BitVec 16) (c : ClusterState) : ClusterState := { c with pre := Machine.keepLeaves ctxid c.pre }

theorem State.core_dropTranslations (s : State) (ctxid : BitVec 16) (k : Nat) :
    (s.dropTranslations ctxid).core k = (s.core k).keepLeaves ctxid :=
  SMap.get_map CoreState.reset (fun _ => CoreState.keepLeaves ctxid) s.m.cores k _ rfl
theorem State.cluster_dropTranslations (s : State) (ctxid : BitVec 16) (k : Nat) :
    (s.dropTranslations ctxid).cluster k = (s.cluster k).keepLeaves ctxid :=
  SMap.get_map ClusterState.reset (fun _ => ClusterState.keepLeaves ctxid) s.m.clusters k _ rfl

/-- The state in which a context has been removed, but for the end of the command. -/
def State.removing (s : State) (n : Nat) : State :=
  ((((s.dropTranslations (s.ctxidOf n)).retireSlot n).updDisp fun d => { d with saved := d.saved.filter fun x => decide (x.1 ≠ n) }).updMem fun m =>
    { m with
      agentWatches := m.agentWatches.filter fun w => decide (w.slot.toNat ≠ n)
      plates := m.plates.map fun p => if p.2.attach ≠ 0#2 ∧ p.2.ctx.toNat = n then (p.1, Plate.reset) else p }).updCtx n
    fun c => { c with state := 0#2, keyLoaded := false, table := c.qtab, fresh := false, queues := [] }

theorem State.removeContext_done {s : State} {n : Nat} (hstate : (s.ctx n).state = 2#2) (hrun : s.runCount n = 0) :
    s.removeContext n = (s.removing n).dcDone n true := by
  rw [State.removeContext, if_neg (by simp [hstate, hrun])]
  rfl

theorem State.renews_removing (s : State) (n : Nat) : s.Renews n (s.removing n) ∧
    (s.removing n).ctx n = { s.ctx n with state := 0#2, keyLoaded := false, table := (s.ctx n).qtab, fresh := false, queues := [] } ∧
    (s.removing n).m.mem = s.m.mem ∧ (∀ k, (s.removing n).core k = (s.dropTranslations (s.ctxidOf n)).core k) ∧
    (∀ k, (s.removing n).cluster k = (s.dropTranslations (s.ctxidOf n)).cluster k) ∧
    ∀ p, (s.removing n).plate p = (s.plate p).removed n := by
  obtain ⟨t, ht⟩ := State.retireSlot_eq (s.dropTranslations (s.ctxidOf n)) n
  have hslot := @State.slot_retireSlot (s.dropTranslations (s.ctxidOf n)) n
  rw [ht] at hslot
  rw [State.removing, ht]
  refine ⟨⟨⟨rfl, rfl, rfl⟩, rfl, rfl, fun m hm => SMap.get_set_other _ _ _ _ _ hm, fun i => hslot,
    fun k e => State.ctx_of_mem_dropSequencer (s := s)⟩, SMap.get_set_same .., rfl, fun _ => rfl, fun _ => rfl, fun p => ?_⟩
  have hmap : (s.m.plates.map fun p => if p.2.attach ≠ 0#2 ∧ p.2.ctx.toNat = n then (p.1, Plate.reset) else p) =
      s.m.plates.map fun p => (p.1, p.2.removed n) := by
    refine List.map_congr_left fun p _ => ?_
    unfold Plate.removed
    split <;> rfl
  have hget := SMap.get_map Plate.reset (fun _ p => p.removed n) s.m.plates p Plate.reset rfl
  rw [← hmap] at hget
  exact hget

/-! ### Quiesce (R224, R225, R227) -/

theorem State.cutOf_updCut (s : State) (n : Nat) {g : Cut → Cut} (hg : ∀ c, (g c).slot = c.slot) : (s.updCut n g).cutOf n = (s.cutOf n).map g := by
  have hp : ((fun c : Cut => decide (c.slot = n)) ∘ fun c => if c.slot = n then g c else c) = fun c => decide (c.slot = n) := by
    funext c
    by_cases hc : c.slot = n <;> simp [hc, hg]
  rw [State.cutOf, State.cutOf]
  change (s.disp.cuts.map _).find? _ = _
  rw [List.find?_map, hp]
  cases hf : s.disp.cuts.find? fun c => decide (c.slot = n) with
  | none => rfl
  | some c =>
    have hc : c.slot = n := by simpa using List.find?_some hf
    simp [hc]

theorem State.cutting_updCut (s : State) (n m : Nat) {g : Cut → Cut} (hg : ∀ c, (g c).slot = c.slot) :
    (s.updCut n g).cutting m = s.cutting m := by
  change (s.disp.cuts.map _).any _ = _
  rw [List.any_map, State.cutting]
  congr 1
  funext c
  by_cases hc : c.slot = n <;> simp [hc, hg]

/-- An I/O die begins a cut that another unit has not begun yet: it sends the cut on to the units it is linked to, and nothing else follows. -/
theorem State.beginUnit_io {s : State} {n u : Nat} {c : Cut} (hc : s.cutOf n = some c) (hu : u ∉ c.begun) (hio : 8 ≤ u ∧ u < 10)
    (hmore : ({ c with begun := u :: c.begun } : Cut).everywhere = false) : s.beginUnit n u =
      (s.updCut n fun c => { c with begun := u :: c.begun }).after ((unitPeers u).map fun v => unitMarker (s.ctxidOf n) v c.epoch) := by
  have hcut := State.cutOf_updCut s n (g := fun c => { c with begun := u :: c.begun }) fun _ => rfl
  rw [hc] at hcut
  rw [State.beginUnit, hc]
  dsimp only
  rw [if_neg (by simp [hu, hio.2]), if_neg (Nat.not_lt.2 hio.1), if_neg]
  · rfl
  · change ¬ ((State.updCut s n _).cutOf n).any (·.everywhere) = true
    rw [hcut]
    simp [hmore]

theorem State.quiesce_refused {s : State} {n : Nat} (h : (s.ctx n).state ≠ 1#2 ∨ s.cutting n = true ∨ s.disp.switch.phase = 2#2) :
    s.quiesce n = s.dcDone n false := if_pos h

/-- A cut of context `n` for a quiesce, as it begins, and once units have begun it. -/
def Cut.quiescing (n : Nat) (e : BitVec 8) (begun : List Nat) : Cut := { slot := n, epoch := e, quiesce := true, begun, markers := [], complete := false }

/-- The dispatch state as a quiesce begins: one cut of the context, which no unit has begun yet. -/
def State.quiescing (s : State) (n : Nat) : State :=
  (s.updDisp fun d => { d with cuts := Cut.quiescing n ((s.ctx n).epoch + 1#8) [] :: d.cuts.filter fun x => decide (x.slot ≠ n) }).updCtx n
    fun c => { c with busy := true, epoch := (s.ctx n).epoch + 1#8 }

theorem State.cutOf_quiescing (s : State) (n : Nat) : (s.quiescing n).cutOf n = some (Cut.quiescing n ((s.ctx n).epoch + 1#8) []) :=
  List.find?_cons_of_pos (by simp [Cut.quiescing])

theorem State.cutting_quiescing (s : State) {n m : Nat} (hm : m ≠ n) : (s.quiescing n).cutting m = s.cutting m := by
  change (_ :: s.disp.cuts.filter _).any _ = _
  rw [List.any_cons, List.any_filter, State.cutting, Cut.quiescing, decide_eq_false (Ne.symm hm), Bool.false_or]
  congr 1
  funext c
  by_cases hc : c.slot = m <;> simp [hc, hm]

/-- A quiesce begins the cut of the context at IOD0 alone, which sends it on to the dies it is linked to. -/
theorem State.quiesce_begins {s : State} {n : Nat} (h : ¬ ((s.ctx n).state ≠ 1#2 ∨ s.cutting n = true ∨ s.disp.switch.phase = 2#2)) :
    s.quiesce n = ((s.quiescing n).updCut n fun c => { c with begun := 8 :: c.begun }).after
      [unitMarker ((s.quiescing n).ctxidOf n) 0 ((s.ctx n).epoch + 1#8), unitMarker ((s.quiescing n).ctxidOf n) 4 ((s.ctx n).epoch + 1#8)] := by
  have hq : s.quiesce n = (s.quiescing n).beginUnit n 8 := if_neg h
  rw [hq, State.beginUnit_io (s.cutOf_quiescing n) (by simp [Cut.quiescing]) (by decide) (by rfl)]
  rfl

/-! ### A property that every change of the memory system keeps -/

/-- A property that the updates of caches, slices, messages and watches keep, and any other change of the memory state. -/
structure Inv.Mem (P : State → Prop) : Prop extends Inv.Home P where
  mem : ∀ {s : State} {g : MemState → MemState}, P s → P (s.updMem g)

theorem Inv.ite_fst {P : State → Prop} {β : Type} {c : Prop} {_ : Decidable c} {a b : State × β} (ha : P a.1) (hb : P b.1) :
    P (if c then a else b).1 := by
  split
  · exact ha
  · exact hb

namespace Inv.Mem
section
variable {P : State → Prop} (hP : Inv.Mem P) {s : State} (hs : P s)
include hP hs

theorem openRow {pa} : P (s.openRow pa) := Inv.ite (hP.mem hs) hs
theorem homeTouch {slot ln dirty} : P (s.homeTouch slot ln dirty) := by
  have ha := hP.answerRemote hs (slot := slot) (ln := ln)
  dsimp only [State.homeTouch]
  split
  · exact hP.setSlice (Inv.ite (hP.mergeUnder (hP.openRow ha)) ha)
  · exact hP.sliceAlloc (Inv.ite (hP.openRow ha) ha)
theorem takeAll {slot ln m wb} : P (s.takeAll slot ln m wb) := by
  refine Inv.foldl (hP.takeFrom hs) fun u hu d => ?_
  split
  · exact Inv.ite hu (hP.takeFrom hu)
  · exact hu
theorem homeTake {slot pa n} : P (s.homeTake slot pa n).1 := hP.homeTouch (hP.takeAll hs)
theorem homePut {slot pa bs} : P (s.homePut slot pa bs) := hP.fireWatches (hP.homeStore (hP.homeTouch hs))
theorem engineWrite {slot pa bs} : P (s.engineWrite slot pa bs) := hP.homePut (hP.takeAll hs)

/-- Held requests that go out, and the acquire that follows them (spec/06 R174, spec/08 R226). -/
theorem releaseHeld {n} : P (s.releaseHeld n) :=
  Inv.foldl (hP.fabric hs) fun _ ht _ => Inv.ite (hP.homeStore (hP.fabric ht)) (hP.engineWrite (hP.fabric ht))
theorem acquireRlc {d p} : P (s.acquireRlc d p) := Inv.foldl hs fun _ ht _ => Inv.ite (hP.setSlice ht) ht

theorem walkInstall {iod e} : P (s.walkInstall iod e) := by
  dsimp only [State.walkInstall]
  exact hP.mem hs
theorem setCluster {k v} : P (s.setCluster k v) := hP.mem hs
theorem setCore {k v} : P (s.setCore k v) := hP.mem hs
theorem tlbInstall {h k e} : P (s.tlbInstall h k e) := by
  unfold State.tlbInstall
  cases k with
  | sequencer => exact hP.mem hs
  | instr => exact hP.setCore (hP.setCluster hs)
  | data => exact hP.setCore (hP.setCluster hs)
  | vector => exact hP.setCluster hs

end

theorem walk {P : State → Prop} (hP : Inv.Mem P) {s : State} (hs : P s) {w acc va fuel table} : P (s.walk w acc va fuel table).1 := by
  induction fuel generalizing s table with
  | zero =>
    unfold State.walk
    refine Inv.ite_fst hs ?_
    dsimp only
    refine Inv.ite_fst hs <| Inv.ite_fst hs <| Inv.ite_fst (Inv.ite_fst hs hs) ?_
    split
    · exact hs
    · exact Inv.ite hs (hP.homePut (hP.homeTake hs))
  | succ fuel ih =>
    unfold State.walk
    extract_lets level ix
    refine Inv.ite_fst hs ?_
    generalize (if level = 0 then none else s.walkCached w level table ix) = next
    cases next with
    | some next => exact ih hs
    | none =>
      refine Inv.ite_fst hs <| Inv.ite_fst hs <| Inv.ite_fst (Inv.ite_fst hs (ih (hP.walkInstall hs))) ?_
      split
      · exact hs
      · exact Inv.ite hs (hP.homePut (hP.homeTake hs))

theorem lookup {P : State → Prop} (hP : Inv.Mem P) {s : State} (hs : P s) {w h k acc va} : P (s.lookup w h k acc va).1 := by
  unfold State.lookup
  refine Inv.ite_fst hs <| Inv.ite_fst hs ?_
  dsimp only
  split
  · exact Inv.ite (hP.tlbInstall hs) hs
  · split
    · exact hP.tlbInstall hs
    · have hw := hP.walk hs (w := w) (acc := acc) (va := va) (fuel := 3) (table := (w.sptb.extractLsb' 16 40).toNat * 4096)
      split
      · next e =>
        rw [e] at hw
        exact hP.tlbInstall hw
      · exact hw

end Inv.Mem

/-! ### What the release of a context's requests, its tables and its memory leave of the dispatch state and the harts -/

/-- The dispatch state has a property, and whether an accepted command of slot `n` waits is known. -/
def State.Orders (Q : DispatchState → Prop) (n : Nat) (b : Bool) (t : State) : Prop := Q t.disp ∧ t.commandWaits n = b

/-- No change of the memory system reaches the dispatch state, or is a command of a slot. -/
theorem State.Orders.inv (Q : DispatchState → Prop) (n : Nat) (b : Bool) : Inv.Mem (State.Orders Q n b) where
  slices h := h
  poison h := h
  under h := h
  l1 h := h
  cc h := h
  fabric h := h
  agents h := by
    refine ⟨h.1, Eq.trans ?_ h.2⟩
    unfold State.commandWaits State.fireAgents
    rw [List.any_append, List.any_map, Bool.or_eq_left_iff_imp, List.any_eq_true]
    rintro ⟨w, -, hw⟩
    cases hd : w.dep <;> simp [hd] at hw
  wake h := by
    refine ⟨?_, Eq.trans ?_ h.2⟩
    · simpa using h.1
    · rw [State.commandWaits, State.commandWaits, State.updHartN_inbox]
  store h := h
  mem h := h

theorem latch_or {x y b : BitVec 7} (h : x &&& b = b) : (x ||| y) &&& b = b := by
  rw [BitVec.and_or_distrib_right, h]
  ext i
  simp

/-- A bit of a hart's latch that is set stays set. -/
theorem State.latched_inv (l : List Nat) (b : BitVec 7) : Inv.Mem fun t => ∀ h ∈ l, (t.getHart h).latch &&& b = b where
  slices h := h
  poison h := h
  under h := h
  l1 h := h
  cc h := h
  fabric h := h
  agents h := h
  wake h := by
    intro k hk
    rw [State.getHart_updHartN]
    split
    · next e =>
      exact latch_or (e ▸ h k hk)
    · exact h k hk
  store h := h
  mem h := h

theorem State.Steady.mem_inv (s : State) : Inv.Mem s.Steady := { toHome := (State.Steady.inv s).toHome, mem := id }

namespace State.Orders
variable {Q : DispatchState → Prop} {n : Nat} {b : Bool} {s : State} (h : s.Orders Q n b)
include h

theorem setHart {k x} : (s.setHart k x).Orders Q n b := by
  unfold State.setHart
  exact Inv.ite (P := State.Orders Q n b) h h
theorem updHartN {k g} : (s.updHartN k g).Orders Q n b := h.setHart
theorem putCells {a k cells marks} : (s.putCells a k cells marks).Orders Q n b := h

theorem clearContext {k} : (s.clearContext k).Orders Q n b := by
  have hh := Inv.foldl (P := State.Orders Q n b) (l := s.placedHarts k) (g := fun s h => ((s.unwatch h).unpark h).setHart h .reset) h
    fun t (ht : State.Orders Q n b t) x => setHart (s := (t.unwatch x).unpark x) ht
  exact Inv.foldl (P := State.Orders Q n b) (g := fun s p => s.setPlate p .reset) hh fun t ht x => ht

theorem rearm {k} : (s.rearm k).Orders Q n b := by
  have hP := State.Orders.inv Q n b
  unfold State.rearm
  refine Inv.ite (P := State.Orders Q n b) h ?_
  have hl := hP.lookup h (w := s.walkerOf k) (h := k) (k := .data) (acc := .load)
    (va := (((s.getHart k).user.watchVa).extractLsb' 0 48).signExtend 64)
  dsimp only
  split
  · next e =>
    rw [e] at hl
    exact hl.updHartN
  · next e =>
    rw [e] at hl
    exact Inv.ite hl.updHartN (Inv.ite hl.updHartN.updHartN (hP.setSlice hl))

theorem restoreShare {a k x v} : (s.restoreShare a k x v).Orders Q n b := Inv.ite (P := State.Orders Q n b) h h
theorem restoreHart {fh fp x g} : (s.restoreHart fh fp x g).Orders Q n b := by
  unfold State.restoreHart
  exact rearm (putCells (putCells (restoreShare h.setHart)))
theorem restoreLaunch {fh fp l} : (s.restoreLaunch fh fp l).Orders Q n b := by
  cases l with
  | nil => exact h
  | cons x l => exact Inv.foldl (P := State.Orders Q n b) h fun t ht y => ht.restoreHart

/-- A context that is put back where its tables place it now: no other slot's cut, and no command, is touched. -/
theorem restoreContext {k img} (hQ : ∀ d : DispatchState, Q d → ∀ l o v, Q { d with launches := l, orbits := o, saved := v })
    (hctx : ∀ d : DispatchState, Q d → ∀ c, Q { d with ctxs := c }) : (s.restoreContext k img).Orders Q n b := by
  unfold State.restoreContext
  extract_lets fh fp plates ls launches tables parks copies held
  have hplates : plates.Orders Q n b := Inv.foldl (P := State.Orders Q n b) h fun _ ht _ => ht
  have hlaunches : launches.Orders Q n b := Inv.foldl (P := State.Orders Q n b) hplates fun _ ht _ => ht.restoreLaunch
  have htables : tables.Orders Q n b := ⟨hQ _ hlaunches.1 _ _ _, hlaunches.2⟩
  have hparks : parks.Orders Q n b := Inv.foldl (P := State.Orders Q n b) htables fun _ ht _ => ht
  have hcopies : copies.Orders Q n b := Inv.foldl (P := State.Orders Q n b) hparks fun _ ht _ => ht
  exact ⟨hctx _ hcopies.1 _, hcopies.2⟩

end State.Orders

/-! ### End quiesce (R227) -/

/-- What the units of a context that goes on do reaches no hart and no dispatch block. -/
theorem State.resumeSteps_frame (s : State) (n : Nat) : SameHarts s (s.resumeSteps n) ∧ (s.resumeSteps n).disp = s.disp :=
  Inv.foldl (P := fun t => SameHarts s t ∧ t.disp = s.disp) (g := fun s p => s.drainCheck p) (l := s.platesOf n) ⟨⟨rfl, rfl, rfl⟩, rfl⟩
    fun _ ht _ => Inv.ite (P := fun t => SameHarts s t ∧ t.disp = s.disp) ht ht

/-- The state in which a context's requests have gone out and its harts meet no word older than the cut. -/
def State.released (s : State) (n : Nat) : State :=
  (s.ctx n).dies.foldl (fun s d => s.acquireRlc d fun _ => true) (s.releaseHeld n)

theorem State.goOn_eq (s : State) (n : Nat) : s.goOn n = ((s.released n).updCtx n fun c => { c with state := 1#2 }).resumeSteps n := rfl

theorem Inv.Mem.released {P : State → Prop} (hP : Inv.Mem P) {s : State} (hs : P s) {n : Nat} : P (s.released n) :=
  Inv.foldl (hP.releaseHeld hs) fun _ ht _ => hP.acquireRlc ht

/-- A context that goes on runs; of its dispatch block nothing else changes. -/
theorem State.ctx_goOn (s : State) (n : Nat) : (s.goOn n).ctx n = { s.ctx n with state := 1#2 } := by
  have hd : (s.released n).disp = s.disp := ((State.Orders.inv (· = s.disp) n (s.commandWaits n)).released ⟨rfl, rfl⟩).1
  rw [State.goOn_eq, State.ctx, (State.resumeSteps_frame _ n).2, ← State.ctx, State.ctx_updCtx_same, State.ctx, hd]
  rfl

theorem State.getHart_congr {s t : State} (h : SameHarts s t) (k : Nat) : t.getHart k = s.getHart k := by
  obtain ⟨hc, hh, ho⟩ := h
  rw [State.getHart, State.getHart, hc, hh, ho]

/-- A property of the harts alone that every change of the memory system keeps holds of a context that goes on. -/
theorem Inv.Mem.goOn {P : State → Prop} (hP : Inv.Mem P) (hharts : ∀ {s t}, SameHarts s t → P s → P t) {s : State} (hs : P s) {n : Nat} :
    P (s.goOn n) := by
  have hstate : P ((s.released n).updCtx n fun c => { c with state := 1#2 }) := hharts (s := s.released n) ⟨rfl, rfl, rfl⟩ (hP.released hs)
  exact hharts (State.resumeSteps_frame _ n).1 hstate

theorem State.endQuiesce_refused {s : State} {n : Nat}
    (h : (s.ctx n).state ≠ 3#2 ∨ s.cutting n = true ∨ (s.ctx n).dies.any (s.heldDies n).contains = true) : s.endQuiesce n = s.dcDone n false := if_pos h

/-- A context that stands where its tables place it: its harts have RESUME in their latches. -/
def State.resumedHere (s : State) (n : Nat) : State :=
  ((s.placedHarts n).foldl (fun s h => s.updHartN h (·.setLatch latchResume)) s).updCtx n fun c => { c with moves := [] }

theorem State.endQuiesce_goes {s : State} {n : Nat}
    (h : ¬ ((s.ctx n).state ≠ 3#2 ∨ s.cutting n = true ∨ (s.ctx n).dies.any (s.heldDies n).contains = true)) :
    s.endQuiesce n = ((if (s.hartMoves n (s.imageOf n)).all fun m => decide (m.1 = m.2) then s.resumedHere n
      else (s.clearContext n).restoreContext n (s.imageOf n)).dcDone n true).goOn n := by
  rw [State.endQuiesce, if_neg h]
  have hfold : (s.imageOf n).harts.foldl (fun s h => s.updHartN h.phys (·.setLatch latchResume)) s =
      (s.placedHarts n).foldl (fun s h => s.updHartN h (·.setLatch latchResume)) s := List.foldl_map
  dsimp only
  rw [hfold]
  rfl

/-- Setting latch bits leaves harts steady, and the bits of each stay set. -/
theorem State.Steady.setLatch {s t : State} (h : s.Steady t) {k : Nat} {b : BitVec 7} : s.Steady (t.updHartN k (·.setLatch b)) := by
  refine ⟨(State.updHartN_cur ..).trans h.1, fun j => ?_⟩
  rw [State.getHart_updHartN, ← h.2 j]
  split
  · next e => subst e; rfl
  · rfl
theorem State.latch_updHartN {s : State} {h k : Nat} {b : BitVec 7} (hs : h = k ∨ (s.getHart h).latch &&& b = b) :
    ((s.updHartN k (·.setLatch b)).getHart h).latch &&& b = b := by
  rw [State.getHart_updHartN]
  split
  · rw [Hart.setLatch]
    ext i
    simpa using .inr
  · next e => exact hs.resolve_left e
theorem State.latch_foldl {b : BitVec 7} {l : List Nat} {s : State} {h : Nat} (hm : h ∈ l) :
    ((l.foldl (fun s h => s.updHartN h (·.setLatch b)) s).getHart h).latch &&& b = b := by
  induction l generalizing s with
  | nil => exact absurd hm List.not_mem_nil
  | cons a l ih =>
    rw [List.foldl_cons]
    by_cases hl : h ∈ l
    · exact ih hl
    · have ha := State.latch_updHartN (s := s) (b := b) (.inl ((List.mem_cons.1 hm).resolve_right hl))
      generalize s.updHartN a _ = t at ha ⊢
      exact Inv.foldl (P := fun t => (t.getHart h).latch &&& b = b) ha fun _ ht _ => State.latch_updHartN (.inr ht)

theorem State.orders_resumedHere {Q : DispatchState → Prop} {b : Bool} {s : State} {n : Nat} (h : s.Orders Q n b)
    (hctx : ∀ d : DispatchState, Q d → ∀ c, Q { d with ctxs := c }) : (s.resumedHere n).Orders Q n b := by
  have hfold := Inv.foldl (P := State.Orders Q n b) (l := s.placedHarts n) (g := fun s h => s.updHartN h (·.setLatch latchResume)) h
    fun _ ht _ => State.Orders.updHartN ht
  exact ⟨hctx _ hfold.1 _, hfold.2⟩

theorem State.steady_resumedHere (s : State) (n : Nat) : s.Steady (s.resumedHere n) :=
  Inv.foldl (P := s.Steady) (l := s.placedHarts n) (g := fun s h => s.updHartN h (·.setLatch latchResume)) (.refl s) fun _ ht _ => ht.setLatch

/-- Once its quiesce has ended the context runs, and it is busy while another command of it waits. -/
theorem State.ctx_goOn_dcDone {s t : State} {n : Nat} (ht : t.Orders (·.cuts = s.disp.cuts) n (s.commandWaits n)) (hcut : s.cutting n = false) :
    (((t.dcDone n true).goOn n).ctx n).state = 1#2 ∧ (((t.dcDone n true).goOn n).ctx n).busy = s.commandWaits n := by
  obtain ⟨hcuts, hwaits⟩ := ht
  have hbusy : t.stillBusy n = s.commandWaits n := by
    rw [State.stillBusy, hwaits, State.cutting, hcuts, ← State.cutting, hcut, Bool.false_or]
  rw [State.ctx_goOn, State.ctx_dcDone]
  exact ⟨rfl, hbusy⟩
theorem State.ctx_endQuiesce {s : State} {n : Nat}
    (h : ¬ ((s.ctx n).state ≠ 3#2 ∨ s.cutting n = true ∨ (s.ctx n).dies.any (s.heldDies n).contains = true)) :
    ((s.endQuiesce n).ctx n).state = 1#2 ∧ ((s.endQuiesce n).ctx n).busy = s.commandWaits n := by
  have hcut : s.cutting n = false := by simpa using fun hc => h (.inr (.inl hc))
  have hs : s.Orders (·.cuts = s.disp.cuts) n (s.commandWaits n) := ⟨rfl, rfl⟩
  rw [State.endQuiesce_goes h]
  split
  · exact State.ctx_goOn_dcDone (State.orders_resumedHere hs fun _ hd _ => hd) hcut
  · exact State.ctx_goOn_dcDone (hs.clearContext.restoreContext (fun _ hd _ _ _ => hd) fun _ hd _ => hd) hcut

/-- Where no hart moves, the harts keep their registers and places in the program, and those of the context have RESUME. -/
theorem State.harts_endQuiesce {s : State} {n : Nat}
    (h : ¬ ((s.ctx n).state ≠ 3#2 ∨ s.cutting n = true ∨ (s.ctx n).dies.any (s.heldDies n).contains = true))
    (hsame : ∀ m ∈ s.hartMoves n (s.imageOf n), m.1 = m.2) : s.Steady (s.endQuiesce n) ∧
      ∀ h ∈ s.placedHarts n, ((s.endQuiesce n).getHart h).latch &&& latchResume = latchResume := by
  rw [State.endQuiesce_goes h, if_pos (List.all_eq_true.2 fun m hm => decide_eq_true (hsame m hm))]
  have hsteady : s.Steady ((s.resumedHere n).dcDone n true) := s.steady_resumedHere n
  have hlatch : ∀ h ∈ s.placedHarts n, (((s.resumedHere n).dcDone n true).getHart h).latch &&& latchResume = latchResume :=
    fun _ hk => State.latch_foldl hk
  generalize (s.resumedHere n).dcDone n true = t at hsteady hlatch ⊢
  refine ⟨(State.Steady.mem_inv s).goOn (fun hh hs => ⟨hh.1.trans hs.1, fun k => ?_⟩) hsteady,
    (State.latched_inv (s.placedHarts n) latchResume).goOn (fun hh hs k hk => ?_) hlatch⟩
  · rw [State.getHart_congr hh]
    exact hs.2 k
  · rw [State.getHart_congr hh]
    exact hs k hk

/-! ### The statement -/

/-- What a remove leaves (R184). -/
theorem ends_removeContext {s : State} {n : Nat} (hn : n = s.msg.slot.toNat) (hstate : (s.ctx n).state = 2#2) (hrun : s.runCount n = 0) :
    Ends .removeContext s fun t => SameHarts s t ∧ SameBytes s t ∧ (t.ctx n).state = 0#2 ∧
      (t.ctx n).keyLoaded = false ∧ (t.ctx n).busy = s.stillBusy n ∧ (∀ p, (t.plate p).attach ≠ 0#2 → (t.plate p).ctx.toNat ≠ n) ∧
      (∀ i, (t.trust.objects.get .reset i).live = true → (t.trust.objects.get .reset i).slot.toNat ≠ n) ∧
      (∀ k e, e ∈ (t.core k).itlb ∨ e ∈ (t.core k).dtlb → e.ctx = s.ctxidOf n → e.attr.g = true) ∧
      (∀ k e, e ∈ t.m.seqTlb.get [] k → e.ctx ≠ s.ctxidOf n) ∧
      (∀ k e, e ∈ (t.cluster k).pre → e.ctx = s.ctxidOf n → e.attr.g = true) ∧ ∀ m, m ≠ n → t.ctx m = s.ctx m := by
  subst hn
  obtain ⟨hr, hctx, hmem, hcore, hcluster, hplate⟩ := s.renews_removing s.msg.slot.toNat
  have hend := hr.ctx_dcDone
  rw [hctx] at hend
  refine ⟨_, congrArg Host.Outcome.next (State.removeContext_done hstate hrun), ?_⟩
  generalize s.removing s.msg.slot.toNat = t at *
  refine ⟨hr.harts, fun a => congrArg (Mem.read · a) hmem, ?_, ?_, ?_, fun p hp => ?_, hr.objects, fun k e he hc => ?_, hr.leaves,
    fun k e he hc => ?_, hr.dcDone.others⟩
  · rw [hend]
  · rw [hend]
  · rw [hend]
  · have hpl := hplate p
    rw [State.dcDone, State.updCtx, State.plate_setCtx, hpl] at hp ⊢
    exact Plate.ctx_of_removed hp
  · have hco := hcore k
    rw [State.core_dropTranslations] at hco
    rw [State.dcDone, State.updCtx, State.core_setCtx, hco] at he
    exact he.elim (g_of_mem_keepLeaves · hc) (g_of_mem_keepLeaves · hc)
  · have hcl := hcluster k
    rw [State.cluster_dropTranslations] at hcl
    rw [State.dcDone, State.updCtx, State.cluster_setCtx, hcl] at he
    exact g_of_mem_keepLeaves he hc

/-- What the beginning of a quiesce leaves (R225, R227). -/
theorem ends_quiesce {s : State} {n : Nat} (hn : n = s.msg.slot.toNat)
    (h : ¬ ((s.ctx n).state ≠ 1#2 ∨ s.cutting n = true ∨ s.disp.switch.phase = 2#2)) : Ends .quiesce s fun t => SameHarts s t ∧ t.m = s.m ∧
      t.cutOf n = some { slot := n, epoch := (s.ctx n).epoch + 1#8, quiesce := true, begun := [8], markers := [], complete := false } ∧
      t.ctx n = { s.ctx n with busy := true, epoch := (s.ctx n).epoch + 1#8 } ∧ (∀ m, m ≠ n → t.cutting m = s.cutting m) ∧
      t.inbox = s.inbox ++ [unitMarker (s.ctxidOf n) 0 ((s.ctx n).epoch + 1#8), unitMarker (s.ctxidOf n) 4 ((s.ctx n).epoch + 1#8)] := by
  subst hn
  have hctx : (s.quiescing s.msg.slot.toNat).ctx s.msg.slot.toNat =
      { s.ctx s.msg.slot.toNat with busy := true, epoch := (s.ctx s.msg.slot.toNat).epoch + 1#8 } := State.ctx_updCtx_same ..
  refine ⟨_, congrArg Host.Outcome.next (State.quiesce_begins h), ⟨rfl, rfl, rfl⟩, rfl, ?_, hctx, fun m hm => ?_, ?_⟩
  · have hcut := State.cutOf_updCut (s.quiescing s.msg.slot.toNat) s.msg.slot.toNat (g := fun c => { c with begun := 8 :: c.begun }) fun _ => rfl
    rw [State.cutOf_quiescing] at hcut
    exact hcut
  · have hcut := State.cutting_updCut (s.quiescing s.msg.slot.toNat) s.msg.slot.toNat m (g := fun c => { c with begun := 8 :: c.begun }) fun _ => rfl
    exact hcut.trans (s.cutting_quiescing hm)
  · have hid : (s.quiescing s.msg.slot.toNat).ctxidOf s.msg.slot.toNat = s.ctxidOf s.msg.slot.toNat := by rw [State.ctxidOf, hctx, State.ctxidOf]
    rw [hid]
    rfl

/-- Settles O56: each command is refused exactly where the model's own test refuses it, and otherwise changes what its rule says. -/
theorem contextsAndQuiesces : Obligations.ContextsAndQuiesces := by
  unfold Obligations.ContextsAndQuiesces
  intro s n c refusal able held taken area
  have hrefuse : Host.Outcome.next (s.dcDone n false) = refusal := by rw [State.dcDone_refused]
  have hheld : (s.ctx n).dies.any (s.heldDies n).contains = true ↔ held := State.any_heldDies
  have htaken : (s.ctx n).dies.any (s.heldDies n ++ s.promisedDies).contains = true ↔ taken := State.any_takenDies
  have hable : s.createOk n = true ↔ able := State.createOk_iff
  have harea : s.saveOk n = true ↔ area := State.saveOk_iff
  refine ⟨?_, ?_, ?_, ?_, ?_, ?_, ?_, ?_⟩
  · intro h
    rw [← hrefuse]
    exact congrArg Host.Outcome.next (State.createContext_refused (by rwa [hable, htaken, harea]))
  · intro hok hfits
    refine ⟨s.createContext n, rfl, ?_⟩
    cases ht : (s.ctx n).dies.any (s.heldDies n ++ s.promisedDies).contains with
    | true =>
      obtain ⟨hr, ⟨x, hctx⟩, hmem, hplates, hinbox⟩ := State.createContext_parked (hable.2 hok) ht (harea.2 (hfits (htaken.1 ht)))
      exact ⟨hr.harts, congrArg Ctx.gen hctx, congrArg Ctx.busy hctx, (congrArg Ctx.cmderr hctx :), congrArg Ctx.queues hctx, hr.objects, hr.others,
        hr.leaves, fun _ => ⟨congrArg Ctx.state hctx, hmem, hplates, hinbox⟩, fun hn => absurd (htaken.1 ht) hn⟩
    | false =>
      obtain ⟨hr, ⟨x, hctx⟩, hinbox, hplates⟩ := State.createContext_running (hable.2 hok) ht
      have hn : ¬ taken := fun hh => Bool.false_ne_true (ht.symm.trans (htaken.2 hh))
      rw [BitVec.ofNat_toNat, BitVec.setWidth_eq] at hplates
      exact ⟨hr.harts, congrArg Ctx.gen hctx, congrArg Ctx.busy hctx, (congrArg Ctx.cmderr hctx :), congrArg Ctx.queues hctx, hr.objects, hr.others,
        hr.leaves, fun hh => absurd hh hn, fun _ => ⟨congrArg Ctx.state hctx, hinbox, hplates⟩⟩
  · intro h
    rw [← hrefuse]
    exact congrArg Host.Outcome.next (if_pos h)
  · exact ends_removeContext rfl
  · intro h
    rw [← hrefuse]
    exact congrArg Host.Outcome.next (State.quiesce_refused h)
  · exact fun hstate hcut hphase => ends_quiesce rfl (by simpa [hcut, hphase] using hstate)
  · intro h
    rw [← hrefuse]
    exact congrArg Host.Outcome.next (State.endQuiesce_refused (by rwa [hheld]))
  · intro hstate hcut hfree
    have hgo : ¬ ((s.ctx n).state ≠ 3#2 ∨ s.cutting n = true ∨ (s.ctx n).dies.any (s.heldDies n).contains = true) := by
      rw [hheld]
      simp [hcut, hfree]
      exact hstate
    obtain ⟨hrun, hbusy⟩ := State.ctx_endQuiesce hgo
    refine ⟨s.endQuiesce n, rfl, hrun, hbusy, fun hsame => ?_⟩
    obtain ⟨hsteady, hlatch⟩ := State.harts_endQuiesce hgo hsame
    exact ⟨fun h => ⟨(congrArg Hart.regs (hsteady.2 h) :), (congrArg Hart.pc (hsteady.2 h) :)⟩, hlatch⟩

end Sys2Proof.Machine
end

section
/-! PROOF. O28: the vector configuration instructions, `pcnt` and `vext` (spec/15 R371 to R375, spec/16 R403, R409). -/
namespace Sys2Proof.Machine
set_option Elab.async false

/-! ### The register length of a request (R183) -/

theorem toNat_extractLsb'_request (x : Word) (i n : Nat) : (x.extractLsb' i n).toNat = x.toNat / 2 ^ i % 2 ^ n := by
  rw [BitVec.extractLsb'_toNat, Nat.shiftRight_eq_div_pow]

theorem extractLsb'_five_eq_zero {x : Word} : x.extractLsb' 5 59 = 0#59 ↔ x.toNat < 32 := by
  rw [← BitVec.toNat_inj, toNat_extractLsb'_request]
  have := x.isLt
  simp only [BitVec.toNat_ofNat]
  omega

/-- A request below 24 names one of the six element widths. -/
theorem elemWidth_eq {r : Nat} (h : r < 24) : elemWidth r = 2 * 2 ^ (r / 4) := by
  interval_cases r <;> rfl

/-- The register length that the model computes is that of R183, 0 where there is none. -/
theorem registerLength_eq (vsz : Nat) (req : Word) : registerLength vsz req = (lengthOf vsz req.toNat).getD 0 := by
  have hwidth : (req.extractLsb' 2 3).toNat = req.toNat / 4 % 8 := toNat_extractLsb'_request ..
  have hnregs : (req.extractLsb' 0 2).toNat = req.toNat % 4 := by rw [toNat_extractLsb'_request, pow_zero, Nat.div_one]; rfl
  have hbad : (req.extractLsb' 5 59 ≠ 0#59 ∨ 5 < (req.extractLsb' 2 3).toNat) ↔ ¬ req.toNat < 24 := by
    rw [ne_eq, extractLsb'_five_eq_zero, hwidth]
    omega
  unfold registerLength lengthOf
  by_cases h : req.toNat < 24
  · rw [if_neg (mt hbad.1 (not_not.2 h)), hwidth, hnregs, Nat.mod_eq_of_lt (by omega : req.toNat / 4 < 8), elemWidth_eq h]
    have hn : [4, 8, 16, 32].getD (req.toNat % 4) 0 = 4 * 2 ^ (req.toNat % 4) := by
      have hlt : req.toNat % 4 < 4 := Nat.mod_lt _ (by decide)
      interval_cases req.toNat % 4 <;> rfl
    simp only [hn, h, true_and]
    generalize min _ 16384 = b
    by_cases hb : 128 ≤ b
    · rw [if_pos hb, if_neg (Nat.not_lt.2 hb)]
      rfl
    · rw [if_neg hb, if_pos (Nat.not_le.1 hb)]
      rfl
  · rw [if_pos (hbad.2 h)]
    simp [h]

/-- A request has a length of at least 128 bits, or none. -/
theorem registerLength_eq_zero {vsz : Nat} {req : Word} : registerLength vsz req = 0 ↔ lengthOf vsz req.toNat = none := by
  rw [registerLength_eq]
  constructor
  · intro h
    cases hl : lengthOf vsz req.toNat with
    | none => rfl
    | some b =>
      rw [hl, Option.getD_some] at h
      unfold lengthOf at hl
      dsimp only at hl
      split at hl
      · next hb =>
        obtain rfl := Option.some.inj hl
        omega
      · cases hl
  · intro h
    rw [h, Option.getD_none]

/-- The registers after a request. -/
theorem VecRegs.configure_eq (v : VecRegs) (vsz : Nat) (req : Word) : v.configure vsz req =
    { v with request := req.extractLsb' 0 5, resized := false, ill := (lengthOf vsz req.toNat).isNone,
             b := (lengthOf vsz req.toNat).getD 0, vstart := 0#32 } := by
  have hill : (registerLength vsz req == 0) = (lengthOf vsz req.toNat).isNone := by
    rw [Bool.eq_iff_iff, beq_iff_eq, registerLength_eq_zero, Option.isNone_iff_eq_none]
  unfold VecRegs.configure
  dsimp only
  rw [hill, registerLength_eq]

/-- VCAP under a request. -/
theorem VecRegs.vcap_request (v : VecRegs) (vsz : Nat) (req : Word) :
    ({ v with request := req.extractLsb' 0 5, b := (lengthOf vsz req.toNat).getD 0 } : VecRegs).vcap =
      (lengthOf vsz req.toNat).getD 0 / elemWidth req.toNat := by
  by_cases h : req.toNat < 24
  · have hw : ((req.extractLsb' 0 5).extractLsb' 2 3).toNat = req.toNat / 4 := by
      rw [BitVec.extractLsb'_toNat, toNat_extractLsb'_request, Nat.shiftRight_eq_div_pow]
      omega
    rw [VecRegs.vcap, VecRegs.width, hw, elemWidth_eq h]
  · have hnone : lengthOf vsz req.toNat = none := if_neg fun hl => h hl.1
    rw [VecRegs.vcap, hnone, Option.getD_none, Nat.zero_div, Nat.zero_div]

/-! ### vcfg, vsetl, vsetrows and vtag (R372 to R375) -/

/-- What a write of the vector registers of control and of x[d] leaves, with the move to the next instruction. -/
theorem writesX_updVec (s : State) (g : VecRegs → VecRegs) (d : Reg) (v : Word) : Gets s ((s.updVec g).setX d v).advance d v ∧
    ∃ x, ((s.updVec g).setX d v).advance =
      { s with hart := { s.hart with vec := g s.hart.vec, regs := { s.hart.regs with x := x }, pc := s.hart.pc + 4#64 } } := by
  obtain ⟨hd, hother, -, x, hx⟩ := writesX_setX (s.updVec g) d v
  exact ⟨⟨hd, hother⟩, x, hx⟩

theorem exec_vcfg {s : State} (h : Idle s) (d a : Reg) : exec (.vcfg d a) s = .next
    (((s.updVec fun v => { v.configure s.hart.grant.vsz.toNat (s.xr a) with vl := 0#14 }).setX d
      (BitVec.ofNat 64 ({ s.hart.vec.configure s.hart.grant.vsz.toNat (s.xr a) with vl := 0#14 } : VecRegs).vcap)).advance) :=
  finish_ok (M.bind_ok (waitEntries_of_idle h _))

theorem ends_vcfg {s : State} (h : Idle s) (d a : Reg) :
    let r := (s.xr a).toNat
    let b := (lengthOf s.hart.grant.vsz.toNat r).getD 0
    let vec := { s.hart.vec with request := (s.xr a).extractLsb' 0 5, resized := false, ill := (lengthOf s.hart.grant.vsz.toNat r).isNone, b := b, vl := 0#14, vstart := 0#32 }
    ∃ t x, exec (.vcfg d a) s = .next t ∧ Gets s t d (BitVec.ofNat 64 (b / elemWidth r)) ∧
      t = { s with hart := { s.hart with vec := vec, regs := { s.hart.regs with x := x }, pc := s.hart.pc + 4#64 } } := by
  intro r b vec
  have hcap : ({ s.hart.vec.configure s.hart.grant.vsz.toNat (s.xr a) with vl := 0#14 } : VecRegs).vcap = b / elemWidth r := by
    rw [VecRegs.configure_eq]
    exact VecRegs.vcap_request s.hart.vec _ _
  obtain ⟨hgets, x, hx⟩ := writesX_updVec s (fun v => { v.configure s.hart.grant.vsz.toNat (s.xr a) with vl := 0#14 }) d
    (BitVec.ofNat 64 (b / elemWidth r))
  refine ⟨_, x, exec_vcfg h d a, ?_, ?_⟩
  · rw [hcap]
    exact hgets
  · rw [hcap, hx, VecRegs.configure_eq]

theorem waitTrims_of_idle {s : State} (h : Idle s) : waitTrims s = .ok () s := by
  rw [waitTrims, M.get_bind, s.ahead_of_idle h]
  rfl

theorem exec_vsetl {s : State} (h : Idle s) (hill : s.hart.vec.ill = false) (d a : Reg) : exec (.vsetl d a) s = .next
    (((s.updVec fun v => { v with vl := s.hart.vec.clampVl (s.xr a).toNat }).setX d ((s.hart.vec.clampVl (s.xr a).toNat).zeroExtend 64)).advance) := by
  refine finish_ok (m := vsetlBody d a) ?_
  rw [vsetlBody, M.get_bind, hill, if_neg Bool.false_ne_true, M.bind_ok (waitTrims_of_idle h)]
  rfl

theorem exec_vsetl_ill {s : State} (hill : s.hart.vec.ill = true) (hs : Settled s) (d a : Reg) :
    ∃ t, exec (.vsetl d a) s = .next t ∧ TrapsTo s t tcVconfig ((encode (.vsetl d a)).zeroExtend 64) := by
  refine ⟨_, finish_trap (m := vsetlBody d a) ?_, trapsTo_takeTrap hs _ _⟩
  rw [vsetlBody, M.get_bind, hill, if_pos rfl]
  rfl

/-- VL is at most VCAP, which is below 2^14. -/
theorem zeroExtend_clampVl {v : VecRegs} (h : v.vcap < 2 ^ 14) (n : Nat) : (v.clampVl n).zeroExtend 64 = BitVec.ofNat 64 (min n v.vcap) := by
  refine BitVec.eq_of_toNat_eq ?_
  have hmin : min n v.vcap < 2 ^ 14 := lt_of_le_of_lt (Nat.min_le_right ..) h
  rw [VecRegs.clampVl, BitVec.zeroExtend, BitVec.toNat_setWidth, BitVec.toNat_ofNat, BitVec.toNat_ofNat, Nat.mod_eq_of_lt hmin]

/-- Rows are held between 1 and 8. -/
theorem clampRows_eq (n : Nat) : clampRows n = BitVec.ofNat 4 (max 1 (min n 8)) := by
  unfold clampRows
  split
  · next h => rw [h]; rfl
  · split
    · rw [Nat.min_eq_right (by omega)]; rfl
    · rw [Nat.min_eq_left (by omega), Nat.max_eq_right (by omega)]
theorem zeroExtend_clampRows (n : Nat) : (clampRows n).zeroExtend 64 = BitVec.ofNat 64 (max 1 (min n 8)) := by
  refine BitVec.eq_of_toNat_eq ?_
  rw [clampRows_eq, BitVec.zeroExtend, BitVec.toNat_setWidth, BitVec.toNat_ofNat, BitVec.toNat_ofNat]
  omega

/-! #### Tags (R369, R375) -/

/-- A bit of a word in which field `j` of four bits is put. -/
theorem getLsbD_putNibble (w : Word) (t : BitVec 4) {j k i : Nat} (hk : k < 16) (hi : i < 4) :
    ((w &&& ~~~(0xF#64 <<< (4 * j))) ||| (t.zeroExtend 64 <<< (4 * j))).getLsbD (4 * k + i) = if k = j then t.getLsbD i else w.getLsbD (4 * k + i) := by
  have hF : ∀ n, (0xF#64).getLsbD n = decide (n < 4) := fun n => by
    by_cases hn : n < 4
    · interval_cases n <;> rfl
    · rw [decide_eq_false hn, show (0xF#64 : Word) = (0xF#4).zeroExtend 64 from rfl, BitVec.zeroExtend, BitVec.getLsbD_setWidth,
        BitVec.getLsbD_of_ge _ _ (Nat.not_lt.1 hn), Bool.and_false]
  have hlt : 4 * k + i < 64 := by omega
  simp only [BitVec.getLsbD_or, BitVec.getLsbD_and, BitVec.getLsbD_not, BitVec.getLsbD_shiftLeft, hF, BitVec.zeroExtend, BitVec.getLsbD_setWidth, hlt,
    decide_true, Bool.true_and]
  rcases Nat.lt_trichotomy k j with h | h | h
  · simp [show 4 * k + i < 4 * j by omega, Nat.ne_of_lt h]
  · subst h
    simp [hi, show i < 64 by omega]
  · have hge : 4 ≤ 4 * k + i - 4 * j := by omega
    simp [Nat.ne_of_gt h, Nat.not_lt.2 hge, BitVec.getLsbD_of_ge t _ hge]

theorem extractLsb'_putNibble (w : Word) (t : BitVec 4) {j k : Nat} (hk : k < 16) :
    ((w &&& ~~~(0xF#64 <<< (4 * j))) ||| (t.zeroExtend 64 <<< (4 * j))).extractLsb' (4 * k) 4 = if k = j then t else w.extractLsb' (4 * k) 4 := by
  refine BitVec.eq_of_getLsbD_eq fun i hi => ?_
  rw [BitVec.getLsbD_extractLsb', getLsbD_putNibble w t hk hi, decide_eq_true hi, Bool.true_and]
  split
  · rfl
  · rw [BitVec.getLsbD_extractLsb', decide_eq_true hi, Bool.true_and]

/-- A tag that is set, and the others. -/
theorem VecRegs.tag_setTag (v : VecRegs) (t : BitVec 4) {j k : Nat} (hj : j < 32) (hk : k < 32) :
    (v.setTag j t).tag k = if k = j then t else v.tag k := by
  unfold VecRegs.setTag VecRegs.tag
  dsimp only
  by_cases hj' : j < 16
  · rw [if_pos hj']
    by_cases hk' : k < 16
    · rw [if_pos hk', if_pos hk', extractLsb'_putNibble _ _ hk']
    · rw [if_neg hk', if_neg hk', if_neg (by omega)]
  · rw [if_neg hj']
    by_cases hk' : k < 16
    · rw [if_pos hk', if_pos hk', if_neg (by omega)]
    · rw [if_neg hk', if_neg hk', extractLsb'_putNibble _ _ (by omega)]
      exact ite_congr (by simp only [eq_iff_iff]; omega) (fun _ => rfl) fun _ => rfl

/-- Setting tags of several registers changes no other register of control. -/
theorem VecRegs.foldl_setTag (t : BitVec 4) (l : List Nat) (hl : ∀ j ∈ l, j < 32) (v : VecRegs) :
    (∀ k, k < 32 → (l.foldl (fun v j => v.setTag j t) v).tag k = if k ∈ l then t else v.tag k) ∧
    (l.foldl (fun v j => v.setTag j t) v).vl = v.vl ∧ (l.foldl (fun v j => v.setTag j t) v).b = v.b ∧
    (l.foldl (fun v j => v.setTag j t) v).ill = v.ill := by
  induction l generalizing v with
  | nil => exact ⟨fun k _ => by simp, rfl, rfl, rfl⟩
  | cons j l ih =>
    have hset : (v.setTag j t).vl = v.vl ∧ (v.setTag j t).b = v.b ∧ (v.setTag j t).ill = v.ill := by
      unfold VecRegs.setTag
      dsimp only
      split <;> exact ⟨rfl, rfl, rfl⟩
    obtain ⟨hvl, hb, hill⟩ := hset
    obtain ⟨htag, hvl', hb', hill'⟩ := ih (fun i hi => hl i (.tail _ hi)) (v.setTag j t)
    refine ⟨fun k hk => ?_, hvl'.trans hvl, hb'.trans hb, hill'.trans hill⟩
    rw [List.foldl_cons, htag k hk, VecRegs.tag_setTag v t (hl j (.head _)) hk]
    by_cases hkl : k ∈ l
    · simp [hkl]
    · simp [hkl]

theorem ends_vtag (s : State) (d a : Reg) : ∃ t, exec (.vtag d a) s = .next t ∧ t.hart.regs = s.hart.regs ∧ t.m = s.m ∧
    t.hart.pc = s.hart.pc + 4#64 ∧ (∀ k, k < 32 → t.hart.vec.tag k =
      if d.toNat ≤ k ∧ k < d.toNat + s.hart.vec.vrows.toNat then (s.xr a).extractLsb' 0 4 else s.hart.vec.tag k) ∧
    t.hart.vec.vl = s.hart.vec.vl ∧ t.hart.vec.b = s.hart.vec.b ∧ t.hart.vec.ill = s.hart.vec.ill := by
  have hlt : ∀ j ∈ (groupRegs s.hart.vec.rows d).filter (decide <| · < 32), j < 32 := fun j hj => of_decide_eq_true (List.mem_filter.1 hj).2
  obtain ⟨htag, hframe⟩ := VecRegs.foldl_setTag ((s.xr a).extractLsb' 0 4) _ hlt s.hart.vec
  refine ⟨_, finish_ok (m := vtagBody d a) rfl, rfl, rfl, rfl, fun k hk => (htag k hk).trans (ite_congr ?_ (fun _ => rfl) fun _ => rfl), hframe⟩
  simp only [groupRegs, VecRegs.rows, List.mem_filter, List.mem_map, List.mem_range, decide_eq_true_eq, eq_iff_iff]
  constructor
  · rintro ⟨⟨i, hi, rfl⟩, -⟩
    omega
  · rintro ⟨hlo, hhi⟩
    exact ⟨⟨k - d.toNat, by omega, by omega⟩, hk⟩

/-! ### pcnt and vext (R403, R409) -/

theorem waitWriters_of_idle {s : State} (h : Idle s) (v p : List Nat) : waitWriters v p s = .ok () s := by
  rw [waitWriters, M.get_bind, s.ahead_of_idle h]
  rfl

/-- Without poison marks, no position is poisoned. -/
theorem consume_of_false {s : State} {l : List ((Nat × Nat) × Bool)} (h : ∀ x ∈ l, x.2 = false) : consume l s = .ok () s := by
  have hnone : l.find? (·.2) = none := List.find?_eq_none.2 fun x hx => by simp [h x hx]
  rw [consume, hnone]
  rfl
theorem State.marked_of_nil {s : State} (h : s.m.marks = []) (bit w : Nat) : s.marked bit w = false := by
  rw [State.marked, h]
  rfl

theorem yields_pcnt {s : State} {d a : Reg} (h : Idle s) (hm : s.m.marks = []) (hadm : s.hart.vec.admits (vuse (.pcnt d a)) = true) :
    Yields (.pcnt d a) s d (BitVec.ofNat 64 ((List.range s.hart.vec.vl.toNat).filter fun e => s.pbit s.hart.vec a.toNat e).length) := by
  refine ⟨_, finish_ok (m := pcntBody d a) ?_, writesX_setX s d _⟩
  have hmarks : ∀ x ∈ s.hart.vec.cols.map fun e => ((0, e), s.pMarked s.hart.vec a.toNat e), x.2 = false := by
    intro x hx
    obtain ⟨e, -, rfl⟩ := List.mem_map.1 hx
    simp [State.pMarked, State.marked_of_nil hm]
  rw [pcntBody, M.get_bind]
  dsimp only
  rw [hadm, Bool.not_true, if_neg Bool.false_ne_true, M.bind_ok (waitWriters_of_idle h _ _), M.bind_ok (consume_of_false hmarks)]
  rfl

/-- The write by which `vext` ends: to the register file of the element's type. -/
def State.extWrite (s : State) (ty : Ty) (d : Reg) (c : Nat) : State := if ty.isFloat then s.setF d (extValue ty c) else s.setX d (extValue ty c)

theorem State.raiseFlags_nothing (s : State) : s.raiseFlags {} = s := by
  have h : s.hart.user.fflags ||| Exc.bits {} = s.hart.user.fflags := BitVec.or_zero
  simp [State.raiseFlags, State.orFflags, State.updUser, State.updHart, h]

theorem yields_extWrite {i : Instr} {s : State} {ty : Ty} {d : Reg} {c : Nat} (h : exec i s = .next (s.extWrite ty d c).advance) :
    (ty.isFloat = false → Yields i s d (extValue ty c)) ∧ (ty.isFloat = true → YieldsF i s d (extValue ty c) {}) := by
  refine ⟨fun hf => ⟨_, h, ?_⟩, fun hf => yieldsF_of_next (h.trans ?_)⟩
  · rw [State.extWrite, hf, if_neg Bool.false_ne_true]
    exact writesX_setX s d _
  · rw [State.extWrite, hf, if_pos rfl, State.raiseFlags_nothing]

section
variable {s : State} {d a b : Reg} (h : Idle s) (hadm : s.hart.vec.admits (vuse (.vext d a b)) = true)
include h hadm

/-- The element at a position of the group. -/
theorem exec_vext_inside (hm : s.m.marks = []) (hmbx : s.hart.vec.mbx = 0#32) (hk : ((s.xr b).extractLsb' 16 16).toNat < s.hart.vec.rows)
    (he : ((s.xr b).extractLsb' 0 16).toNat < s.hart.vec.len) :
    let r := a.toNat + ((s.xr b).extractLsb' 16 16).toNat
    exec (.vext d a b) s = .next
      (s.extWrite (s.hart.vec.ty r) d (s.vel s.hart.vec r ((s.xr b).extractLsb' 0 16).toNat)).advance := by
  intro r
  have hbox : s.hart.vec.mbx.getLsbD r = false := by rw [hmbx, BitVec.getLsbD_zero]
  have hmark : s.velMarked s.hart.vec r ((s.xr b).extractLsb' 0 16).toNat = false := s.marked_of_nil hm _ _
  refine finish_ok (m := vextBody d a b) ?_
  rw [vextBody, M.get_bind]
  dsimp only
  rw [hadm, Bool.not_true, if_neg Bool.false_ne_true, M.bind_ok (waitWriters_of_idle h _ _), if_pos ⟨hk, he⟩, hbox]
  simp only [Bool.false_eq_true, if_false, if_pos hk]
  refine (M.bind_ok (consume_of_false ?_)).trans rfl
  exact fun x hx => (List.mem_singleton.1 hx) ▸ hmark

/-- Zero at any other position. -/
theorem exec_vext_outside (hout : ¬ (((s.xr b).extractLsb' 16 16).toNat < s.hart.vec.rows ∧ ((s.xr b).extractLsb' 0 16).toNat < s.hart.vec.len)) :
    exec (.vext d a b) s = .next (s.extWrite (s.hart.vec.ty (a.toNat + if ((s.xr b).extractLsb' 16 16).toNat < s.hart.vec.rows then
      ((s.xr b).extractLsb' 16 16).toNat else 0)) d 0).advance := by
  refine finish_ok (m := vextBody d a b) ?_
  rw [vextBody, M.get_bind]
  dsimp only
  rw [hadm, Bool.not_true, if_neg Bool.false_ne_true, M.bind_ok (waitWriters_of_idle h _ _), if_neg hout]
  rfl

end

/-- A zero is a zero in the type of every tag. -/
theorem extValue_tag_zero : ∀ c : BitVec 4, extValue ((tagTy c).getD (.int 8 false)) 0 = 0#64 := by decide

theorem yields_vext {s : State} {d a b : Reg} (h : Idle s) (hm : s.m.marks = []) (hmbx : s.hart.vec.mbx = 0#32)
    (hadm : s.hart.vec.admits (vuse (.vext d a b)) = true) :
    let v := s.hart.vec
    let k := ((s.xr b).extractLsb' 16 16).toNat
    let e := ((s.xr b).extractLsb' 0 16).toNat
    (k < v.vrows.toNat → e < v.vl.toNat →
      ((v.ty (a.toNat + k)).isFloat = false → Yields (.vext d a b) s d (extValue (v.ty (a.toNat + k)) (s.vel v (a.toNat + k) e))) ∧
      ((v.ty (a.toNat + k)).isFloat = true → YieldsF (.vext d a b) s d (extValue (v.ty (a.toNat + k)) (s.vel v (a.toNat + k) e)) {})) ∧
    (¬ (k < v.vrows.toNat ∧ e < v.vl.toNat) →
      let ty := v.ty (a.toNat + if k < v.vrows.toNat then k else 0)
      (ty.isFloat = false → Yields (.vext d a b) s d 0#64) ∧ (ty.isFloat = true → YieldsF (.vext d a b) s d 0#64 {})) := by
  intro v k e
  refine ⟨fun hk he => yields_extWrite (exec_vext_inside h hadm hm hmbx hk he), fun hout => ?_⟩
  have hend := yields_extWrite (exec_vext_outside h hadm hout)
  rw [show extValue (s.hart.vec.ty _) 0 = 0#64 from extValue_tag_zero _] at hend
  exact hend

end Sys2Proof.Machine
end

section
/-! PROOF. O28: what `vsave` and `vrest` do with the bytes that their stores and loads move (spec/09 R255, R256, spec/15 R376, R377). -/
namespace Sys2Proof.Machine
set_option Elab.async false

/-! ### An area that is not aligned -/

theorem extractLsb'_six_eq_zero {x : Word} : x.extractLsb' 0 6 = 0#6 ↔ x.toNat % 64 = 0 := by
  rw [← BitVec.toNat_inj, toNat_extractLsb'_request, pow_zero, Nat.div_one]
  rfl

theorem traps_saveMisaligned {s : State} {d a : Reg} (h : Idle s) (hs : Settled s) (ha : (s.xr a).toNat % 64 ≠ 0) {i : Instr}
    (hi : i ∈ [Instr.vsave d a, .vrest d a]) : ∃ t, exec i s = .next t ∧ TrapsTo s t tcMisaligned (s.xr a) := by
  have hbad : (s.xr a).extractLsb' 0 6 ≠ 0#6 := mt extractLsb'_six_eq_zero.1 ha
  have hwait := waitEntries_of_idle h fun _ => true
  simp only [List.mem_cons, List.not_mem_nil, or_false] at hi
  rcases hi with rfl | rfl
  · refine ⟨_, finish_trap (m := vsaveBody d a) ?_, trapsTo_takeTrap hs _ _⟩
    refine (M.bind_ok hwait).trans ?_
    rw [M.get_bind]
    dsimp only
    rw [if_pos hbad]
    rfl
  · refine ⟨_, finish_trap (m := vrestBody d a) ?_, trapsTo_takeTrap hs _ _⟩
    refine (M.bind_ok hwait).trans ?_
    rw [M.get_bind]
    dsimp only
    rw [if_pos hbad]
    rfl

/-! ### vsave -/

theorem VecRegs.length_saveHeader (v : VecRegs) (psn : Bool) (n : Nat) : (v.saveHeader psn n).length = 256 := by
  simp [VecRegs.saveHeader]

/-- The items that `vsave` reads, and the bytes that it stores for them. -/
def VecRegs.saveBytes (v : VecRegs) (items : List (List (Nat × Bool))) : List Byte :=
  v.saveHeader (v.saveData items).2 (v.saveData items).1.length ++ (v.saveData items).1

section
variable {s : State} {d a : Reg} (h : Idle s) (ha : (s.xr a).toNat % 64 = 0)
include h ha

/-- `vsave` at an aligned address, once it has read its items. -/
theorem exec_vsave {items : List (List (Nat × Bool))} {t u : State}
    (hitems : (if s.hart.vec.ill then pure [] else saveItems s.hart.vec s.hart.vec.items 0 : M _) s = .ok items t)
    (hstore : storeWords (s.xr a) ((s.hart.vec.saveBytes items).length / 8) (s.hart.vec.saveBytes items) t = .ok () u) :
    exec (.vsave d a) s = .next ((u.setX d (BitVec.ofNat 64 (s.hart.vec.saveBytes items).length)).advance) := by
  refine finish_ok (m := vsaveBody d a) ?_
  refine (M.bind_ok (waitEntries_of_idle h fun _ => true)).trans ?_
  rw [M.get_bind]
  dsimp only
  rw [if_neg (not_not.2 (extractLsb'_six_eq_zero.2 ha)), M.bind_ok hitems]
  exact M.bind_ok hstore

/-- `vsave` of a hart whose configuration is ill saves a header alone. -/
theorem exec_vsave_ill (hill : s.hart.vec.ill = true) {t : State} (hstore : storeWords (s.xr a) 32 (s.hart.vec.saveHeader false 0) s = .ok () t) :
    exec (.vsave d a) s = .next ((t.setX d 256#64).advance) := by
  have hbytes : s.hart.vec.saveBytes [] = s.hart.vec.saveHeader false 0 := List.append_nil _
  have hlen := s.hart.vec.length_saveHeader false 0
  have he := exec_vsave (d := d) h ha (items := []) (t := s) (u := t) (by rw [hill]; rfl) (by rw [hbytes, hlen]; exact hstore)
  rw [hbytes, hlen] at he
  exact he

/-- `vrest` at an aligned address, once it has read the header. -/
theorem vrestBody_eq {hdr : List Byte} {t : State} (hl : loadWords (s.xr a) 32 s = .ok hdr t) :
    vrestBody d a s = (if !headerOk hdr t.hart.grant.vsz.toNat then set ((t.updVec fun v => { v with ill := true, vl := 0#14 }).setX d 0#64)
      else do
        set (t.updVec fun v => v.restore t.hart.grant.vsz.toNat hdr)
        if (headerWord hdr 0x60).getLsbD 5 then
          set (((t.updVec fun v => v.restore t.hart.grant.vsz.toNat hdr).updVec fun v => { v with ill := true, vl := 0#14 }).setX d 256#64)
        else
          let v := t.hart.vec.restore t.hart.grant.vsz.toNat hdr
          let svl := (headerWord hdr 0x08).toNat
          let n := min svl v.vcap
          let after ← restItems v.itemWidth svl (fun j x s => s.restItem v j n x) v.items 0 (s.xr a + 256#64)
          let after ← (if (headerWord hdr 0x70).getLsbD 32 then
              restItems (fun _ => 1) svl (fun j x s => s.restMarks v j n x) v.items 0 after
            else pure after)
          modify fun u => (u.updVec fun v => { v with vl := BitVec.ofNat 14 n, resized := decide (v.vcap < svl) }).setX d (after - s.xr a) : M Unit) t := by
  refine (M.bind_ok (waitEntries_of_idle h fun _ => true)).trans ?_
  rw [M.get_bind]
  dsimp only
  rw [if_neg (not_not.2 (extractLsb'_six_eq_zero.2 ha)), M.bind_ok hl, M.get_bind]
  rfl

/-- A header that is not acceptable. -/
theorem exec_vrest_refused {hdr : List Byte} {t : State} (hl : loadWords (s.xr a) 32 s = .ok hdr t)
    (hok : headerOk hdr t.hart.grant.vsz.toNat = false) :
    exec (.vrest d a) s = .next (((t.updVec fun v => { v with ill := true, vl := 0#14 }).setX d 0#64).advance) := by
  refine finish_ok (m := vrestBody d a) ?_
  rw [vrestBody_eq h ha hl, hok]
  rfl

/-- A record that was saved with ILL set. -/
theorem exec_vrest_ill {hdr : List Byte} {t : State} (hl : loadWords (s.xr a) 32 s = .ok hdr t)
    (hok : headerOk hdr t.hart.grant.vsz.toNat = true) (hill : (headerWord hdr 0x60).getLsbD 5 = true) :
    exec (.vrest d a) s = .next (((t.updVec fun v => { v.restore t.hart.grant.vsz.toNat hdr with ill := true, vl := 0#14 }).setX d 256#64).advance) := by
  refine finish_ok (m := vrestBody d a) ?_
  rw [vrestBody_eq h ha hl, hok, Bool.not_true, if_neg Bool.false_ne_true, M.set_bind, hill]
  rfl

end

end Sys2Proof.Machine
end

section
/-! SUPPORT. Consecutive words of a plate through the window (spec/03 R85): the loads of a `vrest` and the stores of a `vsave`. -/
namespace Sys2Proof.Machine
set_option Elab.async false

/-! ### Addresses of a window -/

/-- Above its slot's bits an address of the window does not change within a slot. -/
theorem extractLsb'_add_ofNat {va : Word} {m k n : Nat} (hm : va.toNat % 2 ^ 19 + m < 2 ^ 19) (hk : 19 ≤ k) :
    (va + BitVec.ofNat 64 m).extractLsb' k n = va.extractLsb' k n := by
  refine BitVec.eq_of_toNat_eq ?_
  have hva := va.isLt
  have hsum : (va + BitVec.ofNat 64 m).toNat = va.toNat + m := by
    rw [BitVec.toNat_add, BitVec.toNat_ofNat]
    omega
  obtain ⟨j, rfl⟩ := Nat.exists_eq_add_of_le hk
  rw [toNat_extractLsb'_request, toNat_extractLsb'_request, hsum, pow_add, ← Nat.div_div_eq_div_mul, ← Nat.div_div_eq_div_mul]
  congr 2
  omega

theorem add_ofNat_succ (va : Word) (i : Nat) : va + BitVec.ofNat 64 (8 * i) + 8#64 = va + BitVec.ofNat 64 (8 * (i + 1)) := by
  rw [BitVec.add_assoc, ← BitVec.ofNat_add, Nat.mul_succ]

theorem plateOfs_eq (va : Word) : plateOfs va = va.toNat % 2 ^ 19 := by
  rw [plateOfs, toNat_extractLsb'_request, pow_zero, Nat.div_one]

theorem canonical_eq {va w : Word} (h : w.extractLsb' 47 17 = va.extractLsb' 47 17) : canonical w = canonical va := by
  rw [canonical, canonical, h]

section
variable {s : State} {va : Word} {p : Nat} (h : PlateAccess s va 8 p)
include h

/-- The i-th word from the place of an access lies in the same plate, 8 · i bytes on. -/
theorem PlateAccess.word {i : Nat} (hi : plateOfs va + 8 * i + 8 ≤ 0x40000) :
    PlateAccess s (va + BitVec.ofNat 64 (8 * i)) 8 p ∧ platePhys s (va + BitVec.ofNat 64 (8 * i)) p = platePhys s va p + 8 * i := by
  obtain ⟨hcur, hidle, hmarks, hal, hwin, hslot, hp, -, hready⟩ := h
  rw [plateOfs_eq] at hi
  have hlt : va.toNat % 2 ^ 19 + 8 * i < 2 ^ 19 := by omega
  have hup : ∀ k n, 19 ≤ k → (va + BitVec.ofNat 64 (8 * i)).extractLsb' k n = va.extractLsb' k n := fun k n hk => extractLsb'_add_ofNat hlt hk
  have hsum : (va + BitVec.ofNat 64 (8 * i)).toNat = va.toNat + 8 * i := by
    have hva := va.isLt
    rw [BitVec.toNat_add, BitVec.toNat_ofNat]
    omega
  have hofs : plateOfs (va + BitVec.ofNat 64 (8 * i)) = plateOfs va + 8 * i := by
    rw [plateOfs_eq, plateOfs_eq, hsum]
    omega
  have hslots : plateSlotOf (va + BitVec.ofNat 64 (8 * i)) = plateSlotOf va := hup 19 4 (le_refl _)
  refine ⟨⟨hcur, hidle, hmarks, by omega, ?_, ?_, hp, ?_, hready⟩, ?_⟩
  · rwa [inPlateWindow, canonical_eq (hup 47 17 (by decide)), hup 23 25 (by decide)]
  · simpa only [hslots] using hslot
  · rw [hofs, plateOfs_eq]
    omega
  · rw [platePhys, hofs, platePhys, plateLa, plateLa]
    omega

end

/-! ### Loads of words -/

theorem State.homeBytes_add (s : State) (slot pa n k : Nat) : s.homeBytes slot pa (n + k) = s.homeBytes slot pa n ++ s.homeBytes slot (pa + n) k := by
  rw [State.homeBytes_eq, State.homeBytes_eq, State.homeBytes_eq, List.range_add, List.map_append, List.map_map]
  simp [Function.comp_def, Nat.add_assoc]

theorem PlateAccess.loadWords {s : State} {va : Word} {p : Nat} (h : PlateAccess s va 8 p) {k i : Nat} (hk : plateOfs va + 8 * (i + k) ≤ 0x40000) :
    loadWords (va + BitVec.ofNat 64 (8 * i)) k s = .ok (s.homeBytes 0 (platePhys s va p + 8 * i) (8 * k)) s := by
  induction k generalizing i with
  | zero => rfl
  | succ k ih =>
    obtain ⟨hword, hphys⟩ := h.word (i := i) (by omega)
    have hrest := ih (i := i + 1) (by omega)
    rw [Machine.loadWords, M.bind_ok hword.loadBytes, add_ofNat_succ, M.bind_ok hrest, hphys, Nat.mul_succ 8 k, Nat.add_comm (8 * k) 8, s.homeBytes_add,
      Nat.mul_succ, Nat.add_assoc]
    exact M.pure_apply ..

/-! ### Stores of words -/

theorem Mem.writes_append (a : Nat) (b c : List Byte) (m : List Host.Cell) : Mem.writes a (b ++ c) m = Mem.writes (a + b.length) c (Mem.writes a b m) := by
  induction b generalizing a m with
  | nil => rfl
  | cons x b ih => rw [List.cons_append, Mem.writes, ih, Mem.writes, List.length_cons, Nat.add_assoc, Nat.add_comm 1]

/-- A state with other bytes in memory. -/
def State.withMem (s : State) (l : List Host.Cell) : State := { s with m := { s.m with mem := l } }

theorem State.homeStore_eq_withMem {s : State} {slot pa : Nat} {bs : List Byte} (hw : isHbm (laOf pa) = false) (hm : s.m.marks = []) :
    s.homeStore slot pa bs = s.withMem (Mem.writes pa bs s.m.mem) := by
  simp [State.homeStore, hw, State.updMem, State.withMem, natDrop, hm]

theorem PlateAccess.storeWords {s : State} {va : Word} {p : Nat} (h : PlateAccess s va 8 p) {k i : Nat} {bs : List Byte}
    (hk : plateOfs va + 8 * (i + k) ≤ 0x40000) (hbs : bs.length = 8 * k) : storeWords (va + BitVec.ofNat 64 (8 * i)) k bs s =
      .ok () (s.withMem (Mem.writes (platePhys s va p + 8 * i) bs s.m.mem)) := by
  induction k generalizing i bs s with
  | zero =>
    obtain rfl := List.length_eq_zero_iff.1 hbs
    rfl
  | succ k ih =>
    obtain ⟨hword, hphys⟩ := h.word (i := i) (by omega)
    have hlen : (bs.take 8).length = 8 := by rw [List.length_take]; omega
    have hw : isHbm (laOf (platePhys s va p + 8 * i)) = false := by
      obtain ⟨hcur, -, -, -, -, -, hp, -, -⟩ := h
      exact isHbm_platePhys hcur hp (n := 8 * (i + (k + 1))) hk (by omega)
    have hstep := hword.storeBytes hlen
    rw [hphys, State.homeStore_eq_withMem hw h.2.2.1] at hstep
    have hrest := ih (s := s.withMem (Mem.writes (platePhys s va p + 8 * i) (bs.take 8) s.m.mem)) (i := i + 1) (bs := bs.drop 8) h (by omega)
      (by rw [List.length_drop]; omega)
    rw [Machine.storeWords, M.bind_ok hstep, add_ofNat_succ, hrest]
    have hsplit := Mem.writes_append (platePhys s va p + 8 * i) (bs.take 8) (bs.drop 8) s.m.mem
    rw [List.take_append_drop, hlen] at hsplit
    rw [hsplit, Nat.mul_succ, Nat.add_assoc]
    rfl

end Sys2Proof.Machine
end

section
/-! PROOF. O28: the area that `vsave` writes into a plate (spec/09 R255, R256, spec/15 R376). -/
namespace Sys2Proof.Machine
set_option Elab.async false

/-! ### The items that are read -/

/-- Element `e` of item `j` of a save area: a register's element, or a bit of a predicate. -/
def State.savedElem (s : State) (v : VecRegs) (j e : Nat) : Nat :=
  s.getBits ((s.saveItem v j).1 + e * (s.saveItem v j).2) (s.saveItem v j).2

theorem State.width_saveItem (s : State) (v : VecRegs) (j : Nat) : (s.saveItem v j).2 = v.itemWidth j := by
  unfold State.saveItem VecRegs.itemWidth
  split <;> rfl

section
variable {s : State} {v : VecRegs} (hm : s.m.marks = [])
include hm

theorem saveElem_ok {j e : Nat} (hfit : j < v.nregs → (e + 1) * v.itemWidth j ≤ v.b) : saveElem v j e s = .ok (s.savedElem v j e, false) s := by
  have hin : ¬ (j < v.nregs ∧ v.b < (e + 1) * (s.saveItem v j).2) := by
    rw [s.width_saveItem]
    exact fun ⟨hj, hb⟩ => absurd (hfit hj) (Nat.not_le.2 hb)
  rw [saveElem, M.get_bind]
  dsimp only
  rw [if_neg hin, s.marked_of_nil hm, if_neg Bool.false_ne_true]
  rfl

theorem saveElems_ok {j : Nat} : ∀ {n i : Nat}, (j < v.nregs → (i + n) * v.itemWidth j ≤ v.b) →
    saveElems v j n i s = .ok ((List.range n).map fun e => (s.savedElem v j (i + e), false)) s
  | 0, _, _ => rfl
  | n + 1, i, hfit => by
    have hhead := saveElem_ok hm (j := j) (e := i) fun hj => le_trans (Nat.mul_le_mul_right _ (by omega)) (hfit hj)
    have htail := saveElems_ok (j := j) (n := n) (i := i + 1) fun hj => by
      rw [Nat.add_assoc, Nat.add_comm 1]
      exact hfit hj
    rw [saveElems, M.bind_ok hhead, M.bind_ok htail, List.range_succ_eq_map, List.map_cons, List.map_map]
    simp [Function.comp_def, Nat.add_assoc, Nat.add_comm 1]

theorem saveItems_ok (hfit : ∀ k, k < v.nregs → v.len * v.itemWidth k ≤ v.b) : ∀ {n j : Nat},
    saveItems v n j s = .ok ((List.range n).map fun i => (List.range v.len).map fun e => (s.savedElem v (j + i) e, false)) s
  | 0, _ => rfl
  | n + 1, j => by
    have hhead := saveElems_ok hm (j := j) (n := v.len) (i := 0) fun hj => by
      rw [Nat.zero_add]
      exact hfit j hj
    rw [saveItems, M.bind_ok hhead, M.bind_ok (saveItems_ok hfit (n := n) (j := j + 1)), List.range_succ_eq_map, List.map_cons, List.map_map]
    simp [Function.comp_def, Nat.add_assoc, Nat.add_comm 1]

end

/-! ### The bytes that are stored -/

theorem zipIdx_map_range {α : Type} (f : Nat → α) (n : Nat) : ((List.range n).map f).zipIdx = (List.range n).map fun j => (f j, j) := by
  refine List.ext_getElem (by simp) fun i _ _ => ?_
  simp

/-- The data section of items without poison. -/
theorem VecRegs.saveData_clean (v : VecRegs) (g : Nat → Nat → Nat) (n : Nat) :
    v.saveData ((List.range n).map fun j => (List.range v.len).map fun e => (g j e, false)) =
      ((List.range n).flatMap fun j => packed (v.itemWidth j) ((List.range v.len).map (g j)), false) := by
  have hpsn : ((List.range n).map fun j => (List.range v.len).map fun e => (g j e, false)).any (·.any (·.2)) = false := by
    simp
  rw [VecRegs.saveData, hpsn, if_neg Bool.false_ne_true, zipIdx_map_range, List.flatMap_map]
  simp [Function.comp_def]

/-- Its registers come first, then its predicates. -/
theorem State.flatMap_savedElem (s : State) (v : VecRegs) :
    ((List.range v.items).flatMap fun j => packed (v.itemWidth j) ((List.range v.len).map (s.savedElem v j))) =
      ((List.range v.nregs).flatMap fun k =>
        packed (v.saveWidth k) ((List.range v.vl.toNat).map fun e => s.getBits (s.velAt v k e (v.saveWidth k)) (v.saveWidth k))) ++
      (List.range 31).flatMap fun j => packed 1 ((List.range v.vl.toNat).map fun e => s.getBits (s.pbitAt v (j + 1) e) 1) := by
  rw [VecRegs.items, List.range_add, List.flatMap_append, List.flatMap_map]
  congr 1
  · refine List.flatMap_congr fun k hk => ?_
    have hk' := List.mem_range.1 hk
    have hw : v.itemWidth k = v.saveWidth k := if_pos hk'
    rw [hw]
    refine congrArg _ (List.map_congr_left fun e _ => ?_)
    rw [State.savedElem, s.width_saveItem, hw, State.saveItem, if_pos hk', State.velAt, State.velAt, Nat.zero_mul, Nat.add_zero]
  · refine List.flatMap_congr fun j _ => ?_
    have hj : ¬ v.nregs + j < v.nregs := by omega
    have hw : v.itemWidth (v.nregs + j) = 1 := if_neg hj
    rw [hw]
    refine congrArg _ (List.map_congr_left fun e _ => ?_)
    rw [State.savedElem, s.width_saveItem, hw, State.saveItem, if_neg hj, State.pbitAt, State.pbitAt, Nat.add_zero, Nat.mul_one, Nat.add_sub_cancel_left]

/-- The header words (R255). -/
theorem VecRegs.saveHeader_eq (v : VecRegs) (n : Nat) : v.saveHeader false n =
    ([v.request.toNat, v.vl.toNat, v.vrows.toNat, v.vstr.toNat, (v.vpitch.signExtend 64).toNat, v.vmsel.toNat, v.vstart.toNat,
      v.vtaglo.toNat, v.vtaghi.toNat, v.b, v.mbx.toNat, v.full.toNat, v.vtype.toNat, 2 * v.ovf.toNat + v.inv.toNat, 1, n] ++
     List.replicate 16 0).flatMap (toBytes 8) := by
  have hflags : (flagAt v.ovf 1 ||| bit1 v.inv).toNat = 2 * v.ovf.toNat + v.inv.toNat := by
    cases v.ovf <;> cases v.inv <;> rfl
  have hb : toBytes 8 (BitVec.ofNat 64 v.b).toNat = toBytes 8 v.b := toBytes_congr (by rw [BitVec.toNat_ofNat]; omega)
  have hext : ∀ {w : Nat} (x : BitVec w), w ≤ 64 → (x.zeroExtend 64).toNat = x.toNat := fun x hw => BitVec.toNat_setWidth_of_le hw
  unfold VecRegs.saveHeader
  dsimp only
  rw [hflags, hb]
  simp only [hext _ (by decide : 5 ≤ 64), hext _ (by decide : 14 ≤ 64), hext _ (by decide : 4 ≤ 64), hext _ (by decide : 32 ≤ 64)]
  have hzeros : List.replicate 128 (0#8 : Byte) = (List.replicate 16 0).flatMap (toBytes 8) := by decide
  have hversion : toBytes 8 1 = toBytes 4 1 ++ toBytes 4 0 := by decide
  rw [hzeros]
  simp only [List.flatMap_append, List.flatMap_cons, List.flatMap_nil, List.append_nil, List.append_assoc, hversion]
  rfl

/-- The items that `vsave` reads: none where the configuration is ill. -/
def State.savedItems (s : State) : List (List (Nat × Bool)) :=
  if s.hart.vec.ill then []
  else (List.range s.hart.vec.items).map fun j => (List.range s.hart.vec.len).map fun e => (s.savedElem s.hart.vec j e, false)

theorem readItems_ok {s : State} (hm : s.m.marks = [])
    (hfit : s.hart.vec.ill = false → ∀ k, k < s.hart.vec.nregs → s.hart.vec.vl.toNat * s.hart.vec.saveWidth k ≤ s.hart.vec.b) :
    (if s.hart.vec.ill then pure [] else saveItems s.hart.vec s.hart.vec.items 0 : M _) s = .ok s.savedItems s := by
  unfold State.savedItems
  cases hill : s.hart.vec.ill with
  | true => rfl
  | false =>
    have hok := saveItems_ok (v := s.hart.vec) hm (n := s.hart.vec.items) (j := 0) fun k hk => by
      rw [VecRegs.itemWidth, if_pos hk]
      exact hfit hill k hk
    simpa only [Bool.false_eq_true, if_false, Nat.zero_add] using hok

/-- What `vsave` stores is the save area. -/
theorem saveBytes_savedItems (s : State) : s.hart.vec.saveBytes s.savedItems = savedArea s := by
  unfold VecRegs.saveBytes State.savedItems savedArea
  dsimp only
  cases hill : s.hart.vec.ill with
  | true =>
    rw [if_pos rfl, if_pos rfl]
    exact congrArg (· ++ []) (s.hart.vec.saveHeader_eq 0)
  | false =>
    rw [if_neg Bool.false_ne_true, if_neg Bool.false_ne_true, VecRegs.saveData_clean, s.flatMap_savedElem, VecRegs.saveHeader_eq]

/-! ### The store -/

theorem dvd_length_flatMap {α : Type} {n : Nat} {f : α → List Byte} {l : List α} (h : ∀ x, n ∣ (f x).length) : n ∣ (l.flatMap f).length := by
  induction l with
  | nil => exact Nat.dvd_zero n
  | cons x l ih =>
    rw [List.flatMap_cons, List.length_append]
    exact Nat.dvd_add (h x) ih

theorem dvd_length_packed (w : Nat) (l : List Nat) : 8 ∣ (packed w l).length := by
  rw [packed, toBytes_length]
  exact Nat.dvd_mul_left ..

/-- The area is of whole words. -/
theorem State.dvd_length_savedArea (s : State) : 8 ∣ (savedArea s).length := by
  have hdata : ∀ l m : List Nat, ∀ f g : Nat → List Byte, (∀ x, 8 ∣ (f x).length) → (∀ x, 8 ∣ (g x).length) →
      8 ∣ (if s.hart.vec.ill then [] else l.flatMap f ++ m.flatMap g).length := fun l m f g hf hg => by
    split
    · exact Nat.dvd_zero 8
    · rw [List.length_append]
      exact Nat.dvd_add (dvd_length_flatMap hf) (dvd_length_flatMap hg)
  unfold savedArea
  dsimp only
  rw [List.length_append]
  exact Nat.dvd_add (dvd_length_flatMap fun x => by rw [toBytes_length]) (hdata _ _ _ _ (fun _ => dvd_length_packed ..) fun _ => dvd_length_packed ..)

/-- Where the words of the area lie in a READY plate, `vsave` completes: its bytes hold the area. -/
theorem ends_vsave {s : State} {d a : Reg} {p : Nat} (h : PlateAccess s (s.xr a) 8 p) (ha : (s.xr a).toNat % 64 = 0) (hm : Mem.wf s.m.mem = true)
    (hfit : s.hart.vec.ill = false → ∀ k, k < s.hart.vec.nregs → s.hart.vec.vl.toNat * s.hart.vec.saveWidth k ≤ s.hart.vec.b)
    (hofs : plateOfs (s.xr a) + (savedArea s).length ≤ 0x40000) :
    ∃ t mem x, exec (.vsave d a) s = .next t ∧ Gets s t d (BitVec.ofNat 64 (savedArea s).length) ∧
      t = { s with hart := { s.hart with regs := { s.hart.regs with x := x }, pc := s.hart.pc + 4#64 }, m := { s.m with mem := mem } } ∧
      ∀ y, Mem.read mem y = if platePhys s (s.xr a) p ≤ y ∧ y < platePhys s (s.xr a) p + (savedArea s).length
        then some ((savedArea s).getD (y - platePhys s (s.xr a) p) 0#8) else Mem.read s.m.mem y := by
  obtain ⟨-, hidle, hmarks, -⟩ := id h
  have hwords : (savedArea s).length = 8 * ((savedArea s).length / 8) := (Nat.mul_div_cancel' s.dvd_length_savedArea).symm
  have hstore := h.storeWords (k := (savedArea s).length / 8) (i := 0) (bs := savedArea s) (by omega) hwords
  rw [Nat.mul_zero, Nat.add_zero, BitVec.add_zero] at hstore
  have hexec := exec_vsave (d := d) hidle ha (readItems_ok hmarks hfit) (by rw [saveBytes_savedItems]; exact hstore)
  rw [saveBytes_savedItems] at hexec
  obtain ⟨hd, hother, -, x, hx⟩ := writesX_setX (s.withMem (Mem.writes (platePhys s (s.xr a) p) (savedArea s) s.m.mem)) d
    (BitVec.ofNat 64 (savedArea s).length)
  refine ⟨_, _, x, hexec, ⟨hd, hother⟩, hx, fun y => ?_⟩
  rw [Mem.read_writes hm]
  refine ite_congr rfl (fun hy => ?_) fun _ => rfl
  rw [List.getD_eq_getElem?_getD, List.getElem?_eq_getElem (by omega), Option.getD_some]

end Sys2Proof.Machine
end

section
/-! PROOF. O28: the header that `vrest` reads in a plate (spec/09 R255, spec/15 R377). -/
namespace Sys2Proof.Machine
set_option Elab.async false

/-! ### Header words -/

theorem hdrWord_lt (hdr : List Byte) (ofs : Nat) : hdrWord hdr ofs < 2 ^ 64 := by
  have hlen : ((hdr.drop ofs).take 8).length ≤ 8 := List.length_take_le ..
  calc hdrWord hdr ofs < 256 ^ ((hdr.drop ofs).take 8).length := leNat_lt _
    _ ≤ 256 ^ 8 := Nat.pow_le_pow_right (by decide) hlen
    _ = 2 ^ 64 := by decide

theorem toNat_headerWord (hdr : List Byte) (ofs : Nat) : (headerWord hdr ofs).toNat = hdrWord hdr ofs := by
  rw [headerWord, BitVec.toNat_ofNat]
  exact Nat.mod_eq_of_lt (hdrWord_lt hdr ofs)

/-- A field at the bottom of a header word. -/
theorem extractLsb'_headerWord (hdr : List Byte) (ofs n : Nat) : (headerWord hdr ofs).extractLsb' 0 n = BitVec.ofNat n (hdrWord hdr ofs) := by
  refine BitVec.eq_of_toNat_eq ?_
  rw [toNat_extractLsb'_request, toNat_headerWord, pow_zero, Nat.div_one, BitVec.toNat_ofNat]

theorem getLsbD_headerWord (hdr : List Byte) (ofs i : Nat) : (headerWord hdr ofs).getLsbD i = (hdrWord hdr ofs).testBit i := by
  rw [BitVec.getLsbD, toNat_headerWord]

/-- The header is acceptable as R377 says. -/
theorem headerOk_iff {hdr : List Byte} {vsz : Nat} : headerOk hdr vsz = true ↔ acceptedHeader vsz hdr := by
  have hversion : (headerWord hdr 0x70).extractLsb' 0 32 = 1#32 ↔ hdrWord hdr 0x70 % 2 ^ 32 = 1 := by
    rw [extractLsb'_headerWord, ← BitVec.toNat_inj, BitVec.toNat_ofNat]
    rfl
  have hflags : (headerWord hdr 0x70).extractLsb' 33 31 = 0#31 ↔ hdrWord hdr 0x70 / 2 ^ 33 = 0 := by
    rw [← BitVec.toNat_inj, toNat_extractLsb'_request, toNat_headerWord]
    have := hdrWord_lt hdr 0x70
    simp only [BitVec.toNat_ofNat]
    omega
  have hreq : (headerWord hdr 0).extractLsb' 5 59 = 0#59 ↔ hdrWord hdr 0 < 32 := by rw [extractLsb'_five_eq_zero, toNat_headerWord]
  have hlen : registerLength vsz (headerWord hdr 0) ≠ 0 ↔ (lengthOf vsz (hdrWord hdr 0)).isSome = true := by
    rw [ne_eq, registerLength_eq_zero, toNat_headerWord, ← Option.isNone_iff_eq_none, Bool.not_eq_true, Option.isNone_eq_false_iff]
  simp only [headerOk, acceptedHeader, Bool.and_eq_true, Bool.or_eq_true, beq_iff_eq, bne_iff_ne, List.all_eq_true, hversion, hflags, hreq, hlen,
    getLsbD_headerWord, and_assoc]

/-- The registers that a header restores. -/
theorem VecRegs.restore_eq (v : VecRegs) (vsz : Nat) (hdr : List Byte) : v.restore vsz hdr = savedRegs v vsz hdr := by
  unfold VecRegs.restore savedRegs
  rw [VecRegs.configure_eq]
  simp only [extractLsb'_headerWord, toNat_headerWord, getLsbD_headerWord, clampRows_eq, BitVec.toNat_ofNat]
  rfl

/-! ### The header in a plate -/

/-- The 256 bytes at a place of on-chip storage. -/
def State.headerAt (s : State) (pa : Nat) : List Byte := (List.range 256).map fun i => (Mem.read s.m.mem (pa + i)).getD 0#8

theorem State.homeByte_window (s : State) {slot a : Nat} (h : isHbm (laOf a) = false) : s.homeByte slot a = (Mem.read s.m.mem a).getD 0#8 := by
  rw [State.homeByte, h, if_neg Bool.false_ne_true]

section
variable {s : State} {d a : Reg} {p : Nat} (h : PlateAccess s (s.xr a) 8 p) (hofs : plateOfs (s.xr a) + 256 ≤ 0x40000)
include h hofs

theorem PlateAccess.loadHeader : Machine.loadWords (s.xr a) 32 s = .ok (s.headerAt (platePhys s (s.xr a) p)) s := by
  have hl := h.loadWords (k := 32) (i := 0) hofs
  rw [Nat.mul_zero, Nat.add_zero, BitVec.add_zero] at hl
  rw [hl, s.homeBytes_eq, State.headerAt]
  obtain ⟨hcur, -, -, -, -, -, hp, -, -⟩ := h
  congr 1
  exact List.map_congr_left fun i hi => s.homeByte_window (isHbm_platePhys hcur hp hofs (List.mem_range.1 hi))

variable (ha : (s.xr a).toNat % 64 = 0)
include ha

/-- A header that is not acceptable sets VTYPE.ILL, clears VL and gives 0. -/
theorem ends_vrest_refused (hbad : ¬ acceptedHeader s.hart.grant.vsz.toNat (s.headerAt (platePhys s (s.xr a) p))) :
    ∃ t x, exec (.vrest d a) s = .next t ∧ Gets s t d 0#64 ∧
      t = { s with hart := { s.hart with vec := { s.hart.vec with ill := true, vl := 0#14 }, regs := { s.hart.regs with x := x },
                                         pc := s.hart.pc + 4#64 } } := by
  obtain ⟨hgets, x, hx⟩ := writesX_updVec s (fun v => { v with ill := true, vl := 0#14 }) d 0#64
  exact ⟨_, x, exec_vrest_refused h.2.1 ha (h.loadHeader hofs) (Bool.eq_false_iff.2 (mt headerOk_iff.1 hbad)), hgets, hx⟩

/-- A record saved with ILL set restores its registers of control, and gives 256. -/
theorem ends_vrest_ill (hok : acceptedHeader s.hart.grant.vsz.toNat (s.headerAt (platePhys s (s.xr a) p)))
    (hill : (hdrWord (s.headerAt (platePhys s (s.xr a) p)) 0x60).testBit 5 = true) :
    let saved := savedRegs s.hart.vec s.hart.grant.vsz.toNat (s.headerAt (platePhys s (s.xr a) p))
    ∃ t x, exec (.vrest d a) s = .next t ∧ Gets s t d 256#64 ∧
      t = { s with hart := { s.hart with vec := { saved with ill := true, vl := 0#14 }, regs := { s.hart.regs with x := x },
                                         pc := s.hart.pc + 4#64 } } := by
  obtain ⟨hgets, x, hx⟩ := writesX_updVec s
    (fun v => { v.restore s.hart.grant.vsz.toNat (s.headerAt (platePhys s (s.xr a) p)) with ill := true, vl := 0#14 }) d 256#64
  rw [VecRegs.restore_eq] at hx
  exact ⟨_, x, exec_vrest_ill h.2.1 ha (h.loadHeader hofs) (headerOk_iff.2 hok) (by rw [getLsbD_headerWord]; exact hill), hgets, hx⟩

end

end Sys2Proof.Machine
end

section
/-! SUPPORT. On-chip storage by bits (spec/01 R23): what registers and predicates hold after some of their bits are written. -/
namespace Sys2Proof.Machine
set_option Elab.async false

/-! ### Bits of a number -/

/-- A bit of the number that bytes give. -/
theorem testBit_leNat (bs : List Byte) (i : Nat) : (leNat bs).testBit i = (bs.getD (i / 8) 0#8).getLsbD (i % 8) := by
  induction bs generalizing i with
  | nil => simp [leNat]
  | cons b bs ih =>
    have hsplit : leNat (b :: bs) = 2 ^ 8 * leNat bs + b.toNat := Nat.add_comm ..
    rw [hsplit, Nat.testBit_two_pow_mul_add _ b.isLt]
    split
    · next hi => rw [Nat.div_eq_of_lt hi, Nat.mod_eq_of_lt hi]; rfl
    · next hi =>
      obtain ⟨k, rfl⟩ := Nat.exists_eq_add_of_le (Nat.not_lt.1 hi)
      rw [Nat.add_sub_cancel_left, ih, Nat.add_div_left _ (by decide), Nat.add_mod_left]
      rfl

/-- A field of a number is replaced. -/
theorem testBit_splice (old v sh w i : Nat) : (old - old / 2 ^ sh % 2 ^ w * 2 ^ sh + v % 2 ^ w * 2 ^ sh).testBit i =
    if sh ≤ i ∧ i < sh + w then v.testBit (i - sh) else old.testBit i := by
  have hlow := Nat.mod_lt old (Nat.two_pow_pos sh)
  have hfield := Nat.mod_lt (old / 2 ^ sh) (Nat.two_pow_pos w)
  have hnew := Nat.mod_lt v (Nat.two_pow_pos w)
  have hold : old = 2 ^ sh * (2 ^ w * (old / 2 ^ sh / 2 ^ w) + old / 2 ^ sh % 2 ^ w) + old % 2 ^ sh := by rw [Nat.div_add_mod, Nat.div_add_mod]
  have hsum : old - old / 2 ^ sh % 2 ^ w * 2 ^ sh + v % 2 ^ w * 2 ^ sh =
      2 ^ sh * (2 ^ w * (old / 2 ^ sh / 2 ^ w) + v % 2 ^ w) + old % 2 ^ sh := by
    generalize old / 2 ^ sh / 2 ^ w = c, old / 2 ^ sh % 2 ^ w = m, old % 2 ^ sh = a at hold ⊢
    subst hold
    rw [Nat.mul_add, Nat.mul_add, Nat.mul_comm (2 ^ sh) m, Nat.mul_comm (2 ^ sh) (v % 2 ^ w)]
    omega
  rw [hsum, Nat.testBit_two_pow_mul_add _ hlow, Nat.testBit_two_pow_mul_add _ hnew]
  conv_rhs => rw [hold, Nat.testBit_two_pow_mul_add _ hlow, Nat.testBit_two_pow_mul_add _ hfield]
  by_cases h1 : i < sh
  · rw [if_pos h1, if_pos h1, if_neg (by omega)]
  · rw [if_neg h1, if_neg h1]
    by_cases h2 : i - sh < w
    · rw [if_pos h2, if_pos (by omega), Nat.testBit_mod_two_pow, decide_eq_true h2, Bool.true_and]
    · rw [if_neg h2, if_neg h2, if_neg (by omega)]

/-! ### Bits of storage -/

/-- A bit of on-chip storage, by its address in bits. -/
def bitOf (mem : List Host.Cell) (x : Nat) : Bool := ((Mem.read mem (x / 8)).getD 0#8).getLsbD (x % 8)

/-- The bytes that hold a range of bits. -/
def bitBytes (bit w : Nat) : Nat := (bit % 8 + w + 7) / 8

/-- A bit of the number in bytes of storage that is not HBM. -/
theorem State.testBit_leNat_homeBytes {s : State} {a n i : Nat} (hw : ∀ k < n, isHbm (laOf (a + k)) = false) (hi : i < 8 * n) :
    (leNat (s.homeBytes 0 a n)).testBit i = bitOf s.m.mem (8 * a + i) := by
  have hk : i / 8 < n := by omega
  rw [testBit_leNat, List.getD_eq_getElem?_getD, s.getElem?_homeBytes 0 a hk, Option.getD_some, s.homeByte_window (hw _ hk), bitOf,
    show (8 * a + i) / 8 = a + i / 8 by omega, show (8 * a + i) % 8 = i % 8 by omega]

section
variable {s : State} {bit w : Nat} (hw : ∀ k < bitBytes bit w, isHbm (laOf (bit / 8 + k)) = false)
include hw

/-- A bit of a field of storage. -/
theorem State.testBit_getBits (i : Nat) : (s.getBits bit w).testBit i = (decide (i < w) && bitOf s.m.mem (bit + i)) := by
  change ((leNat (s.homeBytes 0 (bit / 8) (bitBytes bit w)) / 2 ^ (bit % 8)) % 2 ^ w).testBit i = _
  rw [Nat.testBit_mod_two_pow, Nat.testBit_div_two_pow]
  by_cases hi : i < w
  · rw [s.testBit_leNat_homeBytes hw (by unfold bitBytes; omega), show 8 * (bit / 8) + (i + bit % 8) = bit + i by omega]
  · rw [decide_eq_false hi, Bool.false_and, Bool.false_and]

/-- What a write of a field leaves in memory. -/
def putMem (s : State) (bit w v : Nat) : List Host.Cell :=
  let old := leNat (s.homeBytes 0 (bit / 8) (bitBytes bit w))
  Mem.writes (bit / 8) (toBytes (bitBytes bit w) (old - old / 2 ^ (bit % 8) % 2 ^ w * 2 ^ (bit % 8) + v % 2 ^ w * 2 ^ (bit % 8))) s.m.mem

omit hw in
theorem State.putBits_eq (hm : s.m.marks = []) (v : Nat) : s.putBits bit w v = s.withMem (putMem s bit w v) := by
  simp [State.putBits, State.updMem, State.withMem, putMem, bitBytes, natDrop, hm]

omit hw in
theorem wf_putMem (hwf : Mem.wf s.m.mem = true) (v : Nat) : Mem.wf (putMem s bit w v) = true := Mem.wf_writes hwf

omit hw in
/-- A byte that holds no bit of the field. -/
theorem read_putMem_other (hwf : Mem.wf s.m.mem = true) (v : Nat) {y : Nat} (hy : y < bit / 8 ∨ bit / 8 + bitBytes bit w ≤ y) :
    Mem.read (putMem s bit w v) y = Mem.read s.m.mem y := by
  rw [putMem, Mem.read_writes hwf, toBytes_length, if_neg (by omega)]

/-- The bits of the field are those of the number; every other bit stays. -/
theorem bitOf_putMem (hwf : Mem.wf s.m.mem = true) (v x : Nat) :
    bitOf (putMem s bit w v) x = if bit ≤ x ∧ x < bit + w then v.testBit (x - bit) else bitOf s.m.mem x := by
  by_cases hx : bit / 8 ≤ x / 8 ∧ x / 8 < bit / 8 + bitBytes bit w
  · obtain ⟨i, rfl⟩ : ∃ i, x = 8 * (bit / 8) + i := ⟨x - 8 * (bit / 8), by omega⟩
    have hi : i < 8 * bitBytes bit w := by omega
    rw [bitOf, putMem, Mem.read_writes hwf, toBytes_length, if_pos hx, getElem?_toBytes (by omega), Option.getD_some, BitVec.getLsbD_ofNat,
      show (256 : Nat) = 2 ^ 8 by decide, ← pow_mul, Nat.testBit_div_two_pow, decide_eq_true (Nat.mod_lt _ (by decide)), Bool.true_and,
      show (8 * (bit / 8) + i) % 8 + 8 * ((8 * (bit / 8) + i) / 8 - bit / 8) = i by omega, testBit_splice, s.testBit_leNat_homeBytes hw hi]
    exact ite_congr (by simp only [eq_iff_iff]; omega) (fun _ => congrArg _ (by omega)) fun _ => rfl
  · rw [bitOf, read_putMem_other hwf v (by omega), if_neg (by unfold bitBytes at hx; omega)]
    rfl

end

end Sys2Proof.Machine
end

section
/-! SUPPORT. Where the registers and predicates of a configuration stand in the share (spec/01 R23, spec/07 R183), and what one restored item
leaves there. -/
namespace Sys2Proof.Machine
set_option Elab.async false

/-! ### The share of the executing hart -/

/-- The bits of the share, from its first. -/
def State.shareBits (s : State) : Nat := 8192 * s.hart.grant.vsz.toNat

theorem State.shareBit_eq (s : State) : s.shareBit s.cur =
    8 * (s.fab.dev.toNat * 2 ^ 42 + clusterLa (clusterOf s.cur) (s.hart.grant.voff.toNat * 1024)) := by
  rw [State.shareBit, State.getHart_cur, State.clusterBit]

/-- The share lies in the window of its cluster. -/
structure ShareInCluster (s : State) : Prop where
  cur : s.cur < 2048
  fits : s.hart.grant.voff.toNat + s.hart.grant.vsz.toNat ≤ 512

/-- A field of the share stands in bytes of the share. -/
theorem State.not_outsideShare (s : State) {bit w k : Nat} (hlo : s.shareBit s.cur ≤ bit) (hhi : bit + w ≤ s.shareBit s.cur + s.shareBits)
    (hk : k < bitBytes bit w) : ¬ OutsideShare s (bit / 8 + k) := by
  have hdvd := s.shareBit_eq
  unfold State.shareBits at hhi
  unfold bitBytes at hk
  unfold OutsideShare
  dsimp only
  omega

section
variable {s : State} (h : ShareInCluster s)
include h

theorem ShareInCluster.isHbm {y : Nat} (hy : ¬ OutsideShare s y) : isHbm (laOf y) = false := by
  obtain ⟨hcur, hfits⟩ := h
  unfold OutsideShare at hy
  dsimp only at hy
  rw [s.shareBit_eq] at hy
  unfold clusterLa clusterOf at hy
  refine decide_eq_false ?_
  unfold laOf
  omega

theorem ShareInCluster.isHbm_field {bit w : Nat} (hlo : s.shareBit s.cur ≤ bit) (hhi : bit + w ≤ s.shareBit s.cur + s.shareBits) :
    ∀ k < bitBytes bit w, Machine.isHbm (laOf (bit / 8 + k)) = false := fun _ hk => h.isHbm (s.not_outsideShare hlo hhi hk)

/-- The bytes of a plate stand in no share. -/
theorem PlateAccess.outsideShare {va : Word} {p n i : Nat} (hp : p < 128) (hofs : plateOfs va + n ≤ 0x40000) (hi : i < n) :
    OutsideShare s (platePhys s va p + i) := by
  obtain ⟨hcur, -⟩ := h
  refine .inl ?_
  rw [s.shareBit_eq]
  unfold platePhys plateLa dieOfHart clusterLa
  omega

end

/-! ### The items of a configuration -/

/-- The registers and the predicates fit the share. -/
def VecRegs.Fits (v : VecRegs) (vsz : Nat) : Prop := v.nregs * v.b + 32 * v.vcap ≤ 8192 * vsz

/-- A supported request gives a configuration that fits its share. -/
theorem VecRegs.fits_of_lengthOf {v : VecRegs} {vsz r : Nat} (hreq : v.request = BitVec.ofNat 5 r) (hb : lengthOf vsz r = some v.b) : v.Fits vsz := by
  unfold lengthOf at hb
  dsimp only at hb
  split at hb
  case isFalse => cases hb
  case isTrue hr =>
    obtain ⟨hr, -⟩ := hr
    have hb := (Option.some.inj hb).symm
    have hn : v.nregs = [4, 8, 16, 32].getD (r % 4) 0 := by
      rw [VecRegs.nregs, hreq]
      interval_cases r <;> rfl
    have hw : v.width = elemWidth r := by
      rw [VecRegs.width, hreq]
      interval_cases r <;> rfl
    rw [← hn, ← hw] at hb
    have hq : v.b ≤ vsz * 1024 * 8 * v.width / (v.nregs * v.width + 32) := by
      rw [hb]
      exact le_trans (Nat.min_le_left ..) (Nat.sub_le ..)
    have hbits : v.b * (v.nregs * v.width + 32) ≤ vsz * 1024 * 8 * v.width := (Nat.le_div_iff_mul_le (by omega)).1 hq
    have hpos : 0 < v.width := Nat.mul_pos (by decide) (Nat.two_pow_pos _)
    have hcap : v.vcap * v.width ≤ v.b := Nat.div_mul_le_self ..
    refine Nat.le_of_mul_le_mul_right ?_ hpos
    calc (v.nregs * v.b + 32 * v.vcap) * v.width = v.nregs * v.width * v.b + 32 * (v.vcap * v.width) := by ring
      _ ≤ v.nregs * v.width * v.b + 32 * v.b := Nat.add_le_add_left (Nat.mul_le_mul_left _ hcap) _
      _ = v.b * (v.nregs * v.width + 32) := by ring
      _ ≤ 8192 * vsz * v.width := by linarith

/-- Where item `j` begins. -/
def State.itemAt (s : State) (v : VecRegs) (j : Nat) : Nat := (s.saveItem v j).1

/-- Element `e` of item `j` lies in the item. -/
def VecRegs.Holds (v : VecRegs) (j e : Nat) : Prop := j < v.nregs → (e + 1) * v.itemWidth j ≤ v.b

theorem State.itemAt_reg (s : State) {v : VecRegs} {j : Nat} (hj : j < v.nregs) : s.itemAt v j = s.shareBit s.cur + j * v.b := by
  rw [State.itemAt, State.saveItem, if_pos hj, State.velAt, Nat.zero_mul, Nat.add_zero]

theorem State.itemAt_pred (s : State) {v : VecRegs} {j : Nat} (hj : ¬ j < v.nregs) :
    s.itemAt v j = s.shareBit s.cur + v.nregs * v.b + (j - v.nregs + 1) * v.vcap := by
  rw [State.itemAt, State.saveItem, if_neg hj, State.pbitAt, Nat.add_zero]

theorem VecRegs.itemWidth_pred {v : VecRegs} {j : Nat} (hj : ¬ j < v.nregs) : v.itemWidth j = 1 := if_neg hj

theorem State.shareBit_le_itemAt (s : State) (v : VecRegs) (j : Nat) : s.shareBit s.cur ≤ s.itemAt v j := by
  by_cases hj : j < v.nregs
  · rw [s.itemAt_reg hj]; omega
  · rw [s.itemAt_pred hj]; omega

/-- The elements that an item holds end before the next item. -/
theorem State.elem_le_itemAt (s : State) {v : VecRegs} {i j e : Nat} (hij : i < j) (he : e < v.vcap) (hh : v.Holds i e) :
    s.itemAt v i + (e + 1) * v.itemWidth i ≤ s.itemAt v j := by
  by_cases hi : i < v.nregs
  · rw [s.itemAt_reg hi]
    have hnext : (i + 1) * v.b ≤ s.itemAt v j - s.shareBit s.cur := by
      by_cases hj : j < v.nregs
      · rw [s.itemAt_reg hj, Nat.add_sub_cancel_left]
        exact Nat.mul_le_mul_right _ hij
      · rw [s.itemAt_pred hj, Nat.add_assoc, Nat.add_sub_cancel_left]
        exact le_trans (Nat.mul_le_mul_right _ hi) (Nat.le_add_right ..)
    have := hh hi
    have := s.shareBit_le_itemAt v j
    rw [Nat.succ_mul] at hnext
    omega
  · have hj : ¬ j < v.nregs := by omega
    rw [s.itemAt_pred hi, s.itemAt_pred hj, VecRegs.itemWidth_pred hi]
    have hnext : (i - v.nregs + 1 + 1) * v.vcap ≤ (j - v.nregs + 1) * v.vcap := Nat.mul_le_mul_right _ (by omega)
    rw [Nat.succ_mul (i - v.nregs + 1)] at hnext
    omega

/-- The elements that an item holds end in the share. -/
theorem State.elem_le_shareBits (s : State) {v : VecRegs} (hv : v.Fits s.hart.grant.vsz.toNat) {j e : Nat} (hj : j < v.items) (he : e < v.vcap)
    (hh : v.Holds j e) : s.itemAt v j + (e + 1) * v.itemWidth j ≤ s.shareBit s.cur + s.shareBits := by
  have hend : s.itemAt v (v.nregs + 31) ≤ s.shareBit s.cur + s.shareBits := by
    rw [s.itemAt_pred (by omega), State.shareBits, Nat.add_sub_cancel_left]
    have : v.nregs * v.b + 32 * v.vcap ≤ 8192 * s.hart.grant.vsz.toNat := hv
    omega
  exact le_trans (s.elem_le_itemAt hj he hh) hend

/-! ### One item (R377) -/

/-- What memory holds once the elements below `n` of an item are put. -/
def State.putItem (s : State) (v : VecRegs) (j n data : Nat) (mem : List Host.Cell) : List Host.Cell :=
  (List.range n).foldl (fun m e => if j < v.nregs ∧ v.b < (e + 1) * v.itemWidth j then m
    else putMem (s.withMem m) (s.itemAt v j + e * v.itemWidth j) (v.itemWidth j) (data / 2 ^ (e * v.itemWidth j) % 2 ^ v.itemWidth j)) mem

theorem State.putItem_succ (s : State) (v : VecRegs) (j n data : Nat) (mem : List Host.Cell) : s.putItem v j (n + 1) data mem =
    if j < v.nregs ∧ v.b < (n + 1) * v.itemWidth j then s.putItem v j n data mem
    else putMem (s.withMem (s.putItem v j n data mem)) (s.itemAt v j + n * v.itemWidth j) (v.itemWidth j)
      (data / 2 ^ (n * v.itemWidth j) % 2 ^ v.itemWidth j) := by
  rw [State.putItem, List.range_succ, List.foldl_append]
  rfl

theorem State.restItem_eq {s : State} (hm : s.m.marks = []) (v : VecRegs) (j n data : Nat) (mem : List Host.Cell) :
    (s.withMem mem).restItem v j n data = s.withMem (s.putItem v j n data mem) := by
  rw [State.restItem, State.putItem]
  dsimp only
  refine List.foldl_hom s.withMem fun m e => ?_
  change (if j < v.nregs ∧ v.b < (e + 1) * (s.saveItem v j).2 then s.withMem m
    else (s.withMem m).putBits ((s.saveItem v j).1 + e * (s.saveItem v j).2) (s.saveItem v j).2 (data / 2 ^ (e * (s.saveItem v j).2) % 2 ^ (s.saveItem v j).2)) = _
  rw [s.width_saveItem, State.putBits_eq (s := s.withMem m) hm]
  split <;> rfl

theorem VecRegs.holds_iff {v : VecRegs} {j e : Nat} : v.Holds j e ↔ ¬ (j < v.nregs ∧ v.b < (e + 1) * v.itemWidth j) := by
  rw [VecRegs.Holds, not_and, Nat.not_lt]

theorem State.wf_putItem (s : State) {v : VecRegs} {j n data : Nat} {mem : List Host.Cell} (hwf : Mem.wf mem = true) :
    Mem.wf (s.putItem v j n data mem) = true := by
  induction n with
  | zero => exact hwf
  | succ n ih =>
    rw [s.putItem_succ]
    split
    · exact ih
    · exact wf_putMem (s := s.withMem _) ih _

section
variable {s : State} {v : VecRegs} {j : Nat} (hv : v.Fits s.hart.grant.vsz.toNat) (hj : j < v.items)
include hv hj

/-- The bytes outside the share stay. -/
theorem State.read_putItem {n data : Nat} {mem : List Host.Cell} (hn : n ≤ v.vcap) (hwf : Mem.wf mem = true) {y : Nat} (hy : OutsideShare s y) :
    Mem.read (s.putItem v j n data mem) y = Mem.read mem y := by
  induction n with
  | zero => rfl
  | succ n ih =>
    rw [s.putItem_succ]
    split
    · exact ih (by omega)
    · next hh =>
      have hend := s.elem_le_shareBits hv hj (by omega : n < v.vcap) (VecRegs.holds_iff.2 hh)
      have hlo := s.shareBit_le_itemAt v j
      rw [Nat.succ_mul] at hend
      refine (read_putMem_other (s := s.withMem _) (s.wf_putItem hwf) _ ?_).trans (ih (by omega))
      by_contra hin
      obtain ⟨k, hk⟩ := Nat.exists_eq_add_of_le (Nat.not_lt.1 (not_or.1 hin).1)
      subst hk
      exact s.not_outsideShare (w := v.itemWidth j) (by omega) (by omega) (by omega) hy

variable (h : ShareInCluster s)
include h

/-- The bits before the item stay, and each element that it holds is that of its data. -/
theorem State.bitOf_putItem {n data : Nat} {mem : List Host.Cell} (hn : n ≤ v.vcap) (hwf : Mem.wf mem = true) :
    (∀ x < s.itemAt v j, bitOf (s.putItem v j n data mem) x = bitOf mem x) ∧
    ∀ e < n, v.Holds j e → ∀ x < v.itemWidth j,
      bitOf (s.putItem v j n data mem) (s.itemAt v j + e * v.itemWidth j + x) = data.testBit (e * v.itemWidth j + x) := by
  induction n with
  | zero => exact ⟨fun _ _ => rfl, fun _ he => absurd he (Nat.not_lt_zero _)⟩
  | succ n ih =>
    obtain ⟨hbefore, helems⟩ := ih (by omega)
    rw [s.putItem_succ]
    split
    · next hh =>
      refine ⟨hbefore, fun e he hhe => ?_⟩
      rcases Nat.lt_succ_iff_lt_or_eq.1 he with he | rfl
      · exact helems e he hhe
      · exact absurd hh (VecRegs.holds_iff.1 hhe)
    · next hh =>
      have hend := s.elem_le_shareBits hv hj (by omega : n < v.vcap) (VecRegs.holds_iff.2 hh)
      have hlo := s.shareBit_le_itemAt v j
      rw [Nat.succ_mul] at hend
      have hbit := bitOf_putMem (s := s.withMem (s.putItem v j n data mem)) (h.isHbm_field (bit := s.itemAt v j + n * v.itemWidth j) (w := v.itemWidth j)
        (by omega) (by omega)) (s.wf_putItem hwf) (data / 2 ^ (n * v.itemWidth j) % 2 ^ v.itemWidth j)
      refine ⟨fun x hx => ?_, fun e he hhe x hx => ?_⟩
      · rw [hbit, if_neg (by omega)]
        exact hbefore x hx
      · rcases Nat.lt_succ_iff_lt_or_eq.1 he with he' | rfl
        · have hstep : (e + 1) * v.itemWidth j ≤ n * v.itemWidth j := Nat.mul_le_mul_right _ he'
          rw [Nat.succ_mul] at hstep
          rw [hbit, if_neg (by omega)]
          exact helems e he' hhe x hx
        · rw [hbit, if_pos (by omega), Nat.add_sub_cancel_left, Nat.testBit_mod_two_pow, decide_eq_true hx, Bool.true_and, Nat.testBit_div_two_pow,
            Nat.add_comm x]

end

end Sys2Proof.Machine
end

section
/-! PROOF. O28: the data section that `vrest` reads in a plate, and what it leaves in the share (spec/09 R255, spec/15 R377). -/
namespace Sys2Proof.Machine
set_option Elab.async false

/-! ### The data section -/

/-- The words of item `j` of a record that was saved with VL = svl. -/
def VecRegs.restWords (v : VecRegs) (svl j : Nat) : Nat := (svl * v.itemWidth j + 63) / 64

/-- The words of a record before item `j`, its header among them. -/
def VecRegs.restIndex (v : VecRegs) (svl j : Nat) : Nat := 32 + ((List.range j).map (v.restWords svl)).sum

/-- The data of item `j` of the record at a place. -/
def State.restData (s : State) (v : VecRegs) (pa svl j : Nat) : Nat := storedNat s (pa + 8 * v.restIndex svl j) (8 * v.restWords svl j)

theorem VecRegs.restIndex_succ (v : VecRegs) (svl j : Nat) : v.restIndex svl (j + 1) = v.restIndex svl j + v.restWords svl j := by
  rw [VecRegs.restIndex, List.range_succ, List.map_append, List.sum_append, ← Nat.add_assoc]
  rfl

theorem VecRegs.restIndex_le (v : VecRegs) (svl j m : Nat) : v.restIndex svl j ≤ v.restIndex svl (j + m) := by
  induction m with
  | zero => exact le_refl _
  | succ m ih =>
    rw [← Nat.add_assoc, v.restIndex_succ]
    omega

/-- The same bytes give the same number. -/
theorem storedNat_congr {s t : State} {pa n : Nat} (h : ∀ i < n, Mem.read s.m.mem (pa + i) = Mem.read t.m.mem (pa + i)) :
    storedNat s pa n = storedNat t pa n :=
  congrArg List.sum (List.map_congr_left fun i hi => by rw [h i (List.mem_range.1 hi)])

/-! ### The loop over the items -/

/-- Memory in which the items below `j` are restored, their elements below `n`, and nothing outside the share is changed. -/
structure Restored (s : State) (v : VecRegs) (pa svl n j : Nat) (mem : List Host.Cell) : Prop where
  wf : Mem.wf mem = true
  outside : ∀ y, OutsideShare s y → Mem.read mem y = Mem.read s.m.mem y
  bits : ∀ i < j, ∀ e < n, v.Holds i e → ∀ x < v.itemWidth i,
    bitOf mem (s.itemAt v i + e * v.itemWidth i + x) = (s.restData v pa svl i).testBit (e * v.itemWidth i + x)

section
variable {s : State} {v : VecRegs} {pa svl n : Nat} (hshare : ShareInCluster s) (hv : v.Fits s.hart.grant.vsz.toNat) (hn : n ≤ v.vcap)
include hshare hv hn

/-- One more item. -/
theorem Restored.step {j : Nat} {mem : List Host.Cell} (hmem : Restored s v pa svl n j mem) (hj : j < v.items) :
    Restored s v pa svl n (j + 1) (s.putItem v j n (s.restData v pa svl j) mem) := by
  obtain ⟨hwf, houtside, hbits⟩ := hmem
  obtain ⟨hbefore, helems⟩ := State.bitOf_putItem hv hj hshare (data := s.restData v pa svl j) hn hwf
  refine ⟨s.wf_putItem hwf, fun y hy => (State.read_putItem hv hj hn hwf hy).trans (houtside y hy), fun i hi e he hh x hx => ?_⟩
  rcases Nat.lt_succ_iff_lt_or_eq.1 hi with hi | rfl
  · have hend := s.elem_le_itemAt hi (lt_of_lt_of_le he hn) hh
    rw [Nat.succ_mul] at hend
    rw [hbefore _ (by omega)]
    exact hbits i hi e he hh x hx
  · exact helems e he hh x hx

end

section
variable {s : State} {v : VecRegs} {va : Word} {p svl n : Nat} (h : PlateAccess s va 8 p) (hshare : ShareInCluster s)
include h hshare

/-- The words of an item are read as they stood before. -/
theorem Restored.loadItem {j : Nat} {mem : List Host.Cell} (hmem : Restored s v (platePhys s va p) svl n j mem)
    (hofs : plateOfs va + 8 * v.restIndex svl (j + 1) ≤ 0x40000) :
    ∃ bs, loadWords (va + BitVec.ofNat 64 (8 * v.restIndex svl j)) (v.restWords svl j) (s.withMem mem) = .ok bs (s.withMem mem) ∧
      leNat bs = s.restData v (platePhys s va p) svl j := by
  rw [v.restIndex_succ] at hofs
  have hplate : PlateAccess (s.withMem mem) va 8 p := h
  obtain ⟨hcur, -, -, -, -, -, hp, -, -⟩ := h
  have hin : ∀ i < 8 * v.restWords svl j, 8 * v.restIndex svl j + i < 8 * (v.restIndex svl j + v.restWords svl j) := fun i hi => by omega
  refine ⟨_, hplate.loadWords hofs, ?_⟩
  rw [leNat_homeBytes_window fun i hi => by rw [Nat.add_assoc]; exact isHbm_platePhys hcur hp hofs (hin i hi)]
  refine storedNat_congr fun i hi => hmem.outside _ ?_
  rw [Nat.add_assoc]
  exact PlateAccess.outsideShare hshare hp hofs (hin i hi)

/-- The items from `j` on are restored one after the other. -/
theorem Restored.restItems (hv : v.Fits s.hart.grant.vsz.toNat) (hn : n ≤ v.vcap) {m : Nat} : ∀ {j : Nat} {mem : List Host.Cell}, Restored s v (platePhys s va p) svl n j mem → j + m ≤ v.items →
    plateOfs va + 8 * v.restIndex svl (j + m) ≤ 0x40000 →
    ∃ mem', Machine.restItems v.itemWidth svl (fun j x s => s.restItem v j n x) m j (va + BitVec.ofNat 64 (8 * v.restIndex svl j)) (s.withMem mem) =
        .ok (va + BitVec.ofNat 64 (8 * v.restIndex svl (j + m))) (s.withMem mem') ∧ Restored s v (platePhys s va p) svl n (j + m) mem' := by
  induction m with
  | zero => exact fun hmem _ _ => ⟨_, rfl, hmem⟩
  | succ m ih =>
    intro j mem hmem hj hofs
    rw [show j + (m + 1) = j + 1 + m by omega] at hj hofs ⊢
    obtain ⟨bs, hload, hdata⟩ := hmem.loadItem h hshare (by have := v.restIndex_le svl (j + 1) m; omega)
    obtain ⟨mem', hloop, hrestored⟩ := ih (hmem.step hshare hv hn (by omega)) hj hofs
    refine ⟨mem', ?_, hrestored⟩
    obtain ⟨-, -, hmarks, -⟩ := h
    rw [Machine.restItems]
    refine (M.bind_ok hload).trans ?_
    rw [M.modify_bind, State.restItem_eq hmarks, hdata, BitVec.add_assoc, ← BitVec.ofNat_add, Nat.mul_comm _ 8, ← Nat.mul_add]
    rw [v.restIndex_succ] at hloop
    exact hloop

end

/-- All items are restored. -/
theorem restItems_ok {s : State} {v : VecRegs} {va : Word} {p svl : Nat} (h : PlateAccess s va 8 p) (hshare : ShareInCluster s)
    (hv : v.Fits s.hart.grant.vsz.toNat) (hwf : Mem.wf s.m.mem = true) (hofs : plateOfs va + 8 * v.restIndex svl v.items ≤ 0x40000) :
    ∃ mem, restItems v.itemWidth svl (fun j x s => s.restItem v j (min svl v.vcap) x) v.items 0 (va + 256#64) s =
        .ok (va + BitVec.ofNat 64 (8 * v.restIndex svl v.items)) (s.withMem mem) ∧
      Restored s v (platePhys s va p) svl (min svl v.vcap) v.items mem := by
  have hstart : Restored s v (platePhys s va p) svl (min svl v.vcap) 0 s.m.mem :=
    ⟨hwf, fun _ _ => rfl, fun _ hi => absurd hi (Nat.not_lt_zero _)⟩
  have hall := hstart.restItems h hshare hv (Nat.min_le_right ..) (m := v.items) (by rw [Nat.zero_add]) (by rw [Nat.zero_add]; exact hofs)
  rw [Nat.zero_add] at hall
  exact hall

/-! ### What the registers and predicates hold -/

/-- The share of a hart stands where its grant says. -/
theorem State.shareBit_congr {s t : State} (hcur : t.cur = s.cur) (hdev : t.fab.dev = s.fab.dev) (hgrant : t.hart.grant = s.hart.grant) :
    t.shareBit t.cur = s.shareBit s.cur := by rw [State.shareBit_eq, State.shareBit_eq, hcur, hdev, hgrant]

section
variable {s t : State} {v : VecRegs} {pa svl n : Nat} {mem : List Host.Cell} (hmem : Restored s v pa svl n v.items mem) (hshare : ShareInCluster s)
  (hv : v.Fits s.hart.grant.vsz.toNat) (hn : n ≤ v.vcap) (ht : t.m.mem = mem)
include hmem hshare hv hn ht

/-- An element that is restored is that of the record. -/
theorem Restored.getBits {j e : Nat} (hj : j < v.items) (he : e < n) (hh : v.Holds j e) :
    t.getBits (s.itemAt v j + e * v.itemWidth j) (v.itemWidth j) = s.restData v pa svl j / 2 ^ (e * v.itemWidth j) % 2 ^ v.itemWidth j := by
  have hlo := s.shareBit_le_itemAt v j
  have hend := s.elem_le_shareBits hv hj (lt_of_lt_of_le he hn) hh
  rw [Nat.succ_mul] at hend
  refine Nat.eq_of_testBit_eq fun x => ?_
  rw [State.testBit_getBits (hshare.isHbm_field (by omega) (by omega)), Nat.testBit_mod_two_pow, Nat.testBit_div_two_pow, ht]
  by_cases hx : x < v.itemWidth j
  · rw [hmem.bits j hj e he hh x hx, Nat.add_comm x]
  · rw [decide_eq_false hx, Bool.false_and, Bool.false_and]

variable (hbit : t.shareBit t.cur = s.shareBit s.cur)
include hbit

/-- An element of a register. -/
theorem Restored.velAt {k e : Nat} (hk : k < v.nregs) (he : e < n) (hb : (e + 1) * v.itemWidth k ≤ v.b) :
    t.getBits (t.velAt v k e (v.itemWidth k)) (v.itemWidth k) = s.restData v pa svl k / 2 ^ (e * v.itemWidth k) % 2 ^ v.itemWidth k := by
  rw [State.velAt, hbit, ← s.itemAt_reg hk]
  exact hmem.getBits hshare hv hn ht (Nat.lt_add_right 31 hk) he fun _ => hb

/-- A bit of a predicate. -/
theorem Restored.pbit {j e : Nat} (hj : 1 ≤ j) (hj' : j < 32) (he : e < n) : t.pbit v j e =
    decide (s.restData v pa svl (v.nregs + j - 1) / 2 ^ (e * v.itemWidth (v.nregs + j - 1)) % 2 ^ v.itemWidth (v.nregs + j - 1) = 1) := by
  have hpred : ¬ v.nregs + j - 1 < v.nregs := by omega
  have hat : t.pbitAt v j e = s.itemAt v (v.nregs + j - 1) + e * 1 := by
    rw [State.pbitAt, hbit, s.itemAt_pred hpred, Nat.mul_one, show v.nregs + j - 1 - v.nregs + 1 = j by omega]
  have hget := hmem.getBits hshare hv hn ht (j := v.nregs + j - 1) (by unfold VecRegs.items; omega) he fun h => absurd h hpred
  rw [VecRegs.itemWidth_pred hpred, ← hat] at hget
  rw [State.pbit, VecRegs.itemWidth_pred hpred, hget, beq_eq_false_iff_ne.2 (by omega), Bool.false_or]
  rfl

end

/-! ### The instruction -/

/-- An accepted record without poison, saved with ILL clear: `vrest` once its items are read. -/
theorem exec_vrest_items {s : State} {d a : Reg} {hdr : List Byte} {after : Word} {t u : State} {saved : VecRegs} {svl : Nat} (h : Idle s)
    (ha : (s.xr a).toNat % 64 = 0) (hl : loadWords (s.xr a) 32 s = .ok hdr t) (hok : headerOk hdr t.hart.grant.vsz.toNat = true)
    (hill : (headerWord hdr 0x60).getLsbD 5 = false) (hpsn : (headerWord hdr 0x70).getLsbD 32 = false)
    (hsaved : t.hart.vec.restore t.hart.grant.vsz.toNat hdr = saved) (hsvl : (headerWord hdr 0x08).toNat = svl)
    (hitems : restItems saved.itemWidth svl (fun j x s => s.restItem saved j (min svl saved.vcap) x) saved.items 0 (s.xr a + 256#64)
      (t.updVec fun _ => saved) = .ok after u) :
    exec (.vrest d a) s = .next (((u.updVec fun w => { w with
      vl := BitVec.ofNat 14 (min svl saved.vcap), resized := decide (w.vcap < svl) }).setX d (after - s.xr a)).advance) := by
  subst hsaved hsvl
  refine finish_ok (m := vrestBody d a) ?_
  rw [vrestBody_eq h ha hl, hok, Bool.not_true, if_neg Bool.false_ne_true, M.set_bind, hill, hpsn]
  rw [if_neg Bool.false_ne_true]
  refine (M.bind_ok hitems).trans ?_
  rw [if_neg Bool.false_ne_true]
  rfl

/-- The registers of a supported request have ILL clear and fit the share. -/
theorem savedRegs_of_isSome (v : VecRegs) {vsz : Nat} {hdr : List Byte} (h : (lengthOf vsz (hdrWord hdr 0)).isSome = true) :
    (savedRegs v vsz hdr).ill = false ∧ (savedRegs v vsz hdr).Fits vsz := by
  obtain ⟨b, hb⟩ := Option.isSome_iff_exists.1 h
  have hill : (savedRegs v vsz hdr).ill = (lengthOf vsz (hdrWord hdr 0)).isNone := rfl
  have hlen : (savedRegs v vsz hdr).b = (lengthOf vsz (hdrWord hdr 0)).getD 0 := rfl
  rw [hb] at hill hlen
  exact ⟨hill, VecRegs.fits_of_lengthOf (r := hdrWord hdr 0) rfl (hb.trans (congrArg some hlen.symm))⟩

/-! #### The registers of control do not matter to where the items stand -/

theorem State.shareBit_updVec (s : State) (g : VecRegs → VecRegs) : (s.updVec g).shareBit (s.updVec g).cur = s.shareBit s.cur :=
  State.shareBit_congr rfl rfl rfl

theorem outsideShare_updVec {s : State} {g : VecRegs → VecRegs} {y : Nat} : OutsideShare (s.updVec g) y ↔ OutsideShare s y := by
  unfold OutsideShare
  rw [State.shareBit_updVec]
  rfl

theorem State.itemAt_updVec (s : State) (g : VecRegs → VecRegs) (v : VecRegs) (j : Nat) : (s.updVec g).itemAt v j = s.itemAt v j := by
  by_cases hj : j < v.nregs
  · rw [State.itemAt_reg _ hj, State.itemAt_reg _ hj, State.shareBit_updVec]
  · rw [State.itemAt_pred _ hj, State.itemAt_pred _ hj, State.shareBit_updVec]

theorem Restored.of_updVec {s : State} {g : VecRegs → VecRegs} {v : VecRegs} {pa svl n j : Nat} {mem : List Host.Cell}
    (h : Restored (s.updVec g) v pa svl n j mem) : Restored s v pa svl n j mem := by
  obtain ⟨hwf, houtside, hbits⟩ := h
  simp only [outsideShare_updVec, State.itemAt_updVec] at houtside hbits
  exact ⟨hwf, houtside, hbits⟩

section
variable {s : State} {d a : Reg} {p : Nat} {hdr : List Byte} {saved : VecRegs} {svl : Nat}

/-- A record whose words lie in a READY plate is restored, and read to its end. -/
theorem ends_vrest_items (h : PlateAccess s (s.xr a) 8 p) (ha : (s.xr a).toNat % 64 = 0) (hwf : Mem.wf s.m.mem = true)
    (hl : loadWords (s.xr a) 32 s = .ok hdr s) (hok : headerOk hdr s.hart.grant.vsz.toNat = true) (hill : (headerWord hdr 0x60).getLsbD 5 = false)
    (hpsn : (headerWord hdr 0x70).getLsbD 32 = false) (hsaved : s.hart.vec.restore s.hart.grant.vsz.toNat hdr = saved)
    (hsvl : (headerWord hdr 0x08).toNat = svl) (hshare : ShareInCluster s) (hfits : saved.Fits s.hart.grant.vsz.toNat)
    (hofs : plateOfs (s.xr a) + 8 * saved.restIndex svl saved.items ≤ 0x40000) :
    ∃ t mem x, exec (.vrest d a) s = .next t ∧ Gets s t d (BitVec.ofNat 64 (8 * saved.restIndex svl saved.items)) ∧
      t = { s with hart := { s.hart with
                     vec := { saved with vl := BitVec.ofNat 14 (min svl saved.vcap), resized := decide (saved.vcap < svl) },
                     regs := { s.hart.regs with x := x }, pc := s.hart.pc + 4#64 },
                   m := { s.m with mem := mem } } ∧
      Restored s saved (platePhys s (s.xr a) p) svl (min svl saved.vcap) saved.items mem := by
  obtain ⟨hcur, hidle, -⟩ := id h
  have hplate : PlateAccess (s.updVec fun _ => saved) (s.xr a) 8 p := h
  obtain ⟨mem, hloop, hmem⟩ := restItems_ok hplate ⟨hcur, hshare.fits⟩ hfits hwf hofs
  have hexec := exec_vrest_items (d := d) hidle ha hl hok hill hpsn hsaved hsvl hloop
  rw [add_sub_cancel_left] at hexec
  obtain ⟨hgets, x, hx⟩ := writesX_updVec (s.withMem mem)
    (fun _ => { saved with vl := BitVec.ofNat 14 (min svl saved.vcap), resized := decide (saved.vcap < svl) }) d
    (BitVec.ofNat 64 (8 * saved.restIndex svl saved.items))
  exact ⟨_, mem, x, hexec, hgets, hx, hmem.of_updVec⟩

end

/-- The words before an item, in bytes. -/
theorem VecRegs.mul_restIndex (v : VecRegs) (svl j : Nat) :
    8 * v.restIndex svl j = 256 + 8 * ((List.range j).map fun i => (svl * v.itemWidth i + 63) / 64).sum := Nat.mul_add 8 32 _

/-- The data of an item, by its offset in bytes. -/
theorem State.restData_eq (s : State) (v : VecRegs) (pa svl j : Nat) : s.restData v pa svl j =
    storedNat s (pa + (256 + 8 * ((List.range j).map fun i => (svl * v.itemWidth i + 63) / 64).sum)) (8 * ((svl * v.itemWidth j + 63) / 64)) := by
  rw [State.restData, v.mul_restIndex]
  rfl

/-- ILL is a field of its own. -/
theorem VecRegs.ill_false {v : VecRegs} (h : v.ill = false) (vl : BitVec 14) (resized : Bool) :
    ({ v with vl := vl, resized := resized } : VecRegs) = { v with ill := false, vl := vl, resized := resized } := by
  rw [← h]

section
variable {s : State} {d a : Reg} {p : Nat} {hdr : List Byte} {saved : VecRegs} {svl : Nat}

/-- An accepted record of a configuration that is not ill, without poison, whose words lie in a READY plate, is restored. -/
theorem ends_vrest (h : PlateAccess s (s.xr a) 8 p) (ha : (s.xr a).toNat % 64 = 0) (hwf : Mem.wf s.m.mem = true)
    (hhdr : s.headerAt (platePhys s (s.xr a) p) = hdr) (hsaved : savedRegs s.hart.vec s.hart.grant.vsz.toNat hdr = saved)
    (hsvl : hdrWord hdr 0x08 = svl) (hok : acceptedHeader s.hart.grant.vsz.toNat hdr) (hill : (hdrWord hdr 0x60).testBit 5 = false)
    (hpsn : (hdrWord hdr 0x70).testBit 32 = false) (hvoff : s.hart.grant.voff.toNat + s.hart.grant.vsz.toNat ≤ 512)
    (hofs : plateOfs (s.xr a) + (256 + 8 * ((List.range saved.items).map fun i => (svl * saved.itemWidth i + 63) / 64).sum) ≤ 0x40000) :
    let n := min svl saved.vcap
    let wd := saved.itemWidth
    let ofs := fun (j : Nat) => 256 + 8 * ((List.range j).map fun i => (svl * wd i + 63) / 64).sum
    let item := fun (j e : Nat) => storedNat s (platePhys s (s.xr a) p + ofs j) (8 * ((svl * wd j + 63) / 64)) / 2 ^ (e * wd j) % 2 ^ wd j
    ∃ t mem x, exec (.vrest d a) s = .next t ∧ Gets s t d (BitVec.ofNat 64 (ofs saved.items)) ∧
      t = { s with hart := { s.hart with
                     vec := { saved with ill := false, vl := BitVec.ofNat 14 n, resized := decide (saved.vcap < svl) },
                     regs := { s.hart.regs with x := x }, pc := s.hart.pc + 4#64 },
                   m := { s.m with mem := mem } } ∧
      (∀ k e, k < saved.nregs → e < n → (e + 1) * wd k ≤ saved.b → t.getBits (t.velAt saved k e (wd k)) (wd k) = item k e) ∧
      (∀ j e, 1 ≤ j → j < 32 → e < n → t.pbit saved j e = decide (item (saved.nregs + j - 1) e = 1)) ∧
      ∀ y, OutsideShare s y → Mem.read mem y = Mem.read s.m.mem y := by
  intro n wd ofs item
  obtain ⟨hcur, -⟩ := id h
  obtain ⟨-, -, -, -, hreq⟩ := id hok
  have hlen : (lengthOf s.hart.grant.vsz.toNat (hdrWord hdr 0)).isSome = true := hreq.resolve_left (by rw [hill]; exact Bool.false_ne_true)
  obtain ⟨hnot, hfits⟩ := savedRegs_of_isSome s.hart.vec hlen
  rw [hsaved] at hnot hfits
  rw [← VecRegs.mul_restIndex] at hofs
  have hload := h.loadHeader (by have : 32 ≤ saved.restIndex svl saved.items := Nat.le_add_right ..; omega)
  rw [hhdr] at hload
  have hshare : ShareInCluster s := ⟨hcur, hvoff⟩
  obtain ⟨t, mem, x, hexec, hgets, ht, hmem⟩ := ends_vrest_items h ha hwf hload (headerOk_iff.2 hok) (by rw [getLsbD_headerWord]; exact hill)
    (by rw [getLsbD_headerWord]; exact hpsn) ((VecRegs.restore_eq ..).trans hsaved) ((toNat_headerWord ..).trans hsvl) hshare hfits hofs
  have hn : n ≤ saved.vcap := Nat.min_le_right ..
  have hmemt : t.m.mem = mem := by rw [ht]
  have hbit : t.shareBit t.cur = s.shareBit s.cur := by
    rw [ht]
    exact State.shareBit_congr rfl rfl rfl
  have hitem : ∀ j e, item j e = s.restData saved (platePhys s (s.xr a) p) svl j / 2 ^ (e * wd j) % 2 ^ wd j := fun j e => by rw [s.restData_eq]
  refine ⟨t, mem, x, hexec, ?_, ?_, fun k e hk he hb => ?_, fun j e hj hj' he => ?_, hmem.outside⟩
  · rw [VecRegs.mul_restIndex] at hgets
    exact hgets
  · rw [ht, VecRegs.ill_false hnot]
  · rw [hitem]
    exact hmem.velAt hshare hfits hn hmemt hbit hk he hb
  · rw [hitem]
    exact hmem.pbit hshare hfits hn hmemt hbit hj hj' he

end

end Sys2Proof.Machine
end

section
/-! PROOF. O28: the vector configuration instructions, counts, elements and records (spec/09 R255, R256, spec/15 R371 to R377). -/
namespace Sys2Proof.Machine
set_option Elab.async false

theorem ends_vsetl {s : State} (h : Idle s) (hill : s.hart.vec.ill = false) (hcap : s.hart.vec.vcap < 2 ^ 14) (d a : Reg) :
    ∃ t, exec (.vsetl d a) s = .next t ∧ t.hart.vec = { s.hart.vec with vl := BitVec.ofNat 14 (min (s.xr a).toNat s.hart.vec.vcap) } ∧
      t.xr d = (if d = 0#5 then 0#64 else BitVec.ofNat 64 (min (s.xr a).toNat s.hart.vec.vcap)) ∧ (∀ r, r ≠ d → t.xr r = s.xr r) ∧
      t.m = s.m ∧ t.hart.pc = s.hart.pc + 4#64 := by
  obtain ⟨⟨hd, hother⟩, x, hx⟩ := writesX_updVec s (fun v => { v with vl := s.hart.vec.clampVl (s.xr a).toNat }) d
    ((s.hart.vec.clampVl (s.xr a).toNat).zeroExtend 64)
  exact ⟨_, exec_vsetl h hill d a, by rw [hx]; rfl, by rw [hd, zeroExtend_clampVl hcap], hother, by rw [hx], by rw [hx]⟩

theorem exec_vsetrows (s : State) (d a : Reg) : exec (.vsetrows d a) s = .next
    (((s.updVec fun v => { v with vrows := clampRows (s.xr a).toNat }).setX d ((clampRows (s.xr a).toNat).zeroExtend 64)).advance) :=
  finish_ok (m := vsetrowsBody d a) rfl

theorem ends_vsetrows (s : State) (d a : Reg) :
    ∃ t, exec (.vsetrows d a) s = .next t ∧ t.hart.vec = { s.hart.vec with vrows := BitVec.ofNat 4 (max 1 (min (s.xr a).toNat 8)) } ∧
      t.xr d = (if d = 0#5 then 0#64 else BitVec.ofNat 64 (max 1 (min (s.xr a).toNat 8))) ∧ (∀ r, r ≠ d → t.xr r = s.xr r) ∧
      t.m = s.m ∧ t.hart.pc = s.hart.pc + 4#64 := by
  obtain ⟨⟨hd, hother⟩, x, hx⟩ := writesX_updVec s (fun v => { v with vrows := clampRows (s.xr a).toNat }) d
    ((clampRows (s.xr a).toNat).zeroExtend 64)
  exact ⟨_, exec_vsetrows s d a, by rw [hx, clampRows_eq], by rw [hd, zeroExtend_clampRows], hother, by rw [hx], by rw [hx]⟩

section
variable {s t : State} {d a : Reg} {hdr : List Byte} (h : Idle s) (ha : (s.xr a).toNat % 64 = 0) (hl : loadWords (s.xr a) 32 s = .ok hdr t)
include h ha hl

/-- A header that is not acceptable, wherever it was loaded from. -/
theorem vrest_refused (hok : headerOk hdr t.hart.grant.vsz.toNat = false) : ∃ u, exec (.vrest d a) s = .next u ∧ u.hart.vec.ill = true ∧
    u.hart.vec.vl = 0#14 ∧ u.xr d = 0#64 ∧ u.m = t.m ∧ u.hart.pc = t.hart.pc + 4#64 := by
  obtain ⟨⟨hd, -⟩, x, hx⟩ := writesX_updVec t (fun v => { v with ill := true, vl := 0#14 }) d 0#64
  rw [ite_self] at hd
  exact ⟨_, exec_vrest_refused h ha hl hok, by rw [hx], by rw [hx], hd, by rw [hx], by rw [hx]⟩

/-- A record that was saved with ILL set, wherever it was loaded from. -/
theorem vrest_ill (hok : headerOk hdr t.hart.grant.vsz.toNat = true) (hill : (headerWord hdr 0x60).getLsbD 5 = true) :
    ∃ u, exec (.vrest d a) s = .next u ∧ u.hart.vec.ill = true ∧ u.hart.vec.vl = 0#14 ∧ u.xr d = (if d = 0#5 then 0#64 else 256#64) ∧
      u.hart.vec.vtaglo = headerWord hdr 0x38 ∧ u.hart.vec.vtaghi = headerWord hdr 0x40 ∧ u.m = t.m := by
  obtain ⟨⟨hd, -⟩, x, hx⟩ := writesX_updVec t (fun v => { v.restore t.hart.grant.vsz.toNat hdr with ill := true, vl := 0#14 }) d 256#64
  exact ⟨_, exec_vrest_ill h ha hl hok hill, by rw [hx], by rw [hx], hd, by rw [hx]; rfl, by rw [hx]; rfl, by rw [hx]⟩

end

/-- Settles O28: each instruction by what it computes; `vsave` and `vrest` in a plate word by word, and what `vrest` restores bit by bit of the
share, by induction over the items of the record and over the elements of an item. -/
theorem vectorConfigurationAndState : Obligations.VectorConfigurationAndState := by
  unfold Obligations.VectorConfigurationAndState
  refine ⟨fun s d a h => ⟨ends_vcfg h d a, fun hill hcap => ends_vsetl h hill hcap d a, fun hill hs => exec_vsetl_ill hill hs d a,
    ends_vsetrows s d a, ends_vtag s d a⟩, fun s d a b h => ⟨fun hm hadm => yields_pcnt h hm hadm, fun hm hmbx hadm => yields_vext h hm hmbx hadm,
    fun hs ha i hi => traps_saveMisaligned h hs ha hi, fun ha => ⟨fun hill t hstore => exec_vsave_ill h ha hill hstore,
      fun hill items t u hitems => ?_, fun hdr t hl => ⟨vrest_refused h ha hl, vrest_ill h ha hl⟩⟩, fun p hp ha hwf => ⟨?_, fun hofs => ⟨?_, ?_⟩, ?_⟩⟩⟩
  · exact fun hstore => exec_vsave h ha (by rw [hill]; exact hitems) hstore
  · exact ends_vsave hp ha hwf
  · exact ends_vrest_refused hp hofs ha
  · exact ends_vrest_ill hp hofs ha
  · exact fun hok hill hpsn hvoff hofs => ends_vrest hp ha hwf rfl rfl rfl hok hill hpsn hvoff hofs

end Sys2Proof.Machine
end
